-- ==== Sys2Proof/Word.lean ====
section
/-! DEFINITION. The word types of the Waloc 9 module and the plainest helpers on them: the byte,
the 64-bit register word, and the cutting of a natural number into the spec's [msb:lsb] fields (R4). -/

namespace Sys2Proof

/-- One byte of memory. -/
abbrev Byte := BitVec 8

/-- A 64-bit register or address word. -/
abbrev Word := BitVec 64

/-- Field [hi:lo] of a word held as a natural number (R4). -/
def bitsOf (w hi lo : Nat) : Nat := (w >>> lo) % 2 ^ (hi + 1 - lo)

/-- One bit of a word held as a natural number. -/
def bitOf (w i : Nat) : Bool := w.testBit i

/-- The word with field [hi:lo] replaced by `v` (taken modulo the field's width). -/
def setBits (w hi lo v : Nat) : Nat :=
  w - bitsOf w hi lo * 2 ^ lo + (v % 2 ^ (hi + 1 - lo)) * 2 ^ lo

/-- A little-endian number from its bytes, the first byte lowest (R4). -/
def leNat : List Byte → Nat
  | [] => 0
  | b :: bs => b.toNat + 256 * leNat bs

/-- The `n` little-endian bytes of a number (R4). -/
def leBytes : Nat → Nat → List Byte
  | 0, _ => []
  | n + 1, w => BitVec.ofNat 8 w :: leBytes n (w / 256)

/-- Two's complement reading of the low `n` bits of `w`. -/
def signedOf (n w : Nat) : Int :=
  let v := w % 2 ^ n
  if v < 2 ^ (n - 1) then (v : Int) else (v : Int) - (2 ^ n : Nat)

/-- The low `n` bits of an integer in two's complement. -/
def unsignedOf (n : Nat) (i : Int) : Nat := (i % ((2 ^ n : Nat) : Int)).toNat

end Sys2Proof
end

