-- ==== Sys2Proof/Syntax.lean ====
section
/-! DEFINITION. The commands and events of the module: one constructor per row of the table of operations and
events, with the operands that name where it happens and what the surroundings supply. -/

namespace Sys2Proof

/-! ### Fields of the tile instructions (Tables 05.7 to 05.15) -/

structure RdregF where
  gd : Nat
  index : Nat
  deriving DecidableEq, Repr

structure WrregF where
  ga : Nat
  index : Nat
  deriving DecidableEq, Repr

structure LiF where
  gd : Nat
  imm : Nat
  deriving DecidableEq, Repr

structure AddiF where
  gd : Nat
  ga : Nat
  imm : Nat
  deriving DecidableEq, Repr

structure AluF where
  gd : Nat
  ga : Nat
  gb : Nat
  op : Nat
  deriving DecidableEq, Repr

structure BrF where
  ga : Nat
  gb : Nat
  cond : Nat
  target : Nat
  deriving DecidableEq, Repr

structure LoopF where
  lc : Nat
  creg : Nat
  imm : Nat
  stop : Nat
  deriving DecidableEq, Repr

structure SigF where
  treg : Nat
  pair : Nat
  ctr : Nat
  count : Nat
  scope : Nat
  deriving DecidableEq, Repr

structure WaitF where
  pair : Nat
  ctr : Nat
  count : Nat
  deriving DecidableEq, Repr

structure StreamF where
  ref : Nat
  engine : Nat
  channel : Nat
  sreg : Nat
  dreg : Nat
  sig : Bool
  pair : Nat
  ctr : Nat
  deriving DecidableEq, Repr

structure StwaitF where
  engine : Nat
  channel : Nat
  deriving DecidableEq, Repr

structure HcsendF where
  ref : Nat
  areg : Nat
  len : Nat
  deriving DecidableEq, Repr

structure TreeF where
  ref : Nat
  lreg : Nat
  op : Nat
  level : Nat
  channel : Nat
  dstfmt : Nat
  areg : Nat
  deriving DecidableEq, Repr

structure VopF where
  func : Nat
  dst : Nat
  src1 : Nat
  src2 : Nat
  src3 : Nat
  lreg : Nat
  wide : Bool
  deriving DecidableEq, Repr

structure VredF where
  func : Nat
  dst : Nat
  src : Nat
  lreg : Nat
  wide : Bool
  dstfmt : Nat
  deriving DecidableEq, Repr

structure CvtF where
  dst : Nat
  src : Nat
  srcfmt : Nat
  dstfmt : Nat
  rm : Nat
  nanmode : Bool
  ireg : Nat
  lreg : Nat
  scaled : Bool
  deriving DecidableEq, Repr

structure MergeF where
  dst : Nat
  src1 : Nat
  src2 : Nat
  headDim : Nat
  rows : Nat
  deriving DecidableEq, Repr

structure MmaF where
  param : Nat
  dst : Nat
  rowout : Bool
  rowmag : Bool
  areg : Nat
  breg : Nat
  kreg : Nat
  deriving DecidableEq, Repr

structure AttF where
  param : Nat
  bwd : Bool
  init : Bool
  final : Bool
  kvreg : Nat
  nreg : Nat
  deriving DecidableEq, Repr

/-! ### What the surroundings supply -/

/-- Host memory as a command's reads find it: bytes, the 64 B granules that a completion marked poisoned, and
the granules whose reads or writes meet an error response. DESIGN CHOICE: log entry 5. -/
structure HostView where
  data : List Host.Cell
  poison : List Nat
  failRead : List Nat
  failWrite : List Nat
  deriving DecidableEq, Repr

/-- A host write to BAR0: offset, length in bytes, value. -/
structure RegWrite where
  offset : Nat
  len : Nat
  value : Nat
  deriving DecidableEq, Repr

/-- Which rail left its window (R465). -/
inductive RailKind where
  | regional
  | bus
  | other
  deriving DecidableEq, Repr

/-- Where a stream transfer comes from: a tile's STREAM, or a STREAM descriptor of a submission ring. -/
inductive StreamFrom where
  | tile (t : Nat) (f : StreamF) (view : HostView)
  | ring (ring index : Nat) (view : HostView)
  deriving DecidableEq, Repr

/-- Whose handcart message leaves: a tile's stream port, or a stream channel. -/
inductive PortFrom where
  | tile (t : Nat)
  | chan (ch : Nat)
  deriving DecidableEq, Repr

/-- A part of an object's copy: the object, and the place of the target tile in its placement (R278). -/
structure ObjPart where
  obj : Nat
  place : Nat
  deriving DecidableEq, Repr

/-- A request to stacked memory at a channel's ordering point: a read of `len` bytes, or a write of `data`. -/
structure MemAccess where
  source : Nat
  addr : Nat
  write : Bool
  len : Nat
  data : List Byte
  /-- the tags of a write, one bit for each 64 B granule of the 256 B (R264) -/
  poison : Nat
  deriving DecidableEq, Repr

/-! ### The commands -/

/-- A command or event. Tiles are logical tile numbers; a stream channel is unit·2048 + engine·16 + channel;
a memory channel is stack·128 + channel; a descriptor is named by its submission ring and its count. -/
inductive Instr where
  /-- POWER_ON (R510). The 56 V input reaches 50 V and the module runs the boot sequence to READY, resetting every class to its P entry. -/
  | powerOn (puf slot : Nat) (failA failB early : Bool)
  /-- PERST_ASSERT (R511). PERST# is asserted and the module waits with the stacks in self-refresh. -/
  | perstAssert
  /-- PERST_DEASSERT (R511). PERST# is released and reset kind F runs boot steps 3 to 8 without the PUF read or the stacked-memory zero fill. -/
  | perstDeassert (slot : Nat) (failA failB early : Bool)
  /-- HOT_RESET (R519). A PCIe hot reset or the PCIe link going down starts reset kind H. -/
  | hotReset
  /-- FUNCTION_LEVEL_RESET (R519). A PCIe Function Level Reset starts reset kind L. -/
  | functionLevelReset
  /-- WARM_RESET (R519). Writing 1 to HIF_DEV_CTL.WARM starts reset kind W. -/
  | warmReset
  /-- FABRIC_RESET (R519). Writing 1 to BOOT_RESET_CTL.FABRIC starts reset kind B on the compute dies, ends any step as aborted and marks tile-tier objects STALE. -/
  | fabricReset
  /-- SAFE_STATE (R474). A detected limit stops the fabric and the links, puts the stacks in self-refresh, opens the breaker where required and completes reset kind S. -/
  | safeState (railsHold pd0 : Bool)
  /-- INPUT_OVERCURRENT (R465). The input current exceeds the breaker limit and the breaker opens, starting the safe state. -/
  | inputOvercurrent (milliamps ns : Nat)
  /-- RAIL_WINDOW (R465). A rail, or the 56 V bus, stays outside its window for 10 µs and the module enters the safe state. -/
  | railWindow (rail : RailKind) (millivolts setPoint ns : Nat)
  /-- DIE_TEMP_SAMPLE (R465). Each die sensor is read every 20 µs and filtered; reaching 115 °C starts the safe state. -/
  | dieTempSample (temps : List Nat)
  /-- COOLANT_CHECK (R466). At the end of each 50 ms window the module infers coolant loss from the die temperature rise at steady power. -/
  | coolantCheck (before after : List Nat) (power lowest highest : Nat)
  /-- LIMITER_ACT (R530). The demand exceeds 94 A and the current limiter holds the bus current, supplying the rest from the bulk capacitance. -/
  | limiterAct (milliamps : Nat)
  /-- LIMITER_SUSTAINED (R530). The limiter has held 94 A for 10 ms without a break, so the breaker opens as for an input overcurrent. -/
  | limiterSustained
  /-- LIMITER_RELEASE (R530). The demand falls back below 94 A and the limiter releases. -/
  | limiterRelease (milliamps : Nat)
  /-- POWER_LIMIT_WINDOW (R529). At the end of each 10 ms average the governors hold, or lower, the rails to keep the input power at SAF_POWER_CTL.LIMIT. -/
  | powerLimitWindow (watts : Nat)
  /-- RIPPLE_MEASURE (R532). Once per second the input ripple is measured into SAF_INPUT.RIPPLE, and ST_INPUT_RIPPLE is posted when it exceeds 1,000 mV. -/
  | rippleMeasure (millivolts : Nat)
  /-- PRESENT_MATE (R533). PRESENT_N mates, is debounced, and the hot-swap switch ramps the switched node. -/
  | presentMate
  /-- PRESENT_PART (R533). PRESENT_N parts and the hot-swap switch opens before the bus bars part. -/
  | presentPart
  /-- PACE_WINDOW (R23). At the end of each 10 µs window the governor measures the pace of each region and trims its rail by one 2.5 mV step. -/
  | paceWindow (die : Nat) (paces : List Nat)
  /-- PACE_SHORT_CLEAR (R25). A short region has held the target for 1 ms, so its bit clears. -/
  | paceShortClear (die region : Nat)
  /-- MARGIN_REPORT (R26). Once per second the governor reports each region's lost voltage margin to the health monitor. -/
  | marginReport (margins : List Nat)
  /-- TILE_REPAIR (R16). At a step boundary a pending repair sets the new FIRST_ROW and copies the column tail down one physical row. -/
  | tileRepair (t : Nat)
  /-- TILE_REPAIR_DONE (R16). The repair copy completes, the logical tile is mapped onto its spare, and the new FIRST_ROW is scheduled for the flash health area. -/
  | tileRepairDone (t : Nat)
  /-- NOP (R187). The tile issues a NOP, which has no effect. -/
  | nop (t : Nat)
  /-- END (R183). The tile issues END and stops issue until its outstanding work completes. -/
  | end_ (t : Nat)
  /-- TILE_END_DONE (R183). All work started before END has completed, so the tile reports itself done for the step, enters PARKED and starts any held release. -/
  | tileEndDone (t : Nat)
  /-- RDREG (R188). The tile copies a tile register into a scalar register. -/
  | rdreg (t : Nat) (f : RdregF)
  /-- WRREG (R188). The tile writes a tile register field by field under its access codes, clearing CMP_ASW flags written with 1. -/
  | wrreg (t : Nat) (f : WrregF)
  /-- FENCE (R187). The tile issues FENCE and waits until every issued instruction has completed. -/
  | fence (t : Nat)
  /-- FENCE_SATISFIED (R187). Every instruction issued before a FENCE has completed, so issue resumes. -/
  | fenceSatisfied (t : Nat)
  /-- TRAP (R188). The tile raises ST_PROG_TRAP with its code as a program fault. -/
  | trap (t code : Nat)
  /-- LI (R189). A scalar register is loaded with a sign-extended 40-bit immediate. -/
  | li (t : Nat) (f : LiF)
  /-- ADDI (R189). A scalar register receives another plus a sign-extended immediate, modulo 2^64. -/
  | addi (t : Nat) (f : AddiF)
  /-- ALU (R189). A scalar ALU operation named by OP is applied to two registers. -/
  | alu (t : Nat) (f : AluF)
  /-- BR (R189). A conditional branch is predicted, resolves 2 hc after issue, and may end an active loop. -/
  | br (t : Nat) (f : BrF)
  /-- JMP (R189). The PC is set to TARGET, and any active loop whose body the target leaves becomes inactive. -/
  | jmp (t target : Nat)
  /-- LOOP (R190). A hardware loop starts on a loop counter with a count taken from a register or the immediate. -/
  | loop (t : Nat) (f : LoopF)
  /-- LOOP_EXIT (R190). A loop counter reaches 0 after the instruction at END issues, and the loop becomes inactive. -/
  | loopExit (t lc : Nat)
  /-- LOCKSTEP_MISMATCH (R175). The lockstep checker finds the two sequencer copies differ, so both reload their earlier state and run the instruction again. -/
  | lockstepMismatch (t : Nat)
  /-- SIG (R192). The tile signals a semaphore counter of its own or of another tile, which may be on another module. -/
  | sig (t : Nat) (f : SigF)
  /-- WAIT (R193). The tile waits on a semaphore counter until it holds the count and then subtracts it. -/
  | wait (t : Nat) (f : WaitF)
  /-- WAIT_SATISFIED (R117). A waited counter reaches the count, which is subtracted, and issue resumes. -/
  | waitSatisfied (t : Nat)
  /-- COPY (R295). A stream transfer of kind COPY is accepted and checked, then moves the source byte sequence to the destination pattern. -/
  | copy (by_ : StreamFrom)
  /-- COMPRESS (R308). A stream transfer of kind COMPRESS encodes a raw source into a compressed area or run, building a code table where named. -/
  | compress (by_ : StreamFrom)
  /-- AREA_READ (R309). A stream transfer of kind AREA_READ reads blocks and table parts of a compressed area out as a run. -/
  | areaRead (by_ : StreamFrom)
  /-- LANDED (R304). A landed fence is accepted and holds its channel until every earlier write of the channel is acknowledged. -/
  | landed (by_ : StreamFrom)
  /-- STREAM_DESCRIPTOR_START (R291). An accepted descriptor reaches the head of its channel queue and the channel starts carrying it out. -/
  | streamDescriptorStart (ch : Nat) (view : HostView)
  /-- CHAIN_SLOT_GRANT (R311). A channel waiting on its pair finds the counter at least 1, subtracts 1 and starts the next slot. -/
  | chainSlotGrant (ch : Nat) (view : HostView)
  /-- STREAM_COMPLETE (R303). The last write of a transfer leaves the engine, so the issuing tile's pair is signalled and a ring completion is written. -/
  | streamComplete (ch : Nat)
  /-- SLOT_SIGNAL (R311). Every write or read of a slot has been acknowledged or has returned, so the channel signals SIG_TARGET by one. -/
  | slotSignal (ch : Nat)
  /-- LANDED_COMPLETE (R304). Every write that a fence covers has been acknowledged, so the fence completes and signals SIG_TARGET when SLOT_SIG is set. -/
  | landedComplete (ch : Nat) (ok : Bool)
  /-- BUS_ERROR (R306). A read or write of a transfer meets an error response, so the transfer completes with the read or write error status and the failure offset. -/
  | busError (ch : Nat) (view : HostView)
  /-- STWAIT (R195). The tile waits until its transfers on one engine and channel have completed. -/
  | stwait (t : Nat) (f : StwaitF)
  /-- STWAIT_SATISFIED (R195). Every transfer that the tile started on the named channel is complete, so issue resumes. -/
  | stwaitSatisfied (t : Nat)
  /-- HCSEND (R315). The tile checks a handcart message and queues it in its stream port. -/
  | hcsend (t : Nat) (f : HcsendF)
  /-- HANDCART_LEAVE (R316). A queued handcart message or signal finds room at the mesh link or in the replay store and leaves, with IDENT written. -/
  | handcartLeave (from_ : PortFrom)
  /-- HANDCART_DELIVER (R316). A handcart message reaches its tile or channel target, writes its payload and applies its signal. -/
  | handcartDeliver (n : Nat)
  /-- MAILBOX_WRITE (R318). A message to a host mailbox with a free slot is written to that slot, IDENT last, and the mailbox vector is sent. -/
  | mailboxWrite (n : Nat)
  /-- TREE (R197). The tile contributes its input to a result-tree reduction on one tree channel. -/
  | tree (t : Nat) (f : TreeF)
  /-- TREE_NODE_COMBINE (R122). A tree node holds the m-th input of every child in the set and combines them in child order. -/
  | treeNodeCombine (channel level node : Nat)
  /-- VOP (R199). The vector engine applies an elementwise function to up to three sources. -/
  | vop (t : Nat) (f : VopF)
  /-- VRED (R198). The vector engine reduces L elements by sum, maximum or minimum. -/
  | vred (t : Nat) (f : VredF)
  /-- CVT (R57). The vector engine converts elements between formats in the named rounding mode, applying the tensor's scale when SCALED is set. -/
  | cvt (t : Nat) (f : CvtF)
  /-- MERGE (R77). The vector engine merges two attention row-state blocks in the wide format. -/
  | merge (t : Nat) (f : MergeF)
  /-- MMA (R90). A matrix multiply-accumulate is checked and issued, and the cells begin adding products into their running sums. -/
  | mma (t : Nat) (f : MmaF)
  /-- SEGMENT_VERIFY (R98). At the end of a segment the checksum residuals are compared with the tolerance, and a passing segment spills into the wide partial. -/
  | segmentVerify (t : Nat) (corrupt : List (Nat × Nat))
  /-- SEGMENT_RETRY_DONE (R100). A rerun of a failed segment ends, and the two attempts are judged under Table 03.4. -/
  | segmentRetryDone (t : Nat) (corrupt : List (Nat × Nat))
  /-- MMA_COMPLETE (R97). After the last spill the final RTO add and conversion are written to the accumulator file and the instruction completes. -/
  | mmaComplete (t : Nat)
  /-- ATT_FORWARD (R147). An attention pass updates the row state of a query block with one key/value block, or is skipped when the headers show no visible key. -/
  | attForward (t : Nat) (f : AttF)
  /-- ATT_BACKWARD (R155). A backward attention pass recomputes probabilities and accumulates dQ, dK and dV. -/
  | attBackward (t : Nat) (f : AttF)
  /-- INSTRUCTION_COMPLETE (R174). An issued instruction that took time writes its last result and flags, releasing hazards held on it. -/
  | instructionComplete (t : Nat) (att : Bool)
  /-- HAZARD_CLEAR (R107). The register-file or zone hazard holding back an instruction clears, and the instruction issues. -/
  | hazardClear (t : Nat)
  /-- TMEM_SCRUB (R115). The tile-memory scrub reads and corrects its next word at lowest priority. -/
  | tmemScrub (t : Nat) (upsets : List (Nat × Bool))
  /-- TMEM_SCRUB_PASS_END (R115). A 10 ms scrub pass ends, and a late one, which has not read every word, counts in SCRUB_LATE. -/
  | tmemScrubPassEnd (t : Nat) (late : Bool)
  /-- LIVENESS_ADVANCE (R467). The sequencer control stage advances the tile's liveness count every 256 hc. -/
  | livenessAdvance (t : Nat)
  /-- WATCHDOG_SAMPLE (R467). Once per millisecond each die's watchdog samples every liveness count and marks a tile stalled after 10 ms without change. -/
  | watchdogSample (die : Nat)
  /-- CMP_TILE_DATA_READ (R124). A host read returns the selected tile register as one untorn value. -/
  | cmpTileDataRead (offset : Nat := 0x400908) (len : Nat := 8)
  /-- CMP_TILE_DATA_WRITE (R124). A host write reaches the selected tile register under each field's access code. -/
  | cmpTileDataWrite (w : RegWrite)
  /-- TIM_NOW_READ (R458). An 8 B read of TIM_NOW returns untorn device time and latches FRAC. -/
  | timNowRead (offset : Nat := 0x600000) (len : Nat := 8)
  /-- REGISTER_WRITE (R8). A BAR0 write to a register with no row of its own updates its fields under their access codes; an unsupported access completes with Unsupported Request. -/
  | registerWrite (w : RegWrite)
  /-- ENABLE (R351). Writing 1 to HIF_DEV_CTL.ENABLE locks the RWL fields and starts the consistency check. -/
  | enable
  /-- CONSISTENCY_CHECK_DONE (R352). The consistency check ends and either enables the module with empty rings or records the first failing reason and disables it. -/
  | consistencyCheckDone (counterOk : Bool)
  /-- PARK (R521). Writing 1 to HIF_DEV_CTL.PARK requests Park, which takes effect once the step machinery is IDLE. -/
  | park
  /-- DEEP_PARK (R521). Writing 2 to HIF_DEV_CTL.PARK requests Deep park, with the stacks powered off after self-refresh. -/
  | deepPark
  /-- PARK_EXIT (R521). Writing 0 to HIF_DEV_CTL.PARK brings back rails, pace and stacks, and the links retrain to STANDBY. -/
  | parkExit
  /-- PARK_ENTRY (R521). A pending park takes effect at IDLE, stops fetching, parks the links, puts the stacks in self-refresh and lowers the rails. -/
  | parkEntry
  /-- D3HOT_ENTRY (R522). The function enters D3hot and runs the Park entry. -/
  | d3hotEntry
  /-- D0_RETURN (R522). The function returns to D0 and runs the Park exit unless PARK still holds. -/
  | d0Return
  /-- DOORBELL_POLL (R332). At the adaptive interval the module issues one read of the doorbell page. -/
  | doorbellPoll
  /-- DOORBELL_POLL_RESULT (R332). A poll returns, and the module updates the PRODUCED counts and adjusts the interval, or posts ST_DESC_FETCH_ERR on a bus error. -/
  | doorbellPollResult (view : HostView)
  /-- DESCRIPTOR_FETCH (R333). A ring with eligible descriptors is served by priority and up to 16 consecutive descriptors are read. -/
  | descriptorFetch
  /-- DESCRIPTOR_FETCH_RESULT (R333). Fetched descriptors return and those with a matching GEN are accepted, or the fetch error is posted. -/
  | descriptorFetchResult (view : HostView)
  /-- DESCRIPTOR_START (R337). An accepted descriptor whose earlier descriptors have started, or completed for ORDER, starts on its unit. -/
  | descriptorStart (ring index : Nat)
  /-- NOP_DESCRIPTOR (R336). A NOP descriptor completes with ST_OK. -/
  | nopDescriptor (ring index : Nat)
  /-- PROG_LOAD (R177). A PROG_LOAD is checked and then writes a program image to every target tile, which is LOADING meanwhile. -/
  | progLoad (ring index : Nat) (view : HostView)
  /-- PROG_LOAD_DONE (R177). Every target is written, so each gets SEQ_PROG and PARKED, the descriptor completes, and held releases go ahead. -/
  | progLoadDone (ring index : Nat)
  /-- KV_RESERVE (R159). A key/value reservation takes the lowest free range large enough, or is refused. -/
  | kvReserve (ring index : Nat)
  /-- KV_RELEASE (R160). A key/value reservation id is freed. -/
  | kvRelease (ring index : Nat)
  /-- OBJ_DEFINE (R276). An object entry is defined in the stacked tier with its home and size. -/
  | objDefine (ring index : Nat)
  /-- OBJ_PROMOTE (R276). An object is promoted to the tile tier and pinned, copying its home to the tiles or cancelling an eviction. -/
  | objPromote (ring index : Nat)
  /-- OBJ_EVICT (R276). An unpinned tile-tier object is copied back to its home and returns to TIER 1. -/
  | objEvict (ring index : Nat)
  /-- OBJ_UNPIN (R276). An object's pin count falls by one. -/
  | objUnpin (ring index : Nat)
  /-- OBJ_FREE (R276). An unpinned, unmoving object returns to TIER 0. -/
  | objFree (ring index : Nat)
  /-- OBJECT_COPY_DONE (R278). An object copy finishes, so the entry settles, target tiles are signalled and the descriptor completes. -/
  | objectCopyDone (part : ObjPart)
  /-- FLASH_WRITE (R515). A signed settings image is checked and, unless VERIFY_ONLY, written to the inactive flash device with its header last. -/
  | flashWrite (ring index : Nat) (view : HostView)
  /-- FLASH_WRITE_DONE (R516). The erase, program and read-back of a FLASH_WRITE end and it completes with its status. -/
  | flashWriteDone (ok : Bool)
  /-- COMPLETION_WRITE (R340). The coalescer writes queued completion records to a completion ring that has room. -/
  | completionWrite (cq : Nat)
  /-- EVENT_WRITE (R343). A queued event is written to the event ring when it has room, after an ST_EVENT_OVERFLOW record if events were dropped. -/
  | eventWrite
  /-- MOD_TIME_EXPIRY (R345). MOD_TIME has passed since the oldest pending record, so the vector is sent. -/
  | modTimeExpiry (cq : Option Nat)
  /-- STEP_ARM (R406). A STEP_ARM is checked and arms a training, eval or replay step for its release time. -/
  | stepArm (ring index : Nat) (view : HostView)
  /-- MB_ADMIT (R410). A micro-batch is checked and admitted to the armed step, its tokens digested into the input digest. -/
  | mbAdmit (ring index : Nat) (view : HostView)
  /-- STEP_RELEASE (R407). Device time reaches RELEASE_TIME of an armed step, or a held release goes ahead, and the module enters RUNNING and releases every tile. -/
  | stepRelease (view : HostView)
  /-- QUEUE_START (R404). A step descriptor at the head of its queue channel finds FULL at least 1 where WAIT is set and hands its work to the collective engine. -/
  | queueStart (ch : Nat) (view : HostView)
  /-- GATHER (R417). A GATHER all-gathers each member's shard and tag into a carriage. -/
  | gather (ring index : Nat) (view : HostView)
  /-- GATHER_LANDED (R418). A carriage has landed and its tag is recorded in forward or compared in backward, dropping micro-batches on a mismatch. -/
  | gatherLanded (ring index : Nat)
  /-- DROP_SYNC (R412). A DROP_SYNC closes the module's drop mask and combines the masks of a group by OR over a binary tree. -/
  | dropSync (ring index : Nat)
  /-- DROP_SYNC_COMPLETE (R413). The member holds the combined mask, and a LAST sync freezes it, sorts the log and checks the drop share. -/
  | dropSyncComplete (ring index : Nat)
  /-- GRAD_EXCHANGE (R423). A GRAD_EXCHANGE is checked and waits for the frozen drop mask. -/
  | gradExchange (ring index : Nat) (view : HostView)
  /-- GRAD_ENCODE_START (R424). The drop mask freezes, so each chunk is encoded with error feedback and sent to its owner, or sent empty. -/
  | gradEncodeStart (ring index : Nat)
  /-- CONTRIBUTION_RECEIVE (R426). An owner receives a gradient contribution and folds it into its chain in position order, writing the mean when FINAL. -/
  | contributionReceive (link : Nat)
  /-- COLL (R385). A collective reduce-scatter, all-gather or all-to-all is checked and started over a group. -/
  | coll (ring index : Nat) (view : HostView)
  /-- COLL_PACKET_RECEIVE (R389). A COLL packet arrives, is checked against SEQ, group and OP, and is added or copied into the destination. -/
  | collPacketReceive (link : Nat)
  /-- STEP_ABORT (R429). A STEP_ABORT descriptor aborts the named armed or running step with reason DRIVER. -/
  | stepAbort (ring index : Nat)
  /-- STEP_RUNNING_END (R402). Every released tile has completed END and every step descriptor has completed, so the step enters PARITY, or an eval or replay step finishes. -/
  | stepRunningEnd
  /-- PARITY_PARTIAL_RECEIVE (R482). A P or Q partial arrives from the preceding position and is passed on or written into the parity side. -/
  | parityPartialReceive (link : Nat)
  /-- PARITY_UPDATE_DONE (R482). Every piece has its WACK and every parity role is written, so the step enters GATE. -/
  | parityUpdateDone
  /-- VOTE_RECEIVE (R471). A gate vote arrives from a child or adopted child and is forwarded, or decided by the root. -/
  | voteReceive (link : Nat)
  /-- DECISION_RECEIVE (R472). A COMMIT or ABORT decision arrives and is forwarded to children. -/
  | decisionReceive (link : Nat)
  /-- TABLE_REBUILD_DONE (R235). A table builder finishes a rebuild and releases transfers and decodes waiting on the record. -/
  | tableRebuildDone (table : Nat)
  /-- ABORT_END (R430). Every tile is parked, so the aborted record is written, STEP_ARM completes, STATE returns to IDLE and any armed step is disarmed. -/
  | abortEnd
  /-- HEARTBEAT_SEND (R469). Every 1 ms the module sends a heartbeat to its gate parent and the children it has heard from. -/
  | heartbeatSend
  /-- GATE_PARTY_LOST (R469). Nothing is heard from a gate parent or child for 8 ms, or UNREACHABLE arrives, so that party is declared lost. -/
  | gatePartyLost (rank : Nat)
  /-- ISOLATION_TIMEOUT (R473). An isolated module has waited 10 ms without a decision, so it aborts with reason GATE and stays isolated. -/
  | isolationTimeout
  /-- HEALTH_EVALUATE (R477). Once per second the health monitor scores its inputs, sets the risk level and posts ST_RISK_RAISED on a rise. -/
  | healthEvaluate
  /-- ABSENT (R494). An ABSENT descriptor sets or clears an absent rank, naming a spare or hold, for a given release. -/
  | absent (ring index : Nat)
  /-- SPARE_FILL_DONE (R486). The last fill piece is written, the spare writes its tags, and the ABSENT completes on the spare. -/
  | spareFillDone
  /-- PIECE_REPAIR (R490). After a step ends, each marked committed piece is decoded from parity and written back. -/
  | pieceRepair (piece side : Nat)
  /-- MB_DROP (R491). An MB_DROP names micro-batches whose drop bits are set at the release of the armed step. -/
  | mbDrop (ring index : Nat)
  /-- SNAPSHOT (R495). A SNAPSHOT reads the committed side of every listed shard, and optionally parity, into an image. -/
  | snapshot (ring index : Nat) (view : HostView)
  /-- SNAPSHOT_LOAD (R496). A SNAPSHOT_LOAD writes both sides, tags and the committed step from an image while IDLE. -/
  | snapshotLoad (ring index : Nat) (view : HostView)
  /-- PARITY_INIT (R497). A PARITY_INIT encodes both parity sides of a group from full data strings. -/
  | parityInit (ring index : Nat)
  /-- ROUTE_LOAD (R381). A ROUTE_LOAD writes a route image into the standby bank and clears any armed swap. -/
  | routeLoad (ring index : Nat) (view : HostView)
  /-- ROUTE_ARM (R382). A ROUTE_ARM runs the route check on the standby bank and arms the swap for a later step. -/
  | routeArm (ring index : Nat)
  /-- ROUTE_PROBE (R380). A route probe arrives and the module answers with the HOPS of every rank in its bank. -/
  | routeProbe (link : Nat)
  /-- FLIT_SEND (R365). In each flit slot the sender transmits a resend, an LCTRL flit, a DATA flit with a credit, or IDLE. -/
  | flitSend (link : Nat)
  /-- FLIT_RECEIVE (R361). A flit arrives, its CRC is checked, credits and ACK are taken, and DATA flits are delivered in SEQ order or held. -/
  | flitReceive (link : Nat) (flit : List Byte)
  /-- NACK_RECEIVE (R361). A NACK arrives and the named flits are resent from the replay buffer. -/
  | nackReceive (link : Nat) (seqs : List Nat)
  /-- NACK_REPEAT (R362). A gap unfilled for 25 µs makes the receiver repeat its NACK. -/
  | nackRepeat (link : Nat)
  /-- REPLAY_TIMEOUT (R362). ACK has not advanced for 50 µs with flits held, so the oldest flit is resent. -/
  | replayTimeout (link : Nat)
  /-- LINK_SILENCE_TIMEOUT (R363). No flit with a good CRC has arrived for 10 µs, so the link goes down. -/
  | linkSilenceTimeout (link : Nat)
  /-- LINK_FINAL (R364). A LINK_FINAL arrives and the held packets from its SEQ on are resent over other links. -/
  | linkFinal (link : Nat)
  /-- LINK_FINAL_TIMEOUT (R364). No LINK_FINAL arrives within 1 ms, so the held packets are lost and ST_LNK_UNREACHABLE is posted. -/
  | linkFinalTimeout (link : Nat)
  /-- LANE_SPARE (R368). A lane loses lock or exceeds the error ratio, and the link retrains on the remaining lanes at a narrower rate. -/
  | laneSpare (link lane : Nat)
  /-- LINK_TRAIN_RETRY (R369). Every 10 ms a down link retrains and becomes STANDBY. -/
  | linkTrainRetry (link peerRank peerLink lanes : Nat)
  /-- LINK_RETRY_RATE_CHECK (R396). Once per second each link's retransmissions are checked and ST_LNK_RETRY_RATE is posted above 65,536. -/
  | linkRetryRateCheck
  /-- PACKET_RECEIVE (R371). A whole packet for this module arrives, its end-to-end CRC is checked, and it is applied and acknowledged. -/
  | packetReceive (link : Nat)
  /-- PACKET_FORWARD (R377). A whole packet for another rank is passed on by the route table, or discarded with UNREACHABLE. -/
  | packetForward (link : Nat)
  /-- UNREACHABLE (R377). An UNREACHABLE reaches the source, so the packet's transfer meets a bus error. -/
  | unreachable (link : Nat)
  /-- MESSAGE (R373). A handcart message from another module arrives and is applied in order, stored early, or discarded with a HOLD. -/
  | message (link : Nat)
  /-- HOLD (R373). A HOLD arrives and the source resends the message after the previous one is acknowledged. -/
  | hold (link : Nat)
  /-- HOLD_RESEND_TIMEOUT (R373). 50 µs after a HOLD the source resends the held message. -/
  | holdResendTimeout (rank order : Nat)
  /-- HANDCART_ACK (R373). Acknowledgements arrive on CTRL and free entries of the handcart replay store. -/
  | handcartAck (link : Nat)
  /-- READ_REQ (R374). A READ_REQ arrives and the peer reads and answers with READ_RESP packets or an error. -/
  | readReq (link : Nat)
  /-- READ_RESP (R374). A READ_RESP arrives and its data enters the requesting transfer. -/
  | readResp (link : Nat) (view : HostView)
  /-- WACK (R375). Write acknowledgements arrive and count toward fences, slot signals and the parity update. -/
  | wack (link : Nat)
  /-- INJECT_DROP (R392). MODE 1 arms injection that drops selected flits. -/
  | injectDrop (link ctl : Nat)
  /-- INJECT_CORRUPT (R392). MODE 2 arms injection that flips a payload bit of selected flits. -/
  | injectCorrupt (link ctl : Nat)
  /-- INJECT_REORDER (R392). MODE 3 arms injection that sends selected flits after the next. -/
  | injectReorder (link ctl : Nat)
  /-- INJECT_LANE_FAIL (R392). MODE 4 arms injection that stops a lane at the first selection. -/
  | injectLaneFail (link ctl : Nat)
  /-- INJECT_LINK_FAIL (R392). MODE 5 arms injection that parks and stops the link at the first selection. -/
  | injectLinkFail (link ctl : Nat)
  /-- MEM_REQUEST_ENTER (R259). A stacked-memory request finds a free channel slot within the bank cap and reaches the ordering point. -/
  | memRequestEnter (req : MemAccess)
  /-- MEM_READ_DONE (R265). A stacked-memory read returns corrected, or poisoned with ST_MEM_UNCORR on an uncorrectable error. -/
  | memReadDone (channel slot : Nat)
  /-- LANE_MARK (R266). Errors confined to one lane in 64 accesses within a second mark it as an erasure and post ST_MEM_LANE_MARKED. -/
  | laneMark (channel lane : Nat) (training : Bool)
  /-- CHANNEL_RETIRE (R268). A channel is retired to a retirement area, which is poisoned, or the module posts ST_MEM_RETIRE_EXHAUSTED. -/
  | channelRetire (channel : Nat) (training : Bool)
  /-- RETIRE_AREA_POISONED (R268). The retirement area is fully poisoned and waiting accesses to the retired channel proceed. -/
  | retireAreaPoisoned
  /-- BANK_REFRESH (R261). A bank's refresh interval expires and the bank is refreshed. -/
  | bankRefresh (channel bank : Nat)
  /-- STACK_TEMP_SAMPLE (R261). Every 50 µs each stack sensor is read and the refresh interval, throttling or trip follows the filtered temperature. -/
  | stackTempSample (temps : List Nat)
  /-- PATROL_SCRUB_READ (R269). Every INTERVAL each channel scrubs its next granule, correcting or poisoning it. -/
  | patrolScrubRead (upsets : List (Nat × List Nat))
  /-- TG_START (R271). Writing 1 to MEM_TG_CTL.START starts a traffic generator run, or is refused with ST_TG_LIVE on a live channel. -/
  | tgStart (value : Nat)
  /-- TG_RUN_DONE (R273). A traffic generator run finishes its passes and START reads 0. -/
  | tgRunDone (channel : Nat) (wrong : List (Nat × Nat))
  /-- HEALTH_RECORD_WRITE (R518). Every 10 min, within 1 s of a repair change, or at S, a health record is written to the flash health area. -/
  | healthRecordWrite (ok : Bool)
  /-- SYNC_SEND (R447). Every 250 µs a SYNC is sent on every UP or STANDBY link. -/
  | syncSend (link stamp : Nat)
  /-- SYNC_RECEIVE (R448). A SYNC arrives, delay and offset are computed, the parent and grandmaster are chosen, and the time block steers or locks. -/
  | syncReceive (link stamp : Nat)
  /-- SYNC_MISSED (R457). A parent misses 4 consecutive SYNC messages and is lost, so the module takes another candidate or enters HOLDOVER. -/
  | syncMissed (link : Nat)
  /-- PPS_EDGE (R452). A PPS input edge aligns whole seconds and counts toward EXT_LOCKED. -/
  | ppsEdge (error : Int)
  /-- REF10M_LOSS (R452). Loss of the 10 MHz input or a late PPS is detected and EXT_LOCKED clears. -/
  | ref10mLoss
  /-- OSCILLATOR_FAIL (R457). The oscillator stops or drifts beyond 10 ppm, and the module enters BACKUP and posts ST_TIME_SOURCE_LOST. -/
  | oscillatorFail
  /-- TIM_SET (R459). A write of TIM_SET steps device time and sets SECONDS_SET while disabled. -/
  | timSet (value : Nat)
  /-- TIME_PAGE_WRITE (R455). Every 1 ms and at each state change the time page is written into host memory under its SEQ protocol. -/
  | timePageWrite
  /-- PTM_EXCHANGE (R455). Every 10 ms the module makes a Precision Time Measurement dialogue with the host. -/
  | ptmExchange (hostNs : Nat)
  /-- PTP_MESSAGE (R454). A PTP message on the management port is time-stamped and served or followed according to PTP_ROLE. -/
  | ptpMessage (seconds utc : Nat) (offset : Int)
  /-- GET_VERSION (R514). An SPDM GET_VERSION request is answered over DOE. -/
  | getVersion (request : List Byte)
  /-- GET_CAPABILITIES (R514). An SPDM GET_CAPABILITIES request is answered. -/
  | getCapabilities (request : List Byte)
  /-- NEGOTIATE_ALGORITHMS (R514). An SPDM NEGOTIATE_ALGORITHMS request selects SM2 and SM3. -/
  | negotiateAlgorithms (request : List Byte)
  /-- GET_DIGESTS (R514). An SPDM GET_DIGESTS request returns the certificate chain digest. -/
  | getDigests (request : List Byte)
  /-- GET_CERTIFICATE (R514). An SPDM GET_CERTIFICATE request returns slot 0. -/
  | getCertificate (request : List Byte)
  /-- CHALLENGE (R514). An SPDM CHALLENGE is signed with the device key, or answered with ERROR when identity failed. -/
  | challenge (request : List Byte)
  /-- GET_MEASUREMENTS (R514). An SPDM GET_MEASUREMENTS request returns the measurement blocks, signed. -/
  | getMeasurements (request : List Byte)
  /-- PLDM_FIRMWARE_UPDATE (R509). In RECOVERY the management port accepts, checks and writes an image through PLDM for Firmware Update. -/
  | pldmFirmwareUpdate (toB : Bool) (image : List Byte)
  /-- PLDM_PLATFORM_MONITORING (R543). A PLDM for Platform Monitoring and Control request over MCTP returns telemetry. -/
  | pldmPlatformMonitoring (request : List Byte)
  /-- OVEN_WARM (R510). The oscillator oven becomes warm, at most 180 s after power-on, and from then on the time block may leave FREE and ACQUIRING. -/
  | ovenWarm
  /-- PCIE_LINK_UP (R324). The PCIe link trains with the host and comes up, setting RATE, WIDTH and FLIT in HIF_DEV_STATUS. -/
  | pcieLinkUp (rate width : Nat) (flit msix ptm : Bool)
  /-- ILLEGAL_OPCODE (R185). The sequencer reaches an instruction whose opcode Table 05.5 does not list and raises ST_ILLEGAL_OP as a program fault. -/
  | illegalOpcode (t : Nat)
  /-- STEP_COMMIT_END (R428). The commit actions, including the state digest at 256 GB/s, finish, so the record is written, STEP_ARM completes, STATE returns to IDLE and a held release goes ahead. -/
  | stepCommitEnd
  /-- SNAPSHOT_DONE (R495). A SNAPSHOT has read and written every listed shard, so it completes and releases the commit it was holding. -/
  | snapshotDone (ring index : Nat)
  /-- SNAPSHOT_LOAD_DONE (R496). A SNAPSHOT_LOAD has written both sides, tags and parity, checks the recomputed digest and completes. -/
  | snapshotLoadDone (ring index : Nat)
  /-- ROUTE_LOAD_DONE (R381). The read of a route image ends, so the standby bank is replaced, or left a copy of the active bank on poison, and the ROUTE_LOAD completes. -/
  | routeLoadDone
  /-- SAF_INPUT_REFRESH (R534). Every 1 ms of device time SAF_INPUT is refreshed, and PIN_PEAK and VIN_MIN follow the new values. -/
  | safInputRefresh (vin iin pin : Nat)
  /-- MGMT_ALERT_PULSE_END (R543). The 10 ms low pulse that MGMT_ALERT_N drives at each class 0x6 event ends, and the line is released unless the safe state is still active. -/
  | mgmtAlertPulseEnd
  /-- BUS_BELOW_40V (R476). The 56 V input at the bus bars falls below 40 V, by removal of the module or of the bus, so a breaker opened by a safe state closes again. -/
  | busBelow40v
  deriving DecidableEq, Repr

end Sys2Proof
end

