-- ==== Sys2Proof/Decode.lean ====
section
/-! DEFINITION. The command that a word of the table spells. The table gives no row any bits: commands are
not encoded. (The tile program's 64-bit instruction words are decoded by the tile, in TileCode.lean.) -/

namespace Sys2Proof

/-- No row of the table of operations and events has bits, so no word spells a command. -/
def decodeTableWord (_nbits _w : Nat) : Option Instr := none

end Sys2Proof
end

