-- ==== Sys2Proof/Config.lean ====
section
/-! DEFINITION. What the spec leaves open: each value is a constant with no body, so that nothing can be
proved about it. The definitions that use them keep whatever limit the spec sets. -/

namespace Sys2Proof

/-- Which of the values that R69 allows a vector function returns: a number of units in the last place
from the rounded exact result, by function and operand bits. DESIGN CHOICE: log entry 10. -/
opaque Config.elemOffset : Nat → Nat → Int

/-- Which of the values that R73 allows a compensated pair takes after an update. DESIGN CHOICE: log entry 10. -/
opaque Config.pairNoise : Nat → Int → Nat → Int → Int

/-- Which relative error up to 2^-46 a rescale factor or soft-maximum exponential has (R69, R73). DESIGN CHOICE: log entry 10. -/
opaque Config.expNoise : Nat → Int → Int

/-- Which cosine (false) or sine (true) within 2^-24 the angle tables hold for a phase (R152). DESIGN CHOICE: log entry 10. -/
opaque Config.trigNoise : Bool → Nat → Int

/-- Where on its compute die a stream engine (by die and engine) meets the die network: a physical tile's number, row·64 +
column. DESIGN CHOICE: log entry 54. -/
opaque Config.enginePlace : Nat → Nat → Nat

/-- Where on a compute die (the first argument) its edge bridge to another die (the second; 4 for PD0, 5 for PD1) meets the
mesh: a physical tile's number, row·64 + column. DESIGN CHOICE: log entry 54. -/
opaque Config.bridgePlace : Nat → Nat → Nat

/-- A value the spec gives no rule for, by its place in the machine's free-value counter. DESIGN CHOICE: log entry 9. -/
opaque Config.freeNat : Nat → Nat

/-- The SM3 hash of a byte string (R506, R514): the spec names the algorithm and not its steps. DESIGN CHOICE: log entry 11. -/
opaque Config.sm3 : List Byte → List Byte

/-- Whether an SM2 signature over a message verifies under a key (R506). DESIGN CHOICE: log entry 11. -/
opaque Config.sm2Verify : List Byte → List Byte → List Byte → Bool

/-- The public part of the device key that the fuzzy extractor yields from the power-up contents of the PUF SRAM and
the helper data (R512). DESIGN CHOICE: log entry 11. -/
opaque Config.pufKey : Nat → List Byte → List Byte

/-- The device key's signature of a message, by the same contents and helper data (R512, R514). DESIGN CHOICE: log entry 11. -/
opaque Config.pufSign : Nat → List Byte → List Byte → List Byte

/-- SM3 digest of the Darfold root key, held in mask ROM (R506). DESIGN CHOICE: log entry 11. -/
opaque Config.rootHash : List Byte

/-- SM3 digest of the mask ROM (R514). DESIGN CHOICE: log entry 11. -/
opaque Config.romDigest : List Byte

/-- The recovery identifiers in mask ROM (R509). DESIGN CHOICE: log entry 11. -/
opaque Config.recoveryId : List Byte

/-- Whether a copy of the identity area carries the manufacturing authority's signature (R502). DESIGN CHOICE: log entry 11. -/
opaque Config.identityOk : List Byte → Bool

/-- A part of the identity area, whose layout is not given: 0 PUF helper data, 1 SM3 digest of the public key, 2 device
certificate chain, 3 serial number, 4 spare map, 5 tile-bad maps (R502, R513). DESIGN CHOICE: log entry 11. -/
opaque Config.identityPart : Nat → List Byte → List Byte

/-- What the SPDM responder gives as its CTExponent (0), DataTransferSize (1) and MaxSPDMmsgSize (2) (R514).
DESIGN CHOICE: log entry 11. -/
opaque Config.spdmParam : Nat → Nat

end Sys2Proof
end

