-- ==== Sys2Proof/Machine/Flags.lean ====
section
/-! DEFINITION. Arithmetic of chapter 02: exact dyadic values, the formats of Table 02.1, the four
rounding modes, the special values and flags of Tables 02.7, 02.8 and 02.10, and the generator `draw`. -/

namespace Sys2Proof.Machine

/-- The sticky flags of the arithmetic status word, in the bit positions of Table 02.10 (R78). -/
abbrev Flags := BitVec 16

def Flags.none : Flags := 0
def Flags.nv : Flags := 1
def Flags.ovf : Flags := 2
def Flags.unf : Flags := 4
def Flags.sat : Flags := 8
def Flags.pz : Flags := 16

/-- An arithmetic value: NaN without payload (R45), an infinity, or the exact number ±m·2^e
(a zero keeps its sign, R50). -/
inductive Val where
  | nan
  | inf (neg : Bool)
  | num (neg : Bool) (m : Nat) (e : Int)
  deriving DecidableEq, Repr

def Val.zero : Val := .num false 0 0

def Val.negate : Val → Val
  | .nan => .nan
  | .inf n => .inf (!n)
  | .num n m e => .num (!n) m e

def Val.abs : Val → Val
  | .nan => .nan
  | .inf _ => .inf false
  | .num _ m e => .num false m e

def Val.isNaN : Val → Bool
  | .nan => true
  | _ => false

def Val.isInf : Val → Bool
  | .inf _ => true
  | _ => false

def Val.isZero : Val → Bool
  | .num _ 0 _ => true
  | _ => false

def Val.isNeg : Val → Bool
  | .nan => false
  | .inf n => n
  | .num n _ _ => n

/-- The integer mantissa of a number brought to exponent `e0`, for `e0` no larger than its own. -/
def Val.scaled (neg : Bool) (m : Nat) (e e0 : Int) : Int :=
  let a : Int := ((m <<< (e - e0).toNat : Nat) : Int)
  if neg then -a else a

/-- The value of an integer multiple of a power of two; an exact zero is +0 (R50). -/
def Val.ofInt (i : Int) (e : Int) : Val := .num (decide (i < 0)) i.natAbs e

/-- The power of two 2^e. -/
def Val.pow2 (e : Int) : Val := .num false 1 e

/-- Exact sum, with the sign rule of zero sums (R50) and the special rows of Table 02.8 (R68). -/
def Val.add : Val → Val → Val × Flags
  | .nan, _ => (.nan, Flags.nv)
  | _, .nan => (.nan, Flags.nv)
  | .inf a, .inf b => if a = b then (.inf a, 0) else (.nan, Flags.nv)
  | .inf a, .num _ _ _ => (.inf a, 0)
  | .num _ _ _, .inf b => (.inf b, 0)
  | .num na ma ea, .num nb mb eb =>
    if ma = 0 ∧ mb = 0 then (.num (na && nb) 0 0, 0)
    else if ma = 0 then (.num nb mb eb, 0)
    else if mb = 0 then (.num na ma ea, 0)
    else
      let e0 := min ea eb
      (Val.ofInt (Val.scaled na ma ea e0 + Val.scaled nb mb eb e0) e0, 0)

/-- Exact product (R61): signs by exclusive-or, 0 × ∞ is NaN (Table 02.8). -/
def Val.mul : Val → Val → Val × Flags
  | .nan, _ => (.nan, Flags.nv)
  | _, .nan => (.nan, Flags.nv)
  | .inf a, .inf b => (.inf (a != b), 0)
  | .inf a, .num nb mb _ => if mb = 0 then (.nan, Flags.nv) else (.inf (a != nb), 0)
  | .num na ma _, .inf b => if ma = 0 then (.nan, Flags.nv) else (.inf (na != b), 0)
  | .num na ma ea, .num nb mb eb =>
    (.num (na != nb) (ma * mb) (if ma * mb = 0 then 0 else ea + eb), 0)

/-- Comparison of the magnitudes m1·2^e1 and m2·2^e2. -/
def cmpMag (m1 : Nat) (e1 : Int) (m2 : Nat) (e2 : Int) : Ordering :=
  let e0 := min e1 e2
  compare (m1 <<< (e1 - e0).toNat) (m2 <<< (e2 - e0).toNat)

/-- The order of two values that are not NaN; +0 and −0 compare equal (R71). -/
def Val.lt : Val → Val → Bool
  | .nan, _ => false
  | _, .nan => false
  | .inf a, .inf b => a && !b
  | .inf a, .num _ _ _ => a
  | .num _ _ _, .inf b => !b
  | .num na ma ea, .num nb mb eb =>
    let e0 := min ea eb
    decide (Val.scaled na ma ea e0 < Val.scaled nb mb eb e0)

/-- How a format encodes its special values (R44). -/
inductive Special where
  | ieee
  | e4m3
  | finite
  deriving DecidableEq, Repr

/-- The layout of a floating-point element (Table 02.1). -/
structure Layout where
  ebits : Nat
  bias : Nat
  fbits : Nat
  special : Special
  deriving DecidableEq, Repr

def Layout.fp32 : Layout := ⟨8, 127, 23, .ieee⟩
def Layout.bf16 : Layout := ⟨8, 127, 7, .ieee⟩
def Layout.fp16 : Layout := ⟨5, 15, 10, .ieee⟩
def Layout.e4m3 : Layout := ⟨4, 7, 3, .e4m3⟩
def Layout.e5m2 : Layout := ⟨5, 15, 2, .ieee⟩
def Layout.e2m3 : Layout := ⟨2, 1, 3, .finite⟩
def Layout.e3m2 : Layout := ⟨3, 3, 2, .finite⟩
def Layout.e2m1 : Layout := ⟨2, 1, 1, .finite⟩
def Layout.wide : Layout := ⟨11, 1023, 52, .ieee⟩

/-- The width of an element in bits. -/
def Layout.width (l : Layout) : Nat := 1 + l.ebits + l.fbits

/-- The exponent of the smallest normal. -/
def Layout.emin (l : Layout) : Int := 1 - (l.bias : Int)

/-- The exponent of the largest finite value. -/
def Layout.emax (l : Layout) : Int :=
  match l.special with
  | .ieee => (2 ^ l.ebits : Nat) - 2 - (l.bias : Int)
  | _ => (2 ^ l.ebits : Nat) - 1 - (l.bias : Int)

/-- The significand of the largest finite value, in units of 2^(emax − fbits) (Table 02.2). -/
def Layout.maxSig (l : Layout) : Nat :=
  match l.special with
  | .e4m3 => 2 ^ (l.fbits + 1) - 2
  | _ => 2 ^ (l.fbits + 1) - 1

def Layout.maxVal (l : Layout) (neg : Bool) : Val := .num neg l.maxSig (l.emax - l.fbits)

/-- The value of an element's bits (R44, R45). -/
def Layout.decode (l : Layout) (w : Nat) : Val :=
  let f := w % 2 ^ l.fbits
  let x := (w >>> l.fbits) % 2 ^ l.ebits
  let neg := (w >>> (l.fbits + l.ebits)) % 2 = 1
  let top := 2 ^ l.ebits - 1
  if x = top ∧ l.special = .ieee then (if f = 0 then .inf neg else .nan)
  else if x = top ∧ l.special = .e4m3 ∧ f = 2 ^ l.fbits - 1 then .nan
  else if x = 0 then .num neg f (if f = 0 then 0 else l.emin - l.fbits)
  else .num neg (2 ^ l.fbits + f) ((x : Int) - l.bias - l.fbits)

/-- The canonical NaN of the format (R45, Table 02.2). -/
def Layout.nanCode (l : Layout) : Nat :=
  match l.special with
  | .ieee => (2 ^ l.ebits - 1) * 2 ^ l.fbits + 2 ^ (l.fbits - 1)
  | .e4m3 => 2 ^ (l.ebits + l.fbits) - 1
  | .finite => 0

/-- The bits of a value that the format holds exactly. -/
def Layout.encode (l : Layout) (v : Val) : Nat :=
  let s := fun (neg : Bool) => if neg then 2 ^ (l.ebits + l.fbits) else 0
  match v with
  | .nan => l.nanCode
  | .inf neg => s neg + (2 ^ l.ebits - 1) * 2 ^ l.fbits
  | .num neg m e =>
    if m = 0 then s neg
    else
      let lead : Int := e + (Nat.log2 m : Int)
      let q : Int := max lead l.emin - l.fbits
      let sig := if e ≥ q then m <<< (e - q).toNat else m >>> (q - e).toNat
      if sig < 2 ^ l.fbits then s neg + sig
      else s neg + ((q + l.fbits + l.bias).toNat * 2 ^ l.fbits) + (sig - 2 ^ l.fbits)

/-- The four rounding modes, in code order (Table 02.3, R51). -/
inductive Rounding where
  | rne | rtz | rto | sr
  deriving DecidableEq, Repr

/-- A magnitude m·2^e (m > 0) rounded to a multiple of 2^q in the named mode, as the multiple;
`u` is the 32-bit draw that SR uses (R51). -/
def roundMag (m : Nat) (e q : Int) (mode : Rounding) (u : Nat) : Nat :=
  if e ≥ q then m <<< (e - q).toNat
  else
    let k := (q - e).toNat
    let t := m >>> k
    let r := m % 2 ^ k
    if r = 0 then t
    else
      match mode with
      | .rtz => t
      | .rto => if t % 2 = 1 then t else t + 1
      | .rne =>
        if 2 * r > 2 ^ k then t + 1
        else if 2 * r = 2 ^ k then (if t % 2 = 1 then t + 1 else t)
        else t
      | .sr => if u < (r * 2 ^ 32) / 2 ^ k then t + 1 else t

/-- Does a finite magnitude overflow the format in the named mode (R59)? DEDUCED: log entry 15. -/
def Layout.overflows (l : Layout) (mode : Rounding) (m : Nat) (e : Int) : Bool :=
  match mode with
  | .rne => cmpMag m e (2 * l.maxSig + 1) (l.emax - l.fbits - 1) != .lt
  | .sr => cmpMag m e l.maxSig (l.emax - l.fbits) == .gt
  | _ => cmpMag m e 1 (l.emax + 1) != .lt

/-- The result of a finite value that overflows (Table 02.7). -/
def Layout.overflowResult (l : Layout) (mode : Rounding) (nanMode neg : Bool) : Val × Flags :=
  match mode with
  | .rtz => (l.maxVal neg, Flags.ovf ||| Flags.sat)
  | .rto => (l.maxVal neg, Flags.ovf ||| Flags.sat)
  | _ =>
    match l.special with
    | .ieee => (.inf neg, Flags.ovf)
    | _ => if nanMode then (.nan, Flags.ovf) else (l.maxVal neg, Flags.ovf ||| Flags.sat)

/-- Conversion of an exact value to a floating-point format, with the flags it raises
(R51, R59, Table 02.7). `nanMode` is E4M3's NaN overflow mode. -/
def Layout.round (l : Layout) (mode : Rounding) (u : Nat) (nanMode : Bool) (v : Val) : Val × Flags :=
  match v with
  | .nan => (.nan, Flags.nv)
  | .inf neg =>
    match l.special with
    | .ieee => (.inf neg, 0)
    | _ => if nanMode then (.nan, Flags.nv) else (l.maxVal neg, Flags.sat)
  | .num neg m e =>
    if m = 0 then (.num neg 0 0, 0)
    else if l.overflows mode m e then l.overflowResult mode nanMode neg
    else
      let q : Int := max (e + (Nat.log2 m : Int)) l.emin - l.fbits
      let t := roundMag m e q mode u
      if t = 0 then (.num neg 0 0, Flags.unf)
      else if cmpMag t q l.maxSig (l.emax - l.fbits) == .gt then
        (l.maxVal neg, if mode == .rtz then 0 else Flags.sat)
      else (.num neg t q, 0)

/-- Conversion to an n-bit two's complement integer: round in the named mode and saturate (R59). -/
def roundToInt (n : Nat) (mode : Rounding) (v : Val) : Int × Flags :=
  let lim := fun (neg : Bool) => if neg then -((2 ^ (n - 1) : Nat) : Int) else ((2 ^ (n - 1) - 1 : Nat) : Int)
  match v with
  | .nan => (0, Flags.nv)
  | .inf neg => (lim neg, Flags.sat)
  | .num neg m e =>
    if m = 0 then (0, 0)
    else
      let t := roundMag m e 0 mode 0
      let past : Bool :=
        decide ((lim neg).natAbs < t) ||
          (mode == .rne && cmpMag m e (2 * (lim neg).natAbs + 1) (-1) != .lt)
      if past then (lim neg, Flags.sat) else (if neg then -(t : Int) else (t : Int), 0)

/-- The storage and operand formats, in code order (Table 02.1). -/
inductive Fmt where
  | fp32 | bf16 | fp16 | e4m3 | e5m2 | mx8e4 | mx8e5 | mx6e2 | mx6e3 | mx4 | int8 | int32 | wide
  deriving DecidableEq, Repr

/-- The format a code names; codes 0xD to 0xF are reserved (R43). -/
def Fmt.ofCode : Nat → Option Fmt
  | 0 => some .fp32
  | 1 => some .bf16
  | 2 => some .fp16
  | 3 => some .e4m3
  | 4 => some .e5m2
  | 5 => some .mx8e4
  | 6 => some .mx8e5
  | 7 => some .mx6e2
  | 8 => some .mx6e3
  | 9 => some .mx4
  | 10 => some .int8
  | 11 => some .int32
  | 12 => some .wide
  | _ => none

def Fmt.code : Fmt → Nat
  | .fp32 => 0
  | .bf16 => 1
  | .fp16 => 2
  | .e4m3 => 3
  | .e5m2 => 4
  | .mx8e4 => 5
  | .mx8e5 => 6
  | .mx6e2 => 7
  | .mx6e3 => 8
  | .mx4 => 9
  | .int8 => 10
  | .int32 => 11
  | .wide => 12

def Fmt.isMX : Fmt → Bool
  | .mx8e4 => true
  | .mx8e5 => true
  | .mx6e2 => true
  | .mx6e3 => true
  | .mx4 => true
  | _ => false

def Fmt.isInt : Fmt → Bool
  | .int8 => true
  | .int32 => true
  | _ => false

/-- Bits of one element (without an MX block's scale). -/
def Fmt.elemBits : Fmt → Nat
  | .fp32 => 32
  | .bf16 => 16
  | .fp16 => 16
  | .e4m3 => 8
  | .e5m2 => 8
  | .mx8e4 => 8
  | .mx8e5 => 8
  | .mx6e2 => 6
  | .mx6e3 => 6
  | .mx4 => 4
  | .int8 => 8
  | .int32 => 32
  | .wide => 64

/-- The layout of a floating-point format's elements; the integer formats have none. -/
def Fmt.layout : Fmt → Layout
  | .fp32 => .fp32
  | .bf16 => .bf16
  | .fp16 => .fp16
  | .e4m3 => .e4m3
  | .e5m2 => .e5m2
  | .mx8e4 => .e4m3
  | .mx8e5 => .e5m2
  | .mx6e2 => .e2m3
  | .mx6e3 => .e3m2
  | .mx4 => .e2m1
  | .int8 => .fp32
  | .int32 => .fp32
  | .wide => .wide

/-- Bytes that hold `n` elements (R47 for the MX group layout). -/
def Fmt.bytesFor (f : Fmt) (n : Nat) : Nat :=
  if f.isMX then ((n + 255) / 256) * (16 + 32 * f.elemBits) else n * (f.elemBits / 8)

/-- Value of a plain (not MX) element's bits. -/
def Fmt.decode (f : Fmt) (w : Nat) : Val :=
  match f with
  | .int8 => Val.ofInt (signedOf 8 w) 0
  | .int32 => Val.ofInt (signedOf 32 w) 0
  | f => f.layout.decode w

/-- Bits of a plain element after rounding the exact value into the format. -/
def Fmt.store (f : Fmt) (mode : Rounding) (u : Nat) (nanMode : Bool) (v : Val) : Nat × Flags :=
  match f with
  | .int8 => let r := roundToInt 8 mode v; (unsignedOf 8 r.1, r.2)
  | .int32 => let r := roundToInt 32 mode v; (unsignedOf 32 r.1, r.2)
  | f => let r := f.layout.round mode u nanMode v; (f.layout.encode r.1, r.2)

/-! ### The generator of R56 -/

def rotl64 (x r : Nat) : Nat := ((x <<< r) ||| (x >>> (64 - r))) % 2 ^ 64

def drawRound : Nat → Nat → Nat → Nat → Nat × Nat
  | 0, _, lo, hi => (lo, hi)
  | n + 1, k, lo, hi =>
    let lo1 := ((lo ^^^ k) * 0x9E6C63D0676A9A99) % 2 ^ 64
    let hi1 := ((hi ^^^ rotl64 lo1 29) * 0xD1B54A32D192ED03) % 2 ^ 64
    let lo2 := lo1 ^^^ rotl64 hi1 17
    drawRound n ((k + 0x5BD1E9953C6EF373) % 2 ^ 64) lo2 hi1

/-- `draw(key, counter)`: 32 bits from the job seed and a 128-bit counter (R56). -/
def draw (key counter : Nat) : Nat :=
  let r := drawRound 4 (key % 2 ^ 64) (counter % 2 ^ 64) ((counter >>> 64) % 2 ^ 64)
  (r.1 ^^^ r.2) >>> 32

/-- The counter of Table 02.5. -/
def drawCounter (step purpose tensor index : Nat) : Nat :=
  (step % 2 ^ 32) * 2 ^ 96 + (purpose % 16) * 2 ^ 92 + (tensor % 2 ^ 20) * 2 ^ 72 + index % 2 ^ 72

/-! ### Correctly rounded quotient and root (R69) -/

/-- A quotient of magnitudes with 130 good bits and a sticky last bit: rounding it gives the
correctly rounded quotient in every format of the module. -/
def divMag (m1 : Nat) (e1 : Int) (m2 : Nat) (e2 : Int) : Nat × Int :=
  let k := 130 + Nat.log2 m2
  let q := (m1 <<< k) / m2
  let r := (m1 <<< k) % m2
  (2 * q + (if r = 0 then 0 else 1), e1 - e2 - (k : Int) - 1)

/-- Exact-to-rounding quotient with the special rows of R69. -/
def Val.div : Val → Val → Val × Flags
  | .nan, _ => (.nan, Flags.nv)
  | _, .nan => (.nan, Flags.nv)
  | .inf _, .inf _ => (.nan, Flags.nv)
  | .inf a, .num nb _ _ => (.inf (a != nb), 0)
  | .num na _ _, .inf b => (.num (na != b) 0 0, 0)
  | .num na ma ea, .num nb mb eb =>
    if mb = 0 then (if ma = 0 then (.nan, Flags.nv) else (.inf (na != nb), 0))
    else if ma = 0 then (.num (na != nb) 0 0, 0)
    else let d := divMag ma ea mb eb; (.num (na != nb) d.1 d.2, 0)

/-- Integer square root by bisection over `n` bits. -/
def isqrtBits : Nat → Nat → Nat → Nat
  | 0, _, r => r
  | n + 1, m, r => let c := r + 2 ^ n; isqrtBits n m (if c * c ≤ m then c else r)

def isqrt (m : Nat) : Nat := isqrtBits (Nat.log2 m / 2 + 1) m 0

/-- Square root with 130 good bits and a sticky last bit; sqrt(−0) is −0, a negative operand gives
NaN with NV (R69). -/
def Val.sqrt : Val → Val × Flags
  | .nan => (.nan, Flags.nv)
  | .inf neg => if neg then (.nan, Flags.nv) else (.inf false, 0)
  | .num neg m e =>
    if m = 0 then (.num neg 0 0, 0)
    else if neg then (.nan, Flags.nv)
    else
      let odd : Nat := (e % 2).toNat
      let m1 := m <<< (260 + odd)
      let e1 : Int := (e - (odd : Int) - 260) / 2
      let r := isqrt m1
      (.num false (2 * r + (if r * r = m1 then 0 else 1)) (e1 - 1), 0)

/-! ### Shorthands for the roundings of Table 02.4 -/

def rne32 (v : Val) : Val × Flags := Layout.fp32.round .rne 0 false v
def rneWide (v : Val) : Val × Flags := Layout.wide.round .rne 0 false v
def rtoWide (v : Val) : Val × Flags := Layout.wide.round .rto 0 false v
def val32 (w : Nat) : Val := Layout.fp32.decode w
def enc32 (v : Val) : Nat := Layout.fp32.encode v
def valWide (w : Nat) : Val := Layout.wide.decode w
def encWide (v : Val) : Nat := Layout.wide.encode v

/-- A wide sum rounded RNE, the add of wide partials, trees and reductions (R50, R52). -/
def addWide (a b : Val) : Val × Flags :=
  let s := Val.add a b
  let r := rneWide s.1
  (r.1, s.2 ||| r.2)

end Sys2Proof.Machine
end

