-- ==== Sys2Proof/Machine/Elementary.lean ====
section
/-! DEFINITION. The elementary functions of R69 and R152 to well beyond their stated bounds, by integer
series, and the results within those bounds that the spec leaves open. -/

namespace Sys2Proof.Machine

/-- Fraction bits of the fixed-point series. -/
def fixBits : Nat := 160
def fixOne : Int := (2 ^ 160 : Nat)
def fixLn2 : Int := 0xb17217f7d1cf79abc9e3b39803f2f6af40f34326
def fixPi : Int := 0x3243f6a8885a308d313198a2e03707344a4093822

/-- A number in fixed point, rounded down in magnitude. -/
def toFix (neg : Bool) (m : Nat) (e : Int) : Int :=
  let k := e + fixBits
  let a : Int := ((if k ≥ 0 then m <<< k.toNat else m >>> (-k).toNat : Nat) : Int)
  if neg then -a else a

def fixMul (a b : Int) : Int := (a * b) / fixOne

/-- Σ r^n/n! from the n-th term on, for `fuel` terms. -/
def expSeries (r : Int) : Nat → Nat → Int → Int
  | 0, _, _ => 0
  | fuel + 1, n, term => term + expSeries r fuel (n + 1) (fixMul term r / ((n : Int) + 1))

/-- exp of a fixed-point argument as a mantissa and a binary exponent. -/
def expFix (x : Int) : Nat × Int :=
  let k := x / fixLn2
  let r := x - k * fixLn2
  ((expSeries r 48 0 fixOne).toNat, k - fixBits)

/-- 2^x of a fixed-point argument. -/
def exp2Fix (x : Int) : Nat × Int :=
  let k := x / fixOne
  let r := fixMul (x - k * fixOne) fixLn2
  ((expSeries r 48 0 fixOne).toNat, k - fixBits)

/-- Σ z^(2n+1)/(2n+1) for `fuel` terms. -/
def atanhSeries (z2 : Int) : Nat → Nat → Int → Int
  | 0, _, _ => 0
  | fuel + 1, n, zp => zp / (2 * (n : Int) + 1) + atanhSeries z2 fuel (n + 1) (fixMul zp z2)

/-- Natural logarithm of m·2^e (m > 0) in fixed point. -/
def logFix (m : Nat) (e : Int) : Int :=
  let l := Nat.log2 m
  let f := toFix false m (-(l : Int))
  let z := ((f - fixOne) * fixOne) / (f + fixOne)
  (e + l) * fixLn2 + 2 * atanhSeries (fixMul z z) 60 0 z

/-- Taylor series of cosine (from `term` = 1, n = 0) and sine (from `term` = x, n = 1). -/
def trigSeries (x2 : Int) : Nat → Nat → Int → Int
  | 0, _, _ => 0
  | fuel + 1, n, term =>
    term + trigSeries x2 fuel (n + 2) (-(fixMul term x2) / (((n : Int) + 1) * ((n : Int) + 2)))

/-- A fixed-point number as a value. -/
def ofFix (i : Int) : Val := Val.ofInt i (-(fixBits : Int))

/-- Is |c − a| at most `num`/2^`den` (compared exactly)? -/
def within (c a : Val) (num : Nat) (den : Int) : Bool :=
  match (Val.add c a.negate).1 with
  | .num _ m e => cmpMag m e num (-den) != .gt
  | _ => false

/-- The spacing exponent of a format at a magnitude m·2^e (m > 0). -/
def Layout.ulpExp (l : Layout) (m : Nat) (e : Int) : Int :=
  max (e + (Nat.log2 m : Int)) l.emin - l.fbits

/-- A result within `k` ulp of a positive or negative approximation that is itself good far beyond an
ulp: the rounded value moved by a free number of places, where that stays inside the bound (R69). -/
def freeWithin (k : Nat) (fn bits : Nat) (neg : Bool) (m : Nat) (e : Int) : Val × Flags :=
  let a := Val.num neg m e
  let r := rne32 a
  match r.1 with
  | .num _ rm _ =>
    if rm = 0 then r
    else
      let code := enc32 (Val.abs r.1)
      let c := val32 ((code : Int) + Config.elemOffset fn bits).toNat
      match c with
      | .num _ cm ce =>
        if cm ≠ 0 ∧ within (.num false cm ce) (Val.abs a) k (-(Layout.fp32.ulpExp m e)) = true
        then (.num neg cm ce, r.2) else r
      | _ => r
  | _ => r

/-- Arguments beyond this magnitude overflow or underflow every exponential of the module. -/
def expLimit : Int := 4096

def bigArg (m : Nat) (e : Int) : Bool := cmpMag m e 4096 0 != .lt

/-- exp and exp2 (Table 02.9): `base2` picks the second. `sat` silences UF (the soft-maximum unit, R69). -/
def vexp (base2 : Bool) (quiet : Bool) (x : Val) : Val × Flags :=
  match x with
  | .nan => (.nan, Flags.nv)
  | .inf neg => if neg then (Val.zero, 0) else (.inf false, 0)
  | .num neg m e =>
    if m = 0 then (Val.num false 1 0, 0)
    else if bigArg m e then
      (if neg then (Val.zero, if quiet then 0 else Flags.unf) else (.inf false, Flags.ovf))
    else
      let f := toFix neg m e
      let p := if base2 then exp2Fix f else expFix f
      let r := freeWithin 2 (if base2 then 10 else 9) (enc32 x) false p.1 p.2
      (r.1, if quiet then r.2 &&& ~~~Flags.unf else r.2)

def ln2Inv (x : Int) : Int := (x * fixOne) / fixLn2

/-- log and log2 (Table 02.9). -/
def vlog (base2 : Bool) (x : Val) : Val × Flags :=
  match x with
  | .nan => (.nan, Flags.nv)
  | .inf neg => if neg then (.nan, Flags.nv) else (.inf false, 0)
  | .num neg m e =>
    if m = 0 then (.inf true, 0)
    else if neg then (.nan, Flags.nv)
    else
      let f := logFix m e
      let g := if base2 then ln2Inv f else f
      if cmpMag m e 1 0 == .eq then (Val.zero, 0)
      else freeWithin 2 (if base2 then 12 else 11) (enc32 x) (decide (g < 0)) g.natAbs (-(fixBits : Int))

/-- tanh (Table 02.9). Below 2^-40 the value lies within 2^-80 of its argument, below it in magnitude. -/
def vtanh (x : Val) : Val × Flags :=
  match x with
  | .nan => (.nan, Flags.nv)
  | .inf neg => (.num neg 1 0, 0)
  | .num neg m e =>
    if m = 0 then (.num neg 0 0, 0)
    else if cmpMag m e 64 0 != .lt then freeWithin 2 13 (enc32 x) neg (2 ^ 100 - 1) (-100)
    else if cmpMag m e 1 (-40) == .lt then
      freeWithin 2 13 (enc32 x) neg (m * 2 ^ 120 - 1) (e - 120)
    else
      let p := expFix (toFix true (2 * m) e)
      -- p = exp(−2|x|): tanh |x| = (1 − p) / (1 + p)
      let one : Nat := 2 ^ (-p.2).toNat
      let q := divMag (one - p.1) 0 (one + p.1) 0
      freeWithin 2 13 (enc32 x) neg q.1 q.2

/-- sigmoid (Table 02.9). -/
def vsigmoid (x : Val) : Val × Flags :=
  match x with
  | .nan => (.nan, Flags.nv)
  | .inf neg => if neg then (Val.zero, 0) else (.num false 1 0, 0)
  | .num neg m e =>
    if m = 0 then (.num false 1 (-1), 0)
    else if bigArg m e then
      (if neg then (Val.zero, Flags.unf) else freeWithin 2 14 (enc32 x) false (2 ^ 100 - 1) (-100))
    else
      let p := expFix (toFix true m e)
      let d : Int := min p.2 0
      let pm := p.1 <<< (p.2 - d).toNat
      let one : Nat := 2 ^ (-d).toNat
      let q := divMag (if neg then pm else one) 0 (one + pm) 0
      freeWithin 2 14 (enc32 x) false q.1 q.2

/-- rsqrt to 1 ulp (Table 02.9). -/
def vrsqrt (x : Val) : Val × Flags :=
  match x with
  | .nan => (.nan, Flags.nv)
  | .inf neg => if neg then (.nan, Flags.nv) else (Val.zero, 0)
  | .num neg m e =>
    if m = 0 then (.inf neg, 0)
    else if neg then (.nan, Flags.nv)
    else
      match (Val.sqrt (.num false m e)).1 with
      | .num _ sm se => let q := divMag 1 0 sm se; freeWithin 1 8 (enc32 x) false q.1 q.2
      | _ => (.nan, Flags.nv)

/-- An exponential with relative error at most 2^-50 (wide, R69) or 2^-46 (pairs, R73) on top of a series
good to far more: the free part is a signed fraction of the bound. -/
def expRel (relBits : Nat) (neg : Bool) (m : Nat) (e : Int) : Val :=
  let p := expFix (toFix neg m e)
  let n := Config.expNoise m e
  let c : Int := max (-(2 ^ 20 : Nat)) (min (2 ^ 20 : Nat) n)
  -- p·(1 + c·2^-(relBits+20))
  Val.ofInt ((p.1 : Int) * (2 ^ (relBits + 20) : Nat) + (p.1 : Int) * c) (p.2 - (relBits + 20))

/-- exp in the wide format (Table 02.9): relative error 2^-50, special cases as for exp. -/
def vexpWide (x : Val) : Val × Flags :=
  match x with
  | .nan => (.nan, Flags.nv)
  | .inf neg => if neg then (Val.zero, 0) else (.inf false, 0)
  | .num neg m e =>
    if m = 0 then (Val.num false 1 0, 0)
    else if bigArg m e then (if neg then (Val.zero, Flags.unf) else (.inf false, Flags.ovf))
    else rneWide (expRel 51 neg m e)

/-- Cosine or sine of a 64-bit phase, within 2^-24 and exact at quarter turns (R152 step 2). -/
def trigTable (sine : Bool) (phase : Nat) : Val :=
  let ph : Nat := if sine then (phase + 3 * 2 ^ 62) % 2 ^ 64 else phase % 2 ^ 64
  -- the value is the cosine of `ph`; q is the quarter, r the rest
  let q : Nat := ph / 2 ^ 62
  let r : Nat := ph % 2 ^ 62
  if r = 0 then
    (match q with
     | 0 => Val.num false 1 0
     | 2 => Val.num true 1 0
     | _ => Val.zero)
  else
    let ang : Int := (fixPi * (r : Int)) / (2 ^ 63 : Nat)
    let c := trigSeries (fixMul ang ang) 60 0 fixOne
    let s := trigSeries (fixMul ang ang) 60 1 ang
    let v : Int := match q with
      | 0 => c
      | 1 => -s
      | 2 => -c
      | _ => s
    let n := Config.trigNoise sine phase
    let lim : Int := (2 ^ (fixBits - 25) : Nat)
    ofFix (v + max (-lim) (min lim n))

end Sys2Proof.Machine
end

