-- ==== Sys2Proof/Machine/Status.lean ====
section
/-! DEFINITION. The status codes the module raises (Table 09.14, R11, R354). -/

namespace Sys2Proof.Machine

/-- ST_OK -/
abbrev St.ok : Nat := 0x0000
/-- ST_PACE_SHORT -/
abbrev St.paceShort : Nat := 0x1010
/-- ST_CHECKSUM_RETRY -/
abbrev St.checksumRetry : Nat := 0x1030
/-- ST_CHECKSUM_TOL -/
abbrev St.checksumTol : Nat := 0x1031
/-- ST_LOCKSTEP_RETRY -/
abbrev St.lockstepRetry : Nat := 0x1050
/-- ST_RELEASE_LATE -/
abbrev St.releaseLate : Nat := 0x1051
/-- ST_CMP_TABLE_CONFLICT -/
abbrev St.cmpTableConflict : Nat := 0x1060
/-- ST_MEM_LANE_MARKED -/
abbrev St.memLaneMarked : Nat := 0x1070
/-- ST_MEM_THROTTLE -/
abbrev St.memThrottle : Nat := 0x1071
/-- ST_OBJ_STALE -/
abbrev St.objStale : Nat := 0x1072
/-- ST_REARM_EARLY -/
abbrev St.rearmEarly : Nat := 0x1090
/-- ST_EVENT_OVERFLOW -/
abbrev St.eventOverflow : Nat := 0x1091
/-- ST_LNK_LANE_SPARED -/
abbrev St.lnkLaneSpared : Nat := 0x10A0
/-- ST_LNK_RETRY_RATE -/
abbrev St.lnkRetryRate : Nat := 0x10A1
/-- ST_MB_DROPPED -/
abbrev St.mbDropped : Nat := 0x10B0
/-- ST_TIME_HOLDOVER -/
abbrev St.timeHoldover : Nat := 0x10C0
/-- ST_TIME_GM_CHANGE -/
abbrev St.timeGmChange : Nat := 0x10C1
/-- ST_RISK_RAISED -/
abbrev St.riskRaised : Nat := 0x10D0
/-- ST_DEGRADED_GATHER -/
abbrev St.degradedGather : Nat := 0x10D1
/-- ST_IMAGE_FALLBACK -/
abbrev St.imageFallback : Nat := 0x10E0
/-- ST_INPUT_RIPPLE -/
abbrev St.inputRipple : Nat := 0x10F0
/-- ST_ADDR_WINDOW -/
abbrev St.addrWindow : Nat := 0x2010
/-- ST_ADDR_RANGE -/
abbrev St.addrRange : Nat := 0x2011
/-- ST_ADDR_REMOTE_HOST -/
abbrev St.addrRemoteHost : Nat := 0x2012
/-- ST_FMT_RESERVED -/
abbrev St.fmtReserved : Nat := 0x2020
/-- ST_CVT_PAIR -/
abbrev St.cvtPair : Nat := 0x2021
/-- ST_REDUCE_LONG -/
abbrev St.reduceLong : Nat := 0x2022
/-- ST_MATRIX_PAIR -/
abbrev St.matrixPair : Nat := 0x2030
/-- ST_OPERAND_RATE -/
abbrev St.operandRate : Nat := 0x2031
/-- ST_MATRIX_OVERLAP -/
abbrev St.matrixOverlap : Nat := 0x2032
/-- ST_PROG_REGION -/
abbrev St.progRegion : Nat := 0x2033
/-- ST_SEM_OVERFLOW -/
abbrev St.semOverflow : Nat := 0x2034
/-- ST_TREE_SPAN -/
abbrev St.treeSpan : Nat := 0x2035
/-- ST_TREE_MISMATCH -/
abbrev St.treeMismatch : Nat := 0x2036
/-- ST_ATT_FMT -/
abbrev St.attFmt : Nat := 0x2040
/-- ST_ATT_HEAD_DIM -/
abbrev St.attHeadDim : Nat := 0x2041
/-- ST_ATT_HEAD_MAP -/
abbrev St.attHeadMap : Nat := 0x2042
/-- ST_ATT_WINDOW -/
abbrev St.attWindow : Nat := 0x2043
/-- ST_ATT_TOKEN_RANGE -/
abbrev St.attTokenRange : Nat := 0x2044
/-- ST_KV_ID_UNKNOWN -/
abbrev St.kvIdUnknown : Nat := 0x2045
/-- ST_KV_ID_BUSY -/
abbrev St.kvIdBusy : Nat := 0x2046
/-- ST_RING_INVALID -/
abbrev St.ringInvalid : Nat := 0x2047
/-- ST_COACH_SIZE -/
abbrev St.coachSize : Nat := 0x2048
/-- ST_ILLEGAL_OP -/
abbrev St.illegalOp : Nat := 0x2050
/-- ST_PROG_BUSY -/
abbrev St.progBusy : Nat := 0x2051
/-- ST_PROG_RANGE -/
abbrev St.progRange : Nat := 0x2052
/-- ST_PARAM_CODE -/
abbrev St.paramCode : Nat := 0x2053
/-- ST_LOOP_DEPTH -/
abbrev St.loopDepth : Nat := 0x2054
/-- ST_PC_RANGE -/
abbrev St.pcRange : Nat := 0x2055
/-- ST_PROG_TRAP -/
abbrev St.progTrap : Nat := 0x2056
/-- ST_VEC_FUNC -/
abbrev St.vecFunc : Nat := 0x2057
/-- ST_MATRIX_SEG -/
abbrev St.matrixSeg : Nat := 0x2058
/-- ST_CMP_FMT -/
abbrev St.cmpFmt : Nat := 0x2060
/-- ST_CMP_MODE -/
abbrev St.cmpMode : Nat := 0x2061
/-- ST_CMP_EXTENT -/
abbrev St.cmpExtent : Nat := 0x2062
/-- ST_CMP_STRETCH -/
abbrev St.cmpStretch : Nat := 0x2063
/-- ST_OBJ_UNKNOWN -/
abbrev St.objUnknown : Nat := 0x2070
/-- ST_OBJ_EXISTS -/
abbrev St.objExists : Nat := 0x2071
/-- ST_OBJ_RANGE -/
abbrev St.objRange : Nat := 0x2072
/-- ST_OBJ_NOT_PINNED -/
abbrev St.objNotPinned : Nat := 0x2073
/-- ST_OBJ_PLACEMENT -/
abbrev St.objPlacement : Nat := 0x2074
/-- ST_TG_LIVE -/
abbrev St.tgLive : Nat := 0x2075
/-- ST_STR_SHAPE -/
abbrev St.strShape : Nat := 0x2080
/-- ST_STR_EXTENT -/
abbrev St.strExtent : Nat := 0x2081
/-- ST_STR_KIND -/
abbrev St.strKind : Nat := 0x2082
/-- ST_STR_CHANNEL -/
abbrev St.strChannel : Nat := 0x2083
/-- ST_DESC_OPCODE -/
abbrev St.descOpcode : Nat := 0x2090
/-- ST_TD_INVALID -/
abbrev St.tdInvalid : Nat := 0x2091
/-- ST_LNK_NO_ROUTE -/
abbrev St.lnkNoRoute : Nat := 0x20A0
/-- ST_COLL_MISMATCH -/
abbrev St.collMismatch : Nat := 0x20A1
/-- ST_INJECT_DENIED -/
abbrev St.injectDenied : Nat := 0x20A2
/-- ST_MB_TOO_LONG -/
abbrev St.mbTooLong : Nat := 0x20B0
/-- ST_EVAL_WRITE -/
abbrev St.evalWrite : Nat := 0x20B1
/-- ST_IMAGE_SIGNATURE -/
abbrev St.imageSignature : Nat := 0x20E0
/-- ST_IMAGE_ROLLBACK -/
abbrev St.imageRollback : Nat := 0x20E1
/-- ST_CFG_RING_OVERLAP (R352) -/
abbrev St.cfgRingOverlap : Nat := 0x2101
/-- ST_CFG_RING_SIZE (R352) -/
abbrev St.cfgRingSize : Nat := 0x2102
/-- ST_CFG_MSIX_VECTOR (R352) -/
abbrev St.cfgMsixVector : Nat := 0x2103
/-- ST_CFG_PACE (R352) -/
abbrev St.cfgPace : Nat := 0x2104
/-- ST_CFG_NO_TIME (R352) -/
abbrev St.cfgNoTime : Nat := 0x2105
/-- ST_CFG_ROUTE_LOOP (R352) -/
abbrev St.cfgRouteLoop : Nat := 0x2106
/-- ST_CFG_SPARE_MAP (R352) -/
abbrev St.cfgSpareMap : Nat := 0x2107
/-- ST_CFG_PARITY_GROUP (R352) -/
abbrev St.cfgParityGroup : Nat := 0x2108
/-- ST_CFG_MEM_OVERLAP (R352) -/
abbrev St.cfgMemOverlap : Nat := 0x2109
/-- ST_CFG_ZERO_SEED (R352) -/
abbrev St.cfgZeroSeed : Nat := 0x210A
/-- ST_CFG_INJECT (R352) -/
abbrev St.cfgInject : Nat := 0x210B
/-- ST_CFG_DUP_RANK (R352) -/
abbrev St.cfgDupRank : Nat := 0x210C
/-- ST_CFG_ATT_RING (R352) -/
abbrev St.cfgAttRing : Nat := 0x210D
/-- ST_CFG_CTAB_THRESH (R352) -/
abbrev St.cfgCtabThresh : Nat := 0x210E
/-- ST_CFG_RING_LINK (R352) -/
abbrev St.cfgRingLink : Nat := 0x210F
/-- ST_POISON_CONSUMED -/
abbrev St.poisonConsumed : Nat := 0x3020
/-- ST_TMEM_UNCORR -/
abbrev St.tmemUncorr : Nat := 0x3030
/-- ST_ATT_HDR_POISON -/
abbrev St.attHdrPoison : Nat := 0x3040
/-- ST_PROG_POISON -/
abbrev St.progPoison : Nat := 0x3050
/-- ST_CMP_ELEM_OVER -/
abbrev St.cmpElemOver : Nat := 0x3060
/-- ST_CMP_ELEM_UNDER -/
abbrev St.cmpElemUnder : Nat := 0x3061
/-- ST_CMP_BYTES_OVER -/
abbrev St.cmpBytesOver : Nat := 0x3062
/-- ST_CMP_BYTES_UNDER -/
abbrev St.cmpBytesUnder : Nat := 0x3063
/-- ST_CMP_HEADER -/
abbrev St.cmpHeader : Nat := 0x3064
/-- ST_CMP_TABLE_MISSING -/
abbrev St.cmpTableMissing : Nat := 0x3065
/-- ST_MEM_UNCORR -/
abbrev St.memUncorr : Nat := 0x3070
/-- ST_SHARD_VERSION_MISMATCH -/
abbrev St.shardVersionMismatch : Nat := 0x30B0
/-- ST_REPLAY_DIVERGED -/
abbrev St.replayDiverged : Nat := 0x30B1
/-- ST_STR_READ_ERR -/
abbrev St.strReadErr : Nat := 0x4080
/-- ST_STR_WRITE_ERR -/
abbrev St.strWriteErr : Nat := 0x4081
/-- ST_STR_FENCE_ERR -/
abbrev St.strFenceErr : Nat := 0x4082
/-- ST_DESC_FETCH_ERR -/
abbrev St.descFetchErr : Nat := 0x4090
/-- ST_LNK_DOWN -/
abbrev St.lnkDown : Nat := 0x40A0
/-- ST_LNK_UNREACHABLE -/
abbrev St.lnkUnreachable : Nat := 0x40A1
/-- ST_LNK_E2E_CRC -/
abbrev St.lnkE2eCrc : Nat := 0x40A2
/-- ST_FLASH_ERR -/
abbrev St.flashErr : Nat := 0x40E0
/-- ST_PINNED -/
abbrev St.pinned : Nat := 0x5003
/-- ST_KV_CAPACITY -/
abbrev St.kvCapacity : Nat := 0x5040
/-- ST_RING_BAYS -/
abbrev St.ringBays : Nat := 0x5041
/-- ST_OBJ_PIN_LIMIT -/
abbrev St.objPinLimit : Nat := 0x5070
/-- ST_SPARE_NONE -/
abbrev St.spareNone : Nat := 0x50D0
/-- ST_SPARE_EXHAUSTED -/
abbrev St.spareExhausted : Nat := 0x6010
/-- ST_TILE_RETIRED -/
abbrev St.tileRetired : Nat := 0x6030
/-- ST_LOCKSTEP_FAIL -/
abbrev St.lockstepFail : Nat := 0x6050
/-- ST_MEM_CHANNEL_RETIRED -/
abbrev St.memChannelRetired : Nat := 0x6070
/-- ST_MEM_RETIRE_EXHAUSTED -/
abbrev St.memRetireExhausted : Nat := 0x6071
/-- ST_MEM_OVERTEMP -/
abbrev St.memOvertemp : Nat := 0x6072
/-- ST_STEP_ABORTED -/
abbrev St.stepAborted : Nat := 0x60B0
/-- ST_TIME_SOURCE_LOST -/
abbrev St.timeSourceLost : Nat := 0x60C0
/-- ST_COMMIT_BLOCKED -/
abbrev St.commitBlocked : Nat := 0x60D0
/-- ST_TILE_WATCHDOG -/
abbrev St.tileWatchdog : Nat := 0x60D1
/-- ST_INPUT_OVERCURRENT -/
abbrev St.inputOvercurrent : Nat := 0x60D2
/-- ST_RAIL_WINDOW -/
abbrev St.railWindow : Nat := 0x60D3
/-- ST_DIE_OVERTEMP -/
abbrev St.dieOvertemp : Nat := 0x60D4
/-- ST_COOLANT_LOSS -/
abbrev St.coolantLoss : Nat := 0x60D5
/-- ST_PARITY_EXHAUSTED -/
abbrev St.parityExhausted : Nat := 0x60D6
/-- ST_INTERNAL -/
abbrev St.internal : Nat := 0x7000

/-- The class of a status code, bits [15:12] (R11). -/
def St.cls (s : Nat) : Nat := s / 0x1000

end Sys2Proof.Machine
end

