-- ==== Sys2Proof/Machine/AttTypes.lean ====
section
/-! DEFINITION. The data of the matrix engine's products and of an attention pass in progress: elements, block headers,
the parameter block, keys, row states, products with their draws, and what a pass still has to verify (R98, R136 to R155). -/

namespace Sys2Proof.Machine

/-- An element as an engine receives it: its value and the poison of the granules that hold it. -/
structure Elem where
  v : Val
  p : Bool
  deriving DecidableEq, Repr

/-- A product that the matrix engine forms in one segment (R90, R98): the draws' tensor, index and term numbers, the vectors
of each reduction step, and the words that the cells start from, by i·NC + j (none listed for +0). The cells of a `pair`
segment work in compensated pairs, hi in the low half of a word of 64 bits (R73, R149). -/
structure Seg where
  int : Bool
  pair : Bool
  m : Nat
  nc : Nat
  tensor : Nat
  outBase : Nat
  rowStride : Nat
  terms : List Nat
  a : List (List Val)
  b : List (List Val)
  /-- the terms that a row leaves out, by reduction step and row (none listed for no term) -/
  hide : List (List Bool)
  start : List Nat
  /-- a poisoned operand takes part (R99) -/
  poison : Bool
  deriving DecidableEq, Repr

/-- The block header (Table 04.2). -/
structure AttHdr where
  tokenBase : Nat
  count : Nat
  kvHead : Nat
  segMin : Nat
  segMax : Nat
  fmtK : Nat
  fmtV : Nat
  segArray : Bool
  posArray : Bool
  kLossless : Bool
  vLossless : Bool
  grad : Bool
  gradOnly : Bool
  headDim : Nat
  posBase : Nat
  kBytes : Nat
  vBytes : Nat
  gradBytes : Nat
  originPos : Nat
  originRing : Nat
  kScale : Nat
  vScale : Nat
  deriving DecidableEq, Repr

/-- The ATT parameter block (Table 05.16). -/
structure AttParam where
  q : Nat
  kv : Nat
  state : Nat
  out : Nat
  lse : Nat
  rot : Nat
  scale : Nat
  w : Nat
  window : Bool
  causal : Bool
  rotMode : Nat
  hq : Nat
  hkv : Nat
  head : Nat
  outFmt : Nat
  ring : Nat
  ringUsed : Bool
  tensor : Nat
  dAddr : Nat
  doAddr : Nat
  dkv : Nat
  nOrd : Nat
  tTok : Nat
  deriving DecidableEq, Repr

/-- What an accepted pass works with. -/
structure AttSetup where
  p : AttParam
  qa : Nat
  ka : Nat
  qh : AttHdr
  kh : AttHdr
  fq : Fmt
  fk : Fmt
  fv : Fmt
  fo : Fmt
  sq : Int
  sk : Int
  sv : Int
  deriving DecidableEq, Repr

/-- A key as a row meets it, rotated, with the flags of its rotation. -/
structure Key where
  t : Nat
  seg : Nat
  segP : Bool
  k : List Elem
  v : List Elem
  rot : Flags
  deriving DecidableEq, Repr

/-- A query row as a pass meets it, rotated, with the flags of its rotation and what the backward pass reads beside it: dO, L
and D. -/
structure Query where
  seg : Nat
  segP : Bool
  q : List Elem
  rot : Flags
  dO : List Elem
  lse : Nat
  lseP : Bool
  dd : Nat
  ddP : Bool
  deriving DecidableEq, Repr

/-- The row state while a pass runs (R146): m, ℓ and O as pairs, their poison, and whether it is to be written: it changed, or
took poison. -/
structure RowState where
  m : Val
  l : Val
  o : List Val
  pm : Bool
  po : List Bool
  changed : Bool
  flags : Flags
  deriving DecidableEq, Repr

/-- What a pass computes. -/
inductive PassKind where
  /-- R147 -/
  | forward
  /-- R155 -/
  | backward
  /-- a coach that has come home adds its gradient (R166) -/
  | home
  deriving DecidableEq, Repr

/-- An attention pass in progress: its operands as the operand port delivered them at issue, the products that are still to be
verified, the first in front, and the sums of those that have been accepted (R98). -/
structure AttRun where
  kind : PassKind
  init : Bool
  final : Bool
  /-- the headers alone show that no key is visible (R143) -/
  skip : Bool
  a : AttSetup
  keys : List Key
  queries : List Query
  /-- forward: the rows' states before the pass; backward: the stored dQ words of the rows, with their poison -/
  rows : List RowState
  dq : List (Nat × Bool)
  /-- the frequency table, and the rotary positions of rows and keys with the poison of table and position -/
  freqs : List Nat
  qpos : List (Nat × Bool)
  kpos : List (Nat × Bool)
  /-- where dK and dV rows lie, the ring hop from the block's origin and the pass's place in the dQ order (R155) -/
  grad : Nat
  hop : Nat
  nOrd : Nat
  todo : List Seg
  /-- the products with V, or those of dQ, dK and dV, have taken their turn -/
  second : Bool
  /-- words and flags of every cell of the accepted products: scores and dp, then O, or dQ, dK and dV -/
  scores : List (List (Nat × Flags))
  sums : List (List (Nat × Flags))
  /-- the digest of a failed first attempt, while the retry runs (R100) -/
  failed : Option Nat
  /-- a product was accepted under poison, or the tile was retired, or the parameter block is poisoned -/
  tainted : Bool
  deriving DecidableEq, Repr

end Sys2Proof.Machine
end

