-- ==== Sys2Proof/Machine/Store.lean ====
section
/-! DEFINITION. Sparse stores in one canonical form: byte memories (lists of Host.Cell with strictly rising
addresses and no entry equal to what an unlisted address reads as), sets of numbers, and tables by key. -/

namespace Sys2Proof.Machine

/-! ### Bytes -/

/-- What an address that the list does not hold reads as: tile memory is zeroed at reset (R116) and
stacked memory is zero-filled after a loss (R87, R288). DESIGN CHOICE: log entry 8. -/
def unlistedByte : Byte := 0

/-- The byte at an address. DESIGN CHOICE: log entry 8. -/
def Cells.get : List Host.Cell → Nat → Byte
  | [], _ => unlistedByte
  | (k, b) :: cs, a => if k = a then b else Cells.get cs a

/-- A cell unless it says what an unlisted address says anyway. -/
def Cells.cons (a : Nat) (b : Byte) (cs : List Host.Cell) : List Host.Cell :=
  if b = unlistedByte then cs else (a, b) :: cs

/-- Write one byte, keeping the canonical form. -/
def Cells.put : List Host.Cell → Nat → Byte → List Host.Cell
  | [], a, b => Cells.cons a b []
  | (k, c) :: cs, a, b =>
    if a < k then Cells.cons a b ((k, c) :: cs)
    else if a = k then Cells.cons a b cs
    else (k, c) :: Cells.put cs a b

/-- The canonical form from a lower bound on: addresses strictly rise and no entry equals `unlistedByte`. -/
def Cells.wfFrom : Nat → List Host.Cell → Bool
  | _, [] => true
  | lo, (k, b) :: cs => decide (lo ≤ k) && decide (b ≠ unlistedByte) && Cells.wfFrom (k + 1) cs

def Cells.wf (cs : List Host.Cell) : Bool := Cells.wfFrom 0 cs

def Cells.write : List Host.Cell → Nat → List Byte → List Host.Cell
  | cs, _, [] => cs
  | cs, a, b :: bs => Cells.write (Cells.put cs a b) (a + 1) bs

def Cells.read (cs : List Host.Cell) (a n : Nat) : List Byte :=
  (List.range n).map fun i => Cells.get cs (a + i)

/-! ### Sets of numbers, strictly rising -/

def NSet.has : List Nat → Nat → Bool
  | [], _ => false
  | k :: ks, a => k == a || NSet.has ks a

def NSet.add : List Nat → Nat → List Nat
  | [], a => [a]
  | k :: ks, a => if a < k then a :: k :: ks else if a = k then k :: ks else k :: NSet.add ks a

def NSet.del : List Nat → Nat → List Nat
  | [], _ => []
  | k :: ks, a => if k = a then NSet.del ks a else k :: NSet.del ks a

def NSet.set (ks : List Nat) (a : Nat) (b : Bool) : List Nat :=
  if b then NSet.add ks a else NSet.del ks a

def NSet.addAll (ks : List Nat) (l : List Nat) : List Nat := l.foldl NSet.add ks

/-! ### Tables by key, with a default for the keys not listed -/

def Tbl.find {α : Type} : List (Nat × α) → Nat → Option α
  | [], _ => none
  | (k, v) :: t, a => if k = a then some v else Tbl.find t a

def Tbl.get {α : Type} (t : List (Nat × α)) (d : α) (a : Nat) : α := (Tbl.find t a).getD d

def Tbl.put {α : Type} : List (Nat × α) → Nat → α → List (Nat × α)
  | [], a, v => [(a, v)]
  | (k, w) :: t, a, v =>
    if a < k then (a, v) :: (k, w) :: t
    else if a = k then (a, v) :: t
    else (k, w) :: Tbl.put t a v

def Tbl.del {α : Type} : List (Nat × α) → Nat → List (Nat × α)
  | [], _ => []
  | (k, w) :: t, a => if k = a then Tbl.del t a else (k, w) :: Tbl.del t a

/-- Apply a function to every listed value. -/
def Tbl.mapVals {α : Type} (f : Nat → α → α) : List (Nat × α) → List (Nat × α)
  | [] => []
  | (k, v) :: t => (k, f k v) :: Tbl.mapVals f t

/-- Replace entry `i` of a list; out of range leaves it alone. -/
def lset {α : Type} : List α → Nat → α → List α
  | [], _, _ => []
  | _ :: t, 0, v => v :: t
  | a :: t, n + 1, v => a :: lset t n v

/-- Remove entry `i` of a list. -/
def ldel {α : Type} : List α → Nat → List α
  | [], _ => []
  | _ :: t, 0 => t
  | a :: t, n + 1 => a :: ldel t n

/-! ### Memories with poison tags and check codes -/

/-- A memory: bytes, the poison tags of its 64 B granules, and the words whose next read meets an
uncorrectable or a correctable error (R113, R265). The word size is the memory's own. -/
structure Mem where
  cells : List Host.Cell
  poison : List Nat
  uncorr : List Nat
  single : List Nat
  deriving DecidableEq, Repr

/-- DESIGN CHOICE: log entry 8. -/
def Mem.empty : Mem := ⟨[], [], [], []⟩

def Mem.byte (m : Mem) (a : Nat) : Byte := Cells.get m.cells a

def Mem.read (m : Mem) (a n : Nat) : List Byte := Cells.read m.cells a n

def Mem.nat (m : Mem) (a n : Nat) : Nat := leNat (m.read a n)

/-- The numbers of the aligned blocks of `size` bytes that the range touches. -/
def blocksOf (size a n : Nat) : List Nat :=
  if n = 0 then [] else (List.range ((a + n - 1) / size + 1 - a / size)).map (· + a / size)

/-- Does a range touch a poisoned 64 B granule? -/
def Mem.poisoned (m : Mem) (a n : Nat) : Bool := (blocksOf 64 a n).any (NSet.has m.poison)

/-- The poison tag of the granule that holds a byte. -/
def Mem.tag (m : Mem) (a : Nat) : Bool := NSet.has m.poison (a / 64)

/-- The tag a granule takes from a write of `n` bytes at `a` (R114): a whole write sets it to the
state of the data, a partial write only raises it. -/
def Mem.tagWrite (poison : List Nat) (a n : Nat) (p : Bool) (g : Nat) : List Nat :=
  if a ≤ 64 * g ∧ 64 * g + 64 ≤ a + n then NSet.set poison g p
  else if p then NSet.add poison g else poison

/-- Write bytes with one poison state; the check codes are the caller's concern. -/
def Mem.writeRaw (m : Mem) (a : Nat) (bs : List Byte) (p : Bool) : Mem :=
  { m with
    cells := Cells.write m.cells a bs
    poison := (blocksOf 64 a bs.length).foldl (fun acc g => Mem.tagWrite acc a bs.length p g) m.poison }

/-- Write that meets the memory's check codes with words of `wsize` bytes (R113, R265): a word wholly
covered loses its pending errors; a word partly covered is read first, so an uncorrectable error poisons
its granule and is reported. Answers the memory and the words whose uncorrectable error was met. -/
def Mem.write (wsize : Nat) (m : Mem) (a : Nat) (bs : List Byte) (p : Bool) : Mem × List Nat × Nat :=
  let ws := blocksOf wsize a bs.length
  let partly := ws.filter fun w => ¬ (a ≤ wsize * w ∧ wsize * w + wsize ≤ a + bs.length)
  let met := partly.filter (NSet.has m.uncorr)
  let fixed := partly.filter fun w => NSet.has m.single w && !NSet.has m.uncorr w
  let m1 := m.writeRaw a bs p
  ({ m1 with
     poison := NSet.addAll m1.poison (met.map fun w => wsize * w / 64)
     uncorr := ws.foldl NSet.del m.uncorr
     single := ws.foldl NSet.del m.single }, met, fixed.length)

/-- A read meets the check codes of its words (R113, R265): correctable errors are corrected and written
back, uncorrectable ones poison the granule, and the bytes it delivers are those that the memory holds. A word struck by
both kinds is uncorrectable. DESIGN CHOICE: log entry 63. Answers the memory, the uncorrectable words met and the number
of corrections. -/
def Mem.touch (wsize : Nat) (m : Mem) (a n : Nat) : Mem × List Nat × Nat :=
  let ws := blocksOf wsize a n
  let met := ws.filter (NSet.has m.uncorr)
  let fixed := ws.filter fun w => NSet.has m.single w && !NSet.has m.uncorr w
  ({ m with
     poison := NSet.addAll m.poison (met.map fun w => wsize * w / 64)
     uncorr := met.foldl NSet.del m.uncorr
     single := ws.foldl NSet.del m.single }, met, fixed.length)

/-- Tag the granules of a range and keep their bytes and their check codes (R145). -/
def Mem.tagRange (m : Mem) (a n : Nat) : Mem := { m with poison := NSet.addAll m.poison (blocksOf 64 a n) }

/-- The memory's canonical form. -/
def Mem.wf (m : Mem) : Bool := Cells.wf m.cells

end Sys2Proof.Machine
end

