-- ==== Sys2Proof/Machine/TileTypes.lean ====
section
/-! DEFINITION. The state of one tile (chapters 03 and 05): sequencer, register files, tile memory,
semaphores, engines at work, outgoing messages and the tile register block. -/

namespace Sys2Proof.Machine

/-- A hardware loop counter (SEQ_LOOP_n, R190, R212). -/
structure LoopCtr where
  count : Nat
  start : Nat
  stop : Nat
  active : Bool
  deriving DecidableEq, Repr

def LoopCtr.idle : LoopCtr := ⟨0, 0, 0, false⟩

/-- A semaphore pair with its initial values (R117, R119, R135; R310 for a stream channel's pair). -/
structure Sem where
  full : Nat
  empty : Nat
  fullRemote : Bool
  emptyRemote : Bool
  fullInit : Nat
  emptyInit : Nat
  deriving DecidableEq, Repr

def Sem.zero : Sem := ⟨0, 0, false, false, 0, 0⟩

/-- The sequencer's states (Table 05.3). -/
inductive SeqState where
  | parked
  | running
  | faulted
  | loading
  deriving DecidableEq, Repr

def SeqState.code : SeqState → Nat
  | .parked => 0
  | .running => 1
  | .faulted => 2
  | .loading => 3

/-- What holds back the sequencer's next issue. -/
inductive Stall where
  | none
  | wait (pair ctr count : Nat)
  | stwait (engine channel : Nat)
  | fence
  | ending
  /-- the instruction at PC waits on a register-file, zone or engine hazard (R107, R108, R204) -/
  | hazard
  /-- the message at PC waits for room in the stream port's queue (R316) -/
  | port
  /-- the STREAM at PC waits for room in its channel's queue (R291) -/
  | queue
  /-- the instruction at PC was refused and has no effect (R208) -/
  | refused
  deriving DecidableEq, Repr

/-- One write that an engine's instruction makes when it completes: to the register files or to tile
memory, with the poison of the data. Where `tags` is not 0, so many bytes are tagged and nothing is written (R145). -/
structure Write where
  file : Bool
  addr : Nat
  data : List Byte
  poison : Bool
  tags : Nat
  deriving DecidableEq, Repr

/-- One fold into a calibrator record (R83): object id, magnitude as FP32 bits, saturations, non-finite values. -/
structure CalFold where
  obj : Nat
  /-- the format that the values are stored in, by its code -/
  fmt : Nat
  amax : Nat
  sats : Nat
  nonfin : Nat
  deriving DecidableEq, Repr

/-- A matrix instruction at work (R90 to R101, R200 to R202): its parameters, its operands as the operand
port delivers them, one vector per reduction step, and how many segments have spilled. -/
structure MmaRun where
  int : Bool
  outFmt : Nat
  m : Nat
  nc : Nat
  n : Nat
  cont : Bool
  more : Bool
  rowout : Bool
  rowmag : Bool
  dst : Nat
  tensor : Nat
  outBase : Nat
  rowStride : Nat
  kBase : Nat
  wideAddr : Nat
  aVecs : List (List Val)
  bVecs : List (List Val)
  aPois : List (List Bool)
  bPois : List (List Bool)
  seg : Nat
  /-- the digest of a failed first attempt, while the retry runs (R100) -/
  failed : Option Nat
  /-- a segment spilled under poison, the tile was retired, or the parameter block is poisoned (R79, R100, R102) -/
  tainted : Bool
  deriving DecidableEq, Repr

/-- What an instruction in progress is. -/
inductive Work where
  | vec
  | mma (r : MmaRun)
  | att (r : AttRun)
  | tree (channel : Nat)
  deriving DecidableEq, Repr

/-- An issued instruction that has not completed (R174): its PC, the register files, zones and engines it
reads and writes as bit masks (R107, R108, R204), and what its completion writes. -/
structure Inflight where
  id : Nat
  pc : Nat
  work : Work
  rd : Nat
  wr : Nat
  writes : List Write
  folds : List CalFold
  flags : Flags
  deriving DecidableEq, Repr

/-- Where a handcart message goes (Table 08.8). -/
inductive HcTarget where
  | tile (t : Nat)
  | chan (unit engine channel : Nat)
  | mbox (m : Nat)
  deriving DecidableEq, Repr

/-- A handcart message (Table 08.9): destination, header bytes 0 to 7 and payload; the SIGNAL and COUNT
fields are read from the header. IDENT is written as the message leaves. -/
structure HcMsg where
  rank : Nat
  target : HcTarget
  header : List Byte
  payload : List Byte
  poison : Bool
  deriving DecidableEq, Repr

/-- A message in a tile's stream port, with the instructions it must follow (SCOPE 0, R192). -/
structure PortMsg where
  msg : HcMsg
  after : List Nat
  /-- it has waited for a full mailbox (R323) -/
  waited : Bool
  deriving DecidableEq, Repr

/-- A signal to the tile's own semaphore that SCOPE 0 holds back (R192). -/
structure SelfSig where
  after : List Nat
  pc : Nat
  pair : Nat
  ctr : Nat
  count : Nat
  deriving DecidableEq, Repr

/-- SEQ_FAULT (Table 05.24). -/
structure SeqFault where
  status : Nat
  more : Bool
  pc : Nat
  detail : Nat
  deriving DecidableEq, Repr

/-- Who raised a semaphore counter last (R33, R119): a tile of the module, a channel of the module, or another module. -/
inductive Raiser where
  | tile (t : Nat)
  | chan
  | peer (rank : Nat)
  deriving DecidableEq, Repr

def Raiser.remote : Raiser → Bool
  | .tile _ => false
  | .chan => false
  | .peer _ => true

/-- Region of a logical tile, over the four dies (R38). -/
def regionOf (t : Nat) : Nat := t / 4096 * 64 + t / 64 % 64 / 8 * 8 + t % 64 / 8

/-- One tile. Tables list only the entries that differ from zero. -/
structure Tile where
  state : SeqState
  g : List (Nat × Word)
  pc : Nat
  loops : List (Nat × LoopCtr)
  progLen : Nat
  progEntry : Nat
  progValid : Bool
  stepNo : Nat
  held : Option Nat
  fault : SeqFault
  stall : Stall
  /-- branch predictor: 2-bit counters by PC[7:0], the same in both copies (R206) -/
  btb : List (Nat × Nat)
  branches : Nat
  misses : Nat
  lockRetries : Nat
  solo : Bool
  /-- a first lockstep mismatch awaits its second attempt (R175) -/
  lockPending : Bool
  inflight : List Inflight
  nextId : Nat
  asw : Flags
  retired : Bool
  repairPending : Bool
  corrected : Nat
  uncorrected : Nat
  scrubLate : Nat
  /-- the scrub's next word, 32,768 once the pass has read them all, and when the pass before ended (R115) -/
  scrubPos : Nat
  scrubAt : Nat
  /-- the pass has been counted as late -/
  scrubOver : Bool
  /-- the expander's table slots, the latest used first: a table's id and generation, or 2^16 and the place of an inline
  table part (R242) -/
  slots : List (Nat × Nat)
  /-- slot builds that the matrix engine still waits for: the address of the record that a table by id is read from, or 0,
  and the nanoseconds left (R244) -/
  building : List (Nat × Nat)
  factor : Nat
  rho : Nat
  chkRetries : Nat
  tolMisses : Nat
  skipped : Nat
  /-- checksum history: entry index to value, valid entries only (R103, R133) -/
  hist : List (Nat × Nat)
  idle : List (Nat × Nat)
  sems : List (Nat × Sem)
  /-- who raised a counter last, by pair·2 + counter; none since the release (R33, R119, R164) -/
  raised : List (Nat × Raiser)
  mem : Mem
  files : Mem
  port : List PortMsg
  selfSigs : List SelfSig
  /-- transfers started and not complete, by engine·8 + channel (R195), each with its far end's idle cause -/
  streams : List (Nat × Nat)
  /-- the liveness count, its last sample and the milliseconds it has stood still (R467) -/
  live : Nat
  liveSeen : Nat
  liveMs : Nat
  liveDead : Bool
  deriving DecidableEq, Repr

/-- A tile at reset (R116, R124 to R135, R211 to R218): all zero, F at 256. DESIGN CHOICE: log entry 7. -/
def Tile.reset : Tile where
  state := .parked
  g := []
  pc := 0
  loops := []
  progLen := 0
  progEntry := 0
  progValid := false
  stepNo := 0
  held := none
  fault := ⟨0, false, 0, 0⟩
  stall := .none
  btb := []
  branches := 0
  misses := 0
  lockRetries := 0
  solo := false
  lockPending := false
  inflight := []
  nextId := 0
  asw := 0
  retired := false
  repairPending := false
  corrected := 0
  uncorrected := 0
  scrubLate := 0
  scrubPos := 0
  scrubAt := 0
  scrubOver := false
  slots := []
  building := []
  factor := 256
  rho := 0
  chkRetries := 0
  tolMisses := 0
  skipped := 0
  hist := []
  idle := []
  sems := []
  raised := []
  mem := Mem.empty
  files := Mem.empty
  port := []
  selfSigs := []
  streams := []
  live := 0
  liveSeen := 0
  liveMs := 0
  liveDead := false

/-- An event as its raiser posts it (Table 09.8); STEP, TIME and GEN are added when it is queued. -/
structure Ev where
  status : Nat
  flags : Nat
  source : Nat
  loc : Nat
  detail : Nat
  deriving DecidableEq, Repr

/-- What a tile's work does outside the tile. -/
inductive Eff where
  | ev (e : Ev)
  | fold (c : CalFold)
  /-- blocks that failed a check of R245 (R247) -/
  | decodeErrs (n : Nat)
  /-- the tile will make the module vote not clean (R208, R470) -/
  | notClean (tile status : Nat)
  /-- the tile has been retired (R102) -/
  | retire (tile : Nat)
  /-- a read of `n` bytes of stacked memory at `a`, which meets its check codes (R265) -/
  | stackRead (a n : Nat)
  deriving DecidableEq, Repr

/-- A tile and the effects its work had outside it. -/
structure TileRes where
  tile : Tile
  effs : List Eff
  deriving DecidableEq, Repr

/-- A ring as an attention pass sees it (R163, R171, R172): VALID and whether its bays suffice. -/
structure RingInfo where
  valid : Bool
  baysOk : Bool
  deriving DecidableEq, Repr

/-- What a tile instruction reads of the rest of the module; in `stack` the granules whose pending errors the code cannot
correct carry poison, as a read of them would find. -/
structure TileCtx where
  num : Nat
  seed : Nat
  stack : Mem
  calBase : Nat
  /-- the nanoseconds in which the expander builds a table slot (R242) -/
  slotNs : Nat
  rings : List RingInfo
  deriving DecidableEq, Repr

end Sys2Proof.Machine
end

