-- ==== Sys2Proof/Machine/Operands.lean ====
section
/-! DEFINITION. The operand forms of tile instructions: scalar registers, tile references and operand
bytes (R186), elements of every format (R43 to R48), hazard masks (R107, R108, R204), and the writes of an
instruction with their poison (R79, R114). -/

namespace Sys2Proof.Machine

/-! ### Scalar registers (R173, R211) -/

/-- Scalar register gn; g0 reads as 0. -/
def Tile.reg (t : Tile) (n : Nat) : Word := if n = 0 then 0 else Tbl.get t.g 0 n

/-- Write scalar register gn; writes to g0 are ignored. -/
def Tile.setReg (t : Tile) (n : Nat) (v : Word) : Tile :=
  if n = 0 then t else { t with g := Tbl.put t.g n v }

def Tile.regNat (t : Tile) (n : Nat) : Nat := (t.reg n).toNat

/-! ### Places -/

/-- First byte of the program region (R112). -/
def progBase : Nat := 0x7C000

/-- Bytes of tile memory. -/
def tmemSize : Nat := 2 ^ 19

/-- An operand's place: in the register files (one address space, see `fileSpace`) or in tile memory. -/
structure Place where
  file : Bool
  addr : Nat
  deriving DecidableEq, Repr

/-- Base and size of a register file space by its code (Tables 03.6 and 05.6). -/
def fileSpace : Nat → Option (Nat × Nat)
  | 0 => some (0, 4096)
  | 1 => some (4096, 4096)
  | 2 => some (8192, 4096)
  | 3 => some (12288, 4096)
  | 5 => some (16384, 384)
  | 6 => some (16768, 384)
  | _ => none

/-- Judge an extent of `n` bytes at value `v` of a space, aligned to `al` bytes in S0, S1 and tile memory
and to 4 B in the accumulator files and side rows (R186, Table 05.6). -/
def placeOf (space v n al : Nat) : Except Nat Place :=
  if space = 4 then
    if v ≥ tmemSize ∨ v + n > tmemSize then .error St.addrRange
    else if v % al ≠ 0 then .error St.paramCode
    else .ok ⟨false, v⟩
  else
    match fileSpace space with
    | none => .error St.paramCode
    | some (base, size) =>
      if v ≥ size ∨ v + n > size then .error St.paramCode
      else if v % (if space ≤ 1 then al else 4) ≠ 0 then .error St.paramCode
      else .ok ⟨true, base + v⟩

/-- An operand byte: bits [7:5] the space, bits [4:0] the register (R186). -/
def Tile.operand (t : Tile) (ob n al : Nat) : Except Nat Place :=
  placeOf (ob / 32) (t.regNat (ob % 32)) n al

/-- A destination operand byte: the program region refuses engine writes (R112). -/
def Tile.destOperand (t : Tile) (ob n al : Nat) : Except Nat Place :=
  match t.operand ob n al with
  | .error e => .error e
  | .ok p => if p.file = false ∧ p.addr + n > progBase then .error St.progRegion else .ok p

/-- A tile reference: g + 16·offset (R186), for `n` bytes. -/
def Tile.tileRef (t : Tile) (ref n : Nat) : Except Nat Nat :=
  let a := t.regNat (ref / 2 ^ 15 % 32) + 16 * (ref % 2 ^ 15)
  if a ≥ tmemSize ∨ a + n > tmemSize then .error St.addrRange else .ok a

def Tile.memAt (t : Tile) (p : Place) : Mem := if p.file then t.files else t.mem

/-! ### Hazard masks: bits 0 to 31 the zones, 32 to 35 the files S0, S1, A0, A1, 36 the matrix engine -/

def zoneMask (a n : Nat) : Nat := (blocksOf 0x4000 a n).foldl (fun m z => m ||| 2 ^ z) 0

def fileBit (addr : Nat) : Nat :=
  if addr < 4096 then 32
  else if addr < 8192 then 33
  else if addr < 12288 then 34
  else if addr < 16384 then 35
  else if addr < 16768 then 34
  else 35

def matrixBit : Nat := 2 ^ 36

def Place.mask (p : Place) (n : Nat) : Nat := if p.file then 2 ^ fileBit p.addr else zoneMask p.addr n

/-- Does an instruction in progress hold back one that reads `rd` and writes `wr` (R107, R108, R204)? DEDUCED: log entry 17. -/
def Tile.hazard (t : Tile) (rd wr : Nat) : Bool :=
  t.inflight.any fun f => (f.wr &&& (rd ||| wr)) != 0 || (f.rd &&& wr) != 0

/-! ### Elements -/

/-- A value times 2^k. -/
def Val.shift (v : Val) (k : Int) : Val :=
  match v with
  | .num n m e => .num n m (if m = 0 then 0 else e + k)
  | v => v

/-- Bytes of one group of 256 MX elements (R47). -/
def mxGroupBytes (f : Fmt) : Nat := 16 + 32 * f.elemBits

/-- The value of an MX element under its block's scale byte (R46). -/
def mxValue (f : Fmt) (scale bits : Nat) : Val :=
  if scale = 255 then .nan else (f.layout.decode bits).shift ((scale : Int) - 127)

/-- Element `i` of a tensor of format `f` that starts at `addr` (R47). -/
def Mem.elem (m : Mem) (addr : Nat) (f : Fmt) (i : Nat) : Elem :=
  if f.isMX then
    let g := addr + (i / 256) * mxGroupBytes f
    let sc := g + i % 256 / 32
    let bit := i % 256 * f.elemBits
    let a := g + 16 + bit / 8
    let n := (bit % 8 + f.elemBits + 7) / 8
    let w := (m.nat a n >>> (bit % 8)) % 2 ^ f.elemBits
    ⟨mxValue f (m.byte sc).toNat w, m.tag sc || m.poisoned a n⟩
  else
    let n := f.elemBits / 8
    ⟨f.decode (m.nat (addr + n * i) n), m.poisoned (addr + n * i) n⟩

def Mem.elems (m : Mem) (addr : Nat) (f : Fmt) (n : Nat) : List Elem :=
  (List.range n).map (m.elem addr f)

/-- Raw bits of element `i` of a plain format, with its poison. -/
def Mem.rawElem (m : Mem) (addr size i : Nat) : Nat × Bool :=
  (m.nat (addr + size * i) size, m.poisoned (addr + size * i) size)

/-! ### Writes -/

/-- Bytes with their poison, cut at granule boundaries so that every granule takes the poison of the
outputs it holds (R79). -/
def chunkWrites (file : Bool) : Nat → List (Byte × Bool) → List Write
  | _, [] => []
  | a, (b, p) :: r =>
    match chunkWrites file (a + 1) r with
    | [] => [⟨file, a, [b], p, 0⟩]
    | w :: ws =>
      if a / 64 = (a + 1) / 64 then ⟨file, a, b :: w.data, p || w.poison, 0⟩ :: ws
      else ⟨file, a, [b], p, 0⟩ :: w :: ws

/-- The writes of elements of `size` bytes each. -/
def elemWrites (pl : Place) (size : Nat) (out : List (Nat × Bool)) : List Write :=
  chunkWrites pl.file pl.addr (out.flatMap fun e => (leBytes size e.1).map fun b => (b, e.2))

/-! ### Check codes of tile memory (R113) -/

def tileEv (num status detail : Nat) : Eff := .ev ⟨status, 0, 1, num % 2 ^ 14, detail⟩

def satAdd (w x y : Nat) : Nat := min (2 ^ w - 1) (x + y)

def uncorrEffs (num : Nat) (met : List Nat) : List Eff :=
  met.map fun w => tileEv num St.tmemUncorr (16 * w)

/-- Tile memory after a read of `n` bytes met its check codes. -/
def Tile.touch (num : Nat) (t : Tile) (a n : Nat) : TileRes :=
  let r := t.mem.touch 16 a n
  ⟨{ t with
     mem := r.1
     corrected := satAdd 32 t.corrected r.2.2
     uncorrected := satAdd 16 t.uncorrected r.2.1.length }, uncorrEffs num r.2.1⟩

/-- A write into tile memory, with the check codes of partly covered words. -/
def Tile.writeMem (num : Nat) (t : Tile) (a : Nat) (bs : List Byte) (p : Bool) : TileRes :=
  let r := t.mem.write 16 a bs p
  ⟨{ t with
     mem := r.1
     corrected := satAdd 32 t.corrected r.2.2
     uncorrected := satAdd 16 t.uncorrected r.2.1.length }, uncorrEffs num r.2.1⟩

def TileRes.bind (r : TileRes) (f : Tile → TileRes) : TileRes :=
  let r' := f r.tile
  ⟨r'.tile, r.effs ++ r'.effs⟩

def TileRes.ok (t : Tile) : TileRes := ⟨t, []⟩

def Tile.touchAll (num : Nat) (t : Tile) : List (Nat × Nat) → TileRes
  | [] => .ok t
  | (a, n) :: l => (t.touch num a n).bind fun t' => Tile.touchAll num t' l

/-- Read the check codes of an operand that may lie in a register file, which has none. -/
def Tile.touchPlace (num : Nat) (t : Tile) (p : Place) (n : Nat) : TileRes :=
  if p.file then .ok t else t.touch num p.addr n

def Tile.applyWrite (num : Nat) (t : Tile) (w : Write) : TileRes :=
  if w.tags ≠ 0 then .ok { t with mem := t.mem.tagRange w.addr w.tags }
  else if w.file then .ok { t with files := t.files.writeRaw w.addr w.data w.poison }
  else t.writeMem num w.addr w.data w.poison

def Tile.applyWrites (num : Nat) (t : Tile) : List Write → TileRes
  | [] => .ok t
  | w :: ws => (t.applyWrite num w).bind fun t' => Tile.applyWrites num t' ws

end Sys2Proof.Machine
end

