-- ==== Sys2Proof/Machine/VectorUnit.lean ====
section
/-! DEFINITION. The vector engine's results: VOP, VRED, CVT and MERGE (R57 to R60, R69 to R71, R77, R83,
R104, R198, R199). -/

namespace Sys2Proof.Machine

/-- A code table that the expander decodes with (R242): its id and generation, or 2^16 and the place of an inline table part;
and where the lengths of a table by id are read from, 0 for an inline one. -/
structure TableUse where
  id : Nat
  gen : Nat
  src : Nat
  deriving DecidableEq, Repr

/-- What an engine will do with an instruction it has accepted. -/
structure Out where
  writes : List Write
  folds : List CalFold
  flags : Flags
  work : Work
  effs : List Eff
  tables : List TableUse

/-- An accepted instruction before its hazards are clear: what it reads and writes, the tile memory
ranges whose check codes its reads meet, and its result on the tile as it stands at issue. -/
structure Plan where
  rd : Nat
  wr : Nat
  touch : List (Nat × Nat)
  run : Tile → Out

/-- An instruction that completes at once and touches nothing. -/
def Plan.nothing : Plan := ⟨0, 0, [], fun _ => ⟨[], [], 0, .vec, [], []⟩⟩

/-- The judgement of an instruction at issue: a refusal's status, or a plan. -/
abbrev Judged := Except Nat Plan

def touchOf (p : Place) (n : Nat) : List (Nat × Nat) := if p.file then [] else [(p.addr, n)]

def pzIf (p : Bool) : Flags := if p then Flags.pz else 0

/-! ### VOP (R199) -/

/-- Operands a function reads, none when Table 05.12 does not list it. -/
def vopArity : Nat → Option Nat
  | 0x00 => some 1
  | 0x01 => some 2
  | 0x02 => some 2
  | 0x03 => some 2
  | 0x04 => some 3
  | 0x05 => some 2
  | 0x06 => some 1
  | 0x07 => some 1
  | 0x08 => some 1
  | 0x09 => some 1
  | 0x0A => some 1
  | 0x0B => some 1
  | 0x0C => some 1
  | 0x0D => some 1
  | 0x0E => some 1
  | 0x0F => some 2
  | 0x10 => some 2
  | 0x11 => some 2
  | 0x12 => some 3
  | 0x13 => some 1
  | 0x14 => some 1
  | _ => none

/-- Functions marked for the wide format (Table 05.12). -/
def vopWide : Nat → Bool
  | 0x00 => true
  | 0x01 => true
  | 0x02 => true
  | 0x03 => true
  | 0x04 => true
  | 0x05 => true
  | 0x06 => true
  | 0x07 => true
  | 0x09 => true
  | 0x13 => true
  | 0x14 => true
  | _ => false

def Val.maxOf (a b : Val) : Val × Flags :=
  if a.isNaN || b.isNaN then (.nan, Flags.nv) else (if a.lt b then b else a, 0)

def Val.minOf (a b : Val) : Val × Flags :=
  if a.isNaN || b.isNaN then (.nan, Flags.nv) else (if b.lt a then b else a, 0)

/-- Round an exact vector result, keeping the flags of its special values. -/
def vround (l : Layout) (r : Val × Flags) : Val × Flags :=
  let q := l.round .rne 0 false r.1
  (q.1, r.2 ||| q.2)

/-- A value that a function hands on: its bits, or the canonical NaN with NV (R45, R68). DEDUCED: log entry 15. -/
def Layout.handOn (l : Layout) (a : Nat) : Nat × Flags :=
  if (l.decode a).isNaN then (l.encode .nan, Flags.nv) else (a, 0)

/-- One element of a VOP on raw bits. No NaN's sign or payload goes on (R45); ABS and NEG raise no flag (R199), and SELECT
takes a NaN in SRC1 as different from 0. DEDUCED: log entry 15. -/
def vopElem (func : Nat) (l : Layout) (a b c : Nat) : Nat × Flags :=
  let top := 2 ^ (l.width - 1)
  let x := l.decode a
  let y := l.decode b
  let z := l.decode c
  let fin := fun (r : Val × Flags) => (l.encode r.1, r.2)
  match func with
  | 0x00 => l.handOn a
  | 0x01 => fin (vround l (x.add y))
  | 0x02 => fin (vround l (x.add y.negate))
  | 0x03 => fin (vround l (x.mul y))
  | 0x04 => let p := x.mul y; let s := p.1.add z; fin (vround l (s.1, p.2 ||| s.2))
  | 0x05 => fin (vround l (x.div y))
  | 0x06 => fin (vround l ((Val.num false 1 0).div x))
  | 0x07 => fin (vround l x.sqrt)
  | 0x08 => fin (vrsqrt x)
  | 0x09 => fin (if l.width = 64 then vexpWide x else vexp false false x)
  | 0x0A => fin (vexp true false x)
  | 0x0B => fin (vlog false x)
  | 0x0C => fin (vlog true x)
  | 0x0D => fin (vtanh x)
  | 0x0E => fin (vsigmoid x)
  | 0x0F => fin (x.maxOf y)
  | 0x10 => fin (x.minOf y)
  | 0x11 => if x.isNaN || y.isNaN then (0, Flags.nv) else fin (if x.lt y then Val.num false 1 0 else Val.zero, 0)
  | 0x12 =>
    let r := l.handOn (if x.isZero then c else b)
    (r.1, r.2 ||| (if x.isNaN then Flags.nv else 0))
  | 0x13 => (if x.isNaN then l.encode .nan else a % top, 0)
  | _ => (if x.isNaN then l.encode .nan else if a / top = 1 then a - top else a + top, 0)

def orFlags (l : List Flags) : Flags := l.foldl (· ||| ·) 0

/-- The result elements of a VOP over `n` elements. -/
def vopElems (func : Nat) (l : Layout) (es n : Nat) (ma mb mc : Mem) (a b c : Nat) :
    List (Nat × Bool × Flags) :=
  (List.range n).map fun i =>
    let x := ma.rawElem a es i
    let y := mb.rawElem b es i
    let z := mc.rawElem c es i
    let ar := (vopArity func).getD 3
    let p := x.2 || (decide (2 ≤ ar) && y.2) || (decide (3 ≤ ar) && z.2)
    let r := vopElem func l x.1 y.1 z.1
    (r.1, p, r.2 ||| pzIf p)

def planVop (t : Tile) (f : VopF) : Judged :=
  match vopArity f.func with
  | none => .error St.vecFunc
  | some ar =>
    if f.wide ∧ vopWide f.func = false then .error St.vecFunc
    else
      let n := t.regNat f.lreg
      if n = 0 then .ok .nothing
      else
        let es := if f.wide then 8 else 4
        let l := if f.wide then Layout.wide else Layout.fp32
        match t.operand f.src1 (n * es) es with
        | .error e => .error e
        | .ok s1 =>
          match if 2 ≤ ar then t.operand f.src2 (n * es) es else .ok s1 with
          | .error e => .error e
          | .ok s2 =>
            match if 3 ≤ ar then t.operand f.src3 (n * es) es else .ok s1 with
            | .error e => .error e
            | .ok s3 =>
              match t.destOperand f.dst (n * es) es with
              | .error e => .error e
              | .ok d =>
                .ok {
                  rd := s1.mask (n * es) ||| s2.mask (n * es) ||| s3.mask (n * es)
                  wr := d.mask (n * es)
                  touch := touchOf s1 (n * es) ++ (if 2 ≤ ar then touchOf s2 (n * es) else [])
                    ++ (if 3 ≤ ar then touchOf s3 (n * es) else [])
                  run := fun t' =>
                    let out := vopElems f.func l es n (t'.memAt s1) (t'.memAt s2) (t'.memAt s3)
                      s1.addr s2.addr s3.addr
                    ⟨elemWrites d es (out.map fun e => (e.1, e.2.1)), [],
                      orFlags (out.map fun e => e.2.2), .vec, [], []⟩ }

/-! ### VRED (R70, R71, R198) -/

/-- Accumulate values in wide with RNE, in order, from +0. -/
def wideSum (l : List Val) : Val × Flags :=
  l.foldl (fun acc v => let r := addWide acc.1 v; (r.1, acc.2 ||| r.2)) (Val.zero, 0)

/-- One level of the fixed tree: result 2i meets result 2i + 1. -/
def treeLevel : List (Val × Flags) → List (Val × Flags)
  | a :: b :: r => (let s := addWide a.1 b.1; (s.1, a.2 ||| b.2 ||| s.2)) :: treeLevel r
  | r => r

/-- The sum of R70: 64 lanes, then six levels of wide adds. -/
def laneSum (l : List Val) : Val × Flags :=
  let lanes := (List.range 64).map fun i =>
    wideSum ((List.range ((l.length + 63 - i) / 64)).filterMap fun k => l[i + 64 * k]?)
  match treeLevel (treeLevel (treeLevel (treeLevel (treeLevel (treeLevel lanes))))) with
  | r :: _ => r
  | [] => (Val.zero, 0)

/-- A contender of a maximum or minimum: value and index (R71). -/
structure Winner where
  v : Val
  idx : Nat
  deriving DecidableEq, Repr

def Winner.identity (isMax : Bool) : Winner := ⟨.inf isMax, 0xFFFFFFFF⟩

/-- The combination of R71: a NaN beats every number, equal values and NaNs go to the lower index. -/
def Winner.combine (isMax : Bool) (a b : Winner) : Winner :=
  if a.v.isNaN && b.v.isNaN then (if b.idx < a.idx then b else a)
  else if a.v.isNaN then a
  else if b.v.isNaN then b
  else if (if isMax then a.v.lt b.v else b.v.lt a.v) then b
  else if (if isMax then b.v.lt a.v else a.v.lt b.v) then a
  else if b.idx < a.idx then b else a

def winnerOf (isMax : Bool) (l : List Winner) : Winner :=
  l.foldl (Winner.combine isMax) (Winner.identity isMax)

/-- Formats a sum may be rounded into (R198, R121): a reserved code and any other code are refused. -/
def sumFmt (code : Nat) : Except Nat Fmt :=
  match Fmt.ofCode code with
  | none => .error St.fmtReserved
  | some .fp32 => .ok .fp32
  | some .bf16 => .ok .bf16
  | some .fp16 => .ok .fp16
  | some .e4m3 => .ok .e4m3
  | some .e5m2 => .ok .e5m2
  | some .wide => .ok .wide
  | some _ => .error St.paramCode

/-- The bits of a maximum's or minimum's value and index. -/
def winnerBytes (l : Layout) (w : Winner) : List Byte :=
  leBytes (l.width / 8) (l.encode w.v) ++ leBytes 4 w.idx

def planVred (t : Tile) (f : VredF) : Judged :=
  if f.func > 2 then .error St.vecFunc
  else
    match (if f.func = 0 then sumFmt f.dstfmt else .ok .fp32) with
    | .error e => .error e
    | .ok fm =>
      let n := t.regNat f.lreg
      let es := if f.wide then 8 else 4
      let l := if f.wide then Layout.wide else Layout.fp32
      if f.func ≠ 0 ∧ n > 0xFFFFFFFF then .error St.reduceLong
      else
        let dn := if f.func = 0 then fm.elemBits / 8 else es + 4
        let al := if f.func = 0 then fm.elemBits / 8 else es
        match (if n = 0 then .ok ⟨true, 0⟩ else t.operand f.src (n * es) es) with
        | .error e => .error e
        | .ok s =>
          match t.destOperand f.dst dn al with
          | .error e => .error e
          | .ok d =>
            .ok {
              rd := if n = 0 then 0 else s.mask (n * es)
              wr := d.mask dn
              touch := if n = 0 then [] else touchOf s (n * es)
              run := fun t' =>
                let raw := (List.range n).map ((t'.memAt s).rawElem s.addr es)
                let vals := raw.map fun e => l.decode e.1
                let p := raw.any fun e => e.2
                if f.func = 0 then
                  let sm := laneSum vals
                  let r := fm.store .rne 0 false sm.1
                  ⟨elemWrites d dn [(r.1, p)], [], sm.2 ||| r.2 ||| pzIf p, .vec, [], []⟩
                else
                  let w := winnerOf (f.func == 1) (vals.zipIdx.map fun e => ⟨e.1, e.2⟩)
                  ⟨chunkWrites d.file d.addr ((winnerBytes l w).map fun b => (b, p)), [],
                    (if w.v.isNaN then Flags.nv else 0) ||| pzIf p, .vec, [], []⟩ }

/-! ### CVT (R57 to R60, R83) -/

def Rounding.ofCode : Nat → Rounding
  | 0 => .rne
  | 1 => .rtz
  | 2 => .rto
  | _ => .sr

/-- Is the pair of formats supported in the mode (R57, R59)? -/
def cvtPairOk (src dst : Fmt) (mode : Rounding) : Bool :=
  (if src.isMX then dst == .fp32
   else if dst.isMX then src == .fp32
   else true) &&
  !(dst.isInt && (mode == .rto || mode == .sr))

/-- An element of an MX block: rounded in the mode, limited to the largest finite magnitude (R60). A magnitude overflows as R59
has it; E4M3 magnitudes above 448 that do not are 448, toward zero with no flag and to odd with SAT. DEDUCED: log entry 15. -/
def mxElemRound (l : Layout) (mode : Rounding) (u : Nat) (clamped : Bool) (v : Val) : Nat × Flags :=
  match v with
  | .nan => (0, Flags.nv)
  | .inf neg =>
    (match l.special with
     | .ieee => (l.encode (.inf neg), 0)
     | _ => (l.encode (l.maxVal neg), Flags.sat))
  | .num neg m e =>
    if m = 0 then (l.encode (.num neg 0 0), 0)
    else
      let q : Int := max (e + (Nat.log2 m : Int)) l.emin - l.fbits
      let t := roundMag m e q mode u
      if t = 0 then (l.encode (.num neg 0 0), Flags.unf)
      else if l.overflows mode m e then
        (l.encode (l.maxVal neg), Flags.sat ||| (if clamped then Flags.ovf else 0))
      else if cmpMag t q l.maxSig (l.emax - l.fbits) == .gt then
        (l.encode (l.maxVal neg), if mode == .rtz then 0 else Flags.sat)
      else (l.encode (.num neg t q), 0)

/-- The exponent of the largest finite magnitude of a block, none when it is zero. -/
def blockExp (vs : List Val) : Option Int :=
  vs.foldl (fun acc v =>
    match v with
    | .num _ m e =>
      if m = 0 then acc
      else
        let x := e + (Nat.log2 m : Int)
        (match acc with
         | none => some x
         | some y => some (max x y))
    | _ => acc) none

def mxEmax : Fmt → Int
  | .mx8e4 => 8
  | .mx8e5 => 15
  | .mx6e3 => 4
  | _ => 2

/-- One block of R60: its scale byte, its element codes and its flags. `us` gives the draws. -/
def mxBlock (f : Fmt) (mode : Rounding) (us : Nat → Nat) (vs : List Val) : Nat × List Nat × Flags :=
  if vs.any Val.isNaN then (255, vs.map fun _ => 0, Flags.nv)
  else
    let xr : Int := match blockExp vs with
      | none => 0
      | some x => x - mxEmax f + 127
    let x : Nat := (max 0 (min 254 xr)).toNat
    let es := vs.zipIdx.map fun e =>
      mxElemRound f.layout mode (us e.2) (decide (254 < xr)) (e.1.shift (127 - (x : Int)))
    (x, es.map (·.1), orFlags (es.map (·.2)))

/-- Pack `bits`-wide codes into bytes, the first lowest (R47). -/
def packBits (bits n : Nat) (codes : List Nat) : List Byte :=
  leBytes n (codes.foldr (fun c acc => c % 2 ^ bits + acc * 2 ^ bits) 0)

/-- Take `n` elements from position `i`, padded with zeros. -/
def takePad (l : List Elem) (i n : Nat) : List Elem :=
  (List.range n).map fun k => (l[i + k]?).getD ⟨Val.zero, false⟩

/-- One group of 256 elements (R47): header, packed elements, flags, with the poison of each byte. -/
def mxGroup (f : Fmt) (mode : Rounding) (us : Nat → Nat) (es : List Elem) (i total : Nat) :
    List (Byte × Bool) × Flags :=
  let blocks := (List.range 8).map fun b =>
    let e := takePad es (i + 32 * b) 32
    let r := mxBlock f mode (fun k => us (i + 32 * b + k)) (e.map (·.v))
    (if i + 32 * b < total then r else (0, r.2.1, 0), e.any (·.p))
  let hdr := blocks.map (fun b => (BitVec.ofNat 8 b.1.1, b.2)) ++ List.replicate 8 (0, false)
  let body := blocks.flatMap fun b =>
    (packBits f.elemBits (4 * f.elemBits) b.1.2.1).map fun x => (x, b.2)
  (hdr ++ body, orFlags (blocks.map fun b => b.1.2.2))

/-- The magnitude a calibrator fold takes from a presented value (R83): FP32 bits, none for NaN and ±∞. A wide value in range
that FP32 cannot hold is rounded with RNE, for which R83 names no rounding. DESIGN CHOICE: log entry 55. -/
def foldMag (v : Val) : Option Nat :=
  match v with
  | .num _ m e =>
    if m = 0 then some 0
    else
      (match (rne32 (.num false m e)).1 with
       | .inf _ => some (enc32 (Layout.fp32.maxVal false))
       | r => some (enc32 r))
  | _ => none

/-- The fold of R83 from presented values and the flags of their conversions. -/
def foldOf (obj fmt : Nat) (vs : List Val) (fl : List Flags) : CalFold :=
  { obj := obj
    fmt := fmt
    amax := vs.foldl (fun a v => max a ((foldMag v).getD 0)) 0
    sats := (fl.filter fun x => x &&& Flags.sat != 0).length
    nonfin := (vs.filter fun v => (foldMag v).isNone).length }

/-- Where SCALE of an object's calibrator record lies (Table 02.11). -/
def TileCtx.scaleAt (c : TileCtx) (obj : Nat) : Nat := c.calBase + 128 * obj + 64

/-- SCALE of an object's calibrator record; +0 is taken as 1 (R82, R87). -/
def calScale (c : TileCtx) (obj : Nat) : Val :=
  let v := val32 (c.stack.nat (c.scaleAt obj) 4)
  if v.isZero then Val.num false 1 0 else v

def planCvt (c : TileCtx) (t : Tile) (f : CvtF) : Judged :=
  match Fmt.ofCode f.srcfmt, Fmt.ofCode f.dstfmt with
  | none, _ => .error St.fmtReserved
  | _, none => .error St.fmtReserved
  | some sf, some df =>
    let mode := Rounding.ofCode f.rm
    if cvtPairOk sf df mode = false then .error St.cvtPair
    else if f.scaled ∧ df ≠ .e4m3 ∧ df ≠ .e5m2 then .error St.paramCode
    else
      let n := t.regNat f.lreg
      if n = 0 then .ok .nothing
      else
        let sn := sf.bytesFor n
        let dn := df.bytesFor n
        let sal := if sf.isMX then 1 else sf.elemBits / 8
        let dal := if df.isMX then 1 else df.elemBits / 8
        match t.operand f.src sn sal with
        | .error e => .error e
        | .ok s =>
          match t.destOperand f.dst dn dal with
          | .error e => .error e
          | .ok d =>
            let w := t.regNat f.ireg
            let obj := bitsOf w 19 0
            let first := bitsOf w 51 20
            let us := fun i => draw c.seed (drawCounter t.stepNo 1 obj ((first + i) % 2 ^ 32))
            let sc := if f.scaled then calScale c obj else Val.num false 1 0
            .ok {
              rd := s.mask sn
              wr := d.mask dn
              touch := touchOf s sn
              run := fun t' =>
                let sp := f.scaled && c.stack.poisoned (c.scaleAt obj) 4
                let es := ((t'.memAt s).elems s.addr sf n).map fun e => { e with p := e.p || sp }
                let pz := pzIf (es.any (·.p))
                if df.isMX then
                  let gs := (List.range ((n + 255) / 256)).map fun g => mxGroup df mode us es (256 * g) n
                  ⟨chunkWrites d.file d.addr (gs.flatMap (·.1)), [], orFlags (gs.map (·.2)) ||| pz, .vec, [], []⟩
                else
                  let rs := es.zipIdx.map fun e =>
                    let v := if f.scaled then (e.1.v.mul sc).1 else e.1.v
                    df.store mode (us e.2) f.nanmode v
                  ⟨elemWrites d (df.elemBits / 8) ((rs.zip es).map fun x => (x.1.1, x.2.p)),
                    (if f.scaled then [foldOf obj df.code (es.map (·.v)) (rs.map (·.2))] else []),
                    orFlags (rs.map (·.2)) ||| pz, .vec, (if f.scaled then [.stackRead (c.scaleAt obj) 4] else []), []⟩ }

/-! ### Compensated pairs and MERGE (R73, R77) -/

/-- A pair (hi, lo) of FP32 words as a value: NaN and infinities are those of hi. -/
def pairVal (hi lo : Nat) : Val :=
  match val32 hi with
  | .num n m e => ((Val.num n m e).add (val32 lo)).1
  | v => v

/-- Split a value into a pair: the flags are those of rounding hi (R73). -/
def splitPair (x : Val) : Nat × Nat × Flags :=
  let h := rne32 x
  match h.1 with
  | .nan => (enc32 .nan, enc32 .nan, h.2)
  | .inf n => (enc32 (.inf n), 0, h.2)
  | hv => (enc32 hv, enc32 (rne32 (x.add hv.negate).1).1, h.2)

/-- α of MERGE: 0 for an empty state, else the exponential of the difference in wide, without UF. -/
def mergeAlpha (mi m : Val) : Val × Flags :=
  if mi = .inf true then (Val.zero, 0)
  else
    let d := addWide mi m.negate
    let r := vexpWide d.1
    (r.1, (d.2 ||| r.2) &&& ~~~Flags.unf)

def mulWide (a b : Val) : Val × Flags :=
  let p := a.mul b
  let r := rneWide p.1
  (r.1, p.2 ||| r.2)

/-- α1·x1 + α2·x2 in wide with RNE. -/
def blendWide (a1 x1 a2 x2 : Val) : Val × Flags :=
  let p := mulWide a1 x1
  let q := mulWide a2 x2
  let s := addWide p.1 q.1
  (s.1, p.2 ||| q.2 ||| s.2)

/-- Field k (0: m, 1: ℓ, 2 + c: column c of O) of a record, as a wide value with its poison (R146). -/
def stateField (m : Mem) (rec k : Nat) : Val × Bool :=
  let a := rec + 8 * k
  ((rneWide (pairVal (m.nat a 4) (m.nat (a + 4) 4))).1, m.poisoned a 8)

/-- One merged record: pairs with their poison, and flags. -/
def mergeRow (ma mb : Mem) (ra rb d : Nat) : List (Nat × Nat × Bool) × Flags :=
  let m1 := stateField ma ra 0
  let m2 := stateField mb rb 0
  let m := m1.1.maxOf m2.1
  let a1 := mergeAlpha m1.1 m.1
  let a2 := mergeAlpha m2.1 m.1
  let pm := m1.2 || m2.2
  let sm := splitPair m.1
  let rest := (List.range (d + 1)).map fun k =>
    let x := stateField ma ra (k + 1)
    let y := stateField mb rb (k + 1)
    let b := blendWide a1.1 x.1 a2.1 y.1
    let s := splitPair b.1
    ((s.1, s.2.1, pm || x.2 || y.2), b.2 ||| s.2.2)
  ((sm.1, sm.2.1, pm) :: rest.map (·.1), m.2 ||| a1.2 ||| a2.2 ||| sm.2.2 ||| orFlags (rest.map (·.2)))

def recBytes (d : Nat) : Nat := 16 + 8 * d

def planMerge (t : Tile) (f : MergeF) : Judged :=
  if f.rows > 128 then .error St.paramCode
  else if f.rows = 0 then .ok .nothing
  else
    let d := 64 * (f.headDim + 1)
    let n := f.rows * recBytes d
    match t.operand f.src1 n 64 with
    | .error e => .error e
    | .ok s1 =>
      match t.operand f.src2 n 64 with
      | .error e => .error e
      | .ok s2 =>
        match t.destOperand f.dst n 64 with
        | .error e => .error e
        | .ok dp =>
          .ok {
            rd := s1.mask n ||| s2.mask n
            wr := dp.mask n
            touch := touchOf s1 n ++ touchOf s2 n
            run := fun t' =>
              let rows := (List.range f.rows).map fun r =>
                mergeRow (t'.memAt s1) (t'.memAt s2) (s1.addr + r * recBytes d) (s2.addr + r * recBytes d) d
              let out := rows.flatMap (·.1)
              ⟨chunkWrites dp.file dp.addr
                  (out.flatMap fun e => (leBytes 4 e.1 ++ leBytes 4 e.2.1).map fun b => (b, e.2.2)),
                [], orFlags (rows.map (·.2)) ||| pzIf (out.any fun e => e.2.2), .vec, [], []⟩ }

end Sys2Proof.Machine
end

