-- ==== Sys2Proof/Machine/Codec.lean ====
section
/-! DEFINITION. Compression (chapter 06): block headers, lossy and lossless blocks, code tables, the
encoder's choice per block, and the operand expander's checks and decoding. -/

namespace Sys2Proof.Machine

/-! ### Block header (Table 06.2) -/

structure BlkHdr where
  size : Nat
  mode : Nat
  rate : Nat
  fmt : Nat
  count : Nat
  table : Nat
  gen : Nat
  codeUnits : Nat
  x : Nat
  deriving DecidableEq, Repr

def BlkHdr.parse (b : List Byte) : BlkHdr :=
  let w := leNat b
  ⟨bitsOf w 15 0, bitsOf w 17 16, bitsOf w 19 18, bitsOf w 27 24, bitsOf w 47 32, bitsOf w 59 48,
    bitsOf w 79 64, bitsOf w 95 80, bitsOf w 103 96⟩

def BlkHdr.bytes (h : BlkHdr) : List Byte :=
  leBytes 2 h.size ++ leBytes 1 (h.mode + 4 * h.rate) ++ leBytes 1 h.fmt ++ leBytes 2 h.count ++
    leBytes 2 h.table ++ leBytes 2 h.gen ++ leBytes 2 h.codeUnits ++ leBytes 1 h.x ++ leBytes 3 0

/-- Formats that lossless mode allows (Table 06.1). -/
def losslessFmt : Fmt → Bool
  | .fp32 => true
  | .bf16 => true
  | .fp16 => true
  | .e4m3 => true
  | .e5m2 => true
  | .mx8e4 => true
  | .mx8e5 => true
  | _ => false

/-- Formats that the lossy mode allows (Table 06.1). -/
def lossyFmt : Fmt → Bool
  | .fp32 => true
  | .bf16 => true
  | .fp16 => true
  | _ => false

/-- Alphabet size and mantissa bits (Table 06.5). -/
def symShape : Fmt → Nat × Nat
  | .fp32 => (512, 23)
  | .bf16 => (512, 7)
  | .fp16 => (64, 10)
  | .e5m2 => (64, 2)
  | .mx8e5 => (64, 2)
  | _ => (32, 3)

/-- Units of 16 B of a raw block (R222). -/
def rawUnits (f : Fmt) (count : Nat) : Nat :=
  if f.isMX then 1 + (mxGroupBytes f + 15) / 16 else 1 + (count * (f.elemBits / 8) + 15) / 16

/-! ### Codes (R230, R231) -/

/-- Canonical codes: (length, code, symbol) for every symbol with a code. -/
def assignLevel (len : List Nat) (l : Nat) : Nat → List (Nat × Nat × Nat) × Nat :=
  fun code =>
    len.zipIdx.foldl (fun acc e =>
      if e.1 = l then (acc.1 ++ [(l, acc.2, e.2)], acc.2 + 1) else acc) ([], code)

def assignFrom (len : List Nat) : Nat → Nat → Nat → List (Nat × Nat × Nat)
  | 0, _, _ => []
  | fuel + 1, l, code =>
    let r := assignLevel len l code
    r.1 ++ assignFrom len fuel (l + 1) (2 * r.2)

def assignCodes (len : List Nat) : List (Nat × Nat × Nat) := assignFrom len 12 1 0

/-- Lengths of at most 12 that form a complete code (R230, R245). -/
def completeCode (len : List Nat) : Bool :=
  len.all (· ≤ 12) &&
    ((len.filter (· ≠ 0)).foldl (fun a l => a + 2 ^ (12 - l)) 0 == 2 ^ 12)

/-- A node of the Huffman construction: weight, key and its leaves. -/
structure HNode where
  w : Nat
  key : Nat
  syms : List Nat
  deriving DecidableEq, Repr

def HNode.insert (n : HNode) : List HNode → List HNode
  | [] => [n]
  | m :: ms =>
    if n.w < m.w ∨ (n.w = m.w ∧ n.key < m.key) then n :: m :: ms else m :: HNode.insert n ms

/-- Merge the two least nodes until one remains, raising the length of every leaf below a merge. -/
def huffMerge : Nat → List HNode → List Nat → List Nat
  | 0, _, len => len
  | fuel + 1, a :: b :: r, len =>
    let syms := a.syms ++ b.syms
    let len' := len.zipIdx.map fun e => if syms.contains e.2 then e.1 + 1 else e.1
    huffMerge fuel (HNode.insert ⟨a.w + b.w, min a.key b.key, syms⟩ r) len'
  | _ + 1, _, len => len

def huffman (w : List Nat) : List Nat :=
  let nodes := w.zipIdx.foldl (fun acc e => if e.1 > 0 then HNode.insert ⟨e.1, e.2, [e.2]⟩ acc else acc) []
  huffMerge nodes.length nodes (w.map fun _ => 0)

/-- Give the lowest unused symbols weight 1 until two symbols have weight. -/
def fillTwo : Nat → Nat → List Nat → List Nat
  | 0, _, w => w
  | fuel + 1, s, w =>
    if (w.filter (· > 0)).length ≥ 2 then w
    else fillTwo fuel (s + 1) (if w[s]? = some 0 then lset w s 1 else w)

def limitLengths : Nat → List Nat → List Nat
  | 0, w => huffman w
  | fuel + 1, w =>
    let len := huffman w
    if len.all (· ≤ 12) then len
    else limitLengths fuel (w.map fun x => if x > 0 then x / 2 + 1 else 0)

/-- `build_lengths` (R231). -/
def buildLengths (h : List Nat) : List Nat :=
  limitLengths ((h.foldl max 0).log2 + 4) (fillTwo h.length 0 h)

/-- Code lengths in nibble order (R232): 256 bytes for 512 symbols. -/
def nibbles (b : List Byte) : List Nat := b.flatMap fun x => [x.toNat % 16, x.toNat / 16]

def packNibbles (n : Nat) (len : List Nat) : List Byte :=
  (List.range n).map fun i => BitVec.ofNat 8 ((len[2 * i]?).getD 0 + 16 * (len[2 * i + 1]?).getD 0)

/-! ### Decoding symbols (R229) -/

/-- Read one code, most significant bit first, from bit `pos` of a stream of `total` bits. -/
def readCode (codes : List (Nat × Nat × Nat)) (stream total : Nat) : Nat → Nat → Nat → Nat → Option (Nat × Nat)
  | 0, _, _, _ => none
  | fuel + 1, pos, l, acc =>
    if pos ≥ total then none
    else
      let acc' := 2 * acc + (if stream.testBit pos then 1 else 0)
      match codes.find? fun c => c.1 = l + 1 ∧ c.2.1 = acc' with
      | some c => some (c.2.2, pos + 1)
      | none => readCode codes stream total fuel (pos + 1) (l + 1) acc'

/-- Read `n` symbols; none when the stream ends first (check 3). -/
def readSyms (codes : List (Nat × Nat × Nat)) (stream total : Nat) : Nat → Nat → Option (List Nat × Nat)
  | 0, pos => some ([], pos)
  | n + 1, pos =>
    match readCode codes stream total 12 pos 0 0 with
    | none => none
    | some (s, pos') =>
      match readSyms codes stream total n pos' with
      | none => none
      | some (l, p) => some (s :: l, p)

/-- Element codes of `count` fixed-width fields. -/
def fieldsOf (w bits count : Nat) : List Nat :=
  (List.range count).map fun i => (w >>> (bits * i)) % 2 ^ bits

/-! ### The lossy mode (R224 to R227) -/

def lossyXmin (f : Fmt) (b : Nat) : Nat := if f = .fp16 then 102 + b else 0

/-- The value of a lossy code (R225). -/
def lossyVal (b x q : Nat) : Val :=
  if x = 255 then .nan
  else
    let s := signedOf b q
    let lim : Int := (2 ^ (b - 1) : Nat) - 1
    let s' := if s < -lim then -lim else s
    Val.ofInt s' ((x : Int) - 127 - ((b : Int) - 1))

/-- Encode one lossy block: shared exponent, codes of the COUNT elements, flags (R224, R227). -/
def lossyEncode (f : Fmt) (b : Nat) (vs : List Val) : Nat × List Nat × Flags :=
  if vs.any fun v => v.isNaN || v.isInf then (255, vs.map fun _ => 0, Flags.nv)
  else
    let xmin : Int := lossyXmin f b
    let x : Nat := (match blockExp vs with
      | none => xmin
      | some e => min 254 (max xmin (e + 128))).toNat
    let lim := 2 ^ (b - 1) - 1
    let d : Int := (x : Int) - 127 - ((b : Int) - 1)
    let one := fun (v : Val) =>
      match v with
      | .num neg m e =>
        let q := if m = 0 then 0 else roundMag m e d .rne 0
        let c := min q lim
        (unsignedOf b (if neg then -(c : Int) else (c : Int)),
          (if m ≠ 0 ∧ cmpMag m e 1 127 ≠ Ordering.lt then Flags.sat ||| Flags.ovf else 0))
      | _ => (0, 0)
    let r := vs.map one
    (x, r.map (·.1), orFlags (r.map (·.2)))

/-! ### The operand expander (R242 to R247) -/

/-- A code table as a block meets it: its lengths, or bad. -/
inductive CodeTable where
  | good (len : List Nat)
  | bad
  deriving DecidableEq, Repr

/-- One record of the table array as the expander and compressor see it (Table 06.6). -/
structure TabRec where
  gen : Nat
  fmt : Nat
  valid : Bool
  lenCur : List Nat
  lenPrev : List Nat
  deriving DecidableEq, Repr

def tabRec (stack : Mem) (base t : Nat) : TabRec :=
  let a := base + 4096 * t
  { gen := stack.nat a 2
    fmt := stack.nat (a + 2) 1 % 16
    valid := bitOf (stack.nat (a + 3) 1) 0
    lenCur := nibbles (stack.read (a + 64) 256)
    lenPrev := nibbles (stack.read (a + 320) 256) }

/-- The table a block by id decodes with (check 2 of R245). -/
def tableById (stack : Mem) (base : Nat) (f : Fmt) (id gen : Nat) : CodeTable :=
  let r := tabRec stack base id
  let len := if r.valid then
      (if gen = r.gen then some r.lenCur else if (gen + 1) % 2 ^ 16 = r.gen then some r.lenPrev else none)
    else none
  match len with
  | none => .bad
  | some l => let l' := l.take (symShape f).1; if completeCode l' then .good l' else .bad

/-- The parts of a block in units (R222, R224, R229). -/
def blkParts (h : BlkHdr) (f : Fmt) : Nat :=
  match h.mode with
  | 0 => rawUnits f h.count
  | 2 => 2 * (h.rate + 4) + 1
  | _ => 1 + (if f.isMX then 1 else 0) + h.codeUnits + (h.count * (symShape f).2 + 127) / 128

/-- Check 1 of R245 for a block. -/
def hdrOk (h : BlkHdr) (f : Fmt) : Bool :=
  (h.mode ≠ 3) && (h.rate ≠ 3) &&
  (h.mode ≠ 1 || losslessFmt f) && (h.mode ≠ 2 || lossyFmt f) &&
  h.fmt == f.code && decide (1 ≤ h.count) && decide (h.count ≤ 256) && decide (h.size ≠ 0) &&
  (h.mode ≠ 1 || decide (8 * h.size ≤ 7 * rawUnits f 256))

/-- Decode a block whose header passed check 1: the element codes as values, or the failing status.
`body` is everything after the header; bits that a code stream asks for beyond it read as 0. DESIGN CHOICE: log entry 27. -/
def decodeBody (h : BlkHdr) (f : Fmt) (tab : CodeTable) (body : List Byte) : Except Nat (List Val) :=
  let parts := blkParts h f
  let sizeCheck := fun (vs : List Val) =>
    if parts > h.size then .error St.cmpBytesOver
    else if parts < h.size then .error St.cmpBytesUnder
    else .ok vs
  match h.mode with
  | 0 =>
    let w := leNat body
    if f.isMX then
      sizeCheck ((List.range h.count).map fun i =>
        mxValue f (bitsOf w (8 * (i / 32) + 7) (8 * (i / 32))) ((w >>> (128 + f.elemBits * i)) % 2 ^ f.elemBits))
    else sizeCheck ((fieldsOf w f.elemBits h.count).map f.decode)
  | 2 => sizeCheck ((fieldsOf (leNat body) (h.rate + 4) h.count).map (lossyVal (h.rate + 4) h.x))
  | _ =>
    match tab with
    | .bad => .error St.cmpTableMissing
    | .good len =>
      let pre := if f.isMX then 16 else 0
      let total := 128 * h.codeUnits
      let stream := leNat ((body.drop pre).take (16 * h.codeUnits))
      match readSyms (assignCodes len) stream total h.count 0 with
      | none => .error St.cmpElemUnder
      | some (syms, pos) =>
        if total - pos ≥ 128 then .error St.cmpElemOver
        else
          let m := (symShape f).2
          let mant := fieldsOf (leNat (body.drop (pre + 16 * h.codeUnits))) m h.count
          let scales := leNat (body.take 8)
          let codes := (syms.zip mant).map fun x => x.1 * 2 ^ m + x.2
          sizeCheck (codes.zipIdx.map fun c =>
            if f.isMX then mxValue f (bitsOf scales (8 * (c.2 / 32) + 7) (8 * (c.2 / 32))) c.1
            else f.decode c.1)

/-- What the expander delivers of one operand: elements by place, the first failure with its tile memory
offset, and how many blocks failed. -/
structure Expanded where
  elems : List Elem
  first : Option (Nat × Nat)
  failed : Nat
  /-- the code tables that its blocks name, in order (R242) -/
  tables : List TableUse
  deriving DecidableEq, Repr

def Expanded.fail (x : Expanded) (status off : Nat) : Expanded :=
  { x with
    elems := x.elems ++ List.replicate 256 ⟨Val.zero, true⟩
    first := x.first.or (some (status, off))
    failed := x.failed + 1 }

/-- A table part as the blocks after it meet it: its lengths, and whether it carries poison. A part that fails check 1 poisons
every block that uses it (R240, R245, R246). -/
structure InlineTable where
  table : CodeTable
  poison : Bool
  place : Nat
  deriving DecidableEq, Repr

/-- DESIGN CHOICE: log entry 27. -/
def inlineTable (mem : Mem) (f : Fmt) (h : BlkHdr) (a : Nat) : InlineTable :=
  let len := (nibbles (mem.read (a + 16) 256)).take (symShape f).1
  ⟨if h.size = 17 ∧ h.count = 0 ∧ h.rate ≠ 3 ∧ h.fmt = f.code ∧
    completeCode len = true then .good len else .bad, mem.poisoned a 272, a⟩

/-- The table that a lossless block decodes with, or the status of the check that it fails. -/
def blockTable (stack : Mem) (ctab : Nat) (f : Fmt) (h : BlkHdr) (inl : Option InlineTable) : Except Nat (CodeTable × Bool) :=
  if h.table = 0xFFF then
    match inl with
    | none => .error St.cmpTableMissing
    | some ⟨.bad, _, _⟩ => .error St.cmpHeader
    | some ⟨x, p, _⟩ => .ok (x, p)
  else .ok (tableById stack ctab f h.table h.gen, stack.poisoned (ctab + 4096 * h.table) 576)

/-- The table that a lossless block names, for the table slots. -/
def tableUse (ctab : Nat) (h : BlkHdr) (inl : Option InlineTable) : List TableUse :=
  if h.mode ≠ 1 then []
  else if h.table = 0xFFF then
    match inl with
    | some x => [⟨2 ^ 16, x.place, 0⟩]
    | none => []
  else [⟨h.table, h.gen, ctab + 4096 * h.table⟩]

/-- Walk a run of table parts and blocks in tile memory from `a` to `stop`, for `need` places (R240 to R247). A block whose header
lies in the run is decoded from the bytes that follow it, those beyond `stop` too. DESIGN CHOICE: log entry 27. -/
def expandRun (mem stack : Mem) (ctab : Nat) (f : Fmt) (stop need : Nat) :
    Nat → Nat → Option InlineTable → Expanded → Expanded
  | 0, _, _, x => x
  | fuel + 1, a, inl, x =>
    if x.elems.length ≥ need then x
    else if a + 16 > stop then
      -- the next header lies beyond the operand: the rest is poisoned +0
      { x with elems := x.elems ++ List.replicate (need - x.elems.length) ⟨Val.zero, true⟩ }
    else
      let h := BlkHdr.parse (mem.read a 16)
      if h.size = 0 then
        { x with
          elems := x.elems ++ List.replicate (need - x.elems.length) ⟨Val.zero, true⟩
          first := x.first.or (some (St.cmpHeader, a))
          failed := x.failed + 1 }
      else if h.mode = 3 then
        expandRun mem stack ctab f stop need fuel (a + 16 * h.size) (some (inlineTable mem f h a)) x
      else if hdrOk h f = false then
        expandRun mem stack ctab f stop need fuel (a + 16 * h.size) inl (x.fail St.cmpHeader a)
      else
        let tab : Except Nat (CodeTable × Bool) := if h.mode = 1 then blockTable stack ctab f h inl else .ok (.bad, false)
        let r : Except Nat (List Val) := match tab with
          | .error e => .error e
          | .ok tp => decodeBody h f tp.1 (mem.read (a + 16) (16 * (h.size - 1)))
        let p := mem.poisoned a (16 * h.size) || (match tab with
          | .ok tp => tp.2
          | .error _ => false)
        let x := { x with tables := x.tables ++ tableUse ctab h inl }
        match r with
        | .error e => expandRun mem stack ctab f stop need fuel (a + 16 * h.size) inl (x.fail e a)
        | .ok vs =>
          let es := vs.map (fun v => (⟨v, p⟩ : Elem)) ++
            List.replicate (256 - vs.length) ⟨Val.zero, p⟩
          expandRun mem stack ctab f stop need fuel (a + 16 * h.size) inl
            { x with elems := x.elems ++ es }

/-- The `need` element places of a compressed operand of `bytes` bytes at `a`. -/
def expandOperand (mem stack : Mem) (ctab : Nat) (f : Fmt) (a bytes need : Nat) : Expanded :=
  let x := expandRun mem stack ctab f (a + bytes) need (bytes / 16 + 2) a none ⟨[], none, 0, []⟩
  { x with elems := x.elems.take need }

/-! ### The compressor (R222 to R230, R248) -/

/-- Write one symbol's code, most significant bit first. -/
def codeBits (l c : Nat) : Nat :=
  (List.range l).foldl (fun acc i => acc + (if c.testBit (l - 1 - i) then 2 ^ i else 0)) 0

/-- The code stream of symbols, none when one has no code: its bits and length. -/
def encodeSyms (codes : List (Nat × Nat × Nat)) : List Nat → Option (Nat × Nat)
  | [] => some (0, 0)
  | s :: r =>
    match codes.find? (fun c => c.2.2 = s), encodeSyms codes r with
    | some (l, c, _), some (w, n) => some (codeBits l c + w * 2 ^ l, n + l)
    | _, _ => none

/-- The raw block of R222 from its element bytes; with INLINE placement it carries TABLE 0xFFF as every block does (R239), else
TABLE and GEN are 0. DESIGN CHOICE: log entry 27. -/
def rawBlock (f : Fmt) (table count : Nat) (body : List Byte) : List Byte :=
  let u := rawUnits f count
  BlkHdr.bytes ⟨u, 0, 0, f.code, count, if table = 0xFFF then table else 0, 0, 0,
    0⟩ ++ body ++ List.replicate (16 * (u - 1) - body.length) 0

/-- The raw element codes of a block's body. -/
def blockCodes (f : Fmt) (count : Nat) (body : List Byte) : List Nat :=
  if f.isMX then fieldsOf (leNat (body.drop 16)) f.elemBits count
  else fieldsOf (leNat body) f.elemBits count

def blockSyms (f : Fmt) (count : Nat) (body : List Byte) : List Nat :=
  (blockCodes f count body).map (· / 2 ^ (symShape f).2)

/-- One source block in lossless mode: encoded when a table covers it and it fits 7/8 of raw (R223). The reserved half of an MX
scale part is written as 0 (R5, R47, R229). -/
def losslessBlock (f : Fmt) (count tabId gen : Nat) (len : List Nat) (body : List Byte) (poison : Bool) :
    List Byte :=
  let raw := rawBlock f tabId count body
  if poison then raw
  else
    match encodeSyms (assignCodes len) (blockSyms f count body) with
    | none => raw
    | some (w, n) =>
      let m := (symShape f).2
      let cu := (n + 127) / 128
      let mu := (count * m + 127) / 128
      let size := 1 + (if f.isMX then 1 else 0) + cu + mu
      if 8 * size ≤ 7 * rawUnits f count then
        let mant := (blockCodes f count body).foldr (fun c acc => c % 2 ^ m + acc * 2 ^ m) 0
        BlkHdr.bytes ⟨size, 1, 0, f.code, count, tabId, gen, cu, 0⟩ ++
          (if f.isMX then body.take 8 ++ List.replicate 8 0 else []) ++ leBytes (16 * cu) w ++ leBytes (16 * mu) mant
      else raw

/-- One source block in lossy mode at rate `b` (R224). -/
def lossyBlock (f : Fmt) (b count : Nat) (body : List Byte) (poison : Bool) : List Byte × Flags :=
  if poison then (rawBlock f 0 count body, 0)
  else
    let r := lossyEncode f b ((blockCodes f count body).map f.decode)
    (BlkHdr.bytes ⟨2 * b + 1, 2, b - 4, f.code, count, 0, 0, 0, r.1⟩ ++
      leBytes (32 * b) (r.2.1.foldr (fun c acc => c % 2 ^ b + acc * 2 ^ b) 0), r.2.2)

/-- A table part (R240). -/
def tablePart (f : Fmt) (id gen : Nat) (len : List Nat) : List Byte :=
  BlkHdr.bytes ⟨17, 3, 0, f.code, 0, id, gen, 0, 0⟩ ++ packNibbles 256 len

/-- Symbol counts over blocks. -/
def histogram (n : Nat) (syms : List Nat) : List Nat :=
  (List.range n).map fun s => (syms.filter (· = s)).length

end Sys2Proof.Machine
end

