-- ==== Sys2Proof/Machine/Crc.lean ====
section
/-! DEFINITION. The CRC-64 of R360 over byte strings: ECMA-182 in bit-reflected form, initial value and final
exclusive-or all ones. -/

namespace Sys2Proof.Machine

/-- The ECMA-182 polynomial, bit-reflected, without its leading term. -/
def crcPoly : Nat := 0xC96C5795D7870F42

def crcShift : Nat → Nat → Nat
  | 0, r => r
  | n + 1, r => crcShift n (if r.testBit 0 then (r >>> 1) ^^^ crcPoly else r >>> 1)

def crcByte (r : Nat) (b : Byte) : Nat := crcShift 8 (r ^^^ b.toNat)

def crc64 (bs : List Byte) : Nat := bs.foldl crcByte (2 ^ 64 - 1) ^^^ (2 ^ 64 - 1)

end Sys2Proof.Machine
end

