-- ==== Sys2Proof/Machine/MatrixUnit.lean ====
section
/-! DEFINITION. The matrix engine: judging an MMA, its segments and their verification, the spill into the
wide partial, and its completion (R61 to R65, R72, R90 to R103, R200 to R202). -/

namespace Sys2Proof.Machine

/-- One row of Table 03.3 holds both formats (R92). -/
def matrixPairOk (a b : Fmt) : Bool :=
  let fp8 := fun f => f == Fmt.e4m3 || f == Fmt.e5m2
  let half := fun f => f == Fmt.bf16 || f == Fmt.fp16
  (fp8 a && fp8 b) || (a.isMX && b.isMX) || (a == .int8 && b == .int8) ||
    (half a && half b) || (a == .fp32 && b == .fp32)

/-- The MMA parameter block (Table 05.14). -/
structure MmaParam where
  aRef : Nat
  aSpace : Nat
  bRef : Nat
  bSpace : Nat
  wide : Nat
  n : Nat
  fmtA : Nat
  fmtB : Nat
  outFmt : Nat
  aCmp : Bool
  bCmp : Bool
  cont : Bool
  more : Bool
  m : Nat
  nc : Nat
  aStride : Nat
  bStride : Nat
  tensor : Nat
  outBase : Nat
  rowStride : Nat
  kBase : Nat
  aBytes : Nat
  bBytes : Nat
  deriving DecidableEq, Repr

def MmaParam.parse (b : List Byte) : MmaParam :=
  let w := leNat b
  let at8 := fun i n => (w >>> (8 * i)) % 2 ^ (8 * n)
  { aRef := at8 0 4 % 2 ^ 19
    aSpace := at8 0 4 / 2 ^ 29
    bRef := at8 4 4 % 2 ^ 19
    bSpace := at8 4 4 / 2 ^ 29
    wide := at8 8 4 % 2 ^ 19
    n := at8 12 4
    fmtA := at8 16 1 % 16
    fmtB := at8 16 1 / 16
    outFmt := at8 17 1 % 16
    aCmp := bitOf (at8 17 1) 4
    bCmp := bitOf (at8 17 1) 5
    cont := bitOf (at8 17 1) 6
    more := bitOf (at8 17 1) 7
    m := at8 18 1
    nc := at8 19 1
    aStride := at8 20 4
    bStride := at8 24 4
    tensor := at8 28 4 % 2 ^ 20
    outBase := at8 32 8 % 2 ^ 40
    rowStride := at8 40 4
    kBase := at8 44 4
    aBytes := at8 48 4
    bBytes := at8 52 4 }

/-- Bytes that an operand of `n` reduction vectors spans (R201, R204). -/
def vecExtent (f : Fmt) (stride n cmpBytes : Nat) (cmp : Bool) : Nat :=
  if cmp then cmpBytes
  else if n = 0 then 0
  else if f.isMX then ((n + 7) / 8 - 1) * stride + mxGroupBytes f
  else (n - 1) * stride + 32 * (f.elemBits / 8)

/-- The vectors of an operand, 32 elements each, and what the expander met. -/
structure Operand where
  vecs : List (List Elem)
  first : Option (Nat × Nat)
  failed : Nat
  tables : List TableUse
  deriving DecidableEq, Repr

def rawVecs (m : Mem) (addr : Nat) (f : Fmt) (stride n : Nat) : List (List Elem) :=
  (List.range n).map fun k =>
    if f.isMX then (List.range 32).map fun i => m.elem (addr + k / 8 * stride) f (k % 8 * 32 + i)
    else (List.range 32).map fun i => m.elem (addr + k * stride) f i

def cutVecs (l : List Elem) (n : Nat) : List (List Elem) :=
  (List.range n).map fun k => (l.drop (32 * k)).take 32

def readOperand (t : Tile) (stack : Mem) (ctab : Nat) (p : Place) (f : Fmt) (stride n bytes : Nat) (cmp : Bool) :
    Operand :=
  if cmp then
    let x := expandOperand t.mem stack ctab f p.addr bytes (32 * n)
    ⟨cutVecs x.elems n, x.first, x.failed, x.tables⟩
  else ⟨rawVecs (t.memAt p) p.addr f stride n, none, 0, []⟩

/-- The events of an operand's failed blocks (R247). -/
def operandEffs (num : Nat) (o : Operand) : List Eff :=
  (match o.first with
   | some (st, off) => [tileEv num st off]
   | none => []) ++ (if o.failed = 0 then [] else [Eff.decodeErrs o.failed])

/-- Bytes of the wide partial region (R96). -/
def wideBytes : Nat := 8192

def overlaps (a n b m : Nat) : Bool := decide (n ≠ 0 ∧ m ≠ 0 ∧ a < b + m ∧ b < a + n)

def planMmaChecked (c : TileCtx) (ctab : Nat) (t : Tile) (f : MmaF) (pa : Nat) (p : MmaParam) (fa fb : Fmt) :
    Judged :=
  let ka := p.aRef + t.regNat f.areg
  let kb := p.bRef + t.regNat f.breg
  let ea := vecExtent fa p.aStride p.n p.aBytes p.aCmp
  let eb := vecExtent fb p.bStride p.n p.bBytes p.bCmp
  let ala := if p.aCmp ∨ fa.isMX then 1 else fa.elemBits / 8
  let alb := if p.bCmp ∨ fb.isMX then 1 else fb.elemBits / 8
  match placeOf p.aSpace ka ea ala with
  | .error e => .error e
  | .ok sa =>
    match placeOf p.bSpace kb eb alb with
    | .error e => .error e
    | .ok sb =>
      if p.wide + wideBytes > tmemSize then .error St.addrRange
      else if p.wide % 64 ≠ 0 then .error St.paramCode
      else if p.wide + wideBytes > progBase ∨ (sa.file = false ∧ overlaps sa.addr ea p.wide wideBytes = true) ∨
          (sb.file = false ∧ overlaps sb.addr eb p.wide wideBytes = true) then .error St.matrixOverlap
      else
        .ok {
          rd := sa.mask ea ||| sb.mask eb ||| zoneMask p.wide wideBytes ||| zoneMask pa 64 ||| matrixBit
          wr := zoneMask p.wide wideBytes ||| (if p.more then 0 else if f.dst = 0 then 2 ^ 34 else 2 ^ 35)
          touch := touchOf sa ea ++ touchOf sb eb
          run := fun t' =>
            let pp := t'.mem.poisoned pa 64
            let oa := readOperand t' c.stack ctab sa fa p.aStride p.n p.aBytes p.aCmp
            let ob := readOperand t' c.stack ctab sb fb p.bStride p.n p.bBytes p.bCmp
            let run : MmaRun := {
              int := fa == .int8
              outFmt := p.outFmt
              m := p.m
              nc := p.nc
              n := p.n
              cont := p.cont
              more := p.more
              rowout := f.rowout
              rowmag := f.rowmag
              dst := f.dst
              tensor := p.tensor
              outBase := p.outBase
              rowStride := p.rowStride
              kBase := p.kBase + t.regNat f.kreg
              wideAddr := p.wide
              aVecs := oa.vecs.map fun v => v.map (·.v)
              bVecs := ob.vecs.map fun v => v.map (·.v)
              aPois := oa.vecs.map fun v => v.map (·.p)
              bPois := ob.vecs.map fun v => v.map (·.p)
              seg := 0
              failed := none
              tainted := t.retired || pp }
            ⟨[], [], pzIf (pp || oa.vecs.any (fun v => v.any (·.p)) || ob.vecs.any (fun v => v.any (·.p))),
              .mma run, operandEffs c.num oa ++ operandEffs c.num ob, oa.tables ++ ob.tables⟩ }

/-- Judge an MMA whose parameter block stands in tile memory (R92, R93, R96, R200 to R202). -/
def planMma (c : TileCtx) (ctab : Nat) (t : Tile) (f : MmaF) : Judged :=
  match t.tileRef f.param 64 with
  | .error e => .error e
  | .ok pa =>
    if pa % 64 ≠ 0 then .error St.paramCode
    else
      let p := MmaParam.parse (t.mem.read pa 64)
      if p.m = 0 ∨ p.nc = 0 then .ok .nothing
      else
        match Fmt.ofCode p.fmtA, Fmt.ofCode p.fmtB, Fmt.ofCode p.outFmt with
        | some fa, some fb, some _ =>
          if p.m > 32 ∨ p.nc > 32 then .error St.paramCode
          else if matrixPairOk fa fb = false then .error St.matrixPair
          else if fa = .mx4 ∧ fb = .mx4 ∧ (p.aCmp ∨ p.bCmp) then .error St.operandRate
          else if p.more ∧ p.n % 256 ≠ 0 then .error St.matrixSeg
          else if (p.aSpace ≠ 4 ∧ p.aSpace > 1) ∨ (p.bSpace ≠ 4 ∧ p.bSpace > 1) ∨
              (p.aCmp ∧ p.aSpace ≠ 4) ∨ (p.bCmp ∧ p.bSpace ≠ 4) then .error St.paramCode
          else planMmaChecked c ctab t f pa p fa fb
        | _, _, _ => .error St.fmtReserved

/-! ### Segments -/

def MmaRun.segs (r : MmaRun) : Nat := (r.n + 255) / 256

def elemAt (vs : List (List Val)) (k i : Nat) : Val := (((vs[k]?).getD [])[i]?).getD Val.zero

def poisAt (vs : List (List Bool)) (k i : Nat) : Bool := (((vs[k]?).getD [])[i]?).getD false

/-- A pair value after an update whose exact value is `x` and whose combined magnitudes sum to `mag`: hi is
its rounding, lo one of the words that R73 allows. Answers hi, lo and the flags of hi. -/
def pairUpdate (x mag : Val) : Nat × Nat × Flags :=
  let s := splitPair x
  match x, mag with
  | .num _ m e, .num _ gm ge =>
    let lo' := ((s.2.1 : Int) + Config.pairNoise m e gm ge).toNat % 2 ^ 32
    let v := pairVal s.1 lo'
    let hi := val32 s.1
    let ulpHalf := match hi with
      | .num _ hm he => (1, Layout.fp32.ulpExp hm he - 1)
      | _ => (0, 0)
    let small := match val32 lo' with
      | .num _ lm le => hi.isNaN == false && hi.isInf == false && hi.isZero == false &&
          cmpMag lm le ulpHalf.1 ulpHalf.2 != .gt
      | _ => false
    if small && within v x gm (46 - ge) then (s.1, lo', s.2.2) else s
  | _, _ => s

def pairUpdateVal (x mag : Val) : Val × Flags :=
  let u := pairUpdate x mag
  (pairVal u.1 u.2.1, u.2.2)

/-- One product, exact; beyond the FP32 range it enters as ±∞ with OF (R61). -/
def product (a b : Val) : Val × Flags :=
  let p := a.mul b
  match p.1 with
  | .num neg m e =>
    if m ≠ 0 ∧ cmpMag m e Layout.fp32.maxSig (Layout.fp32.emax - 23) = Ordering.gt then
      (.inf neg, p.2 ||| Flags.ovf) else p
  | _ => p

/-- One add into the running sum, SR with the draw `u` (R62). -/
def runAdd (s p : Val) (u : Nat) : Val × Flags :=
  let x := s.add p
  let r := Layout.fp32.round .sr u false x.1
  (r.1, x.2 ||| r.2)

/-- Σ over a list of products in order, from +0; `us` gives the draw of each term (R62). -/
def runningSum (us : Nat → Nat) : List (Val × Val) → Nat → Val → Flags → Val × Flags
  | [], _, s, fl => (s, fl)
  | (a, b) :: r, k, s, fl =>
    let p := product a b
    let x := runAdd s p.1 (us k)
    runningSum us r (k + 1) x.1 (fl ||| p.2 ||| x.2)

/-- The draw of purpose 0x0 for a term of an element (R55). -/
def mmaDraw (seed step tensor idx term : Nat) : Nat :=
  draw seed (drawCounter step 0 tensor ((idx % 2 ^ 40) * 2 ^ 32 + term % 2 ^ 32))

/-- The linear index of output element (i, j), modulo 2^40 (R201). -/
def Seg.index (g : Seg) (i j : Nat) : Nat := (g.outBase + i * g.rowStride + j) % 2 ^ 40

/-- The bits of a cell's word. -/
def Seg.bits (g : Seg) : Nat := if g.pair then 64 else 32

/-- The value of a cell's word. -/
def Seg.value (g : Seg) (w : Nat) : Val := if g.pair then pairVal (w % 2 ^ 32) (w / 2 ^ 32) else val32 w

/-- What the running sum of a cell starts from. -/
def Seg.startAt (g : Seg) (i j : Nat) : Val := g.value ((g.start[i * g.nc + j]?).getD 0)

/-- Does row `i` take part in reduction step `k`? -/
def Seg.takes (g : Seg) (k i : Nat) : Bool := !(((g.hide[k]?).getD [])[i]?).getD false

/-- The products of a cell, by the place of their term. -/
def Seg.prods (g : Seg) (i j : Nat) : List (Nat × Val × Val) :=
  ((List.range g.terms.length).filter fun k => g.takes k i).map fun k => (k, elemAt g.a k i, elemAt g.b k j)

/-- Add products, formed exactly, to a pair one after another (R73, R149). -/
def pairSum : List (Nat × Val × Val) → Val → Flags → Val × Flags
  | [], s, fl => (s, fl)
  | (_, a, b) :: r, s, fl =>
    let p := a.mul b
    let y := s.add p.1
    let z := pairUpdateVal y.1 ((Val.abs s).add (Val.abs p.1)).1
    pairSum r z.1 (fl ||| p.2 ||| y.2 ||| z.2)

/-- The word that cell (i, j) ends with, and its flags. -/
def Seg.cell (g : Seg) (seed step i j : Nat) : Nat × Flags :=
  if g.pair then
    if (g.prods i j).isEmpty then ((g.start[i * g.nc + j]?).getD 0, 0)
    else
      let s := pairSum (g.prods i j) (g.startAt i j) 0
      let w := splitPair s.1
      (w.1 + w.2.1 * 2 ^ 32, s.2)
  else
    let s := runningSum (fun k => mmaDraw seed step g.tensor (g.index i j) ((g.terms[k]?).getD 0))
      ((g.prods i j).map Prod.snd) 0 (g.startAt i j) 0
    (enc32 s.1, s.2)

/-- The words of the cells, cell (i, j) at i·NC + j, with their flags; `corrupt` flips bits of cells, as a fault would. -/
def Seg.sums (g : Seg) (seed step : Nat) (corrupt : List (Nat × Nat)) : List (Nat × Flags) :=
  (List.range (g.m * g.nc)).map fun x =>
    let c := g.cell seed step (x / g.nc) (x % g.nc)
    (c.1 ^^^ (Tbl.get corrupt 0 x % 2 ^ g.bits), c.2)

/-- Multiply and add in wide with RNE, as the checksum cells do (R98): the product is rounded to wide before it is added.
DESIGN CHOICE: log entry 56. -/
def wideMac (acc a b : Val) : Val := (addWide acc (mulWide a b).1).1

/-- The checksums of a segment: (c, g) for every column, (r, h) for every row (R98). What a cell starts from counts as one more
term of its column and row. -/
def Seg.checks (g : Seg) : List (Val × Val) × List (Val × Val) :=
  let rows := List.range g.m
  let cols := List.range g.nc
  let steps := ((List.range g.terms.length).filter fun k => rows.any (g.takes k)).map fun k =>
    let a := (rows.filter (g.takes k)).map (elemAt g.a k)
    let b := cols.map (elemAt g.b k)
    ((wideSum a).1, (wideSum (a.map Val.abs)).1, (wideSum b).1, (wideSum (b.map Val.abs)).1, k)
  (cols.map fun j =>
      let s := rows.map fun i => g.startAt i j
      (steps.foldl (fun acc x => wideMac acc x.1 (elemAt g.b x.2.2.2.2 j)) (wideSum s).1,
       steps.foldl (fun acc x => wideMac acc x.2.1 (elemAt g.b x.2.2.2.2 j).abs) (wideSum (s.map Val.abs)).1),
   rows.map fun i =>
      let s := cols.map fun j => g.startAt i j
      let own := steps.filter fun x => g.takes x.2.2.2.2 i
      (own.foldl (fun acc x => wideMac acc (elemAt g.a x.2.2.2.2 i) x.2.2.1) (wideSum s).1,
       own.foldl (fun acc x => wideMac acc (elemAt g.a x.2.2.2.2 i).abs x.2.2.2.1) (wideSum (s.map Val.abs)).1))

/-- The sums the verifier forms of a segment's cells: every column, then every row (R98). -/
def Seg.totals (g : Seg) (sums : List Nat) : List Val × List Val :=
  let at2 := fun i j => g.value ((sums[i * g.nc + j]?).getD 0)
  ((List.range g.nc).map fun j => (wideSum ((List.range g.m).map fun i => at2 i j)).1,
   (List.range g.m).map fun i => (wideSum ((List.range g.nc).map fun j => at2 i j)).1)

/-- Is a residual within τ(x) = F·2^-23·x·(1 + 2^-20) + 2^-135, or 0 for INT8 (R98)? -/
def withinTau (factor : Nat) (int : Bool) (res x : Val) : Bool :=
  match res with
  | .num _ m _ =>
    if int then m == 0
    else
      let t := (Val.num false factor (-23)).mul x
      let t2 := (t.1.add (t.1.shift (-20))).1
      let tau := (t2.add (Val.num false 1 (-135))).1
      !(tau.lt (Val.abs res))
  | _ => false

/-- ρ = residual / (2^-23·x) in units of 1/256, rounded up (R103). A ratio beyond 16 bits is recorded as 0xFFFF, and a comparison
whose x is 0 adds none. DESIGN CHOICE: log entry 56. -/
def rhoOf (res x : Val) : Nat :=
  match res, x with
  | .num _ rm re, .num _ xm xe =>
    if rm = 0 ∨ xm = 0 then 0
    else
      let e := re + 23 + 8 - xe
      let num := if e ≥ 0 then rm <<< e.toNat else rm
      let den := if e ≥ 0 then xm else xm <<< (-e).toNat
      min 0xFFFF ((num + den - 1) / den)
  | _, _ => 0

/-- The judgement of a segment's attempt. -/
structure Verdict where
  pass : Bool
  /-- every residual within τ with F = 256 -/
  worst : Bool
  rho : Nat
  skipped : Nat
  deriving DecidableEq, Repr

def judgeOne (factor : Nat) (int skip : Bool) (v : Verdict) (tot ref mag : Val) : Verdict :=
  if skip || tot.isNaN || tot.isInf || ref.isNaN || ref.isInf || mag.isNaN || mag.isInf then
    { v with skipped := v.skipped + 1 }
  else
    let res := Val.abs (tot.add ref.negate).1
    let ok := withinTau factor int res mag
    { v with
      pass := v.pass && ok
      worst := v.worst && withinTau 256 int res mag
      rho := if ok then max v.rho (rhoOf res mag) else v.rho }

def judgeAll (factor : Nat) (int skip : Bool) (v : Verdict) (tots : List Val) (refs : List (Val × Val)) : Verdict :=
  (tots.zip refs).foldl (fun acc x => judgeOne factor int skip acc x.1 x.2.1 x.2.2) v

def Seg.verdict (g : Seg) (factor : Nat) (sums : List Nat) : Verdict :=
  let ch := g.checks
  let tt := g.totals sums
  judgeAll factor g.int g.poison (judgeAll factor g.int g.poison ⟨true, true, 0, 0⟩ tt.1 ch.1) tt.2 ch.2

/-- The digest that compares two attempts: running sums and checksum values (R100). -/
def Seg.digest (g : Seg) (sums : List Nat) : Nat :=
  let ch := g.checks
  crc64 (sums.flatMap (leBytes (g.bits / 8)) ++ (ch.1 ++ ch.2).flatMap fun c => leBytes 8 (encWide c.1) ++
    leBytes 8 (encWide c.2))

/-! ### The segments of an MMA -/

/-- The reduction steps of segment `sg`. -/
def MmaRun.steps (r : MmaRun) (sg : Nat) : List Nat := (List.range (min 256 (r.n - 256 * sg))).map (256 * sg + ·)

/-- Segment `sg` of an instruction (R63, R91, R201). -/
def MmaRun.segment (r : MmaRun) (sg : Nat) : Seg :=
  { int := r.int
    pair := false
    m := r.m
    nc := r.nc
    tensor := r.tensor
    outBase := r.outBase
    rowStride := r.rowStride
    terms := (r.steps sg).map (r.kBase + ·)
    a := (r.aVecs.drop (256 * sg)).take 256
    b := (r.bVecs.drop (256 * sg)).take 256
    hide := []
    start := []
    poison := (r.steps sg).any fun k =>
      (List.range r.m).any (poisAt r.aPois k) || (List.range r.nc).any (poisAt r.bPois k) }

/-- Is output (i, j) poisoned by an operand of its reduction (R79)? -/
def MmaRun.outPoison (r : MmaRun) (i j : Nat) : Bool :=
  r.tainted || (List.range r.n).any fun k => poisAt r.aPois k i || poisAt r.bPois k j

/-- Where wide partial (i, j) lies. -/
def MmaRun.wideAt (r : MmaRun) (i j : Nat) : Nat := r.wideAddr + 8 * (32 * i + j)

/-- The ranges of the wide partial that an instruction works on. -/
def MmaRun.wideRows (r : MmaRun) : List (Nat × Nat) := (List.range r.m).map fun i => (r.wideAt i 0, 8 * r.nc)

/-- Does the spill of the current segment read the wide partial, rather than start from +0 (R63, R202)? -/
def MmaRun.readsWide (r : MmaRun) : Bool := decide (r.seg ≠ 0) || r.cont

/-- Spill a segment's sums into the wide partial: RNE, the last add of a reduction RTO (R63, R95, R97, R202). A wide partial that
carries poison is consumed with it (R79). -/
def MmaRun.spill (r : MmaRun) (m : Mem) (sums : List Nat) (poison : Bool) : List Write × Flags :=
  let last := r.seg + 1 = r.segs ∧ r.more = false
  let rows := (List.range r.m).map fun i =>
    (List.range r.nc).map fun j =>
      let w0 := if r.readsWide then valWide (m.nat (r.wideAt i j) 8) else Val.zero
      let p0 := r.readsWide && m.tag (r.wideAt i j)
      let x := w0.add (val32 ((sums[i * r.nc + j]?).getD 0))
      let y := Layout.wide.round (if last then .rto else .rne) 0 false x.1
      (encWide y.1, poison || p0 || r.outPoison i j, x.2 ||| (if last then y.2 &&& Flags.nv else y.2) ||| pzIf p0)
  ((rows.zipIdx.flatMap fun row =>
      elemWrites ⟨false, r.wideAt row.2 0⟩ 8 (row.1.map fun e => (e.1, e.2.1))),
    orFlags (rows.flatMap fun row => row.map fun e => e.2.2))

/-- The final conversion of one wide partial (R64, R97). DESIGN CHOICE: log entry 13. -/
def MmaRun.convert (r : MmaRun) (w : Val) : Val × Flags :=
  if r.outFmt = 0 ∨ r.outFmt = 11 ∨ r.outFmt = 12 then rne32 w
  else ((Layout.fp32.round .rto 0 false w).1, 0)

/-- What an MMA writes when it completes, from the wide partial in `m` (R72, R94, R97). With MORE set it writes nothing, whatever
the accumulation length; the row maxima fold only with ROWOUT and ROWMAG set and an FP8 output, and the CVT counts what is not
finite. DESIGN CHOICE: log entry 63. -/
def MmaRun.final (r : MmaRun) (m : Mem) : List Write × List CalFold × Flags :=
  if r.more then ([], [], 0)
  else
    let accBase := if r.dst = 0 then 8192 else 12288
    let sideBase := if r.dst = 0 then 16384 else 16768
    let rows := (List.range r.m).map fun i =>
      (List.range r.nc).map fun j =>
        if r.n = 0 then (Val.zero, r.tainted, (0 : Flags))
        else
          let a := r.wideAt i j
          let c := r.convert (valWide (m.nat a 8))
          (c.1, r.outPoison i j || m.tag a, c.2 ||| pzIf (m.tag a))
    let acc := rows.zipIdx.flatMap fun row =>
      elemWrites ⟨true, accBase + 128 * row.2⟩ 4 (row.1.map fun e => (enc32 e.1, e.2.1))
    let outs := rows.map fun row =>
      let vs := row.map fun e => if r.rowmag then Val.abs e.1 else e.1
      let w := winnerOf true (vs.zipIdx.map fun e => ⟨e.1, e.2⟩)
      let s := wideSum (row.map (·.1))
      let sr := rne32 s.1
      (w, enc32 sr.1, row.any (fun e => e.2.1), (if w.v.isNaN then Flags.nv else 0) ||| s.2 ||| sr.2)
    let side := if r.rowout then
        elemWrites ⟨true, sideBase⟩ 4 (outs.map fun o => (enc32 o.1.v, o.2.2.1)) ++
        elemWrites ⟨true, sideBase + 128⟩ 4 (outs.map fun o => (o.1.idx, o.2.2.1)) ++
        elemWrites ⟨true, sideBase + 256⟩ 4 (outs.map fun o => (o.2.1, o.2.2.1))
      else []
    let scaled := r.outFmt = 3 ∨ r.outFmt = 4
    (acc ++ side,
      (if r.rowout ∧ r.rowmag ∧ scaled then
        [{ foldOf r.tensor r.outFmt (outs.map fun o => o.1.v) [] with nonfin := 0 }] else []),
      orFlags (rows.flatMap fun row => row.map fun e => e.2.2) |||
        (if r.rowout then orFlags (outs.map fun o => o.2.2.2) else 0))

end Sys2Proof.Machine
end

