-- ==== Sys2Proof/Machine/AttentionUnit.lean ====
section
/-! DEFINITION. The attention pipeline: block headers, visibility, scores, the forward and backward passes
and their outputs (R136 to R157, R203). -/

namespace Sys2Proof.Machine

def AttHdr.parse (b : List Byte) : AttHdr :=
  let w := leNat b
  let f := fun o n => (w >>> (8 * o)) % 2 ^ (8 * n)
  { tokenBase := f 0 4
    count := f 4 2
    kvHead := f 6 2
    segMin := f 8 2
    segMax := f 10 2
    fmtK := f 12 1 % 16
    fmtV := f 12 1 / 16
    segArray := bitOf (f 13 1) 0
    posArray := bitOf (f 13 1) 1
    kLossless := bitOf (f 13 1) 2
    vLossless := bitOf (f 13 1) 3
    grad := bitOf (f 13 1) 4
    gradOnly := bitOf (f 13 1) 5
    headDim := f 14 1 % 4
    posBase := f 16 4
    kBytes := f 20 4
    vBytes := f 24 4
    gradBytes := f 28 4
    originPos := f 32 4 % 64
    originRing := f 32 4 / 64 % 16
    kScale := f 44 4
    vScale := f 48 4 }

/-- The head dimension d (R137). -/
def AttHdr.d (h : AttHdr) : Nat := 64 * (h.headDim + 1)

def round16 (n : Nat) : Nat := (n + 15) / 16 * 16

/-- Offsets from the header of the position array, the K body, the V body, the gradient body and the end (R140). -/
def AttHdr.posAt (h : AttHdr) : Nat := 64 + (if h.segArray then 256 else 0)
def AttHdr.kAt (h : AttHdr) : Nat := h.posAt + (if h.posArray then 512 else 0)
def AttHdr.vAt (h : AttHdr) : Nat := h.kAt + (if h.gradOnly then 0 else round16 h.kBytes)
def AttHdr.gradAt (h : AttHdr) : Nat := h.vAt + (if h.gradOnly then 0 else round16 h.vBytes)
def AttHdr.size (h : AttHdr) : Nat := h.gradAt + (if h.grad then round16 h.gradBytes else 0)

/-- The refusals of R141. -/
def AttHdr.tokensBad (h : AttHdr) : Bool :=
  decide (h.count = 0 ∨ h.count > 128 ∨ h.tokenBase + h.count > 4194304) ||
    (!h.segArray && h.segMin != h.segMax)

def AttParam.parse (b : List Byte) : AttParam :=
  let w := leNat b
  let f := fun o n => (w >>> (8 * o)) % 2 ^ (8 * n)
  { q := f 0 4 % 2 ^ 19
    kv := f 4 4 % 2 ^ 19
    state := f 8 4 % 2 ^ 19
    out := f 12 4 % 2 ^ 19
    lse := f 16 4 % 2 ^ 19
    rot := f 20 4 % 2 ^ 19
    scale := f 24 4
    w := f 28 4 % 2 ^ 23
    window := bitOf (f 28 4) 24
    causal := bitOf (f 28 4) 25
    rotMode := bitsOf (f 28 4) 27 26
    hq := f 32 1
    hkv := f 33 1
    head := f 34 2
    outFmt := f 36 1 % 16
    ring := f 37 1 % 16
    ringUsed := bitOf (f 37 1) 4
    tensor := f 40 4 % 2 ^ 20
    dAddr := f 44 4 % 2 ^ 19
    doAddr := f 48 4 % 2 ^ 19
    dkv := f 52 4 % 2 ^ 19
    nOrd := f 56 4
    tTok := f 60 4 }

/-! ### Checks -/

/-- Operand formats of a pass (Table 04.1). -/
def attInFmt (code : Nat) : Option Fmt :=
  match Fmt.ofCode code with
  | some .bf16 => some .bf16
  | some .fp16 => some .fp16
  | some .e4m3 => some .e4m3
  | some .e5m2 => some .e5m2
  | some .mx8e4 => some .mx8e4
  | some .mx8e5 => some .mx8e5
  | _ => none

def attOutFmt (code : Nat) : Option Fmt :=
  match Fmt.ofCode code with
  | some .fp32 => some .fp32
  | some .bf16 => some .bf16
  | some .fp16 => some .fp16
  | some .e4m3 => some .e4m3
  | some .e5m2 => some .e5m2
  | _ => none

/-- The exponent of a header scale of an E4M3 or E5M2 operand; +0 stands for 1, anything that is not a
positive power of two in range is refused, and other formats ignore it (R138). -/
def headerScale (f : Fmt) (code : Nat) : Option Int :=
  if f ≠ .e4m3 ∧ f ≠ .e5m2 then some 0
  else if code = 0 then some 0
  else
    let x : Nat := code / 2 ^ 23
    if code % 2 ^ 23 = 0 ∧ 1 ≤ x ∧ x ≤ 254 then some ((x : Int) - 127) else none

def AttSetup.d (a : AttSetup) : Nat := a.qh.d

/-- The header checks of a pass, in the order R43, R136, R138, R137, R141, R142, R151. A block flagged GRAD_ONLY has no keys or
values, so only a coach that has come home may be (R166); any other is refused as an operand of no format. DESIGN CHOICE: log
entry 58. DESIGN CHOICE: log entry 58. -/
def attCheck (p : AttParam) (home : Bool) (qa ka : Nat) (qh kh : AttHdr) : Except Nat AttSetup :=
  if [qh.fmtK, kh.fmtK, kh.fmtV, p.outFmt].any fun c => (Fmt.ofCode c).isNone then .error St.fmtReserved
  else match attInFmt qh.fmtK, attInFmt kh.fmtK, attInFmt kh.fmtV, attOutFmt p.outFmt with
  | some fq, some fk, some fv, some fo =>
    if matrixPairOk fq fk = false ∨ (kh.gradOnly = true ∧ home = false) then .error St.attFmt
    else
      match headerScale fq qh.kScale, headerScale fk kh.kScale, headerScale fv kh.vScale with
      | some sq, some sk, some sv =>
        if qh.headDim ≠ kh.headDim then .error St.attHeadDim
        else if qh.tokensBad ∨ kh.tokensBad then .error St.attTokenRange
        else if p.window ∧ p.w = 0 then .error St.attWindow
        else if p.hq % p.hkv ≠ 0 ∨ kh.kvHead ≠ p.head / (p.hq / p.hkv) then .error St.attHeadMap
        else .ok ⟨p, qa, ka, qh, kh, fq, fk, fv, fo, sq, sk, sv⟩
      | _, _, _ => .error St.attFmt
  | _, _, _, _ => .error St.attFmt

/-- Do the headers alone show that no key is visible (R143)? -/
def attSkipped (p : AttParam) (qh kh : AttHdr) : Bool :=
  let ql := qh.tokenBase + qh.count - 1
  let kl := kh.tokenBase + kh.count - 1
  (p.causal && decide (ql < kh.tokenBase)) ||
  (p.window && p.causal && decide (kl + p.w ≤ qh.tokenBase)) ||
  (p.window && !p.causal && decide (kl + p.w ≤ qh.tokenBase ∨ ql + p.w ≤ kh.tokenBase)) ||
  decide (qh.segMax < kh.segMin ∨ kh.segMax < qh.segMin) ||
  qh.segMin == 0xFFFF || kh.segMin == 0xFFFF

/-- Visibility of a key to a row by token index and segment (R142). -/
def attVisible (p : AttParam) (tq tk sq sk : Nat) : Bool :=
  sq == sk && sq != 0xFFFF &&
  (!p.causal || decide (tk ≤ tq)) &&
  (!p.window || (if p.causal then decide (tq < tk + p.w) else decide (tq < tk + p.w ∧ tk < tq + p.w)))

/-! ### Reading blocks -/

/-- Segment id of token `j`, with poison. -/
def segOf (m : Mem) (base : Nat) (h : AttHdr) (j : Nat) : Nat × Bool :=
  if h.segArray then (m.nat (base + 64 + 2 * j) 2, m.poisoned (base + 64 + 2 * j) 2) else (h.segMin, false)

/-- Rotary position of token `j`, with poison (R152). -/
def posOf (m : Mem) (base : Nat) (h : AttHdr) (j : Nat) : Nat × Bool :=
  if h.posArray then (m.nat (base + h.posAt + 4 * j) 4, m.poisoned (base + h.posAt + 4 * j) 4)
  else ((h.posBase + j) % 2 ^ 32, false)

/-- The 128·d elements of a body, raw or through the expander (R140, R242). -/
def bodyOf (m stack : Mem) (ctab : Nat) (f : Fmt) (at_ bytes d : Nat) (lossless : Bool) : Expanded :=
  if lossless then expandOperand m stack ctab f at_ bytes (128 * d)
  else ⟨m.elems at_ f (128 * d), none, 0, []⟩

def rowOf (x : Expanded) (d r : Nat) : List Elem := (x.elems.drop (d * r)).take d

def elemOf (row : List Elem) (c : Nat) : Elem := (row[c]?).getD ⟨Val.zero, false⟩

/-- The pair of dimension `i` in a rotary mode (1 interleaved, 2 halves). -/
def rotPair (mode d i : Nat) : Nat × Nat := if mode = 1 then (2 * i, 2 * i + 1) else (i, i + d / 2)

/-- The dimension that column `c` belongs to, and whether it is the first of its pair. -/
def rotDim (mode d c : Nat) : Nat × Bool :=
  if mode = 1 then (c / 2, c % 2 == 0) else (c % (d / 2), decide (c < d / 2))

/-- The exact rotated sum of one column (R152 step 3), with the flags of its special values. -/
def rotExact (row : List Elem) (mode d pos : Nat) (freq : Nat → Nat) (back : Bool) (c : Nat) : Val × Flags :=
  let dm := rotDim mode d c
  let pr := rotPair mode d dm.1
  let ph := (pos * freq dm.1) % 2 ^ 64
  let co := trigTable false ph
  let si := (fun v => if back then Val.negate v else v) (trigTable true ph)
  let xa := (elemOf row pr.1).v
  let xb := (elemOf row pr.2).v
  let u := if dm.2 then xa.mul co else xa.mul si
  let v := if dm.2 then xb.mul si else xb.mul co
  let s := u.1.add (if dm.2 then v.1.negate else v.1)
  (s.1, u.2 ||| v.2 ||| s.2)

/-- Rotate one row of `d` elements for the pipeline's input (R152 steps 3 to 5). -/
def rotateRow (f : Fmt) (row : List Elem) (mode d pos : Nat) (freq : Nat → Nat) : List Elem × Flags :=
  if mode = 0 then (row, 0)
  else
    let live := fun c => freq (rotDim mode d c).1 != 0
    let rot := (List.range d).map fun c =>
      if live c then
        let e := rotExact row mode d pos freq false c
        let pr := rotPair mode d (rotDim mode d c).1
        let r := Layout.fp32.round .rto 0 false e.1
        (r.1, (elemOf row pr.1).p || (elemOf row pr.2).p, e.2, true)
      else ((elemOf row c).v, (elemOf row c).p, (0 : Flags), false)
    if f.isMX then
      let blocks := (List.range (d / 32)).map fun b =>
        let es := (rot.drop (32 * b)).take 32
        if es.any fun e => e.2.2.2 then
          let r := mxBlock f .rne (fun _ => 0) (es.map (·.1))
          ((r.2.1.zip es).map fun x => (⟨mxValue f r.1 x.1, x.2.2.1⟩ : Elem),
            r.2.2 ||| orFlags (es.map fun e => e.2.2.1))
        else (es.map fun e => (⟨e.1, e.2.1⟩ : Elem), 0)
      (blocks.flatMap (·.1), orFlags (blocks.map (·.2)))
    else
      let out := rot.map fun e =>
        if e.2.2.2 then
          let r := f.layout.round .rne 0 false e.1
          ((⟨r.1, e.2.1⟩ : Elem), e.2.2.1 ||| r.2)
        else ((⟨e.1, e.2.1⟩ : Elem), 0)
      (out.map (·.1), orFlags (out.map (·.2)))

/-! ### Exponentials (R69, R73) -/

/-- A soft-maximum exponential as an FP32 value at most 1, exactly 1 at 0, without UF (R69, R149, R154).
DESIGN CHOICE: log entry 10. DEDUCED: log entry 16. -/
def softExp (x : Val) : Val × Flags :=
  let r := vexp false true x
  ((if (Val.num false 1 0).lt r.1 && x.isNeg then Val.num false 1 0 else r.1), r.2)

/-- A rescale factor to 2^-46 without UF (R69, R73). -/
def rescale (x : Val) : Val × Flags :=
  match x with
  | .nan => (.nan, Flags.nv)
  | .inf neg => if neg then (Val.zero, 0) else (.inf false, 0)
  | .num neg m e =>
    if m = 0 then (Val.num false 1 0, 0)
    else if bigArg m e then (Val.zero, 0)
    else (expRel 47 neg m e, 0)

/-! ### Scores -/

/-- Ranges of at most 32 rows or columns of a product (R90). -/
def bands (n : Nat) : List (Nat × Nat) := (List.range ((n + 31) / 32)).map fun b => (32 * b, min 32 (n - 32 * b))

/-- A product of rows `as` and columns `bs`, cut into the 32 by 32 blocks that the matrix engine forms (R90, R98). Element (i, j)
draws with index `base` + i·`stride` + j; `start` holds the words its sum starts from, row by row. -/
def blockSegs (tensor base stride : Nat) (terms : List Nat) (as bs : List (List Elem)) (start : List (List Nat)) : List Seg :=
  (bands as.length).flatMap fun x => (bands bs.length).map fun y =>
    let rows := (as.drop x.1).take x.2
    let cols := (bs.drop y.1).take y.2
    { int := false
      pair := false
      m := x.2
      nc := y.2
      tensor := tensor % 2 ^ 20
      outBase := base + x.1 * stride + y.1
      rowStride := stride
      terms := terms
      a := (List.range terms.length).map fun k => rows.map fun e => (elemOf e k).v
      b := (List.range terms.length).map fun k => cols.map fun e => (elemOf e k).v
      hide := []
      start := ((start.drop x.1).take x.2).flatMap fun e => (e.drop y.1).take y.2
      poison := (rows ++ cols).any fun e => e.any (·.p) }

/-- Element (i, j) of a product of `cols` columns, from the sums of its blocks. -/
def blockAt (blocks : List (List (Nat × Flags))) (cols i j : Nat) : Nat × Flags :=
  let b := (blocks[i / 32 * ((cols + 31) / 32) + j / 32]?).getD []
  (b[i % 32 * min 32 (cols - 32 * (j / 32)) + j % 32]?).getD (0, 0)

/-- The scores' products of a pass: their draws number the d terms (R148). Every row and key of a block takes part, visible or
not. DEDUCED: log entry 16. -/
def AttRun.scoreSegs (r : AttRun) : List Seg :=
  blockSegs r.a.p.tensor (r.a.qh.tokenBase * 2 ^ 22 + r.a.kh.tokenBase) (2 ^ 22) (List.range r.a.d)
    (r.queries.map (·.q)) (r.keys.map (·.k)) []

/-- The products of dp (R155). -/
def AttRun.dpSegs (r : AttRun) : List Seg :=
  blockSegs (r.a.p.tensor + 4) (r.a.qh.tokenBase * 2 ^ 22 + r.a.kh.tokenBase) (2 ^ 22) (List.range r.a.d)
    (r.queries.map (·.dO)) (r.keys.map (·.v)) []

/-- The scaled score as a pair value, from the accepted dot product (R147, R148). -/
def AttRun.score (r : AttRun) (i j : Nat) : Val × Flags :=
  let w := blockAt r.scores r.keys.length i j
  let s := (val32 w.1).mul (val32 r.a.p.scale)
  let h := splitPair (s.1.shift (-(r.a.sq + r.a.sk)))
  (pairVal h.1 h.2.1, w.2 ||| s.2 ||| h.2.2)

/-- The accepted dp of a row and a key. -/
def AttRun.dpAt (r : AttRun) (i j : Nat) : Nat × Flags :=
  blockAt (r.scores.drop ((bands r.queries.length).length * (bands r.keys.length).length)) r.keys.length i j

/-- Is key `k` visible to row `i` (R142)? -/
def AttRun.visible (r : AttRun) (i : Nat) (x : Query) (k : Key) : Bool :=
  attVisible r.a.p (r.a.qh.tokenBase + i) k.t x.seg k.seg

/-! ### Forward (R147, R150) -/

def RowState.empty (d : Nat) : RowState :=
  ⟨.inf true, Val.zero, List.replicate d Val.zero, false, List.replicate d false, false, 0⟩

def RowState.load (m : Mem) (a d : Nat) : RowState :=
  let f := fun k => pairVal (m.nat (a + 8 * k) 4) (m.nat (a + 8 * k + 4) 4)
  { m := f 0
    l := f 1
    o := (List.range d).map fun c => f (c + 2)
    pm := m.poisoned a 16
    po := (List.range d).map fun c => m.poisoned (a + 16 + 8 * c) 8
    changed := false
    flags := 0 }

/-- A row with no visible key: m = −∞, ℓ = 0 and O = 0 (R76). -/
def RowState.isEmpty (s : RowState) : Bool := s.m == .inf true && s.l.isZero && s.o.all Val.isZero

/-- The record's bytes with their poison (R146). -/
def RowState.items (s : RowState) : List (Byte × Bool) :=
  let one := fun (v : Val) (p : Bool) =>
    let h := splitPair v
    (leBytes 4 h.1 ++ leBytes 4 h.2.1).map fun b => (b, p)
  one s.m s.pm ++ one s.l s.pm ++ (s.o.zip s.po).flatMap fun x => one x.1 x.2

/-- Are two values equal, as `mn != st.m` of R147 asks? A NaN equals nothing. -/
def Val.equal (a b : Val) : Bool := !a.isNaN && !b.isNaN && !a.lt b && !b.lt a

/-- Rescale the state to the new maximum (R147). -/
def RowState.rebase (s : RowState) (mn : Val) : RowState :=
  if s.m.equal mn then { s with m := mn }
  else
    let al := if s.m = .inf true then (Val.zero, (0 : Flags)) else
      let d := s.m.add mn.negate
      let e := rescale d.1
      (e.1, d.2 ||| e.2)
    let up := fun v =>
      let x := al.1.mul v
      let y := pairUpdateVal x.1 (Val.abs x.1)
      (y.1, x.2 ||| y.2)
    let l := up s.l
    let o := s.o.map up
    { s with m := mn, l := l.1, o := o.map (·.1), changed := true,
             flags := s.flags ||| al.2 ||| l.2 ||| orFlags (o.map (·.2)) }

/-- What the first loop of `pass_row` and the exponentials leave of a row (R147): its state rebased to the new maximum, with ℓ
complete, and the probability of every key whose term is added. -/
structure RowWork where
  st : RowState
  w : List (Option Val)
  deriving DecidableEq, Repr

/-- Add one probability to ℓ (R147). -/
def RowState.addWeight (s : RowState) (p : Val) : RowState :=
  let y := s.l.add p
  let z := pairUpdateVal y.1 ((Val.abs s.l).add (Val.abs p)).1
  { s with
    l := z.1
    changed := true
    flags := s.flags ||| y.2 ||| z.2 }

/-- Row `i` of the pass up to its product with V (R147, R149). Every result of the row depends on the segment ids that decide
whether a key in reach of the mask is visible, on the row's query where a key is, and on the keys that are (R79). DEDUCED: log
entry 16. DEDUCED: log entry 16. -/
def AttRun.rowWork (r : AttRun) (i : Nat) (x : Query) (s : RowState) : RowWork :=
  let ks := r.keys.zipIdx.map fun k => (k.1, if r.visible i x k.1 then some (r.score i k.2) else none)
  let vis := ks.filterMap fun k => k.2
  let mb := vis.foldl (fun acc k => let y := acc.1.maxOf k.1; (y.1, acc.2 ||| y.2 ||| k.2)) (Val.inf true, (0 : Flags))
  let mn := s.m.maxOf mb.1
  let p := (ks.any fun k => k.2.isSome && (k.1.k.any (·.p) || x.q.any (·.p))) ||
    ks.any fun k => (x.segP || k.1.segP) && attVisible r.a.p (r.a.qh.tokenBase + i) k.1.t 0 0
  let s1 := s.rebase mn.1
  let es := ks.map fun k => match k.2 with
    | none => none
    | some sc => if sc.1 = .inf true then none else
      let d := sc.1.add s1.m.negate
      let e := softExp d.1
      some (e.1, d.2 ||| e.2)
  let s2 := (es.filterMap id).foldl (fun acc e => acc.addWeight e.1) s1
  ⟨{ s2 with
      pm := s.pm || p
      po := s.po.map (· || p)
      changed := s2.changed || p
      flags := s2.flags ||| mb.2 ||| mn.2 ||| orFlags ((es.filterMap id).map (·.2)) ||| (if vis.isEmpty then 0 else x.rot) },
    es.map fun e => e.map (·.1)⟩

/-- The rows of a pass up to their products with V. -/
def AttRun.rowWorks (r : AttRun) : List RowWork :=
  (r.rows.zip r.queries).zipIdx.map fun x => r.rowWork x.2 x.1.2 x.1.1

/-- The products with V (R149): a term for every key in order, left out of a row to which the key adds nothing; each cell goes
on from its column of O. -/
def AttRun.valueSegs (r : AttRun) : List Seg :=
  let rows := r.rowWorks
  let cols := List.range r.a.d
  let weights := fun (w : RowWork) => w.w.map fun p => (⟨p.getD Val.zero, p.isSome && w.st.pm⟩ : Elem)
  let used := (List.range r.keys.length).map fun k => rows.any fun w => ((w.w[k]?).getD none).isSome
  let words := fun (w : RowWork) => w.st.o.map fun v => let h := splitPair v; h.1 + h.2.1 * 2 ^ 32
  (blockSegs 0 0 0 (List.range r.keys.length) (rows.map weights)
    (cols.map fun c => (r.keys.zip used).map fun k => ⟨(elemOf k.1.v c).v, (elemOf k.1.v c).p && k.2⟩)
    (rows.map words)).zip ((bands rows.length).flatMap fun x => (bands r.a.d).map fun _ => x) |>.map fun g =>
      { g.1 with
        pair := true
        hide := (List.range r.keys.length).map fun k =>
          ((rows.drop g.2.1).take g.2.2).map fun w => ((w.w[k]?).getD none).isNone }

/-- A row after its pass: O as its cells left it. -/
def AttRun.passRow (r : AttRun) (i : Nat) (w : RowWork) : RowState :=
  if w.w.all Option.isNone then w.st
  else
    let cells := (List.range r.a.d).map fun c => blockAt r.sums r.a.d i c
    { w.st with
      o := cells.map fun c => pairVal (c.1 % 2 ^ 32) (c.1 / 2 ^ 32)
      po := w.st.po.zipIdx.map fun p => p.1 || (r.keys.zip w.w).any fun k => k.2.isSome && (elemOf k.1.v p.2).p
      flags := w.st.flags ||| orFlags (cells.map (·.2)) }

/-- log ℓ as an exact value, with its flags (R69). -/
def logOf (l : Val) : Val × Flags :=
  match l with
  | .num neg m e => if m = 0 then (.inf true, 0) else if neg then (.nan, Flags.nv) else (ofFix (logFix m e), 0)
  | .inf neg => if neg then (.nan, Flags.nv) else (.inf false, 0)
  | .nan => (.nan, Flags.nv)

/-- The log-sum-exp m + log ℓ (R74, R153). -/
def lseOf (m l : Val) : Val × Flags :=
  let g := logOf l
  let x := m.add g.1
  match x.1 with
  | .num _ _ _ =>
    let r := rne32 x.1
    let c := val32 (((enc32 r.1 : Nat) : Int) + Config.elemOffset 20 (enc32 r.1)).toNat
    (if within c x.1 1 22 then c else r.1, g.2 ||| x.2 ||| r.2)
  | _ => (x.1, g.2 ||| x.2)

/-- One final output row: its element codes with poison, its log-sum-exp, and flags (R76, R153). -/
def finalRow (fo : Fmt) (d : Nat) (s : Option RowState) : List (Nat × Bool) × Nat × Bool × Flags :=
  match s with
  | none => (List.replicate d (0, false), enc32 (.inf true), false, 0)
  | some s =>
    if s.isEmpty then
      (s.po.map fun p => (0, p || s.pm), enc32 (.inf true), s.pm, 0)
    else
      let o := (s.o.zip s.po).map fun x =>
        let q := x.1.div s.l
        let r := fo.store .rne 0 false q.1
        ((r.1, x.2 || s.pm), q.2 ||| r.2)
      let e := lseOf s.m s.l
      (o.map (·.1), enc32 e.1, s.pm, e.2 ||| orFlags (o.map (·.2)))

/-- The keys of a key/value block, rotated, with V divided by its scale. -/
def keysOf (m stack : Mem) (ctab : Nat) (a : AttSetup) (freq : Nat → Nat) (rotP : Bool) : List Key × List Expanded :=
  let d := a.d
  let kb := bodyOf m stack ctab a.fk (a.ka + a.kh.kAt) a.kh.kBytes d a.kh.kLossless
  let vb := bodyOf m stack ctab a.fv (a.ka + a.kh.vAt) a.kh.vBytes d a.kh.vLossless
  let ks := (List.range a.kh.count).map fun j =>
    let sg := segOf m a.ka a.kh j
    let ps := posOf m a.ka a.kh j
    let r := rotateRow a.fk (rowOf kb d j) a.p.rotMode d ps.1 freq
    let rp := a.p.rotMode ≠ 0 ∧ (rotP = true ∨ ps.2 = true)
    (⟨a.kh.tokenBase + j, sg.1, sg.2, r.1.map fun e => ⟨e.v, e.p || decide rp⟩,
      (rowOf vb d j).map fun e => ⟨e.v.shift (-a.sv), e.p⟩, r.2⟩ : Key)
  (ks, [kb, vb])

/-- The rotated rows of the query block, each with its segment. -/
def queriesOf (m stack : Mem) (ctab : Nat) (a : AttSetup) (freq : Nat → Nat) (rotP : Bool) :
    List Query × Expanded :=
  let d := a.d
  let qb := bodyOf m stack ctab a.fq (a.qa + a.qh.kAt) a.qh.kBytes d a.qh.kLossless
  let qs := (List.range a.qh.count).map fun r =>
    let sg := segOf m a.qa a.qh r
    let ps := posOf m a.qa a.qh r
    let x := rotateRow a.fq (rowOf qb d r) a.p.rotMode d ps.1 freq
    let rp := a.p.rotMode ≠ 0 ∧ (rotP = true ∨ ps.2 = true)
    (⟨sg.1, sg.2, x.1.map fun e => (⟨e.v, e.p || decide rp⟩ : Elem), x.2, [], 0, false, 0, false⟩ : Query)
  (qs, qb)

/-- The rows of dO beside their queries, with L and D (R155). The dO block begins with a block header, whose K fields give its
body's format, size and mode as a query block's do; its tokens, head dimension and scale are not used. DESIGN CHOICE: log entry
57. -/
def withDO (m : Mem) (p : AttParam) (d : Nat) (body : Expanded) (qs : List Query) : List Query :=
  let hp := m.poisoned p.doAddr 64
  qs.zipIdx.map fun x => { x.1 with
    dO := (rowOf body d x.2).map fun e => ⟨e.v, e.p || hp⟩
    lse := m.nat (p.lse + 4 * x.2) 4
    lseP := m.poisoned (p.lse + 4 * x.2) 4
    dd := m.nat (p.dAddr + 4 * x.2) 4
    ddP := m.poisoned (p.dAddr + 4 * x.2) 4 }

def expEffs (num : Nat) (l : List Expanded) : List Eff :=
  l.flatMap fun x => operandEffs num ⟨[], x.first, x.failed, []⟩

/-! ### What a forward pass writes (R144, R146, R147, R153) -/

/-- The rows of a forward pass once its scores are accepted. -/
def AttRun.rowsDone (r : AttRun) : List RowState :=
  if r.skip then r.rows else r.rowWorks.zipIdx.map fun w => r.passRow w.2 w.1

/-- Flags of the rotations of the keys that a row sees. -/
def AttRun.keyFlags (r : AttRun) : Flags :=
  orFlags (r.keys.map fun k => if r.queries.zipIdx.any fun x => r.visible x.2 x.1 k then k.rot else 0)

/-- The empty state of all 128 records, written before the pass begins (R146). -/
def AttRun.initWrites (r : AttRun) (taint : Bool) : List Write :=
  if r.init then
    chunkWrites false r.a.p.state ((List.range 128).flatMap fun _ => (RowState.empty r.a.d).items.map fun x => (x.1, taint))
  else []

/-- What a forward pass writes, folds and raises. The values presented for storage in a narrower format are rounded to odd (R52,
R83). -/
def AttRun.forwardDone (r : AttRun) (taint : Bool) : List Write × List CalFold × Flags :=
  let a := r.a
  let d := a.d
  let rows := r.rowsDone
  let stateW := rows.zipIdx.flatMap fun x =>
    if x.1.changed then
      chunkWrites false (a.p.state + x.2 * recBytes d) (x.1.items.map fun y => (y.1, y.2 || taint))
    else []
  let fin := (List.range 128).map fun i => finalRow a.fo d (rows[i]?)
  let outW := if r.final then
      chunkWrites false a.p.out (fin.flatMap fun x => x.1.flatMap fun y =>
        (leBytes (a.fo.elemBits / 8) y.1).map fun b => (b, y.2 || taint)) ++
      chunkWrites false a.p.lse (fin.flatMap fun x => (leBytes 4 x.2.1).map fun b => (b, x.2.2.1 || taint))
    else []
  let vals := rows.flatMap fun s =>
    if s.isEmpty then List.replicate d Val.zero else s.o.map fun o => (o.div s.l).1
  let scaled := a.fo = .e4m3 ∨ a.fo = .e5m2
  (r.initWrites taint ++ stateW ++ outW,
    (if r.final ∧ scaled then
      [foldOf a.p.tensor a.fo.code (vals.map fun v => (Layout.fp32.round .rto 0 false v).1)
        (vals.map fun v => (a.fo.store .rne 0 false v).2)] else []),
    orFlags (rows.map (·.flags)) ||| r.keyFlags ||| (if r.final then orFlags (fin.map fun x => x.2.2.2) else 0) |||
      pzIf ((!r.skip || r.final) && rows.any fun s => s.pm || s.po.any id))

/-! ### Backward (R155) -/

/-- One (row, key) cell of a backward pass: p and c·dS, with flags. -/
structure BackCell where
  p : Elem
  cds : Elem
  flags : Flags
  deriving DecidableEq, Repr

/-- A row whose L is −∞ is not evaluated. -/
def Query.live (x : Query) : Bool := val32 x.lse != Val.inf true

/-- Does a row whose L is −∞ carry poison in it? Every gradient depends on whether the row adds to it (R79). -/
def AttRun.deadPoison (r : AttRun) : Bool := r.queries.any fun x => !x.live && x.lseP

def BackCell.zero : BackCell := ⟨⟨Val.zero, false⟩, ⟨Val.zero, false⟩, 0⟩

/-- The cell of row `i` and key `j`. V is divided by its scale before dp; no other scale is applied to dp, dQ, dK or dV, for
which the spec names none. DESIGN CHOICE: log entry 57. -/
def AttRun.cell (r : AttRun) (i j : Nat) (x : Query) (k : Key) : BackCell :=
  let vis := r.visible i x k
  let ex := if vis then
      let sc := r.score i j
      let y := sc.1.add (val32 x.lse).negate
      let e := softExp y.1
      (e.1, sc.2 ||| y.2 ||| e.2)
    else (Val.zero, 0)
  let dp := r.dpAt i j
  let df := (val32 dp.1).add (val32 x.dd).negate
  let dr := rne32 df.1
  let ds := ex.1.mul dr.1
  let dsr := rne32 ds.1
  let cd := dsr.1.mul (val32 r.a.p.scale)
  let pp := x.segP || k.segP || (vis && (x.lseP || x.q.any (·.p) || k.k.any (·.p)))
  ⟨⟨ex.1, pp⟩, ⟨cd.1, pp || x.ddP || x.dO.any (·.p) || k.v.any (·.p)⟩,
    ex.2 ||| dp.2 ||| df.2 ||| dr.2 ||| ds.2 ||| dsr.2 ||| cd.2⟩

def AttRun.cells (r : AttRun) : List (List BackCell) :=
  r.queries.zipIdx.map fun x => r.keys.zipIdx.map fun k =>
    if x.1.live then r.cell x.2 k.2 x.1 k.1 else BackCell.zero

/-- The rows that a backward pass evaluates. -/
def AttRun.liveRows (r : AttRun) : List Nat := (r.queries.zipIdx.filter fun x => x.1.live).map (·.2)

/-- Term number of a row in dK and dV: (h_r·G + g)·T + i. The row's place i among the module's T query tokens is its token
index modulo T, or its place in the block where T is 0. DESIGN CHOICE: log entry 57. -/
def AttRun.termNo (r : AttRun) (i : Nat) : Nat :=
  let p := r.a.p
  let g := p.hq / p.hkv
  (r.hop * g + p.head % g) * p.tTok + (if p.tTok = 0 then i else (r.a.qh.tokenBase + i) % p.tTok)

/-- The stored dQ word of a row and column; INIT starts dQ at +0, as the empty state starts the row state. DESIGN CHOICE: log
entry 57. DESIGN CHOICE: log entry 57. -/
def AttRun.storedDQ (r : AttRun) (i c : Nat) : Nat × Bool :=
  if r.init then (0, false) else (r.dq[i * r.a.d + c]?).getD (0, false)

/-- Column `c` of some rows, as the vector of one output column. -/
def columnAt (rows : List (List Elem)) (c : Nat) : List Elem := rows.map fun e => elemOf e c

/-- The cells of the evaluated rows under key `j`. -/
def cellsOfKey (cs : List (List BackCell)) (live : List Nat) (j : Nat) : List BackCell :=
  live.map fun i => (((cs[i]?).getD [])[j]?).getD BackCell.zero

/-- The products of dQ, dK and dV, each a reduction of this pass from +0 (R62, R155). DESIGN CHOICE: log entry 57. -/
def AttRun.gradSegs (r : AttRun) : List Seg :=
  let d := r.a.d
  let x := r.a.p.tensor
  let cs := r.cells
  let live := r.liveRows
  let rows := live.map fun i => (r.queries[i]?).getD ⟨0, false, [], 0, [], 0, false, 0, false⟩
  let byKey := fun (sel : BackCell → Elem) =>
    (List.range r.keys.length).map fun j => (cellsOfKey cs live j).map sel
  blockSegs (x + 1) (r.a.qh.tokenBase * 256) 256 ((List.range r.keys.length).map (r.nOrd * 128 + ·))
      (cs.map fun c => c.map (·.cds)) ((List.range d).map (columnAt (r.keys.map (·.k)))) [] ++
    blockSegs (x + 2) (r.a.kh.tokenBase * 256) 256 (live.map r.termNo) (byKey (·.cds))
      ((List.range d).map (columnAt (rows.map (·.q)))) [] ++
    blockSegs (x + 3) (r.a.kh.tokenBase * 256) 256 (live.map r.termNo) (byKey (·.p))
      ((List.range d).map (columnAt (rows.map (·.dO)))) []

/-- Rotate an FP32 gradient row back: the sine negated, one RNE (R152, R155). `pp` is the poison of its position and of the
frequency table. -/
def rotateBack (row : List Elem) (mode d pos : Nat) (pp : Bool) (freq : Nat → Nat) : List Elem × Flags :=
  if mode = 0 then (row, 0)
  else
    let r := (List.range d).map fun c =>
      let dm := rotDim mode d c
      if freq dm.1 = 0 then (elemOf row c, (0 : Flags))
      else
        let pr := rotPair mode d dm.1
        let e := rotExact row mode d pos freq true c
        let x := rne32 e.1
        ((⟨x.1, pp || (elemOf row pr.1).p || (elemOf row pr.2).p⟩ : Elem), e.2 ||| x.2)
    (r.map (·.1), orFlags (r.map (·.2)))

def AttRun.freq (r : AttRun) (i : Nat) : Nat := (r.freqs[i]?).getD 0

/-- Row `i` of some positions with its poison. -/
def posAt (l : List (Nat × Bool)) (i : Nat) : Nat × Bool := (l[i]?).getD (0, false)

/-- One RNE add of a row into the FP32 words at `a` (R165, R166): what is written, the flags, and whether a word that was read
carries poison. -/
def addRow (m : Mem) (a : Nat) (row : List Elem) (taint : Bool) : List Write × Flags × Bool :=
  let es := row.zipIdx.map fun e =>
    let at_ := a + 4 * e.2
    let s := (val32 (m.nat at_ 4)).add e.1.v
    let x := rne32 s.1
    (enc32 x.1, e.1.p || m.tag at_ || taint, s.2 ||| x.2, m.tag at_)
  (elemWrites ⟨false, a⟩ 4 (es.map fun e => (e.1, e.2.1)), orFlags (es.map fun e => e.2.2.1), es.any fun e => e.2.2.2)

/-- Rows of gradients added into the FP32 rows at `base`. -/
def addRows (m : Mem) (base d : Nat) (rows : List (List Elem)) (taint : Bool) : List Write × Flags × Bool :=
  let l := rows.zipIdx.map fun x => addRow m (base + 4 * d * x.2) x.1 taint
  (l.flatMap (·.1), orFlags (l.map fun x => x.2.1), l.any fun x => x.2.2)

/-- Row `i` of dQ as the pass leaves it: the stored words, to which an evaluated row adds its sum by one RNE add; FINAL rotates it
back. DESIGN CHOICE: log entry 57. -/
def AttRun.dqRow (r : AttRun) (cs : List (List BackCell)) (i : Nat) : List Elem × Flags :=
  let d := r.a.d
  let live := ((r.queries[i]?).map Query.live).getD false
  let lp := ((r.queries[i]?).map (·.lseP)).getD false
  let row := (List.range d).map fun c =>
    let s := r.storedDQ i c
    if live then
      let w := blockAt r.sums d i c
      let ps := (r.keys.zip ((cs[i]?).getD [])).any fun k => k.2.cds.p || (elemOf k.1.k c).p
      let y := (val32 s.1).add (val32 w.1)
      let z := rne32 y.1
      ((⟨z.1, s.2 || ps⟩ : Elem), w.2 ||| y.2 ||| z.2)
    else (⟨val32 s.1, s.2 || lp⟩, 0)
  let pos := posAt r.qpos i
  let back := if r.final then rotateBack (row.map (·.1)) r.a.p.rotMode d pos.1 pos.2 r.freq else (row.map (·.1), 0)
  (back.1, back.2 ||| orFlags (row.map (·.2)))

/-- This pass's dK and dV, a row for each key (R155); dK is rotated back unless it travels with a coach. -/
def AttRun.ownGrads (r : AttRun) (cs : List (List BackCell)) : List (List Elem) × List (List Elem) × Flags :=
  let d := r.a.d
  let live := r.liveRows
  let nk := r.keys.length
  let dqB := (bands r.queries.length).length * (bands d).length
  let dkB := (bands nk).length * (bands d).length
  let one := fun (blocks : List (List (Nat × Flags))) (sel : BackCell → Elem) (other : Query → List Elem) (j : Nat) =>
    (List.range d).map fun c =>
      let w := blockAt blocks d j c
      let p := r.deadPoison || (live.zip (cellsOfKey cs live j)).any fun x => (sel x.2).p ||
        (elemOf (((r.queries[x.1]?).map other).getD []) c).p
      ((⟨val32 w.1, p⟩ : Elem), w.2)
  let dk := (List.range nk).map fun j =>
    let row := one (r.sums.drop dqB) (·.cds) (·.q) j
    let pos := posAt r.kpos j
    let back := if r.a.p.ringUsed then (row.map (·.1), 0)
      else rotateBack (row.map (·.1)) r.a.p.rotMode d pos.1 pos.2 r.freq
    (back.1, back.2 ||| orFlags (row.map (·.2)))
  let dv := (List.range nk).map fun j =>
    let row := one (r.sums.drop (dqB + dkB)) (·.p) (·.dO) j
    (row.map (·.1), orFlags (row.map (·.2)))
  (dk.map (·.1), dv.map (·.1), orFlags (dk.map (·.2)) ||| orFlags (dv.map (·.2)))

/-- Flags of the rotations of the evaluated rows, and of the keys, which every evaluated row meets (R155). -/
def AttRun.rotFlags (r : AttRun) : Flags :=
  if r.liveRows.isEmpty then 0
  else orFlags (r.queries.map fun x => if x.live then x.rot else 0) ||| orFlags (r.keys.map (·.rot))

/-- What a backward pass writes (R155, R165). DEDUCED: log entry 16. -/
def AttRun.backwardDone (r : AttRun) (m : Mem) (taint : Bool) : List Write × List CalFold × Flags :=
  let d := r.a.d
  let cs := r.cells
  let rows := (List.range r.a.qh.count).filter fun i =>
    r.init || r.final || ((r.queries[i]?).map fun x => x.live || x.lseP).getD false
  let dq := rows.map fun i => (i, r.dqRow cs i)
  let dqW := dq.flatMap fun x =>
    elemWrites ⟨false, r.a.p.out + 4 * d * x.1⟩ 4 (x.2.1.map fun e => (enc32 e.v, e.p || taint))
  let g := r.ownGrads cs
  let k := addRows m r.grad d g.1 taint
  let v := addRows m (r.grad + 512 * d) d g.2.1 taint
  let used := dq.any fun x => x.2.1.any (·.p)
  let gused := (g.1 ++ g.2.1).any fun row => row.any (·.p)
  (r.initWrites taint ++ dqW ++ (if r.skip then [] else k.1 ++ v.1), [],
    orFlags (dq.map fun x => x.2.2) ||| pzIf used |||
      (if r.skip then 0
       else r.rotFlags ||| g.2.2 ||| k.2.1 ||| v.2.1 ||| orFlags (cs.flatMap fun c => c.map (·.flags)) |||
          pzIf (gused || k.2.2 || v.2.2)))

/-- A coach that has come home: its dK, rotated back, and its dV are added into the resident gradient (R155, R166).
DESIGN CHOICE: log entry 58. -/
def AttRun.homeDone (r : AttRun) (m : Mem) (taint : Bool) : List Write × List CalFold × Flags :=
  let d := r.a.d
  let row := fun base j => (List.range d).map fun c =>
    let at_ := base + 4 * (j * d + c)
    (⟨val32 (m.nat at_ 4), m.tag at_⟩ : Elem)
  let dk := (List.range r.a.kh.count).map fun j =>
    let pos := posAt r.kpos j
    rotateBack (row r.grad j) r.a.p.rotMode d pos.1 pos.2 r.freq
  let dv := (List.range r.a.kh.count).map (row (r.grad + 512 * d))
  let k := addRows m r.a.p.dkv d (dk.map (·.1)) taint
  let v := addRows m (r.a.p.dkv + 512 * d) d dv taint
  (r.initWrites taint ++ k.1 ++ v.1, [],
    orFlags (dk.map (·.2)) ||| k.2.1 ||| v.2.1 |||
      pzIf (k.2.2 || v.2.2 || (dk.map (·.1) ++ dv).any fun e => e.any (·.p)))

/-! ### A pass in progress -/

/-- What a pass writes when its last product has been accepted; everything is tagged on a tainted pass (R102). -/
def AttRun.finish (r : AttRun) (m : Mem) (retired : Bool) : List Write × List CalFold × Flags :=
  let taint := r.tainted || retired
  match r.kind with
  | .forward => r.forwardDone taint
  | .backward => r.backwardDone m taint
  | .home => r.homeDone m taint

/-- The sums of the current product are accepted. Once the scores are there, and the dp of a backward pass, the products with V,
or those of dQ, dK and dV, are formed. -/
def AttRun.accept (r : AttRun) (sums : List (Nat × Flags)) (poison : Bool) : AttRun :=
  let r1 := { r with
    todo := r.todo.drop 1
    scores := if r.second then r.scores else r.scores ++ [sums]
    sums := if r.second then r.sums ++ [sums] else r.sums
    failed := none
    tainted := r.tainted || poison }
  if r1.todo = [] ∧ r1.second = false then
    { r1 with
      todo := if r1.kind = .backward then r1.gradSegs else r1.valueSegs
      second := true }
  else r1

/-- The pass's place in the ring and where its gradients lie. -/
structure PassPlace where
  kind : PassKind
  grad : Nat
  hop : Nat
  nOrd : Nat
  deriving DecidableEq, Repr

/-- An accepted pass begins: its operands are read, and its first products formed. `pa` is the parameter block's place, whose
poison every output depends on (R79). -/
def startPass (c : TileCtx) (ctab pa : Nat) (t : Tile) (f : AttF) (a : AttSetup) (fd : Fmt) (dh : AttHdr) (b : PassPlace) : Out :=
  let m := t.mem
  let d := a.d
  let rot := a.p.rotMode ≠ 0
  let rotP := decide rot && m.poisoned a.p.rot (4 * d)
  let freq := fun i => m.nat (a.p.rot + 8 * i) 8
  let skip := b.kind != .home && attSkipped a.p a.qh a.kh
  let quiet := skip || b.kind == .home
  let pp := m.poisoned pa 64
  let ks := if quiet then ([], []) else keysOf m c.stack ctab a freq rotP
  let qs := if quiet then ([], []) else
    let x := queriesOf m c.stack ctab a freq rotP
    (x.1, [x.2])
  let dob := if quiet ∨ b.kind ≠ .backward then none
    else some (bodyOf m c.stack ctab fd (a.p.doAddr + dh.kAt) dh.kBytes d dh.kLossless)
  let place := fun (base : Nat) (h : AttHdr) (i : Nat) => let x := posOf m base h i; (x.1, x.2 || rotP)
  let run : AttRun := {
    kind := b.kind
    init := f.init
    final := f.final
    skip := skip
    a := a
    keys := ks.1
    queries := match dob with
      | some x => withDO m a.p d x qs.1
      | none => qs.1
    rows := if b.kind ≠ .forward then [] else (List.range a.qh.count).map fun r =>
      if f.init then RowState.empty d else RowState.load m (a.p.state + r * recBytes d) d
    dq := if b.kind ≠ .backward ∨ f.init then [] else (List.range (a.qh.count * d)).map fun i =>
      (m.nat (a.p.out + 4 * i) 4, m.tag (a.p.out + 4 * i))
    freqs := if rot then (List.range (d / 2)).map freq else []
    qpos := if rot then (List.range a.qh.count).map (place a.qa a.qh) else []
    kpos := if rot then (List.range a.kh.count).map (place a.ka a.kh) else []
    grad := b.grad
    hop := b.hop
    nOrd := b.nOrd
    todo := []
    second := false
    scores := []
    sums := []
    failed := none
    tainted := t.retired || pp }
  let todo := if quiet then [] else match b.kind with
    | .backward => run.scoreSegs ++ run.dpSegs
    | _ => run.scoreSegs
  let bodies := ks.2 ++ qs.2 ++ dob.toList
  ⟨[], [], pzIf pp, .att { run with todo := todo },
    expEffs c.num bodies, bodies.flatMap (·.tables)⟩

/-! ### Judging an attention instruction -/

/-- Keep a range's contents and tag it (R145). -/
def tagWrite (a n : Nat) : Write := ⟨false, a, [], true, n⟩

/-- Program-region judgement of the ranges a pass writes (R112). -/
def rangesOk (l : List (Nat × Nat)) : Except Nat Unit :=
  if l.any fun x => decide (x.1 ≥ tmemSize ∨ x.1 + x.2 > tmemSize) then .error St.addrRange
  else if l.any fun x => decide (x.2 ≠ 0 ∧ x.1 + x.2 > progBase) then .error St.progRegion
  else .ok ()

def readsOk (l : List (Nat × Nat)) : Except Nat Unit :=
  if l.any fun x => decide (x.1 ≥ tmemSize ∨ x.1 + x.2 > tmemSize) then .error St.addrRange else .ok ()

def maskOf (l : List (Nat × Nat)) : Nat := l.foldl (fun m x => m ||| zoneMask x.1 x.2) 0

/-- Are the addresses of a pass aligned: blocks to 16 B, the row state to 64 B, the frequency table to 8 B, rows of elements to
their size (R146, R152, R186, Table 05.6)? DEDUCED: log entry 16. -/
def attAligned (p : AttParam) (ka : Nat) (kind : PassKind) (final : Bool) : Bool :=
  let mult := fun (a n : Nat) => a % n == 0
  let es := match attOutFmt p.outFmt with
    | some f => f.elemBits / 8
    | none => 1
  mult p.q 16 && mult ka 16 && mult p.state 64 && (p.rotMode == 0 || mult p.rot 8) &&
  (match kind with
   | .forward => !final || (mult p.out es && mult p.lse 4)
   | .backward => mult p.out 4 && mult p.lse 4 && mult p.dAddr 4 && mult p.doAddr 16 && (p.ringUsed || mult p.dkv 4)
   | .home => mult p.dkv 4)

/-- The ranges that a pass writes (R144, R145, R146, R153, R155). -/
def attWrites (p : AttParam) (f : AttF) (kind : PassKind) (d grad : Nat) : List (Nat × Nat) :=
  let es := ((attOutFmt p.outFmt).getD .fp32).elemBits / 8
  let init := if f.init then [(p.state, 128 * recBytes d)] else []
  match kind with
  | .forward => (p.state, 128 * recBytes d) :: (if f.final then [(p.out, 128 * d * es), (p.lse, 512)] else [])
  | .backward => [(p.out, 512 * d), (grad, 1024 * d)] ++ init
  | .home => (p.dkv, 1024 * d) :: init

/-- The blocks and arrays that a pass names as operands (R204). -/
def attBlocks (p : AttParam) (ka : Nat) (kind : PassKind) (qh kh dh : AttHdr) (d : Nat) : List (Nat × Nat) :=
  [(p.q, if kind = .home then 64 else qh.size), (ka, kh.size)] ++ (if p.rotMode = 0 then [] else [(p.rot, 4 * d)]) ++
    (if kind = .backward then [(p.doAddr, dh.size), (p.lse, 512), (p.dAddr, 512)] else [])

/-- The ranges that a pass reads when it runs, beside its headers (R113, R143). -/
def attReads (p : AttParam) (f : AttF) (ka : Nat) (kind : PassKind) (skip : Bool) (qh kh dh : AttHdr) (d grad : Nat) :
    List (Nat × Nat) :=
  let rows := fun (a n : Nat) => [(a, 4 * d * n), (a + 512 * d, 4 * d * n)]
  let state := if f.init then [] else [(p.state, qh.count * recBytes d)]
  let dq := if f.init then [] else [(p.out, 4 * d * qh.count)]
  match kind with
  | .forward => if skip then (if f.final then state else []) else attBlocks p ka kind qh kh dh d ++ state
  | .backward =>
    if skip then
      (if f.final = false then []
       else dq ++ (if p.rotMode = 0 then [] else (p.rot, 4 * d) :: (if qh.posArray then [(p.q + qh.posAt, 512)] else [])))
    else attBlocks p ka kind qh kh dh d ++ dq ++ rows grad kh.count
  | .home => attBlocks p ka kind qh kh dh d ++ rows p.dkv kh.count

/-- Judge an ATT whose parameter block and headers have been read (R136 to R145, R163, R203). A damaged coach header that puts
the gradient body outside the scratchpad leaves no granules of it to tag. DEDUCED: log entry 16. No part of the accumulator file
is among what it writes: A0, A1, S0 and S1 keep what they hold. DESIGN CHOICE: log entry 63. -/
def planAtt (c : TileCtx) (ctab : Nat) (ringPos ringSize : Nat → Nat) (t : Tile) (f : AttF) : Judged :=
  match t.tileRef f.param 64 with
  | .error e => .error e
  | .ok pa =>
    let m := t.mem
    let p := AttParam.parse (m.read pa 64)
    let ka := p.kv + t.regNat f.kvreg
    let ri := (c.rings[p.ring]?).getD ⟨false, false⟩
    if pa % 64 ≠ 0 ∨ p.rotMode = 3 then .error St.paramCode
    else if p.hq = 0 ∨ p.hkv = 0 then .error St.attHeadMap
    else if p.ringUsed ∧ ri.valid = false then .error St.ringInvalid
    else if p.ringUsed ∧ ri.baysOk = false then .error St.ringBays
    else
      match readsOk ([(p.q, 64), (ka, 64)] ++ if f.bwd then [(p.doAddr, 64)] else []) with
      | .error e => .error e
      | .ok _ =>
        let qh := AttHdr.parse (m.read p.q 64)
        let kh := AttHdr.parse (m.read ka 64)
        let dh := AttHdr.parse (m.read p.doAddr 64)
        let d := qh.d
        let home := f.bwd && p.ringUsed && kh.gradOnly && kh.grad && kh.originRing == p.ring &&
          kh.originPos == ringPos p.ring
        let kind : PassKind := if f.bwd = false then .forward else if home then .home else .backward
        let hdrPoison := m.poisoned p.q 64 || m.poisoned ka 64
        let grad := if p.ringUsed then ka + kh.gradAt else p.dkv
        let writes := (attWrites p f kind d grad).filter fun w =>
          !(hdrPoison && p.ringUsed && w.1 == grad && decide (grad + 1024 * d > progBase))
        let mx := matrixBit ||| 2 ^ 34 ||| 2 ^ 35
        if attAligned p ka kind f.final = false then .error St.paramCode
        else match rangesOk writes with
        | .error e => .error e
        | .ok _ =>
          if hdrPoison then
            .ok {
              rd := maskOf [(pa, 64), (p.q, 64), (ka, 64)]
              wr := maskOf writes ||| mx
              touch := []
              run := fun _ => ⟨writes.map fun w => tagWrite w.1 w.2, [], Flags.pz, .vec,
                [tileEv c.num St.attHdrPoison p.state], []⟩ }
          else
            match attCheck p home p.q ka qh kh with
            | .error e => .error e
            | .ok a =>
              let skip := kind != .home && attSkipped p qh kh
              let reads := attReads p f ka kind skip qh kh dh d grad
              match readsOk reads with
              | .error e => .error e
              | .ok _ =>
                let n := if f.nreg = 0 then p.nOrd else t.regNat f.nreg
                let r := ringSize p.ring
                let hop := if p.ringUsed ∧ r ≠ 0 then (ringPos p.ring + r - kh.originPos % r) % r else 0
                let plan := fun (fd : Fmt) => (.ok {
                  rd := maskOf ((pa, 64) :: attBlocks p ka kind qh kh dh d)
                  wr := maskOf writes ||| mx
                  touch := reads
                  run := fun t' => startPass c ctab pa t' f a fd dh ⟨kind, grad, hop, n⟩ } : Judged)
                match kind, attInFmt dh.fmtK with
                | .backward, some fd => if matrixPairOk fd a.fv = false then .error St.attFmt else plan fd
                | .backward, none => .error (if (Fmt.ofCode dh.fmtK).isNone then St.fmtReserved else St.attFmt)
                | _, _ => plan .bf16

end Sys2Proof.Machine
end

