-- ==== Sys2Proof/WellFormed.lean ====
section
/-! DEFINITION. Which commands are well formed: every number in the range that its place in the module gives it. -/

namespace Sys2Proof

/-! ### Tile instruction fields (Tables 05.7 to 05.15) -/

def RdregF.wf (f : RdregF) : Bool :=
  decide (f.gd < 2 ^ 5 ∧ f.index < 2 ^ 8)

def WrregF.wf (f : WrregF) : Bool :=
  decide (f.ga < 2 ^ 5 ∧ f.index < 2 ^ 8)

def LiF.wf (f : LiF) : Bool :=
  decide (f.gd < 2 ^ 5 ∧ f.imm < 2 ^ 40)

def AddiF.wf (f : AddiF) : Bool :=
  decide (f.gd < 2 ^ 5 ∧ f.ga < 2 ^ 5 ∧ f.imm < 2 ^ 32)

def AluF.wf (f : AluF) : Bool :=
  decide (f.gd < 2 ^ 5 ∧ f.ga < 2 ^ 5 ∧ f.gb < 2 ^ 5 ∧ f.op < 2 ^ 4)

def BrF.wf (f : BrF) : Bool :=
  decide (f.ga < 2 ^ 5 ∧ f.gb < 2 ^ 5 ∧ f.cond < 2 ^ 3 ∧ f.target < 2 ^ 11)

def LoopF.wf (f : LoopF) : Bool :=
  decide (f.lc < 2 ^ 2 ∧ f.creg < 2 ^ 5 ∧ f.imm < 2 ^ 16 ∧ f.stop < 2 ^ 11)

def SigF.wf (f : SigF) : Bool :=
  decide (f.treg < 2 ^ 5 ∧ f.pair < 2 ^ 5 ∧ f.ctr < 2 ^ 1 ∧ f.count < 2 ^ 8 ∧ f.scope < 2 ^ 1)

def WaitF.wf (f : WaitF) : Bool :=
  decide (f.pair < 2 ^ 5 ∧ f.ctr < 2 ^ 1 ∧ f.count < 2 ^ 8)

def StreamF.wf (f : StreamF) : Bool :=
  decide (f.ref < 2 ^ 20 ∧ f.engine < 2 ^ 7 ∧ f.channel < 2 ^ 3 ∧ f.sreg < 2 ^ 5 ∧ f.dreg < 2 ^ 5 ∧ f.pair < 2 ^ 5 ∧
    f.ctr < 2 ^ 1)

def StwaitF.wf (f : StwaitF) : Bool :=
  decide (f.engine < 2 ^ 7 ∧ f.channel < 2 ^ 3)

def HcsendF.wf (f : HcsendF) : Bool :=
  decide (f.ref < 2 ^ 20 ∧ f.areg < 2 ^ 5 ∧ f.len < 2 ^ 4)

def TreeF.wf (f : TreeF) : Bool :=
  decide (f.ref < 2 ^ 20 ∧ f.lreg < 2 ^ 5 ∧ f.op < 2 ^ 2 ∧ f.level < 2 ^ 3 ∧ f.channel < 2 ^ 2 ∧ f.dstfmt < 2 ^ 4 ∧
    f.areg < 2 ^ 5)

def VopF.wf (f : VopF) : Bool :=
  decide (f.func < 2 ^ 6 ∧ f.dst < 2 ^ 8 ∧ f.src1 < 2 ^ 8 ∧ f.src2 < 2 ^ 8 ∧ f.src3 < 2 ^ 8 ∧ f.lreg < 2 ^ 5)

def VredF.wf (f : VredF) : Bool :=
  decide (f.func < 2 ^ 6 ∧ f.dst < 2 ^ 8 ∧ f.src < 2 ^ 8 ∧ f.lreg < 2 ^ 5 ∧ f.dstfmt < 2 ^ 4)

def CvtF.wf (f : CvtF) : Bool :=
  decide (f.dst < 2 ^ 8 ∧ f.src < 2 ^ 8 ∧ f.srcfmt < 2 ^ 4 ∧ f.dstfmt < 2 ^ 4 ∧ f.rm < 2 ^ 2 ∧ f.ireg < 2 ^ 5 ∧
    f.lreg < 2 ^ 5)

def MergeF.wf (f : MergeF) : Bool :=
  decide (f.dst < 2 ^ 8 ∧ f.src1 < 2 ^ 8 ∧ f.src2 < 2 ^ 8 ∧ f.headDim < 2 ^ 2 ∧ f.rows < 2 ^ 8)

def MmaF.wf (f : MmaF) : Bool :=
  decide (f.param < 2 ^ 20 ∧ f.dst < 2 ^ 1 ∧ f.areg < 2 ^ 5 ∧ f.breg < 2 ^ 5 ∧ f.kreg < 2 ^ 5)

def AttF.wf (f : AttF) : Bool :=
  decide (f.param < 2 ^ 20 ∧ f.kvreg < 2 ^ 5 ∧ f.nreg < 2 ^ 5)

/-! ### What the surroundings supply -/

/-- Bytes by rising address. -/
def cellsRise : List Host.Cell → Bool
  | a :: b :: r => decide (a.1 < b.1) && cellsRise (b :: r)
  | _ => true

def HostView.wf (v : HostView) : Bool := cellsRise v.data

/-- A value of the write's length (R327). -/
def RegWrite.wf (w : RegWrite) : Bool := decide (w.value < 2 ^ (8 * w.len))

/-- A request within one granule of 256 B in the 768 GiB of the stacks (R253, R254, R260). -/
def MemAccess.wf (r : MemAccess) : Bool :=
  decide (0 < r.len ∧ r.addr % 256 + r.len ≤ 256 ∧ r.addr + r.len ≤ 0xC000000000 ∧ r.poison < 16 ∧
    (r.write = true → r.data.length = r.len))

/-- A logical tile (R13), a link (R356), a ring and its count (R329), a stream channel (R290), a memory channel (R250). -/
def tileOk (t : Nat) : Bool := decide (t < 16384)
def linkOk (l : Nat) : Bool := decide (l < 32)
def slotOk (r j : Nat) : Bool := decide (r < 256 ∧ j < 2 ^ 32)
def streamOk (ch : Nat) : Bool := decide (ch < 10240)
def channelOk (c : Nat) : Bool := decide (c < 1536)

def StreamFrom.wf : StreamFrom → Bool
  | .tile t f v => tileOk t && f.wf && v.wf
  | .ring r j v => slotOk r j && v.wf

def PortFrom.wf : PortFrom → Bool
  | .tile t => tileOk t
  | .chan ch => streamOk ch

/-! ### Commands -/

/-- Is every operand of the command in its range? -/
def Instr.wf : Instr → Bool
  | .powerOn _ slot _ _ _ => decide (slot < 8)
  | .perstAssert => true
  | .perstDeassert slot _ _ _ => decide (slot < 8)
  | .hotReset => true
  | .functionLevelReset => true
  | .warmReset => true
  | .fabricReset => true
  | .safeState _ _ => true
  | .inputOvercurrent _ _ => true
  | .railWindow _ _ _ _ => true
  | .dieTempSample temps => temps.length == 6
  | .coolantCheck _ _ _ _ _ => true
  | .limiterAct _ => true
  | .limiterSustained => true
  | .limiterRelease _ => true
  | .powerLimitWindow _ => true
  | .rippleMeasure _ => true
  | .presentMate => true
  | .presentPart => true
  | .paceWindow die paces => decide (die < 4) && paces.length == 64
  | .paceShortClear die region => decide (die < 4) && decide (region < 64)
  | .marginReport margins => margins.length == 256
  | .tileRepair t => tileOk t
  | .tileRepairDone t => tileOk t
  | .nop t => tileOk t
  | .end_ t => tileOk t
  | .tileEndDone t => tileOk t
  | .rdreg t f => tileOk t && f.wf
  | .wrreg t f => tileOk t && f.wf
  | .fence t => tileOk t
  | .fenceSatisfied t => tileOk t
  | .trap t code => tileOk t && decide (code < 2 ^ 12)
  | .li t f => tileOk t && f.wf
  | .addi t f => tileOk t && f.wf
  | .alu t f => tileOk t && f.wf
  | .br t f => tileOk t && f.wf
  | .jmp t target => tileOk t && decide (target < 2 ^ 11)
  | .loop t f => tileOk t && f.wf
  | .loopExit t lc => tileOk t && decide (lc < 4)
  | .lockstepMismatch t => tileOk t
  | .sig t f => tileOk t && f.wf
  | .wait t f => tileOk t && f.wf
  | .waitSatisfied t => tileOk t
  | .copy by_ => by_.wf
  | .compress by_ => by_.wf
  | .areaRead by_ => by_.wf
  | .landed by_ => by_.wf
  | .streamDescriptorStart ch view => streamOk ch && view.wf
  | .chainSlotGrant ch view => streamOk ch && view.wf
  | .streamComplete ch => streamOk ch
  | .slotSignal ch => streamOk ch
  | .landedComplete ch _ => streamOk ch
  | .busError ch view => streamOk ch && view.wf
  | .stwait t f => tileOk t && f.wf
  | .stwaitSatisfied t => tileOk t
  | .hcsend t f => tileOk t && f.wf
  | .handcartLeave from_ => from_.wf
  | .handcartDeliver _ => true
  | .mailboxWrite _ => true
  | .tree t f => tileOk t && f.wf
  | .treeNodeCombine channel level node => decide (channel < 4) && decide (level < 8) && decide (node < 16384)
  | .vop t f => tileOk t && f.wf
  | .vred t f => tileOk t && f.wf
  | .cvt t f => tileOk t && f.wf
  | .merge t f => tileOk t && f.wf
  | .mma t f => tileOk t && f.wf
  | .segmentVerify t _ => tileOk t
  | .segmentRetryDone t _ => tileOk t
  | .mmaComplete t => tileOk t
  | .attForward t f => tileOk t && f.wf
  | .attBackward t f => tileOk t && f.wf
  | .instructionComplete t _ => tileOk t
  | .hazardClear t => tileOk t
  | .tmemScrub t _ => tileOk t
  | .tmemScrubPassEnd t _ => tileOk t
  | .livenessAdvance t => tileOk t
  | .watchdogSample die => decide (die < 4)
  | .cmpTileDataRead o _ => decide (o < 2 ^ 26)
  | .cmpTileDataWrite w => w.wf
  | .timNowRead o _ => decide (o < 2 ^ 26)
  | .registerWrite w => w.wf
  | .enable => true
  | .consistencyCheckDone _ => true
  | .park => true
  | .deepPark => true
  | .parkExit => true
  | .parkEntry => true
  | .d3hotEntry => true
  | .d0Return => true
  | .doorbellPoll => true
  | .doorbellPollResult view => view.wf
  | .descriptorFetch => true
  | .descriptorFetchResult view => view.wf
  | .descriptorStart ring index => slotOk ring index
  | .nopDescriptor ring index => slotOk ring index
  | .progLoad ring index view => slotOk ring index && view.wf
  | .progLoadDone ring index => slotOk ring index
  | .kvReserve ring index => slotOk ring index
  | .kvRelease ring index => slotOk ring index
  | .objDefine ring index => slotOk ring index
  | .objPromote ring index => slotOk ring index
  | .objEvict ring index => slotOk ring index
  | .objUnpin ring index => slotOk ring index
  | .objFree ring index => slotOk ring index
  | .objectCopyDone _ => true
  | .flashWrite ring index view => slotOk ring index && view.wf
  | .flashWriteDone _ => true
  | .completionWrite cq => decide (cq < 256)
  | .eventWrite => true
  | .modTimeExpiry cq => decide (cq.getD 0 < 256)
  | .stepArm ring index view => slotOk ring index && view.wf
  | .mbAdmit ring index view => slotOk ring index && view.wf
  | .stepRelease view => view.wf
  | .queueStart ch view => streamOk ch && view.wf
  | .gather ring index view => slotOk ring index && view.wf
  | .gatherLanded ring index => slotOk ring index
  | .dropSync ring index => slotOk ring index
  | .dropSyncComplete ring index => slotOk ring index
  | .gradExchange ring index view => slotOk ring index && view.wf
  | .gradEncodeStart ring index => slotOk ring index
  | .contributionReceive link => linkOk link
  | .coll ring index view => slotOk ring index && view.wf
  | .collPacketReceive link => linkOk link
  | .stepAbort ring index => slotOk ring index
  | .stepRunningEnd => true
  | .parityPartialReceive link => linkOk link
  | .parityUpdateDone => true
  | .voteReceive link => linkOk link
  | .decisionReceive link => linkOk link
  | .tableRebuildDone table => decide (table < 4096)
  | .abortEnd => true
  | .heartbeatSend => true
  | .gatePartyLost rank => decide (rank < 1048576)
  | .isolationTimeout => true
  | .healthEvaluate => true
  | .absent ring index => slotOk ring index
  | .spareFillDone => true
  | .pieceRepair piece side => decide (piece < 65536) && decide (side < 2)
  | .mbDrop ring index => slotOk ring index
  | .snapshot ring index view => slotOk ring index && view.wf
  | .snapshotLoad ring index view => slotOk ring index && view.wf
  | .parityInit ring index => slotOk ring index
  | .routeLoad ring index view => slotOk ring index && view.wf
  | .routeArm ring index => slotOk ring index
  | .routeProbe link => linkOk link
  | .flitSend link => linkOk link
  | .flitReceive link flit => linkOk link && flit.length == 256
  | .nackReceive link seqs => linkOk link && (seqs.all fun q => decide (q < 2 ^ 16))
  | .nackRepeat link => linkOk link
  | .replayTimeout link => linkOk link
  | .linkSilenceTimeout link => linkOk link
  | .linkFinal link => linkOk link
  | .linkFinalTimeout link => linkOk link
  | .laneSpare link lane => linkOk link && decide (lane < 4)
  | .linkTrainRetry link peerRank peerLink lanes => linkOk link && decide (peerRank < 1048576) && decide (peerLink < 32) &&
    decide (lanes < 16)
  | .linkRetryRateCheck => true
  | .packetReceive link => linkOk link
  | .packetForward link => linkOk link
  | .unreachable link => linkOk link
  | .message link => linkOk link
  | .hold link => linkOk link
  | .holdResendTimeout rank order => decide (rank < 1048576) && decide (order < 2 ^ 32)
  | .handcartAck link => linkOk link
  | .readReq link => linkOk link
  | .readResp link view => linkOk link && view.wf
  | .wack link => linkOk link
  | .injectDrop link ctl => linkOk link && decide (ctl < 2 ^ 64)
  | .injectCorrupt link ctl => linkOk link && decide (ctl < 2 ^ 64)
  | .injectReorder link ctl => linkOk link && decide (ctl < 2 ^ 64)
  | .injectLaneFail link ctl => linkOk link && decide (ctl < 2 ^ 64)
  | .injectLinkFail link ctl => linkOk link && decide (ctl < 2 ^ 64)
  | .memRequestEnter req => req.wf
  | .memReadDone channel slot => channelOk channel && decide (slot < 64)
  | .laneMark channel lane _ => channelOk channel && decide (lane < 18)
  | .channelRetire channel _ => channelOk channel
  | .retireAreaPoisoned => true
  | .bankRefresh channel bank => channelOk channel && decide (bank < 16)
  | .stackTempSample temps => temps.length == 12
  | .patrolScrubRead _ => true
  | .tgStart value => decide (value < 2 ^ 64)
  | .tgRunDone channel _ => channelOk channel
  | .healthRecordWrite _ => true
  | .syncSend link stamp => linkOk link && decide (stamp < 256)
  | .syncReceive link stamp => linkOk link && decide (stamp < 256)
  | .syncMissed link => linkOk link
  | .ppsEdge _ => true
  | .ref10mLoss => true
  | .oscillatorFail => true
  | .timSet value => decide (value < 2 ^ 64)
  | .timePageWrite => true
  | .ptmExchange hostNs => decide (hostNs < 2 ^ 64)
  | .ptpMessage _ _ _ => true
  | .getVersion _ => true
  | .getCapabilities _ => true
  | .negotiateAlgorithms _ => true
  | .getDigests _ => true
  | .getCertificate _ => true
  | .challenge _ => true
  | .getMeasurements _ => true
  | .pldmFirmwareUpdate _ _ => true
  | .pldmPlatformMonitoring _ => true
  | .ovenWarm => true
  | .pcieLinkUp _ _ _ _ _ => true
  | .illegalOpcode t => tileOk t
  | .stepCommitEnd => true
  | .snapshotDone ring index => slotOk ring index || decide (ring = 65536)
  | .snapshotLoadDone ring index => slotOk ring index
  | .routeLoadDone => true
  | .safInputRefresh _ _ _ => true
  | .mgmtAlertPulseEnd => true
  | .busBelow40v => true

end Sys2Proof
end

