-- ==== Sys2Proof/Machine/TileCode.lean ====
section
/-! DEFINITION. The tile program's instruction encodings (R185 to R203, Tables 05.5 to 05.15): a total
decoder from the 64-bit instruction word, and the encoder. -/

namespace Sys2Proof.Machine

/-- A decoded tile instruction; `illegal` is an opcode Table 05.5 does not list (R185). -/
inductive TInsn where
  | nop
  | fin
  | rdreg (f : RdregF)
  | wrreg (f : WrregF)
  | fence
  | trap (code : Nat)
  | li (f : LiF)
  | addi (f : AddiF)
  | alu (f : AluF)
  | br (f : BrF)
  | jmp (target : Nat)
  | loop (f : LoopF)
  | sig (f : SigF)
  | wait (f : WaitF)
  | stream (f : StreamF)
  | stwait (f : StwaitF)
  | hcsend (f : HcsendF)
  | tree (f : TreeF)
  | vop (f : VopF)
  | vred (f : VredF)
  | cvt (f : CvtF)
  | merge (f : MergeF)
  | mma (f : MmaF)
  | att (f : AttF)
  | illegal (opcode : Nat)
  deriving DecidableEq, Repr

/-- The instruction that a 64-bit word encodes; fields are cut as Tables 05.7 to 05.15 place them and
reserved fields are ignored (R5, R185). -/
def TInsn.decode (w : Nat) : TInsn :=
  let b := bitsOf w
  match b 63 56 with
  | 0x00 => .nop
  | 0x01 => .fin
  | 0x02 => .rdreg ⟨b 55 51, b 7 0⟩
  | 0x03 => .wrreg ⟨b 50 46, b 7 0⟩
  | 0x04 => .fence
  | 0x05 => .trap (b 11 0)
  | 0x10 => .li ⟨b 55 51, b 39 0⟩
  | 0x11 => .addi ⟨b 55 51, b 50 46, b 31 0⟩
  | 0x12 => .alu ⟨b 55 51, b 50 46, b 45 41, b 40 37⟩
  | 0x13 => .br ⟨b 50 46, b 45 41, b 40 38, b 10 0⟩
  | 0x14 => .jmp (b 10 0)
  | 0x15 => .loop ⟨b 55 54, b 53 49, b 48 33, b 21 11⟩
  | 0x20 => .sig ⟨b 55 51, b 50 46, b 45 45, b 44 37, b 36 36⟩
  | 0x21 => .wait ⟨b 50 46, b 45 45, b 44 37⟩
  | 0x30 => .stream ⟨b 55 36, b 35 29, b 28 26, b 25 21, b 20 16, bitOf w 15, b 14 10, b 9 9⟩
  | 0x31 => .stwait ⟨b 35 29, b 28 26⟩
  | 0x32 => .hcsend ⟨b 55 36, b 35 31, b 30 27⟩
  | 0x33 => .tree ⟨b 55 36, b 35 31, b 30 29, b 28 26, b 25 24, b 23 20, b 19 15⟩
  | 0x40 => .vop ⟨b 55 50, b 49 42, b 41 34, b 33 26, b 25 18, b 17 13, bitOf w 12⟩
  | 0x41 => .vred ⟨b 55 50, b 49 42, b 41 34, b 17 13, bitOf w 12, b 11 8⟩
  | 0x42 => .cvt ⟨b 49 42, b 41 34, b 33 30, b 29 26, b 25 24, bitOf w 23, b 22 18, b 17 13, bitOf w 12⟩
  | 0x43 => .merge ⟨b 49 42, b 41 34, b 33 26, b 25 24, b 23 16⟩
  | 0x50 => .mma ⟨b 55 36, b 35 35, bitOf w 34, bitOf w 33, b 32 28, b 27 23, b 22 18⟩
  | 0x60 => .att ⟨b 55 36, bitOf w 35, bitOf w 34, bitOf w 33, b 32 28, b 27 23⟩
  | op => .illegal op

/-! ### Encoding -/

/-- The opcodes of Table 05.5. -/
def tileOpcodes : List Nat :=
  [0x00, 0x01, 0x02, 0x03, 0x04, 0x05, 0x10, 0x11, 0x12, 0x13, 0x14, 0x15, 0x20, 0x21, 0x30, 0x31, 0x32, 0x33, 0x40, 0x41, 0x42,
    0x43, 0x50, 0x60]

/-- Is every field in its range? An opcode that Table 05.5 does not list is `illegal` alone. -/
def TInsn.wf : TInsn → Bool
  | .nop => true
  | .fin => true
  | .rdreg f => f.wf
  | .wrreg f => f.wf
  | .fence => true
  | .trap code => decide (code < 2 ^ 12)
  | .li f => f.wf
  | .addi f => f.wf
  | .alu f => f.wf
  | .br f => f.wf
  | .jmp target => decide (target < 2 ^ 11)
  | .loop f => f.wf
  | .sig f => f.wf
  | .wait f => f.wf
  | .stream f => f.wf
  | .stwait f => f.wf
  | .hcsend f => f.wf
  | .tree f => f.wf
  | .vop f => f.wf
  | .vred f => f.wf
  | .cvt f => f.wf
  | .merge f => f.wf
  | .mma f => f.wf
  | .att f => f.wf
  | .illegal op => decide (op < 256) && !tileOpcodes.contains op

/-- The word of an instruction, its reserved bits 0 (R5). -/
def TInsn.encode : TInsn → Nat
  | .nop =>
    0x00 * 2 ^ 56
  | .fin =>
    0x01 * 2 ^ 56
  | .rdreg f =>
    0x02 * 2 ^ 56 + f.gd * 2 ^ 51 + f.index
  | .wrreg f =>
    0x03 * 2 ^ 56 + f.ga * 2 ^ 46 + f.index
  | .fence =>
    0x04 * 2 ^ 56
  | .trap code =>
    0x05 * 2 ^ 56 + code
  | .li f =>
    0x10 * 2 ^ 56 + f.gd * 2 ^ 51 + f.imm
  | .addi f =>
    0x11 * 2 ^ 56 + f.gd * 2 ^ 51 + f.ga * 2 ^ 46 + f.imm
  | .alu f =>
    0x12 * 2 ^ 56 + f.gd * 2 ^ 51 + f.ga * 2 ^ 46 + f.gb * 2 ^ 41 + f.op * 2 ^ 37
  | .br f =>
    0x13 * 2 ^ 56 + f.ga * 2 ^ 46 + f.gb * 2 ^ 41 + f.cond * 2 ^ 38 + f.target
  | .jmp target =>
    0x14 * 2 ^ 56 + target
  | .loop f =>
    0x15 * 2 ^ 56 + f.lc * 2 ^ 54 + f.creg * 2 ^ 49 + f.imm * 2 ^ 33 + f.stop * 2 ^ 11
  | .sig f =>
    0x20 * 2 ^ 56 + f.treg * 2 ^ 51 + f.pair * 2 ^ 46 + f.ctr * 2 ^ 45 + f.count * 2 ^ 37 + f.scope * 2 ^ 36
  | .wait f =>
    0x21 * 2 ^ 56 + f.pair * 2 ^ 46 + f.ctr * 2 ^ 45 + f.count * 2 ^ 37
  | .stream f =>
    0x30 * 2 ^ 56 + f.ref * 2 ^ 36 + f.engine * 2 ^ 29 + f.channel * 2 ^ 26 + f.sreg * 2 ^ 21 + f.dreg * 2 ^ 16 +
      f.sig.toNat * 2 ^ 15 + f.pair * 2 ^ 10 + f.ctr * 2 ^ 9
  | .stwait f =>
    0x31 * 2 ^ 56 + f.engine * 2 ^ 29 + f.channel * 2 ^ 26
  | .hcsend f =>
    0x32 * 2 ^ 56 + f.ref * 2 ^ 36 + f.areg * 2 ^ 31 + f.len * 2 ^ 27
  | .tree f =>
    0x33 * 2 ^ 56 + f.ref * 2 ^ 36 + f.lreg * 2 ^ 31 + f.op * 2 ^ 29 + f.level * 2 ^ 26 + f.channel * 2 ^ 24 +
      f.dstfmt * 2 ^ 20 + f.areg * 2 ^ 15
  | .vop f =>
    0x40 * 2 ^ 56 + f.func * 2 ^ 50 + f.dst * 2 ^ 42 + f.src1 * 2 ^ 34 + f.src2 * 2 ^ 26 + f.src3 * 2 ^ 18 +
      f.lreg * 2 ^ 13 + f.wide.toNat * 2 ^ 12
  | .vred f =>
    0x41 * 2 ^ 56 + f.func * 2 ^ 50 + f.dst * 2 ^ 42 + f.src * 2 ^ 34 + f.lreg * 2 ^ 13 + f.wide.toNat * 2 ^ 12 +
      f.dstfmt * 2 ^ 8
  | .cvt f =>
    0x42 * 2 ^ 56 + f.dst * 2 ^ 42 + f.src * 2 ^ 34 + f.srcfmt * 2 ^ 30 + f.dstfmt * 2 ^ 26 + f.rm * 2 ^ 24 +
      f.nanmode.toNat * 2 ^ 23 + f.ireg * 2 ^ 18 + f.lreg * 2 ^ 13 + f.scaled.toNat * 2 ^ 12
  | .merge f =>
    0x43 * 2 ^ 56 + f.dst * 2 ^ 42 + f.src1 * 2 ^ 34 + f.src2 * 2 ^ 26 + f.headDim * 2 ^ 24 + f.rows * 2 ^ 16
  | .mma f =>
    0x50 * 2 ^ 56 + f.param * 2 ^ 36 + f.dst * 2 ^ 35 + f.rowout.toNat * 2 ^ 34 + f.rowmag.toNat * 2 ^ 33 +
      f.areg * 2 ^ 28 + f.breg * 2 ^ 23 + f.kreg * 2 ^ 18
  | .att f =>
    0x60 * 2 ^ 56 + f.param * 2 ^ 36 + f.bwd.toNat * 2 ^ 35 + f.init.toNat * 2 ^ 34 + f.final.toNat * 2 ^ 33 +
      f.kvreg * 2 ^ 28 + f.nreg * 2 ^ 23
  | .illegal op => op * 2 ^ 56

end Sys2Proof.Machine
end

