-- ==== Sys2Proof/Machine/Sequencer.lean ====
section
/-! DEFINITION. The tile sequencer: fetch, issue, loops, program faults, semaphores, waits, release, END and
the tile register block (R107 to R119, R124 to R135, R173 to R193, R204 to R218). -/

namespace Sys2Proof.Machine

/-- The instruction at PC (R173). -/
def Tile.fetch (t : Tile) : TInsn := TInsn.decode (t.mem.nat (progBase + 8 * t.pc) 8)

/-! ### Program faults (R208, R209) -/

/-- Record a program fault: the first is recorded and posted, a later one sets MORE. Issue stops. -/
def Tile.raise (num : Nat) (t : Tile) (status pc detail : Nat) : TileRes :=
  let st := match t.state with
    | .loading => SeqState.loading
    | _ => .faulted
  if t.fault.status ≠ 0 then
    ⟨{ t with state := st, fault := { t.fault with more := true } }, [.notClean num status]⟩
  else
    ⟨{ t with state := st, fault := ⟨status, false, pc, detail⟩ },
      [tileEv num status pc, .notClean num status]⟩

/-- A refusal at issue: the instruction has no effect and stays at PC. -/
def Tile.refuse (num : Nat) (t : Tile) (status : Nat) : TileRes :=
  ({ t with stall := .refused }).raise num status t.pc 0

/-! ### Loops and the program counter (R189, R190) -/

def Tile.loopCtr (t : Tile) (lc : Nat) : LoopCtr := Tbl.get t.loops LoopCtr.idle lc

/-- A counter that has reached 0 and whose loop has not yet become inactive. -/
def Tile.exitPending (t : Tile) : Bool :=
  (List.range 4).any fun lc => (t.loopCtr lc).active && (t.loopCtr lc).count == 0

/-- Insert a loop counter by falling start of its body: innermost first. -/
def insertLoop (t : Tile) (lc : Nat) : List Nat → List Nat
  | [] => [lc]
  | k :: ks => if (t.loopCtr k).start < (t.loopCtr lc).start then lc :: k :: ks else k :: insertLoop t lc ks

/-- The active loops whose body ends at PC, innermost first. -/
def Tile.loopsEnding (t : Tile) : List Nat :=
  ((List.range 4).filter fun lc => (t.loopCtr lc).active && (t.loopCtr lc).stop == t.pc).foldr (insertLoop t) []

/-- Count down the loops that end here, the innermost first; the first that stays above 0 gives the next PC, and the loops around
it are not counted then (R190). DESIGN CHOICE: log entry 63. -/
def countDown (t : Tile) : List Nat → Tile × Option Nat
  | [] => (t, none)
  | lc :: r =>
    let l := t.loopCtr lc
    let t' := { t with loops := Tbl.put t.loops lc { l with count := l.count - 1 } }
    if l.count > 1 then (t', some l.start) else countDown t' r

/-- Move past the instruction at PC, which has issued: loop back, go on, or fall through the last
instruction with ST_PC_RANGE (R189). -/
def Tile.advance (num : Nat) (t : Tile) : TileRes :=
  let r := countDown t t.loopsEnding
  let t' := { r.1 with lockPending := false, stall := .none }
  match r.2 with
  | some nx => .ok { t' with pc := nx }
  | none => if t.pc + 1 ≥ t.progLen then t'.raise num St.pcRange t.pc 0 else .ok { t' with pc := t.pc + 1 }

/-- Make every active loop inactive whose body does not hold the target. -/
def leaveLoops (target : Nat) (t : Tile) : Tile :=
  (List.range 4).foldl (fun acc lc =>
    let l := acc.loopCtr lc
    if l.active ∧ ¬ (l.start ≤ target ∧ target ≤ l.stop) then
      { acc with loops := Tbl.put acc.loops lc { l with active := false } } else acc) t

/-- A taken branch or jump (R189, R190). -/
def Tile.jumpTo (t : Tile) (target : Nat) : Tile :=
  let r := countDown t t.loopsEnding
  { leaveLoops target r.1 with pc := target, lockPending := false, stall := .none }

/-! ### Issue -/

/-- The sequencer is free to issue the instruction at PC. -/
def Tile.free (t : Tile) : Bool :=
  t.state == .running && !t.exitPending &&
    (match t.stall with
     | .none => true
     | .port => true
     | .queue => true
     | _ => false)

/-- The sequencer is about to issue exactly `i`. -/
def Tile.at_ (t : Tile) (i : TInsn) : Bool := t.free && t.fetch == i

/-! ### Scalar instructions (R187 to R190) -/

/-- A sign-extended immediate of `n` bits. -/
def sext (n w : Nat) : Word := BitVec.ofInt 64 (signedOf n w)

def Tile.issueLi (num : Nat) (t : Tile) (f : LiF) : TileRes := (t.setReg f.gd (sext 40 f.imm)).advance num

def Tile.issueAddi (num : Nat) (t : Tile) (f : AddiF) : TileRes :=
  (t.setReg f.gd (t.reg f.ga + sext 32 f.imm)).advance num

/-- The ALU operations of Table 05.8. -/
def aluOp (op : Nat) (a b : Word) : Option Word :=
  match op with
  | 0 => some (a + b)
  | 1 => some (a - b)
  | 2 => some (a * b)
  | 3 => some (a &&& b)
  | 4 => some (a ||| b)
  | 5 => some (a ^^^ b)
  | 6 => some (a <<< (b.toNat % 64))
  | 7 => some (a >>> (b.toNat % 64))
  | 8 => some (if a ≤ b then a else b)
  | 9 => some (if a ≤ b then b else a)
  | _ => none

def Tile.issueAlu (num : Nat) (t : Tile) (f : AluF) : TileRes :=
  match aluOp f.op (t.reg f.ga) (t.reg f.gb) with
  | none => t.refuse num St.illegalOp
  | some v => (t.setReg f.gd v).advance num

/-- The branch conditions of Table 05.8. -/
def brCond (cond : Nat) (a b : Word) : Option Bool :=
  match cond with
  | 0 => some (a == b)
  | 1 => some (a != b)
  | 2 => some (decide (a < b))
  | 3 => some (decide (b ≤ a))
  | 4 => some (decide (a.toInt < b.toInt))
  | 5 => some (decide (b.toInt ≤ a.toInt))
  | _ => none

/-- The predictor sees a resolved BR: counters start weakly not-taken, and no target is kept (R206, R217). DESIGN CHOICE: log
entry 63. DESIGN CHOICE: log entry 63. -/
def Tile.predict (t : Tile) (taken : Bool) : Tile :=
  let i := t.pc % 256
  let c := Tbl.get t.btb 1 i
  { t with
    btb := Tbl.put t.btb i (if taken then min 3 (c + 1) else c - 1)
    branches := satAdd 32 t.branches 1
    misses := if decide (2 ≤ c) = taken then t.misses else satAdd 32 t.misses 1 }

def Tile.issueBr (num : Nat) (t : Tile) (f : BrF) : TileRes :=
  match brCond f.cond (t.reg f.ga) (t.reg f.gb) with
  | none => t.refuse num St.illegalOp
  | some taken =>
    if f.target ≥ t.progLen then t.refuse num St.pcRange
    else
      let t' := t.predict taken
      if taken then .ok (t'.jumpTo f.target) else t'.advance num

def Tile.issueJmp (num : Nat) (t : Tile) (target : Nat) : TileRes :=
  if target ≥ t.progLen then t.refuse num St.pcRange else .ok (t.jumpTo target)

/-- LOOP (R190). One of count 0 whose place to go on is past the last instruction faults at its own PC. DESIGN CHOICE: log entry
63. -/
def Tile.issueLoop (num : Nat) (t : Tile) (f : LoopF) : TileRes :=
  let enclosed := (List.range 4).any fun lc =>
    let l := t.loopCtr lc
    l.active && decide (l.start ≤ t.pc ∧ t.pc ≤ l.stop ∧ l.stop < f.stop)
  if (t.loopCtr f.lc).active ∨ f.stop ≤ t.pc ∨ f.stop ≥ t.progLen ∨ enclosed then t.refuse num St.loopDepth
  else
    let count := if f.creg = 0 then f.imm else t.regNat f.creg % 2 ^ 32
    let t' := { t with lockPending := false, stall := .none }
    if count = 0 then
      (if f.stop + 1 ≥ t.progLen then t'.raise num St.pcRange t.pc 0 else .ok { t' with pc := f.stop + 1 })
    else .ok { t' with loops := Tbl.put t.loops f.lc ⟨count, t.pc + 1, f.stop, true⟩, pc := t.pc + 1 }

/-- The loop whose counter has reached 0 becomes inactive (LOOP_EXIT, R190). -/
def Tile.loopExit (t : Tile) (lc : Nat) : Tile :=
  let l := t.loopCtr lc
  if l.active ∧ l.count = 0 then { t with loops := Tbl.put t.loops lc { l with active := false } } else t

/-! ### Tile registers (R124 to R135, R210 to R218) -/

def flagBit (b : Bool) (i : Nat) : Nat := if b then 2 ^ i else 0

def Tile.sem (t : Tile) (p : Nat) : Sem := Tbl.get t.sems Sem.zero p

def Sem.word (s : Sem) : Nat :=
  s.full + s.empty * 2 ^ 16 + flagBit s.fullRemote 32 + flagBit s.emptyRemote 33

/-- The value of tile register `idx`; reserved indices read 0 (R124, R125, R210). -/
def Tile.readReg (num : Nat) (t : Tile) (idx : Nat) : Nat :=
  if idx = 0x00 then num % 2 ^ 14
  else if idx = 0x01 then t.asw.toNat % 32
  else if idx = 0x02 then flagBit t.retired 0 + flagBit t.repairPending 1
  else if idx = 0x03 then t.corrected + t.uncorrected * 2 ^ 32 + t.scrubLate * 2 ^ 48
  else if idx = 0x04 then t.factor + t.rho * 2 ^ 16
  else if idx = 0x05 then t.chkRetries + t.tolMisses * 2 ^ 16 + t.skipped * 2 ^ 32
  else if 0x06 ≤ idx ∧ idx ≤ 0x09 then
    let q := 4 * (idx - 6)
    Tbl.get t.hist 0 q + Tbl.get t.hist 0 (q + 1) * 2 ^ 16 + Tbl.get t.hist 0 (q + 2) * 2 ^ 32 +
      Tbl.get t.hist 0 (q + 3) * 2 ^ 48
  else if 0x10 ≤ idx ∧ idx ≤ 0x18 then Tbl.get t.idle 0 (idx - 0x10)
  else if 0x20 ≤ idx ∧ idx ≤ 0x3F then (t.sem (idx - 0x20)).word
  else if 0x80 ≤ idx ∧ idx ≤ 0x9F then t.regNat (idx - 0x80)
  else if 0xA0 ≤ idx ∧ idx ≤ 0xA3 then
    let l := t.loopCtr (idx - 0xA0)
    l.count + l.start * 2 ^ 32 + l.stop * 2 ^ 43 + flagBit l.active 63
  else if idx = 0xA8 then t.pc % 2 ^ 11 + t.state.code * 2 ^ 14 + flagBit t.held.isSome 16
  else if idx = 0xA9 then t.progLen + t.progEntry * 2 ^ 12 + flagBit t.progValid 23
  else if idx = 0xAA then t.stepNo
  else if idx = 0xAB then
    t.fault.status + flagBit t.fault.more 16 + t.fault.pc * 2 ^ 17 + t.fault.detail * 2 ^ 28
  else if idx = 0xAC then t.branches + t.misses * 2 ^ 32
  else if idx = 0xAD then t.lockRetries + flagBit t.solo 16
  else 0

/-- Clear the flags whose bits are 1 (R127). -/
def Tile.clearAsw (t : Tile) (w : Nat) : Tile := { t with asw := t.asw &&& ~~~(BitVec.ofNat 16 (w % 32)) }

/-- A write by the tile program: only CMP_ASW is writable to it (R188). -/
def Tile.writeReg (t : Tile) (idx w : Nat) : Tile := if idx = 1 then t.clearAsw w else t

/-- A host write through CMP_TILE_DATA (R124): CMP_ASW and SEQ_FAULT are W1C, CMP_SEM_p is RWL. -/
def Tile.hostWriteReg (t : Tile) (enabled : Bool) (idx w : Nat) : Tile :=
  if idx = 1 then t.clearAsw w
  else if 0x20 ≤ idx ∧ idx ≤ 0x3F ∧ enabled = false then
    let f := w % 2 ^ 16
    let e := w / 2 ^ 16 % 2 ^ 16
    let s := t.sem (idx - 0x20)
    { t with sems := Tbl.put t.sems (idx - 0x20) ⟨f, e, s.fullRemote, s.emptyRemote, f, e⟩ }
  else if idx = 0xAB ∧ w % 2 ^ 17 ≠ 0 then { t with fault := ⟨0, false, 0, 0⟩ }
  else t

def Tile.issueRdreg (num : Nat) (t : Tile) (f : RdregF) : TileRes :=
  (t.setReg f.gd (BitVec.ofNat 64 (t.readReg num f.index))).advance num

def Tile.issueWrreg (num : Nat) (t : Tile) (f : WrregF) : TileRes :=
  (t.writeReg f.index (t.regNat f.ga)).advance num

/-! ### Semaphores (R117 to R119) -/

def Sem.ctr (s : Sem) (ctr : Nat) : Nat := if ctr = 0 then s.full else s.empty

def Sem.add (s : Sem) (ctr count : Nat) (remote : Bool) : Sem :=
  if ctr = 0 then { s with full := s.full + count, fullRemote := remote }
  else { s with empty := s.empty + count, emptyRemote := remote }

def Sem.sub (s : Sem) (ctr count : Nat) : Sem :=
  if ctr = 0 then { s with full := s.full - count } else { s with empty := s.empty - count }

/-- A signal of `count` to a counter of the tile; above 65,535 it is not applied and is a program fault of the tile (R33, R117,
R118, R119). -/
def Tile.signal (num : Nat) (t : Tile) (pair ctr count : Nat) (by_ : Raiser) (pc : Nat) : TileRes :=
  if count = 0 then .ok t
  else
    let s := t.sem pair
    if s.ctr ctr + count > 65535 then t.raise num St.semOverflow pc 0
    else .ok { t with
      sems := Tbl.put t.sems pair (s.add ctr count by_.remote)
      raised := Tbl.put t.raised (pair * 2 + ctr) by_ }

/-- WAIT (R193): subtract at once, or wait. -/
def Tile.issueWait (num : Nat) (t : Tile) (f : WaitF) : TileRes :=
  if f.count = 0 then t.advance num
  else
    let s := t.sem f.pair
    if s.ctr f.ctr ≥ f.count then ({ t with sems := Tbl.put t.sems f.pair (s.sub f.ctr f.count) }).advance num
    else (t.advance num).bind fun t' => .ok { t' with stall := .wait f.pair f.ctr f.count }

/-- The waited counter holds the count: it is subtracted and issue resumes (R117). -/
def Tile.waitSatisfied (t : Tile) : Tile :=
  match t.stall with
  | .wait p c n =>
    let s := t.sem p
    if s.ctr c ≥ n then { t with sems := Tbl.put t.sems p (s.sub c n), stall := .none } else t
  | _ => t

/-! ### FENCE, STWAIT, END -/

def Tile.issueFence (num : Nat) (t : Tile) : TileRes :=
  if t.inflight = [] then t.advance num
  else (t.advance num).bind fun t' => .ok { t' with stall := .fence }

def Tile.fenceSatisfied (t : Tile) : Tile :=
  if t.stall = .fence ∧ t.inflight = [] then { t with stall := .none } else t

def Tile.outstanding (t : Tile) (engine channel : Nat) : Nat := Tbl.get t.streams 0 (engine * 8 + channel)

def Tile.issueStwait (num : Nat) (t : Tile) (f : StwaitF) : TileRes :=
  if t.outstanding f.engine f.channel = 0 then t.advance num
  else (t.advance num).bind fun t' => .ok { t' with stall := .stwait f.engine f.channel }

def Tile.stwaitSatisfied (t : Tile) : Tile :=
  match t.stall with
  | .stwait e c => if t.outstanding e c = 0 then { t with stall := .none } else t
  | _ => t

/-- END stops issue (R183), and PC keeps naming it. DESIGN CHOICE: log entry 63. -/
def Tile.issueEnd (t : Tile) : Tile := { t with stall := .ending, lockPending := false }

/-- All work started before END has completed (R183). -/
def Tile.quiet (t : Tile) : Bool :=
  t.inflight.isEmpty && t.port.isEmpty && t.selfSigs.isEmpty && t.streams.all fun x => x.2 == 0

/-! ### Release (R179, R181, R182, R184) -/

/-- The sequencer's start state for step `s` (R181). -/
def Tile.start (num : Nat) (t : Tile) (s : Nat) : Tile :=
  { t with
    state := .running
    stepNo := s
    g := [(1, BitVec.ofNat 64 s), (2, BitVec.ofNat 64 num)]
    loops := []
    pc := t.progEntry
    stall := .none
    lockPending := false
    held := none }

/-- A release reaches the tile; one that is neither parked nor running holds it (R182, R184, R213). DESIGN CHOICE: log entry 63.
-/
def Tile.release (num : Nat) (t : Tile) (s : Nat) : TileRes :=
  match t.state with
  | .parked => .ok (if t.progValid then t.start num s else t)
  | .running => ⟨{ t with held := some s }, [tileEv num St.releaseLate 0]⟩
  | _ => .ok { t with held := some s }

/-- END completes: the tile reports itself done, parks, and takes up a held release (R183, R184). -/
def Tile.endDone (num : Nat) (t : Tile) : TileRes :=
  if t.state = .running ∧ t.stall = .ending ∧ t.quiet = true then
    let t' := { t with state := .parked, stall := .none }
    match t.held with
    | some s => ({ t' with held := none }).release num s
    | none => .ok t'
  else .ok t

/-! ### Issue to the engines (R174, R186, R204) -/

/-- The ranges an instruction reads before it can be judged: its parameter block or descriptor, and the headers of an attention
pass (R186, R204). -/
def Tile.preReads (t : Tile) (i : TInsn) : List (Nat × Nat) :=
  match i with
  | .mma f =>
    (match t.tileRef f.param 64 with
     | .ok a => [(a, 64)]
     | .error _ => [])
  | .att f =>
    (match t.tileRef f.param 64 with
     | .ok a =>
       let p := AttParam.parse (t.mem.read a 64)
       [(a, 64), (p.q, 64), (p.kv + t.regNat f.kvreg, 64)] ++ (if f.bwd then [(p.doAddr, 64)] else [])
     | .error _ => [])
  | .stream f =>
    (match t.tileRef f.ref 64 with
     | .ok a => [(a, 64)]
     | .error _ => [])
  | .hcsend f =>
    (match t.tileRef f.ref (16 * (f.len + 1)) with
     | .ok a => [(a, 16 * (f.len + 1))]
     | .error _ => [])
  | _ => []

/-- The table slots after an operand that names some tables: a table that no slot holds is built in the least recently used one,
and a table by id is read for it from stacked memory (R242, R244). -/
def Tile.useTables (ns : Nat) (t : Tile) : List TableUse → TileRes
  | [] => .ok t
  | u :: r =>
    let k := (u.id, u.gen)
    if t.slots.contains k then Tile.useTables ns { t with slots := k :: t.slots.filter (· != k) } r
    else
      (⟨{ t with slots := (k :: t.slots).take 4, building := t.building ++ [(u.src, ns)] },
        if u.src = 0 then [] else [.stackRead u.src 576]⟩ : TileRes).bind fun t' => Tile.useTables ns t' r

/-- Issue an instruction that an engine carries out: refused, held by a hazard, done at once, or in progress. What it reads
before it is judged meets the check codes first (R113), whatever the judgement. -/
def Tile.issueWork (num ns : Nat) (t : Tile) (pre : List (Nat × Nat)) (judge : Tile → Judged) : TileRes :=
  if t.hazard (maskOf pre) 0 then .ok { t with stall := .hazard }
  else
    (t.touchAll num pre).bind fun t =>
      match judge t with
      | .error e => t.refuse num e
      | .ok p =>
        if p.rd = 0 ∧ p.wr = 0 then t.advance num
        else if t.hazard p.rd p.wr then .ok { t with stall := .hazard }
        else
          (t.touchAll num p.touch).bind fun t1 =>
            let o := p.run t1
            let f : Inflight := ⟨t1.nextId, t1.pc, o.work, p.rd, p.wr, o.writes, o.folds, o.flags⟩
            let t2 := { t1 with inflight := t1.inflight ++ [f], nextId := t1.nextId + 1 }
            (⟨t2, o.effs⟩ : TileRes).bind fun t3 => (t3.useTables ns o.tables).bind fun t4 => t4.advance num

/-! ### Completion (R80, R97, R174) -/

def Tile.idsBusy (t : Tile) (after : List Nat) : Bool := after.any fun i => t.inflight.any fun f => f.id == i

/-- Apply the signals to the tile's own semaphores that no earlier writer holds back any more (R192). -/
def Tile.freeSelfSigs (num : Nat) (t : Tile) : List SelfSig → TileRes
  | [] => .ok t
  | s :: r =>
    if t.idsBusy s.after then
      (Tile.freeSelfSigs num t r).bind fun t' => .ok { t' with selfSigs := s :: t'.selfSigs }
    else (t.signal num s.pair s.ctr s.count (.tile num) s.pc).bind fun t' => Tile.freeSelfSigs num t' r

/-- Take an instruction out of progress: its writes land, its flags reach the word, its folds leave, and
held signals follow. -/
def Tile.complete (num : Nat) (t : Tile) (f : Inflight) (writes : List Write) (folds : List CalFold) (fl : Flags) :
    TileRes :=
  let t1 := { t with inflight := t.inflight.filter fun g => g.id != f.id }
  (t1.applyWrites num writes).bind fun t2 =>
    let t3 := { t2 with asw := t2.asw ||| fl, selfSigs := [] }
    (⟨t3, folds.map Eff.fold⟩ : TileRes).bind fun t4 => t4.freeSelfSigs num t.selfSigs

/-- The engines that finish their own instructions in order. -/
inductive Engine where
  | vector
  | matrix
  | attention
  /-- the result tree's channel -/
  | tree (channel : Nat)
  deriving DecidableEq, Repr

def Work.engine : Work → Engine
  | .vec => .vector
  | .mma _ => .matrix
  | .att _ => .attention
  | .tree c => .tree c

/-- The first instruction in progress of an engine. -/
def Tile.firstOf (t : Tile) (e : Engine) : Option Inflight := t.inflight.find? fun f => f.work.engine == e

/-- An attention pass is complete: every product has been accepted, and its results are written (R98). -/
def Tile.completePass (num : Nat) (t : Tile) (f : Inflight) (r : AttRun) : TileRes :=
  if r.todo ≠ [] then .ok t
  else
    let x := r.finish t.mem t.retired
    t.complete num f x.1 x.2.1 (f.flags ||| x.2.2)

/-- A vector instruction or an attention pass writes its last result (INSTRUCTION_COMPLETE). `att` picks the engine. -/
def Tile.completeWork (num : Nat) (t : Tile) (att : Bool) : TileRes :=
  match t.firstOf (if att then .attention else .vector) with
  | some f =>
    (match f.work with
     | .att r => t.completePass num f r
     | _ => t.complete num f f.writes f.folds f.flags)
  | none => .ok t

/-! ### Matrix verification (R98 to R103) -/

def Tile.putInflight (t : Tile) (f : Inflight) : Tile :=
  { t with inflight := t.inflight.map fun g => if g.id = f.id then f else g }

/-- Retire the tile (R100, R102): RETIRED sets and its outputs carry poison from here on. -/
def Tile.retire (num status : Nat) (t : Tile) : TileRes :=
  ⟨{ t with retired := true }, [tileEv num status 0, .retire num]⟩

def Tile.noteVerdict (t : Tile) (v : Verdict) : Tile :=
  { t with rho := max t.rho v.rho, skipped := satAdd 16 t.skipped v.skipped }

/-- The segment or product that is to be verified next, if there is one (R98). -/
def Work.segment : Work → Option Seg
  | .mma r => if r.seg < r.segs then some (r.segment r.seg) else none
  | .att r => r.todo.head?
  | _ => none

/-- The digest of its failed first attempt (R100). -/
def Work.failed : Work → Option Nat
  | .mma r => r.failed
  | .att r => r.failed
  | _ => none

/-- The first attempt failed with a digest: it runs again. -/
def Work.retrying (w : Work) (digest : Nat) : Work :=
  match w with
  | .mma r => .mma { r with failed := some digest }
  | .att r => .att { r with failed := some digest }
  | w => w

/-- A segment's sums reach the wide partial, under poison on a retired tile (R95, R102). -/
def Tile.spillSeg (num : Nat) (t : Tile) (f : Inflight) (r : MmaRun) (sums : List (Nat × Flags)) (poison : Bool) : TileRes :=
  (if r.readsWide then t.touchAll num r.wideRows else .ok t).bind fun t1 =>
    let sp := r.spill t1.mem (sums.map (·.1)) poison
    (t1.applyWrites num sp.1).bind fun t2 =>
      .ok (t2.putInflight { f with work := .mma { r with seg := r.seg + 1, failed := none, tainted := r.tainted || poison }
                                   flags := f.flags ||| orFlags (sums.map (·.2)) ||| sp.2 })

/-- The sums of a segment or product are accepted; on a retired tile under poison (R102). -/
def Tile.accept (num : Nat) (t : Tile) (f : Inflight) (sums : List (Nat × Flags)) (poison : Bool) : TileRes :=
  let bad := poison || t.retired
  match f.work with
  | .mma r => t.spillSeg num f r sums bad
  | .att r => .ok (t.putInflight { f with work := .att (r.accept sums bad) })
  | _ => .ok t

/-- The end of a segment, or of a product of the attention pipeline (SEGMENT_VERIFY, R98, R99): pass and go on, or run again.
`corrupt` is what a fault did to the running sums. -/
def Tile.segVerify (num seed : Nat) (t : Tile) (corrupt : List (Nat × Nat)) : TileRes :=
  match t.inflight.find? fun f => f.work.segment.isSome with
  | none => .ok t
  | some f =>
    match f.work.segment, f.work.failed with
    | some g, none =>
      let s := g.sums seed t.stepNo corrupt
      let words := s.map Prod.fst
      let v := g.verdict t.factor words
      let t1 := t.noteVerdict v
      if v.pass then t1.accept num f s false
      else .ok (({ t1 with chkRetries := satAdd 16 t1.chkRetries 1 }).putInflight
        { f with work := f.work.retrying (g.digest words) })
    | _, _ => .ok t

/-- The rerun of a failed segment or product is judged under Table 03.4 (SEGMENT_RETRY_DONE, R100). -/
def Tile.segRetry (num seed : Nat) (t : Tile) (corrupt : List (Nat × Nat)) : TileRes :=
  match t.inflight.find? fun f => f.work.segment.isSome with
  | none => .ok t
  | some f =>
    match f.work.segment, f.work.failed with
    | some g, some d =>
      let s := g.sums seed t.stepNo corrupt
      let words := s.map Prod.fst
      let v := g.verdict t.factor words
      let t1 := t.noteVerdict v
      if v.pass then (⟨t1, [tileEv num St.checksumRetry 0]⟩ : TileRes).bind fun t2 => t2.accept num f s false
      else if d = g.digest words ∧ v.worst then
        (⟨{ t1 with factor := 256, tolMisses := satAdd 16 t1.tolMisses 1 }, [tileEv num St.checksumTol 0]⟩ : TileRes).bind
          fun t2 => t2.accept num f s false
      else (t1.retire num St.tileRetired).bind fun t2 => t2.accept num f s true
    | _, _ => .ok t

/-- An attention pass runs to its end without a fault: each product is verified, and run again where it must be. -/
def Tile.settlePass (num seed : Nat) : Nat → Tile → TileRes
  | 0, t => t.completeWork num true
  | n + 1, t =>
    match (t.firstOf .attention).bind fun f => f.work.segment with
    | none => t.completeWork num true
    | some _ =>
      ((t.segVerify num seed []).bind fun t1 => t1.segRetry num seed []).bind fun t2 => Tile.settlePass num seed n t2

/-- The last spill is done: convert, write the accumulator file and side row, complete (R97). -/
def Tile.mmaComplete (num : Nat) (t : Tile) : TileRes :=
  match t.firstOf .matrix with
  | some f =>
    (match f.work with
     | .mma r =>
       if r.seg < r.segs then .ok t
       else
         (if r.n = 0 ∨ r.more then .ok t else t.touchAll num r.wideRows).bind fun t1 =>
           let x := ({ r with tainted := r.tainted || t1.retired }).final t1.mem
           t1.complete num f x.1 x.2.1 (f.flags ||| x.2.2)
     | _ => .ok t)
  | none => .ok t

/-- At a commit the history takes RHO_STEP and F follows it (R103); at an abort only F does. -/
def factorOf (hist : List (Nat × Nat)) : Nat :=
  match hist with
  | [] => 256
  | _ =>
    let top := hist.foldl (fun a x => max a x.2) 0
    -- 4·top/256, to the next power of two from 16 to 256
    if 4 * top ≤ 16 * 256 then 16
    else if 4 * top ≤ 32 * 256 then 32
    else if 4 * top ≤ 64 * 256 then 64
    else if 4 * top ≤ 128 * 256 then 128
    else 256

def Tile.commitStep (t : Tile) (s : Nat) : Tile :=
  let h := Tbl.put t.hist (s % 16) t.rho
  { t with hist := h, rho := 0, factor := factorOf h }

/-- An aborted step: F from the unchanged history. -/
def Tile.abortStep (t : Tile) : Tile := { t with factor := factorOf t.hist }

/-- A step begins: RHO_STEP holds the ratios of the current step alone (R103). DEDUCED: log entry 37. -/
def Tile.openStep (t : Tile) : Tile := { t with rho := 0 }

/-! ### Lockstep (R175) -/

def Tile.lockMismatch (num : Nat) (t : Tile) : TileRes :=
  if t.free = false ∨ t.solo = true then .ok t
  else if t.lockPending then
    ((({ t with solo := true, lockPending := false }).retire num St.lockstepFail))
  else ⟨{ t with lockPending := true, lockRetries := satAdd 16 t.lockRetries 1 }, [tileEv num St.lockstepRetry t.pc]⟩

/-! ### Scrub, liveness, idle time -/

/-- Has the scrub pass overrun its 10 ms? It began when the one before it ended, or at the reset of the tiles (R115). DEDUCED: log
entry 61. DEDUCED: log entry 61. -/
def Tile.scrubOverrun (from_ now : Nat) (t : Tile) : Bool := decide (t.scrubPos < 32768 ∧ max t.scrubAt from_ + 10000000 ≤ now)

/-- A pass that overruns is counted once, and goes on (R115). -/
def Tile.countOverrun (from_ now : Nat) (t : Tile) : Tile :=
  if t.scrubOver ∨ t.scrubOverrun from_ now = false then t
  else { t with scrubOver := true, scrubLate := satAdd 8 t.scrubLate 1 }

/-- The scrub reads its next 16 B word, if its pass has one left (R115). -/
def Tile.scrubNext (num from_ now : Nat) (t : Tile) : TileRes :=
  if t.scrubPos ≥ 32768 then .ok t
  else
    ((t.countOverrun from_ now).touch num (16 * t.scrubPos) 16).bind fun t' => .ok { t' with scrubPos := t.scrubPos + 1 }

/-- The 10 ms of a pass are over: a pass that has read every word gives way to the next, and one that is late goes on and is
counted (R115). Before that, and where the pass is not as the event says, nothing happens. DEDUCED: log entry 61. -/
def Tile.scrubEnd (late : Bool) (from_ now : Nat) (t : Tile) : Tile :=
  if late then t.countOverrun from_ now
  else if t.scrubPos < 32768 ∨ now < max t.scrubAt from_ + 10000000 then t
  else { t with scrubPos := 0, scrubAt := now, scrubOver := false }

/-- One nanosecond of idle time on a cause (R33). -/
def Tile.charge (t : Tile) (cause : Nat) : Tile :=
  { t with idle := Tbl.put t.idle cause ((Tbl.get t.idle 0 cause + 1) % 2 ^ 64) }

end Sys2Proof.Machine
end

