-- ==== Sys2Proof/Machine/Regs.lean ====
section
/-! DEFINITION. The BAR0 register file (R8, R10, R326): one description per field, in the words of the
field tables, and the operations that read, write and reset fields from these descriptions. Registers whose
value is a window onto other state (tile registers, channel status, route entries, time) are in Bar0.lean. -/

namespace Sys2Proof.Machine

/-- The kinds of reset and low-power state (Table 00.5). -/
inductive Kind where
  | P
  | F
  | H
  | L
  | W
  | B
  | S
  | PK
  | DP
  | D3
  deriving DecidableEq, Repr

/-- The kind's bit in a field's set of kinds. -/
def Kind.bit : Kind → Nat
  | .P => 0
  | .F => 1
  | .H => 2
  | .L => 3
  | .W => 4
  | .B => 5
  | .S => 6
  | .PK => 7
  | .DP => 8
  | .D3 => 9

/-- Access codes (Table 00.4). -/
inductive Access where
  | ro
  | rw
  | w1c
  | rwl
  | ri
  deriving DecidableEq, Repr

/-- A register field: BAR0 offset of its register, the stride and count of an indexed register, the bits,
the access code, the value it takes at reset (for an RI field, the default of R505), whether it reloads from
flash, and the kinds that restore it. -/
structure Field where
  offset : Nat
  stride : Nat
  count : Nat
  lo : Nat
  width : Nat
  access : Access
  reset : Nat
  image : Bool
  kinds : Nat
  deriving DecidableEq, Repr

/-- The field's highest bit. -/
def Field.hi (f : Field) : Nat := f.lo + f.width - 1

/-- The register file: 8 B registers by BAR0 offset, listing only those that are not zero. -/
abbrev RegFile := List (Nat × Nat)

def RegFile.word (r : RegFile) (off : Nat) : Nat := Tbl.get r 0 off

def RegFile.setWord (r : RegFile) (off v : Nat) : RegFile :=
  if v = 0 then Tbl.del r off else Tbl.put r off v

/-- A field of register `i` of its array. -/
def RegFile.getAt (r : RegFile) (f : Field) (i : Nat) : Nat :=
  bitsOf (r.word (f.offset + f.stride * i)) f.hi f.lo

def RegFile.get (r : RegFile) (f : Field) : Nat := r.getAt f 0

def RegFile.flag (r : RegFile) (f : Field) : Bool := r.get f == 1

/-- Set a field; the value is cut to the field's width. -/
def RegFile.setAt (r : RegFile) (f : Field) (i v : Nat) : RegFile :=
  r.setWord (f.offset + f.stride * i) (setBits (r.word (f.offset + f.stride * i)) f.hi f.lo v)

def RegFile.set (r : RegFile) (f : Field) (v : Nat) : RegFile := r.setAt f 0 v

def RegFile.setFlag (r : RegFile) (f : Field) (b : Bool) : RegFile := r.set f (if b then 1 else 0)

/-- Add to a count that saturates at its width. -/
def RegFile.addAt (r : RegFile) (f : Field) (i n : Nat) : RegFile :=
  r.setAt f i (min (r.getAt f i + n) (2 ^ f.width - 1))

def RegFile.add (r : RegFile) (f : Field) (n : Nat) : RegFile := r.addAt f 0 n

/-- Does the field lie in the register at this offset? -/
def Field.covers (f : Field) (off : Nat) : Bool :=
  if f.stride = 0 then off == f.offset
  else f.offset ≤ off && off < f.offset + f.stride * f.count && (off - f.offset) % f.stride == 0

/-- What a write of `v` under a bit mask makes of one field of a register's word (R8). -/
def Field.write (f : Field) (locked : Bool) (mask v w : Nat) : Nat :=
  let old := bitsOf w f.hi f.lo
  let m := bitsOf mask f.hi f.lo
  let new := bitsOf v f.hi f.lo
  let merged := (old &&& ((2 ^ f.width - 1) ^^^ m)) ||| (new &&& m)
  match f.access with
  | .ro => w
  | .ri => w
  | .rw => setBits w f.hi f.lo merged
  | .rwl => if locked then w else setBits w f.hi f.lo merged
  | .w1c => if new &&& m = 0 then w else setBits w f.hi f.lo f.reset

/-- Does kind `k` restore the field? -/
def Field.resetBy (f : Field) (k : Kind) : Bool := f.kinds / 2 ^ k.bit % 2 == 1

namespace Reg

/-! FAB_SELF_RANK (R36). -/
def FAB_SELF_RANK_RANK : Field := ⟨0x100000, 0, 1, 0, 20, .rwl, 0x0, false, 0xF⟩
def FAB_SELF_RANK_NEXT : Field := ⟨0x100000, 0, 1, 32, 20, .rw, 0x0, false, 0x1F⟩
def FAB_SELF_RANK_NEXT_VALID : Field := ⟨0x100000, 0, 1, 52, 1, .rw, 0x0, false, 0x1F⟩
/-! FAB_PACE_TARGET (R37). -/
def FAB_PACE_TARGET_TARGET : Field := ⟨0x100008, 0, 1, 0, 11, .ri, 0x4B0, true, 0x3⟩
/-! FAB_PACE_SHORT (R38). -/
def FAB_PACE_SHORT_SHORT : Field := ⟨0x100100, 8, 4, 0, 64, .ro, 0x0, false, 0x3F⟩
/-! FAB_PACE_STATUS (R39). -/
def FAB_PACE_STATUS_MIN_PACE : Field := ⟨0x100200, 8, 4, 0, 11, .ro, 0x0, false, 0x3F⟩
def FAB_PACE_STATUS_MIN_REGION : Field := ⟨0x100200, 8, 4, 11, 6, .ro, 0x0, false, 0x3F⟩
def FAB_PACE_STATUS_MAX_RAIL : Field := ⟨0x100200, 8, 4, 32, 16, .ro, 0x0, false, 0x3F⟩
def FAB_PACE_STATUS_SHORT_EVENTS : Field := ⟨0x100200, 8, 4, 48, 16, .w1c, 0x0, false, 0x1F⟩
/-! CMP_CAL_BASE (R86). -/
def CMP_CAL_BASE_BASE : Field := ⟨0x400800, 0, 1, 7, 33, .rwl, 0x0, false, 0xF⟩
/-! CMP_CAL_CTL (R87). -/
def CMP_CAL_CTL_MARGIN : Field := ⟨0x400808, 0, 1, 0, 2, .ri, 0x0, true, 0x3⟩
/-! CMP_TILE_SEL (R124). -/
def CMP_TILE_SEL_TILE : Field := ⟨0x400900, 0, 1, 0, 14, .rw, 0x0, false, 0x1F⟩
def CMP_TILE_SEL_INDEX : Field := ⟨0x400900, 0, 1, 16, 8, .rw, 0x0, false, 0x1F⟩
/-! CMP_KV_BASE (R168). -/
def CMP_KV_BASE_BASE : Field := ⟨0x400A00, 0, 1, 16, 24, .rwl, 0x0, false, 0xF⟩
/-! CMP_KV_SIZE (R169). -/
def CMP_KV_SIZE_UNITS : Field := ⟨0x400A08, 0, 1, 0, 24, .rwl, 0x0, false, 0xF⟩
/-! CMP_RING_CFG (R171). -/
def CMP_RING_CFG_SIZE : Field := ⟨0x400B00, 8, 16, 0, 7, .rwl, 0x0, false, 0xF⟩
def CMP_RING_CFG_POSITION : Field := ⟨0x400B00, 8, 16, 7, 6, .rwl, 0x0, false, 0xF⟩
def CMP_RING_CFG_VALID : Field := ⟨0x400B00, 8, 16, 13, 1, .rwl, 0x0, false, 0xF⟩
def CMP_RING_CFG_SUCC : Field := ⟨0x400B00, 8, 16, 16, 20, .rwl, 0x0, false, 0xF⟩
def CMP_RING_CFG_PRED : Field := ⟨0x400B00, 8, 16, 36, 20, .rwl, 0x0, false, 0xF⟩
/-! CMP_RING_TRAIN (R172). -/
def CMP_RING_TRAIN_TRAIN : Field := ⟨0x400B80, 8, 16, 0, 16, .rwl, 0x0, false, 0xF⟩
def CMP_RING_TRAIN_BAY_KIB : Field := ⟨0x400B80, 8, 16, 16, 16, .rwl, 0x0, false, 0xF⟩
/-! CMP_CTAB_BASE (R250). -/
def CMP_CTAB_BASE_BASE : Field := ⟨0x400C00, 0, 1, 12, 28, .rwl, 0x0, false, 0xF⟩
/-! CMP_CTAB_CTL (R251). -/
def CMP_CTAB_CTL_THRESH : Field := ⟨0x400C08, 0, 1, 0, 6, .ri, 0x4, true, 0x3⟩
/-! CMP_CTAB_STATUS (R252). -/
def CMP_CTAB_STATUS_REBUILDS : Field := ⟨0x400C10, 0, 1, 0, 32, .ro, 0x0, false, 0x1F⟩
def CMP_CTAB_STATUS_DECODE_ERRORS : Field := ⟨0x400C10, 0, 1, 32, 16, .ro, 0x0, false, 0x1F⟩
def CMP_CTAB_STATUS_CONFLICTS : Field := ⟨0x400C10, 0, 1, 48, 16, .ro, 0x0, false, 0x1F⟩
/-! MEM_SLOT_CAP (R282). -/
def MEM_SLOT_CAP_SLOTS : Field := ⟨0x200000, 0, 1, 0, 7, .ro, 0x40, false, 0x3F⟩
def MEM_SLOT_CAP_BANK : Field := ⟨0x200000, 0, 1, 7, 5, .ro, 0xC, false, 0x3F⟩
/-! MEM_OBJ_BASE (R283). -/
def MEM_OBJ_BASE_BASE : Field := ⟨0x200010, 0, 1, 12, 28, .rwl, 0x0, false, 0xF⟩
/-! MEM_OBJ_COUNT (R283). -/
def MEM_OBJ_COUNT_COUNT : Field := ⟨0x200018, 0, 1, 0, 21, .rwl, 0x0, false, 0xF⟩
/-! MEM_RETIRE_CTL (R285). -/
def MEM_RETIRE_CTL_ENABLE : Field := ⟨0x200030, 0, 1, 0, 1, .rwl, 0x0, false, 0xF⟩
/-! MEM_RETIRE_STATUS (R285). -/
def MEM_RETIRE_STATUS_USED : Field := ⟨0x200038, 0, 1, 0, 1, .ro, 0x0, true, 0x3⟩
def MEM_RETIRE_STATUS_STACK : Field := ⟨0x200038, 0, 1, 1, 4, .ro, 0x0, true, 0x3⟩
def MEM_RETIRE_STATUS_CHANNEL : Field := ⟨0x200038, 0, 1, 5, 7, .ro, 0x0, true, 0x3⟩
def MEM_RETIRE_STATUS_AREA : Field := ⟨0x200038, 0, 1, 12, 1, .ro, 0x0, true, 0x3⟩
/-! MEM_STACK_STATUS (R286). -/
def MEM_STACK_STATUS_TEMP : Field := ⟨0x200100, 8, 12, 0, 8, .ro, 0x0, false, 0x1F⟩
def MEM_STACK_STATUS_REFRESH : Field := ⟨0x200100, 8, 12, 8, 2, .ro, 0x0, false, 0x1F⟩
def MEM_STACK_STATUS_THROTTLE : Field := ⟨0x200100, 8, 12, 10, 1, .ro, 0x0, false, 0x1F⟩
def MEM_STACK_STATUS_THROTTLE_EVENTS : Field := ⟨0x200100, 8, 12, 16, 16, .w1c, 0x0, false, 0x1F⟩
def MEM_STACK_STATUS_MAX_TEMP : Field := ⟨0x200100, 8, 12, 32, 8, .w1c, 0x0, false, 0x1F⟩
/-! MEM_CH_SEL (R287). -/
def MEM_CH_SEL_STACK : Field := ⟨0x200200, 0, 1, 0, 4, .rw, 0x0, false, 0x1F⟩
def MEM_CH_SEL_CHANNEL : Field := ⟨0x200200, 0, 1, 4, 7, .rw, 0x0, false, 0x1F⟩
/-! MEM_SCRUB_CTL (R288). -/
def MEM_SCRUB_CTL_INTERVAL : Field := ⟨0x200300, 0, 1, 0, 14, .ri, 0x2710, true, 0x3⟩
/-! MEM_SCRUB_STATUS (R288). -/
def MEM_SCRUB_STATUS_POSITION : Field := ⟨0x200308, 0, 1, 0, 21, .ro, 0x0, false, 0x1F⟩
def MEM_SCRUB_STATUS_PASSES : Field := ⟨0x200308, 0, 1, 32, 32, .ro, 0x0, false, 0x1F⟩
/-! MEM_TG_SEL (R289). -/
def MEM_TG_SEL_STACK : Field := ⟨0x200400, 0, 1, 0, 4, .rw, 0x0, false, 0x1F⟩
def MEM_TG_SEL_CHANNEL : Field := ⟨0x200400, 0, 1, 4, 7, .rw, 0x0, false, 0x1F⟩
def MEM_TG_SEL_BROADCAST : Field := ⟨0x200400, 0, 1, 11, 1, .rw, 0x0, false, 0x1F⟩
/-! STR_CH_SEL (R320). -/
def STR_CH_SEL_UNIT : Field := ⟨0x300000, 0, 1, 0, 3, .rw, 0x0, false, 0x1F⟩
def STR_CH_SEL_ENGINE : Field := ⟨0x300000, 0, 1, 3, 7, .rw, 0x0, false, 0x1F⟩
def STR_CH_SEL_CHANNEL : Field := ⟨0x300000, 0, 1, 10, 4, .rw, 0x0, false, 0x1F⟩
/-! STR_HC_STATUS (R323). -/
def STR_HC_STATUS_SENT : Field := ⟨0x300018, 0, 1, 0, 32, .ro, 0x0, false, 0x3F⟩
def STR_HC_STATUS_MBOX_WAITS : Field := ⟨0x300018, 0, 1, 32, 16, .ro, 0x0, false, 0x3F⟩
/-! HIF_DEV_CTL (R355). -/
def HIF_DEV_CTL_ENABLE : Field := ⟨0x0, 0, 1, 0, 1, .rw, 0x0, false, 0x5F⟩
def HIF_DEV_CTL_WARM : Field := ⟨0x0, 0, 1, 1, 1, .rw, 0x0, false, 0x1F⟩
def HIF_DEV_CTL_PARK : Field := ⟨0x0, 0, 1, 2, 2, .rw, 0x0, false, 0x1F⟩
/-! HIF_DEV_STATUS (R355). -/
def HIF_DEV_STATUS_STATE : Field := ⟨0x8, 0, 1, 0, 2, .ro, 0x0, false, 0x5F⟩
def HIF_DEV_STATUS_PARKED : Field := ⟨0x8, 0, 1, 2, 1, .ro, 0x0, false, 0x1F⟩
def HIF_DEV_STATUS_DEEP : Field := ⟨0x8, 0, 1, 3, 1, .ro, 0x0, false, 0x1F⟩
def HIF_DEV_STATUS_RATE : Field := ⟨0x8, 0, 1, 4, 2, .ro, 0x0, false, 0x7⟩
def HIF_DEV_STATUS_WIDTH : Field := ⟨0x8, 0, 1, 6, 5, .ro, 0x0, false, 0x7⟩
def HIF_DEV_STATUS_FLIT : Field := ⟨0x8, 0, 1, 11, 1, .ro, 0x0, false, 0x7⟩
/-! HIF_CFG_STATUS (R355). -/
def HIF_CFG_STATUS_REASON : Field := ⟨0x10, 0, 1, 0, 16, .ro, 0x0, false, 0x1F⟩
def HIF_CFG_STATUS_OFFSET : Field := ⟨0x10, 0, 1, 16, 26, .ro, 0x0, false, 0x1F⟩
def HIF_CFG_STATUS_INDEX : Field := ⟨0x10, 0, 1, 42, 20, .ro, 0x0, false, 0x1F⟩
/-! HIF_DB_BASE (R356). -/
def HIF_DB_BASE_BASE : Field := ⟨0x20, 0, 1, 12, 52, .rwl, 0x0, false, 0xF⟩
/-! HIF_POLL_STATUS (R356). -/
def HIF_POLL_STATUS_LEVEL : Field := ⟨0x28, 0, 1, 0, 4, .ro, 0x0, false, 0x1F⟩
def HIF_POLL_STATUS_POLLS : Field := ⟨0x28, 0, 1, 32, 32, .ro, 0x0, false, 0x1F⟩
/-! HIF_EQ_BASE (R356). -/
def HIF_EQ_BASE_BASE : Field := ⟨0x30, 0, 1, 12, 52, .rwl, 0x0, false, 0xF⟩
/-! HIF_EQ_CTL (R356). -/
def HIF_EQ_CTL_SIZE : Field := ⟨0x38, 0, 1, 0, 17, .rwl, 0x0, false, 0xF⟩
def HIF_EQ_CTL_VALID : Field := ⟨0x38, 0, 1, 17, 1, .rwl, 0x0, false, 0xF⟩
def HIF_EQ_CTL_IRQ : Field := ⟨0x38, 0, 1, 18, 1, .rwl, 0x0, false, 0xF⟩
def HIF_EQ_CTL_VECTOR : Field := ⟨0x38, 0, 1, 19, 12, .rwl, 0x0, false, 0xF⟩
def HIF_EQ_CTL_MOD_COUNT : Field := ⟨0x38, 0, 1, 31, 8, .rwl, 0x0, false, 0xF⟩
def HIF_EQ_CTL_MOD_TIME : Field := ⟨0x38, 0, 1, 39, 12, .rwl, 0x0, false, 0xF⟩
/-! HIF_EVENT_STATUS (R356). -/
def HIF_EVENT_STATUS_DROPPED : Field := ⟨0x40, 0, 1, 0, 32, .ro, 0x0, false, 0x1F⟩
def HIF_EVENT_STATUS_SEVERE : Field := ⟨0x40, 0, 1, 32, 1, .w1c, 0x0, false, 0x1F⟩
/-! HIF_MBOX_BASE (R356). -/
def HIF_MBOX_BASE_BASE : Field := ⟨0x48, 0, 1, 12, 52, .rwl, 0x0, false, 0xF⟩
/-! HIF_MBOX_CTL (R356). -/
def HIF_MBOX_CTL_COUNT : Field := ⟨0x50, 0, 1, 0, 9, .rwl, 0x0, false, 0xF⟩
def HIF_MBOX_CTL_IRQ : Field := ⟨0x50, 0, 1, 9, 1, .rwl, 0x0, false, 0xF⟩
def HIF_MBOX_CTL_VECTOR : Field := ⟨0x50, 0, 1, 10, 12, .rwl, 0x0, false, 0xF⟩
/-! HIF_CPL_STATUS (R356). -/
def HIF_CPL_STATUS_MAX_QUEUED : Field := ⟨0x58, 0, 1, 16, 13, .w1c, 0x0, false, 0x1F⟩
def HIF_CPL_STATUS_FULL_WAITS : Field := ⟨0x58, 0, 1, 32, 32, .ro, 0x0, false, 0x1F⟩
/-! HIF_SQ_BASE (R357). -/
def HIF_SQ_BASE_BASE : Field := ⟨0x1000, 16, 256, 12, 52, .rwl, 0x0, false, 0xF⟩
/-! HIF_SQ_CTL (R357). -/
def HIF_SQ_CTL_SIZE : Field := ⟨0x1008, 16, 256, 0, 17, .rwl, 0x0, false, 0xF⟩
def HIF_SQ_CTL_VALID : Field := ⟨0x1008, 16, 256, 17, 1, .rwl, 0x0, false, 0xF⟩
def HIF_SQ_CTL_PRIO : Field := ⟨0x1008, 16, 256, 18, 3, .rwl, 0x0, false, 0xF⟩
def HIF_SQ_CTL_CQ : Field := ⟨0x1008, 16, 256, 21, 8, .rwl, 0x0, false, 0xF⟩
/-! HIF_CQ_BASE (R357). -/
def HIF_CQ_BASE_BASE : Field := ⟨0x2000, 16, 256, 12, 52, .rwl, 0x0, false, 0xF⟩
/-! HIF_CQ_CTL (R357). -/
def HIF_CQ_CTL_SIZE : Field := ⟨0x2008, 16, 256, 0, 17, .rwl, 0x0, false, 0xF⟩
def HIF_CQ_CTL_VALID : Field := ⟨0x2008, 16, 256, 17, 1, .rwl, 0x0, false, 0xF⟩
def HIF_CQ_CTL_IRQ : Field := ⟨0x2008, 16, 256, 18, 1, .rwl, 0x0, false, 0xF⟩
def HIF_CQ_CTL_VECTOR : Field := ⟨0x2008, 16, 256, 19, 12, .rwl, 0x0, false, 0xF⟩
def HIF_CQ_CTL_MOD_COUNT : Field := ⟨0x2008, 16, 256, 31, 8, .rwl, 0x0, false, 0xF⟩
def HIF_CQ_CTL_MOD_TIME : Field := ⟨0x2008, 16, 256, 39, 12, .rwl, 0x0, false, 0xF⟩
/-! HIF_HWIN_BASE (R357). -/
def HIF_HWIN_BASE_BASE : Field := ⟨0x3000, 16, 64, 12, 52, .rwl, 0x0, false, 0xF⟩
/-! HIF_HWIN_SIZE (R357). -/
def HIF_HWIN_SIZE_PAGES : Field := ⟨0x3008, 16, 64, 0, 23, .rwl, 0x0, false, 0xF⟩
def HIF_HWIN_SIZE_VALID : Field := ⟨0x3008, 16, 64, 23, 1, .rwl, 0x0, false, 0xF⟩
/-! LNK_LINK_STATUS (R395). -/
def LNK_LINK_STATUS_STATE : Field := ⟨0x500000, 8, 32, 0, 3, .ro, 0x0, false, 0x157⟩
def LNK_LINK_STATUS_LANES : Field := ⟨0x500000, 8, 32, 3, 4, .ro, 0x0, false, 0x157⟩
def LNK_LINK_STATUS_PEER_RANK : Field := ⟨0x500000, 8, 32, 8, 20, .ro, 0x0, false, 0x157⟩
def LNK_LINK_STATUS_PEER_LINK : Field := ⟨0x500000, 8, 32, 28, 5, .ro, 0x0, false, 0x157⟩
def LNK_LINK_STATUS_DOWN_REASON : Field := ⟨0x500000, 8, 32, 33, 3, .ro, 0x0, false, 0x157⟩
/-! LNK_LINK_ERR (R396). -/
def LNK_LINK_ERR_CRC_FAIL : Field := ⟨0x500100, 8, 32, 0, 16, .ro, 0x0, false, 0x1F⟩
def LNK_LINK_ERR_RETRANS : Field := ⟨0x500100, 8, 32, 16, 24, .ro, 0x0, false, 0x1F⟩
def LNK_LINK_ERR_SPARES : Field := ⟨0x500100, 8, 32, 40, 8, .ro, 0x0, false, 0x1F⟩
def LNK_LINK_ERR_DOWNS : Field := ⟨0x500100, 8, 32, 48, 8, .ro, 0x0, false, 0x1F⟩
/-! LNK_ROUTE_SEL (R398). -/
def LNK_ROUTE_SEL_INDEX : Field := ⟨0x500300, 0, 1, 0, 13, .rw, 0x0, false, 0x1F⟩
def LNK_ROUTE_SEL_BANK : Field := ⟨0x500300, 0, 1, 13, 1, .rw, 0x0, false, 0x1F⟩
/-! LNK_ROUTE_STATUS (R398). -/
def LNK_ROUTE_STATUS_ARMED : Field := ⟨0x500310, 0, 1, 0, 1, .ro, 0x0, false, 0x1F⟩
def LNK_ROUTE_STATUS_SWAPS : Field := ⟨0x500310, 0, 1, 32, 32, .ro, 0x0, false, 0x1F⟩
/-! LNK_ROUTE_ARMED (R398). -/
def LNK_ROUTE_ARMED_STEP : Field := ⟨0x500318, 0, 1, 0, 64, .ro, 0x0, false, 0x1F⟩
/-! LNK_COLL_BASE (R399). -/
def LNK_COLL_BASE_BASE : Field := ⟨0x500400, 0, 1, 15, 25, .rwl, 0x0, false, 0xF⟩
/-! LNK_INJ_PERMIT (R399). -/
def LNK_INJ_PERMIT_LINKS : Field := ⟨0x500500, 0, 1, 0, 32, .ri, 0x0, true, 0x3⟩
/-! LNK_INJ_CTL (R400). -/
def LNK_INJ_CTL_MODE : Field := ⟨0x501000, 32, 32, 0, 3, .rw, 0x0, false, 0x3FF⟩
def LNK_INJ_CTL_STAGE : Field := ⟨0x501000, 32, 32, 3, 1, .rw, 0x0, false, 0x3FF⟩
def LNK_INJ_CTL_BY_PATTERN : Field := ⟨0x501000, 32, 32, 4, 1, .rw, 0x0, false, 0x3FF⟩
def LNK_INJ_CTL_K : Field := ⟨0x501000, 32, 32, 5, 5, .rw, 0x0, false, 0x3FF⟩
def LNK_INJ_CTL_VC : Field := ⟨0x501000, 32, 32, 10, 3, .rw, 0x0, false, 0x3FF⟩
def LNK_INJ_CTL_VC_FILTER : Field := ⟨0x501000, 32, 32, 13, 1, .rw, 0x0, false, 0x3FF⟩
def LNK_INJ_CTL_BIT : Field := ⟨0x501000, 32, 32, 14, 11, .rw, 0x0, false, 0x3FF⟩
def LNK_INJ_CTL_LANE : Field := ⟨0x501000, 32, 32, 25, 2, .rw, 0x0, false, 0x3FF⟩
def LNK_INJ_CTL_SEED : Field := ⟨0x501000, 32, 32, 27, 31, .rw, 0x0, false, 0x3FF⟩
/-! LNK_INJ_MATCH (R400). -/
def LNK_INJ_MATCH_VALUE : Field := ⟨0x501008, 32, 32, 0, 16, .rw, 0x0, false, 0x3FF⟩
def LNK_INJ_MATCH_MASK : Field := ⟨0x501008, 32, 32, 16, 16, .rw, 0x0, false, 0x3FF⟩
def LNK_INJ_MATCH_COUNT : Field := ⟨0x501008, 32, 32, 32, 16, .rw, 0x0, false, 0x3FF⟩
/-! LNK_INJ_COUNT (R400). -/
def LNK_INJ_COUNT_INJECTED : Field := ⟨0x501010, 32, 32, 0, 32, .ro, 0x0, false, 0x3FF⟩
/-! LNK_INJ_LOG_SEL (R401). -/
def LNK_INJ_LOG_SEL_ENTRY : Field := ⟨0x501400, 0, 1, 0, 6, .rw, 0x0, false, 0x3FF⟩
/-! TRN_JOB_SEED (R437). -/
def TRN_JOB_SEED_SEED : Field := ⟨0x800000, 0, 1, 0, 64, .rwl, 0x0, false, 0xF⟩
/-! TRN_LIMITS (R437). -/
def TRN_LIMITS_MAX_TOKENS : Field := ⟨0x800008, 0, 1, 0, 23, .rwl, 0x400000, false, 0xF⟩
def TRN_LIMITS_DROP_SHARE : Field := ⟨0x800008, 0, 1, 24, 8, .rwl, 0x0, false, 0xF⟩
/-! TRN_BUCKET (R438). -/
def TRN_BUCKET_LEN : Field := ⟨0x800010, 8, 8, 0, 23, .rwl, 0x0, false, 0xF⟩
def TRN_BUCKET_VALID : Field := ⟨0x800010, 8, 8, 23, 1, .rwl, 0x0, false, 0xF⟩
/-! TRN_STATE_BASE (R439). -/
def TRN_STATE_BASE_BASE : Field := ⟨0x800100, 0, 1, 6, 34, .rwl, 0x0, false, 0xF⟩
/-! TRN_STATE_COUNT (R439). -/
def TRN_STATE_COUNT_COUNT : Field := ⟨0x800108, 0, 1, 0, 17, .rwl, 0x0, false, 0xF⟩
/-! TRN_TAG_BASE (R439). -/
def TRN_TAG_BASE_BASE : Field := ⟨0x800110, 0, 1, 12, 28, .rwl, 0x0, false, 0xF⟩
/-! TRN_STEP_STATUS (R440). -/
def TRN_STEP_STATUS_STATE : Field := ⟨0x800200, 0, 1, 0, 3, .ro, 0x0, false, 0x3F⟩
def TRN_STEP_STATUS_EVAL : Field := ⟨0x800200, 0, 1, 3, 1, .ro, 0x0, false, 0x3F⟩
def TRN_STEP_STATUS_REPLAY : Field := ⟨0x800200, 0, 1, 4, 1, .ro, 0x0, false, 0x3F⟩
def TRN_STEP_STATUS_FROZEN : Field := ⟨0x800200, 0, 1, 5, 1, .ro, 0x0, false, 0x3F⟩
def TRN_STEP_STATUS_COMMITTED_VALID : Field := ⟨0x800200, 0, 1, 6, 1, .ro, 0x0, false, 0x101⟩
/-! TRN_STEP_NUM (R440). -/
def TRN_STEP_NUM_STEP : Field := ⟨0x800208, 0, 1, 0, 64, .ro, 0x0, false, 0x3F⟩
/-! TRN_COMMITTED (R440). -/
def TRN_COMMITTED_STEP : Field := ⟨0x800210, 0, 1, 0, 64, .ro, 0x0, false, 0x101⟩
/-! TRN_REPLAY_REF (R441). -/
def TRN_REPLAY_REF_ADDR : Field := ⟨0x800300, 0, 1, 0, 64, .rw, 0x0, false, 0x1F⟩
/-! TRN_TRACE_BASE (R441). -/
def TRN_TRACE_BASE_ADDR : Field := ⟨0x800308, 0, 1, 0, 64, .rw, 0x0, false, 0x1F⟩
/-! TRN_TRACE_CTL (R441). -/
def TRN_TRACE_CTL_SIZE : Field := ⟨0x800310, 0, 1, 0, 24, .rw, 0x0, false, 0x1F⟩
def TRN_TRACE_CTL_TILE_FIRST : Field := ⟨0x800310, 0, 1, 24, 14, .rw, 0x0, false, 0x1F⟩
def TRN_TRACE_CTL_TILE_COUNT : Field := ⟨0x800310, 0, 1, 38, 15, .rw, 0x0, false, 0x1F⟩
/-! TRN_TRACE_STATUS (R441). -/
def TRN_TRACE_STATUS_ENTRIES : Field := ⟨0x800318, 0, 1, 0, 32, .ro, 0x0, false, 0x1F⟩
def TRN_TRACE_STATUS_LOST : Field := ⟨0x800318, 0, 1, 32, 32, .ro, 0x0, false, 0x1F⟩
/-! TIM_NOW_FRAC (R458). -/
def TIM_NOW_FRAC_FRAC : Field := ⟨0x600008, 0, 1, 0, 32, .ro, 0x0, false, 0x1⟩
/-! TIM_STATUS (R458). -/
def TIM_STATUS_STATE : Field := ⟨0x600010, 0, 1, 0, 3, .ro, 0x0, false, 0x1⟩
def TIM_STATUS_GM : Field := ⟨0x600010, 0, 1, 3, 1, .ro, 0x0, false, 0x1⟩
def TIM_STATUS_HOPS : Field := ⟨0x600010, 0, 1, 4, 5, .ro, 0x0, false, 0x1⟩
def TIM_STATUS_GM_RANK : Field := ⟨0x600010, 0, 1, 9, 20, .ro, 0x0, false, 0x1⟩
def TIM_STATUS_EXT_LOCKED : Field := ⟨0x600010, 0, 1, 29, 1, .ro, 0x0, false, 0x1⟩
def TIM_STATUS_SECONDS_SET : Field := ⟨0x600010, 0, 1, 30, 1, .ro, 0x0, false, 0x1⟩
def TIM_STATUS_ERR_PS : Field := ⟨0x600010, 0, 1, 32, 32, .ro, 0xFFFFFFFF, false, 0x1⟩
/-! TIM_SRC_CTL (R459). -/
def TIM_SRC_CTL_EXT_EN : Field := ⟨0x600018, 0, 1, 0, 1, .ri, 0x0, true, 0x3⟩
def TIM_SRC_CTL_PTP_ROLE : Field := ⟨0x600018, 0, 1, 1, 2, .ri, 0x0, true, 0x3⟩
def TIM_SRC_CTL_PPS_OUT : Field := ⟨0x600018, 0, 1, 3, 1, .ri, 0x0, true, 0x3⟩
def TIM_SRC_CTL_MHZ10_OUT : Field := ⟨0x600018, 0, 1, 4, 1, .ri, 0x0, true, 0x3⟩
def TIM_SRC_CTL_TAI_UTC : Field := ⟨0x600018, 0, 1, 5, 16, .ri, 0x0, true, 0x3⟩
/-! TIM_GM_PRIORITY (R459). -/
def TIM_GM_PRIORITY_PRIORITY : Field := ⟨0x600020, 0, 1, 0, 8, .ri, 0xFF, true, 0x3⟩
/-! TIM_SET (R459). -/
def TIM_SET_TAI_NS : Field := ⟨0x600028, 0, 1, 0, 64, .rwl, 0x0, false, 0xF⟩
/-! TIM_PAGE (R459). -/
def TIM_PAGE_VALID : Field := ⟨0x600030, 0, 1, 0, 1, .rwl, 0x0, false, 0xF⟩
def TIM_PAGE_BASE : Field := ⟨0x600030, 0, 1, 12, 52, .rwl, 0x0, false, 0xF⟩
/-! TIM_EVENTS (R459). -/
def TIM_EVENTS_GM_CHANGES : Field := ⟨0x600038, 0, 1, 0, 16, .w1c, 0x0, false, 0x1F⟩
def TIM_EVENTS_HOLDOVERS : Field := ⟨0x600038, 0, 1, 16, 16, .w1c, 0x0, false, 0x1F⟩
/-! TIM_LINK_DELAY (R460). -/
def TIM_LINK_DELAY_DELAY_PS : Field := ⟨0x600100, 8, 32, 0, 32, .ro, 0x0, false, 0x157⟩
/-! TIM_LINK_ASYM (R460). -/
def TIM_LINK_ASYM_ASYM_PS : Field := ⟨0x600200, 8, 32, 0, 16, .rwl, 0x0, false, 0xF⟩
/-! SAF_STATUS (R498). -/
def SAF_STATUS_VOTE : Field := ⟨0x700000, 0, 1, 0, 2, .ro, 0x0, false, 0x3F⟩
def SAF_STATUS_REASON : Field := ⟨0x700000, 0, 1, 2, 3, .ro, 0x0, false, 0x3F⟩
def SAF_STATUS_FILLING : Field := ⟨0x700000, 0, 1, 12, 1, .ro, 0x0, false, 0x1F⟩
def SAF_STATUS_EXHAUSTED : Field := ⟨0x700000, 0, 1, 13, 1, .ro, 0x0, false, 0x1F⟩
def SAF_STATUS_ISOLATED : Field := ⟨0x700000, 0, 1, 14, 1, .ro, 0x0, false, 0x1F⟩
/-! SAF_SAFE_STATUS (R498). -/
def SAF_SAFE_STATUS_ACTIVE : Field := ⟨0x700008, 0, 1, 0, 1, .ro, 0x0, false, 0x1⟩
def SAF_SAFE_STATUS_CAUSE : Field := ⟨0x700008, 0, 1, 1, 3, .ro, 0x0, false, 0x1⟩
/-! SAF_GATE_CTL (R499). -/
def SAF_GATE_CTL_PARENT : Field := ⟨0x700010, 0, 1, 0, 20, .rwl, 0x0, false, 0xF⟩
def SAF_GATE_CTL_BACKUP : Field := ⟨0x700010, 0, 1, 20, 20, .rwl, 0x0, false, 0xF⟩
def SAF_GATE_CTL_CHILDREN : Field := ⟨0x700010, 0, 1, 40, 7, .rwl, 0x0, false, 0xF⟩
def SAF_GATE_CTL_ROOT : Field := ⟨0x700010, 0, 1, 47, 1, .rwl, 0x0, false, 0xF⟩
def SAF_GATE_CTL_ALT_ROOT : Field := ⟨0x700010, 0, 1, 48, 1, .rwl, 0x0, false, 0xF⟩
/-! SAF_GATE_TOTAL (R499). -/
def SAF_GATE_TOTAL_TOTAL : Field := ⟨0x700018, 0, 1, 0, 20, .rwl, 0x0, false, 0xF⟩
/-! SAF_PGROUP_BASE (R499). -/
def SAF_PGROUP_BASE_BASE : Field := ⟨0x700020, 0, 1, 7, 33, .rwl, 0x0, false, 0xF⟩
/-! SAF_FILL_CTL (R500). -/
def SAF_FILL_CTL_RATE : Field := ⟨0x700028, 0, 1, 0, 7, .ri, 0x8, true, 0x3⟩
/-! SAF_FILL_STATUS (R500). -/
def SAF_FILL_STATUS_PIECES : Field := ⟨0x700030, 0, 1, 0, 32, .ro, 0x0, false, 0x1F⟩
def SAF_FILL_STATUS_RESTARTS : Field := ⟨0x700030, 0, 1, 32, 16, .ro, 0x0, false, 0x1F⟩
def SAF_FILL_STATUS_REPAIRS : Field := ⟨0x700030, 0, 1, 48, 16, .ro, 0x0, false, 0x1F⟩
/-! SAF_HEALTH (R501). -/
def SAF_HEALTH_RISK : Field := ⟨0x700100, 0, 1, 0, 3, .ro, 0x0, false, 0x3⟩
def SAF_HEALTH_SCORES : Field := ⟨0x700100, 0, 1, 3, 24, .ro, 0x0, false, 0x3⟩
/-! SAF_HEALTH_THRESH (R501). -/
def SAF_HEALTH_THRESH_T : Field := ⟨0x700140, 8, 8, 0, 56, .ri, 0x0, true, 0x3⟩
/-! SAF_RISK_CTL (R501). -/
def SAF_RISK_CTL_EVENT_LEVEL : Field := ⟨0x700180, 0, 1, 0, 3, .ri, 0x0, true, 0x3⟩
def SAF_RISK_CTL_SNAP_LEVEL : Field := ⟨0x700180, 0, 1, 3, 3, .ri, 0x0, true, 0x3⟩
def SAF_RISK_CTL_SNAP_AUTO : Field := ⟨0x700180, 0, 1, 6, 1, .ri, 0x0, true, 0x3⟩
/-! SAF_SNAP (R501). -/
def SAF_SNAP_ADDR : Field := ⟨0x700188, 0, 1, 12, 52, .rwl, 0x0, false, 0xF⟩
/-! SAF_SNAP_PAGES (R501). -/
def SAF_SNAP_PAGES_PAGES : Field := ⟨0x700190, 0, 1, 0, 32, .rwl, 0x0, false, 0xF⟩
/-! BOOT_STATUS (R524). -/
def BOOT_STATUS_STAGE : Field := ⟨0x900000, 0, 1, 0, 3, .ro, 0x0, false, 0x3⟩
def BOOT_STATUS_SLOT : Field := ⟨0x900000, 0, 1, 3, 1, .ro, 0x0, false, 0x3⟩
def BOOT_STATUS_FALLBACK : Field := ⟨0x900000, 0, 1, 4, 1, .ro, 0x0, false, 0x3⟩
def BOOT_STATUS_IDENTITY_OK : Field := ⟨0x900000, 0, 1, 5, 1, .ro, 0x0, false, 0x1⟩
def BOOT_STATUS_COUNTER_PENDING : Field := ⟨0x900000, 0, 1, 6, 1, .ro, 0x0, false, 0x3⟩
def BOOT_STATUS_COUNTER : Field := ⟨0x900000, 0, 1, 32, 32, .ro, 0x0, false, 0x3⟩
/-! BOOT_IMAGE (R525). -/
def BOOT_IMAGE_REASON : Field := ⟨0x900008, 8, 2, 0, 4, .ro, 0x0, false, 0x3⟩
def BOOT_IMAGE_ROLLBACK_VER : Field := ⟨0x900008, 8, 2, 32, 32, .ro, 0x0, false, 0x3⟩
/-! BOOT_SEQ (R525). -/
def BOOT_SEQ_SEQ : Field := ⟨0x900018, 8, 2, 0, 64, .ro, 0x0, false, 0x3⟩
/-! BOOT_RESET_CTL (R526). -/
def BOOT_RESET_CTL_FABRIC : Field := ⟨0x900028, 0, 1, 0, 1, .rw, 0x0, false, 0x3F⟩
def BOOT_RESET_CTL_NEXT_SLOT : Field := ⟨0x900028, 0, 1, 1, 2, .rw, 0x0, false, 0x3⟩
/-! BOOT_RESET_STATUS (R526). -/
def BOOT_RESET_STATUS_LAST : Field := ⟨0x900030, 0, 1, 0, 4, .ro, 0x0, false, 0x1⟩
def BOOT_RESET_STATUS_COUNT : Field := ⟨0x900030, 0, 1, 32, 32, .ro, 0x0, false, 0x1⟩
/-! BOOT_HEALTH (R526). -/
def BOOT_HEALTH_RECORDS : Field := ⟨0x900038, 0, 1, 0, 32, .ro, 0x0, false, 0x1⟩
def BOOT_HEALTH_ERRORS : Field := ⟨0x900038, 0, 1, 32, 16, .ro, 0x0, false, 0x1⟩
/-! BOOT_HEALTH_TIME (R526). -/
def BOOT_HEALTH_TIME_TIME : Field := ⟨0x900040, 0, 1, 0, 64, .ro, 0x0, false, 0x1⟩
/-! SAF_INPUT (R534). -/
def SAF_INPUT_VIN : Field := ⟨0x700200, 0, 1, 0, 16, .ro, 0x0, false, 0x1⟩
def SAF_INPUT_IIN : Field := ⟨0x700200, 0, 1, 16, 16, .ro, 0x0, false, 0x1⟩
def SAF_INPUT_PIN : Field := ⟨0x700200, 0, 1, 32, 16, .ro, 0x0, false, 0x1⟩
def SAF_INPUT_RIPPLE : Field := ⟨0x700200, 0, 1, 48, 16, .ro, 0x0, false, 0x1⟩
/-! SAF_INPUT_PEAK (R534). -/
def SAF_INPUT_PEAK_PIN_PEAK : Field := ⟨0x700208, 0, 1, 0, 16, .w1c, 0x0, false, 0x1F⟩
def SAF_INPUT_PEAK_LIMIT_MS : Field := ⟨0x700208, 0, 1, 16, 16, .w1c, 0x0, false, 0x1F⟩
def SAF_INPUT_PEAK_VIN_MIN : Field := ⟨0x700208, 0, 1, 32, 16, .w1c, 0xFFFF, false, 0x1F⟩
/-! SAF_POWER_CTL (R535). -/
def SAF_POWER_CTL_LIMIT : Field := ⟨0x700210, 0, 1, 0, 13, .ri, 0x10CC, true, 0x3⟩
def SAF_POWER_CTL_HELD : Field := ⟨0x700210, 0, 1, 13, 1, .ro, 0x0, false, 0x3F⟩
/-! SAF_DIE_TEMP (R536). -/
def SAF_DIE_TEMP_PD0 : Field := ⟨0x700218, 0, 1, 32, 8, .ro, 0x0, false, 0x1⟩
def SAF_DIE_TEMP_PD1 : Field := ⟨0x700218, 0, 1, 40, 8, .ro, 0x0, false, 0x1⟩
def SAF_DIE_TEMP_CD0 : Field := ⟨0x700218, 0, 1, 0, 8, .ro, 0x0, false, 0x1⟩
def SAF_DIE_TEMP_CD1 : Field := ⟨0x700218, 0, 1, 8, 8, .ro, 0x0, false, 0x1⟩
def SAF_DIE_TEMP_CD2 : Field := ⟨0x700218, 0, 1, 16, 8, .ro, 0x0, false, 0x1⟩
def SAF_DIE_TEMP_CD3 : Field := ⟨0x700218, 0, 1, 24, 8, .ro, 0x0, false, 0x1⟩
/-! LNK_STREAM_VC (R397). -/
def LNK_STREAM_VC_VC : Field := ⟨0x500200, 8, 9, 0, 64, .rwl, 0x1111111111111111, false, 0xF⟩
def fields0 : List Field :=
  [FAB_SELF_RANK_RANK, FAB_SELF_RANK_NEXT, FAB_SELF_RANK_NEXT_VALID, FAB_PACE_TARGET_TARGET,
   FAB_PACE_SHORT_SHORT, FAB_PACE_STATUS_MIN_PACE, FAB_PACE_STATUS_MIN_REGION, FAB_PACE_STATUS_MAX_RAIL,
   FAB_PACE_STATUS_SHORT_EVENTS, CMP_CAL_BASE_BASE, CMP_CAL_CTL_MARGIN, CMP_TILE_SEL_TILE,
   CMP_TILE_SEL_INDEX, CMP_KV_BASE_BASE, CMP_KV_SIZE_UNITS, CMP_RING_CFG_SIZE,
   CMP_RING_CFG_POSITION, CMP_RING_CFG_VALID, CMP_RING_CFG_SUCC, CMP_RING_CFG_PRED,
   CMP_RING_TRAIN_TRAIN, CMP_RING_TRAIN_BAY_KIB, CMP_CTAB_BASE_BASE, CMP_CTAB_CTL_THRESH,
   CMP_CTAB_STATUS_REBUILDS, CMP_CTAB_STATUS_DECODE_ERRORS, CMP_CTAB_STATUS_CONFLICTS, MEM_SLOT_CAP_SLOTS,
   MEM_SLOT_CAP_BANK, MEM_OBJ_BASE_BASE, MEM_OBJ_COUNT_COUNT, MEM_RETIRE_CTL_ENABLE,
   MEM_RETIRE_STATUS_USED, MEM_RETIRE_STATUS_STACK, MEM_RETIRE_STATUS_CHANNEL, MEM_RETIRE_STATUS_AREA,
   MEM_STACK_STATUS_TEMP, MEM_STACK_STATUS_REFRESH, MEM_STACK_STATUS_THROTTLE, MEM_STACK_STATUS_THROTTLE_EVENTS]

def fields1 : List Field :=
  [MEM_STACK_STATUS_MAX_TEMP, MEM_CH_SEL_STACK, MEM_CH_SEL_CHANNEL, MEM_SCRUB_CTL_INTERVAL,
   MEM_SCRUB_STATUS_POSITION, MEM_SCRUB_STATUS_PASSES, MEM_TG_SEL_STACK, MEM_TG_SEL_CHANNEL,
   MEM_TG_SEL_BROADCAST, STR_CH_SEL_UNIT, STR_CH_SEL_ENGINE, STR_CH_SEL_CHANNEL,
   STR_HC_STATUS_SENT, STR_HC_STATUS_MBOX_WAITS, HIF_DEV_CTL_ENABLE, HIF_DEV_CTL_WARM,
   HIF_DEV_CTL_PARK, HIF_DEV_STATUS_STATE, HIF_DEV_STATUS_PARKED, HIF_DEV_STATUS_DEEP,
   HIF_DEV_STATUS_RATE, HIF_DEV_STATUS_WIDTH, HIF_DEV_STATUS_FLIT, HIF_CFG_STATUS_REASON,
   HIF_CFG_STATUS_OFFSET, HIF_CFG_STATUS_INDEX, HIF_DB_BASE_BASE, HIF_POLL_STATUS_LEVEL,
   HIF_POLL_STATUS_POLLS, HIF_EQ_BASE_BASE, HIF_EQ_CTL_SIZE, HIF_EQ_CTL_VALID,
   HIF_EQ_CTL_IRQ, HIF_EQ_CTL_VECTOR, HIF_EQ_CTL_MOD_COUNT, HIF_EQ_CTL_MOD_TIME,
   HIF_EVENT_STATUS_DROPPED, HIF_EVENT_STATUS_SEVERE, HIF_MBOX_BASE_BASE, HIF_MBOX_CTL_COUNT]

def fields2 : List Field :=
  [HIF_MBOX_CTL_IRQ, HIF_MBOX_CTL_VECTOR, HIF_CPL_STATUS_MAX_QUEUED, HIF_CPL_STATUS_FULL_WAITS,
   HIF_SQ_BASE_BASE, HIF_SQ_CTL_SIZE, HIF_SQ_CTL_VALID, HIF_SQ_CTL_PRIO,
   HIF_SQ_CTL_CQ, HIF_CQ_BASE_BASE, HIF_CQ_CTL_SIZE, HIF_CQ_CTL_VALID,
   HIF_CQ_CTL_IRQ, HIF_CQ_CTL_VECTOR, HIF_CQ_CTL_MOD_COUNT, HIF_CQ_CTL_MOD_TIME,
   HIF_HWIN_BASE_BASE, HIF_HWIN_SIZE_PAGES, HIF_HWIN_SIZE_VALID, LNK_LINK_STATUS_STATE,
   LNK_LINK_STATUS_LANES, LNK_LINK_STATUS_PEER_RANK, LNK_LINK_STATUS_PEER_LINK, LNK_LINK_STATUS_DOWN_REASON,
   LNK_LINK_ERR_CRC_FAIL, LNK_LINK_ERR_RETRANS, LNK_LINK_ERR_SPARES, LNK_LINK_ERR_DOWNS,
   LNK_ROUTE_SEL_INDEX, LNK_ROUTE_SEL_BANK, LNK_ROUTE_STATUS_ARMED, LNK_ROUTE_STATUS_SWAPS,
   LNK_ROUTE_ARMED_STEP, LNK_COLL_BASE_BASE, LNK_INJ_PERMIT_LINKS, LNK_INJ_CTL_MODE,
   LNK_INJ_CTL_STAGE, LNK_INJ_CTL_BY_PATTERN, LNK_INJ_CTL_K, LNK_INJ_CTL_VC]

def fields3 : List Field :=
  [LNK_INJ_CTL_VC_FILTER, LNK_INJ_CTL_BIT, LNK_INJ_CTL_LANE, LNK_INJ_CTL_SEED,
   LNK_INJ_MATCH_VALUE, LNK_INJ_MATCH_MASK, LNK_INJ_MATCH_COUNT, LNK_INJ_COUNT_INJECTED,
   LNK_INJ_LOG_SEL_ENTRY, TRN_JOB_SEED_SEED, TRN_LIMITS_MAX_TOKENS, TRN_LIMITS_DROP_SHARE,
   TRN_BUCKET_LEN, TRN_BUCKET_VALID, TRN_STATE_BASE_BASE, TRN_STATE_COUNT_COUNT,
   TRN_TAG_BASE_BASE, TRN_STEP_STATUS_STATE, TRN_STEP_STATUS_EVAL, TRN_STEP_STATUS_REPLAY,
   TRN_STEP_STATUS_FROZEN, TRN_STEP_STATUS_COMMITTED_VALID, TRN_STEP_NUM_STEP, TRN_COMMITTED_STEP,
   TRN_REPLAY_REF_ADDR, TRN_TRACE_BASE_ADDR, TRN_TRACE_CTL_SIZE, TRN_TRACE_CTL_TILE_FIRST,
   TRN_TRACE_CTL_TILE_COUNT, TRN_TRACE_STATUS_ENTRIES, TRN_TRACE_STATUS_LOST, TIM_NOW_FRAC_FRAC,
   TIM_STATUS_STATE, TIM_STATUS_GM, TIM_STATUS_HOPS, TIM_STATUS_GM_RANK,
   TIM_STATUS_EXT_LOCKED, TIM_STATUS_SECONDS_SET, TIM_STATUS_ERR_PS, TIM_SRC_CTL_EXT_EN]

def fields4 : List Field :=
  [TIM_SRC_CTL_PTP_ROLE, TIM_SRC_CTL_PPS_OUT, TIM_SRC_CTL_MHZ10_OUT, TIM_SRC_CTL_TAI_UTC,
   TIM_GM_PRIORITY_PRIORITY, TIM_SET_TAI_NS, TIM_PAGE_VALID, TIM_PAGE_BASE,
   TIM_EVENTS_GM_CHANGES, TIM_EVENTS_HOLDOVERS, TIM_LINK_DELAY_DELAY_PS, TIM_LINK_ASYM_ASYM_PS,
   SAF_STATUS_VOTE, SAF_STATUS_REASON, SAF_STATUS_FILLING, SAF_STATUS_EXHAUSTED,
   SAF_STATUS_ISOLATED, SAF_SAFE_STATUS_ACTIVE, SAF_SAFE_STATUS_CAUSE, SAF_GATE_CTL_PARENT,
   SAF_GATE_CTL_BACKUP, SAF_GATE_CTL_CHILDREN, SAF_GATE_CTL_ROOT, SAF_GATE_CTL_ALT_ROOT,
   SAF_GATE_TOTAL_TOTAL, SAF_PGROUP_BASE_BASE, SAF_FILL_CTL_RATE, SAF_FILL_STATUS_PIECES,
   SAF_FILL_STATUS_RESTARTS, SAF_FILL_STATUS_REPAIRS, SAF_HEALTH_RISK, SAF_HEALTH_SCORES,
   SAF_HEALTH_THRESH_T, SAF_RISK_CTL_EVENT_LEVEL, SAF_RISK_CTL_SNAP_LEVEL, SAF_RISK_CTL_SNAP_AUTO,
   SAF_SNAP_ADDR, SAF_SNAP_PAGES_PAGES, BOOT_STATUS_STAGE, BOOT_STATUS_SLOT]

def fields5 : List Field :=
  [BOOT_STATUS_FALLBACK, BOOT_STATUS_IDENTITY_OK, BOOT_STATUS_COUNTER_PENDING, BOOT_STATUS_COUNTER,
   BOOT_IMAGE_REASON, BOOT_IMAGE_ROLLBACK_VER, BOOT_SEQ_SEQ, BOOT_RESET_CTL_FABRIC,
   BOOT_RESET_CTL_NEXT_SLOT, BOOT_RESET_STATUS_LAST, BOOT_RESET_STATUS_COUNT, BOOT_HEALTH_RECORDS,
   BOOT_HEALTH_ERRORS, BOOT_HEALTH_TIME_TIME, SAF_INPUT_VIN, SAF_INPUT_IIN,
   SAF_INPUT_PIN, SAF_INPUT_RIPPLE, SAF_INPUT_PEAK_PIN_PEAK, SAF_INPUT_PEAK_LIMIT_MS,
   SAF_INPUT_PEAK_VIN_MIN, SAF_POWER_CTL_LIMIT, SAF_POWER_CTL_HELD, SAF_DIE_TEMP_PD0,
   SAF_DIE_TEMP_PD1, SAF_DIE_TEMP_CD0, SAF_DIE_TEMP_CD1, SAF_DIE_TEMP_CD2,
   SAF_DIE_TEMP_CD3, LNK_STREAM_VC_VC]

/-- Every field of Table 09.2's blocks that has its own home in the register file. -/
def fields : List Field :=
  fields0 ++ fields1 ++ fields2 ++ fields3 ++ fields4 ++ fields5

end Reg

/-- The fields of one register. -/
def Reg.fieldsAt (off : Nat) : List Field := Reg.fields.filter fun f => f.covers off

/-- A host write to the register at `off`, field by field under the access codes. DEDUCED: log entry 24. -/
def RegFile.hostWrite (r : RegFile) (locked : Bool) (off mask v : Nat) : RegFile :=
  r.setWord off ((Reg.fieldsAt off).foldl (fun w f => f.write locked mask v w) (r.word off))

/-- A register's word with every field that kind `k` restores at zero. -/
def Reg.clearWord (k : Kind) (off w : Nat) : Nat :=
  (Reg.fieldsAt off).foldl (fun w f => if f.resetBy k then setBits w f.hi f.lo 0 else w) w

/-- Restore every field that kind `k` names: plain fields to their value, image fields by `img`. -/
def RegFile.resetBy (r : RegFile) (k : Kind) (img : Field → Nat → Nat) : RegFile :=
  let cleared : RegFile :=
    r.foldl (fun (acc : RegFile) (e : Nat × Nat) => RegFile.setWord acc e.1 (Reg.clearWord k e.1 e.2)) []
  (Reg.fields.filter fun f => f.resetBy k && (f.image || f.reset != 0)).foldl
    (fun (acc : RegFile) f => (List.range f.count).foldl
      (fun (acc : RegFile) i => RegFile.setAt acc f i (if f.image then img f i else f.reset)) acc) cleared

/-- The registers right after P with a settings image that names no register (R505).
DESIGN CHOICE: log entry 1. DEDUCED: log entry 6. -/
def RegFile.atReset : RegFile := RegFile.resetBy [] .P fun f _ => f.reset

end Sys2Proof.Machine
end

