-- ==== Sys2Proof/Machine/Types.lean ====
section
/-! DEFINITION. The records that the module's State is made of, beside tiles and registers: host interface
(chapter 09), stacked memory (07), stream channels (08), Stelys links (10), the step machinery (11), time (12),
resilience (13), boot and security (14), input stage (15) and pace (01). -/

namespace Sys2Proof.Machine

/-! ### What leaves the module -/

/-- Everything the module sends out of itself: writes and reads of host memory, interrupts, flits, pins,
answers to management and attestation requests. DESIGN CHOICE: log entry 5. -/
inductive Output where
  | hostWrite (addr : Nat) (data : List Byte) (poison : Bool)
  | hostRead (addr len : Nat)
  | msix (vector : Nat)
  | unsupported (offset : Nat)
  | readData (offset value : Nat)
  | memData (source addr : Nat) (data : List (Byte × Bool))
  | flit (link : Nat) (data : List Byte)
  | probe (link : Nat)
  | alert (low : Bool)
  | doe (data : List Byte)
  | mctp (data : List Byte)
  | ptp (data : List Byte)
  | pps (high : Bool)
  | mhz10 (high : Bool)
  | breaker (isOpen : Bool)
  deriving DecidableEq, Repr

/-! ### Host interface (chapter 09) -/

/-- A completion record on its way to its ring (R338, R340). -/
structure CplRec where
  cq : Nat
  status : Nat
  flags : Nat
  opcode : Nat
  ring : Nat
  index : Nat
  tag : Nat
  result : Nat
  time : Nat
  notify : Bool
  /-- the unit that completes the descriptor (R340) -/
  unit : Nat
  deriving DecidableEq, Repr

/-- An event in the on-chip queue (R342, R343). -/
structure EvRec where
  ev : Ev
  step : Nat
  time : Nat
  deriving DecidableEq, Repr

/-- A descriptor that the module owns, with the copy it latched (R334, R335). -/
structure Desc where
  ring : Nat
  index : Nat
  opcode : Nat
  flags : Nat
  tag : Nat
  body : List Byte
  started : Bool
  /-- its unit has accepted it -/
  taken : Bool
  /-- the stream descriptor of a STREAM, as read at the fetch (R293): a status, completion flags and the bytes -/
  latched : Option (Nat × Nat × List Byte)
  deriving DecidableEq, Repr

/-- A submission ring: PRODUCED as last read, the next count to fetch, whether a fetch error has been posted, and
whether the next slot waits for a poll (R333). -/
structure RingSt where
  produced : Nat
  next : Nat
  fetchErr : Bool
  hold : Bool
  deriving DecidableEq, Repr

def RingSt.zero : RingSt := ⟨0, 0, false, false⟩

/-- A completion ring or the event ring: records written, CONSUMED as last read, records pending for the
vector and the time the oldest of them was written (R345). -/
structure CqSt where
  written : Nat
  consumed : Nat
  pending : Nat
  oldest : Nat
  deriving DecidableEq, Repr

def CqSt.zero : CqSt := ⟨0, 0, 0, 0⟩

/-- A host mailbox: messages sent and consumed (R318, R344). -/
structure MboxSt where
  sent : Nat
  consumed : Nat
  deriving DecidableEq, Repr

/-- A read of consecutive descriptors in flight (R333). -/
structure Fetch where
  ring : Nat
  first : Nat
  count : Nat
  deriving DecidableEq, Repr

structure HostSt where
  rings : List (Nat × RingSt)
  descs : List Desc
  queue : List CplRec
  waiting : List CplRec
  cqs : List (Nat × CqSt)
  eq : CqSt
  events : List EvRec
  /-- events dropped since the last ST_EVENT_OVERFLOW record -/
  dropped : Nat
  pollBusy : Bool
  pollEmpty : Nat
  pollErr : Bool
  fetch : Option Fetch
  /-- the ring served last at each priority, for the round-robin of R333 -/
  served : List (Nat × Nat)
  mboxes : List (Nat × MboxSt)
  /-- MSI-X as the host has set it up: the enable bit, the table's dwords and the pending bits -/
  msixOn : Bool
  msixTable : List (Nat × Nat)
  msixPending : List Nat
  ptmOn : Bool
  /-- PERST# is asserted; the PCIe function is in D3hot -/
  perst : Bool
  d3 : Bool
  deriving DecidableEq, Repr

/-- DESIGN CHOICE: log entry 1. -/
def HostSt.reset : HostSt :=
  ⟨[], [], [], [], [], CqSt.zero, [], 0, false, 0, false, none, [], [], false, [], [], false, false, false⟩

/-! ### Stacked memory (chapter 07) -/

/-- A request that holds a slot at a channel's ordering point (R256, R259), with the bytes that a read took at its place in the
order, each with its tag. -/
structure MemReq where
  source : Nat
  addr : Nat
  write : Bool
  data : List (Byte × Bool)
  deriving DecidableEq, Repr

/-- A traffic generator (R271 to R273, Table 07.15). -/
structure Gen where
  running : Bool
  ctl : Nat
  first : Nat
  last : Nat
  code : Nat
  lanes : Nat
  errors : Nat
  corrections : Nat
  deriving DecidableEq, Repr

def Gen.reset : Gen := ⟨false, 0, 0, 0x1FFFFF, 0, 0, 0, 0⟩

/-- A memory channel: its marked lane, its counts, its request slots, oldest first, and its generator. -/
structure MemCh where
  mark : Option Nat
  corrected : Nat
  uncorrected : Nat
  scrubUncorr : Nat
  /-- errors confined to one lane within the last second, each with its time and lane (R266) -/
  laneErrs : List (Nat × Nat)
  /-- lanes that have had 64 errors within one second -/
  due : List Nat
  /-- times of the uncorrectable errors of the last second -/
  uncorrAt : List Nat
  /-- 16 uncorrectable errors have come within one second (R268) -/
  failed : Bool
  slots : List MemReq
  /-- the request that each waiting source is to enter next: source, address, whether it writes (R259) -/
  blocked : List (Nat × Nat × Bool)
  gen : Gen
  deriving DecidableEq, Repr

/-- DESIGN CHOICE: log entry 7. -/
def MemCh.reset : MemCh := ⟨none, 0, 0, 0, [], [], [], false, [], [], Gen.reset⟩

/-- An entry of the object table (Table 07.5). -/
structure Obj where
  tier : Nat
  flags : Nat
  pins : Nat
  slice : Nat
  home : Nat
  size : Nat
  first : Nat
  count : Nat
  offset : Nat
  deriving DecidableEq, Repr

/-- An object copy in progress (R276, R278), with a number of its own and the entry as it started: the descriptors that complete
with it, each with the signal it names, as pair·2 + counter. -/
structure ObjMove where
  id : Nat
  entry : Obj
  obj : Nat
  up : Bool
  cancelled : Bool
  waiters : List (Nat × Nat × Option Nat)
  /-- the descriptor that started the eviction, while it may be cancelled, and those that joined it -/
  evicts : List (Nat × Nat)
  stale : Bool
  /-- poison has moved with the bytes copied so far -/
  poison : Bool
  /-- slices that are still to be copied, by place in the placement -/
  left : List Nat
  deriving DecidableEq, Repr

structure MemSt where
  chans : List (Nat × MemCh)
  /-- the previous reading of each stack's sensor (R261) -/
  lastTemp : List (Nat × Nat)
  /-- device time of each bank's last refresh, by channel·16 + bank -/
  refreshed : List (Nat × Nat)
  selfRefresh : Bool
  off : Bool
  /-- the retirement area is being poisoned (R268) -/
  poisoning : Bool
  /-- ST_MEM_RETIRE_EXHAUSTED has been posted: the module cannot hold its memory (R268) -/
  exhausted : Bool
  moves : List ObjMove
  /-- the damaged lanes, as a mask, of each 64 B access whose next read meets an error (R263, R266) -/
  lanes : List (Nat × Nat)
  /-- the state of Table 07.2 that each stack is in, 0 to 4 (R261) -/
  tempLevel : List (Nat × Nat)
  /-- device time of the last scrub read (R269) -/
  scrubbed : Nat
  /-- the retired channel's own cells, by offset in the channel (R268, R271) -/
  own : Mem
  /-- the object table is cleared before the first fetch after the next enable (R279) -/
  clearDue : Bool
  deriving DecidableEq, Repr

/-- DESIGN CHOICE: log entry 1. -/
def MemSt.reset : MemSt := ⟨[], [], [], false, false, false, false, [], [], [], 0, Mem.empty, false⟩

/-- A key/value reservation (R159). -/
structure KvRes where
  id : Nat
  kind : Nat
  ring : Nat
  first : Nat
  units : Nat
  deriving DecidableEq, Repr

/-! ### Tensor descriptors (R346) -/

structure Tensor where
  base : Nat
  fmt : Nat
  elemBits : Nat
  ndim : Nat
  cmp : Nat
  table : Nat
  poison : Nat
  object : Nat
  sizes : List Nat
  strides : List Nat
  deriving DecidableEq, Repr

/-! ### Stream channels (chapter 08) -/

/-- A stream descriptor (Table 08.3), with SREG and DREG already added for a tile's STREAM. -/
structure StrDesc where
  src : Nat
  dst : Nat
  sLine : Nat
  sStride : Nat
  sCount : Nat
  dLine : Nat
  dStride : Nat
  dCount : Nat
  extLen : Nat
  kind : Nat
  prio : Nat
  runahead : Nat
  cmp : Nat
  fmt : Nat
  table : Nat
  wait : Bool
  waitCtr : Nat
  slotSig : Bool
  slotLines : Nat
  target : Nat
  deriving DecidableEq, Repr

/-- Who submitted a channel's work: a tile, with the signal its STREAM names as pair·2 + counter and that STREAM's PC, or the
driver, by ring and count. -/
inductive Submitter where
  | tile (t : Nat) (sig : Option (Nat × Nat))
  | ring (r j : Nat)
  deriving DecidableEq, Repr

/-- What a channel carries out: a stream transfer, or a step descriptor that hands its work to the collective
engine (R404), with its WAIT bit, or the part of an object's copy, by its number, that moves to or from one die's tiles (R278). -/
inductive Job where
  | stream (d : StrDesc)
  | step (wait : Bool)
  | object (move : Nat)
  deriving DecidableEq, Repr

/-- A descriptor of a channel. Slots are granted by the chain (R311) and then moved; `readData` gathers what
peers have returned, by byte of the source sequence, with its poison. -/
structure Xfer where
  id : Nat
  by_ : Submitter
  job : Job
  granted : Nat
  moved : Nat
  /-- read responses outstanding -/
  reads : Nat
  readData : List (Nat × (Byte × Bool))
  /-- a bus error: status and failure offset (R306) -/
  err : Option (Nat × Nat)
  poison : Bool
  /-- arithmetic flags of a COMPRESS, as completion flags [4:0] -/
  flags : Nat
  outBytes : Nat
  /-- generation and lengths of the code table latched at the start (R234) -/
  latch : Option (Nat × List Nat)
  /-- the tensor descriptor that the transfer names -/
  td : Option Tensor
  /-- everything it moves carries poison (R79, R175) -/
  taint : Bool
  /-- its transfer id on the links, once it has begun to use them, and the packets sent under it (R370) -/
  tid : Nat
  sent : Nat
  /-- the byte of its source at which the next block may begin (R163) -/
  coach : Nat
  deriving DecidableEq, Repr

/-- The writes, or the reads, of one slot that await their answers (R304, R311) and the signal they hold back. -/
structure SlotAck where
  xfer : Nat
  slot : Nat
  waiting : Nat
  err : Bool
  /-- the reads of a consumer's slot, in place of writes -/
  onReads : Bool
  target : Option Nat
  tile : Option Nat
  /-- the host address whose 4 B read acknowledges the writes, where they go to a host window (R304) -/
  host : Option Nat
  deriving DecidableEq, Repr

structure Chan where
  queue : List Xfer
  busy : Option Xfer
  sem : Sem
  acks : List SlotAck
  /-- a write that the next fence waits for was acknowledged with an error (R304) -/
  fenceErr : Bool
  /-- the last host address that each transfer has written since the last fence -/
  hostLast : List (Nat × Nat)
  lastStatus : Nat
  errors : Nat
  nextId : Nat
  /-- signals that wait for room in the replay store (R316), as SIG_TARGET words with the issuing tile -/
  outbox : List (Nat × Option Nat)
  deriving DecidableEq, Repr

def Chan.reset : Chan := ⟨[], none, Sem.zero, [], false, [], 0, 0, 0, []⟩

/-! ### Result tree (chapter 03) -/

/-- An input at a tree node, from one child. -/
structure TreeIn where
  child : Nat
  op : Nat
  fmt : Nat
  len : Nat
  dst : Nat
  top : Nat
  /-- value bits (wide for a sum, FP32 otherwise), index, poison, element by element -/
  vals : List (Nat × Nat × Bool)
  flags : Nat
  /-- the tiles whose inputs it holds, each with the PC of its TREE -/
  tiles : List (Nat × Nat)
  deriving DecidableEq, Repr

/-! ### Stelys links (chapter 10) -/

/-- A packet (R370): header fields, data, and the end-to-end CRC as it travels. -/
structure Packet where
  dst : Nat
  hop : Nat
  src : Nat
  kind : Nat
  ordered : Bool
  last : Bool
  addr : Nat
  len : Nat
  tid : Nat
  tseq : Nat
  poison : Nat
  data : List Byte
  crc : Nat
  /-- the reserved bits of the header, which no module on the path changes (R371): those of DST, of SRC, of ADDR,
  bytes 18 and 19 -/
  rsv : Nat
  deriving DecidableEq, Repr

/-- A flit waiting to be sent: its channel, hop class, payload, the packet it belongs to and its place in it. -/
structure TxFlit where
  vc : Nat
  hop : Nat
  payload : List Byte
  pkt : Packet
  idx : Nat
  deriving DecidableEq, Repr

/-- An entry of a link's replay buffer (R361, R367). -/
structure Replay where
  seq : Nat
  /-- the SEQ of its packet's first flit -/
  first : Nat
  flit : TxFlit
  /-- the pool that pays for its slot: 0 shared, else its hop class -/
  pool : Nat
  resends : Nat
  deriving DecidableEq, Repr

/-- A DATA flit in its receive slot; `pool` is the pool its credit came from and returns to: 0 shared, else its hop class. -/
structure RxFlit where
  seq : Nat
  vc : Nat
  pool : Nat
  payload : List Byte
  /-- device time at its ingress (R447) -/
  at_ : Nat
  deriving DecidableEq, Repr

/-- A whole packet that has arrived on a link and holds its receive slots (R372). -/
structure Arrived where
  vc : Nat
  pkt : Packet
  pools : List Nat
  /-- device time at the ingress of its last flit (R447) -/
  at_ : Nat
  deriving DecidableEq, Repr

structure LinkSt where
  txq : List (Nat × List TxFlit)
  lctrl : List (List Byte)
  resend : List Nat
  replay : List Replay
  txSeq : Nat
  /-- by channel, the SEQ of the first flit of the packet being sent -/
  txFirst : List (Nat × Nat)
  /-- credits in use: key 0 the shared pool of 15,360, key vc·32 + h a hop pool of 8 -/
  credits : List (Nat × Nat)
  rr : Nat
  rxNext : Nat
  held : List RxFlit
  /-- slots to return, by vc·32 + pool -/
  giveBack : List (Nat × Nat)
  /-- SEQs that a gap misses, each with the time of the last NACK that named it -/
  missing : List (Nat × Nat)
  ackSince : Nat
  goodSince : Nat
  /-- flits of packets that have not arrived whole, by channel -/
  partials : List (Nat × List RxFlit)
  arrived : List Arrived
  /-- packets held since the link went down, with the SEQ of their first flit and their channel, and since when
  (R364) -/
  downHeld : List (Nat × Nat × Packet)
  downSince : Option Nat
  /-- the SEQ of a LINK_FINAL that came while this end was still up -/
  early : Option Nat
  injState : Nat
  injLeft : Nat
  injStopped : Bool
  injLane : Option Nat
  /-- flits held back by REORDER, the newest first, each with whether its turn has come -/
  injHold : List (Replay × Bool)
  deriving DecidableEq, Repr

/-- DESIGN CHOICE: log entry 7. -/
def LinkSt.reset : LinkSt where
  txq := []
  lctrl := []
  resend := []
  replay := []
  txSeq := 0
  txFirst := []
  credits := []
  rr := 0
  rxNext := 0
  held := []
  giveBack := []
  missing := []
  ackSince := 0
  goodSince := 0
  partials := []
  arrived := []
  downHeld := []
  downSince := none
  early := none
  injState := 0
  injLeft := 0
  injStopped := false
  injLane := none
  injHold := []

/-- Whose traffic a network transaction is. -/
inductive Owner where
  | xfer (chan id slot : Nat)
  | descRead (ring index : Nat)
  | coll (ring index : Nat)
  | parity
  | fill
  | snapshot (ring index : Nat)
  deriving DecidableEq, Repr

/-- A transaction this module awaits an answer to: packets of a write not yet acknowledged, or a read (R374,
R375). `off` is the byte of the sequence that a read's data enters at. -/
structure Txn where
  tid : Nat
  /-- TSEQ of its first packet and the number of its packets: a transfer sends its parts one after another (R370) -/
  first : Nat
  count : Nat
  rank : Nat
  owner : Owner
  read : Bool
  packets : Nat
  off : Nat
  len : Nat
  deriving DecidableEq, Repr

/-- An entry of the injection log (R394, R401). -/
structure InjRec where
  time : Nat
  seq : Nat
  link : Nat
  mode : Nat
  deriving DecidableEq, Repr

/-- A message in the handcart replay store or the reorder store (R373). -/
structure HcStored where
  rank : Nat
  order : Nat
  pkt : Packet
  /-- for the replay store: waiting after a HOLD, and since when -/
  held : Option Nat
  chan : Option Nat
  tile : Option Nat
  /-- for the reorder store: the link that it arrived on -/
  link : Nat
  deriving DecidableEq, Repr

/-- A place on the die network: a physical tile's stream port by die, physical row and column, or a port die, 4 for PD0
and 5 for PD1. -/
structure MeshNode where
  die : Nat
  row : Nat
  col : Nat
  deriving DecidableEq, Repr

/-- A message on the die network (R18, R316): the tile that sent it (or none, for a channel), IDENT as written when it left,
and the places still before it, from the one whose outgoing link it waits at to its target's. -/
structure MeshMsg where
  from_ : Option Nat
  msg : HcMsg
  ident : Nat
  path : List MeshNode
  deriving DecidableEq, Repr

structure NetSt where
  links : List (Nat × LinkSt)
  /-- route banks: index (Table 10.16) to entry (Table 10.8) -/
  active : List (Nat × Nat)
  standby : List (Nat × Nat)
  /-- HOPS that neighbours have answered, by link, for the active and the standby bank: rank to HOPS, with the bytes
  received and the neighbour's rank under that bank as entries 2^20 and 2^20 + 1 -/
  peers : List (Nat × List (Nat × Nat))
  peersNext : List (Nat × List (Nat × Nat))
  /-- a ROUTE_LOAD in progress: ring, count, the status it will end with, and the bank it has read -/
  loading : Option (Nat × Nat × Nat × List (Nat × Nat))
  sendOrder : List (Nat × Nat)
  recvOrder : List (Nat × Nat)
  replay : List HcStored
  reorder : List HcStored
  txns : List Txn
  nextTid : Nat
  injLog : List InjRec
  /-- signals held for a later release (R408): step tag, attempt tag and signal -/
  early : List (Nat × Nat × HcMsg × Nat)
  /-- messages on the die network, in the order in which they joined the link they wait at -/
  mesh : List MeshMsg
  /-- KIND 8 messages waiting to become packets: destination and data -/
  ctrl : List (Nat × List Byte)
  /-- RETRANS of each link when the health monitor last read it, and when that was (R396) -/
  retrans : List (Nat × Nat)
  rateAt : Nat
  deriving DecidableEq, Repr

def NetSt.reset : NetSt := ⟨[], [], [], [], [], none, [], [], [], [], [], 0, [], [], [], [], [], 0⟩

/-! ### Step machinery (chapter 11) -/

/-- An armed or running step, as its STEP_ARM set it up (Table 11.4). -/
structure StepCfg where
  ring : Nat
  index : Nat
  step : Nat
  release : Nat
  schedule : Nat
  dataSeed : Nat
  record : Nat
  mbTotal : Nat
  eval : Bool
  replay : Bool
  trace : Bool
  attempt : Nat
  admitFirst : Nat
  admitCount : Nat
  late : Bool
  /-- where the trace goes, its pages, the tiles traced (R436, R441) -/
  traceBase : Nat
  traceSize : Nat
  traceFirst : Nat
  traceCount : Nat
  /-- the original record, for a replay (R435) -/
  original : List Byte
  deriving DecidableEq, Repr

/-- An admitted micro-batch (R410). -/
structure Mb where
  id : Nat
  tokens : Nat
  bytes : List Byte
  deriving DecidableEq, Repr

/-- An event log entry (R433). -/
structure LogRec where
  kind : Nat
  cause : Nat
  arg0 : Nat
  arg1 : Nat
  deriving DecidableEq, Repr

/-- What a collective operation does. -/
inductive CollKind where
  | gather
  | dropSync
  | gradExchange
  | reduceScatter
  | allGather
  | allToAll
  deriving DecidableEq, Repr

/-- Bytes that a collective operation holds: of which position, from which place on, each with its poison. -/
structure CollPart where
  pos : Nat
  off : Nat
  data : List (Byte × Bool)
  deriving DecidableEq, Repr

/-- A collective operation from its acceptance on: its descriptor, its queue channel, what its packets carry (R370), the
group as it stood with the positions present, the bytes of a chunk on the wire and of all chunks, and its tensors.
`heard` are the positions whose first packet has been checked, `got` the packets received from the predecessor. -/
structure Coll where
  ring : Nat
  index : Nat
  kind : CollKind
  chan : Option Nat
  seq : Nat
  group : Nat
  op : Nat
  ranks : List Nat
  self : Nat
  present : List Nat
  unit : Nat
  total : Nat
  src : Option Tensor
  dst : Option Tensor
  res : Option Tensor
  tid : Nat
  started : Bool
  heard : List Nat
  got : List Nat
  parts : List CollPart
  sent : Bool
  status : Nat
  flags : Nat
  poison : Bool
  /-- the absent positions whose bytes this member, their stand-in, has not supplied yet (R485) -/
  due : List Nat
  deriving DecidableEq, Repr

/-- A gradient chain of a group (R426): the running count, open since a descriptor without CONT. -/
structure Chain where
  group : Nat
  count : Nat
  deriving DecidableEq, Repr

/-- The step in progress: STATE code of Table 11.1 from RUNNING on is kept in TRN_STEP_STATUS. -/
structure RunSt where
  cfg : StepCfg
  releasedAt : Nat
  waited : Nat
  mbs : List Mb
  /-- each tile's idle counters at the release, by tile·16 + cause -/
  idleBase : List (Nat × Nat)
  reason : Nat
  diverged : Bool
  deriving DecidableEq, Repr

/-- MB_DROP ranges for the armed step (R491). -/
structure MbDrop where
  first : Nat
  count : Nat
  cause : Nat
  deriving DecidableEq, Repr

structure StepSt where
  armed : Option StepCfg
  admitted : List Mb
  drops : List MbDrop
  /-- the armed step's release time has come but it cannot start: since when (R407) -/
  held : Option Nat
  run : Option RunSt
  /-- step number and attempt of the latest release, for the tags of R408 -/
  lastStep : Nat
  lastAttempt : Nat
  mask : List Nat
  closed : Bool
  log : List LogRec
  carriages : List (Nat × Nat)
  chains : List Chain
  colls : List Coll
  /-- objects whose calibrator records the step has touched, with the format stored -/
  folded : List (Nat × Nat)
  /-- ranks whose degraded gather this step has posted -/
  degraded : List Nat
  /-- table ids built since the release (R237) -/
  builds : List Nat
  /-- records that the table builders are still rebuilding (R235) -/
  rebuilding : List Nat
  deriving DecidableEq, Repr

/-- DESIGN CHOICE: log entry 1. -/
def StepSt.reset : StepSt :=
  ⟨none, [], [], none, none, 0, 0, [], false, [], [], [], [], [], [], [], []⟩

/-! ### Commit gate, absent ranks, parity and repair (chapter 13) -/

/-- A gate party: its rank, when it was last heard, whether it is lost, and its vote for the step:
0 none, 1 CLEAN, 2 NOT_CLEAN, with the count it covers. -/
structure Party where
  rank : Nat
  heard : Nat
  lost : Bool
  vote : Nat
  covered : Nat
  adopted : Bool
  deriving DecidableEq, Repr

structure GateSt where
  /-- when the gate tree began, at enable -/
  since : Nat
  parentHeard : Nat
  parentLost : Bool
  backupLost : Bool
  /-- children, adopted ones among them, that have been heard from -/
  children : List Party
  sentClean : Bool
  /-- a decision has come, and whether it was ABORT -/
  decided : Bool
  refused : Bool
  isolatedSince : Option Nat
  /-- this module has taken the root's role (R469) -/
  actRoot : Bool
  deriving DecidableEq, Repr

/-- DESIGN CHOICE: log entry 7. -/
def GateSt.reset : GateSt := ⟨0, 0, false, false, [], false, false, false, none, false⟩

/-- An entry of the absent table, or an ABSENT that waits for its release (R484, R494). -/
structure AbsentRec where
  ring : Nat
  index : Nat
  rank : Nat
  clear : Bool
  hold : Bool
  spare : Nat
  step : Nat
  active : Bool
  /-- the release at which the rank became absent first: the step before it is the rank's last commit (R486) -/
  first : Nat
  deriving DecidableEq, Repr

/-- A fill string that this module contributes to or receives (R486, R487): its entry of the parity group array, the
position being rebuilt, the spare, the erased positions it is decoded for, its start, and the side read for data. -/
structure FillChain where
  entry : Nat
  want : Nat
  spare : Nat
  lost : List Nat
  gen : Nat
  side : Nat
  deriving DecidableEq, Repr

/-- A partial that is arriving on the PARITY channel, or waits for its turn: what its ADDR names, its sender, whether
it is a zero marker, and its packets by place, once the last is known their number. -/
structure Partial where
  head : Nat
  src : Nat
  zero : Bool
  parts : List (Nat × List (Byte × Bool))
  count : Option Nat
  deriving DecidableEq, Repr

/-- A snapshot in progress (R479, R495): its descriptor, or ring 2^16 and a number of its own for one taken on risk, whether its
step has committed and its image has been sent, whether the host refuses it, and whether it read poison. -/
structure Snap where
  ring : Nat
  index : Nat
  ready : Bool
  sent : Bool
  refused : Bool
  poison : Bool
  deriving DecidableEq, Repr

structure ResSt where
  absent : List AbsentRec
  /-- the rank that this module fills as its spare -/
  fill : Option Nat
  chains : List FillChain
  /-- fill pieces passed on or written, by ((entry·32 + position)·2 + side)·2^16 + piece -/
  passed : List Nat
  exhausted : List Nat
  /-- since three erasures: whether a SNAPSHOT_LOAD has restored the module's shards, and the groups whose parity a PARITY_INIT
  has rebuilt after it (R487, R497) -/
  restored : Bool
  rebuilt : List Nat
  /-- granules of stacked memory that a read has delivered with poison, each with the side committed then, as 2·granule + side,
  and whether a channel has been retired: what marks committed pieces for repair (R490) -/
  marked : List Nat
  chanMarked : Bool
  /-- a release has found repairs of committed pieces still running, and its tiles are held at their entry (R490) -/
  repairing : Bool
  /-- pieces marked by the retirement, by side·2^16 + piece -/
  pieces : List Nat
  /-- pieces of the parity update, and of a PARITY_INIT, passed on or written, by entry·2^19 + piece·8 + kind -/
  written : List Nat
  partials : List Partial
  /-- pieces of a lost position that this module has asked its parity group for, and those that have come, by the ADDR of their
  PARITY packets (R485, R490) -/
  asked : List Nat
  decoded : List (Nat × List (Byte × Bool))
  /-- trailing-hour samples of the health monitor, newest first, one list of eight per second (R477) -/
  samples : List (List Nat)
  lastCounts : List Nat
  lifetime : List Nat
  /-- saturations over calibrator records that step boundaries have passed to the health monitor since it last read (R85) -/
  sats : Nat
  snap : List Snap
  /-- a SNAPSHOT_LOAD whose image has been written, with the digest of its head and its step -/
  load : Option (Nat × Nat × List Byte × Nat)
  deriving DecidableEq, Repr

def ResSt.reset : ResSt := ⟨[], none, [], [], [], false, [], [], false, false, [], [], [], [], [], [], [], [], 0, [], none⟩

/-! ### Time (chapter 12) -/

/-- What the time block keeps of each link: the latest SYNC's announcement, the stamps to echo, the offset in
units of 2^-32 ns, and how many SYNC intervals have passed without one. -/
structure LinkTime where
  valid : Bool
  prio : Nat
  cls : Nat
  hops : Nat
  gmRank : Nat
  t1 : Nat
  t2 : Nat
  offset : Int
  missed : Nat
  deriving DecidableEq, Repr

def LinkTime.zero : LinkTime := ⟨false, 255, 2, 0, 0, 0, 0, 0, 0⟩

structure TimeSt where
  ns : Nat
  frac : Nat
  /-- offset still to be slewed out, in units of 2^-32 ns (R443) -/
  slew : Int
  links : List (Nat × LinkTime)
  parent : Option Nat
  /-- priority and class of the grandmaster followed last, which a module in HOLDOVER goes on announcing -/
  gmPrio : Nat
  gmCls : Nat
  lockCount : Nat
  /-- the module has been LOCKED since P -/
  wasLocked : Bool
  lockedAt : Option Nat
  lastLocked : Option Nat
  holdSince : Nat
  holdErr : Nat
  pps : Nat
  pageSeq : Nat
  ptm : Nat
  ptmAt : Nat
  /-- levels of PPS_OUT and REF10M_OUT (R453, R544) -/
  ppsHigh : Bool
  refHigh : Bool
  deriving DecidableEq, Repr

/-- DESIGN CHOICE: log entry 7. -/
def TimeSt.reset : TimeSt :=
  ⟨0, 0, 0, [], none, 255, 2, 0, false, none, none, 0, 0, 0, 0, 0, 0, false, false⟩

/-! ### Flash, boot and identity (chapter 14) -/

/-- A flash device (R502): its image area, its health records, newest last, its identity area and its
monotonic counter. -/
structure Flash where
  image : List Byte
  health : List (List Byte)
  identity : List Byte
  counter : Nat
  deriving DecidableEq, Repr

def Flash.blank : Flash := ⟨[], [], [], 0⟩

/-- A FLASH_WRITE in progress. -/
structure FlashJob where
  ring : Nat
  index : Nat
  image : List Byte
  deriving DecidableEq, Repr

structure BootSt where
  flashA : Flash
  flashB : Flash
  /-- the image that RI fields were loaded from -/
  image : List Byte
  pciId : List Byte
  write : Option FlashJob
  healthAt : Nat
  healthDirty : Bool
  healthToB : Bool
  /-- seconds of power-on, and safe-state trips, over the module's life -/
  powerSecs : Nat
  trips : Nat
  fallbackPost : Bool
  publicKey : List Byte
  /-- the PUF contents read at P and the helper data, from which the private key follows -/
  puf : Nat
  helper : List Byte
  /-- how far the SPDM connection has come (0 none, 1 version, 2 capabilities, 3 algorithms), and the messages that
  signatures cover: of the connection, of the certificates and of the measurements (R514) -/
  spdm : Nat
  vca : List Byte
  certs : List Byte
  measured : List Byte
  ovenWarm : Bool
  deriving DecidableEq, Repr

/-- DESIGN CHOICE: log entry 1. -/
def BootSt.reset : BootSt :=
  ⟨Flash.blank, Flash.blank, [], [], none, 0, false, false, 0, 0, false, [], 0, [], 0, [], [], [], false⟩

/-! ### Input stage, dies and pace (chapters 01, 13, 15) -/

/-- A repair of a column (R16): the logical tile that failed, and whether its copy runs. -/
structure Repair where
  tile : Nat
  row : Nat
  copying : Bool
  deriving DecidableEq, Repr

structure FabSt where
  present : Bool
  hotSwap : Bool
  powered : Bool
  breakerOpen : Bool
  /-- a limit has been detected and the safe state has not yet completed: its cause, and whether the breaker
  must open (R474) -/
  trip : Option (Nat × Bool)
  limiter : Bool
  limitSince : Nat
  limitMs : Nat
  ripplePost : Option Nat
  /-- the last three readings of each die sensor, newest first (R465) -/
  dieTemps : List (Nat × List Nat)
  rails : List (Nat × Nat)
  /-- since when each short region again holds the target pace, by die·64 + region (R25) -/
  paceHeld : List (Nat × Nat)
  margins : List (Nat × Nat)
  /-- FIRST_ROW by d·64 + c, where it is not 64 (R14, R40) -/
  spareMap : List (Nat × Nat)
  /-- bad tiles by d·4160 + 64·row + column (R41) -/
  bad : List Nat
  repairs : List Repair
  parked : Bool
  /-- when the tiles were reset last, where a first scrub pass begins (R115) -/
  scrubFrom : Nat
  alertPulse : Bool
  /-- when the last event of class 0x6 began its pulse (R543) -/
  alertSince : Nat
  /-- the input power averaged over 10 ms exceeds LIMIT (R529) -/
  overLimit : Bool
  slotId : Nat
  deriving DecidableEq, Repr

/-- DESIGN CHOICE: log entry 1. -/
def FabSt.reset : FabSt :=
  ⟨true, true, false, false, none, false, 0, 0, none, [], [], [], [], [], [], [], false, 0, false, 0, false, 0⟩

end Sys2Proof.Machine
end

