-- ==== Sys2Proof/Machine/State.lean ====
section
/-! DEFINITION. The whole state of the module and its value at reset. -/

namespace Sys2Proof.Machine

/-- Why the machine stops. Every error the spec names is a status, an event or a completion, so no meaning
raises a fault. DESIGN CHOICE: log entry 12. -/
inductive Fault where
  /-- ST_INTERNAL 0x7000 (R354), an inconsistency inside the module: raised by nobody, since the model has
  none. Safe. -/
  | internal
  deriving DecidableEq, Repr

/-- Why a command is refused. DESIGN CHOICE: log entry 12. -/
inductive Refusal where
  /-- The command has no meaning yet; raised by arms of `exec` only. Safe. -/
  | notModelled (mnemonic : String)
  deriving DecidableEq, Repr

/-- The module. -/
structure State where
  /-- commands waiting, first in, first out -/
  pending : List Instr
  /-- BAR0 registers with a home of their own (R326) -/
  regs : RegFile
  /-- tiles by logical number, those that differ from a tile at reset (R13) -/
  tiles : List (Nat × Tile)
  /-- stacked memory with its poison tags (R253, R264) -/
  stack : Mem
  /-- stacked-memory controllers, generators and object moves -/
  mem : MemSt
  /-- key/value reservations (R159) -/
  kv : List KvRes
  host : HostSt
  /-- stream channels by unit·2048 + engine·16 + channel (R290) -/
  chans : List (Nat × Chan)
  /-- result-tree inputs by (channel·16 + level)·16384 + node (R122) -/
  tree : List (Nat × List TreeIn)
  net : NetSt
  step : StepSt
  gate : GateSt
  res : ResSt
  time : TimeSt
  boot : BootSt
  fab : FabSt
  /-- the model's own: how many free values have been drawn -/
  drawn : Nat
  /-- what the module has sent out, newest first -/
  out : List Output
  deriving DecidableEq, Repr

/-- The module with every class at its P entry (R523), before the boot sequence: power is not applied, both
flash devices are blank. DESIGN CHOICE: log entry 1. -/
def State.reset : State where
  pending := []
  regs := RegFile.atReset
  tiles := []
  stack := Mem.empty
  mem := MemSt.reset
  kv := []
  host := HostSt.reset
  chans := []
  tree := []
  net := NetSt.reset
  step := StepSt.reset
  gate := GateSt.reset
  res := ResSt.reset
  time := TimeSt.reset
  boot := BootSt.reset
  fab := FabSt.reset
  drawn := 0
  out := []

end Sys2Proof.Machine
end

