-- ==== Sys2Proof/Machine/Ops.lean ====
section
/-! DEFINITION. Operations on the whole state that many meanings share: tiles, events, completions, effects of
a tile's work, and reads and writes of stacked memory. -/

namespace Sys2Proof.Machine

/-! ### Plain accessors -/

/-- Device time in nanoseconds (R442). -/
def State.now (s : State) : Nat := s.time.ns

def State.rank (s : State) : Nat := s.regs.get Reg.FAB_SELF_RANK_RANK

def State.enabled (s : State) : Bool := s.regs.get Reg.HIF_DEV_STATUS_STATE == 2

/-- HIF_DEV_CTL.ENABLE, which locks the RWL fields (R351). -/
def State.locked (s : State) : Bool := s.regs.flag Reg.HIF_DEV_CTL_ENABLE

/-- TRN_STEP_STATUS.STATE (Table 11.1). -/
def State.stepState (s : State) : Nat := s.regs.get Reg.TRN_STEP_STATUS_STATE

def State.seed (s : State) : Nat := s.regs.get Reg.TRN_JOB_SEED_SEED

def State.evalStep (s : State) : Bool := s.regs.flag Reg.TRN_STEP_STATUS_EVAL

def State.tile (s : State) (t : Nat) : Tile := Tbl.get s.tiles Tile.reset t

def State.setTile (s : State) (t : Nat) (x : Tile) : State := { s with tiles := Tbl.put s.tiles t x }

def State.chan (s : State) (c : Nat) : Chan := Tbl.get s.chans Chan.reset c

def State.setChan (s : State) (c : Nat) (x : Chan) : State := { s with chans := Tbl.put s.chans c x }

def State.memCh (s : State) (c : Nat) : MemCh := Tbl.get s.mem.chans MemCh.reset c

def State.setMemCh (s : State) (c : Nat) (x : MemCh) : State :=
  { s with mem := { s.mem with chans := Tbl.put s.mem.chans c x } }

def State.link (s : State) (l : Nat) : LinkSt := Tbl.get s.net.links LinkSt.reset l

def State.setLink (s : State) (l : Nat) (x : LinkSt) : State :=
  { s with net := { s.net with links := Tbl.put s.net.links l x } }

def State.setReg (s : State) (f : Field) (v : Nat) : State := { s with regs := s.regs.set f v }

def State.setRegAt (s : State) (f : Field) (i v : Nat) : State := { s with regs := s.regs.setAt f i v }

def State.setFlag (s : State) (f : Field) (b : Bool) : State := { s with regs := s.regs.setFlag f b }

def State.addReg (s : State) (f : Field) (n : Nat) : State := { s with regs := s.regs.add f n }

def State.addRegAt (s : State) (f : Field) (i n : Nat) : State := { s with regs := s.regs.addAt f i n }

/-- Send something out of the module. DESIGN CHOICE: log entry 5. -/
def State.emit (s : State) (o : Output) : State := { s with out := o :: s.out }

/-- A free value (R354 and others leave one open): a number nothing constrains, fresh at each draw. DESIGN CHOICE: log entry 9. -/
def State.draw (s : State) : Nat × State := (Config.freeNat s.drawn, { s with drawn := s.drawn + 1 })

/-- Apply `f` while the list lasts. -/
def State.each {α : Type} (s : State) (l : List α) (f : State → α → State) : State := l.foldl f s

/-! ### Events (R342, R343) -/

/-- The index of the newest queued event of class 0x1. -/
def newestWarning (l : List EvRec) : Option Nat :=
  ((List.range l.length).filter fun i => match l[i]? with
    | some e => St.cls e.ev.status == 1
    | none => false).getLast?

/-- Put an event into the on-chip queue, or drop one (R343). -/
def HostSt.pushEv (h : HostSt) (e : EvRec) : HostSt :=
  if h.events.length < 1024 then { h with events := h.events ++ [e] }
  else
    let dropped := h.dropped + 1
    if St.cls e.ev.status = 1 then { h with dropped := dropped }
    else match newestWarning h.events with
      | some i => { h with events := lset h.events i e, dropped := dropped }
      | none => { h with dropped := dropped }

/-- HIF_EVENT_STATUS after an event is put into a full queue (R343). -/
def eventStatus (h : HostSt) (e : Ev) (r : RegFile) : RegFile :=
  if h.events.length < 1024 then r
  else
    let r := r.add Reg.HIF_EVENT_STATUS_DROPPED 1
    if St.cls e.status ≠ 1 ∧ newestWarning h.events = none then r.set Reg.HIF_EVENT_STATUS_SEVERE 1 else r

/-- Post an event. An event of class 0x6 also pulses MGMT_ALERT_N (R543). -/
def State.post (s : State) (e : Ev) : State :=
  let s1 := { s with
    regs := eventStatus s.host e s.regs
    host := s.host.pushEv ⟨e, s.regs.get Reg.TRN_STEP_NUM_STEP, s.now⟩ }
  if St.cls e.status = 6 then
    { s1 with
      fab := { s1.fab with
        alertPulse := true
        alertSince := s.now }
      out := .alert true :: s1.out }
  else s1

/-- Post a status with its source, place and detail (Table 09.8). -/
def State.event (s : State) (source status loc detail : Nat) : State := s.post ⟨status, 0, source, loc, detail⟩

/-! ### Stacked memory -/

/-- Where a stacked-memory offset lies (R254). -/
structure Loc where
  stack : Nat
  channel : Nat
  granule : Nat
  bank : Nat
  row : Nat
  col : Nat
  byte : Nat
  deriving DecidableEq, Repr

def locate (a : Nat) : Loc :=
  let d := a / 0x3000000000
  let g := (a - d * 0x3000000000) / 256
  let l := g / 384
  { stack := 3 * d + g % 3
    channel := g / 3 % 128
    granule := l
    bank := (l % 16) ^^^ (l / 4096 % 16)
    row := l / 64 % 32768
    col := l / 16 % 4
    byte := a % 256 }

/-- The channel's number over the module. -/
def Loc.chan (l : Loc) : Nat := l.stack * 128 + l.channel

/-- Base of a retirement area (R267). -/
def areaBase (area : Nat) : Nat := if area = 0 then 0x2FE0000000 else 0x8FE0000000

/-- The offset that a byte of stacked memory is kept under: a byte of the retirement area in use belongs to the
retired channel, whose granules it holds (R267, R268). -/
def RegFile.placed (r : RegFile) (a : Nat) : Nat :=
  let base := areaBase (r.get Reg.MEM_RETIRE_STATUS_AREA)
  if r.get Reg.MEM_RETIRE_STATUS_USED = 1 ∧ base ≤ a ∧ a < base + 0x20000000 then
    let k := r.get Reg.MEM_RETIRE_STATUS_STACK
    k / 3 * 0x3000000000 + 256 * ((a - base) / 256 * 384 + 3 * r.get Reg.MEM_RETIRE_STATUS_CHANNEL + k % 3) + a % 256
  else a

/-- A byte with its poison. -/
abbrev PByte := Byte × Bool

def clean (bs : List Byte) : List PByte := bs.map fun b => (b, false)

/-- A range cut at the boundaries of 64 B accesses: offset and length of each part. -/
def accessesOf (a n : Nat) : List (Nat × Nat) :=
  (blocksOf 64 a n).map fun g => (max a (64 * g), min (a + n) (64 * g + 64) - max a (64 * g))

/-- Where a byte of stacked memory physically lies: a granule of the retired channel lies in the area (R267). -/
def RegFile.home (r : RegFile) (a : Nat) : Nat :=
  let l := locate a
  if r.get Reg.MEM_RETIRE_STATUS_USED = 1 ∧ l.stack = r.get Reg.MEM_RETIRE_STATUS_STACK ∧
      l.channel = r.get Reg.MEM_RETIRE_STATUS_CHANNEL then
    areaBase (r.get Reg.MEM_RETIRE_STATUS_AREA) + 256 * l.granule + a % 256
  else a

/-- The channel that serves an address. -/
def State.chanOf (s : State) (a : Nat) : Nat := (locate (s.regs.home a)).chan

/-- WHERE of a stacked-memory event (Table 09.8). -/
def memWhere (chan : Nat) : Nat := chan / 128 + 16 * (chan % 128)

/-- A channel's entries of the last second (R266, R268): older ones no longer count. -/
def MemCh.fresh (c : MemCh) (now : Nat) : MemCh :=
  { c with
    laneErrs := c.laneErrs.filter fun x => decide (now < x.1 + 1000000000)
    uncorrAt := c.uncorrAt.filter fun t => decide (now < t + 1000000000) }

/-- An error confined to one lane: at the 64th within a second the lane is due to be marked, or counts as failed beside the
marked one (R266, R268). -/
def MemCh.noteLane (c : MemCh) (now lane : Nat) : MemCh :=
  let l := (now, lane) :: (c.fresh now).laneErrs
  { c.fresh now with
    laneErrs := l
    due := if 64 ≤ (l.filter fun x => x.2 == lane).length then NSet.add c.due lane else c.due }

/-- An uncorrectable error: at the 16th within a second the channel must be retired (R268). -/
def MemCh.noteUncorr (c : MemCh) (now : Nat) : MemCh :=
  let l := now :: (c.fresh now).uncorrAt
  { c.fresh now with
    uncorrAt := l
    failed := c.failed || decide (16 ≤ l.length) }

/-- Count and post an uncorrectable error (R265, R270); FLAGS [0] marks one that the scrub found. An error confined to a lane
beside the marked one counts against that lane too. -/
def State.memUncorr (s : State) (flags a : Nat) (lane : Option Nat) : State :=
  let k := s.chanOf a
  let c := (s.memCh k).noteUncorr s.now
  let c1 := match lane with
    | some l => c.noteLane s.now l
    | none => c
  (s.setMemCh k { c1 with
    uncorrected := min (2 ^ 16 - 1) (c.uncorrected + 1)
    scrubUncorr := if flags = 1 then min 255 (c.scrubUncorr + 1) else c.scrubUncorr }).post
      ⟨St.memUncorr, flags, 2, memWhere k, a⟩

/-- Count a corrected error and its lane (R265, R266). -/
def State.memFixed (s : State) (a lane : Nat) : State :=
  let k := s.chanOf a
  let c := (s.memCh k).noteLane s.now lane
  s.setMemCh k { c with corrected := min (2 ^ 32 - 1) (c.corrected + 1) }

/-- The lane of a mask that holds one lane only. -/
def oneLane (mask : Nat) : Option Nat := if mask ≠ 0 ∧ mask = 2 ^ Nat.log2 mask then some (Nat.log2 mask) else none

/-- The damaged lanes of an access with an error; where they are not known, any. -/
def State.hurtLanes (s : State) (w : Nat) : Nat :=
  let m := Tbl.get s.mem.lanes 0 w
  if m = 0 then 2 ^ 18 - 1 else m

/-- Can the code no longer correct the errors that wait in access `w` of address `a`: errors in two lanes, or in a
lane beside the marked one (R263, R266)? -/
def State.beyondCode (s : State) (w a : Nat) : Bool :=
  NSet.has s.stack.uncorr w ||
    (NSet.has s.stack.single w && match (s.memCh (s.chanOf a)).mark with
      | some m => s.hurtLanes w != 2 ^ m
      | none => false)

/-- What a read receives of damaged bytes: the bits that the damaged lanes carry, bit i of a beat on lane i, are open.
DESIGN CHOICE: log entry 60. -/
def receivedBytes (mask f : Nat) (bs : List Byte) : List Byte :=
  bs.mapIdx fun i b => b ^^^ BitVec.ofNat 8 ((f / 2 ^ (8 * i) % 256) &&& (mask / 2 ^ (8 * (i % 2)) % 256))

/-- The errors that a 64 B access meets (R265): the memory holds them corrected, or as received with the poison pattern. -/
def State.meetErrors (s : State) (flags a : Nat) : State :=
  let w := s.regs.placed a / 64
  if s.beyondCode w a then
    let f := s.draw
    let bs := receivedBytes (s.hurtLanes w) f.1 (s.stack.read (64 * w) 64)
    ({ f.2 with
      stack := { s.stack with
        cells := Cells.write s.stack.cells (64 * w) bs
        uncorr := NSet.del s.stack.uncorr w
        single := NSet.del s.stack.single w
        poison := NSet.add s.stack.poison w }
      mem := { s.mem with lanes := Tbl.del s.mem.lanes w } }).memUncorr flags a (oneLane (s.hurtLanes w))
  else if NSet.has s.stack.single w then
    ({ s with
      stack := { s.stack with single := NSet.del s.stack.single w }
      mem := { s.mem with lanes := Tbl.del s.mem.lanes w } }).memFixed a (Nat.log2 (s.hurtLanes w))
  else s

/-- Note poisoned granules for repair, each with the side that is committed now (R490): 2·granule + side. -/
def State.markGranules (s : State) (gs : List Nat) : State :=
  if s.regs.flag Reg.TRN_STEP_STATUS_COMMITTED_VALID then
    { s with res := { s.res with
      marked := NSet.addAll s.res.marked (gs.map fun g => 2 * g + s.regs.get Reg.TRN_COMMITTED_STEP % 2) } }
  else s

/-- Read stacked memory: bytes with their poison, and the state with the errors met and the poisoned granules
noted for repair (R264, R265, R490). -/
def State.stackRead (s : State) (a n : Nat) : List PByte × State :=
  let s1 := (accessesOf a n).foldl (fun s p => s.meetErrors 0 p.1) s
  let bytes := (List.range n).map fun i =>
    let q := s1.regs.placed (a + i)
    (s1.stack.byte q, s1.stack.tag q)
  let bad := (accessesOf a n).filter fun p => s1.stack.tag (s1.regs.placed p.1)
  (bytes, s1.markGranules (bad.map fun p => p.1 / 64))

/-- Write one part of a 64 B access (R256, R264, R265). -/
def State.stackPut (s : State) (a : Nat) (bs : List Byte) (p : Bool) : State :=
  let q := s.regs.placed a
  let s1 := if bs.length = 64 ∧ a % 64 = 0 then
      { s with
        stack := { s.stack with
          uncorr := NSet.del s.stack.uncorr (q / 64)
          single := NSet.del s.stack.single (q / 64) }
        mem := { s.mem with lanes := Tbl.del s.mem.lanes (q / 64) } }
    else s.meetErrors 0 a
  { s1 with stack := s1.stack.writeRaw q bs p }

/-- Write stacked memory; each 64 B granule is poisoned when a byte written into it is (R114, R305). -/
def State.stackWrite (s : State) (a : Nat) (bs : List PByte) : State :=
  (accessesOf a bs.length).foldl (fun s p =>
    let part := (bs.drop (p.1 - a)).take p.2
    s.stackPut p.1 (part.map Prod.fst) (part.any Prod.snd)) s

/-- A write of a structure that the module keeps in stacked memory for itself. -/
def State.poke (s : State) (a : Nat) (bs : List Byte) : State := s.stackWrite a (clean bs)

/-- May accesses to this channel proceed (R268, R521)? -/
def State.memReady (s : State) (a : Nat) : Bool :=
  !s.mem.selfRefresh && !s.mem.off && !(s.mem.poisoning && s.regs.home a != a)

/-- Has the channel a slot for a request to this bank (R259)? -/
def MemCh.slotFree (r : RegFile) (c : MemCh) (bank : Nat) : Bool :=
  decide (c.slots.length < 64) && decide ((c.slots.filter fun q => (locate (r.home q.addr)).bank == bank).length < 12)

/-- Can a request for one access enter its channel now (R259, R268)? -/
def State.memAdmits (s : State) (a : Nat) : Bool :=
  let l := locate (s.regs.home a)
  s.memReady a && (s.memCh l.chan).slotFree s.regs l.bank

/-- Can the accesses of a range of stacked memory enter their channels? If not, their source waits on a handshake and takes
no slot (R259). DEDUCED: log entry 42. -/
def State.memOpen (s : State) (a n : Nat) : Bool :=
  (!s.mem.selfRefresh && !s.mem.off && !s.mem.poisoning && s.mem.chans.all fun c => decide (c.2.slots.length < 12)) ||
    (accessesOf a n).all fun p => s.memAdmits p.1

/-- Read ranges of stacked memory through its checks (R264, R265), for a structure that the module then takes from there. -/
def State.touchStack (s : State) (l : List (Nat × Nat)) : State := l.foldl (fun s p => (s.stackRead p.1 p.2).2) s

/-- Can every access of some ranges of stacked memory enter its channel (R259)? -/
def State.spansOpen (s : State) (l : List (Nat × Nat)) : Bool := l.all fun p => s.memOpen p.1 p.2

/-! ### Calibrator folds (R83) -/

/-- Fold one tensor's magnitude and counts into STEP_AMAX, SAT_COUNT and NONFINITE_COUNT of its record (Table 02.11). -/
def foldRecord (m : Mem) (base : Nat) (c : CalFold) : Mem :=
  let a := base + 128 * (c.obj % 2 ^ 20)
  let amax := max (m.nat (a + 72) 4) c.amax
  let sat := min (2 ^ 32 - 1) (m.nat (a + 76) 4 + c.sats)
  let nonfin := min (2 ^ 32 - 1) (m.nat (a + 80) 4 + c.nonfin)
  let m := m.writeRaw (a + 72) (leBytes 4 amax) false
  let m := m.writeRaw (a + 76) (leBytes 4 sat) false
  m.writeRaw (a + 80) (leBytes 4 nonfin) false

/-! ### Completion records (R338, R340) -/

def State.ringSize (s : State) (r : Nat) : Nat := s.regs.getAt Reg.HIF_SQ_CTL_SIZE r

/-- Is there a place in the coalescer for a record of completion ring `cq` (R340)? -/
def HostSt.room (h : HostSt) (cq : Nat) : Bool :=
  h.queue.length < 4096 && (h.queue.filter fun r => r.cq == cq).length < 1024

/-- Put a record into the coalescer, or have it wait for a place (R340). -/
def State.pushCpl (s : State) (c : CplRec) : State :=
  if s.host.room c.cq then
    { s with
      host := { s.host with queue := s.host.queue ++ [c] }
      regs := s.regs.set Reg.HIF_CPL_STATUS_MAX_QUEUED
        (max (s.regs.get Reg.HIF_CPL_STATUS_MAX_QUEUED) (s.host.queue.length + 1)) }
  else
    { s with
      host := { s.host with waiting := s.host.waiting ++ [c] }
      regs := s.regs.add Reg.HIF_CPL_STATUS_FULL_WAITS 1 }

/-- Has the driver raised PRODUCED beyond `j` + SIZE while the module owns `j` (R334)? -/
def State.rearmed (s : State) (ring j : Nat) : Bool :=
  let ahead := ((Tbl.get s.host.rings RingSt.zero ring).produced + 2 ^ 32 - j % 2 ^ 32) % 2 ^ 32
  decide (s.ringSize ring < ahead ∧ ahead < 2 ^ 31)

def HostSt.desc (h : HostSt) (ring j : Nat) : Option Desc := h.descs.find? fun d => d.ring == ring && d.index == j

/-- No submission ring has this number: the ring of work whose descriptor a reset kind has made the module forget (R552). -/
def noRing : Nat := 256

def HostSt.dropDesc (h : HostSt) (ring j : Nat) : HostSt :=
  { h with descs := h.descs.filter fun d => !(d.ring == ring && d.index == j) }

/-- A record as it is written: an early re-arm of its descriptor gives ST_REARM_EARLY in place of ST_OK and sets REARM
(R334). -/
def CplRec.rearm (c : CplRec) (re : Bool) : CplRec :=
  if re then { c with
    status := if c.status = St.ok then St.rearmEarly else c.status
    flags := c.flags + 32 }
  else c

/-- The unit that carries a descriptor out, for what waits while its record finds no place (R340): a STREAM's channel, or the
unit of its block. -/
def Desc.unit (d : Desc) : Nat :=
  let n := fun i => leNat ((d.body.drop i).take 1)
  if d.opcode = 1 then 16 + n 8 % 8 * 2048 + n 9 % 128 * 16 + n 10 % 16
  else if d.opcode = 2 then 1
  else if d.opcode = 3 ∨ d.opcode = 4 then 2
  else if 5 ≤ d.opcode ∧ d.opcode ≤ 9 then 3
  else if d.opcode = 10 then 4
  else if 0x10 ≤ d.opcode ∧ d.opcode ≤ 0x15 then 5
  else if 0x20 ≤ d.opcode ∧ d.opcode ≤ 0x22 then 6
  else if 0x28 ≤ d.opcode ∧ d.opcode ≤ 0x2C then 7
  else 0

/-- Does the unit hold a record that has found no place yet (R340)? It goes on with nothing else meanwhile. -/
def HostSt.stuck (h : HostSt) (unit : Nat) : Bool := h.waiting.any fun c => c.unit == unit

/-- Records that are not written yet. -/
def HostSt.unwritten (h : HostSt) : List CplRec := h.queue ++ h.waiting

/-- Complete a descriptor with a status, completion flags [4:0] and a result (R338). -/
def State.complete (s : State) (ring j status flags result : Nat) : State :=
  match s.host.desc ring j with
  | none => s
  | some d =>
    ({ s with host := s.host.dropDesc ring j }).pushCpl
      ⟨s.regs.getAt Reg.HIF_SQ_CTL_CQ ring, status, flags, d.opcode, ring, j, d.tag, result, s.now, d.flags.testBit 1, d.unit⟩

/-! ### Physical tiles and their spares -/

/-- Physical row of a logical tile (R14). -/
def State.physRow (s : State) (t : Nat) : Nat :=
  let first := Tbl.get s.fab.spareMap 64 (t / 4096 * 64 + t % 64)
  if t / 64 % 64 < first then t / 64 % 64 else t / 64 % 64 + 1

/-- Index of a physical tile in FAB_TILE_BAD, over the four dies (R41). -/
def State.physTile (s : State) (t : Nat) : Nat := t / 4096 * 4160 + 64 * s.physRow t + t % 64

/-- A tile's column, by d·64 + c. -/
def columnOf (t : Nat) : Nat := t / 4096 * 64 + t % 64

/-- Does a repair of the column wait for the step boundary, or run? -/
def State.underRepair (s : State) (col : Nat) : Bool := s.fab.repairs.any fun r => columnOf r.tile == col

/-- A column's spare, in physical row 64, is good, unused and not promised to a repair (R14, R15). -/
def State.spareFree (s : State) (col : Nat) : Bool :=
  Tbl.get s.fab.spareMap 64 col == 64 && !s.underRepair col && !NSet.has s.fab.bad (col / 64 * 4160 + 4096 + col % 64)

/-- Set or clear REPAIR_PENDING on every tile of a column (R129). -/
def State.markColumn (s : State) (col : Nat) (b : Bool) : State :=
  s.each (List.range 64) fun s y =>
    let t := col / 64 * 4096 + 64 * y + col % 64
    s.setTile t { s.tile t with repairPending := b }

/-- A tile's physical tile is bad, and the repair of its column waits for the step boundary, or the module posts that no spare is
left, which the answer says (R15, R102). A tile already retired stays as it is. DEDUCED: log entry 61. -/
def State.spareTile (s : State) (t : Nat) : State × Bool :=
  if NSet.has s.fab.bad (s.physTile t) then (s, false)
  else
    let bad := NSet.add s.fab.bad (s.physTile t)
    let s1 := { s with fab := { s.fab with bad := bad }, boot := { s.boot with healthDirty := true } }
    if s1.spareFree (columnOf t) = false then (s1.event 0 St.spareExhausted 0 t, true)
    else ({ s1 with fab := { s1.fab with
      repairs := s1.fab.repairs ++ [(⟨t, t / 64 % 64, false⟩ : Repair)] } }.markColumn (columnOf t) true, false)

/-- An effect as far as it leaves the step's verdict alone: events, calibrator records, counts, a tile's retirement. An eval step
folds nothing (R431). A record that values of both E4M3 and E5M2 are folded into in one step takes the M of E4M3, in whatever
order they come. DESIGN CHOICE: log entry 55. -/
def State.softEffect (s : State) (e : Eff) : State :=
  match e with
  | .ev e => s.post e
  | .fold c =>
    if s.evalStep then s
    else
      let obj := c.obj % 2 ^ 20
      let base := s.regs.get Reg.CMP_CAL_BASE_BASE * 128
      let fmt := min c.fmt (Tbl.get s.step.folded c.fmt obj)
      let s1 := (s.stackRead (base + 128 * obj) 128).2
      { s1 with
        stack := foldRecord s1.stack base c
        step := { s1.step with folded := Tbl.put s1.step.folded obj fmt } }
  | .decodeErrs n => s.addReg Reg.CMP_CTAB_STATUS_DECODE_ERRORS n
  | .notClean _ _ => s
  | .retire t => (s.spareTile t).1
  | .stackRead _ _ => s

/-! ### Control messages (KIND 8)

The spec gives their content and not their layout; the first byte of the model's messages names them. -/

namespace CT
def linkFinal : Nat := 0
def probe : Nat := 1
def answer : Nat := 2
/-- DESIGN CHOICE: log entry 29. -/
def vote : Nat := 3
def decision : Nat := 4
def heartbeat : Nat := 5
def hcAck : Nat := 6
def hold : Nat := 7
end CT

/-- Queue a KIND 8 message; it becomes a packet at the next flit slot. -/
def State.ctrl (s : State) (dst : Nat) (data : List Byte) : State :=
  { s with net := { s.net with ctrl := s.net.ctrl ++ [(dst, data)] } }

/-! ### Aborting a step (R429, R430) -/

/-- The step that is armed with none in progress; once the step before it has committed, STATE shows IDLE (R428). -/
def State.waiting (s : State) : Option StepCfg := if s.stepState ≤ 1 then s.step.armed else none

/-- May the step in progress, or the one armed, be aborted (R403)? -/
def State.abortable (s : State) : Bool := s.waiting.isSome || decide (2 ≤ s.stepState ∧ s.stepState ≤ 4)

/-- The number of the step armed, or of the one in progress. -/
def State.stepNumber (s : State) : Nat :=
  match s.waiting with
  | some c => c.step
  | none => s.regs.get Reg.TRN_STEP_NUM_STEP

/-- The work of an engine stops: vector work and attention passes complete, a matrix instruction ends with its
current segment. DEDUCED: log entry 19. -/
def Tile.stopWork (num seed : Nat) (t : Tile) : List Inflight → TileRes
  | [] => .ok { t with inflight := [] }
  | f :: r =>
    (match f.work with
     | .vec => t.completeWork num false
     | .att _ => t.settlePass num seed 256
     | .mma _ => t.segVerify num seed []
     | .tree _ => .ok t).bind fun x => x.stopWork num seed r

/-- A tile at an abort: its work stops, its waits end, it parks (R430). DEDUCED: log entry 19. -/
def State.parkTile (s : State) (n : Nat) : State :=
  let t := s.tile n
  match t.state with
  | .parked => s
  | .loading => s
  | _ =>
    let r := t.stopWork n s.seed t.inflight
    r.effs.foldl State.softEffect
      (s.setTile n { r.tile with state := .parked, stall := .none, held := none, port := [], selfSigs := [], streams := [] })

/-- Add an event log entry unless the log is full (R433). -/
def StepSt.addLog (t : StepSt) (e : LogRec) : StepSt := if t.log.length < 4096 then { t with log := t.log ++ [e] } else t

/-- A step descriptor in a channel (R404). -/
def Xfer.isStep (x : Xfer) : Bool :=
  match x.job with
  | .step _ => true
  | .stream _ => false
  | .object _ => false

/-- A part of an object's copy in a channel (R278). -/
def Xfer.isObject (x : Xfer) : Bool :=
  match x.job with
  | .object _ => true
  | .stream _ => false
  | .step _ => false

/-- What an abort leaves of a channel: transfers that tiles issued and step descriptors go, the driver's stay. -/
def Xfer.stays (x : Xfer) : Bool :=
  match x.by_, x.job with
  | .tile _ _, _ => false
  | _, .step _ => false
  | .ring _ _, .stream _ => true
  | .ring _ _, .object _ => true

def Chan.abort (c : Chan) : Chan :=
  { c with
    queue := c.queue.filter Xfer.stays
    busy := c.busy.filter Xfer.stays
    acks := c.acks.filter fun a => a.tile.isNone }

/-- The EVAL flag (R335). -/
def Desc.eval (d : Desc) : Bool := d.flags.testBit 3

/-- Descriptors that belong to a step and wait with it (R404). -/
def Desc.ofStep (d : Desc) : Bool := decide (0x12 ≤ d.opcode ∧ d.opcode ≤ 0x14)

/-- Start an abort with a reason of Table 11.15: every tile parks, the channels drop the step's work, its step
descriptors complete with ST_STEP_ABORTED. DEDUCED: log entry 19. -/
def State.beginAbort (s : State) (reason : Nat) : State :=
  let run : Option RunSt := match s.step.run with
    | some r => some { r with reason := reason }
    | none => s.step.armed.map fun c => ⟨c, 0, 0, s.step.admitted, [], reason, false⟩
  let s1 := { s with
    step := { (s.step.addLog ⟨4, reason, 0, 0⟩) with
      run := run
      armed := if s.step.run.isSome then s.step.armed else none
      drops := if s.step.run.isSome then s.step.drops else []
      colls := [] }
    chans := Tbl.mapVals (fun k c => if k / 2048 < 4 then c.abort
        else { c with queue := c.queue.filter fun x => !x.isStep
                      busy := c.busy.filter fun x => !x.isStep }) s.chans
    regs := s.regs.set Reg.TRN_STEP_STATUS_STATE 6 }
  let s2 := s1.each (s1.tiles.map Prod.fst) State.parkTile
  let s3 := { s2 with net := { s2.net with txns := s2.net.txns.filter fun t => match t.owner with
    | .coll _ _ => false
    | _ => true } }
  let eval := match run with
    | some r => r.cfg.eval
    | none => false
  s3.each (s3.host.descs.filter fun d => (d.ofStep && d.eval == eval) || s.step.colls.any fun c => c.ring == d.ring &&
    c.index == d.index)
    fun s d => s.complete d.ring d.index St.stepAborted 0 0

/-! ### The commit gate (R468 to R473) -/

/-- Is this module the root, or acting as it? -/
def State.isRoot (s : State) : Bool := s.regs.flag Reg.SAF_GATE_CTL_ROOT || s.gate.actRoot

/-- The module that votes and heartbeats go to: the parent, or the backup parent once the parent is lost. -/
def State.gateParent (s : State) : Option Nat :=
  if s.isRoot then none
  else if s.gate.parentLost = false then some (s.regs.get Reg.SAF_GATE_CTL_PARENT)
  else if s.gate.backupLost ∨ s.regs.flag Reg.SAF_GATE_CTL_ALT_ROOT then none
  else some (s.regs.get Reg.SAF_GATE_CTL_BACKUP)

/-- A vote's data: step, CLEAN 1 or NOT_CLEAN 2, reason, sender, covered count (R471), and the lost rank.
DESIGN CHOICE: log entry 29. -/
def voteData (verdict reason sender covered step lost : Nat) : List Byte :=
  leBytes 1 CT.vote ++ leBytes 1 verdict ++ leBytes 1 reason ++ leBytes 1 0 ++ leBytes 4 sender ++ leBytes 4 covered ++
    leBytes 4 lost ++ leBytes 8 step

/-- DESIGN CHOICE: log entry 29. -/
def decisionData (commit : Bool) (step : Nat) : List Byte :=
  leBytes 1 CT.decision ++ leBytes 1 (if commit then 1 else 2) ++ leBytes 6 0 ++ leBytes 8 step

def State.sendVote (s : State) (data : List Byte) : State :=
  match s.gateParent with
  | some p => s.ctrl p data
  | none => s

/-- Is the step armed, or in progress, a replay? -/
def State.replaying (s : State) : Bool :=
  match s.waiting with
  | some c => c.replay
  | none => s.regs.flag Reg.TRN_STEP_STATUS_REPLAY

/-- Forward a decision to the children and act on it (R472): COMMIT takes GATE to COMMITTING, ABORT enters ABORTING with reason
GATE. A replay records it and goes on to its end, which commits nothing (R403, R435). DEDUCED: log entry 34. -/
def State.decision (s : State) (commit : Bool) : State :=
  let n := s.stepNumber
  let data := decisionData commit n
  let s1 : State := s.each s.gate.children fun s p => s.ctrl p.rank data
  let s2 : State := { s1 with gate := { s1.gate with
    decided := true
    refused := !commit } }
  if commit ∨ s.replaying = true then (if s2.stepState = 4 then s2.setReg Reg.TRN_STEP_STATUS_STATE 5 else s2)
  else if s2.abortable then s2.beginAbort 1 else s2

/-- Does the step in progress meet the gate at all (R431)? -/
def State.gated (s : State) : Bool :=
  2 ≤ s.stepState && s.stepState ≤ 4 && !s.evalStep

/-- A condition of R470 fails, with its reason of Table 13.2 and, for LOST, the lost rank: the module votes
NOT_CLEAN at the first one, and the root decides ABORT. -/
def State.blame (s : State) (reason lost : Nat) : State :=
  if !s.gated || s.regs.get Reg.SAF_STATUS_VOTE == 2 then s
  else
    let s1 := ((s.setReg Reg.SAF_STATUS_VOTE 2).setReg Reg.SAF_STATUS_REASON reason).event 6 St.commitBlocked 0 reason
    if s1.isRoot then s1.decision false
    else s1.sendVote (voteData 2 reason s.rank 0 (s.regs.get Reg.TRN_STEP_NUM_STEP) lost)

def State.cause (s : State) (reason : Nat) : State := s.blame reason 0

/-! ### Effects of a tile's work -/

/-- Does a logical tile stand on a bad physical tile that no repair will replace (R15)? -/
def State.tilesLost (s : State) : Bool :=
  s.fab.bad.any fun b =>
    let col := b / 4160 * 64 + b % 64
    b % 4160 / 64 != Tbl.get s.fab.spareMap 64 col && !s.underRepair col

/-- The module cannot hold its logical tiles or its memory (R15, R268). -/
def State.cannotHold (s : State) : Bool := s.tilesLost || s.mem.exhausted

/-- Retire a tile (R15, R102). Without a spare, the module cannot hold it, and its step is not clean for CAPACITY (R470). -/
def State.retireTile (s : State) (t : Nat) : State :=
  let r := s.spareTile t
  if r.2 then r.1.cause 5 else r.1

/-- A column takes a FIRST_ROW (R14, R40). A tile that now stands on another physical tile is no longer retired, and no longer
runs on one copy of its sequencer (R129, R218). -/
def State.mapColumn (s : State) (col first : Nat) : State :=
  let s1 := { s with fab := { s.fab with
    spareMap := if first = 64 then Tbl.del s.fab.spareMap col else Tbl.put s.fab.spareMap col first } }
  { s1 with tiles := Tbl.mapVals (fun t x =>
      if columnOf t = col ∧ s1.physRow t ≠ s.physRow t then { x with retired := false, solo := false, lockPending := false }
      else x) s1.tiles }

/-- A limit of R465, R466 or R261 is reached: its event is posted, SAF_SAFE_STATUS holds the cause, and the safe-state
sequence has begun (R474). The first cause stays. DEDUCED: log entry 48. -/
def State.trip (s : State) (status cause : Nat) (breaker : Bool) (loc detail : Nat) : State :=
  let s1 := s.event (if status = St.memOvertemp then 2 else 6) status loc detail
  match s1.fab.trip with
  | some (c, b) => { s1 with fab := { s1.fab with trip := some (c, b || breaker) } }
  | none =>
    ((({ s1 with fab := { s1.fab with trip := some (cause, breaker) } }).setReg Reg.SAF_SAFE_STATUS_CAUSE cause).setFlag
      Reg.SAF_SAFE_STATUS_ACTIVE true).emit (.alert true)

/-- One effect of a tile's work outside it. -/
def State.effect (s : State) (e : Eff) : State :=
  match e with
  | .notClean _ _ => s.cause 1
  | .retire t => s.retireTile t
  | .ev _ => s.softEffect e
  | .fold _ => s.softEffect e
  | .decodeErrs _ => s.softEffect e
  | .stackRead a n => (s.stackRead a n).2

/-- Take a tile's new state and carry out the effects of its work. -/
def State.takeTile (s : State) (t : Nat) (r : TileRes) : State := r.effs.foldl State.effect (s.setTile t r.tile)

/-! ### Tile memory -/

/-- Read a tile's memory through its check codes, in whole granules of 64 B (R297). -/
def State.tileRead (s : State) (t a n : Nat) : List PByte × State :=
  let lo := a / 64 * 64
  let r := (s.tile t).touch t lo (if n = 0 then 0 else (a + n + 63) / 64 * 64 - lo)
  let m := r.tile.mem
  ((List.range n).map fun i => (m.byte (a + i), m.tag (a + i)), s.takeTile t r)

/-- Write a tile's memory from outside, one 64 B granule at a time. -/
def State.tileWrite (s : State) (t a : Nat) (bs : List PByte) : State :=
  (accessesOf a bs.length).foldl (fun s p =>
    let part := (bs.drop (p.1 - a)).take p.2
    s.takeTile t ((s.tile t).writeMem t p.1 (part.map Prod.fst) (part.any Prod.snd))) s

/-! ### Semaphores and signals -/

/-- Signal a tile's semaphore (R117 to R119). An overflow is the fault of the
instruction at `pc`, if the signal is one that an instruction of the tile has named, and is otherwise noted at the tile's
PC (R216). -/
def State.signalTile (s : State) (t pair ctr count : Nat) (by_ : Raiser) (pc : Option Nat) : State :=
  s.takeTile t ((s.tile t).signal t pair ctr count by_ (pc.getD (s.tile t).pc))

/-- Signal a channel's pair; a signal that would overflow is not applied and is posted (R310). -/
def State.signalChan (s : State) (c ctr count : Nat) (remote : Bool) : State :=
  let x := s.chan c
  if count = 0 then s
  else if x.sem.ctr ctr + count > 65535 then
    s.event 3 St.semOverflow (c / 2048 + c / 16 % 128 * 8 + c % 16 * 1024) 0
  else s.setChan c { x with sem := x.sem.add ctr count remote }

end Sys2Proof.Machine
end

