-- ==== Sys2Proof/Machine/Mesh.lean ====
section
/-! DEFINITION. The die network (R18, R19, R35, R316): the one fixed path between two places, the links that messages wait
at, and their advance. -/

namespace Sys2Proof.Machine

/-! ### Places -/

/-- A place of a compute die by its number, row·64 + column, below 4,160. -/
def MeshNode.onDie (d n : Nat) : MeshNode := ⟨d, n % 4160 / 64, n % 64⟩

/-- A logical tile's place (R14). -/
def State.tilePlace (s : State) (t : Nat) : MeshNode := ⟨t / 4096, s.physRow t, t % 64⟩

/-- A stream engine's place: on its compute die, or PD0 for unit 4 (Table 08.1). -/
def enginePlace (unit engine : Nat) : MeshNode :=
  if unit < 4 then .onDie unit (Config.enginePlace unit engine) else ⟨4, 0, 0⟩

/-- A target's place; host mailboxes lie behind the PCIe controller on PD0 (Table 01.1). -/
def State.targetPlace (s : State) : HcTarget → MeshNode
  | .tile t => s.tilePlace t
  | .chan u e _ => enginePlace u e
  | .mbox _ => ⟨4, 0, 0⟩

/-- A die's end of its bridge to another die; a port die is one place. -/
def bridgeEnd (d toward : Nat) : MeshNode :=
  if d < 4 then .onDie d (Config.bridgePlace d toward) else ⟨d, 0, 0⟩

/-! ### Paths (R18) -/

/-- The numbers passed from `a` to `b`, without `a`. -/
def walk (a b : Nat) : List Nat :=
  if a ≤ b then (List.range (b - a)).map fun i => a + 1 + i else (List.range (a - b)).map fun i => a - 1 - i

/-- Within a die: along the row to the column, then along the column. The start is left out. -/
def dieWalk (a b : MeshNode) : List MeshNode :=
  ((walk a.col b.col).map fun c => (⟨a.die, a.row, c⟩ : MeshNode)) ++ (walk a.row b.row).map fun r => ⟨a.die, r, b.col⟩

/-- Place of a compute die in the ring CD0–CD1–CD3–CD2–CD0, and the die at a place: the two are the same map. -/
def ringSpot (d : Nat) : Nat := if d = 2 then 3 else if d = 3 then 2 else d

/-- The dies entered on the way from die `a` to die `b`: the short way around the ring of compute dies, clockwise when both
ways are equal; a port die over the own die's bridge. -/
def diesOnWay (a b : Nat) : List Nat :=
  if a = b then []
  else if 4 ≤ a ∨ 4 ≤ b then [b]
  else
    let k := (ringSpot b + 4 - ringSpot a) % 4
    if k = 3 then [b] else (List.range k).map fun i => ringSpot ((ringSpot a + 1 + i) % 4)

/-- The places passed over those dies, without the start. -/
def walkDies : MeshNode → List Nat → MeshNode → List MeshNode
  | a, [], b => dieWalk a b
  | a, d :: r, b =>
    let out := bridgeEnd a.die d
    let into := bridgeEnd d a.die
    dieWalk a out ++ into :: walkDies into r b

/-- The one path from a place to another (R18, R19). -/
def meshPath (a b : MeshNode) : List MeshNode := a :: walkDies a (diesOnWay a.die b.die) b

/-! ### Links (R35, R316) -/

/-- The link that a message waits at: its first two places. -/
def MeshMsg.link (m : MeshMsg) : List MeshNode := m.path.take 2

/-- The links of a path. -/
def linksOf : List MeshNode → List (List MeshNode)
  | a :: b :: r => [a, b] :: linksOf (b :: r)
  | _ => []

/-- Is there room at the first link of a path: fewer than 8 messages in this direction? A path without a link has room. -/
def NetSt.meshRoom (n : NetSt) (path : List MeshNode) : Bool :=
  path.length < 2 || decide ((n.mesh.filter fun m => m.link == path.take 2).length < 8)

/-- The oldest message of a link goes over it when the next link of its path has room. -/
def NetSt.hop (n : NetSt) (m : MeshMsg) : NetSt :=
  if m.path.length < 3 ∨ (n.mesh.find? fun x => x.link == m.link) ≠ some m ∨ n.meshRoom m.path.tail = false then n
  else { n with mesh := n.mesh.erase m ++ [{ m with path := m.path.tail }] }

/-- Every message goes on by one link where it can. DESIGN CHOICE: log entry 54. -/
def NetSt.advanceMesh (n : NetSt) : NetSt := n.mesh.foldl NetSt.hop n

/-- A message enters the die network. -/
def State.enterMesh (s : State) (m : MeshMsg) : State := { s with net := { s.net with mesh := s.net.mesh ++ [m] } }

/-- Message `n` of the die network, when it can go the rest of its way: no message waits before it at its link, and none
waits at a later link of its path (R19, R317). DESIGN CHOICE: log entry 54. -/
def State.deliverable (s : State) (n : Nat) : Option MeshMsg :=
  match s.net.mesh[n]? with
  | none => none
  | some m =>
    if ((s.net.mesh.take n).any fun x => x.link == m.link) ||
        s.net.mesh.any fun x => ((linksOf m.path).drop 1).contains x.link then none
    else some m

def State.dropMesh (s : State) (n : Nat) : State := { s with net := { s.net with mesh := ldel s.net.mesh n } }

end Sys2Proof.Machine
end

