-- ==== Sys2Proof/Machine/Address.lean ====
section
/-! DEFINITION. The address map (R20 to R22, R548): judging an address or a pattern against the field that
names it, and reading and writing the module's own windows. -/

namespace Sys2Proof.Machine

def addrRank (a : Nat) : Nat := bitsOf a 63 44
def addrWindow (a : Nat) : Nat := bitsOf a 43 40
def addrOffset (a : Nat) : Nat := bitsOf a 39 0

/-- An address of the module's own rank. -/
def State.ownAddr (s : State) (window off : Nat) : Nat := s.rank * 2 ^ 44 + window * 2 ^ 40 + off

/-- What a field that names an address accepts (Table 01.18). -/
structure AddrRule where
  windows : List Nat
  own : Bool
  deriving DecidableEq, Repr

namespace AddrRule
/-- SRC and DST of a transfer, and what they name. -/
def transfer : AddrRule := ⟨[0, 1, 2], false⟩
/-- Structures and tensors at the own rank in any of the three windows. -/
def local3 : AddrRule := ⟨[0, 1, 2], true⟩
/-- Images: stacked memory or a host window. -/
def image : AddrRule := ⟨[1, 2], true⟩
/-- A result tree's destination. -/
def tree : AddrRule := ⟨[0, 1], true⟩
/-- A handcart address. -/
def handcart : AddrRule := ⟨[3], false⟩
/-- A host window. -/
def hostOnly : AddrRule := ⟨[2], true⟩
/-- DST of SNAPSHOT and SAF_SNAP, beside the refusal of stacked memory at the own rank. -/
def snapshot : AddrRule := ⟨[1, 2], false⟩
/-- A tensor of the state list. -/
def stackOnly : AddrRule := ⟨[1], true⟩
end AddrRule

def State.hwinValid (s : State) (k : Nat) : Bool := s.regs.getAt Reg.HIF_HWIN_SIZE_VALID k == 1

/-- The host address that a host-window offset reaches (R349). -/
def State.hostAddr (s : State) (off : Nat) : Nat :=
  s.regs.getAt Reg.HIF_HWIN_BASE_BASE (bitsOf off 39 34) * 4096 + bitsOf off 33 0

/-- Is an offset valid in its window (Table 01.3, R349)? -/
def State.offsetOk (s : State) (window off : Nat) : Bool :=
  if off ≥ 2 ^ 40 then false
  else match window with
    | 0 => decide (off < 2 ^ 33)
    | 1 => decide (off < 0xC000000000)
    | 2 =>
      let k := bitsOf off 39 34
      s.hwinValid k && decide (bitsOf off 33 0 < s.regs.getAt Reg.HIF_HWIN_SIZE_PAGES k * 4096)
    | _ => true

/-- The status that R22 gives a pattern of bytes from `base + lo` to `base + hi`, or none. -/
def State.judgeSpan (s : State) (r : AddrRule) (base lo hi : Nat) : Option Nat :=
  let w := addrWindow base
  let first := addrOffset base + lo
  let last := addrOffset base + hi
  if w ≥ 4 ∨ !r.windows.contains w then some St.addrWindow
  else if w = 2 ∧ addrRank base ≠ s.rank then some St.addrRemoteHost
  else if r.own ∧ addrRank base ≠ s.rank then some St.addrRange
  else if s.offsetOk w first ∧ s.offsetOk w last ∧ (w = 2 → bitsOf first 39 34 = bitsOf last 39 34) then none
  else some St.addrRange

/-- The status that R22 gives a run of `n` bytes from `a`; a run of no bytes judges its first address. -/
def State.judge (s : State) (r : AddrRule) (a n : Nat) : Option Nat := s.judgeSpan r a 0 (n - 1)

/-- Can every access of a run at a full address, where it lies in this module's stacked memory, enter its channel (R259)? -/
def State.localOpen (s : State) (a n : Nat) : Bool := addrRank a != s.rank || addrWindow a != 1 || s.memOpen (addrOffset a) n

/-! ### Reading -/

/-- DESIGN CHOICE: log entry 5. -/
def viewByte (v : HostView) (a : Nat) : PByte := (Cells.get v.data a, NSet.has v.poison (a / 64))

/-- DESIGN CHOICE: log entry 5. -/
def viewFails (v : HostView) (a n : Nat) : Bool := (blocksOf 64 a n).any (NSet.has v.failRead)

/-- DESIGN CHOICE: log entry 5. -/
def viewRefuses (v : HostView) (a n : Nat) : Bool := (blocksOf 64 a n).any (NSet.has v.failWrite)

/-- Parts of a tile-window run, one per tile: tile, offset, length. -/
def tileParts (off n : Nat) : List (Nat × Nat × Nat) :=
  (blocksOf (2 ^ 19) off n).map fun t =>
    let lo := max off (2 ^ 19 * t)
    (t, lo % 2 ^ 19, min (off + n) (2 ^ 19 * (t + 1)) - lo)

/-- What a read of a local window brings: the bytes with their poison, whether it met a bus error, and the
state with the errors it met (R305, R306). -/
structure Got where
  bytes : List PByte
  err : Bool
  st : State
  deriving DecidableEq, Repr

/-- Read `n` bytes at a local address that R22 accepts. -/
def State.get (s : State) (v : HostView) (a n : Nat) : Got :=
  let off := addrOffset a
  match addrWindow a with
  | 0 =>
    let r := (tileParts off n).foldl (fun (acc : List PByte × State) p =>
      let x := acc.2.tileRead p.1 p.2.1 p.2.2
      (acc.1 ++ x.1, x.2)) ([], s)
    ⟨r.1, false, r.2⟩
  | 1 =>
    let r := s.stackRead off n
    ⟨r.1, false, r.2⟩
  | _ =>
    let h := s.hostAddr off
    ⟨(List.range n).map fun i => viewByte v (h + i), viewFails v h n, s⟩

def Got.poison (g : Got) : Bool := g.bytes.any Prod.snd

def Got.data (g : Got) : List Byte := g.bytes.map Prod.fst

/-! ### Writing -/

/-- Write bytes at a local address. A host write leaves the module; a granule is poisoned when a byte written
into it is (R305). -/
def State.put (s : State) (a : Nat) (bs : List PByte) : State :=
  let off := addrOffset a
  match addrWindow a with
  | 0 => (tileParts off bs.length).foldl (fun (acc : State × List PByte) p =>
      (acc.1.tileWrite p.1 p.2.1 (acc.2.take p.2.2), acc.2.drop p.2.2)) (s, bs) |>.1
  | 1 => s.stackWrite off bs
  | _ => if bs.isEmpty then s else s.emit (.hostWrite (s.hostAddr off) (bs.map Prod.fst) (bs.any Prod.snd))

/-! ### Routes (R378, R379) -/

def routeLinks (e : Nat) : Nat := bitsOf e 31 0
def routeHops (e : Nat) : Nat := bitsOf e 36 32

/-- The entry of a bank for a rank (R379). -/
def routeEntry (bank : List (Nat × Nat)) (self r : Nat) : Nat :=
  match bank.find? fun x => decide (2048 ≤ x.1) && bitOf x.2 60 && bitsOf x.2 59 40 == r with
  | some x => x.2
  | none =>
    if r / 1024 = self / 1024 then Tbl.get bank 0 (r % 1024) else Tbl.get bank 0 (1024 + r / 1024)

def State.linkState (s : State) (l : Nat) : Nat := s.regs.getAt Reg.LNK_LINK_STATUS_STATE l

def State.linkUp (s : State) (l : Nat) : Bool := s.linkState l == 2

/-- The up links that a rank's route names, lowest first. -/
def State.routeUp (s : State) (r : Nat) : List Nat :=
  let e := routeEntry s.net.active s.rank r
  if routeHops e = 0 then [] else (List.range 32).filter fun l => bitOf (routeLinks e) l && s.linkUp l

/-- Is a rank absent (R484)? -/
def State.absentNow (s : State) (r : Nat) : Bool := s.res.absent.any fun a => a.active && a.rank == r

/-- Does a module held for repair return at its own rank, which the fill must reach (R489)? -/
def State.fillsItself (s : State) (r : Nat) : Bool := s.res.absent.any fun a => a.active && a.hold && a.rank == r && a.spare == r

/-- Does a rank have a route (R379)? The own rank needs none. -/
def State.hasRoute (s : State) (r : Nat) : Bool := r == s.rank || !(s.routeUp r).isEmpty

/-! ### Tensor descriptors (R346 to R348) -/

def Tensor.parse (b : List Byte) : Tensor :=
  let n := fun i k => leNat ((b.drop i).take k)
  { base := n 0 8, fmt := n 8 1 % 16, elemBits := n 9 1, ndim := n 10 1 % 8, cmp := n 11 1 % 16
    table := n 12 2 % 2 ^ 12, poison := n 14 1 % 4, object := n 16 4 % 2 ^ 20
    sizes := (List.range 5).map fun i => n (24 + 4 * i) 4
    strides := (List.range 5).map fun i => n (44 + 4 * i) 4 }

def Tensor.empty (t : Tensor) : Bool := (t.sizes.take t.ndim).any (· == 0)

/-- Stored elements E (R346). -/
def Tensor.elems (t : Tensor) : Nat :=
  if t.empty then 0
  else 1 + ((List.range t.ndim).map fun k => ((t.sizes[k]?).getD 0 - 1) * (t.strides[k]?).getD 0).foldl (· + ·) 0

def Tensor.mode (t : Tensor) : Nat := t.cmp % 4

/-- Lossy rate in bits per element (Table 06.2). -/
def rateBits (code : Nat) : Nat :=
  match code with
  | 0 => 4
  | 1 => 5
  | _ => 6

/-- Number of 256-element blocks (R221). -/
def Tensor.blocks (t : Tensor) : Nat := (t.elems + 255) / 256

/-- Source bytes of a full block of elements (R222). -/
def blockBytes (f : Fmt) : Nat := if f.isMX then mxGroupBytes f else 256 * (f.elemBits / 8)

/-- Bytes of the parts of a compressed area (R238): directory, table part region, one home. -/
def Tensor.dirBytes (t : Tensor) : Nat := (4 * t.blocks + 63) / 64 * 64
def Tensor.partBytes (t : Tensor) : Nat := (272 * ((t.blocks + 63) / 64) + 63) / 64 * 64
def homeBytes (f : Fmt) : Nat := 16 * rawUnits f 256
def lossyBytes (rate : Nat) : Nat := 16 + 32 * rateBits rate

/-- Stored bytes from BASE (R346, R224, R238). -/
def Tensor.bytes (t : Tensor) : Nat :=
  match Fmt.ofCode t.fmt with
  | none => 0
  | some f =>
    if t.empty then 0
    else match t.mode with
      | 1 => t.dirBytes + t.partBytes + t.blocks * homeBytes f
      | 2 => t.blocks * lossyBytes (t.cmp / 4)
      | _ => if f.isMX then t.blocks * mxGroupBytes f else (t.elems * f.elemBits + 7) / 8

/-- The compression fields of R220: format first, then mode and rate. -/
def cmpCheck (f : Fmt) (mode rate : Nat) : Option Nat :=
  if (mode = 1 ∧ losslessFmt f = false) ∨ (mode = 2 ∧ lossyFmt f = false) then some St.cmpFmt
  else if mode = 3 ∨ (mode = 2 ∧ rate = 3) then some St.cmpMode
  else none

/-- The refusals of R347 that come before its compression fields, in order. -/
def Tensor.formCheck (t : Tensor) : Option Nat :=
  match Fmt.ofCode t.fmt with
  | none => some St.fmtReserved
  | some f => if t.ndim = 0 ∨ t.ndim > 5 ∨ t.elemBits ≠ f.elemBits ∨ t.poison = 3 then some St.tdInvalid else none

/-- The refusals of a tensor descriptor's compression fields (R220, R233, R238). -/
def Tensor.cmpRefusal (t : Tensor) : Option Nat :=
  match Fmt.ofCode t.fmt with
  | none => none
  | some f => (cmpCheck f t.mode (t.cmp / 4)).or (if t.mode = 1 ∧ t.bytes > 2 ^ 36 then some St.cmpExtent else none)

/-- The refusals of R347, in order. -/
def Tensor.check (t : Tensor) : Option Nat := t.formCheck.or t.cmpRefusal

/-! ### Structures that descriptors name (R551) -/

/-- Where a command's view holds what a peer's address answers. -/
def peerKey (a : Nat) : Nat := 2 ^ 64 + a

/-- Read an address that R22 accepts, a peer's included: the view holds what the peer answers. -/
def State.fetch (s : State) (v : HostView) (a n : Nat) : Got :=
  if addrRank a = s.rank then s.get v a n
  else ⟨(List.range n).map fun i => viewByte v (peerKey a + i), viewFails v (peerKey a) n, s⟩

/-- Read a structure: its bytes, or the status it ends the work with and the completion flags. -/
def State.readStruct (s : State) (v : HostView) (a n : Nat) : Except (Nat × Nat) (List Byte) × State :=
  let g := s.fetch v a n
  if g.err then (.error (St.strReadErr, 0), g.st)
  else if g.poison then (.error (St.poisonConsumed, 16), g.st)
  else (.ok g.data, g.st)

/-- Judge and read a tensor descriptor, with the refusals that `check` gives of it, and judge the tensor's own bytes (R22, R347,
R548, R551). -/
def State.tensorBy (s : State) (check : Tensor → Option Nat) (r : AddrRule) (v : HostView) (a : Nat) :
    Except (Nat × Nat) Tensor × State :=
  match s.judge r a 64 with
  | some e => (.error (e, 0), s)
  | none =>
    match s.readStruct v a 64 with
    | (.error e, s1) => (.error e, s1)
    | (.ok b, s1) =>
      let t := Tensor.parse b
      match check t with
      | some e => (.error (e, 0), s1)
      | none =>
        match s1.judge r t.base t.bytes with
        | some e => (.error (e, 0), s1)
        | none => (.ok t, s1)

/-- Judge and read a tensor descriptor with all the refusals of R347. -/
def State.tensor (s : State) (r : AddrRule) (v : HostView) (a : Nat) : Except (Nat × Nat) Tensor × State :=
  s.tensorBy Tensor.check r v a

end Sys2Proof.Machine
end

