-- ==== Sys2Proof/Machine/Descriptors.lean ====
section
/-! DEFINITION. What every submission descriptor's meaning shares (R335 to R339, R431): its fields, whether it is
ready for its unit, and the end of it. -/

namespace Sys2Proof.Machine

/-- A field of the operation-specific part, which starts at byte 16 of the descriptor (R335). -/
def Desc.n (d : Desc) (i k : Nat) : Nat := leNat ((d.body.drop i).take k)

/-- SIG_TARGET of a step descriptor (R404). -/
def Desc.stepTarget (d : Desc) : Nat :=
  (if d.opcode = 0x13 then d.n 24 8 else if d.opcode = 0x22 then 0 else d.n 40 8) % 2 ^ 40

/-- The descriptor of ring `r` and count `j`, when it has started and its unit has not taken it yet. DESIGN CHOICE: log entry 4.
-/
def State.ready (s : State) (r j op : Nat) : Option Desc :=
  match s.host.desc r j with
  | some d => if d.started ∧ d.taken = false ∧ d.opcode = op then some d else none
  | none => none

/-- The unit takes the descriptor. -/
def State.take (s : State) (r j : Nat) : State :=
  { s with host := { s.host with descs := s.host.descs.map fun d =>
      if d.ring = r ∧ d.index = j then { d with taken := true } else d } }

/-- The descriptor of ring `r` and count `j`, when its unit is at work on it. -/
def State.working (s : State) (r j op : Nat) : Option Desc :=
  match s.host.desc r j with
  | some d => if d.taken ∧ d.opcode = op then some d else none
  | none => none

/-- Is an eval step armed or running (R431)? -/
def State.evalOn (s : State) : Bool :=
  (match s.step.armed with
   | some c => c.eval
   | none => false) ||
  (match s.step.run with
   | some r => r.cfg.eval
   | none => false)

/-- Refuse a descriptor, or say so when it carries EVAL with no eval step (R431). -/
def State.finish (s : State) (r j status : Nat) : State := s.complete r j status 0 0

/-- Carry out a ready descriptor with `f`, unless its unit holds a record that waits for a place (R340); an EVAL descriptor with
no eval step is refused first (R431). DESIGN CHOICE: log entry 4. -/
def State.onDesc (s : State) (r j op : Nat) (f : State → Desc → State) : State :=
  match s.ready r j op with
  | none => s
  | some d =>
    if s.host.stuck d.unit then s
    else if d.eval ∧ s.evalOn = false then s.finish r j St.paramCode
    else f s d

/-! ### Channel queues (R291) -/

def Chan.full (c : Chan) : Bool := decide (16 ≤ c.queue.length)

/-- Put accepted work into its channel's queue (R291). -/
def State.enqueue (s : State) (ch : Nat) (by_ : Submitter) (job : Job) (td : Option Tensor) (taint : Bool) : State :=
  let c := s.chan ch
  s.setChan ch { c with
    queue := c.queue ++ [⟨c.nextId, by_, job, 0, 0, 0, [], none, false, 0, 0, none, td, taint, 0, 0, 0⟩]
    nextId := c.nextId + 1 }

end Sys2Proof.Machine
end

