-- ==== Sys2Proof/Machine/Collective.lean ====
section
/-! DEFINITION. Collective operations (R384 to R389, R404): how a group's traffic runs round the ring of its present
members, where it lands, and how an operation ends. -/

namespace Sys2Proof.Machine

/-! ### The ring -/

def Coll.size (c : Coll) : Nat := c.present.length

/-- This member's place among the present ones. -/
def Coll.place (c : Coll) : Nat := c.present.idxOf c.self

/-- The position at place `i` of the ring. -/
def Coll.at_ (c : Coll) (i : Nat) : Nat := (c.present[i % c.size]?).getD 0

def Coll.rankAt (c : Coll) (pos : Nat) : Nat := (c.ranks[pos]?).getD 0

/-- The ranks of the next and of the previous present member. -/
def Coll.succ (c : Coll) : Nat := c.rankAt (c.at_ (c.place + 1))
def Coll.pred (c : Coll) : Nat := c.rankAt (c.at_ (c.place + c.size - 1))

/-- Bytes on the wire of the chunk of a position (R385). -/
def Coll.chunk (c : Coll) (pos : Nat) : Nat := min c.total ((pos + 1) * c.unit) - pos * c.unit

/-- A packet of the ring: its turn, the position whose chunk it is part of, the position it is for, and the part. -/
structure CollPkt where
  seg : Nat
  origin : Nat
  dest : Nat
  off : Nat
  len : Nat
  deriving DecidableEq, Repr

/-- Cut `n` bytes, which stand at byte `start` of their source, into packets: a first one up to the source's next granule, so that
the granules of the packets' POISON are those of the source (R388). DESIGN CHOICE: log entry 29. -/
def cutChunk (seg origin dest start n : Nat) : List CollPkt :=
  let h := min n ((64 - start % 64) % 64)
  (if h = 0 then [] else [⟨seg, origin, dest, 0, h⟩]) ++
    (List.range ((n - h + 4095) / 4096)).map fun i => ⟨seg, origin, dest, h + 4096 * i, min 4096 (n - h - 4096 * i)⟩

/-- A carriage's tags travel before the data. -/
def Coll.tagLen (c : Coll) : Nat :=
  match c.kind with
  | .gather => 16
  | _ => 0

/-- The present position that supplies an absent position's bytes: the next one of its parity group of 16, cyclically
(R485). -/
def Coll.standIn (c : Coll) (x : Nat) : Nat :=
  (((List.range 15).map fun i => x / 16 * 16 + (x + 1 + i) % 16).find? fun p => c.present.contains p).getD c.self

/-- Positions of the group that are absent. -/
def Coll.absent (c : Coll) : List Nat := (List.range c.ranks.length).filter fun p => !c.present.contains p

/-- What the member at place `m` sends in turn `k`. -/
def Coll.turn (c : Coll) (m k : Nat) : List CollPkt :=
  let n := c.size
  match c.kind with
  | .reduceScatter =>
    let o := c.at_ (m + 2 * n - 1 - k)
    cutChunk k o o (o * c.unit) (c.chunk o)
  | .allToAll =>
    let o := m + n - k
    (List.range (n - 1 - k)).flatMap fun i => cutChunk k (c.at_ o) (c.at_ (o + k + 1 + i)) (c.at_ (o + k + 1 + i) * c.unit) c.unit
  | _ =>
    let o := c.at_ (m + n - k)
    cutChunk k o o (64 - c.tagLen) (c.chunk o + c.tagLen)

/-- Every packet that the member at place `m` sends to its successor, in the order of their places. The chunks of
absent positions of a gather follow, each from its stand-in to all the others. -/
def Coll.packets (c : Coll) (m : Nat) : List CollPkt :=
  ((List.range (c.size - 1)).flatMap (c.turn m)) ++
    (match c.kind with
     | .gather => c.absent.flatMap fun x =>
         if c.at_ (m + 1) = c.standIn x then [] else cutChunk c.size x x (64 - c.tagLen) (c.chunk x + c.tagLen)
     | _ => [])

/-- Packets that this member sends, and those it receives. DEDUCED: log entry 32. -/
def Coll.outgoing (c : Coll) : List CollPkt := c.packets c.place
def Coll.incoming (c : Coll) : List CollPkt := c.packets (c.place + c.size - 1)

/-- Has every packet come that the ring brings? -/
def Coll.allIn (c : Coll) : Bool := c.got.length == c.incoming.length

/-! ### The state's list of operations -/

def State.coll (s : State) (r j : Nat) : Option Coll := s.step.colls.find? fun c => c.ring == r && c.index == j

def State.setColl (s : State) (c : Coll) : State :=
  { s with step := { s.step with colls := s.step.colls.map fun x => if x.ring = c.ring ∧ x.index = c.index then c else x } }

/-- Drop an operation with what the network still owes it. -/
def State.dropColl (s : State) (r j : Nat) : State :=
  { s with
    step := { s.step with colls := s.step.colls.filter fun c => !(c.ring == r && c.index == j) }
    net := { s.net with txns := s.net.txns.filter fun t => t.owner != .coll r j } }

/-! ### Destinations -/

/-- Bytes of an element of a tensor that is not MX. -/
def Tensor.elemBytes (t : Tensor) : Nat := match Fmt.ofCode t.fmt with
  | some f => f.elemBits / 8
  | none => 1

/-- Where part of a chunk lands: in a reduce-scatter the destination is this member's chunk alone, in its own format. -/
def Coll.landing (c : Coll) (d : Tensor) (p : CollPkt) : Nat × Nat :=
  match c.kind with
  | .reduceScatter => (d.base + p.off / 4 * d.elemBytes, p.len / 4 * d.elemBytes)
  | _ =>
    let off := p.off - c.tagLen
    (d.base + p.origin * c.unit + off, p.off + p.len - c.tagLen - off)

/-- Does the packet bring data that lands here? -/
def Coll.lands (c : Coll) (p : CollPkt) : Bool :=
  match c.kind with
  | .reduceScatter => p.origin == c.self
  | .allToAll => p.dest == c.self
  | _ => true

/-- What a tensor's poison policy adds to a write of poison whose first granule is at `a` (R348). -/
def State.tainted (s : State) (t : Tensor) (source where_ a : Nat) : State :=
  if t.poison = 1 then s.cause 3
  else if t.poison = 2 then s.event source St.poisonConsumed where_ a
  else s

/-- The parts of the destination that have not become final: where each lies, and its bytes (R389). -/
def Coll.notFinal (c : Coll) (d : Tensor) : List (Nat × Nat) :=
  match c.kind with
  | .dropSync => []
  | .gradExchange => if d.bytes = 0 then [] else [(d.base, d.bytes)]
  | _ => ((c.incoming.zipIdx.filter fun p => !c.got.contains p.2 && c.lands p.1).map fun p => c.landing d p.1).filter fun x =>
      x.2 != 0

/-- Zero bytes with poison in place of what has not become final (R389), under the destination's poison policy (R348). -/
def State.zeroRest (s : State) (c : Coll) : State :=
  match c.dst with
  | none => s
  | some d =>
    let rest := c.notFinal d
    let s1 := match c.poison, rest.head? with
      | false, some x => s.tainted d 4 0 (x.1 / 64 * 64)
      | _, _ => s
    s1.each rest fun s x => s.put x.1 (List.replicate x.2 (0, true))

/-! ### The end of an operation -/

/-- The last host address that an operation writes, if its destination, or else its residual, lies in a host window (R304). -/
def State.collHost (s : State) (c : Coll) : Option Nat :=
  ([c.dst, c.res].filterMap id).findSome? fun t =>
    if addrWindow t.base = 2 ∧ 0 < t.bytes then some (s.hostAddr (addrOffset t.base + t.bytes - 1) / 4 * 4) else none

/-- The queue channel becomes free, and SIG_TARGET is signalled once the writes are acknowledged: at once, or for a host window
when a 4 B read of the last address written has returned, which SLOT_SIGNAL follows (R304, R404). -/
def State.freeQueue (s : State) (c : Coll) (target status : Nat) : State :=
  match c.chan with
  | none => s
  | some ch =>
    let x := s.chan ch
    let free := { x with
      busy := none
      lastStatus := status }
    match s.collHost c with
    | none => s.setChan ch (if target = 0 then free else { free with outbox := x.outbox ++ [(target, none)] })
    | some a =>
      let noted := { free with
        hostLast := Tbl.put x.hostLast x.nextId a
        nextId := x.nextId + 1 }
      if target = 0 then s.setChan ch noted
      else (s.setChan ch { noted with acks := x.acks ++ [⟨x.nextId, 0, 0, false, false, some target, none, some a⟩] }).emit
        (.hostRead a 4)

/-- The operation's descriptor completes. An output with poison gives ST_POISON_CONSUMED where nothing worse was met
(R81). -/
def State.endColl (s : State) (c : Coll) (status result : Nat) : State :=
  let target := match s.host.desc c.ring c.index with
    | some d => d.stepTarget
    | none => 0
  let st := if status = St.ok ∧ c.poison = true then St.poisonConsumed else status
  ((s.freeQueue c target st).dropColl c.ring c.index).complete c.ring c.index st
    (c.flags % 32 ||| if c.poison then 16 else 0) result

/-- The operation stops with a status (R389). -/
def State.stopColl (s : State) (c : Coll) (status : Nat) : State :=
  let s1 := if c.started then s.zeroRest c else s
  s1.endColl { c with poison := c.poison || c.dst.isSome } status 0

end Sys2Proof.Machine
end

