-- ==== Sys2Proof/Machine/Net.lean ====
section
/-! DEFINITION. Packets, flits and the sending side of the Stelys links (chapter 10), with the record of
transactions that await an answer. -/

namespace Sys2Proof.Machine

/-! ### Packets (R370, R371) -/

namespace PK
def write : Nat := 0
def readReq : Nat := 1
def readResp : Nat := 2
def wack : Nat := 3
def message : Nat := 4
def coll : Nat := 5
def parity : Nat := 6
def time : Nat := 7
def ctrl : Nat := 8
def unreachable : Nat := 9
end PK

/-! Virtual channel codes (Table 10.4). -/

namespace VC
def gather : Nat := 1
def reduce : Nat := 2
def parity : Nat := 3
def snap : Nat := 4
def handcart : Nat := 5
def time : Nat := 6
def ctrl : Nat := 7
end VC

/-- The 32 B header with a given hop class (Table 10.6). -/
def Packet.header (p : Packet) (hop : Nat) : List Byte :=
  leBytes 4 (p.dst % 2 ^ 20 + hop % 32 * 2 ^ 20 + bitsOf p.rsv 6 0 * 2 ^ 25) ++
  leBytes 4 (p.src % 2 ^ 20 + p.kind % 16 * 2 ^ 20 + (if p.ordered then 2 ^ 24 else 0) + (if p.last then 2 ^ 25 else 0) +
    bitsOf p.rsv 12 7 * 2 ^ 26) ++
  leBytes 6 (p.addr + bitsOf p.rsv 16 13 * 2 ^ 44) ++ leBytes 2 p.len ++ leBytes 2 p.tid ++ leBytes 2 (bitsOf p.rsv 32 17) ++
  leBytes 4 p.tseq ++ leBytes 8 p.poison

/-- The end-to-end CRC over header and data; the hop class, which every link changes, counts as 0 (R371). DEDUCED: log entry 28.
-/
def Packet.crcOf (p : Packet) : Nat := crc64 (p.header 0 ++ p.data)

/-- DEDUCED: log entry 28. -/
def Packet.good (p : Packet) : Bool := p.crc == p.crcOf

def Packet.sealed (p : Packet) : Packet := { p with crc := p.crcOf }

def Packet.bytes (p : Packet) : List Byte := p.header p.hop ++ p.data ++ leBytes 8 p.crc

/-- Data bytes that a packet carries: LEN, but a READ_REQ names its LEN bytes and carries none (Table 10.7). -/
def dataLen (kind len : Nat) : Nat := if kind = PK.readReq then 0 else len

/-- Header fields from the first 32 bytes, then data and CRC. -/
def Packet.parse (b : List Byte) : Packet :=
  let n := fun i k => leNat ((b.drop i).take k)
  let d := n 0 4
  let w := n 4 4
  let a := n 8 6
  let len := n 14 2
  let k := dataLen (w / 2 ^ 20 % 16) len
  { dst := d % 2 ^ 20, hop := d / 2 ^ 20 % 32, src := w % 2 ^ 20, kind := w / 2 ^ 20 % 16
    ordered := w.testBit 24, last := w.testBit 25, addr := a % 2 ^ 44, len := len, tid := n 16 2
    tseq := n 20 4, poison := n 24 8, data := (b.drop 32).take k, crc := n (32 + k) 8
    rsv := bitsOf d 31 25 + bitsOf w 31 26 * 2 ^ 7 + bitsOf a 47 44 * 2 ^ 13 + n 18 2 * 2 ^ 17 }

/-- The packet's data with its poison, granule by granule; a failed CRC poisons them all (R371). -/
def Packet.pbytes (p : Packet) : List PByte :=
  (List.range p.data.length).map fun i => ((p.data[i]?).getD 0, !p.good || p.poison.testBit (i / 64))

/-- Poison bits of a packet's data. -/
def poisonBits (bs : List PByte) : Nat :=
  (List.range ((bs.length + 63) / 64)).foldl (fun acc g =>
    if ((bs.drop (64 * g)).take 64).any Prod.snd then acc + 2 ^ g else acc) 0

/-- Cut into flit payloads of 242 bytes, the last padded with zeros (R359). -/
def cutFlits : Nat → List Byte → List (List Byte)
  | 0, _ => []
  | _, [] => []
  | n + 1, b => (b.take 242 ++ List.replicate (242 - b.length) 0) :: cutFlits n (b.drop 242)

def Packet.flits (p : Packet) (vc : Nat) : List TxFlit :=
  let b := p.bytes
  (cutFlits 18 b).mapIdx fun i x => ⟨vc, p.hop, x, p, i⟩

/-! ### Instants in SYNC packets (R447) -/

/-- An instant in 12 bytes: NS, then FRAC. -/
def instantBytes (t : Nat) : List Byte := leBytes 8 (t / 2 ^ 32) ++ leBytes 4 (t % 2 ^ 32)

def instantOf (b : List Byte) : Nat := leNat (b.take 8) * 2 ^ 32 + leNat ((b.drop 8).take 4)

/-- Device time as the serdes stamps it, in units of 2^-32 ns and to 2^-8 ns. -/
def State.instant (s : State) : Nat := (s.time.ns * 2 ^ 32 + s.time.frac) / 2 ^ 24 * 2 ^ 24

/-- Part of a nanosecond, in units of 2^-8 ns, in those of 2^-32 ns. -/
def subStamp (n : Nat) : Nat := n % 256 * 2 ^ 24

/-- A SYNC with T3, its egress time, inserted: device time and the part of a nanosecond that was queued with it. -/
def Packet.stamped (p : Packet) (t : Nat) : Packet :=
  Packet.sealed { p with data := p.data.take 8 ++ instantBytes (t + instantOf (p.data.drop 8)) ++ p.data.drop 20 }

/-- What goes out of a flit: a SYNC takes its egress time. -/
def TxFlit.egress (f : TxFlit) (t : Nat) : List Byte :=
  if f.pkt.kind = PK.time then ((((f.pkt.stamped t).flits f.vc)[f.idx]?).map TxFlit.payload).getD f.payload else f.payload

/-! ### Transactions -/

def State.addTxn (s : State) (t : Txn) : State := { s with net := { s.net with txns := s.net.txns ++ [t] } }

/-- Count `n` transfer ids as used; the first of them is `net.nextTid` (R370). -/
def State.useTids (s : State) (n : Nat) : State :=
  { s with net := { s.net with nextTid := (s.net.nextTid + n) % 2 ^ 16 } }

/-- Is this the transaction that packet `tseq` of a transfer belongs to? -/
def Txn.holds (t : Txn) (tid tseq : Nat) : Bool := t.tid == tid && decide (t.first ≤ tseq ∧ tseq < t.first + t.count)

/-- The byte of the sequence at which a packet's data enters. -/
def Txn.place (t : Txn) (tseq : Nat) : Nat := t.off + 4096 * (tseq - t.first)

def State.setTxn (s : State) (t : Txn) : State :=
  { s with net := { s.net with txns := s.net.txns.map fun x => if x.tid = t.tid ∧ x.first = t.first then t else x } }

def State.dropTxn (s : State) (t : Txn) : State :=
  { s with net := { s.net with txns := s.net.txns.filter fun x => x.tid != t.tid || x.first != t.first } }

def State.txn (s : State) (tid tseq : Nat) : Option Txn := s.net.txns.find? fun x => x.holds tid tseq

/-! ### Acknowledgements of a slot's writes (R304, R311) -/

/-- One acknowledgement of a slot's writes, or its error, which holds back a consumer's signal too (R306). -/
def Chan.ack (c : Chan) (xfer slot : Nat) (err : Bool) : Chan :=
  { c with acks := c.acks.map fun a =>
      if a.xfer = xfer ∧ a.slot = slot then
        { a with
          waiting := if a.onReads then a.waiting else a.waiting - 1
          err := a.err || err }
      else a }

/-- The tile that issued a channel's transfer, if a tile did. -/
def Xfer.tile (x : Xfer) : Option Nat :=
  match x.by_ with
  | .tile t _ => some t
  | .ring _ _ => none

/-- WHERE of a stream event: unit, engine, channel, issuing tile (Table 09.8). -/
def chanWhere (ch : Nat) (tile : Option Nat) : Nat :=
  ch / 2048 + ch / 16 % 128 * 8 + ch % 16 * 2 ^ 10 + tile.getD 0 * 2 ^ 14

/-- One read of a slot has returned. -/
def Chan.readDone (c : Chan) (xfer slot : Nat) : Chan :=
  { c with acks := c.acks.map fun a =>
      if a.onReads ∧ a.xfer = xfer ∧ a.slot = slot then { a with waiting := a.waiting - 1 } else a }

/-- Does a failure end the writing of a transfer: a write error (Table 08.6), or a coach too large for its bay (R163)? -/
def endsWriting (status : Nat) : Bool := status == St.strWriteErr || status == St.coachSize

/-- The failure that a transfer reports after one more: the first that ends its writing, otherwise the read error with the lowest
offset (R306). -/
def worseErr (old : Option (Nat × Nat)) (status off : Nat) : Nat × Nat :=
  match old with
  | none => (status, off)
  | some (st, o) => if endsWriting st then (st, o) else if endsWriting status then (status, off) else (st, min o off)

/-- A bus error meets a transfer of a channel (R306), the one in progress or one before it. A write error is kept for the fence,
and the issuing tile's step is not clean (R307); after completion it is posted at once. -/
def State.busError (s : State) (ch xfer slot : Nat) (read : Bool) (off : Nat) : State :=
  let c := s.chan ch
  let at_ := off / 256 * 256
  let st := if read then St.strReadErr else St.strWriteErr
  let owner := (c.acks.find? fun a => a.xfer == xfer).bind fun a => a.tile
  let c1 := if read then c.readDone xfer slot else { c.ack xfer slot true with fenceErr := true }
  match c1.busy with
  | some x =>
    if x.id = xfer then
      let x1 := { x with
        err := some (worseErr x.err st at_)
        reads := if read then x.reads - 1 else x.reads }
      let s1 := s.setChan ch { c1 with busy := some x1 }
      if read = false ∧ x.tile.isSome then s1.cause 2 else s1
    else if owner.isSome ∧ read = false then
      ((s.setChan ch { c1 with errors := min 65535 (c1.errors + 1) }).event 3 st (chanWhere ch owner) at_).cause 2
    else s.setChan ch { c1 with errors := min 65535 (c1.errors + 1) }
  | none =>
    if owner.isSome ∧ read = false then
      ((s.setChan ch { c1 with errors := min 65535 (c1.errors + 1) }).event 3 st (chanWhere ch owner) at_).cause 2
    else s.setChan ch { c1 with errors := min 65535 (c1.errors + 1) }

/-- One packet of a transaction has been answered. -/
def State.answerTxn (s : State) (t : Txn) : State :=
  if t.packets ≤ 1 then s.dropTxn t else s.setTxn { t with packets := t.packets - 1 }

/-- A packet of a transaction cannot be completed (R306, R364, R377, R389): its owner learns it. -/
def State.failTxn (s : State) (tid tseq : Nat) : State :=
  match s.txn tid tseq with
  | none => s
  | some t =>
    let s1 := s.answerTxn t
    match t.owner with
    | .xfer ch id slot => s1.busError ch id slot t.read (t.place tseq)
    | .descRead r j => s1.complete r j St.strReadErr 0 0
    | .coll r j =>
      (match s1.coll r j with
       | some c => s1.stopColl c St.lnkUnreachable
       | none => s1)
    | .parity => s1.cause 6
    | .fill => s1
    | .snapshot r j => s1.complete r j St.strWriteErr 0 (4096 * tseq)

/-! ### Sending (R372) -/

def LinkSt.queued (l : LinkSt) : Nat := (l.txq.map fun x => x.2.length).foldl (· + ·) 0

/-- The link that a packet takes: the lowest for ordered and pinned traffic, else the one with the fewest
flits queued, the lowest number winning a tie. -/
def State.pickLink (s : State) (lowest : Bool) : List Nat → Option Nat
  | [] => none
  | l :: r =>
    if lowest then some l
    else match s.pickLink lowest r with
      | none => some l
      | some m => if (s.link m).queued < (s.link l).queued then some m else some l

def LinkSt.enqueue (l : LinkSt) (vc : Nat) (fs : List TxFlit) : LinkSt :=
  { l with txq := Tbl.put l.txq vc (Tbl.get l.txq [] vc ++ fs) }

/-- A message to another module is lost (R311, R377): a channel's signal is posted with its channel, and the tile
that issued the transfer reports its step as not clean. -/
def State.lostMessage (s : State) (rank order : Nat) : State :=
  match s.net.replay.find? fun e => e.rank == rank && e.order == order with
  | none => s
  | some e =>
    let s1 := { s with net := { s.net with replay := s.net.replay.erase e } }
    match e.chan with
    | some c =>
      let s2 := s1.event 3 St.lnkUnreachable (chanWhere c e.tile) rank
      if e.tile.isSome then s2.cause 2 else s2
    | none => s1.event 4 St.lnkUnreachable 0 rank

/-- A packet cannot leave: its transfer meets a bus error and the loss is posted (R364, R377, R484). -/
def State.lostPacket (s : State) (p : Packet) : State :=
  let s1 := if p.src = s.rank ∧ (p.kind = 0 ∨ p.kind = 1 ∨ p.kind = 5 ∨ p.kind = 6) then s.failTxn p.tid p.tseq else s
  if p.src = s.rank ∧ p.kind = PK.message then s1.lostMessage p.dst p.tseq
  else s1.event 4 St.lnkUnreachable 0 p.dst

/-- Queue a packet on a link of its route. One to an absent rank is discarded at its source (R484), but for the fill of a module
that is held for repair (R489). DEDUCED: log entry 38. -/
def State.sendPacket (s : State) (vc : Nat) (p : Packet) : State :=
  if s.absentNow p.dst ∧ p.src = s.rank ∧ ¬(p.kind = PK.parity ∧ s.fillsItself p.dst = true) then s.lostPacket p
  else match s.pickLink (p.ordered || decide (5 ≤ vc)) (s.routeUp p.dst) with
    | none => s.lostPacket p
    | some l => s.setLink l ((s.link l).enqueue vc (p.flits vc))

/-- A packet of this module. -/
def State.packet (s : State) (dst kind addr tid tseq : Nat) (bs : List PByte) (ordered last : Bool) : Packet :=
  Packet.sealed ⟨dst, 1, s.rank, kind, ordered, last, addr % 2 ^ 44, bs.length, tid, tseq, poisonBits bs, bs.map Prod.fst, 0, 0⟩

/-- Cut bytes into parts of at most 4,096. -/
def cutPackets : Nat → List PByte → List (List PByte)
  | 0, _ => []
  | _, [] => []
  | n + 1, b => b.take 4096 :: cutPackets n (b.drop 4096)

/-- Where a part of a transfer stands in it (R370): transfer id, TSEQ of its first packet, whether the transfer ends with it. -/
structure InXfer where
  tid : Nat
  first : Nat
  last : Bool
  deriving DecidableEq, Repr

/-- Write bytes at a peer's address as packets of one transaction (R370, R375). -/
def State.netWrite (s : State) (owner : Owner) (x : InXfer) (vc : Nat) (ordered : Bool) (a off : Nat) (bs : List PByte) : State :=
  let parts := cutPackets (bs.length / 4096 + 1) bs
  let n := parts.length
  let rank := addrRank a
  (s.addTxn ⟨x.tid, x.first, n, rank, owner, false, n, off, bs.length⟩).each parts.zipIdx fun s p =>
    s.sendPacket vc
      (s.packet rank PK.write (a + 4096 * p.2) x.tid (x.first + p.2) p.1 ordered (x.last && p.2 + 1 == n))

/-- Number of packets that a write of `n` bytes takes. -/
def packetsOf (n : Nat) : Nat := (n + 4095) / 4096

/-- A read of a peer's window (R374): READ_REQ packets naming up to 4,096 B each. The packet's LEN is the
number of bytes asked for, and its POISON, which has no data to mark, the channel of the answer. DESIGN CHOICE: log entry 29. -/
def State.netRead (s : State) (owner : Owner) (x : InXfer) (vc a off n : Nat) : State :=
  let rank := addrRank a
  let k := packetsOf n
  (s.addTxn ⟨x.tid, x.first, k, rank, owner, true, k, off, n⟩).each (List.range k) fun s i =>
    s.sendPacket VC.ctrl (Packet.sealed
      ⟨rank, 1, s.rank, PK.readReq, false, x.last && i + 1 == k, (a + 4096 * i) % 2 ^ 44, min 4096 (n - 4096 * i), x.tid,
        x.first + i, vc, [], 0, 0⟩)

/-! ### Control messages -/

/-- A KIND 8 packet. -/
def State.sendCtrl (s : State) (dst : Nat) (data : List Byte) : State :=
  s.sendPacket VC.ctrl (s.packet dst PK.ctrl 0 0 0 (clean data) false true)

/-- A KIND 8 packet over one link to its neighbour, whatever the routes are: a route probe, or its answer (R380). DEDUCED: log
entry 31. DEDUCED: log entry 31. -/
def State.sendOver (s : State) (l dst : Nat) (data : List Byte) : State :=
  s.setLink l ((s.link l).enqueue VC.ctrl ((s.packet dst PK.ctrl 0 0 0 (clean data) false true).flits VC.ctrl))

/-- A write acknowledgement: transfer id, place, error (R375). -/
def State.sendWack (s : State) (dst tid tseq : Nat) (err : Bool) : State :=
  s.sendPacket VC.ctrl (s.packet dst PK.wack 0 tid tseq (clean (leBytes 1 (if err then 1 else 0))) false true)

/-- UNREACHABLE to a packet's source (R377): the packet's kind, transfer, place and destination. -/
def State.sendUnreachable (s : State) (p : Packet) : State :=
  s.sendPacket VC.ctrl (s.packet p.src PK.unreachable 0 p.tid p.tseq
    (clean (leBytes 1 p.kind ++ leBytes 4 p.dst ++ leBytes 1 (leNat (p.data.take 1)))) false true)

/-! ### Handcart messages between modules (R373) -/

def HcTarget.code : HcTarget → Nat
  | .tile t => t * 2 ^ 20
  | .chan u e c => 2 ^ 36 + u * 2 ^ 12 + e * 2 ^ 5 + c
  | .mbox m => 2 * 2 ^ 36 + m

/-- IDENT (Table 08.9). -/
def State.ident (s : State) (tile : Nat) (poison : Bool) (seq : Nat) : Nat :=
  s.rank + tile % 2 ^ 14 * 2 ^ 20 + (if poison then 2 ^ 34 else 0) + s.step.lastStep % 4 * 2 ^ 35 +
    s.step.lastAttempt % 4 * 2 ^ 37 + seq % 2 ^ 16 * 2 ^ 48

/-- Send a message to another module: take an order number, keep the message in the replay store, and queue its
packet (R373). The caller has checked that the store has room. -/
def State.sendMessage (s : State) (m : HcMsg) (tile : Option Nat) (chan : Option Nat) : State :=
  let order := Tbl.get s.net.sendOrder 0 m.rank
  let bytes := m.header ++ leBytes 8 (s.ident (tile.getD 0) m.poison order) ++ m.payload
  let p := s.packet m.rank PK.message (3 * 2 ^ 40 + m.target.code) s.net.nextTid order (bytes.map fun b => (b, m.poison)) false
    true
  ({ s.useTids 1 with net := { (s.useTids 1).net with
      sendOrder := Tbl.put s.net.sendOrder m.rank ((order + 1) % 2 ^ 16)
      replay := s.net.replay ++ [(⟨m.rank, order, p, none, chan, tile, 0⟩ : HcStored)] } }).sendPacket VC.handcart p

def State.replayRoom (s : State) : Bool := decide (s.net.replay.length < 4096)

/-! ### Packets that have arrived (R372) -/

/-- The first whole packet on a link that satisfies `p`. -/
def State.arrived (s : State) (l : Nat) (p : Packet → Bool) : Option Arrived :=
  (s.link l).arrived.find? fun a => p a.pkt

/-- Take a packet out of its receive slots, whose credits go back (R366). -/
def LinkSt.consume (l : LinkSt) (a : Arrived) : LinkSt :=
  { l with
    arrived := l.arrived.erase a
    giveBack := a.pools.foldl (fun t p =>
      let k := a.vc * 32 + p
      Tbl.put t k (Tbl.get t 0 k + 1)) l.giveBack }

def State.consume (s : State) (l : Nat) (a : Arrived) : State := s.setLink l ((s.link l).consume a)

/-- Is the packet a KIND 8 message of this module with this first byte? -/
def Packet.isCtrl (p : Packet) (self code : Nat) : Bool :=
  p.kind == PK.ctrl && p.dst == self && leNat (p.data.take 1) == code

/-- Count and post a failed end-to-end CRC (R371). -/
def State.checkCrc (s : State) (l : Nat) (p : Packet) : State :=
  if p.good then s else s.event 4 St.lnkE2eCrc l p.src

/-- Take the first packet of a kind for this module and act on it. DESIGN CHOICE: log entry 4. -/
def State.onPacket (s : State) (l kind : Nat) (f : State → Packet → State) : State :=
  match s.arrived l fun p => p.kind == kind && p.dst == s.rank with
  | none => s
  | some a => f ((s.consume l a).checkCrc l a.pkt) a.pkt

/-- Take the first KIND 8 message with this first byte; one that fails its CRC is discarded. DESIGN CHOICE: log entry 4. -/
def State.onCtrl (s : State) (l code : Nat) (f : State → Packet → State) : State :=
  match s.arrived l fun p => p.isCtrl s.rank code with
  | none => s
  | some a =>
    let s1 := (s.consume l a).checkCrc l a.pkt
    if a.pkt.good then f s1 a.pkt else s1

end Sys2Proof.Machine
end

