-- ==== Sys2Proof/Machine/Transfer.lean ====
section
/-! DEFINITION. A stream transfer's bytes and slots (R298, R311). -/

namespace Sys2Proof.Machine

/-- The consumer's role of Table 08.7: a chain that waits on FULL. -/
def StrDesc.consumes (d : StrDesc) : Bool := d.wait && d.waitCtr == 0

/-- Bytes of the source sequence. -/
def StrDesc.total (d : StrDesc) : Nat := d.sLine * d.sCount

def StrDesc.slotBytes (d : StrDesc) : Nat :=
  if d.kind ≠ 0 ∨ d.slotLines = 0 then d.total
  else d.slotLines * (if d.consumes then d.sLine else d.dLine)

/-- Slots of a transfer; a COMPRESS or AREA_READ is one. -/
def StrDesc.slots (d : StrDesc) : Nat :=
  if d.kind ≠ 0 then 1 else (d.total + d.slotBytes - 1) / d.slotBytes

def StrDesc.slotLo (d : StrDesc) (k : Nat) : Nat := min d.total (k * d.slotBytes)

/-- The addresses at the two ends of a transfer, through the tensor that it names (R308, R309). -/
def Xfer.ends (x : Xfer) (d : StrDesc) : Nat × Nat :=
  let base := x.td.map fun t => t.base
  (if d.kind = 2 then base.getD d.src else d.src, if d.kind = 1 then base.getD d.dst else d.dst)

end Sys2Proof.Machine
end

