-- ==== Sys2Proof/Machine/Tick.lean ====
section
/-! DEFINITION. A nanosecond of device time with no command: the count advances under its slew, every idle tile
charges one nanosecond to its cause, and messages on the die network go on (R33, R109, R244, R316, R442, R443). -/

namespace Sys2Proof.Machine

def State.regionShort (s : State) (r : Nat) : Bool :=
  bitOf (s.regs.getAt Reg.FAB_PACE_SHORT_SHORT (r / 64)) (r % 64)

/-- Codes of the idle causes in the order of Table 01.6. -/
def causeOrder : List Nat := [7, 8, 6, 0, 3, 1, 2, 4, 5]

/-- The first cause of Table 01.6 among those whose conditions hold (R33). -/
def firstCause (l : List Nat) : Option Nat := causeOrder.find? l.contains

/-- The causes of a wait for another tile of the module: PACE when its region is short, and IMBALANCE. -/
def State.tileCauses (s : State) (u : Nat) : List Nat := if s.regionShort (regionOf u) then [6, 5] else [5]

/-- The idle causes of a transfer's end, as tile `t` waits for it (R33, R196). -/
def State.farCauses (s : State) (t a : Nat) : List Nat :=
  if addrRank a ≠ s.rank then [0]
  else match addrWindow a with
    | 1 => [1]
    | 2 => [2]
    | _ =>
      let u := addrOffset a / 2 ^ 19
      if u = t then [5] else s.tileCauses u

/-- Is a collective operation that a channel has handed over still running (R389)? -/
def State.collRuns (s : State) (ch : Nat) : Bool := s.step.colls.any fun c => c.chan == some ch && c.started

/-- Does the address lie in the coach bays of a ring (R163)? -/
def State.inBay (s : State) (a : Nat) : Bool :=
  let base := s.regs.get Reg.CMP_KV_BASE_BASE
  addrRank a == s.rank && addrWindow a == 1 && s.kv.any fun k =>
    k.kind == 1 && decide ((base + k.first) * 65536 ≤ addrOffset a ∧ addrOffset a < (base + k.first + k.units) * 65536)

/-- Does a transfer wait for a coach to land in the bay that it reads (R164)? -/
def State.awaitsCoach (s : State) (x : Xfer) : Bool :=
  match x.job with
  | .stream d => d.consumes && x.moved == x.granted && decide (x.granted < d.slots) && s.inBay d.src
  | .step _ => false
  | .object _ => false

/-- Does a sender wait for its successor's signal that a bay is free (R164)? -/
def State.awaitsPeer (s : State) (ch : Nat) (x : Xfer) : Bool :=
  match x.job with
  | .stream d => d.wait && d.waitCtr == 1 && x.moved == x.granted && decide (x.granted < d.slots) && addrRank d.dst != s.rank &&
      (s.chan ch).sem.emptyRemote
  | .step _ => false
  | .object _ => false

/-- What waiting for a piece of a channel's work waits for: a transfer's ends, or a collective's members. -/
def State.jobCauses (s : State) (t ch : Nat) (x : Xfer) : List Nat :=
  match x.job with
  | .stream d =>
    (if s.awaitsCoach x then [0] else if s.awaitsPeer ch x then [3] else []) ++ s.farCauses t (x.ends d).1 ++
      s.farCauses t (x.ends d).2
  | .step _ => if s.collRuns ch then [0] else [5]
  | .object _ => [1]

/-- Causes of the work of a channel, in progress and queued; `mine` picks a tile's own transfers (R195) from all. -/
def State.chanCauses (s : State) (t ch : Nat) (mine : Bool) : List Nat :=
  let c := s.chan ch
  let l := c.busy.toList ++ c.queue
  let own := fun (x : Xfer) => match x.by_ with
    | .tile u _ => u == t
    | .ring _ _ => false
  (l.filter fun x => !mine || own x || x.isStep && l.any own).flatMap (s.jobCauses t ch)

/-- Is a transfer moving bytes through the tile's stream port (R109)? It is from the move of its first slot to its end,
but for the waits of a chain on its pair. -/
def State.crosses (s : State) (t : Nat) (x : Xfer) : Bool :=
  match x.job with
  | .stream d =>
    let here := fun (a : Nat) => addrRank a == s.rank && addrWindow a == 0 && addrOffset a / 2 ^ 19 == t
    (here (x.ends d).1 || here (x.ends d).2) && decide (0 < x.moved) && !(d.wait && x.moved == x.granted &&
      decide (x.granted < d.slots))
  | .step _ => false
  | .object _ => false

/-- The matrix engine has no operand yet: it waits for its first table slot (R244). -/
def Tile.starved (t : Tile) (f : Inflight) : Bool :=
  match f.work with
  | .mma _ => !t.building.isEmpty
  | .att _ => !t.building.isEmpty
  | _ => false

/-- Is an engine, a stream port transfer or a tree operation of the tile in progress (R109)? -/
def State.tileWorks (s : State) (t : Nat) (x : Tile) : Bool :=
  (x.inflight.any fun f => !x.starved f) || s.chans.any fun c => c.2.busy.toList.any (s.crosses t)

/-- The tile's stop for a safety check (R470, R474). -/
def State.safetyHold (s : State) : Bool :=
  s.regs.flag Reg.SAF_SAFE_STATUS_ACTIVE || s.fab.trip.isSome || (s.regs.get Reg.SAF_STATUS_VOTE == 2 && !s.gate.decided)

/-- The module holds the tile for a repair: of its column (R16), or of committed pieces, as a release found it (R490). -/
def State.repairHold (s : State) (t : Nat) : Bool :=
  s.res.repairing ||
    s.fab.repairs.any fun r => r.copying && r.tile / 4096 == t / 4096 && r.tile % 64 == t % 64 && decide (r.tile ≤ t)

/-- Does a spare fill hold the tile back? A fill rewrites the state that the tile's program works on (R33, R486). -/
def State.fillHold (s : State) : Bool := s.res.fill.isSome

/-- Causes of a message's wait to leave, by its destination: LINK, HOST, or those of a local wait (R316). -/
def State.sendCauses (s : State) (rank : Nat) : Option HcTarget → List Nat
  | some (.mbox _) => [2]
  | some (.tile u) => if rank = s.rank then s.tileCauses u else [0]
  | _ => if rank = s.rank then [5] else [0]

/-- Causes of a wait for room in the stream port, by the destination of the message that waits (R316). -/
def State.portCauses (s : State) (x : Tile) : List Nat :=
  match x.fetch with
  | .sig f => s.sendCauses (bitsOf (x.regNat f.treg) 19 0) (some (.tile (bitsOf (x.regNat f.treg) 33 20)))
  | .hcsend f =>
    let a := x.regNat f.areg
    s.sendCauses (addrRank a) (match bitsOf a 39 36 with
      | 0 => some (.tile (bitsOf a 33 20))
      | 2 => some (.mbox (a % 2 ^ 12))
      | _ => none)
  | _ => [5]

/-- Can a coach be on its way to this module: a valid ring, with bays (R163)? -/
def State.ringOpen (s : State) : Bool :=
  (List.range 16).any fun n => s.regs.getAt Reg.CMP_RING_CFG_VALID n == 1 && s.kv.any fun k => k.kind == 1 && k.ring == n

/-- Does a channel's work signal the counter of the tile, and what does that work itself wait for (R164, R389): a coach, or a
member of a collective operation? -/
def State.feedCauses (s : State) (t p c : Nat) : List Nat :=
  let here := s.rank + t * 2 ^ 20 + p * 2 ^ 34 + c * 2 ^ 39
  (s.chans.flatMap fun x =>
    let runs := s.collRuns x.1
    (x.2.busy.toList ++ x.2.queue).flatMap fun y => match y.job with
      | .stream d => if d.slotSig ∧ d.target = here ∧ (runs = true ∨ s.awaitsCoach y = true) then [0] else []
      | .step _ => []
      | .object _ => []) ++
  (if s.step.colls.any fun k => k.started && (match s.host.desc k.ring k.index with
      | some d => d.stepTarget == here
      | none => false) then [0] else [])

/-- Is the module the predecessor on a ring with bays, whose FULL signals say that coaches have landed (R163)? -/
def State.sendsCoaches (s : State) (r : Nat) : Bool :=
  (List.range 16).any fun n => s.regs.getAt Reg.CMP_RING_CFG_VALID n == 1 && s.regs.getAt Reg.CMP_RING_CFG_PRED n == r &&
    s.kv.any fun k => k.kind == 1 && k.ring == n

/-- Causes of a WAIT (R119, R164, R167, R389). A FULL counter that the predecessor of a ring raised last waits for its next coach,
and so does one that nothing has raised since the release while a ring is open and no transfer of the module is to raise it.
DESIGN CHOICE: log entry 62. -/
def State.semCauses (s : State) (t p c : Nat) (x : Tile) : List Nat :=
  s.feedCauses t p c ++
  (match Tbl.find x.raised (p * 2 + c) with
   | some (.tile u) => s.tileCauses u
   | some .chan => []
   | some (.peer r) => if c = 0 ∧ s.sendsCoaches r = true then [0, 3] else [3]
   | none => if c = 0 ∧ s.ringOpen = true then [0] else []) ++ [5]

/-- Can the record of a table not be read now: the stacks are out of reach, its area is being poisoned, or its bank has no slot
(R244, R259, R268)? -/
def State.tableWaits (s : State) (a : Nat) : Bool := a != 0 && !s.memOpen a 576

/-- Causes of the matrix engine's wait for a table slot: MEMORY while a table cannot be read, otherwise EXPANDER (R244).
DESIGN CHOICE: log entry 62. -/
def State.slotCauses (s : State) (x : Tile) : List Nat :=
  match x.building with
  | [] => []
  | b :: _ => if x.inflight.any x.starved then [if s.tableWaits b.1 then 1 else 4] else []

/-- What holds back the sequencer's next issue, as causes. -/
def State.stallCauses (s : State) (t : Nat) (x : Tile) : List Nat :=
  match x.stall with
  | .wait p c _ => s.semCauses t p c x
  | .stwait e c => s.chanCauses t (t / 4096 * 2048 + e * 16 + c) true ++ [5]
  | .ending =>
    (x.streams.flatMap fun y =>
      if y.2 = 0 then [] else s.chanCauses t (t / 4096 * 2048 + y.1 / 8 * 16 + y.1 % 8) true) ++
    (x.port.flatMap fun m => s.sendCauses m.msg.rank (some m.msg.target)) ++ [5]
  | .port => s.portCauses x
  | .queue =>
    (match x.fetch with
     | .stream f => s.chanCauses t (t / 4096 * 2048 + f.engine * 16 + f.channel) false
     | _ => []) ++ [5]
  | _ => []

/-- The one cause that an idle tile charges now (R33, R109): a running tile with none of its work in progress that the module
holds, or that waits. DESIGN CHOICE: log entry 62. -/
def State.idleCause (s : State) (t : Nat) (x : Tile) : Option Nat :=
  if x.state ≠ .running ∨ s.tileWorks t x = true then none
  else
    let waits := s.slotCauses x ++ s.stallCauses t x
    firstCause ((if s.safetyHold then [7] else []) ++
      (if s.repairHold t ∨ (s.fillHold = true ∧ waits ≠ []) then [8] else []) ++ waits)

/-- A nanosecond of building a table slot. A slot whose table is not there yet is not built. -/
def Tile.buildSlot (t : Tile) (waits : Nat → Bool) : Tile :=
  match t.building with
  | [] => t
  | b :: r =>
    if t.inflight.any t.starved = false then { t with building := [] }
    else if waits b.1 then t
    else if b.2 ≤ 1 then { t with building := r }
    else { t with building := (b.1, b.2 - 1) :: r }

/-- A nanosecond on every tile: the idle ones charge it, the expanders build. -/
def State.chargeIdle (s : State) : State :=
  { s with tiles := Tbl.mapVals (fun t x => match s.idleCause t x with
      | some c => (x.charge c).buildSlot s.tableWaits
      | none => x.buildSlot s.tableWaits) s.tiles }

/-- Units of 2^-32 ns that a slew of 10 µs per second moves in a nanosecond (R443). -/
def slewStep : Nat := 42949

/-- Device time after a nanosecond of the oscillator, with its slew. Time never goes backward. -/
def TimeSt.advance (t : TimeSt) : TimeSt :=
  let d : Int := if t.slew > 0 then min t.slew slewStep else max t.slew (-(slewStep : Int))
  let total : Int := ((t.ns * 2 ^ 32 + t.frac + 2 ^ 32 : Nat) : Int) + d
  let n := total.toNat
  { t with ns := n / 2 ^ 32 % 2 ^ 64, frac := n % 2 ^ 32, slew := t.slew - d }

/-- The level of a time output that rises at each multiple of `period` and stays high for `width`, where it stood at `high` a
nanosecond ago, with device time at `before` (R453, R544). -/
def pinLevel (high : Bool) (period width before now : Nat) : Bool :=
  decide (now % period < width) && (high || decide (before / period < now / period))

/-- The time outputs: PPS_OUT is high for 100 µs from each whole second, REF10M_OUT for half of every 100 ns, in LOCKED and
HOLDOVER, and low otherwise (R453, R544). Device time stood at `before` one nanosecond ago. -/
def State.timePins (s : State) (before : Nat) : State :=
  let live := let k := s.regs.get Reg.TIM_STATUS_STATE; k == 2 || k == 3
  let pps := live && s.regs.flag Reg.TIM_SRC_CTL_PPS_OUT && pinLevel s.time.ppsHigh (10 ^ 9) 100000 before s.now
  let ref := live && s.regs.flag Reg.TIM_SRC_CTL_MHZ10_OUT && pinLevel s.time.refHigh 100 50 before s.now
  let s1 := if pps = s.time.ppsHigh then s else s.emit (.pps pps)
  let s2 := if ref = s.time.refHigh then s1 else s1.emit (.mhz10 ref)
  { s2 with time := { s2.time with
    ppsHigh := pps
    refHigh := ref } }

/-- Count the milliseconds of device time, up to now, in which the current limiter has acted and that are not yet counted
(R530). -/
def State.countLimit (s : State) : State :=
  let upTo := (if s.fab.limitSince < s.now then s.now - 1 else s.now) / 10 ^ 6 + 1
  let from_ := max s.fab.limitMs (s.fab.limitSince / 10 ^ 6)
  ({ s with fab := { s.fab with limitMs := max s.fab.limitMs upTo } }).addReg Reg.SAF_INPUT_PEAK_LIMIT_MS (upTo - from_)

/-- A nanosecond; without power nothing happens. DESIGN CHOICE: log entry 3. DESIGN CHOICE: log entry 52.
DESIGN CHOICE: log entry 53. -/
def State.tick (s : State) : State :=
  if s.fab.powered = false then s
  else
    let s1 := ({ s.chargeIdle with
      time := s.time.advance
      net := s.net.advanceMesh }).timePins s.now
    if s1.fab.limiter then s1.countLimit else s1

end Sys2Proof.Machine
end

