-- ==== Sys2Proof/Machine/TileCommands.lean ====
section
/-! DEFINITION. The commands of one tile's sequencer and engines (chapters 03 and 05), on the whole state: each
picks the tile, checks that its sequencer is about to issue exactly that instruction, and takes the outcome. -/

namespace Sys2Proof.Machine

/-- May tiles issue at all (R430, R470, R474)? -/
def State.tilesRun (s : State) : Bool :=
  !s.safetyHold && !s.fab.parked && !s.host.perst && s.stepState != 6

/-- The tile is about to issue `i`. DESIGN CHOICE: log entry 4. -/
def State.issues (s : State) (t : Nat) (i : TInsn) : Bool :=
  s.tilesRun && !s.repairHold t && (s.tile t).at_ i

/-- Does the running step trace this tile (R436)? -/
def State.traced (s : State) (t : Nat) : Bool :=
  match s.step.run with
  | some r => r.cfg.trace && decide (r.cfg.traceFirst ≤ t ∧ t < r.cfg.traceFirst + r.cfg.traceCount)
  | none => false

/-- Write a trace entry for an instruction that issued at `pc`, or count it as lost (R436). DEDUCED: log entry 36. -/
def State.trace (s : State) (t pc opcode : Nat) : State :=
  match s.step.run with
  | none => s
  | some r =>
    let n := s.regs.get Reg.TRN_TRACE_STATUS_ENTRIES
    if s.traced t = false then s
    else if n < r.cfg.traceSize * 256 then
      let a := r.cfg.traceBase + 16 * n
      (s.addReg Reg.TRN_TRACE_STATUS_ENTRIES 1).put a
        (clean (leBytes 2 t ++ leBytes 2 pc ++ leBytes 1 opcode ++ leBytes 3 0 ++ leBytes 8 s.now))
    else s.addReg Reg.TRN_TRACE_STATUS_LOST 1

/-- Opcode of the word at PC (R185). -/
def Tile.opcode (t : Tile) : Nat := bitsOf (t.mem.nat (progBase + 8 * t.pc) 8) 63 56

/-- Is the instruction at PC held before issue, or refused? -/
def Tile.heldBack (t : Tile) : Bool :=
  match t.stall with
  | .hazard => true
  | .port => true
  | .queue => true
  | .refused => true
  | _ => false

/-- Apply a change to a tile. -/
def State.onTile (s : State) (t : Nat) (f : Tile → TileRes) : State := s.takeTile t (f (s.tile t))

/-- The fetch of the instruction at PC meets the check codes of the program region (R113). -/
def State.fetched (s : State) (t : Nat) : State := s.onTile t fun x => x.touch t (progBase + 8 * x.pc) 8

/-- Issue the instruction at PC with the outcome `f` gives, and trace it if it issued (R436). -/
def State.issue (s : State) (t : Nat) (i : TInsn) (f : Tile → TileRes) : State :=
  if s.issues t i then
    let s0 := s.fetched t
    let x := s0.tile t
    let r := f x
    let s1 := s0.takeTile t r
    if r.tile.heldBack then s1 else s1.trace t x.pc x.opcode
  else s

/-- What a tile instruction reads of the rest of the module. -/
def State.tileCtx (s : State) (t : Nat) : TileCtx where
  num := t
  seed := s.seed
  stack :=
    let lost := (s.stack.uncorr ++ s.stack.single).filter fun w => s.beyondCode w (64 * w)
    { s.stack with poison := NSet.addAll s.stack.poison lost }
  calBase := s.regs.get Reg.CMP_CAL_BASE_BASE * 128
  slotNs := let mhz := s.regs.get Reg.FAB_PACE_TARGET_TARGET; (64000 + mhz - 1) / mhz
  rings := (List.range 16).map fun n =>
    let kib := s.regs.getAt Reg.CMP_RING_TRAIN_BAY_KIB n
    { valid := s.regs.getAt Reg.CMP_RING_CFG_VALID n == 1
      baysOk := s.kv.any fun k => k.kind == 1 && k.ring == n &&
        decide (2 * s.regs.getAt Reg.CMP_RING_TRAIN_TRAIN n * kib ≤ 64 * k.units) }

def State.ctabBase (s : State) : Nat := s.regs.get Reg.CMP_CTAB_BASE_BASE * 4096

/-- How an engine judges the instruction `i`, and what it will do. DEDUCED: log entry 14. -/
def State.planOf (s : State) (t : Nat) (i : TInsn) (x : Tile) : Judged :=
  let c := s.tileCtx t
  match i with
  | .vop f => planVop x f
  | .vred f => planVred x f
  | .cvt f => planCvt c x f
  | .merge f => planMerge x f
  | .mma f => planMma c s.ctabBase x f
  | .att f => planAtt c s.ctabBase (fun n => s.regs.getAt Reg.CMP_RING_CFG_POSITION n)
      (fun n => s.regs.getAt Reg.CMP_RING_CFG_SIZE n) x f
  | _ => .ok Plan.nothing

/-- Issue an instruction that an engine carries out. -/
def State.issueWork (s : State) (t : Nat) (i : TInsn) : State :=
  s.issue t i fun x => x.issueWork t (s.tileCtx t).slotNs (x.preReads i) (s.planOf t i)

/-! ### Status class -/

/-- NOP (R187): The tile issues a NOP, which has no effect. -/
def execNop (t : Nat) (s : State) : Host.Outcome State Fault Refusal :=
  .next (s.issue t .nop fun x => x.advance t)

/-- END (R183): The tile issues END and stops issue until its outstanding work completes. -/
def execEnd (t : Nat) (s : State) : Host.Outcome State Fault Refusal :=
  .next (s.issue t .fin fun x => .ok x.issueEnd)

/-- END completes (R183). -/
def execTileEndDone (t : Nat) (s : State) : Host.Outcome State Fault Refusal :=
  .next (if s.tilesRun then s.onTile t fun x => x.endDone t else s)

/-- RDREG (R188): The tile copies a tile register into a scalar register. -/
def execRdreg (t : Nat) (f : RdregF) (s : State) : Host.Outcome State Fault Refusal :=
  .next (s.issue t (.rdreg f) fun x => x.issueRdreg t f)

/-- WRREG (R188): The tile writes a tile register field by field under its access codes, clearing CMP_ASW flags written with
1. -/
def execWrreg (t : Nat) (f : WrregF) (s : State) : Host.Outcome State Fault Refusal :=
  .next (s.issue t (.wrreg f) fun x => x.issueWrreg t f)

/-- FENCE (R187): The tile issues FENCE and waits until every issued instruction has completed. -/
def execFence (t : Nat) (s : State) : Host.Outcome State Fault Refusal :=
  .next (s.issue t .fence fun x => x.issueFence t)

/-- FENCE_SATISFIED (R187): Every instruction issued before a FENCE has completed, so issue resumes. -/
def execFenceSatisfied (t : Nat) (s : State) : Host.Outcome State Fault Refusal :=
  .next (s.onTile t fun x => .ok x.fenceSatisfied)

/-- TRAP raises ST_PROG_TRAP with its code (R188). -/
def execTrap (t code : Nat) (s : State) : Host.Outcome State Fault Refusal :=
  .next (s.issue t (.trap code) fun x => ({ x with stall := .none }).raise t St.progTrap x.pc code)

/-- An opcode that Table 05.5 does not list (R185). -/
def execIllegalOpcode (t : Nat) (s : State) : Host.Outcome State Fault Refusal :=
  .next (match (s.tile t).fetch with
    | .illegal op => s.issue t (.illegal op) fun x => x.refuse t St.illegalOp
    | _ => s)

/-! ### Branch and loop class -/

/-- LI (R189): A scalar register is loaded with a sign-extended 40-bit immediate. -/
def execLi (t : Nat) (f : LiF) (s : State) : Host.Outcome State Fault Refusal :=
  .next (s.issue t (.li f) fun x => x.issueLi t f)

/-- ADDI (R189): A scalar register receives another plus a sign-extended immediate, modulo 2^64. -/
def execAddi (t : Nat) (f : AddiF) (s : State) : Host.Outcome State Fault Refusal :=
  .next (s.issue t (.addi f) fun x => x.issueAddi t f)

/-- ALU (R189): A scalar ALU operation named by OP is applied to two registers. -/
def execAlu (t : Nat) (f : AluF) (s : State) : Host.Outcome State Fault Refusal :=
  .next (s.issue t (.alu f) fun x => x.issueAlu t f)

/-- BR (R189): A conditional branch is predicted, resolves 2 hc after issue, and may end an active loop. -/
def execBr (t : Nat) (f : BrF) (s : State) : Host.Outcome State Fault Refusal :=
  .next (s.issue t (.br f) fun x => x.issueBr t f)

/-- JMP (R189): The PC is set to TARGET, and any active loop whose body the target leaves becomes inactive. -/
def execJmp (t target : Nat) (s : State) : Host.Outcome State Fault Refusal :=
  .next (s.issue t (.jmp target) fun x => x.issueJmp t target)

/-- LOOP (R190): A hardware loop starts on a loop counter with a count taken from a register or the immediate. -/
def execLoop (t : Nat) (f : LoopF) (s : State) : Host.Outcome State Fault Refusal :=
  .next (s.issue t (.loop f) fun x => x.issueLoop t f)

/-- A loop counter has reached 0 after the instruction at END (R190). -/
def execLoopExit (t lc : Nat) (s : State) : Host.Outcome State Fault Refusal :=
  .next (s.onTile t fun x => .ok (x.loopExit lc))

/-- LOCKSTEP_MISMATCH (R175): The lockstep checker finds the two sequencer copies differ, so both reload their earlier state
and run the instruction again. -/
def execLockstepMismatch (t : Nat) (s : State) : Host.Outcome State Fault Refusal :=
  .next (s.onTile t fun x => x.lockMismatch t)

/-! ### Semaphore class -/

/-- Instructions in progress that write tile memory or a register file (R192). -/
def Tile.writers (t : Tile) : List Nat := (t.inflight.filter fun f => f.wr != 0).map fun f => f.id

/-- The signal fields of a message header (Table 08.9). -/
def signalHeader (pair ctr count : Nat) : List Byte :=
  leBytes 4 0 ++ leBytes 1 (pair % 32 + 32 * (ctr % 2) + 64) ++ leBytes 1 count ++ leBytes 2 0

/-- A stream port holds 4 outgoing messages (R316). -/
def Tile.queueMsg (t : Tile) (num : Nat) (m : PortMsg) : TileRes :=
  if t.port.length < 4 then ({ t with port := t.port ++ [m], stall := .none }).advance num
  else .ok { t with stall := .port }

/-- SIG (R191, R192): the tile's own semaphore, or a message to another tile; a rank with no route is a
program fault (R377). -/
def Tile.issueSig (num self : Nat) (routed : Nat → Bool) (t : Tile) (f : SigF) : TileRes :=
  if f.count = 0 then t.advance num
  else
    let after : List Nat := if f.scope = 0 then t.writers else []
    if f.treg = 0 then
      if after = [] then (t.signal num f.pair f.ctr f.count (.tile num) t.pc).bind fun x =>
        if x.state = .running then x.advance num else .ok x
      else ({ t with selfSigs := t.selfSigs ++ [(⟨after, t.pc, f.pair, f.ctr, f.count⟩ : SelfSig)] }).advance num
    else
      let w := t.regNat f.treg
      let rank := bitsOf w 19 0
      let tile := bitsOf w 33 20
      if rank = self ∧ tile = num ∧ after = [] then
        (t.signal num f.pair f.ctr f.count (.tile num) t.pc).bind fun x =>
          if x.state = .running then x.advance num else .ok x
      else if routed rank = false then t.refuse num St.lnkNoRoute
      else t.queueMsg num (⟨⟨rank, .tile tile, signalHeader f.pair f.ctr f.count, [], t.solo⟩, after, false⟩ : PortMsg)

/-- SIG (R192): The tile signals a semaphore counter of its own or of another tile, which may be on another module. -/
def execSig (t : Nat) (f : SigF) (s : State) : Host.Outcome State Fault Refusal :=
  .next (s.issue t (.sig f) fun x => x.issueSig t s.rank s.hasRoute f)

/-- WAIT (R193): The tile waits on a semaphore counter until it holds the count and then subtracts it. -/
def execWait (t : Nat) (f : WaitF) (s : State) : Host.Outcome State Fault Refusal :=
  .next (s.issue t (.wait f) fun x => x.issueWait t f)

/-- Waits stand still while the tile is held for a safety check (R470). -/
def execWaitSatisfied (t : Nat) (s : State) : Host.Outcome State Fault Refusal :=
  .next (if s.tilesRun then s.onTile t fun x => .ok x.waitSatisfied else s)

/-! ### Stream class, without STREAM itself -/

/-- STWAIT (R195): The tile waits until its transfers on one engine and channel have completed. -/
def execStwait (t : Nat) (f : StwaitF) (s : State) : Host.Outcome State Fault Refusal :=
  .next (s.issue t (.stwait f) fun x => x.issueStwait t f)

/-- STWAIT_SATISFIED (R195): Every transfer that the tile started on the named channel is complete, so issue resumes. -/
def execStwaitSatisfied (t : Nat) (s : State) : Host.Outcome State Fault Refusal :=
  .next (s.onTile t fun x => .ok x.stwaitSatisfied)

/-- Engines and channels of a unit (Table 08.1). -/
def unitOk (unit engine channel : Nat) : Bool :=
  if unit < 4 then decide (engine < 128 ∧ channel < 8) else unit == 4 && decide (engine < 16 ∧ channel < 16)

/-- The target that a handcart offset names (Table 08.8, R313). -/
def hcTarget (off mboxes : Nat) : Option HcTarget :=
  match bitsOf off 39 36 with
  | 0 => if off = bitsOf off 33 20 * 2 ^ 20 then some (.tile (bitsOf off 33 20)) else none
  | 1 =>
    let u := bitsOf off 14 12
    let e := bitsOf off 11 5
    let c := bitsOf off 4 0
    if off % 2 ^ 36 = off % 2 ^ 15 ∧ unitOk u e c = true then some (.chan u e c) else none
  | 2 => if off % 2 ^ 36 < 2 ^ 12 ∧ off % 2 ^ 12 < mboxes then some (.mbox (off % 2 ^ 12)) else none
  | _ => none

/-- The sender's checks of a message, in order: the address (R22, R313), the route (R377), the header (R315). -/
def hcJudge (self mboxes : Nat) (routed : Nat → Bool) (a : Nat) (header : List Byte) (payload : Nat) : Except Nat HcTarget :=
  if addrWindow a ≠ 3 then .error St.addrWindow
  else if bitsOf a 39 36 = 2 ∧ addrRank a ≠ self then .error St.addrRemoteHost
  else match hcTarget (addrOffset a) mboxes with
    | none => .error St.addrRange
    | some tgt =>
      if routed (addrRank a) = false then .error St.lnkNoRoute
      else match tgt with
        | .tile n =>
          let dst := leNat (header.take 4) % 2 ^ 19
          if payload ≠ 0 ∧ dst % 16 ≠ 0 then .error St.paramCode
          else if payload ≠ 0 ∧ dst + payload > progBase then .error St.progRegion
          else .ok (.tile n)
        | .chan u e c => if payload ≠ 0 then .error St.paramCode else .ok (.chan u e c)
        | .mbox m => .ok (.mbox m)

/-- HCSEND (R194, R314 to R316). -/
def Tile.issueHcsend (num self mboxes : Nat) (routed : Nat → Bool) (t : Tile) (f : HcsendF) : TileRes :=
  if t.hazard (maskOf (t.preReads (.hcsend f))) 0 then .ok { t with stall := .hazard }
  else
    let n := 16 * (f.len + 1)
    match t.tileRef f.ref n with
    | .error e => t.refuse num e
    | .ok a =>
      (t.touch num a n).bind fun (x : Tile) =>
        let b : List Byte := x.mem.read a n
        let addr : Nat := x.regNat f.areg
        match hcJudge self mboxes routed addr (b.take 16) (n - 16) with
        | .error e => x.refuse num e
        | .ok tgt =>
          let m : PortMsg := ⟨⟨addrRank addr, tgt, b.take 8, b.drop 16, x.mem.poisoned a n || x.solo⟩, [], false⟩
          x.queueMsg num m

/-- HCSEND (R315): The tile checks a handcart message and queues it in its stream port. -/
def execHcsend (t : Nat) (f : HcsendF) (s : State) : Host.Outcome State Fault Refusal :=
  .next (s.issue t (.hcsend f) fun x =>
    x.issueHcsend t s.rank (s.regs.get Reg.HIF_MBOX_CTL_COUNT) s.hasRoute f)

/-! ### Vector, matrix and attention classes -/

/-- VOP (R199): The vector engine applies an elementwise function to up to three sources. -/
def execVop (t : Nat) (f : VopF) (s : State) : Host.Outcome State Fault Refusal :=
  .next (s.issueWork t (.vop f))

/-- VRED (R198): The vector engine reduces L elements by sum, maximum or minimum. -/
def execVred (t : Nat) (f : VredF) (s : State) : Host.Outcome State Fault Refusal :=
  .next (s.issueWork t (.vred f))

/-- CVT (R57): The vector engine converts elements between formats in the named rounding mode, applying the tensor's scale
when SCALED is set. -/
def execCvt (t : Nat) (f : CvtF) (s : State) : Host.Outcome State Fault Refusal :=
  .next (s.issueWork t (.cvt f))

/-- MERGE (R77): The vector engine merges two attention row-state blocks in the wide format. -/
def execMerge (t : Nat) (f : MergeF) (s : State) : Host.Outcome State Fault Refusal :=
  .next (s.issueWork t (.merge f))

/-- MMA (R90): A matrix multiply-accumulate is checked and issued, and the cells begin adding products into their running
sums. -/
def execMma (t : Nat) (f : MmaF) (s : State) : Host.Outcome State Fault Refusal :=
  .next (s.issueWork t (.mma f))

/-- ATT_FORWARD (R147): An attention pass updates the row state of a query block with one key/value block, or is skipped when
the headers show no visible key. -/
def execAttForward (t : Nat) (f : AttF) (s : State) : Host.Outcome State Fault Refusal :=
  .next (if f.bwd then s
    else s.issueWork t (.att f))

/-- ATT_BACKWARD (R155): A backward attention pass recomputes probabilities and accumulates dQ, dK and dV. -/
def execAttBackward (t : Nat) (f : AttF) (s : State) : Host.Outcome State Fault Refusal :=
  .next (if f.bwd then s.issueWork t (.att f)
    else s)

/-- SEGMENT_VERIFY (R98): At the end of a segment the checksum residuals are compared with the tolerance, and a passing
segment spills into the wide partial. -/
def execSegmentVerify (t : Nat) (corrupt : List (Nat × Nat)) (s : State) : Host.Outcome State Fault Refusal :=
  .next (s.onTile t fun x => x.segVerify t s.seed corrupt)

/-- SEGMENT_RETRY_DONE (R100): A rerun of a failed segment ends, and the two attempts are judged under Table 03.4. -/
def execSegmentRetryDone (t : Nat) (corrupt : List (Nat × Nat)) (s : State) : Host.Outcome State Fault Refusal :=
  .next (s.onTile t fun x => x.segRetry t s.seed corrupt)

/-- MMA_COMPLETE (R97): After the last spill the final RTO add and conversion are written to the accumulator file and the
instruction completes. -/
def execMmaComplete (t : Nat) (s : State) : Host.Outcome State Fault Refusal :=
  .next (s.onTile t fun x => x.mmaComplete t)

/-- An instruction of the vector engine, or an attention pass, completes (R174). -/
def execInstructionComplete (t : Nat) (att : Bool) (s : State) : Host.Outcome State Fault Refusal :=
  .next (s.onTile t fun x => x.completeWork t att)

/-! ### Scrub and liveness -/

/-- Upsets that have struck the tile memory: the word, and whether the code can correct it. -/
def Tile.upset (t : Tile) (l : List (Nat × Bool)) : Tile :=
  { t with mem := l.foldl (fun m u =>
      if u.2 then { m with single := NSet.add m.single u.1 } else { m with uncorr := NSet.add m.uncorr u.1 }) t.mem }

/-- TMEM_SCRUB (R115): The tile-memory scrub reads and corrects its next word at lowest priority. -/
def execTmemScrub (t : Nat) (upsets : List (Nat × Bool)) (s : State) : Host.Outcome State Fault Refusal :=
  .next (s.onTile t fun x => (x.upset upsets).scrubNext t s.fab.scrubFrom s.now)

/-- A 10 ms pass ends; one that has not read every word by then counts in SCRUB_LATE (R115). -/
def execTmemScrubPassEnd (t : Nat) (late : Bool) (s : State) : Host.Outcome State Fault Refusal :=
  .next (s.onTile t fun x => .ok (x.scrubEnd late s.fab.scrubFrom s.now))

/-- The control stage advances the liveness count (R467). -/
def execLivenessAdvance (t : Nat) (s : State) : Host.Outcome State Fault Refusal :=
  .next (s.onTile t fun x => .ok (if x.liveDead then x else { x with live := x.live + 1 }))

/-- One tile's sample: unchanged for 10 ms marks it stalled; it is retired and the step is not clean. -/
def Tile.watch (num : Nat) (t : Tile) : TileRes :=
  if t.live ≠ t.liveSeen then .ok { t with liveSeen := t.live, liveMs := 0, liveDead := false }
  else if t.liveMs + 1 = 10 then
    ⟨{ t with liveMs := 10, retired := true },
     [.ev ⟨St.tileWatchdog, 0, 1, num, num⟩, .notClean num St.tileWatchdog, .retire num]⟩
  else .ok { t with liveMs := min 10 (t.liveMs + 1) }

/-- The watchdog of a die samples every tile's count (R467). DEDUCED: log entry 20. -/
def execWatchdogSample (die : Nat) (s : State) : Host.Outcome State Fault Refusal :=
  .next (s.each (List.range 4096) fun s i => s.onTile (die % 4 * 4096 + i) fun x =>
    x.watch (die % 4 * 4096 + i))

end Sys2Proof.Machine
end

