-- ==== Sys2Proof/Machine/Streams.lean ====
section
/-! DEFINITION. Stream transfers (chapter 08), with the compressor and area reads of chapter 06: acceptance,
slots and chains, completion, fences, bus errors. -/

namespace Sys2Proof.Machine

/-! ### The stream descriptor (Table 08.3) -/

/-- Parse a stream descriptor; a tile's SREG and DREG are added to SRC and DST (R294). -/
def StrDesc.parse (b : List Byte) (sreg dreg : Nat) : StrDesc :=
  let n := fun i k => leNat ((b.drop i).take k)
  { src := (n 0 8 + sreg) % 2 ^ 64
    dst := (n 8 8 + dreg) % 2 ^ 64
    sLine := n 16 4
    sStride := n 20 4
    sCount := n 24 4
    dLine := n 28 4
    dStride := n 32 4
    dCount := n 36 4
    extLen := n 40 4
    kind := n 44 1 % 16
    prio := n 44 1 / 16 % 8
    runahead := n 45 1 % 32
    cmp := n 46 1 % 128
    fmt := n 47 1 % 16
    table := n 48 2 % 4096
    wait := bitOf (n 50 1) 0
    waitCtr := n 50 1 / 2 % 2
    slotSig := bitOf (n 50 1) 2
    slotLines := n 52 4
    target := n 56 8 % 2 ^ 40 }

def StrDesc.mode (d : StrDesc) : Nat := d.cmp % 4
def StrDesc.rate (d : StrDesc) : Nat := d.cmp / 4 % 4
def StrDesc.build (d : StrDesc) : Bool := bitOf d.cmp 4
def StrDesc.inline_ (d : StrDesc) : Bool := bitOf d.cmp 5
def StrDesc.area (d : StrDesc) : Bool := bitOf d.cmp 6

/-! ### Patterns (R295) -/

structure Pat where
  base : Nat
  line : Nat
  stride : Nat
  count : Nat
  deriving DecidableEq, Repr

def Pat.at_ (p : Pat) (i : Nat) : Nat := p.base + i / p.line * p.stride + i % p.line

def Pat.total (p : Pat) : Nat := p.line * p.count

/-- The highest byte named, from the base. -/
def Pat.top (p : Pat) : Nat := (p.count - 1) * p.stride + p.line - 1

/-- The parts of bytes `lo` to `hi` − 1 of the sequence that lie on one line: index, address, length. -/
def Pat.parts (p : Pat) (lo hi : Nat) : List (Nat × Nat × Nat) :=
  if hi ≤ lo then []
  else (List.range ((hi - 1) / p.line + 1 - lo / p.line)).map fun k =>
    let l := lo / p.line + k
    let i := max lo (l * p.line)
    (i, p.at_ i, min hi ((l + 1) * p.line) - i)

def StrDesc.source (d : StrDesc) : Pat := ⟨d.src, d.sLine, d.sStride, d.sCount⟩

/-- Where a COPY writes; a run output is one line from DST (R308, R309). -/
def StrDesc.dest (d : StrDesc) : Pat :=
  if d.kind = 0 then ⟨d.dst, d.dLine, d.dStride, d.dCount⟩ else ⟨d.dst, d.dLine, 0, 1⟩

/-- Does a destination byte lie in a tile's program region (check 5)? -/
def Pat.meetsProgram (p : Pat) : Bool :=
  addrWindow p.base == 0 &&
    (List.range p.count).any fun l => decide (progBase < (addrOffset p.base + l * p.stride) % 2 ^ 19 + p.line)

/-! ### Compressed areas and element counts (R222, R238, R308, R309) -/

/-- Elements in a raw source of `n` bytes, if it divides. -/
def srcElems (f : Fmt) (n : Nat) : Option Nat :=
  if f.isMX then (if n % mxGroupBytes f = 0 then some (n / mxGroupBytes f * 256) else none)
  else if n % (f.elemBits / 8) = 0 then some (n / (f.elemBits / 8)) else none

/-- Elements of block `k` of `e` elements. -/
def blkCount (e k : Nat) : Nat := min 256 (e - 256 * k)

/-- Source bytes of a block of `count` elements. -/
def srcBytes (f : Fmt) (count : Nat) : Nat := if f.isMX then mxGroupBytes f else count * (f.elemBits / 8)

/-- The room a run of `n` elements needs at worst (R241, R308). -/
def worstRun (f : Fmt) (mode rate : Nat) (inl : Bool) (n : Nat) : Nat :=
  let nb := (n + 255) / 256
  if mode = 2 then nb * lossyBytes rate
  else ((List.range nb).map fun k => 16 * rawUnits f (blkCount n k)).foldl (· + ·) 0 +
    (if mode = 1 ∧ inl then 272 * ((nb + 63) / 64) else 0)

/-- Start of the data region of a lossless area, from its base. -/
def Tensor.dataOff (t : Tensor) : Nat := t.dirBytes + t.partBytes

/-- Start of block `k`'s home, from the base (R224, R238). -/
def Tensor.home (t : Tensor) (f : Fmt) (k : Nat) : Nat :=
  if t.mode = 2 then k * lossyBytes (t.cmp / 4) else t.dataOff + k * homeBytes f

/-! ### Acceptance (R299, Table 08.5) -/

/-- The outcome of the checks: accepted, completed at once, or refused with a status and completion flags. -/
inductive Judgement where
  | accepted
  | atOnce
  | refused (status flags : Nat)
  deriving DecidableEq, Repr

def channelValid (u e c : Nat) : Bool := unitOk u e c && !(decide (u < 4) && e == 127 && c == 7)

/-- Check 9: a slot signal to another rank needs a route. -/
def State.signalRouted (s : State) (d : StrDesc) : Bool := !d.slotSig || s.hasRoute (d.target % 2 ^ 20)

/-- The block that stands at byte `i` of a COPY's source in this module's memory (R139, R140), if its fields are those of one. -/
def State.blockAt (s : State) (d : StrDesc) (i : Nat) : Option AttHdr :=
  if addrRank d.src ≠ s.rank ∨ 1 < addrWindow d.src ∨ d.sLine < i % d.sLine + 64 then none
  else
    let off := addrOffset (d.source.at_ i)
    let h := AttHdr.parse (if addrWindow d.src = 1 then s.stack.read (s.regs.placed off) 64
      else (s.tile (off / 2 ^ 19)).mem.read (off % 2 ^ 19) 64)
    if h.tokensBad = false ∧ (attInFmt h.fmtK).isSome ∧ (attInFmt h.fmtV).isSome then some h else none

/-- A coach larger than its ring's bays (R163), sent to stacked memory at the successor of the ring that its ORIGIN names.
DESIGN CHOICE: log entry 59. -/
def State.coachTooLarge (s : State) (d : StrDesc) (h : AttHdr) : Bool :=
  let n := h.originRing
  addrWindow d.dst == 1 && addrRank d.dst != s.rank && s.regs.getAt Reg.CMP_RING_CFG_VALID n == 1 &&
    s.regs.getAt Reg.CMP_RING_CFG_SUCC n == addrRank d.dst &&
    decide (s.regs.getAt Reg.CMP_RING_TRAIN_BAY_KIB n * 1024 < h.size)

/-- The blocks that begin in a COPY's source from byte `i` on, before byte `hi`: whether one is a coach too large to send, and the
byte where the next may begin. A block begins on a source line, and the next one after it on the next line. DESIGN CHOICE: log
entry 59. DESIGN CHOICE: log entry 59. -/
def State.walkCoaches (s : State) (d : StrDesc) (hi : Nat) : Nat → Nat → Bool × Nat
  | 0, i => (false, i)
  | n + 1, i =>
    if hi ≤ i then (false, i)
    else match s.blockAt d i with
      | none => s.walkCoaches d hi n ((i / d.sLine + 1) * d.sLine)
      | some h => if s.coachTooLarge d h then (true, i) else s.walkCoaches d hi n ((i + h.size + d.sLine - 1) / d.sLine * d.sLine)

/-- Does a COPY send a coach that is too large, among the blocks that stand in its source as it is accepted? One that waits on its
pair is checked slot by slot. DESIGN CHOICE: log entry 59. -/
def State.sendsTooLarge (s : State) (d : StrDesc) : Bool := !d.wait && (s.walkCoaches d d.total d.sCount 0).1

/-- Checks 4 to 9 of a COPY. -/
def State.judgeCopy (s : State) (d : StrDesc) : Judgement :=
  let p := d.source
  let q := d.dest
  match s.judgeSpan .transfer p.base 0 p.top with
  | some e => .refused e 0
  | none =>
    match s.judgeSpan .transfer q.base 0 q.top with
    | some e => .refused e 0
    | none =>
      if q.meetsProgram then .refused St.progRegion 0
      else if p.total ≠ q.total then .refused St.strShape 0
      else if d.extLen ≠ 0 ∧ p.base / 64 * 64 + 64 * d.extLen ≤ p.base + p.top then .refused St.strExtent 0
      else if s.signalRouted d = false then .refused St.lnkNoRoute 0
      else if s.sendsTooLarge d then .refused St.coachSize 0
      else .accepted

/-- Check 8 of a COMPRESS: format, then the compression fields (R220, R233). -/
def cmpRefusal (d : StrDesc) : Option Nat :=
  match Fmt.ofCode d.fmt with
  | none => some St.fmtReserved
  | some f =>
    match cmpCheck f d.mode d.rate with
    | some e => some e
    | none => if d.mode = 1 ∧ d.inline_ = false ∧ d.table = 0xFFF then some St.cmpMode else none

/-- Check 6 of a COMPRESS into a run (R308). -/
def runShapeOk (d : StrDesc) : Bool :=
  d.dCount == 1 &&
    (match Fmt.ofCode d.fmt with
     | none => true
     | some f =>
       (cmpCheck f d.mode d.rate).isSome ||
         (match srcElems f (d.sLine * d.sCount) with
          | none => false
          | some n => decide (worstRun f d.mode d.rate d.inline_ n ≤ d.dLine)))

/-- Elements of the blocks b0 to b0 + nb − 1 of a tensor, if it has them. -/
def areaElems (t : Tensor) (b0 nb : Nat) : Option Nat :=
  if b0 + nb ≤ t.blocks then some (min t.elems (256 * (b0 + nb)) - 256 * b0) else none

/-- Check 6 of a COMPRESS into an area (R308). -/
def areaShapeOk (d : StrDesc) (t : Tensor) : Bool :=
  match Fmt.ofCode t.fmt, areaElems t d.dLine d.dCount with
  | some f, some _ =>
    d.sLine * d.sCount ==
      ((List.range d.dCount).map fun k => srcBytes f (blkCount t.elems (d.dLine + k))).foldl (· + ·) 0
  | _, _ => false

/-- Check 8 of a COMPRESS into an area: the stream descriptor's fields, the tensor descriptor's (R220, R238), mode and format in
common, whole stretches (R239). -/
def areaCmpRefusal (d : StrDesc) (t : Tensor) : Option Nat :=
  match cmpRefusal d with
  | some e => some e
  | none =>
    if t.cmpRefusal.isSome then t.cmpRefusal
    else if t.fmt ≠ d.fmt then some St.cmpFmt
    else if t.mode = 0 ∨ t.mode ≠ d.mode ∨ (t.mode = 2 ∧ t.cmp / 4 ≠ d.rate) then some St.cmpMode
    else if t.mode = 1 ∧ (d.dLine % 64 ≠ 0 ∨ ((d.dLine + d.dCount) % 64 ≠ 0 ∧ d.dLine + d.dCount ≠ t.blocks)) then
      some St.cmpStretch
    else none

/-- A COMPRESS, checks 4 to 9, with the tensor descriptor it names. -/
def State.judgeCompress (s : State) (v : HostView) (d : StrDesc) : Judgement × Option Tensor × State :=
  let p := d.source
  match s.judgeSpan .transfer p.base 0 p.top with
  | some e => (.refused e 0, none, s)
  | none =>
    let late := fun (s : State) (t : Option Tensor) (shape : Bool) (c : Option Nat) =>
      (if shape = false then Judgement.refused St.strShape 0
       else if d.extLen ≠ 0 ∧ p.base / 64 * 64 + 64 * d.extLen ≤ p.base + p.top then .refused St.strExtent 0
       else match c with
         | some e => .refused e 0
         | none => if s.signalRouted d = false then .refused St.lnkNoRoute 0 else .accepted, t, s)
    if d.area then
      match s.tensorBy Tensor.formCheck .transfer v d.dst with
      | (.error (e, fl), s1) => (.refused e fl, none, s1)
      | (.ok t, s1) =>
        if t.empty then (.atOnce, none, s1)
        else if (Pat.meetsProgram ⟨t.base, t.bytes, 0, 1⟩) then (.refused St.progRegion 0, none, s1)
        else late s1 (some t) (areaShapeOk d t) (areaCmpRefusal d t)
    else
      match s.judgeSpan .transfer d.dst 0 (d.dLine - 1) with
      | some e => (.refused e 0, none, s)
      | none =>
        if d.dest.meetsProgram then (.refused St.progRegion 0, none, s)
        else late s none (runShapeOk d) (cmpRefusal d)

/-- Room that an AREA_READ needs at worst (R309): the raw blocks and the table parts of the stretches covered. -/
def areaRoom (t : Tensor) (b0 nb : Nat) : Nat :=
  match Fmt.ofCode t.fmt with
  | none => 0
  | some f =>
    if t.mode = 2 then nb * lossyBytes (t.cmp / 4)
    else ((List.range nb).map fun k => 16 * rawUnits f (blkCount t.elems (b0 + k))).foldl (· + ·) 0 +
      272 * ((b0 + nb - 1) / 64 + 1 - b0 / 64)

/-- An AREA_READ, checks 4 to 9. An area is a compressed tensor. -/
def State.judgeAreaRead (s : State) (v : HostView) (d : StrDesc) : Judgement × Option Tensor × State :=
  match s.tensor .transfer v d.src with
  | (.error (e, fl), s1) => (.refused e fl, none, s1)
  | (.ok t, s1) =>
    match s1.judgeSpan .transfer d.dst 0 (d.dLine - 1) with
    | some e => (.refused e 0, none, s1)
    | none =>
      if t.empty then (.atOnce, none, s1)
      else if d.dest.meetsProgram then (.refused St.progRegion 0, none, s1)
      else if d.dCount ≠ 1 ∨ t.mode = 0 ∨ d.dLine < areaRoom t d.sLine d.sCount then (.refused St.strShape 0, none, s1)
      else if areaElems t d.sLine d.sCount = none then (.refused St.strExtent 0, none, s1)
      else if s1.signalRouted d = false then (.refused St.lnkNoRoute 0, none, s1)
      else (.accepted, some t, s1)

/-- The checks of Table 08.5 in order. For a COMPRESS into an area or an AREA_READ, D_LINE and S_LINE are block
numbers, and only the counts are zero fields (R298, R308, R309). DEDUCED: log entry 39. -/
def State.judgeStream (s : State) (v : HostView) (u e c : Nat) (d : StrDesc) : Judgement × Option Tensor × State :=
  let zero := match d.kind with
    | 1 => if d.area then d.sLine == 0 || d.sCount == 0 || d.dCount == 0
           else d.sLine == 0 || d.sCount == 0 || d.dLine == 0 || d.dCount == 0
    | 2 => d.sCount == 0 || d.dLine == 0 || d.dCount == 0
    | 3 => false
    | _ => d.sLine == 0 || d.sCount == 0 || d.dLine == 0 || d.dCount == 0
  if channelValid u e c = false then (.refused St.strChannel 0, none, s)
  else if d.kind > 3 ∨ (d.kind ≠ 3 ∧ d.runahead > 16) ∨ (u = 4 ∧ (d.kind = 1 ∨ d.kind = 2)) then
    (.refused St.strKind 0, none, s)
  else if zero then (.atOnce, none, s)
  else match d.kind with
    | 0 => (s.judgeCopy d, none, s)
    | 1 => s.judgeCompress v d
    | 2 => s.judgeAreaRead v d
    | _ => (if s.signalRouted d then .accepted else .refused St.lnkNoRoute 0, none, s)

/-! ### Reading and writing local bytes (R295, R305, R306) -/

/-- Bytes of a source sequence, the first byte of the burst that met a bus error, and the state after. -/
structure SeqGot where
  bytes : List PByte
  err : Option Nat
  st : State
  deriving DecidableEq, Repr

/-- Bytes that stand for what could not be read (Table 08.6). -/
def lostBytes (n : Nat) : List PByte := List.replicate n (0, true)

/-- Read the parts of one burst. -/
def State.readParts (s : State) (v : HostView) : List (Nat × Nat × Nat) → SeqGot
  | [] => ⟨[], none, s⟩
  | p :: r =>
    let g := s.get v p.2.1 p.2.2
    if g.err then ⟨[], some p.1, g.st⟩
    else
      let x := g.st.readParts v r
      ⟨g.bytes ++ x.bytes, x.err, x.st⟩

/-- Read bytes `lo` to `hi` − 1 burst by burst; from a failing burst on they are zero and poisoned. -/
def State.readSeq (s : State) (v : HostView) (p : Pat) (lo hi : Nat) : SeqGot :=
  (blocksOf 256 lo (hi - lo)).foldl (fun (acc : SeqGot) b =>
    let l := max lo (256 * b)
    let h := min hi (256 * b + 256)
    match acc.err with
    | some _ => { acc with bytes := acc.bytes ++ lostBytes (h - l) }
    | none =>
      let g := acc.st.readParts v (p.parts l h)
      match g.err with
      | some _ => ⟨acc.bytes ++ lostBytes (h - l), some (256 * b), g.st⟩
      | none => ⟨acc.bytes ++ g.bytes, none, g.st⟩) ⟨[], none, s⟩

/-- Bytes that a transfer writes at one address, with their place in the output sequence. -/
structure Piece where
  off : Nat
  addr : Nat
  data : List PByte
  deriving DecidableEq, Repr

/-- Cut a piece at burst boundaries. -/
def Piece.cut (p : Piece) : List Piece :=
  (blocksOf 256 p.off p.data.length).map fun b =>
    let l := max p.off (256 * b)
    let h := min (p.off + p.data.length) (256 * b + 256)
    ⟨l, p.addr + (l - p.off), (p.data.drop (l - p.off)).take (h - l)⟩

/-- Does the host answer the write of a piece with an error? -/
def State.refuses (s : State) (v : HostView) (p : Piece) : Bool :=
  addrWindow p.addr == 2 && viewRefuses v (s.hostAddr (addrOffset p.addr)) p.data.length

/-- Write pieces at local addresses in order; from a burst whose write fails on, nothing is written. -/
def State.putPieces (s : State) (v : HostView) (ps : List Piece) : Option Nat × State :=
  let cs := ps.flatMap Piece.cut
  match cs.find? (s.refuses v) with
  | none => (none, cs.foldl (fun s p => s.put p.addr p.data) s)
  | some q =>
    let at_ := q.off / 256 * 256
    (some at_, (cs.filter fun p => decide (p.off < at_)).foldl (fun s p => s.put p.addr p.data) s)

/-! ### Writing a slot (R303 to R306, R311) -/

/-- Virtual channel of an engine's peer traffic (R397). -/
def State.streamVc (s : State) (ch : Nat) : Nat :=
  let e := ch / 16 % 128
  let w := s.regs.getAt Reg.LNK_STREAM_VC_VC (if ch / 2048 = 4 then 8 else e / 16)
  let code := bitsOf w (4 * (e % 16) + 3) (4 * (e % 16))
  if code > 4 then VC.gather else code

def State.setBusy (s : State) (ch : Nat) (f : Xfer → Xfer) : State :=
  let c := s.chan ch
  s.setChan ch { c with busy := c.busy.map f }

/-- The granule address that a REPORT tensor posts: the first poisoned one of the pieces. -/
def firstPoison (ps : List Piece) : Option Nat :=
  (ps.find? fun p => p.data.any Prod.snd).map fun p => (p.addr + p.data.findIdx Prod.snd) / 64 * 64

/-- What a tensor's poison policy adds to a write of poisoned granules (R348). -/
def State.policy (s : State) (td : Option Tensor) (source where_ : Nat) (ps : List Piece) : State :=
  match td, firstPoison ps with
  | some t, some a => s.tainted t source where_ a
  | _, _ => s

/-- The next `n` packets of a channel's transfer. -/
def State.nextParts (s : State) (ch n : Nat) (last : Bool) : InXfer × State :=
  match (s.chan ch).busy with
  | some x => (⟨x.tid, x.sent, last⟩, s.setBusy ch fun y => { y with sent := y.sent + n })
  | none => (⟨0, 0, last⟩, s)

/-- Send one piece of slot `k` to a peer. -/
def State.sendWrites (s : State) (ch k : Nat) (ordered last : Bool) (p : Piece) : State :=
  match (s.chan ch).busy with
  | none => s
  | some x =>
    let r := s.nextParts ch (packetsOf p.data.length) last
    r.2.netWrite (.xfer ch x.id k) r.1 (s.streamVc ch) ordered p.addr p.off p.data

/-- The last host address that pieces write (R304). -/
def State.lastHost (s : State) (ps : List Piece) : Option Nat :=
  ps.getLast?.bind fun p =>
    if addrWindow p.addr = 2 then some (s.hostAddr (addrOffset p.addr + p.data.length - 1) / 4 * 4) else none

/-- Write the pieces of slot `k` and note what must be acknowledged. The signal of a slot in a host window waits for a 4 B read of
the last address written, which SLOT_SIGNAL follows (R304, R311). -/
def State.deliver (s : State) (v : HostView) (ch : Nat) (x : Xfer) (d : StrDesc) (k : Nat) (ps : List Piece) : State :=
  let remote := ps.any fun p => addrRank p.addr != s.rank
  let ps := if x.taint then ps.map fun p => { p with data := p.data.map fun b => (b.1, true) } else ps
  let n := if remote then (ps.map fun p => packetsOf p.data.length).foldl (· + ·) 0 else 0
  let c := s.chan ch
  let last := s.lastHost ps
  let target := if d.slotSig ∧ d.consumes = false then some d.target else none
  let asked := if target.isSome then last else none
  let s1 := s.setChan ch { c with
    acks := c.acks ++ [⟨x.id, k, n, false, false, target, x.tile, asked⟩]
    hostLast := match last with
      | some a => Tbl.put c.hostLast x.id a
      | none => c.hostLast
    busy := c.busy.map fun y => { y with poison := y.poison || ps.any fun p => p.data.any Prod.snd } }
  let s2 := if d.kind = 1 then s1.policy (if x.poison then none else x.td) 3 (chanWhere ch x.tile) ps else s1
  if remote then
    s2.each ps.zipIdx fun s p =>
      s.sendWrites ch k (d.kind == 0 && decide (d.dStride < d.dLine ∧ 1 < d.dCount))
        (decide (d.slots ≤ k + 1) && p.2 + 1 == ps.length) p.1
  else
    let w := s2.putPieces v ps
    let s3 := match w.1 with
      | none => w.2
      | some off => w.2.busError ch x.id k false off
    match asked with
    | some a => s3.emit (.hostRead a 4)
    | none => s3

/-- The pieces of a COPY's bytes `lo` on. -/
def copyPieces (d : StrDesc) (lo : Nat) (bytes : List PByte) : List Piece :=
  (d.dest.parts lo (lo + bytes.length)).map fun p => ⟨p.1, p.2.1, (bytes.drop (p.1 - lo)).take p.2.2⟩

/-! ### The compressor (R222 to R237, R239, R248) -/

/-- Build a histogram into a table record and post a second build of one step (R234, R237). -/
def State.buildTable (s : State) (where_ t : Nat) (f : Fmt) (hist : List Nat) : (Nat × List Nat) × State :=
  let a := s.ctabBase + 4096 * t
  let s := s.touchStack [(a, 576)]
  let gen := (s.stack.nat a 2 + 1) % 2 ^ 16
  let len := buildLengths hist
  let twice := NSet.has s.step.builds t
  let conflict := twice || bitOf (s.stack.nat (a + 3) 1) 1
  let s1 := ((((s.poke (a + 320) (s.stack.read (a + 64) 256)).poke (a + 64) (packNibbles 256 len)).poke a
    (leBytes 2 gen ++ leBytes 1 f.code ++ leBytes 1 (if conflict then 3 else 1) ++ leBytes 4 0xFFFFFFFF)).poke (a + 24)
    (leBytes 8 (s.regs.get Reg.TRN_STEP_NUM_STEP)))
  let s2 := { s1 with step := { s1.step with builds := NSet.add s1.step.builds t } }
  ((gen, len), if twice then (s2.addReg Reg.CMP_CTAB_STATUS_CONFLICTS 1).event 3 St.cmpTableConflict where_ t else s2)

/-- The generation and lengths that a lossless transfer encodes with, where it latched none at its start (R234). -/
def State.transferTable (s : State) (where_ : Nat) (d : StrDesc) (f : Fmt) (hist : List Nat) : (Nat × List Nat) × State :=
  if d.table = 0xFFF then ((0, buildLengths hist), s) else s.buildTable where_ d.table f hist

/-- Add one encoded block to its table's record (R234). -/
def State.tableStats (s : State) (t : Nat) (f : Fmt) (syms : List Nat) (raw stored : Nat) : State :=
  let a := s.ctabBase + 4096 * t
  let s := s.touchStack [(a, 32), (a + 1024, 4 * (symShape f).1)]
  let h := histogram (symShape f).1 syms
  let s1 := (s.poke (a + 8) (leBytes 8 (s.stack.nat (a + 8) 8 + raw))).poke (a + 16)
    (leBytes 8 (s.stack.nat (a + 16) 8 + stored))
  s1.each h.zipIdx fun s e =>
    if e.1 = 0 then s
    else s.poke (a + 1024 + 4 * e.2) (leBytes 4 (min (2 ^ 32 - 1) (s.stack.nat (a + 1024 + 4 * e.2) 4 + e.1)))

/-- Cut a source into its blocks: element count and bytes. -/
def cutBlocks (f : Fmt) : List Nat → List PByte → List (Nat × List PByte)
  | [], _ => []
  | c :: r, b => (c, b.take (srcBytes f c)) :: cutBlocks f r (b.drop (srcBytes f c))

def tagAll (bs : List Byte) (p : Bool) : List PByte := bs.map fun b => (b, p)

/-- What the compressor makes of a source: each block's stored bytes, the table part, flags. -/
structure Encoded where
  blocks : List (List PByte)
  part : List Byte
  flags : Flags
  st : State
  deriving DecidableEq, Repr

/-- Encode the blocks of a transfer. -/
def State.encode (s : State) (where_ : Nat) (d : StrDesc) (latch : Option (Nat × List Nat)) (counts : List Nat)
    (bytes : List PByte) : Encoded :=
  match Fmt.ofCode d.fmt with
  | none => ⟨[], [], 0, s⟩
  | some f =>
    let bs := cutBlocks f counts bytes
    let body := fun (b : Nat × List PByte) => b.2.map Prod.fst
    let bad := fun (b : Nat × List PByte) => b.2.any Prod.snd
    match d.mode with
    | 0 => ⟨bs.map fun b => tagAll (rawBlock f 0 b.1 (body b)) (bad b), [], 0, s⟩
    | 2 =>
      let r := bs.map fun b => (lossyBlock f (rateBits d.rate) b.1 (body b) (bad b), bad b)
      ⟨r.map fun x => tagAll x.1.1 x.2, [], orFlags (r.map fun x => x.1.2), s⟩
    | _ =>
      let hist := histogram (symShape f).1 (bs.flatMap fun b => blockSyms f b.1 (body b))
      let g := match latch with
        | some l => (l, s)
        | none => s.transferTable where_ d f hist
      let id := if d.inline_ then 0xFFF else d.table
      let out := bs.map fun b => losslessBlock f b.1 id (if d.inline_ then 0 else g.1.1) g.1.2 (body b) (bad b)
      let s1 := if d.table = 0xFFF ∨ s.evalStep then g.2
        else g.2.each (bs.zip out) fun s x =>
          if bad x.1 then s
          else s.tableStats d.table f (blockSyms f x.1.1 (body x.1)) (16 * rawUnits f x.1.1) x.2.length
      ⟨(bs.zip out).map fun x => tagAll x.2 (bad x.1), if d.inline_ then tablePart f d.table g.1.1 g.1.2 else [], 0, s1⟩

/-- Lay blocks one after another from an address: pieces, and the next place. DESIGN CHOICE: log entry 27. -/
def layRun (addr : Nat) (part : List Byte) : Nat → Nat → List (List PByte) → List Piece
  | _, _, [] => []
  | k, off, b :: r =>
    let head := if k % 64 = 0 ∧ part ≠ [] then [(⟨off, addr + off, clean part⟩ : Piece)] else []
    let off1 := off + (if k % 64 = 0 then part.length else 0)
    head ++ ⟨off1, addr + off1, b⟩ :: layRun addr part (k + 1) (off1 + b.length) r

/-- Offsets of blocks that are packed from `off`. -/
def packed (off : Nat) : List (List PByte) → List Nat
  | [] => []
  | b :: r => off :: packed (off + b.length) r

/-- The pieces of an area's blocks b0 on (R224, R239): blocks, directory entries, table parts. -/
def areaPieces (t : Tensor) (f : Fmt) (b0 : Nat) (part : List Byte) (blocks : List (List PByte)) : List Piece :=
  if t.mode = 2 then
    blocks.zipIdx.map fun b => ⟨b.2 * lossyBytes (t.cmp / 4), t.base + t.home f (b0 + b.2), b.1⟩
  else
    let offs := packed (t.home f b0) blocks
    let body := (blocks.zip offs).map fun b => (⟨b.2 - t.home f b0, t.base + b.2, b.1⟩ : Piece)
    let n := (blocks.map List.length).foldl (· + ·) 0
    let dir : Piece := ⟨n, t.base + 4 * b0, clean (offs.flatMap fun o => leBytes 4 (o / 16))⟩
    let parts := if part = [] then [] else
      (blocksOf 64 b0 blocks.length).mapIdx fun i k =>
        (⟨n + 4 * blocks.length + 272 * i, t.base + t.dirBytes + 272 * k, clean part⟩ : Piece)
    body ++ dir :: parts

/-- Blocks wholly read before a failing source byte. -/
def wholeBefore (f : Fmt) (at_ : Nat) : List Nat → Nat
  | [] => 0
  | c :: r => if srcBytes f c ≤ at_ then wholeBefore f (at_ - srcBytes f c) r + 1 else 0

/-- Output bytes before block `k` (R306): the blocks before it, and in a run the table parts up to its own stretch. -/
def outBefore (inRun : Bool) (part : List Byte) (blocks : List (List PByte)) (k : Nat) : Nat :=
  ((blocks.take k).map List.length).foldl (· + ·) 0 + (if inRun then part.length * (k / 64 + 1) else 0)

/-- A COMPRESS whose source bytes are all there. -/
def State.compressSlot (s : State) (v : HostView) (ch : Nat) (x : Xfer) (d : StrDesc) (bytes : List PByte)
    (errAt : Option Nat) : State :=
  match Fmt.ofCode d.fmt with
  | none => s
  | some f =>
    let n := match x.td with
      | some t => t.elems
      | none => (srcElems f d.total).getD 0
    let counts := match x.td with
      | some t => (List.range d.dCount).map fun k => blkCount t.elems (d.dLine + k)
      | none => (List.range ((n + 255) / 256)).map fun k => blkCount n k
    let e := s.encode (chanWhere ch x.tile) d x.latch counts bytes
    let ps := match x.td with
      | some t => areaPieces t f d.dLine e.part e.blocks
      | none => layRun d.dst e.part 0 0 e.blocks
    let out := (ps.map fun p => p.data.length).foldl (· + ·) 0
    let s1 := e.st.setBusy ch fun y => { y with
      flags := e.flags.toNat % 32
      outBytes := out
      err := (errAt.map fun a => (St.strReadErr, outBefore x.td.isNone e.part e.blocks (wholeBefore f a counts))).or y.err }
    s1.deliver v ch x d 0 ps

/-! ### Area reads (R309) -/

/-- Bytes of a run with the first output byte that could not be read. -/
structure RunGot where
  bytes : List PByte
  err : Option Nat
  st : State
  deriving DecidableEq, Repr

/-- Append what a read brought, unless a read has failed. -/
def RunGot.add (r : RunGot) (g : Got) (poison : Bool) : RunGot :=
  match r.err with
  | some _ => r
  | none =>
    if g.err then ⟨r.bytes, some (r.bytes.length / 256 * 256), g.st⟩
    else ⟨r.bytes ++ g.bytes.map fun b => (b.1, b.2 || poison), none, g.st⟩

/-- Read part of an area by its offset: from memory, or from what a peer has returned. DESIGN CHOICE: log entry 27. -/
def State.areaGet (s : State) (v : HostView) (x : Xfer) (t : Tensor) (off n : Nat) : Got :=
  if addrRank t.base = s.rank then s.get v (t.base + off) n
  else ⟨(List.range n).map fun i => (Tbl.get x.readData (0, true) (off + i)),
    x.err.isSome && (List.range n).any fun i => (Tbl.find x.readData (off + i)).isNone, s⟩

/-- One block of a lossless area, located through the directory. An entry or a header that leads out of the area is not
followed (R280): the block's whole home goes in its place, with poison, as for one read with poison (R309). DESIGN CHOICE: log
entry 27. DESIGN CHOICE: log entry 27. -/
def RunGot.block (r : RunGot) (v : HostView) (x : Xfer) (t : Tensor) (f : Fmt) (k : Nat) (badPart : Bool) : RunGot :=
  let e := r.st.areaGet v x t (4 * k) 4
  let off := 16 * leNat e.data
  if e.err then r.add e false
  else if badPart ∨ e.poison ∨ t.bytes < off + 16 then r.add (e.st.areaGet v x t (t.home f k) (homeBytes f)) true
  else
    let h := e.st.areaGet v x t off 16
    let size := 16 * bitsOf (leNat h.data) 15 0
    if h.err then r.add h false
    else if size = 0 ∨ homeBytes f < size ∨ t.bytes < off + size then
      r.add (h.st.areaGet v x t (t.home f k) (homeBytes f)) true
    else r.add (h.st.areaGet v x t off size) false

/-- Blocks b0 to b0 + n − 1 as a run. -/
def State.areaRun (s : State) (v : HostView) (x : Xfer) (t : Tensor) (f : Fmt) (b0 n : Nat) : RunGot :=
  (List.range n).foldl (fun (r : RunGot) i =>
    let k := b0 + i
    match r.err with
    | some _ => r
    | none =>
      if t.mode = 2 then r.add (r.st.areaGet v x t (t.home f k) (lossyBytes (t.cmp / 4))) false
      else
        let part := r.st.areaGet v x t (t.dirBytes + 272 * (k / 64)) 272
        let holds := bitsOf (leNat (part.data.take 4)) 15 0 == 17 && bitsOf (leNat (part.data.take 4)) 17 16 == 3
        let r1 := if (i = 0 ∨ k % 64 = 0) ∧ (holds ∨ part.poison) then r.add part false else r
        r1.block v x t f k part.poison) ⟨[], none, s⟩

/-- An AREA_READ whose source bytes are all there; from a failing read on, the run is zero and poisoned. -/
def State.areaSlot (s : State) (v : HostView) (ch : Nat) (x : Xfer) (d : StrDesc) : State :=
  match x.td with
  | none => s
  | some t =>
    match Fmt.ofCode t.fmt with
    | none => s
    | some f =>
      let r := s.areaRun v x t f d.sLine d.sCount
      let bytes := match r.err with
        | some a => r.bytes.take a ++ lostBytes (areaRoom t d.sLine d.sCount - a)
        | none => r.bytes
      let s1 := r.st.setBusy ch fun y => { y with
        outBytes := bytes.length
        err := (r.err.map fun a => (St.strReadErr, a)).or y.err }
      s1.deliver v ch x d 0 [⟨0, d.dst, bytes⟩]

/-! ### Carrying out a transfer -/

/-- The addresses, with lengths, at which slot `k` of a transfer reads and writes. -/
def StrDesc.spans (d : StrDesc) (td : Option Tensor) (k : Nat) : List (Nat × Nat) :=
  let area := (td.map fun t => (t.base, t.bytes)).toList
  let lo := d.slotLo k
  let hi := d.slotLo (k + 1)
  (if d.kind = 2 then area else (d.source.parts lo hi).map Prod.snd) ++
    (if d.kind = 0 then (d.dest.parts lo hi).map Prod.snd else if d.kind = 1 ∧ d.area then area else [(d.dst, d.dLine)])

/-- Can every access of the slot to this module's stacked memory enter its channel (R259)? -/
def State.slotOpen (s : State) (x : Xfer) (d : StrDesc) (k : Nat) : Bool :=
  (d.spans x.td k).all fun p => s.localOpen p.1 p.2

/-- The source of a transfer: its own rank, or a peer. -/
def StrDesc.sourceRank (d : StrDesc) (td : Option Tensor) : Nat :=
  if d.kind = 2 then addrRank ((td.map fun t => t.base).getD 0) else addrRank d.src

/-- The destination of a transfer: its own rank, or a peer. -/
def StrDesc.destRank (d : StrDesc) (td : Option Tensor) : Nat :=
  if d.kind = 1 ∧ d.area = true then addrRank ((td.map fun t => t.base).getD 0) else addrRank d.dst

/-- A transfer that begins: one that uses the links takes its id (R370). -/
def State.openXfer (s : State) (x : Xfer) : Xfer × State :=
  match x.job with
  | .stream d =>
    if d.kind = 3 ∨ (d.sourceRank x.td = s.rank ∧ d.destRank x.td = s.rank) then (x, s)
    else ({ x with tid := s.net.nextTid }, s.useTids 1)
  | .step _ => (x, s)
  | .object _ => (x, s)

/-- Bytes `lo` to `hi` − 1 as peers have returned them. -/
def Xfer.returned (x : Xfer) (lo hi : Nat) : List PByte :=
  (List.range (hi - lo)).map fun i =>
    match x.err with
    | some (_, a) => if a ≤ lo + i then (0, true) else Tbl.get x.readData (0, true) (lo + i)
    | none => Tbl.get x.readData (0, true) (lo + i)

/-- Has a failure ended the transfer's writing (Table 08.6)? -/
def Xfer.writeFailed (x : Xfer) : Bool :=
  match x.err with
  | some (st, _) => endsWriting st
  | none => false

/-- Write slot `k` from a local source. -/
def State.moveSlot (s : State) (v : HostView) (ch k : Nat) : State :=
  match (s.chan ch).busy with
  | none => s
  | some x =>
    match x.job with
    | .step _ => s
    | .object _ => s
    | .stream d =>
      if x.writeFailed then s
      else
        let c := s.chan ch
        let s0 := if d.consumes ∧ d.slotSig then
            s.setChan ch { c with acks := c.acks ++ [⟨x.id, k, 0, false, true, some d.target, x.tile, none⟩] }
          else s
        if d.kind = 2 then s0.areaSlot v ch x d
        else
          let lo := d.slotLo k
          let hi := d.slotLo (k + 1)
          let g : SeqGot := match x.err with
            | some _ => ⟨lostBytes (hi - lo), none, s0⟩
            | none => s0.readSeq v d.source lo hi
          if d.kind = 1 then g.st.compressSlot v ch x d g.bytes g.err
          else
            (g.st.setBusy ch fun y => { y with err := y.err.or (g.err.map fun a => (St.strReadErr, a)) }).deliver
              v ch x d k (copyPieces d lo g.bytes)

/-- The address ranges that slot `k` of a transfer reads of a peer: address, place, length. An AREA_READ reads the
directory entries, the table parts and the homes of its stretches. -/
def StrDesc.peerReads (d : StrDesc) (td : Option Tensor) (k : Nat) : List (Nat × Nat × Nat) :=
  match d.kind, td with
  | 2, some t =>
    (match Fmt.ofCode t.fmt with
     | none => []
     | some f =>
       let b1 := d.sLine + d.sCount
       let s0 := d.sLine / 64
       if t.mode = 2 then
         [(t.base + t.home f d.sLine, t.home f d.sLine, t.home f b1 - t.home f d.sLine)]
       else
         [(t.base + 4 * d.sLine, 4 * d.sLine, 4 * d.sCount),
          (t.base + t.dirBytes + 272 * s0, t.dirBytes + 272 * s0, 272 * ((b1 - 1) / 64 + 1 - s0)),
          (t.base + t.home f (64 * s0), t.home f (64 * s0), t.home f b1 - t.home f (64 * s0))])
  | _, _ => (d.source.parts (d.slotLo k) (d.slotLo (k + 1))).map fun p => (p.2.1, p.1, p.2.2)

/-- Ask a peer for slot `k`'s source bytes (R374). -/
def State.requestSlot (s : State) (ch k : Nat) : State :=
  match (s.chan ch).busy with
  | none => s
  | some x =>
    match x.job with
    | .step _ => s
    | .object _ => s
    | .stream d =>
      let rs := d.peerReads x.td k
      let n := (rs.map fun r => packetsOf r.2.2).foldl (· + ·) 0
      let c := s.chan ch
      let ack : SlotAck := ⟨x.id, k, n, false, true, if d.consumes ∧ d.slotSig then some d.target else none, x.tile, none⟩
      let s1 := s.setChan ch { c with
        acks := c.acks ++ [ack]
        busy := some { x with reads := x.reads + n } }
      s1.each rs.zipIdx fun s r =>
        let i := s.nextParts ch (packetsOf r.1.2.2)
          (decide (d.slots ≤ k + 1) && r.2 + 1 == rs.length && d.destRank x.td == s.rank)
        i.2.netRead (.xfer ch x.id k) i.1 (s.streamVc ch) r.1.1 r.1.2.1 r.1.2.2

/-- A slot whose writes are dropped sends no signal (R306). -/
def Chan.slotFailed (c : Chan) (xfer slot : Nat) : Chan :=
  { c with acks := c.acks.map fun a => if a.xfer = xfer ∧ a.slot = slot then { a with err := true } else a }

/-- Write the granted slots whose peer reads have all returned. -/
def State.flush (s : State) (v : HostView) (ch : Nat) : State :=
  match (s.chan ch).busy with
  | none => s
  | some x =>
    match x.job with
    | .step _ => s
    | .object _ => s
    | .stream d =>
      if d.sourceRank x.td = s.rank ∨ x.reads ≠ 0 then s
      else
        (s.each ((List.range x.granted).filter fun k => decide (x.moved ≤ k)) fun s k =>
          match (s.chan ch).busy with
          | none => s
          | some y =>
            if y.writeFailed then s.setChan ch ((s.chan ch).slotFailed y.id k)
            else
              let b := y.returned (d.slotLo k) (d.slotLo (k + 1))
              match d.kind with
              | 0 => s.deliver v ch y d k (copyPieces d (d.slotLo k) b)
              | 1 => s.compressSlot v ch y d b (y.err.map Prod.snd)
              | _ => s.areaSlot v ch y d).setBusy ch fun y => { y with moved := y.granted }

/-- Does a COMPRESS look at its table's record as it starts (R234)? -/
def StrDesc.reuses (d : StrDesc) : Bool := d.kind == 1 && d.mode == 1 && d.table != 0xFFF && !d.build

/-- The table that a REUSE latches as it starts: the record's, when that is valid and of its format (R234). -/
def State.latchTable (s : State) (d : StrDesc) : Option (Nat × List Nat) :=
  let r := tabRec s.stack s.ctabBase d.table
  if d.reuses ∧ r.valid ∧ r.fmt = d.fmt then some (r.gen, r.lenCur.take (symShape ((Fmt.ofCode d.fmt).getD .fp32)).1) else none

/-- Start slot `k`, which the chain has granted. A slot with a coach that is too large for its bay ends the transfer's writing
there (R163). DEDUCED: log entry 39. DESIGN CHOICE: log entry 59. -/
def State.startSlot (s : State) (v : HostView) (ch k : Nat) : State :=
  match (s.chan ch).busy with
  | none => s
  | some x =>
    match x.job with
    | .step _ => s
    | .object _ => s
    | .stream d =>
      let w := if d.kind = 0 then s.walkCoaches d (d.slotLo (k + 1)) d.sCount x.coach else (false, 0)
      let s0 := if d.reuses then s.touchStack [(s.ctabBase + 4096 * d.table, 576)] else s
      let s1 := s0.setBusy ch fun y => { y with
        granted := k + 1
        coach := w.2
        latch := y.latch.or (s0.latchTable d)
        err := if w.1 then some (worseErr y.err St.coachSize (d.slotLo k)) else y.err }
      if w.1 ∨ d.sourceRank x.td = s.rank then (s1.moveSlot v ch k).setBusy ch fun y => { y with moved := k + 1 }
      else (s1.requestSlot ch k).flush v ch

end Sys2Proof.Machine
end

