-- ==== Sys2Proof/Machine/StreamCommands.lean ====
section
/-! DEFINITION. The commands of the stream channels (chapter 08): accepting a transfer, starting it, granting its
slots, its completion, its signals, its fences and its errors. -/

namespace Sys2Proof.Machine

/-! ### Acceptance -/

/-- The command that a KIND belongs to; reserved kinds go with COPY, which refuses them. -/
def kindRow (kind : Nat) : Nat := if 1 ≤ kind ∧ kind ≤ 3 then kind else 0

/-- A tile's STREAM that has issued: the program goes on, and STWAIT counts the transfer (R195). -/
def State.streamIssued (s : State) (t : Nat) (f : StreamF) (counted : Bool) : State :=
  s.onTile t fun x =>
    let k := f.engine * 8 + f.channel
    (if counted then { x with streams := Tbl.put x.streams k (Tbl.get x.streams 0 k + 1) } else x).advance t

/-- STREAM of a tile (R194, R195, R291, R299). -/
def State.acceptTile (s : State) (row t : Nat) (f : StreamF) (v : HostView) : State :=
  if s.issues t (.stream f) = false then s
  else
    let s0 := s.fetched t
    let x := s0.tile t
    if x.hazard (maskOf (x.preReads (.stream f))) 0 then s0.setTile t { x with stall := .hazard }
    else match x.tileRef f.ref 64 with
      | .error e => if row = 0 then s0.takeTile t (x.refuse t e) else s
      | .ok a =>
        let d := StrDesc.parse (x.mem.read a 64) (x.regNat f.sreg) (x.regNat f.dreg)
        let ch := t / 4096 * 2048 + f.engine * 16 + f.channel
        if kindRow d.kind ≠ row then s
        else if channelValid (t / 4096) f.engine f.channel ∧ (s.chan ch).full then s0.setTile t { x with stall := .queue }
        else
          let s1 := s0.takeTile t (x.touch t a 64)
          let r := s1.judgeStream v (t / 4096) f.engine f.channel d
          let s2 := r.2.2
          match r.1 with
          | .refused e _ => s2.onTile t fun y => y.refuse t e
          | .atOnce =>
            ((if f.sig then s2.signalTile t f.pair f.ctr 1 .chan (some x.pc) else s2).streamIssued t f false).trace t x.pc
              x.opcode
          | .accepted =>
            ((s2.enqueue ch (.tile t (if f.sig then some (2 * f.pair + f.ctr, x.pc) else none)) (.stream d) r.2.1
              (x.solo || (s1.tile t).mem.poisoned a 64)).streamIssued t f true).trace t x.pc x.opcode

/-- Is the destination tensor part of committed state (R348, R431)? -/
def committedPolicy (t : Option Tensor) : Bool :=
  match t with
  | some t => t.poison == 1
  | none => false

/-- STREAM of a submission ring (R293, R299, R551); a full queue keeps it waiting (R291). -/
def State.acceptRing (s : State) (row r j : Nat) (v : HostView) : State :=
  match s.ready r j 1 with
  | none => s
  | some q =>
    let u := q.n 8 1 % 8
    let e := q.n 9 1 % 128
    let c := q.n 10 1 % 16
    let ch := u * 2048 + e * 16 + c
    let early := fun (s : State) (st fl : Nat) => if row = 0 then s.complete r j st fl 0 else s
    if s.host.stuck q.unit then s
    else if q.eval ∧ s.evalOn = false then early s St.paramCode 0
    else match q.latched with
      | none => s
      | some (st, fl, b) =>
        let d := StrDesc.parse b 0 0
        if st ≠ St.ok then early s st fl
        else if kindRow d.kind ≠ row ∨ (channelValid u e c ∧ (s.chan ch).full) then s
        else
          let x := s.judgeStream v u e c d
          match x.1 with
          | .refused st fl => x.2.2.complete r j st fl 0
          | .atOnce => x.2.2.complete r j St.ok 0 0
          | .accepted =>
            if q.eval ∧ d.kind = 1 ∧ committedPolicy x.2.1 = true then x.2.2.complete r j St.evalWrite 0 0
            else (x.2.2.enqueue ch (.ring r j) (.stream d) x.2.1 false).take r j

def State.accept (s : State) (row : Nat) (by_ : StreamFrom) : State :=
  match by_ with
  | .tile t f v => s.acceptTile row t f v
  | .ring r j v => s.acceptRing row r j v

/-- COPY (R295): A stream transfer of kind COPY is accepted and checked, then moves the source byte sequence to the
destination pattern. -/
def execCopy (b : StreamFrom) (s : State) : Host.Outcome State Fault Refusal := .next (s.accept 0 b)

/-- COMPRESS (R308): A stream transfer of kind COMPRESS encodes a raw source into a compressed area or run, building a code
table where named. -/
def execCompress (b : StreamFrom) (s : State) : Host.Outcome State Fault Refusal := .next (s.accept 1 b)

/-- AREA_READ (R309): A stream transfer of kind AREA_READ reads blocks and table parts of a compressed area out as a run. -/
def execAreaRead (b : StreamFrom) (s : State) : Host.Outcome State Fault Refusal := .next (s.accept 2 b)

/-- LANDED (R304): A landed fence is accepted and holds its channel until every earlier write of the channel is acknowledged.
-/
def execLanded (b : StreamFrom) (s : State) : Host.Outcome State Fault Refusal := .next (s.accept 3 b)

/-! ### Starting (R291, R304, R311) -/

/-- May the channel begin its next slot or descriptor (R316, R340)? Compute-die channels stand still in the safe state. -/
def State.channelFree (s : State) (ch : Nat) : Bool :=
  (s.chan ch).outbox.isEmpty && !s.fab.trip.isSome && !s.host.stuck (16 + ch)

/-- The head of the queue becomes the channel's work. A transfer without WAIT moves its slots; a fence asks for
the last host addresses written; one that builds a table still being rebuilt waits (R235). -/
def execStreamDescriptorStart (ch : Nat) (v : HostView) (s : State) : Host.Outcome State Fault Refusal :=
  .next (
    let c := s.chan ch
    match c.busy, c.queue with
    | none, x :: rest =>
      let b := s.openXfer x
      let s1 := b.2.setChan ch { c with queue := rest, busy := some b.1 }
      if s.channelFree ch = false then s
      else match x.job with
        | .step _ => s
        | .object _ => s1
        | .stream d =>
          if d.kind = 1 ∧ d.cmp % 4 = 1 ∧ s.step.rebuilding.contains d.table = true then s
          else if d.kind = 3 then s1.each c.hostLast fun s h => s.emit (.hostRead h.2 4)
          else if d.wait then s1
          else if ((List.range d.slots).all fun k => s.slotOpen x d k) = false then s
          else s1.each (List.range d.slots) fun s k => s.startSlot v ch k
    | _, _ => s)

/-- The pair's counter is at least 1: subtract 1 and start the next slot (R311). -/
def execChainSlotGrant (ch : Nat) (v : HostView) (s : State) : Host.Outcome State Fault Refusal :=
  .next (
    let c := s.chan ch
    match c.busy with
    | none => s
    | some x =>
      match x.job with
      | .step _ => s
      | .object _ => s
      | .stream d =>
        if d.wait = false ∨ d.kind = 3 ∨ d.slots ≤ x.granted ∨ x.writeFailed = true ∨ c.sem.ctr d.waitCtr = 0 ∨
            s.channelFree ch = false ∨ s.slotOpen x d x.granted = false then s
        else (s.setChan ch { c with sem := c.sem.sub d.waitCtr 1 }).startSlot v ch x.granted)

/-! ### Completion (R303, R305, R306) -/

/-- A transfer leaves its channel with a status: the tile's pair or the ring learns it. -/
def State.endTransfer (s : State) (ch : Nat) (x : Xfer) (status flags result : Nat) : State :=
  let c := s.chan ch
  let s1 := s.setChan ch { c with busy := none, lastStatus := status }
  match x.by_ with
  | .ring r j => s1.complete r j status flags result
  | .tile t sig =>
    let k := ch / 16 % 128 * 8 + ch % 16
    let s2 := s1.onTile t fun y => .ok { y with streams := Tbl.put y.streams k (Tbl.get y.streams 0 k - 1) }
    match sig with
    | some p => s2.signalTile t (p.1 / 2) (p.1 % 2) 1 .chan (some p.2)
    | none => s2

/-- Every slot has been moved. -/
def Xfer.allMoved (x : Xfer) (d : StrDesc) : Bool := decide (d.slots ≤ x.moved) && x.reads == 0

/-- What a transfer's completion reports besides its status (R81, R339). -/
def Xfer.flagWord (x : Xfer) : Nat := x.flags % 16 + (if x.poison then 16 else 0)

def Xfer.result (x : Xfer) (d : StrDesc) : Nat := if d.kind = 0 then d.total else x.outBytes

/-- The last write has left the engine. -/
def execStreamComplete (ch : Nat) (s : State) : Host.Outcome State Fault Refusal :=
  .next (
    match (s.chan ch).busy with
    | none => s
    | some x =>
      match x.job with
      | .step _ => s
      | .object _ => s
      | .stream d =>
        if d.kind = 3 ∨ x.allMoved d = false ∨ x.err.isSome then s
        else s.endTransfer ch x (if x.poison then St.poisonConsumed else St.ok) x.flagWord (x.result d))

/-- The host reads that were to acknowledge the writes of slots meet an error where the view says so: those signals are not sent,
and the next fence learns it (R304, R311). -/
def Chan.ackReads (c : Chan) (v : HostView) : Chan :=
  let failed := fun (a : SlotAck) => a.target.isSome && a.host.toList.any fun h => viewFails v h 4
  if c.acks.any failed then { c with
    fenceErr := true
    acks := c.acks.map fun a => if failed a then { a with err := true } else a }
  else c

/-- A transfer that met a bus error completes with it (R306); a tile's is posted (R307). A coach that was too large is refused and
is no bus error (R163). -/
def execBusError (ch : Nat) (v : HostView) (s : State) : Host.Outcome State Fault Refusal :=
  .next (
    let s0 := (s.flush v ch).setChan ch (((s.flush v ch).chan ch).ackReads v)
    match (s0.chan ch).busy with
    | none => s
    | some x =>
      match x.job, x.err with
      | .stream d, some (st, off) =>
        if x.writeFailed = false ∧ x.allMoved d = false then s
        else
          let c := s0.chan ch
          let s1 := if st = St.coachSize then s0 else s0.setChan ch { c with errors := min 65535 (c.errors + 1) }
          let s2 := match x.tile with
            | some t => s1.event 3 st (chanWhere ch (some t)) off
            | none => s1
          let s3 := if x.writeFailed ∧ x.tile.isSome then s2.cause 2 else s2
          s3.endTransfer ch x st x.flagWord off
      | _, _ => s)

/-! ### Signals of a channel (R310, R311, R316) -/

/-- The channel has a signal to send: it waits in the channel until it can leave. -/
def State.channelSignal (s : State) (ch target : Nat) (tile : Option Nat) : State :=
  let c := s.chan ch
  s.setChan ch { c with outbox := c.outbox ++ [(target, tile)] }

/-- The first slot whose writes or reads have all been answered, the 4 B read after writes to a host window included: its signal
goes out, unless a write failed. -/
def execSlotSignal (ch : Nat) (s : State) : Host.Outcome State Fault Refusal :=
  .next (
    let c := s.chan ch
    match c.acks.find? fun a => a.target.isSome && a.waiting == 0 with
    | none => s
    | some a =>
      let s1 := s.setChan ch { c with acks := c.acks.map fun b => if b = a then { b with target := none } else b }
      match a.target with
      | some t => if a.err then s1 else s1.channelSignal ch t a.tile
      | none => s1)

/-- Are all writes of the channel's earlier descriptors acknowledged? -/
def Chan.landedAll (c : Chan) : Bool := c.acks.all fun a => a.onReads || a.waiting == 0

/-- A landed fence completes (R304). `ok` says whether the reads of the last host addresses succeeded. -/
def execLandedComplete (ch : Nat) (ok : Bool) (s : State) : Host.Outcome State Fault Refusal :=
  .next (
    let c := s.chan ch
    match c.busy with
    | none => s
    | some x =>
      match x.job with
      | .step _ => s
      | .object _ => s
      | .stream d =>
        if d.kind ≠ 3 ∨ c.landedAll = false then s
        else
          let bad := c.fenceErr || (!c.hostLast.isEmpty && !ok)
          let s1 := s.setChan ch { c with
            fenceErr := false
            hostLast := []
            acks := c.acks.filter fun a => a.target.isSome || a.onReads }
          let s2 := if d.slotSig then s1.channelSignal ch d.target x.tile else s1
          s2.endTransfer ch x (if bad then St.strFenceErr else St.ok) 0 0)

end Sys2Proof.Machine
end

