-- ==== Sys2Proof/Machine/Handcart.lean ====
section
/-! DEFINITION. The handcart path (R313 to R319, R373, R408): messages leaving their senders, delivery on the
module, host mailboxes, and messages, acknowledgements and holds between modules. -/

namespace Sys2Proof.Machine

/-! ### Interrupts (R345) -/

/-- A dword of the MSI-X table; a vector's mask bit is set until the host clears it. PRESUMED: log entry 23. -/
def HostSt.msixDword (h : HostSt) (i : Nat) : Nat := Tbl.get h.msixTable (if i % 4 = 3 then 1 else 0) i

/-- Send a vector's message, or set its pending bit while it is masked. PRESUMED: log entry 23. DEDUCED: log entry 41. -/
def State.sendVector (s : State) (v : Nat) : State :=
  if s.host.msixOn = false then s
  else if bitOf (s.host.msixDword (4 * v + 3)) 0 then
    { s with host := { s.host with msixPending := NSet.add s.host.msixPending v } }
  else s.emit (.msix v)

/-! ### Applying a signal (R117 to R119, R310, R408) -/

structure HcSignal where
  pair : Nat
  ctr : Nat
  count : Nat
  enable : Bool
  deriving DecidableEq, Repr

/-- The SIGNAL and COUNT fields of a header (Table 08.9). -/
def HcMsg.signal (m : HcMsg) : HcSignal :=
  let b := leNat ((m.header.drop 4).take 1)
  ⟨b % 32, b / 32 % 2, leNat ((m.header.drop 5).take 1), bitOf b 6⟩

/-- Who sends a message of the die network: a tile, or a channel. -/
def MeshMsg.raiser (m : MeshMsg) : Raiser :=
  match m.from_ with
  | some t => .tile t
  | none => .chan

/-- The sender that the IDENT of another module's message names (Table 08.9). -/
def identRaiser (ident : Nat) : Raiser := .peer (ident % 2 ^ 20)

/-- Apply a message's signal to its target. -/
def State.applySignal (s : State) (m : HcMsg) (by_ : Raiser) : State :=
  let g := m.signal
  if g.enable = false ∨ g.count = 0 then s
  else match m.target with
    | .tile t => s.signalTile t g.pair g.ctr g.count by_ none
    | .chan u e c => s.signalChan (u * 2048 + e * 16 + c) g.ctr g.count by_.remote
    | .mbox _ => s

/-- Write a message's payload into its tile (R316, R319). -/
def State.writePayload (s : State) (m : HcMsg) (poison : Bool) : State :=
  match m.target with
  | .tile t => s.tileWrite t (leNat (m.header.take 4) % 2 ^ 19) (m.payload.map fun b => (b, poison))
  | _ => s

/-! ### Leaving the sender (R316, R318) -/

/-- Messages to a mailbox that are on their way. -/
def State.mboxTransit (s : State) (m : Nat) : Nat :=
  (s.net.mesh.filter fun x => x.msg.target == HcTarget.mbox m).length

def State.mboxRoom (s : State) (m : Nat) : Bool :=
  let b := Tbl.get s.host.mboxes ⟨0, 0⟩ m
  decide ((b.sent + s.mboxTransit m + 2 ^ 16 - b.consumed) % 2 ^ 16 < 16)

/-- A message as it enters the die network at a place: with IDENT, but for the SEQ of a host mailbox (R314, R318), and its
path. A peer's message is on its way to PD0, whose replay store keeps it (R373). -/
def State.onMesh (s : State) (from_ : Option Nat) (place : MeshNode) (m : HcMsg) : MeshMsg :=
  ⟨from_, m, s.ident (from_.getD 0) m.poison 0,
    meshPath place (if m.rank = s.rank then s.targetPlace m.target else ⟨4, 0, 0⟩)⟩

/-- The head of a tile's stream port leaves, if nothing holds it back (R192, R316). DEDUCED: log entry 40. -/
def State.tileLeaves (s : State) (t : Nat) : State :=
  let x := s.tile t
  match x.port with
  | [] => s
  | m :: rest =>
    let e := s.onMesh (some t) (s.tilePlace t) m.msg
    if x.idsBusy m.after ∨ s.net.meshRoom e.path = false then s
    else
      let gone := (s.setTile t { x with port := rest }).addReg Reg.STR_HC_STATUS_SENT 1
      match m.msg.target with
      | .mbox b =>
        if s.mboxRoom b then gone.enterMesh e
        else if m.waited then s
        else (s.setTile t { x with port := { m with waited := true } :: rest }).addReg Reg.STR_HC_STATUS_MBOX_WAITS 1
      | _ =>
        if m.msg.rank = s.rank then gone.enterMesh e
        else if s.replayRoom then gone.sendMessage m.msg (some t) none
        else s

/-- The message of a channel's signal (R294, R311). -/
def targetMsg (w : Nat) : HcMsg :=
  ⟨w % 2 ^ 20, .tile (bitsOf w 33 20), signalHeader (bitsOf w 38 34) (bitsOf w 39 39) 1, [], false⟩

/-- The head of a channel's held signals leaves. -/
def State.chanLeaves (s : State) (ch : Nat) : State :=
  let c := s.chan ch
  match c.outbox with
  | [] => s
  | (w, tile) :: rest =>
    let m := targetMsg w
    let gone := s.setChan ch { c with outbox := rest }
    let e := s.onMesh none (enginePlace (ch / 2048) (ch / 16 % 128)) m
    if s.net.meshRoom e.path = false then s
    else if m.rank = s.rank then gone.enterMesh e
    else if s.replayRoom then gone.sendMessage m tile (some ch)
    else s

/-- HANDCART_LEAVE (R316): A queued handcart message or signal finds room at the mesh link or in the replay store and leaves,
with IDENT written. -/
def execHandcartLeave (p : PortFrom) (s : State) : Host.Outcome State Fault Refusal :=
  .next (match p with
    | .tile t => s.tileLeaves t
    | .chan c => s.chanLeaves c)

/-! ### Delivery on the module (R316 to R318) -/

/-- HANDCART_DELIVER (R316): A handcart message reaches its tile or channel target, writes its payload and applies its signal.
-/
def execHandcartDeliver (n : Nat) (s : State) : Host.Outcome State Fault Refusal :=
  .next (match s.deliverable n with
    | none => s
    | some e =>
      match e.msg.target with
      | .mbox _ => s
      | _ => ((s.dropMesh n).writePayload e.msg e.msg.poison).applySignal e.msg e.raiser)

/-- Write a message into its mailbox slot, IDENT last, and send the vector (R318, R344, R345). DEDUCED: log entry 40. -/
def execMailboxWrite (n : Nat) (s : State) : Host.Outcome State Fault Refusal :=
  .next (match s.deliverable n with
    | none => s
    | some e =>
      match e.msg.target with
      | .mbox b =>
        let m := e.msg
        let box := Tbl.get s.host.mboxes ⟨0, 0⟩ b
        let a := s.regs.get Reg.HIF_MBOX_BASE_BASE * 4096 + 4096 * b + 256 * (box.sent % 16)
        let s1 := s.dropMesh n
        let s2 := if m.payload = [] then s1 else s1.emit (.hostWrite (a + 16) m.payload false)
        let s3 := (s2.emit (.hostWrite a m.header false)).emit
          (.hostWrite (a + 8) (leBytes 8 (e.ident + box.sent % 2 ^ 16 * 2 ^ 48)) false)
        let s4 := { s3 with host := { s3.host with
          mboxes := Tbl.put s3.host.mboxes b { box with sent := (box.sent + 1) % 2 ^ 16 } } }
        if s.regs.flag Reg.HIF_MBOX_CTL_IRQ then s4.sendVector (s.regs.get Reg.HIF_MBOX_CTL_VECTOR) else s4
      | _ => s)

/-! ### Between modules (R373, R408) -/

/-- The message that a MESSAGE packet carries, with IDENT. -/
def Packet.message (p : Packet) (self : Nat) : Option HcMsg × Nat :=
  let ident := leNat ((p.data.drop 8).take 8)
  ((hcTarget (p.addr % 2 ^ 40) 4096).map fun t =>
    ⟨self, t, p.data.take 8, p.data.drop 16, bitOf ident 34 || !p.good || p.poison != 0⟩, ident)

/-- Is the signal's tag that of the step in progress here (R408)? -/
def State.tagNow (s : State) (ident : Nat) : Bool :=
  bitsOf ident 36 35 == s.step.lastStep % 4 && bitsOf ident 38 37 == s.step.lastAttempt % 4 &&
    decide (2 ≤ s.stepState ∧ s.stepState ≤ 4)

/-- Apply a message from another module. Answers none when its signal finds the early-signal store full. -/
def State.applyMessage (s : State) (link : Nat) (p : Packet) : Option State :=
  match p.message s.rank with
  | (none, ident) => some (s.event 4 St.addrRange link (ident % 2 ^ 34))
  | (some m, ident) =>
    match m.target with
    | .mbox _ => some (s.event 4 St.addrRemoteHost link (ident % 2 ^ 34))
    | _ =>
      if m.signal.enable = false ∨ m.signal.count = 0 then some (s.writePayload m m.poison)
      else if s.tagNow ident then some ((s.writePayload m m.poison).applySignal m (identRaiser ident))
      else if s.net.early.length < 4096 then
        let s1 := s.writePayload m m.poison
        some { s1 with net := { s1.net with
          early := s1.net.early ++ [(bitsOf ident 36 35, bitsOf ident 38 37, m, ident)] } }
      else none

/-- Acknowledge a message (R373). -/
def State.ackMessage (s : State) (src order : Nat) : State :=
  s.ctrl src (leBytes 1 CT.hcAck ++ leBytes 3 1 ++ leBytes 4 order)

def State.holdMessage (s : State) (src order : Nat) : State :=
  s.ctrl src (leBytes 1 CT.hold ++ leBytes 3 0 ++ leBytes 4 order ++ leBytes 4 src)

/-- Apply held messages while they follow in number. -/
def State.applyHeld (s : State) (src : Nat) : Nat → State
  | 0 => s
  | fuel + 1 =>
    let want := Tbl.get s.net.recvOrder 0 src
    match s.net.reorder.find? fun e => e.rank == src && e.order == want with
    | none => s
    | some e =>
      match s.applyMessage e.link e.pkt with
      | none => s
      | some s1 =>
        (({ s1 with net := { s1.net with
            reorder := s1.net.reorder.erase e
            recvOrder := Tbl.put s1.net.recvOrder src ((want + 1) % 2 ^ 16) } }).ackMessage src want).applyHeld src fuel

/-- MESSAGE (R373): A handcart message from another module arrives and is applied in order, stored early, or discarded with a
HOLD. DEDUCED: log entry 40. -/
def execMessage (link : Nat) (s : State) : Host.Outcome State Fault Refusal :=
  .next (s.onPacket link PK.message fun s p =>
    let want := Tbl.get s.net.recvOrder 0 p.src
    let order := p.tseq % 2 ^ 16
    if order = want then
      match s.applyMessage link p with
      | none => s.holdMessage p.src order
      | some s1 =>
        (({ s1 with net := { s1.net with
            recvOrder := Tbl.put s1.net.recvOrder p.src ((want + 1) % 2 ^ 16) } }).ackMessage p.src order).applyHeld
          p.src s1.net.reorder.length
    else if (order + 2 ^ 16 - want) % 2 ^ 16 < 2 ^ 15 then
      if s.net.reorder.length < 1024 then
        { s with net := { s.net with reorder := s.net.reorder ++ [(⟨p.src, order, p, none, none, none, link⟩ : HcStored)] } }
      else s.holdMessage p.src order
    else s.ackMessage p.src order)

/-- Send a stored message again. -/
def State.resend (s : State) (rank order : Nat) : State :=
  match s.net.replay.find? fun e => e.rank == rank && e.order == order with
  | none => s
  | some e =>
    ({ s with net := { s.net with replay := s.net.replay.map fun x => if x = e then { e with held := none } else x } }).sendPacket
      VC.handcart e.pkt

/-- Acknowledgements free the entries they name; a held message whose predecessor they name goes out again. -/
def execHandcartAck (link : Nat) (s : State) : Host.Outcome State Fault Refusal :=
  .next (s.onCtrl link CT.hcAck fun s p =>
    let n := leNat ((p.data.drop 1).take 1)
    (List.range n).foldl (fun s i =>
      let o := leNat ((p.data.drop (4 + 4 * i)).take 4)
      let s1 := { s with net := { s.net with
        replay := s.net.replay.filter fun e => !(e.rank == p.src && e.order == o) } }
      let next := (o + 1) % 2 ^ 16
      if s1.net.replay.any fun e => e.rank == p.src && e.order == next && e.held.isSome then s1.resend p.src next else s1) s)

/-- HOLD (R373): A HOLD arrives and the source resends the message after the previous one is acknowledged. -/
def execHold (link : Nat) (s : State) : Host.Outcome State Fault Refusal :=
  .next (s.onCtrl link CT.hold fun s p =>
    let o := leNat ((p.data.drop 4).take 4)
    let before := (o + 2 ^ 16 - 1) % 2 ^ 16
    let s1 := { s with net := { s.net with replay := s.net.replay.map fun e =>
      if e.rank = p.src ∧ e.order = o then { e with held := some s.now } else e } }
    if s1.net.replay.any fun e => e.rank == p.src && e.order == before then s1 else s1.resend p.src o)

/-- HOLD_RESEND_TIMEOUT (R373): 50 µs after a HOLD the source resends the held message. -/
def execHoldResendTimeout (rank order : Nat) (s : State) : Host.Outcome State Fault Refusal :=
  .next (match s.net.replay.find? fun e => e.rank == rank && e.order == order with
    | none => s
    | some e =>
      match e.held with
      | some t => if t + 50000 ≤ s.now then s.resend rank order else s
      | none => s)

end Sys2Proof.Machine
end

