-- ==== Sys2Proof/Machine/Host.lean ====
section
/-! DEFINITION. The rings in host memory (chapter 09): polling the doorbell page, fetching and starting
descriptors, writing completion records and events, and their interrupts. -/

namespace Sys2Proof.Machine

/-! ### Counts modulo 2^32 -/

/-- How far `a` runs ahead of `b`. -/
def ahead32 (a b : Nat) : Nat := (a + 2 ^ 32 - b % 2 ^ 32) % 2 ^ 32

/-- GEN of entry `k` of a ring (R331, R338). -/
def genOf (k size : Nat) : Nat := (k / size + 1) % 2

/-! ### Room (R332, R340, R343) -/

def State.cq (s : State) (m : Nat) : CqSt := Tbl.get s.host.cqs CqSt.zero m

/-- Free places of a ring of `size` records. -/
def CqSt.room (c : CqSt) (size : Nat) : Nat := size - ahead32 c.written c.consumed

def State.cqRoom (s : State) (m : Nat) : Nat := (s.cq m).room (s.regs.getAt Reg.HIF_CQ_CTL_SIZE m)

def State.eqRoom (s : State) : Nat := s.host.eq.room (s.regs.get Reg.HIF_EQ_CTL_SIZE)

/-- Completion rings whose next record has no room. -/
def State.fullCqs (s : State) : List Nat :=
  (List.range 256).filter fun m => s.host.queue.any (fun r => r.cq == m) && s.cqRoom m == 0

/-- Is the event ring full with an event waiting? -/
def State.fullEq (s : State) : Bool := (!s.host.events.isEmpty || s.host.dropped != 0) && s.eqRoom == 0

/-- Mailboxes without room for a message that waits in a stream port. -/
def State.fullMboxes (s : State) : List Nat :=
  (List.range 256).filter fun b => s.mboxRoom b == false && s.tiles.any fun x => match x.2.port.head? with
    | some m => m.msg.target == .mbox b
    | none => false

/-! ### Polling (R332) -/

def State.ringValid (s : State) (r : Nat) : Bool := s.regs.getAt Reg.HIF_SQ_CTL_VALID r == 1

def State.validRings (s : State) : List Nat := (List.range 256).filter s.ringValid

def State.dbAddr (s : State) : Nat := s.regs.get Reg.HIF_DB_BASE_BASE * 4096

/-- Bytes of the poll's read: up to the end of the line of the highest PRODUCED word. -/
def State.pollLen (s : State) : Nat :=
  match s.validRings.getLast? with
  | some r => (4 * r / 64 + 1) * 64
  | none => 0

/-- Addresses of the words that the module reads again because they leave no room. -/
def State.onDemand (s : State) : List (Nat × Nat) :=
  (s.fullCqs.map fun m => (s.dbAddr + 1024 + 4 * m, 4)) ++
    (s.fullMboxes.map fun b => (s.dbAddr + 2048 + 4 * b, 4)) ++
      (if s.fullEq then [(s.dbAddr + 3072, 4)] else [])

/-- Does HIF_DEV_CTL.PARK, or D3hot, ask for park while the step machinery is IDLE (R521, R522)? DEDUCED: log entry 50. -/
def State.parkDue (s : State) : Bool :=
  let p := s.regs.get Reg.HIF_DEV_CTL_PARK
  (p == 1 || p == 2 || s.host.d3) && s.stepState == 0

/-- May the module poll and fetch: enabled, and neither parked nor on its way there (R351, R521)? -/
def State.fetching (s : State) : Bool :=
  !s.parkDue &&
  s.enabled && !s.fab.parked && !s.host.perst && !(s.regs.flag Reg.HIF_DEV_STATUS_PARKED) && s.fab.trip.isNone

/-- DOORBELL_POLL (R332): At the adaptive interval the module issues one read of the doorbell page. -/
def execDoorbellPoll (s : State) : Host.Outcome State Fault Refusal :=
  .next (
    if s.fetching = false ∨ s.host.pollBusy = true then s
    else
      let s1 := ({ s with host := { s.host with pollBusy := true } }).addReg Reg.HIF_POLL_STATUS_POLLS 1
      let s2 := if s.pollLen = 0 then s1 else s1.emit (.hostRead s.dbAddr s.pollLen)
      s2.each s.onDemand fun s x => s.emit (.hostRead x.1 x.2))

/-- Values of the words that were without room. -/
def State.takeConsumed (s : State) (v : HostView) : State :=
  let word := fun a => leNat ((List.range 4).map fun i => (viewByte v (s.dbAddr + a + i)).1)
  let cqs := s.fullCqs.foldl (fun t m => Tbl.put t m { s.cq m with consumed := word (1024 + 4 * m) }) s.host.cqs
  let boxes := s.fullMboxes.foldl (fun t b =>
    Tbl.put t b { Tbl.get t ⟨0, 0⟩ b with consumed := word (2048 + 4 * b) % 2 ^ 16 }) s.host.mboxes
  let eq := if s.fullEq then { s.host.eq with consumed := word 3072 } else s.host.eq
  { s with host := { s.host with cqs := cqs, mboxes := boxes, eq := eq } }

/-- Values of the PRODUCED words. -/
def State.takeProduced (s : State) (v : HostView) : State :=
  let rings := s.validRings.foldl (fun t r =>
    let n := leNat ((List.range 4).map fun i => (viewByte v (s.dbAddr + 4 * r + i)).1)
    let x := Tbl.get t RingSt.zero r
    if n = x.produced then t else Tbl.put t r { x with produced := n }) s.host.rings
  { s with host := { s.host with rings := rings } }

/-- The interval after a poll (R332): back to 250 ns on a new value or while a descriptor is in progress, one level
longer after every 16 empty polls otherwise. -/
def State.pollLevel (s : State) (found : Bool) : State :=
  if found ∨ s.host.descs ≠ [] then
    ({ s with host := { s.host with pollEmpty := 0 } }).setReg Reg.HIF_POLL_STATUS_LEVEL 0
  else if s.host.pollEmpty + 1 < 16 then { s with host := { s.host with pollEmpty := s.host.pollEmpty + 1 } }
  else
    ({ s with host := { s.host with pollEmpty := 0 } }).setReg Reg.HIF_POLL_STATUS_LEVEL
      (min 8 (s.regs.get Reg.HIF_POLL_STATUS_LEVEL + 1))

/-- Slots that failed or had the wrong GEN may be read again. -/
def State.freeRings (s : State) : State :=
  { s with host := { s.host with pollBusy := false, rings := Tbl.mapVals (fun _ x => { x with hold := false }) s.host.rings } }

/-- DOORBELL_POLL_RESULT (R332): A poll returns, and the module updates the PRODUCED counts and adjusts the interval, or posts
ST_DESC_FETCH_ERR on a bus error. DEDUCED: log entry 41. -/
def execDoorbellPollResult (v : HostView) (s : State) : Host.Outcome State Fault Refusal :=
  .next (
    if s.host.pollBusy = false then s
    else
      let s0 := s.freeRings
      if viewFails v s.dbAddr s.pollLen ∨ s.onDemand.any (fun x => viewFails v x.1 x.2) then
        let s1 := if s0.host.pollErr then s0 else
          ({ s0 with host := { s0.host with pollErr := true } }).post ⟨St.descFetchErr, 2, 7, 0, s.dbAddr⟩
        s1.pollLevel false
      else
        let s1 := { s0 with host := { s0.host with pollErr := false } }
        let s2 := (s1.takeConsumed v).takeProduced v
        s2.pollLevel (decide (s2.host.rings ≠ s1.host.rings)))

/-! ### Fetching (R333) -/

/-- Does the module own descriptor `j` of a ring: from its fetch until its completion record is written (R334)? -/
def State.owns (s : State) (r j : Nat) : Bool :=
  (s.host.desc r j).isSome || s.host.unwritten.any fun c => c.ring == r && c.index == j

/-- Counts of a ring's descriptors that the module owns. -/
def HostSt.owned (h : HostSt) (r : Nat) : List Nat :=
  ((h.descs.filter fun d => d.ring == r).map fun d => d.index) ++
    (h.unwritten.filter fun c => c.ring == r).map fun c => c.index

/-- The oldest descriptor not yet completed: how far it lies behind the next to fetch. -/
def State.behind (s : State) (r : Nat) : Nat :=
  let next := (Tbl.get s.host.rings RingSt.zero r).next
  ((s.host.owned r).map fun j => ahead32 next j).foldl max 0

/-- Descriptors that the driver has written beyond the next to fetch, with PRODUCED cut to 2·SIZE ahead of the oldest
not completed. -/
def State.toFetch (s : State) (r : Nat) : Nat :=
  let x := Tbl.get s.host.rings RingSt.zero r
  let b := s.behind r
  let lead := (ahead32 x.produced x.next + b) % 2 ^ 32
  min lead (2 * s.ringSize r) - b

/-- Of `n` descriptors from `j`, how many stand before one whose slot is still owned. -/
def State.freeRun (s : State) (r : Nat) : Nat → Nat → Nat
  | 0, _ => 0
  | n + 1, j =>
    if s.owns r ((j + 2 ^ 32 - s.ringSize r) % 2 ^ 32) then 0 else 1 + s.freeRun r n ((j + 1) % 2 ^ 32)

/-- Consecutive descriptors that a fetch of the ring would read now. -/
def State.fetchCount (s : State) (r : Nat) : Nat :=
  let x := Tbl.get s.host.rings RingSt.zero r
  if s.ringValid r = false ∨ x.hold = true then 0
  else s.freeRun r (min 16 (s.toFetch r)) x.next

/-- The ring served next: the highest priority, and among equals the next in ring order after the last served. -/
def State.nextRing (s : State) : Option Nat :=
  let ready := s.validRings.filter fun r => s.fetchCount r != 0
  let prio := fun r => s.regs.getAt Reg.HIF_SQ_CTL_PRIO r
  let top := (ready.map prio).foldl max 0
  let eqs := ready.filter fun r => prio r == top
  let after := eqs.filter fun r => Tbl.get s.host.served 255 top < r
  match after with
  | r :: _ => some r
  | [] => eqs.head?

def State.slotAddr (s : State) (r j : Nat) : Nat :=
  s.regs.getAt Reg.HIF_SQ_BASE_BASE r * 4096 + 64 * (j % s.ringSize r)

/-- DESCRIPTOR_FETCH (R333): A ring with eligible descriptors is served by priority and up to 16 consecutive descriptors are
read. DEDUCED: log entry 41. -/
def execDescriptorFetch (s : State) : Host.Outcome State Fault Refusal :=
  .next (
    if s.fetching = false ∨ s.host.fetch.isSome = true then s
    else match s.nextRing with
      | none => s
      | some r =>
        let x := Tbl.get s.host.rings RingSt.zero r
        let n := s.fetchCount r
        let f := ({ s with host := { s.host with
          fetch := some ⟨r, x.next, n⟩
          served := Tbl.put s.host.served (s.regs.getAt Reg.HIF_SQ_CTL_PRIO r) r } } : State)
        f.each (List.range n) fun s i => s.emit (.hostRead (s.slotAddr r ((x.next + i) % 2 ^ 32)) 64))

/-- A descriptor from its 64 bytes (Table 09.4). -/
def Desc.parse (r j : Nat) (b : List Byte) : Desc :=
  ⟨r, j, leNat (b.take 1), leNat ((b.drop 1).take 1), leNat ((b.drop 4).take 4), b.drop 16, false, false, none⟩

/-- The stream descriptor that a fetched STREAM names, read once (R22, R293, R551): the status and completion flags of a refusal,
or the bytes with ST_OK. -/
def State.latchStream (s : State) (v : HostView) (d : Desc) : Option (Nat × Nat × List Byte) × State :=
  let a := d.n 0 8
  if d.opcode ≠ 1 then (none, s)
  else match s.judge .local3 a 64 with
    | some e => (some (e, 0, []), s)
    | none =>
      if a % 64 ≠ 0 then (some (St.paramCode, 0, []), s)
      else match s.readStruct v a 64 with
        | (.error (st, fl), s1) => (some (st, fl, []), s1)
        | (.ok b, s1) => (some (St.ok, 0, b), s1)

/-- Accept fetched descriptors while their GEN matches, which brings the poll interval back to 250 ns (R332); the first that does
not match holds the ring until the next poll. -/
def State.acceptDescs (s : State) (v : HostView) (r : Nat) : Nat → Nat → State
  | 0, _ => s
  | n + 1, j =>
    let a := s.slotAddr r j
    let d := Desc.parse r j ((List.range 64).map fun i => (viewByte v (a + i)).1)
    let x := Tbl.get s.host.rings RingSt.zero r
    if d.flags % 2 = genOf j (s.ringSize r) then
      let l := s.latchStream v d
      ({ (l.2.setReg Reg.HIF_POLL_STATUS_LEVEL 0) with host := { l.2.host with
          descs := l.2.host.descs ++ [{ d with latched := l.1 }]
          pollEmpty := 0
          rings := Tbl.put l.2.host.rings r { x with next := (j + 1) % 2 ^ 32 } } }).acceptDescs v r n ((j + 1) % 2 ^ 32)
    else { s with host := { s.host with rings := Tbl.put s.host.rings r { x with hold := true } } }

/-- DESCRIPTOR_FETCH_RESULT (R333): Fetched descriptors return and those with a matching GEN are accepted, or the fetch error
is posted. -/
def execDescriptorFetchResult (v : HostView) (s : State) : Host.Outcome State Fault Refusal :=
  .next (
    match s.host.fetch with
    | none => s
    | some f =>
      let s0 := { s with host := { s.host with fetch := none } }
      let x := Tbl.get s.host.rings RingSt.zero f.ring
      if (List.range f.count).any fun i => viewFails v (s.slotAddr f.ring ((f.first + i) % 2 ^ 32)) 64 then
        let s1 := { s0 with host := { s0.host with
          rings := Tbl.put s0.host.rings f.ring { x with hold := true, fetchErr := true } } }
        if x.fetchErr then s1 else s1.post ⟨St.descFetchErr, 0, 7, f.ring, f.first⟩
      else
        ({ s0 with host := { s0.host with
          rings := Tbl.put s0.host.rings f.ring { x with fetchErr := false } } }).acceptDescs v f.ring f.count f.first)

/-! ### Starting (R337) -/

/-- ORDER (R335). -/
def Desc.order (d : Desc) : Bool := d.flags.testBit 2

/-- Is count `i` earlier than count `j`? -/
def earlier (i j : Nat) : Bool := decide (0 < ahead32 j i ∧ ahead32 j i < 2 ^ 31)

/-- Is `d` an earlier descriptor of the ring than count `j`? -/
def Desc.before (d : Desc) (r j : Nat) : Bool := d.ring == r && earlier d.index j

/-- A STREAM that has started and waits for room in its channel's queue: its ring waits behind it (R291). -/
def Desc.queues (d : Desc) : Bool := d.started && !d.taken && d.opcode == 1

/-- May the descriptor start (R337)? -/
def State.startable (s : State) (d : Desc) : Bool :=
  (s.host.descs.all fun e => !e.before d.ring d.index || (!d.order && (e.taken || (e.order && !e.queues)))) &&
    (!d.order || s.host.unwritten.all fun c => !(c.ring == d.ring && earlier c.index d.index))

/-- DESCRIPTOR_START (R337): An accepted descriptor whose earlier descriptors have started, or completed for ORDER, starts on
its unit. -/
def execDescriptorStart (r j : Nat) (s : State) : Host.Outcome State Fault Refusal :=
  .next (
    match s.host.desc r j with
    | none => s
    | some d =>
      if d.started ∨ s.startable d = false then s
      else { s with host := { s.host with descs := s.host.descs.map fun e =>
        if e.ring = r ∧ e.index = j then { e with started := true } else e } })

/-- Opcodes that Table 09.5 lists. -/
def opcodeKnown (o : Nat) : Bool :=
  decide (o ≤ 0xA) || decide (0x10 ≤ o ∧ o ≤ 0x15) || decide (0x20 ≤ o ∧ o ≤ 0x22) || decide (0x28 ≤ o ∧ o ≤ 0x2C)

/-- NOP, and every reserved opcode, which is refused (R336). DEDUCED: log entry 41. -/
def execNopDescriptor (r j : Nat) (s : State) : Host.Outcome State Fault Refusal :=
  .next (
    match s.host.desc r j with
    | none => s
    | some d =>
      if d.started = false ∨ s.host.stuck d.unit = true then s
      else if opcodeKnown d.opcode = false then s.finish r j St.descOpcode
      else s.onDesc r j 0 fun s _ => s.finish r j St.ok)

/-! ### Interrupts of the rings (R345) -/

/-- Account for one record written to a moderated ring: answers the ring and whether a message goes out. -/
def CqSt.wrote (c : CqSt) (now modCount modTime : Nat) (atOnce : Bool) : CqSt × Bool :=
  let n := c.pending + 1
  let c1 := { c with
    written := (c.written + 1) % 2 ^ 32
    oldest := if c.pending = 0 then now else c.oldest }
  if atOnce ∨ max 1 modCount ≤ n ∨ modTime = 0 then ({ c1 with pending := 0 }, true) else ({ c1 with pending := n }, false)

/-! ### Completion records (R338 to R340) -/

/-- The record's 32 bytes, as number `k` of a ring of `size`. -/
def CplRec.bytes (c : CplRec) (k size : Nat) : List Byte :=
  leBytes 2 c.status ++ leBytes 1 (c.flags % 64 + 64 * genOf k size) ++ leBytes 1 c.opcode ++ leBytes 1 c.ring ++
    leBytes 3 0 ++ leBytes 4 c.index ++ leBytes 4 c.tag ++ leBytes 8 c.result ++ leBytes 8 c.time

/-- Waiting records take the places that have come free, in order (R340). -/
def HostSt.letIn (h : HostSt) : Nat → HostSt
  | 0 => h
  | n + 1 =>
    match h.waiting.find? fun r => h.room r.cq with
    | none => h
    | some r => ({ h with waiting := h.waiting.erase r, queue := h.queue ++ [r] }).letIn n

/-- The records that one write carries: those of one ring in order, up to 512 B, to the ring's room and to its end. -/
def State.batch (s : State) (m : Nat) : List CplRec :=
  let size := s.regs.getAt Reg.HIF_CQ_CTL_SIZE m
  (s.host.queue.filter fun r => r.cq == m).take
    (min 16 (min (s.cqRoom m) (size - (s.cq m).written % size)))

/-- The ring after records are written, and how many messages go out. -/
def State.wroteAll (s : State) (m : Nat) (recs : List CplRec) : CqSt × Nat :=
  recs.foldl (fun acc r =>
    let x := acc.1.wrote s.now (s.regs.getAt Reg.HIF_CQ_CTL_MOD_COUNT m) (s.regs.getAt Reg.HIF_CQ_CTL_MOD_TIME m) r.notify
    (x.1, acc.2 + if x.2 then 1 else 0)) (s.cq m, 0)

/-- COMPLETION_WRITE (R340): The coalescer writes queued completion records to a completion ring that has room. -/
def execCompletionWrite (m : Nat) (s : State) : Host.Outcome State Fault Refusal :=
  .next (
    let recs := s.batch m
    if s.enabled = false ∨ recs = [] then s
    else
      let size := s.regs.getAt Reg.HIF_CQ_CTL_SIZE m
      let k := (s.cq m).written
      let x := s.wroteAll m recs
      let h := { s.host with
        queue := recs.foldl List.erase s.host.queue
        cqs := Tbl.put s.host.cqs m x.1 }
      let s1 := { s with host := h.letIn h.waiting.length }
      let s3 := s1.emit (.hostWrite (s.regs.getAt Reg.HIF_CQ_BASE_BASE m * 4096 + 32 * (k % size))
        ((recs.mapIdx fun i r => (r.rearm (s.rearmed r.ring r.index)).bytes ((k + i) % 2 ^ 32) size).flatten) false)
      if s.regs.getAt Reg.HIF_CQ_CTL_IRQ m = 1 then
        s3.each (List.range x.2) fun s _ => s.sendVector (s.regs.getAt Reg.HIF_CQ_CTL_VECTOR m)
      else s3)

/-! ### Events (R342, R343) -/

def EvRec.bytes (e : EvRec) (k size : Nat) : List Byte :=
  leBytes 2 e.ev.status ++ leBytes 1 (e.ev.flags % 64 + 64 * genOf k size) ++ leBytes 1 e.ev.source ++
    leBytes 4 e.ev.loc ++ leBytes 8 e.ev.detail ++ leBytes 8 e.step ++ leBytes 8 e.time

/-- The record that is written next: an overflow first, then the oldest event. -/
def State.nextEvent (s : State) : Option (EvRec × HostSt) :=
  if s.host.dropped ≠ 0 then
    some (⟨⟨St.eventOverflow, 0, 7, 0, s.host.dropped⟩, s.regs.get Reg.TRN_STEP_NUM_STEP, s.now⟩,
      { s.host with dropped := 0 })
  else match s.host.events with
    | [] => none
    | e :: r => some (e, { s.host with events := r })

/-- EVENT_WRITE (R343): A queued event is written to the event ring when it has room, after an ST_EVENT_OVERFLOW record if
events were dropped. -/
def execEventWrite (s : State) : Host.Outcome State Fault Refusal :=
  .next (
    if s.enabled = false ∨ s.eqRoom = 0 then s
    else match s.nextEvent with
      | none => s
      | some (e, h) =>
        let size := s.regs.get Reg.HIF_EQ_CTL_SIZE
        let c := St.cls e.ev.status
        let x := h.eq.wrote s.now (s.regs.get Reg.HIF_EQ_CTL_MOD_COUNT) (s.regs.get Reg.HIF_EQ_CTL_MOD_TIME)
          (c == 3 || c == 6)
        let s1 := ({ s with host := { h with eq := x.1 } }).emit
          (.hostWrite (s.regs.get Reg.HIF_EQ_BASE_BASE * 4096 + 32 * (h.eq.written % size)) (e.bytes h.eq.written size) false)
        if x.2 ∧ s.regs.flag Reg.HIF_EQ_CTL_IRQ then s1.sendVector (s.regs.get Reg.HIF_EQ_CTL_VECTOR) else s1)

/-! ### Moderation time (R345) -/

/-- A completion ring by its number, or the event ring. -/
def execModTimeExpiry (cq : Option Nat) (s : State) : Host.Outcome State Fault Refusal :=
  .next (
    match cq with
    | some m =>
      let c := s.cq m
      if c.pending = 0 ∨ s.now < c.oldest + 1000 * s.regs.getAt Reg.HIF_CQ_CTL_MOD_TIME m then s
      else
        let s1 := { s with host := { s.host with cqs := Tbl.put s.host.cqs m { c with pending := 0 } } }
        if s.regs.getAt Reg.HIF_CQ_CTL_IRQ m = 1 then s1.sendVector (s.regs.getAt Reg.HIF_CQ_CTL_VECTOR m) else s1
    | none =>
      let c := s.host.eq
      if c.pending = 0 ∨ s.now < c.oldest + 1000 * s.regs.get Reg.HIF_EQ_CTL_MOD_TIME then s
      else
        let s1 := { s with host := { s.host with eq := { c with pending := 0 } } }
        if s.regs.flag Reg.HIF_EQ_CTL_IRQ then s1.sendVector (s.regs.get Reg.HIF_EQ_CTL_VECTOR) else s1)

end Sys2Proof.Machine
end

