-- ==== Sys2Proof/Machine/Memory.lean ====
section
/-! DEFINITION. The stacked-memory controllers (chapter 07): requests at the ordering point, refresh and
temperature, lane marks, channel retirement, the patrol scrub and the traffic generators. -/

namespace Sys2Proof.Machine

/-! ### Requests (R256, R259, R265) -/

/-- Does a request lie within one granule of 256 B? -/
def inGranule (a n : Nat) : Bool := n != 0 && a / 256 == (a + n - 1) / 256 && decide (a < 0xC000000000)

/-- Put a request into its channel's slots. -/
def State.holdSlot (s : State) (k : Nat) (q : MemReq) : State :=
  let c := s.memCh k
  s.setMemCh k { c with slots := c.slots ++ [q] }

/-- Does a request of this source, address and direction wait behind another of its source (R259)? DEDUCED: log entry 42. -/
def MemCh.behind (c : MemCh) (key : Nat × Nat × Bool) : Bool := c.blocked.any fun b => b.1 == key.1 && b != key

/-- A request reaches its ordering point, where it takes effect: a write writes, each 64 B granule with its own tag, and a read
takes its bytes and meets their errors (R265). It holds its slot until it is done. One that cannot enter waits, and the later ones
of its source to that channel wait behind it (R259). DEDUCED: log entry 42. -/
def execMemRequestEnter (q : MemAccess) (s : State) : Host.Outcome State Fault Refusal :=
  .next (
    let n := if q.write then q.data.length else q.len
    let k := s.chanOf q.addr
    let key := (q.source, q.addr, q.write)
    let c := s.memCh k
    if inGranule q.addr n = false ∨ c.behind key = true then s
    else if s.memAdmits q.addr = false then
      (if c.blocked.contains key then s else s.setMemCh k { c with blocked := c.blocked ++ [key] })
    else
      let s1 := s.setMemCh k { c with blocked := c.blocked.erase key }
      if q.write then
        (s1.stackWrite q.addr (q.data.mapIdx fun i b => (b, bitOf q.poison ((q.addr + i) / 64 % 4)))).holdSlot k
          ⟨q.source, q.addr, true, []⟩
      else
        let g := s1.stackRead q.addr n
        g.2.holdSlot k ⟨q.source, q.addr, false, g.1⟩)

/-- A request in a slot is done and leaves it; a read returns its bytes, each with its tag (R264). DEDUCED: log entry 42. -/
def execMemReadDone (channel slot : Nat) (s : State) : Host.Outcome State Fault Refusal :=
  .next (
    let c := s.memCh channel
    match c.slots[slot]? with
    | none => s
    | some q =>
      let s1 := s.setMemCh channel { c with slots := ldel c.slots slot }
      if q.write then s1 else s1.emit (.memData q.source q.addr q.data))

/-! ### Lane marks and retirement (R266 to R268) -/

/-- Repair fields have changed: a health record follows within a second (R518). -/
def State.repairChanged (s : State) : State := { s with boot := { s.boot with healthDirty := true } }

/-- A lane failed training, or had 64 errors corrected within a second (R266). -/
def execLaneMark (channel lane : Nat) (training : Bool) (s : State) : Host.Outcome State Fault Refusal :=
  .next (
    let c := s.memCh channel
    if 1536 ≤ channel ∨ 18 ≤ lane ∨ c.mark.isSome ∨ (training = false ∧ NSet.has c.due lane = false) then s
    else ((s.setMemCh channel { c with mark := some lane }).event 2 St.memLaneMarked (memWhere channel) 0).repairChanged)

/-- Offsets of the granules of a channel. -/
def chanGranule (channel l : Nat) : Nat :=
  channel / 128 / 3 * 0x3000000000 + 256 * (384 * l + 3 * (channel % 128) + channel / 128 % 3)

/-- A channel's addresses hold the poison pattern: every granule is poisoned, over bytes that the spec leaves open, and no error
is left to meet. DESIGN CHOICE: log entry 60. -/
def Mem.poisonChannel (m : Mem) (channel f : Nat) : Mem :=
  let own := fun (w : Nat) => (locate (64 * w)).chan == channel
  { cells := (List.range 2097152).foldl (fun cs l =>
      Cells.write cs (chanGranule channel l) (leBytes 256 (f / 2 ^ (2048 * l)))) m.cells
    poison := NSet.addAll m.poison ((List.range 2097152).flatMap fun l =>
      (List.range 4).map fun k => (chanGranule channel l + 64 * k) / 64)
    uncorr := m.uncorr.filter fun w => !own w
    single := m.single.filter fun w => !own w }

/-- The module writes the poison pattern over the retirement area, which holds the channel's addresses from now on (R267,
R268). -/
def State.poisonArea (s : State) (channel : Nat) : State :=
  let f := s.draw
  { f.2 with
    stack := s.stack.poisonChannel channel f.1
    mem := { s.mem with lanes := s.mem.lanes.filter fun x => (locate (64 * x.1)).chan != channel } }

/-- The cells of a channel, by offset in the channel. -/
def Mem.ofChannel (m : Mem) (channel : Nat) : Mem :=
  let off := fun (a : Nat) => 256 * (locate a).granule + a % 256
  { cells := (m.cells.filter fun c => (locate c.1).chan == channel).foldl (fun cs c => Cells.put cs (off c.1) c.2) []
    poison := ((m.poison.filter fun w => (locate (64 * w)).chan == channel).map fun w => off (64 * w) / 64)
    uncorr := []
    single := [] }

/-- What the retirement area held before is overwritten. -/
def Mem.dropArea (m : Mem) (base : Nat) : Mem :=
  let out := fun (a : Nat) => decide (a < base ∨ base + 2 ^ 29 ≤ a)
  { cells := (m.cells.filter fun c => !out c.1).foldl (fun cs c => Cells.put cs c.1 0) m.cells
    poison := m.poison.filter fun w => out (64 * w)
    uncorr := m.uncorr.filter fun w => out (64 * w)
    single := m.single.filter fun w => out (64 * w) }

/-- Must the channel be retired (R268)? -/
def MemCh.failing (c : MemCh) (training : Bool) : Bool :=
  training || c.failed ||
    (match c.mark with
     | some m => c.due.any fun l => l != m
     | none => false)

/-- Poison for a request in a slot of the retired channel, where it is a read. -/
def MemReq.lost (q : MemReq) : List Output :=
  if q.write then [] else [.memData q.source q.addr (q.data.map fun b => (b.1, true))]

/-- The retirement takes effect: its fields, the poisoned area, and poison for the requests in its slots. DEDUCED: log entry 42.
-/
def State.retireChannel (s : State) (channel : Nat) : State :=
  let die := channel / 128 / 3
  let area := if die = 0 ∨ die = 3 then 1 else 0
  let c := s.memCh channel
  let s1 : State := { s with
    stack := s.stack.dropArea (areaBase area)
    mem := { s.mem with own := s.stack.ofChannel channel } }
  let s2 := ((((s1.setMemCh channel { c with
    slots := []
    blocked := []
    uncorrAt := []
    failed := false }).setReg Reg.MEM_RETIRE_STATUS_USED 1).setReg Reg.MEM_RETIRE_STATUS_STACK (channel / 128)).setReg
      Reg.MEM_RETIRE_STATUS_CHANNEL (channel % 128)).setReg Reg.MEM_RETIRE_STATUS_AREA area
  let s3 := s2.poisonArea channel
  let s4 : State := { s3 with
    mem := { s3.mem with poisoning := true }
    res := { s3.res with chanMarked := true } }
  s4.each (c.slots.flatMap MemReq.lost) fun s o => s.emit o

/-- Is this the channel that has been retired (R268)? -/
def State.chanRetired (s : State) (c : Nat) : Bool :=
  s.regs.flag Reg.MEM_RETIRE_STATUS_USED && s.regs.get Reg.MEM_RETIRE_STATUS_STACK == c / 128 &&
    s.regs.get Reg.MEM_RETIRE_STATUS_CHANNEL == c % 128

/-- CHANNEL_RETIRE (R268): A channel is retired to a retirement area, which is poisoned, or the module posts
ST_MEM_RETIRE_EXHAUSTED where another has been. -/
def execChannelRetire (channel : Nat) (training : Bool) (s : State) : Host.Outcome State Fault Refusal :=
  .next (
    let c := s.memCh channel
    if 1536 ≤ channel ∨ c.failing training = false ∨ s.chanRetired channel = true then s
    else if s.regs.flag Reg.MEM_RETIRE_CTL_ENABLE = false ∨ s.regs.flag Reg.MEM_RETIRE_STATUS_USED = true then
      let s1 := s.setMemCh channel { c with
        uncorrAt := []
        failed := false }
      (({ s1 with mem := { s1.mem with exhausted := true } }).event 2 St.memRetireExhausted (memWhere channel) 0).cause 5
    else
      ((s.retireChannel channel).event 2 St.memChannelRetired (memWhere channel) 0).repairChanged)

/-- The area holds the poison pattern throughout: accesses that waited go on. -/
def execRetireAreaPoisoned (s : State) : Host.Outcome State Fault Refusal :=
  .next (if s.mem.poisoning then { s with mem := { s.mem with poisoning := false } } else s)

/-! ### Refresh and temperature (R261, R262) -/

/-- Nanoseconds between refreshes of a bank. -/
def refreshInterval (code : Nat) : Nat :=
  match code with
  | 0 => 3900
  | 1 => 1950
  | _ => 975

/-- BANK_REFRESH (R261): A bank's refresh interval expires and the bank is refreshed. -/
def execBankRefresh (channel bank : Nat) (s : State) : Host.Outcome State Fault Refusal :=
  .next (
    let k := channel * 16 + bank
    let every := refreshInterval (s.regs.getAt Reg.MEM_STACK_STATUS_REFRESH (channel / 128))
    if 1536 ≤ channel ∨ 16 ≤ bank ∨ s.mem.selfRefresh = true ∨ s.mem.off = true ∨
        s.now < Tbl.get s.mem.refreshed 0 k + every then s
    else { s with mem := { s.mem with refreshed := Tbl.put s.mem.refreshed k s.now } })

/-- Lower bounds of the states of Table 07.2. -/
def tempBounds : List Nat := [85, 95, 105, 110]

/-- The state of a stack at a temperature, given its state before: a bound reached is entered, and left 2 °C below. -/
def tempState (old temp : Nat) : Nat :=
  ((List.range 4).filter fun k =>
    let b := (tempBounds[k]?).getD 0
    decide (b ≤ temp) || (decide (k < old) && decide (b < temp + 2))).foldl (fun m k => max m (k + 1)) 0

/-- One stack's sensor reading (Table 07.2): the stack moves to the state of its filtered temperature. -/
def State.stackTemp (s : State) (k reading : Nat) : State :=
  let temp := (Tbl.get s.mem.lastTemp reading k + reading) / 2
  let old := Tbl.get s.mem.tempLevel 0 k
  let new := tempState old temp
  let s1 := { s with mem := { s.mem with
    lastTemp := Tbl.put s.mem.lastTemp k reading
    tempLevel := Tbl.put s.mem.tempLevel k new } }
  let s2 := ((((s1.setRegAt Reg.MEM_STACK_STATUS_TEMP k temp).setRegAt Reg.MEM_STACK_STATUS_REFRESH k (min new 2)).setRegAt
    Reg.MEM_STACK_STATUS_THROTTLE k (if 3 ≤ new then 1 else 0)).setRegAt Reg.MEM_STACK_STATUS_MAX_TEMP k
      (max temp (s.regs.getAt Reg.MEM_STACK_STATUS_MAX_TEMP k)))
  let s3 := if 3 ≤ new ∧ old < 3 then
      (s2.addRegAt Reg.MEM_STACK_STATUS_THROTTLE_EVENTS k 1).event 2 St.memThrottle k 0
    else s2
  if 4 ≤ new ∧ s3.fab.trip = none ∧ s3.regs.flag Reg.SAF_SAFE_STATUS_ACTIVE = false then s3.trip St.memOvertemp 4 false k 0
  else s3

/-- Does the cause of a safe state on stack temperature persist (R261, R475)? -/
def State.stackStillHot (s : State) : Bool := s.mem.tempLevel.any fun x => decide (4 ≤ x.2)

/-- The cause of the safe state has ended: ACTIVE clears and the alert is released. -/
def State.causeEnds (s : State) : State :=
  let s1 := (s.setFlag Reg.SAF_SAFE_STATUS_ACTIVE false).emit (.alert s.fab.alertPulse)
  { s1 with mem := { s1.mem with selfRefresh := s.fab.parked || s.host.perst } }

/-- The twelve readings of one sample. -/
def execStackTempSample (temps : List Nat) (s : State) : Host.Outcome State Fault Refusal :=
  .next (
    let s1 := ((List.range 12).zip temps).foldl (fun s x => s.stackTemp x.1 x.2) s
    if s1.regs.flag Reg.SAF_SAFE_STATUS_ACTIVE ∧ s1.regs.get Reg.SAF_SAFE_STATUS_CAUSE = 4 ∧ s1.fab.trip = none ∧
        s1.stackStillHot = false then s1.causeEnds else s1)

/-! ### Patrol scrub (R269, R270) -/

/-- Damage in some lanes of one 64 B access: the code corrects it while it is confined to one lane (R263). -/
def State.upsetAccess (s : State) (w mask : Nat) : State :=
  if mask = 0 ∨ NSet.has s.stack.poison w then s
  else
    let m := mask ||| Tbl.get s.mem.lanes 0 w
    let one := (oneLane m).isSome && !NSet.has s.stack.uncorr w
    { s with
      stack := { s.stack with
        single := NSet.set s.stack.single w one
        uncorr := NSet.set s.stack.uncorr w (!one) }
      mem := { s.mem with lanes := Tbl.put s.mem.lanes w m } }

/-- A mask of lanes. -/
def laneMask (l : List Nat) : Nat := (l.filter fun k => decide (k < 18)).foldl (fun m k => m ||| 2 ^ k) 0

/-- Damage to stored data, by 64 B access and the lanes it lies in. -/
def State.upsetStack (s : State) (l : List (Nat × List Nat)) : State :=
  l.foldl (fun s x => s.upsetAccess (s.regs.placed (64 * x.1) / 64) (laneMask x.2)) s

/-- Accesses, among those listed, that lie in the granule a scrub reads. -/
def State.inScrub (s : State) (l : List Nat) : List Nat :=
  l.filter fun w => (locate (s.regs.home (64 * w))).granule == s.regs.get Reg.MEM_SCRUB_STATUS_POSITION

/-- Is every channel's bank of the next granule without a slot? -/
def State.scrubMay (s : State) : Bool :=
  let l := s.regs.get Reg.MEM_SCRUB_STATUS_POSITION
  let bank := (l % 16) ^^^ (l / 4096 % 16)
  s.mem.chans.all fun c => c.2.slots.all fun q => (locate (s.regs.home q.addr)).bank != bank

/-- A granule that is already poisoned is counted and posts nothing. -/
def State.countPoisoned (s : State) (w : Nat) : State :=
  let k := s.chanOf (64 * w)
  let c := s.memCh k
  (s.setMemCh k { c with scrubUncorr := min 255 (c.scrubUncorr + 1) })

/-- Nanoseconds between scrub reads; an INTERVAL outside 10 to 10,000 µs is taken as 10,000 (R269, R288). -/
def RegFile.scrubInterval (r : RegFile) : Nat :=
  let v := r.get Reg.MEM_SCRUB_CTL_INTERVAL
  1000 * (if 10 ≤ v ∧ v ≤ 10000 then v else 10000)

/-- PATROL_SCRUB_READ (R269): The next granule of every channel is read, once per interval, and corrected or poisoned. -/
def execPatrolScrubRead (upsets : List (Nat × List Nat)) (s : State) : Host.Outcome State Fault Refusal :=
  .next (
    if s.scrubMay = false ∨ s.mem.selfRefresh = true ∨ s.mem.off = true ∨ s.now < s.mem.scrubbed + s.regs.scrubInterval then s
    else
      let s1 := ({ s with mem := { s.mem with scrubbed := s.now } } : State).upsetStack upsets
      let was := s1.inScrub s1.stack.poison
      let hit := s1.inScrub (s1.stack.uncorr ++ s1.stack.single)
      let s2 := was.foldl State.countPoisoned s1
      let s3 := hit.foldl (fun s w => s.meetErrors 1 (64 * w)) s2
      let s4 := s3.markGranules (s3.inScrub s3.stack.poison)
      let l := s.regs.get Reg.MEM_SCRUB_STATUS_POSITION
      if l + 1 < 2097152 then s4.setReg Reg.MEM_SCRUB_STATUS_POSITION (l + 1)
      else (s4.setReg Reg.MEM_SCRUB_STATUS_POSITION 0).addReg Reg.MEM_SCRUB_STATUS_PASSES 1)

/-! ### Traffic generators (R271 to R273, R289) -/

def Gen.op (g : Gen) : Nat := bitsOf g.ctl 2 1
def Gen.pattern (g : Gen) : Nat := bitsOf g.ctl 4 3
def Gen.order (g : Gen) : Nat := bitsOf g.ctl 6 5
def Gen.raw (g : Gen) : Bool := bitOf g.ctl 7
def Gen.passes (g : Gen) : Nat := bitsOf g.ctl 23 8
def Gen.seed (g : Gen) : Nat := bitsOf g.ctl 62 32

/-- The channels that a write of a generator register reaches. -/
def State.tgChannels (s : State) : List Nat :=
  let k := s.regs.get Reg.MEM_TG_SEL_STACK
  if 12 ≤ k then []
  else if s.regs.flag Reg.MEM_TG_SEL_BROADCAST then (List.range 128).map fun c => 128 * k + c
  else [128 * k + s.regs.get Reg.MEM_TG_SEL_CHANNEL]

/-- Fields of MEM_TG_CTL other than START. -/
def tgFields (v : Nat) : Nat := setBits (setBits (setBits v 0 0 0) 31 24 0) 63 63 0

/-- A start on one channel. -/
def State.tgStart (s : State) (v c : Nat) : State :=
  let x := s.memCh c
  let g : Gen := { x.gen with ctl := tgFields v }
  if x.gen.running then s
  else if (s.locked ∧ s.chanRetired c = false) ∨ g.order = 3 then
    s.setMemCh c { x with gen := { g with code := St.tgLive } }
  else s.setMemCh c { x with gen := { g with
    code := St.ok, lanes := 0, errors := 0, corrections := 0, running := decide (g.passes ≠ 0) } }

/-- TG_START (R271): Writing 1 to MEM_TG_CTL.START starts a traffic generator run, or is refused with ST_TG_LIVE on a live
channel. -/
def execTgStart (v : Nat) (s : State) : Host.Outcome State Fault Refusal := .next (s.each s.tgChannels fun s c => s.tgStart v c)

/-- States of a 21-bit Fibonacci shift register with feedback x^21 + x^2 + 1, from state `w`. -/
def lfsr21 : Nat → Nat → List Nat
  | 0, _ => []
  | n + 1, w => w :: lfsr21 n (w * 2 % 2 ^ 21 + (if bitOf w 20 != bitOf w 1 then 1 else 0))

/-- Granules in visit order (Table 07.3). -/
def Gen.visits (g : Gen) : List Nat :=
  let inRange := fun l => decide (g.first ≤ l ∧ l ≤ g.last)
  match g.order with
  | 0 => (List.range (g.last + 1 - g.first)).map (· + g.first)
  | 1 => (0 :: lfsr21 2097151 1).filter inRange
  | _ => ((List.range 131072).flatMap fun rc => (List.range 16).map fun bank =>
      16 * rc + (bank ^^^ (rc / 256 % 16))).filter inRange

/-- `n` bits of the sequence of x^31 + x^28 + 1 from a register state, first bit lowest, and the state after. -/
def prbs31 : Nat → Nat → Nat × Nat
  | 0, w => (0, w)
  | n + 1, w =>
    let b := if bitOf w 30 != bitOf w 27 then 1 else 0
    let r := prbs31 n (w * 2 % 2 ^ 31 + b)
    (b + 2 * r.1, r.2)

/-- The 64 bytes of one access: `pos` its place in the visit order, `w` the shift register before it. DEDUCED: log entry 42. -/
def Gen.bytes (g : Gen) (channel l k pos w : Nat) : List Byte × Nat :=
  match g.pattern with
  | 0 =>
    let r := prbs31 512 w
    (leBytes 64 r.1, r.2)
  | 1 => ((List.range 32).flatMap fun b => leBytes 2 (2 ^ ((32 * pos + b) % 16)), w)
  | 2 => ((List.range 8).flatMap fun i =>
      leBytes 8 (channel / 128 * 2 ^ 48 + channel % 128 * 2 ^ 40 + 256 * l + 64 * k + 8 * i), w)
  | _ => ((List.range 64).map fun i => BitVec.ofNat 8 (Config.freeNat (2 ^ 40 + 64 * pos + i)), w)

/-- Every access of a pass in order: its offset in the channel and its data. -/
def Gen.accesses (g : Gen) (channel : Nat) : List (Nat × List Byte) :=
  let start := if g.seed = 0 then 1 else g.seed
  let places := g.visits.flatMap fun l => (List.range 4).map fun k => (l, k)
  (places.foldl (fun (acc : List (Nat × List Byte) × Nat × Nat) p =>
    let x := g.bytes channel p.1 p.2 acc.2.1 acc.2.2
    ((256 * p.1 + 64 * p.2, x.1) :: acc.1, acc.2.1 + 1, x.2)) ([], 0, start)).1.reverse

/-- Lanes on which two accesses differ: lane i carries bit i of each 2 B beat. -/
def diffLanes (a b : List Byte) : Nat :=
  let beats := fun (x : List Byte) => (List.range 32).map fun i => leNat ((x.drop (2 * i)).take 2)
  ((beats a).zip (beats b)).foldl (fun m p => m ||| (p.1 ^^^ p.2)) 0

/-- The stacked-memory offset of an offset in a channel. -/
def chanOffset (channel off : Nat) : Nat := chanGranule channel (off / 256) + off % 256

/-- One access as a generator meets it: its stored bytes, its damaged lanes, and whether it holds the poison pattern. -/
structure GenCell where
  bytes : List Byte
  hurt : Nat
  tag : Bool
  deriving DecidableEq, Repr

/-- An access of a channel's cells. A retired channel's cells hold no address. -/
def State.genCell (s : State) (channel off : Nat) : GenCell :=
  if s.chanRetired channel then ⟨s.mem.own.read off 64, 0, s.mem.own.tag off⟩
  else
    let q := s.regs.placed (chanOffset channel off)
    let w := q / 64
    ⟨s.stack.read q 64, if NSet.has s.stack.uncorr w ∨ NSet.has s.stack.single w then s.hurtLanes w else 0, s.stack.tag q⟩

/-- A pass writes its data to the channel's cells. -/
def State.tgWrite (s : State) (channel : Nat) (acc : List (Nat × List Byte)) : State :=
  acc.foldl (fun s p =>
    if s.chanRetired channel then { s with mem := { s.mem with own := s.mem.own.writeRaw p.1 p.2 false } }
    else s.stackPut (chanOffset channel p.1) p.2 false) s

/-- The check lanes that mismatch where the stored data differs from the pattern in some lanes, as a mask: a code that corrects
any one lane (R263) tells two accesses apart in at least three lanes, and says no more of them. DESIGN CHOICE: log entry 60. -/
def codeLanes (data f : Nat) : Nat :=
  if data = 0 then 0
  else if (oneLane data).isSome then 2 ^ 16 * 3
  else if (oneLane (data - 2 ^ Nat.log2 data)).isSome then 2 ^ 16 * (1 + f % 3)
  else 2 ^ 16 * (f % 4)

/-- One access is checked (R273). With RAW clear, damage that the code corrects counts as a correction, and the data is
compared as the code leaves it; with RAW set, all 18 lanes are compared as they come, and the poison pattern mismatches on check
lanes that are open. DESIGN CHOICE: log entry 60. -/
def Gen.check (g : Gen) (mark : Option Nat) (cell : GenCell) (want : List Byte) (wrong f : Nat) : Gen :=
  let hurt := cell.hurt ||| wrong % 2 ^ 18
  let data := diffLanes cell.bytes want
  let fixes := !g.raw && (match oneLane hurt, mark with
    | some l, some m => l == m
    | some _, none => true
    | none, _ => false)
  let lanes :=
    if g.raw then data ||| hurt ||| (if cell.tag then 2 ^ 16 * (1 + f % 3) else codeLanes data f)
    else if fixes then data else data ||| hurt % 2 ^ 16
  let g1 := if fixes then { g with corrections := min (2 ^ 14 - 1) (g.corrections + 1) } else g
  if lanes = 0 then g1
  else { g1 with lanes := g1.lanes ||| lanes, errors := min (2 ^ 16 - 1) (g1.errors + 1) }

/-- A pass checks the channel. `wrong` gives the lanes that the surroundings damage on the way, by number of the access in the
run, and `from_` is the number of the pass's first access. -/
def State.tgCheck (s : State) (g : Gen) (channel : Nat) (acc : List (Nat × List Byte)) (wrong : List (Nat × Nat))
    (from_ : Nat) : Gen :=
  (acc.foldl (fun (r : Gen × Nat) p =>
    (r.1.check (s.memCh channel).mark (s.genCell channel p.1) p.2 (Tbl.get wrong 0 r.2) (Config.freeNat (2 ^ 41 + p.1)), r.2 + 1))
    (g, from_)).1

/-- One repetition: a write pass, a check pass, or one after the other. -/
def State.tgPass (s : State) (channel : Nat) (acc : List (Nat × List Byte)) (wrong : List (Nat × Nat)) (g : Gen)
    (from_ : Nat) : Gen × State :=
  let s1 := if g.op = 0 ∨ g.op = 2 then s.tgWrite channel acc else s
  (if g.op = 1 ∨ g.op = 2 then s1.tgCheck g channel acc wrong from_ else g, s1)

/-- TG_RUN_DONE (R273): A run ends: its passes have written and checked the channel, and START reads 0. -/
def execTgRunDone (channel : Nat) (wrong : List (Nat × Nat)) (s : State) : Host.Outcome State Fault Refusal :=
  .next (
    let g := (s.memCh channel).gen
    if g.running = false then s
    else
      let acc := g.accesses channel
      let r := (List.range g.passes).foldl (fun (r : Gen × State) i => r.2.tgPass channel acc wrong r.1 (i * acc.length)) (g, s)
      r.2.setMemCh channel { r.2.memCh channel with gen := { r.1 with running := false } })

end Sys2Proof.Machine
end

