-- ==== Sys2Proof/Machine/Regions.lean ====
section
/-! DEFINITION. The arrays that the module keeps in stacked memory: the declared regions (R550), parity group
entries (R480), the state list and its data strings (R415, R434, R481), tags (R416) and group slots (R384). -/

namespace Sys2Proof.Machine

/-- `n` little-endian bytes of a structure in stacked memory. -/
def State.word (s : State) (a n : Nat) : Nat := s.stack.nat a n

/-! ### Parity group entries (R480) -/

structure PGroup where
  group : Nat
  role : Nat
  position : Nat
  len : Nat
  base : Nat
  ranks : List Nat
  deriving DecidableEq, Repr

/-- Entry `k` of the module's three. -/
def State.pgroup (s : State) (k : Nat) : PGroup :=
  let a := s.regs.get Reg.SAF_PGROUP_BASE_BASE * 128 + 128 * k
  { group := s.word a 4, role := s.word (a + 4) 1, position := s.word (a + 5) 1, len := s.word (a + 8) 8
    base := s.word (a + 16) 8, ranks := (List.range 18).map fun i => s.word (a + 24 + 4 * i) 4 % 2 ^ 20 }

def State.pgroups (s : State) : List PGroup := (List.range 3).map s.pgroup

/-- Where the module's entries lie. -/
def State.pgroupSpan (s : State) : Nat × Nat := (s.regs.get Reg.SAF_PGROUP_BASE_BASE * 128, 384)

/-- Entries that hold a P or Q role. -/
def State.parityRoles (s : State) : List (Nat × PGroup) :=
  ((List.range 3).map fun k => (k, s.pgroup k)).filter fun x => x.2.role == 2 || x.2.role == 3

/-! ### Declared regions (R550) -/

/-- A region: the register that places it, its first offset and its length. -/
structure Region where
  reg : Nat
  base : Nat
  len : Nat
  deriving DecidableEq, Repr

def State.fixedRegions (s : State) : List Region :=
  let r := s.regs
  [⟨Reg.CMP_CAL_BASE_BASE.offset, r.get Reg.CMP_CAL_BASE_BASE * 128, 2 ^ 27⟩] ++
  (if r.get Reg.CMP_KV_SIZE_UNITS = 0 then []
   else [⟨Reg.CMP_KV_BASE_BASE.offset, r.get Reg.CMP_KV_BASE_BASE * 65536, r.get Reg.CMP_KV_SIZE_UNITS * 65536⟩]) ++
  [⟨Reg.CMP_CTAB_BASE_BASE.offset, s.ctabBase, 2 ^ 24⟩] ++
  (if r.get Reg.MEM_OBJ_COUNT_COUNT = 0 then []
   else [⟨Reg.MEM_OBJ_BASE_BASE.offset, r.get Reg.MEM_OBJ_BASE_BASE * 4096, 32 * r.get Reg.MEM_OBJ_COUNT_COUNT⟩]) ++
  (if r.flag Reg.MEM_RETIRE_CTL_ENABLE then
    [⟨Reg.MEM_RETIRE_CTL_ENABLE.offset, areaBase 0, 2 ^ 29⟩, ⟨Reg.MEM_RETIRE_CTL_ENABLE.offset, areaBase 1, 2 ^ 29⟩]
   else []) ++
  [⟨Reg.LNK_COLL_BASE_BASE.offset, r.get Reg.LNK_COLL_BASE_BASE * 32768, 2 ^ 23⟩,
   ⟨Reg.SAF_PGROUP_BASE_BASE.offset, r.get Reg.SAF_PGROUP_BASE_BASE * 128, 384⟩] ++
  (if r.get Reg.TRN_STATE_COUNT_COUNT = 0 then []
   else [⟨Reg.TRN_STATE_BASE_BASE.offset, r.get Reg.TRN_STATE_BASE_BASE * 64, 32 * r.get Reg.TRN_STATE_COUNT_COUNT⟩]) ++
  [⟨Reg.TRN_TAG_BASE_BASE.offset, r.get Reg.TRN_TAG_BASE_BASE * 4096, 2 ^ 24⟩]

/-- The parity sides of each P or Q role. -/
def State.paritySides (s : State) : List Region :=
  s.parityRoles.map fun x => ⟨Reg.SAF_PGROUP_BASE_BASE.offset, x.2.base, 2 * x.2.len⟩

/-- Does a range overlap a declared region? -/
def State.inRegion (s : State) (a n : Nat) : Bool :=
  (s.fixedRegions ++ s.paritySides).any fun r => overlaps a n r.base r.len

/-! ### The state list (R415, R439) -/

structure Shard where
  id : Nat
  td0 : Nat
  td1 : Nat
  deriving DecidableEq, Repr

def State.shardCount (s : State) : Nat := s.regs.get Reg.TRN_STATE_COUNT_COUNT

def State.shard (s : State) (k : Nat) : Shard :=
  let a := s.regs.get Reg.TRN_STATE_BASE_BASE * 64 + 32 * k
  ⟨s.word a 4 % 2 ^ 20, s.word (a + 8) 8, s.word (a + 16) 8⟩

def State.shards (s : State) : List Shard := (List.range s.shardCount).map s.shard

/-- The address of the tensor descriptor of a shard's side. -/
def Shard.td (h : Shard) (side : Nat) : Nat := if side = 0 then h.td0 else h.td1

/-- What the state list row of Table 01.18 refuses of a shard's side: its tensor descriptor and its tensor lie in stacked
memory of the own rank, and the descriptor stands the checks of R347 (R22, R548). -/
def State.sideRefusal (s : State) (h : Shard) (side : Nat) : Option Nat :=
  match s.judge AddrRule.stackOnly (h.td side) 64 with
  | some e => some e
  | none =>
    let t := Tensor.parse (s.stack.read (addrOffset (h.td side)) 64)
    match t.check with
    | some e => some e
    | none => s.judge AddrRule.stackOnly t.base t.bytes

/-- A tensor of no bytes. -/
def Tensor.nothing : Tensor := ⟨0, 0, 32, 1, 0, 0, 0, 0, [0], [0]⟩

/-- The tensor of a shard's side; a side that `sideRefusal` refuses has no bytes. DESIGN CHOICE: log entry 54. -/
def State.sideTensor (s : State) (h : Shard) (side : Nat) : Tensor :=
  match s.sideRefusal h side with
  | some _ => Tensor.nothing
  | none => Tensor.parse (s.stack.read (addrOffset (h.td side)) 64)

/-- The first refusal of the state list on a side (R22). -/
def State.listRefusal (s : State) (side : Nat) : Option Nat := s.shards.findSome? fun h => s.sideRefusal h side

/-- Where each shard's side lies in stacked memory, in list order: first offset and stored bytes. -/
def State.sideSpans (s : State) (side : Nat) : List (Nat × Nat) :=
  s.shards.map fun h => let t := s.sideTensor h side; (addrOffset t.base, t.bytes)

/-- The parity sides of the module's P and Q roles. -/
def State.paritySpans (s : State) : List (Nat × Nat) := s.parityRoles.map fun x => (x.2.base, 2 * x.2.len)

def pad4k (n : Nat) : Nat := (n + 4095) / 4096 * 4096

/-- Bytes of a data string before its zeros (R481). -/
def State.stringLen (s : State) (side : Nat) : Nat := ((s.sideSpans side).map fun x => pad4k x.2).foldl (· + ·) 0

/-- The stacked-memory offset of byte `p` of a data string, or none where it is padding. -/
def spanAt : List (Nat × Nat) → Nat → Option Nat
  | [], _ => none
  | (a, n) :: r, p => if p < n then some (a + p) else if p < pad4k n then none else spanAt r (p - pad4k n)

/-- Bytes of a piece: 4 MiB. -/
def pieceBytes : Nat := 2 ^ 22

/-- Piece `i` of the data string of a side. -/
def State.piece (s : State) (side i : Nat) : List PByte :=
  let spans := s.sideSpans side
  (List.range pieceBytes).map fun k => match spanAt spans (pieceBytes * i + k) with
    | some a => (s.stack.byte (s.regs.placed a), s.stack.tag (s.regs.placed a))
    | none => (0, false)

/-- The pieces whose bytes include a granule of stacked memory, given the string's spans. -/
def piecesOf : List (Nat × Nat) → Nat → Nat → List Nat
  | [], _, _ => []
  | (a, n) :: r, at_, g =>
    (if overlaps a n (64 * g) 64 then [(at_ + (max a (64 * g) - a)) / pieceBytes] else []) ++ piecesOf r (at_ + pad4k n) g

/-- Write a piece of a side's data string back, where it is not padding. -/
def State.putPiece (s : State) (side i : Nat) (bs : List PByte) : State :=
  let spans := s.sideSpans side
  (List.range (pieceBytes / 64)).foldl (fun st k =>
    match spanAt spans (pieceBytes * i + 64 * k) with
    | some a =>
      let n := min 64 ((List.range 64).filter fun j => (spanAt spans (pieceBytes * i + 64 * k + j)).isSome).length
      st.stackWrite a ((bs.drop (64 * k)).take n)
    | none => st) s

/-! ### Tags and digests (R416, R434) -/

def State.tagAddr (s : State) (id : Nat) : Nat := s.regs.get Reg.TRN_TAG_BASE_BASE * 4096 + 16 * id

/-- What a digest of a side reads: the state list, its tensor descriptors, its tensors and their tags. -/
def State.listSpans (s : State) (side : Nat) : List (Nat × Nat) :=
  (s.regs.get Reg.TRN_STATE_BASE_BASE * 64, 32 * s.shardCount) ::
    (s.shards.map (fun h => (addrOffset (h.td side), 64)) ++ s.shards.map (fun h => (s.tagAddr h.id, 16)) ++ s.sideSpans side)

/-- SM3 of the stored bytes of a tensor. -/
def State.tensorDigest (s : State) (t : Tensor) : List Byte :=
  Config.sm3 ((List.range t.bytes).map fun i => s.stack.byte (s.regs.placed (addrOffset t.base + i)))

def State.sideDigest (s : State) (h : Shard) (side : Nat) : List Byte := s.tensorDigest (s.sideTensor h side)

def State.stateDigest (s : State) (side : Nat) : List Byte :=
  Config.sm3 (s.shards.flatMap fun h => leBytes 4 h.id ++ (s.sideDigest h side).take 32)

/-- A shard's tag for step `n`, from its digest. -/
def tagBytes (n : Nat) (digest : List Byte) : List Byte := leBytes 8 n ++ digest.take 8

/-! ### Group slots (R384) -/

structure Group where
  p : Nat
  self : Nat
  base : Nat
  deriving DecidableEq, Repr

def State.groupSlot (s : State) (g : Nat) : Group :=
  let a := s.regs.get Reg.LNK_COLL_BASE_BASE * 32768 + 32768 * g
  ⟨s.word a 2, s.word (a + 2) 2, a⟩

/-- Where a group's slot lies: its head and its members. -/
def State.groupSpan (s : State) (g : Nat) : Nat × Nat := ((s.groupSlot g).base, 64 + 4 * (s.groupSlot g).p)

/-- The rank at a position. -/
def State.member (s : State) (g : Group) (i : Nat) : Nat := s.word (g.base + 64 + 4 * i) 4 % 2 ^ 20

end Sys2Proof.Machine
end

