-- ==== Sys2Proof/Machine/Objects.lean ====
section
/-! DEFINITION. The driver's descriptors for key/value reservations (R158 to R161), objects (R274 to R279) and
program loads (R176 to R179). -/

namespace Sys2Proof.Machine

/-- Is the descriptor the first fetched, of those with an opcode in `lo` to `hi`, that its unit has not taken? -/
def State.firstFetched (s : State) (r j lo hi : Nat) : Bool :=
  match s.host.descs.find? fun d => decide (lo ≤ d.opcode ∧ d.opcode ≤ hi) && !d.taken with
  | some d => d.ring == r && d.index == j
  | none => false

/-! ### Key/value reservations -/

/-- Free ranges of the region, as first unit and units, between reservations in rising order. -/
def kvGaps (units : Nat) : Nat → List KvRes → List (Nat × Nat)
  | at_, [] => if at_ < units then [(at_, units - at_)] else []
  | at_, k :: r => (if at_ < k.first then [(at_, k.first - at_)] else []) ++ kvGaps units (k.first + k.units) r

/-- Put a reservation in its place by first unit. -/
def kvInsert (k : KvRes) : List KvRes → List KvRes
  | [] => [k]
  | h :: t => if k.first < h.first then k :: h :: t else h :: kvInsert k t

def State.kvUnits (s : State) : Nat := s.regs.get Reg.CMP_KV_SIZE_UNITS

def State.kvFree (s : State) : List (Nat × Nat) := kvGaps s.kvUnits 0 s.kv

def largest (l : List (Nat × Nat)) : Nat := (l.map Prod.snd).foldl max 0

/-- The decision of R159 for a KV_RESERVE: status, result and reservations after. -/
def State.kvReserve (s : State) (d : Desc) : Nat × Nat × List KvRes :=
  let id := d.n 0 2
  let kind := d.n 2 1
  let ring := d.n 3 1
  let units := d.n 4 4
  if 4096 ≤ id ∨ 2 ≤ kind ∨ (kind = 0 ∧ ring ≠ 0) ∨ (kind = 1 ∧ 16 ≤ ring) then (St.paramCode, 0, s.kv)
  else if units = 0 then (St.ok, 0, s.kv)
  else if s.kv.any fun k => k.id == id then (St.kvIdBusy, 0, s.kv)
  else if kind = 1 ∧ s.kv.any (fun k => k.kind == 1 && k.ring == ring) = true then (St.paramCode, 0, s.kv)
  else match s.kvFree.find? fun g => decide (units ≤ g.2) with
    | none => (St.kvCapacity, largest s.kvFree, s.kv)
    | some g => (St.ok, (s.regs.get Reg.CMP_KV_BASE_BASE + g.1) * 65536, kvInsert ⟨id, kind, ring, g.1, units⟩ s.kv)

/-- KV_RESERVE (R159): A key/value reservation takes the lowest free range large enough, or is refused. -/
def execKvReserve (r j : Nat) (s : State) : Host.Outcome State Fault Refusal :=
  .next (if s.firstFetched r j 3 4 = false then s
    else s.onDesc r j 3 fun s d =>
      let x := s.kvReserve d
      ({ s with kv := x.2.2 }).complete r j x.1 0 x.2.1)

/-- KV_RELEASE (R160): A key/value reservation id is freed. -/
def execKvRelease (r j : Nat) (s : State) : Host.Outcome State Fault Refusal :=
  .next (if s.firstFetched r j 3 4 = false then s
    else s.onDesc r j 4 fun s d =>
      let id := d.n 0 2
      if 4096 ≤ id then s.finish r j St.paramCode
      else if s.kv.any fun k => k.id == id then ({ s with kv := s.kv.filter fun k => k.id != id }).finish r j St.ok
      else s.finish r j St.kvIdUnknown)

/-! ### The object table (Table 07.5) -/

def Obj.movingUp (o : Obj) : Bool := o.flags.testBit 0
def Obj.evicting (o : Obj) : Bool := o.flags.testBit 1
def Obj.stale (o : Obj) : Bool := o.flags.testBit 2

def State.objAddr (s : State) (o : Nat) : Nat := s.regs.get Reg.MEM_OBJ_BASE_BASE * 4096 + 32 * o

def State.obj (s : State) (o : Nat) : Obj :=
  let a := s.objAddr o
  ⟨s.word a 1, s.word (a + 1) 1, s.word (a + 2) 2, s.word (a + 4) 4, s.word (a + 8) 8 % 2 ^ 40, s.word (a + 16) 8,
   s.word (a + 24) 2, s.word (a + 26) 2, s.word (a + 28) 4 % 2 ^ 19⟩

def State.setObj (s : State) (o : Nat) (x : Obj) : State :=
  s.poke (s.objAddr o) (leBytes 1 x.tier ++ leBytes 1 x.flags ++ leBytes 2 x.pins ++ leBytes 4 x.slice ++
    leBytes 8 x.home ++ leBytes 8 x.size ++ leBytes 2 x.first ++ leBytes 2 x.count ++ leBytes 4 x.offset)

/-- TIER and PINS as a completion returns them. -/
def State.objResult (s : State) (o : Nat) : Nat :=
  if s.regs.get Reg.MEM_OBJ_COUNT_COUNT ≤ o then 0 else (s.obj o).tier + (s.obj o).pins * 256

def State.objDone (s : State) (o r j status flags : Nat) : State := s.complete r j status flags (s.objResult o)

def Desc.object (d : Desc) : Nat := d.n 0 4 % 2 ^ 20

/-- The signal that a descriptor asks for, as pair·2 + counter. -/
def Desc.objSig (d : Desc) : Option Nat :=
  let w := d.n 0 4
  if bitOf w 30 then some (2 * bitsOf w 28 24 + bitsOf w 29 29) else none

/-- Signal the target tile at place `i` by one (R278). -/
def State.objSignalAt (s : State) (x : Obj) (sig : Option Nat) (i : Nat) : State :=
  match sig with
  | some p => s.signalTile (x.first + i) (p / 2) (p % 2) 1 .chan none
  | none => s

/-- Signal each target tile by one: the descriptor needed no copy of its own (R278). -/
def State.objSignal (s : State) (x : Obj) (sig : Option Nat) : State :=
  s.each (List.range x.count) fun s i => s.objSignalAt x sig i

/-- An object descriptor is accepted in fetch order, and its entry is read, once its bank has a slot (R259); one whose object lies
beyond the table is refused (R276). -/
def State.onObj (s : State) (r j op : Nat) (f : State → Desc → Nat → Obj → State) : State :=
  if s.firstFetched r j 5 9 = false then s
  else s.onDesc r j op fun s d =>
    let o := d.object
    if s.regs.get Reg.MEM_OBJ_COUNT_COUNT ≤ o then s.complete r j St.objRange 0 0
    else
      if s.memOpen (s.objAddr o) 32 = false then s
      else
        let s1 := (s.stackRead (s.objAddr o) 32).2
        f s1 d o (s1.obj o)

/-- A home that R277 accepts: aligned, inside stacked memory, and clear of every declared region. -/
def State.homeFits (s : State) (home size : Nat) : Bool :=
  home % 64 == 0 && decide (home + size ≤ 0xC000000000) && !s.inRegion home size

/-- OBJ_DEFINE (R276): An object entry is defined in the stacked tier with its home and size. -/
def execObjDefine (r j : Nat) (s : State) : Host.Outcome State Fault Refusal :=
  .next (s.onObj r j 5 fun s d o x =>
    let home := d.n 16 8 % 2 ^ 40
    let size := d.n 24 8
    if x.tier ≠ 0 then s.objDone o r j St.objExists 0
    else if s.homeFits home size = false then s.objDone o r j St.objRange 0
    else (s.setObj o { x with tier := 1, flags := 0, pins := 0, home := home, size := size }).objDone o r j St.ok 0)

/-- A PROMOTE's placement. -/
structure Placement where
  first : Nat
  count : Nat
  offset : Nat
  slice : Nat
  deriving DecidableEq, Repr

def Desc.placement (d : Desc) : Placement := ⟨d.n 4 2, d.n 6 2, d.n 8 4 % 2 ^ 19, d.n 12 4⟩

def Obj.placement (x : Obj) : Placement := ⟨x.first, x.count, x.offset, x.slice⟩

/-- A placement that R277 accepts for an object of a size. -/
def Placement.fits (p : Placement) (size : Nat) : Bool :=
  decide (p.first + p.count ≤ 16384) && decide (p.offset + p.slice ≤ 0x7C000) && decide (size ≤ p.slice * p.count) &&
    p.offset % 64 == 0 && p.slice % 64 == 0

def State.setMoves (s : State) (l : List ObjMove) : State := { s with mem := { s.mem with moves := l } }

/-- Is a copy up of the object running, or an eviction that has not been cancelled? -/
def ObjMove.live (m : ObjMove) (o : Nat) (up : Bool) : Bool := m.obj == o && m.up == up && !m.cancelled

/-- The channels that carry a placement's copies: channel 7 of engine 127 of each die that holds a target tile (R278). -/
def Placement.channels (p : Placement) : List Nat :=
  ((List.range 4).filter fun d => overlaps p.first p.count (4096 * d) 4096).map fun d => 2048 * d + 127 * 16 + 7

/-- Have those channels room for a copy (R291)? -/
def State.copyRoom (s : State) (p : Placement) : Bool := p.channels.all fun k => !(s.chan k).full

/-- A number that no other copy has. -/
def State.nextMove (s : State) : Nat := (s.mem.moves.map fun m => m.id + 1).foldl max 0

/-- An object's copy starts: a part of it joins each channel's queue. -/
def State.startMove (s : State) (r j : Nat) (m : ObjMove) : State :=
  ((s.setMoves (s.mem.moves ++ [m])).each m.entry.placement.channels fun s k =>
    s.enqueue k (.ring r j) (.object m.id) none false).take r j

/-- PROMOTE of an object that is in the stacked tier: it moves up and is pinned. -/
def State.promoteUp (s : State) (r j o : Nat) (x : Obj) (p : Placement) (sig : Option Nat) : State :=
  let y : Obj := ⟨2, 1, 1, p.slice, x.home, x.size, p.first, p.count, p.offset⟩
  (s.setObj o y).startMove r j ⟨s.nextMove, y, o, true, false, [(r, j, sig)], [], x.stale, false, List.range p.count⟩

/-- PROMOTE of an object that is in the tile tier at the same placement. -/
def State.promoteHere (s : State) (r j o : Nat) (x : Obj) (sig : Option Nat) : State :=
  if x.pins = 65535 then s.objDone o r j St.objPinLimit 0
  else if x.evicting then
    ((s.setObj o { x with pins := 1, flags := x.flags - 2 }).setMoves (s.mem.moves.map fun m =>
      if m.live o false then { m with cancelled := true, waiters := m.waiters ++ [(r, j, sig)] } else m)).take r j
  else
    let s1 := s.setObj o { x with pins := x.pins + 1 }
    if x.movingUp then
      (s1.setMoves (s1.mem.moves.map fun m =>
        if m.live o true then { m with waiters := m.waiters ++ [(r, j, sig)] } else m)).take r j
    else (s1.objSignal x sig).objDone o r j St.ok 0

/-- OBJ_PROMOTE (R276): An object is promoted to the tile tier and pinned, copying its home to the tiles or cancelling an
eviction. DEDUCED: log entry 43. -/
def execObjPromote (r j : Nat) (s : State) : Host.Outcome State Fault Refusal :=
  .next (s.onObj r j 6 fun s d o x =>
    let p := d.placement
    if x.tier = 0 then s.objDone o r j St.objUnknown 0
    else if p.count = 0 then s.objDone o r j St.ok 0
    else if p.fits x.size = false ∨ s.homeFits x.home x.size = false then s.objDone o r j St.objRange 0
    else if x.tier = 1 then (if s.copyRoom p then s.promoteUp r j o x p d.objSig else s)
    else if x.placement ≠ p then s.objDone o r j St.objPlacement 0
    else s.promoteHere r j o x d.objSig)

/-- OBJ_EVICT (R276): An unpinned tile-tier object is copied back to its home and returns to TIER 1. -/
def execObjEvict (r j : Nat) (s : State) : Host.Outcome State Fault Refusal :=
  .next (s.onObj r j 7 fun s _ o x =>
    if x.tier = 0 then s.objDone o r j St.objUnknown 0
    else if x.tier = 1 then s.objDone o r j St.ok 0
    else if x.pins ≠ 0 ∨ x.movingUp = true then s.objDone o r j St.pinned 0
    else if x.evicting then
      (s.setMoves (s.mem.moves.map fun m =>
        if m.live o false then { m with evicts := m.evicts ++ [(r, j)] } else m)).take r j
    else if s.copyRoom x.placement then
      (s.setObj o { x with flags := x.flags ||| 2 }).startMove r j
        ⟨s.nextMove, x, o, false, false, [], [(r, j)], false, false, List.range x.count⟩
    else s)

/-- OBJ_UNPIN (R276): An object's pin count falls by one. -/
def execObjUnpin (r j : Nat) (s : State) : Host.Outcome State Fault Refusal :=
  .next (s.onObj r j 8 fun s _ o x =>
    if x.tier = 0 then s.objDone o r j St.objUnknown 0
    else if x.pins = 0 then s.objDone o r j St.objNotPinned 0
    else (s.setObj o { x with pins := x.pins - 1 }).objDone o r j St.ok 0)

/-- OBJ_FREE (R276): An unpinned, unmoving object returns to TIER 0. -/
def execObjFree (r j : Nat) (s : State) : Host.Outcome State Fault Refusal :=
  .next (s.onObj r j 9 fun s _ o x =>
    if x.tier = 0 then s.objDone o r j St.objUnknown 0
    else if x.pins ≠ 0 ∨ x.movingUp = true ∨ x.evicting = true then s.objDone o r j St.pinned 0
    else (s.setObj o ⟨0, 0, 0, 0, 0, 0, 0, 0, 0⟩).objDone o r j St.ok 0)

/-- Bytes of the object in the slice at place `i`. -/
def Obj.sliceBytes (x : Obj) (i : Nat) : Nat := min x.slice (x.size - x.slice * i)

/-- Copy the first `n` bytes of the slice at place `i`, with their tags, up to its tile or down to the home; says whether poison
moved (R278). -/
def State.copySlice (s : State) (x : Obj) (up : Bool) (i n : Nat) : Bool × State :=
  let k := min n (x.sliceBytes i)
  let home := x.home + x.slice * i
  if k = 0 then (false, s)
  else if up then
    let r := s.stackRead home k
    (r.1.any Prod.snd, r.2.tileWrite (x.first + i) x.offset r.1)
  else
    let r := s.tileRead (x.first + i) x.offset k
    (r.1.any Prod.snd, r.2.stackWrite home r.1)

/-- What a completed move reports: poison first, then a stale home (R278, R279). -/
def moveStatus (poison stale : Bool) : Nat :=
  if poison then St.poisonConsumed else if stale then St.objStale else St.ok

/-- Is a channel at work on the copy? -/
def State.copying (s : State) (m : ObjMove) (k : Nat) : Bool :=
  match (s.chan k).busy with
  | some x => x.job == .object m.id
  | none => false

/-- A copy leaves channels. -/
def State.leaveChannels (s : State) (m : ObjMove) (ks : List Nat) : State :=
  s.each ks fun s k =>
    let c := s.chan k
    s.setChan k { c with
      queue := c.queue.filter fun x => x.job != .object m.id
      busy := c.busy.filter fun x => x.job != .object m.id }

def State.putMove (s : State) (m : ObjMove) : State :=
  s.setMoves (s.mem.moves.map fun y => if y.id = m.id then m else y)

def State.dropMove (s : State) (m : ObjMove) : State := s.setMoves (s.mem.moves.filter fun y => y.id != m.id)

/-- A cancelled eviction stops: any part of what was left of it has been copied, the eviction is refused, and the descriptors
that cancelled it complete. DESIGN CHOICE: log entry 9. -/
def State.stopMove (s : State) (m : ObjMove) : State :=
  let f := s.draw
  let s1 := m.left.foldl (fun st i =>
    (st.copySlice m.entry false i (f.1 / 2 ^ (32 * i) % 2 ^ 32)).2) (f.2.dropMove m)
  let s2 := (s1.leaveChannels m m.entry.placement.channels).each m.evicts fun s e => s.objDone m.obj e.1 e.2 St.pinned 0
  s2.each m.waiters fun s w => (s.objSignal m.entry w.2.2).objDone m.obj w.1 w.2.1 St.ok 0

/-- The last slice has been copied: the entry `x` settles and the descriptors complete (Table 07.7). The descriptor that started a
copy up has signalled tile by tile; those that joined it needed no copy of their own. DEDUCED: log entry 43. -/
def State.settleMove (s : State) (x : Obj) (m : ObjMove) : State :=
  let s0 := s.dropMove m
  let st := moveStatus m.poison m.stale
  let fl := if m.poison then 16 else 0
  if m.up then
    let s1 := s0.setObj m.obj { x with flags := x.flags &&& 0xFE }
    match m.waiters with
    | [] => s1
    | w :: rest =>
      (s1.objDone m.obj w.1 w.2.1 st fl).each rest fun s w => (s.objSignal m.entry w.2.2).objDone m.obj w.1 w.2.1 St.ok 0
  else
    let s1 := s0.setObj m.obj { x with
      tier := 1
      flags := 0 }
    s1.each m.evicts fun s e => s.objDone m.obj e.1 e.2 st fl

/-- Copy a slice of a move, signal its tile, and settle the move after the last one. -/
def State.moveSlice (s : State) (m : ObjMove) (i : Nat) : State :=
  let c := s.copySlice m.entry m.up i m.entry.slice
  let m1 := { m with
    left := m.left.erase i
    poison := m.poison || c.1 }
  let s1 := match m.up, m.waiters with
    | true, w :: _ => c.2.objSignalAt m.entry w.2.2 i
    | _, _ => c.2
  let ks := m.entry.placement.channels.filter fun k => !(m1.left.any fun l => (m.entry.first + l) / 4096 == k / 2048)
  let s2 := s1.leaveChannels m ks
  if m1.left = [] then s2.settleMove (s2.obj m.obj) m1 else s2.putMove m1

/-- OBJECT_COPY_DONE (R278): The copy of an object to or from the tile at place `i` of its placement ends; it waits for its
channel and for memory slots. DESIGN CHOICE: log entry 9. DEDUCED: log entry 43. -/
def execObjectCopyDone (part : ObjPart) (s : State) : Host.Outcome State Fault Refusal :=
  .next (
    let i := part.place
    match s.mem.moves.find? fun m => m.obj == part.obj with
    | none => s
    | some m =>
      if m.cancelled then s.stopMove m
      else if m.left.contains i = false ∨ s.copying m (2048 * ((m.entry.first + i) / 4096) + 127 * 16 + 7) = false ∨
          s.memOpen (m.entry.home + m.entry.slice * i) (m.entry.sliceBytes i) = false ∨
            s.memOpen (s.objAddr m.obj) 32 = false then s
      else (s.stackRead (s.objAddr m.obj) 32).2.moveSlice m i)

/-! ### Program loads -/

/-- Bytes of a program image. -/
def Desc.progLen (d : Desc) : Nat := d.n 8 2
def Desc.progTiles (d : Desc) : List Nat := (List.range (d.n 14 2)).map (· + d.n 12 2)

/-- The image reaches a tile, whose unused instructions become 0; it is LOADING until the load completes. -/
def Tile.loadProgram (t : Tile) (image : List Byte) : Tile :=
  let bytes := image ++ List.replicate (16384 - image.length) 0
  { t with state := .loading, mem := (t.mem.write 16 progBase bytes false).1 }

/-- A load that stopped leaves its target parked without a program (R178). -/
def Tile.loadFailed (t : Tile) : Tile := { t with state := .parked, progValid := false, held := none, stall := .none }

def State.loadable (s : State) (t : Nat) : Bool :=
  match (s.tile t).state with
  | .parked => true
  | .faulted => true
  | _ => false

/-- PROG_LOAD (R177): A PROG_LOAD is checked and then writes a program image to every target tile, which is LOADING meanwhile.
-/
def execProgLoad (r j : Nat) (v : HostView) (s : State) : Host.Outcome State Fault Refusal :=
  .next (s.onDesc r j 2 fun s d =>
    let src := d.n 0 8
    let len := d.progLen
    if len = 0 ∨ d.n 14 2 = 0 then s.finish r j St.ok
    else if 16384 < d.n 12 2 + d.n 14 2 ∨ 2048 < len ∨ len ≤ d.n 10 2 then s.finish r j St.progRange
    else match s.judge .image src (8 * len) with
      | some e => s.finish r j e
      | none =>
        if src % 8 ≠ 0 then s.finish r j St.paramCode
        else if d.progTiles.any (fun t => s.loadable t == false) then s.finish r j St.progBusy
        else if s.localOpen src (8 * len) = false then s
        else
          let g := s.get v src (8 * len)
          if g.err ∨ g.poison then
            let s1 := g.st.each d.progTiles fun s t => s.setTile t (s.tile t).loadFailed
            s1.complete r j (if g.err then St.strReadErr else St.progPoison) (if g.err then 0 else 16) 0
          else (g.st.each d.progTiles fun s t => s.setTile t ((s.tile t).loadProgram g.data)).take r j)

/-- The load completes on a tile: its program is valid, and a held release takes effect (R177, R179). -/
def Tile.loadDone (num : Nat) (len entry : Nat) (t : Tile) : TileRes :=
  let t1 : Tile := { t with
    state := .parked
    progValid := true
    progLen := len
    progEntry := entry
    btb := []
    fault := ⟨0, false, 0, 0⟩
    stall := .none
    held := none }
  match t.held with
  | some n => t1.release num n
  | none => .ok t1

/-- PROG_LOAD_DONE (R177): Every target is written, so each gets SEQ_PROG and PARKED, the descriptor completes, and held
releases go ahead. -/
def execProgLoadDone (r j : Nat) (s : State) : Host.Outcome State Fault Refusal :=
  .next (
    match s.working r j 2 with
    | none => s
    | some d =>
      (s.each d.progTiles fun s t => s.onTile t fun x => x.loadDone t d.progLen (d.n 10 2)).finish r j St.ok)

end Sys2Proof.Machine
end

