-- ==== Sys2Proof/Machine/Time.lean ====
section
/-! DEFINITION. The time block (chapter 12): SYNC messages, grandmaster and parent, external reference, PTP, the host
time page, and the loss of a source. Instants are in units of 2^-32 ns. -/

namespace Sys2Proof.Machine

/-! ### States (Table 12.1) and registers -/

def State.timeState (s : State) : Nat := s.regs.get Reg.TIM_STATUS_STATE

def State.setTimeState (s : State) (n : Nat) : State := s.setReg Reg.TIM_STATUS_STATE n

def State.secondsSet (s : State) : Bool := s.regs.flag Reg.TIM_STATUS_SECONDS_SET

def State.isGm (s : State) : Bool := s.regs.flag Reg.TIM_STATUS_GM

/-- Picoseconds from units of 2^-32 ns. -/
def toPs (x : Int) : Int := x * 1000 / 2 ^ 32

/-- What the bound has grown by in HOLDOVER: at 5 µs per hour while 10 minutes of LOCKED lie within the preceding day, and at 20
from then on (R445). -/
def TimeSt.drift (t : TimeSt) (now : Nat) : Nat :=
  let until_ := match t.lastLocked with
    | some e => min now (max t.holdSince (e + 86400000000000 - 600000000000))
    | none => min now t.holdSince
  ((until_ - t.holdSince) * 5 + (now - until_) * 20) / 3600000

/-- ERR_PS now. In HOLDOVER it grows from the last locked error (R445); in BACKUP without a parent it grows at 50 parts per
million, the error of that oscillator (R457). DEDUCED: log entry 44. -/
def State.errPs (s : State) : Nat :=
  if s.timeState = 3 then min (2 ^ 32 - 1) (s.time.holdErr + s.time.drift s.now)
  else if s.timeState = 4 ∧ s.time.parent = none then
    min (2 ^ 32 - 1) (s.time.holdErr + (s.now - s.time.holdSince) / 20)
  else s.regs.get Reg.TIM_STATUS_ERR_PS

/-- The bound at `h` hops on a path of LOCKED modules (R451). -/
def hopErr (h : Nat) : Nat := 150 * h + 100

/-! ### Keys (R449, R450) -/

/-- A grandmaster key: priority, class and rank, compared field by field. -/
structure TimeKey where
  prio : Nat
  cls : Nat
  rank : Nat
  deriving DecidableEq, Repr

def TimeKey.lt (a b : TimeKey) : Bool :=
  decide (a.prio < b.prio) || (a.prio == b.prio && (decide (a.cls < b.cls) || (a.cls == b.cls && decide (a.rank < b.rank))))

def TimeKey.eligible (k : TimeKey) : Bool := decide (k.cls < 2) && k.prio != 255

/-- The module's own key. -/
def State.ownKey (s : State) : TimeKey :=
  ⟨s.regs.get Reg.TIM_GM_PRIORITY_PRIORITY,
   if s.secondsSet = false then 2 else if s.regs.flag Reg.TIM_STATUS_EXT_LOCKED then 0 else 1, s.rank⟩

def LinkTime.key (l : LinkTime) : TimeKey := ⟨l.prio, l.cls, l.gmRank⟩

def State.linkTime (s : State) (l : Nat) : LinkTime := Tbl.get s.time.links LinkTime.zero l

def State.setLinkTime (s : State) (l : Nat) (x : LinkTime) : State :=
  { s with time := { s.time with links := Tbl.put s.time.links l x } }

/-- Does a link run at all: UP or STANDBY? -/
def State.linkLive (s : State) (l : Nat) : Bool := s.linkState l == 2 || s.linkState l == 3

/-- May the link be a source (R450)? A neighbour that announces the grandmaster followed here with one hop more than this module
follows this module, as the worked holdover has it, and is none; the parent itself always is one. DEDUCED: log entry 44. -/
def State.candidate (s : State) (l : Nat) : Bool :=
  let x := s.linkTime l
  x.valid && s.linkLive l && decide (x.hops < 16) && x.key.eligible &&
    (s.isGm || s.timeState == 0 || s.time.parent == some l || x.gmRank != s.regs.get Reg.TIM_STATUS_GM_RANK ||
      x.hops != s.regs.get Reg.TIM_STATUS_HOPS + 1)

/-- Is link `a` a better source than `b`? -/
def State.better (s : State) (a b : Nat) : Bool :=
  let x := s.linkTime a
  let y := s.linkTime b
  x.key.lt y.key || (x.key == y.key && (decide (x.hops < y.hops) || (x.hops == y.hops && decide (a < b))))

/-- The best source, if any. -/
def State.bestLink (s : State) : Option Nat :=
  ((List.range 32).filter s.candidate).foldl (fun acc l => match acc with
    | none => some l
    | some b => if s.better l b then some l else some b) none

/-- Does no SYNC heard on any link announce a key lower than the module's own (R449)? -/
def State.leads (s : State) : Bool :=
  s.ownKey.eligible && (List.range 32).all fun l =>
    let x := s.linkTime l
    !(x.valid && s.linkLive l && x.key.eligible && x.key.lt s.ownKey)

/-! ### Changing source -/

/-- The grandmaster's rank as the module reports it; a change is counted and posted (R450). -/
def State.setGm (s : State) (gm : Bool) (rank hops : Nat) : State :=
  let changed := s.timeState ≠ 0 ∧ s.regs.get Reg.TIM_STATUS_GM_RANK ≠ rank
  let s1 := ((s.setFlag Reg.TIM_STATUS_GM gm).setReg Reg.TIM_STATUS_GM_RANK rank).setReg Reg.TIM_STATUS_HOPS hops
  if changed then (s1.addReg Reg.TIM_EVENTS_GM_CHANGES 1).event 5 St.timeGmChange 0 rank else s1

/-- The module becomes LOCKED, once the oven is warm (R510). -/
def State.lockTime (s : State) : State :=
  if s.boot.ovenWarm = false ∨ s.timeState = 4 then s
  else
    let s1 := { s with time := { s.time with
      lockedAt := if s.timeState = 2 then s.time.lockedAt else some s.now
      wasLocked := true } }
    (s1.setTimeState 2).setReg Reg.TIM_STATUS_ERR_PS
      (if s.isGm then 0 else hopErr (s.regs.get Reg.TIM_STATUS_HOPS))

/-- The module leaves LOCKED: a spell of 10 minutes counts for the drift bound. -/
def State.unlockTime (s : State) : State :=
  match s.time.lockedAt with
  | some t => { s with time := { s.time with
      lockedAt := none, lastLocked := if t + 600000000000 ≤ s.now then some s.now else s.time.lastLocked } }
  | none => s

/-- HOLDOVER, by a module that has been LOCKED (R444, R457). DEDUCED: log entry 44. -/
def State.holdover (s : State) : State :=
  if s.timeState = 2 ∨ (s.timeState = 1 ∧ s.time.wasLocked = true) then
    let s1 := s.unlockTime
    let s2 := { s1 with time := { s1.time with
      holdSince := s.now, holdErr := s.regs.get Reg.TIM_STATUS_ERR_PS, lockCount := 0 } }
    ((s2.setTimeState 3).addReg Reg.TIM_EVENTS_HOLDOVERS 1).event 5 St.timeHoldover 0 0
  else s

/-- The module gives up its parent: a bound that grows from here on grows from what it is (R445). -/
def State.keepErr (s : State) : State :=
  match s.time.parent with
  | none => s
  | some _ => { s with time := { s.time with
      parent := none
      holdErr := s.errPs
      holdSince := s.now } }

/-- The module leads: it is grandmaster, LOCKED with its seconds set. -/
def State.becomeGm (s : State) : State :=
  let was := s.isGm
  let s1 := (s.keepErr).setGm true s.rank 0
  let s2 := if s1.timeState = 0 then s1.setTimeState 1 else s1
  if was ∧ s2.timeState = 3 then s2 else s2.lockTime

/-- The bound once the module follows link `l`: at least the one that it had of the same grandmaster, and none of another until
the offset to it is known. DEDUCED: log entry 44. -/
def State.followErr (s : State) (l : Nat) : Nat :=
  let x := s.linkTime l
  if s.timeState ≠ 0 ∧ s.isGm = false ∧ s.regs.get Reg.TIM_STATUS_GM_RANK = x.gmRank then max s.errPs (hopErr (x.hops + 1))
  else 2 ^ 32 - 1

/-- Does following link `l` leave the module ACQUIRING: from FREE, from HOLDOVER, and from LOCKED on another source, whose offset
it has not held yet (R444, R457)? A follower that has lost its parent goes on to the next candidate in its state (R457). -/
def State.acquires (s : State) (l : Nat) (lost : Bool) : Bool :=
  s.timeState == 0 || s.timeState == 3 || (s.timeState == 2 && !lost && (s.isGm || s.time.parent != some l))

/-- Follow a link, after the loss of the parent or not. -/
def State.follow (s : State) (l : Nat) (lost : Bool) : State :=
  let x := s.linkTime l
  let s1 := if s.acquires l lost then (s.unlockTime).setTimeState 1 else s
  let s2 := ({ s1 with time := { s1.time with
    parent := some l
    gmPrio := x.prio
    gmCls := x.cls
    lockCount := if s.time.parent = some l ∧ s.isGm = false then s.time.lockCount else 0 } }).setGm false x.gmRank (x.hops + 1)
  s2.setReg Reg.TIM_STATUS_ERR_PS (s.followErr l)

/-- Choose grandmaster and parent afresh (R449, R450, R457). -/
def State.chooseSource (s : State) (lost : Bool) : State :=
  if s.leads then s.becomeGm
  else match s.bestLink with
    | some l => s.follow l lost
    | none => ((s.keepErr).setFlag Reg.TIM_STATUS_GM false).holdover

/-- The parent is lost: a follower takes the next candidate, and with none a module that has been LOCKED enters HOLDOVER
(R446, R457). DEDUCED: log entry 44. -/
def State.sourceLost (s : State) : State :=
  if s.bestLink = none ∧ s.time.wasLocked = true then s.keepErr.holdover
  else s.chooseSource true

/-- A link that goes down is no source any more (R446). -/
def State.linkTimeDown (s : State) (l : Nat) : State :=
  let s1 := { s with time := { s.time with links := Tbl.del s.time.links l } }
  if s.time.parent = some l then s1.sourceLost else s1

/-! ### SYNC (R447, R448) -/

/-- The key and hops that the module announces; one in HOLDOVER goes on with the grandmaster it has followed.
DEDUCED: log entry 44. -/
def State.announced (s : State) : TimeKey × Nat :=
  match s.time.parent with
  | some l => ((s.linkTime l).key, (s.linkTime l).hops + 1)
  | none =>
    if s.timeState = 3 ∧ s.isGm = false then
      (⟨s.time.gmPrio, s.time.gmCls, s.regs.get Reg.TIM_STATUS_GM_RANK⟩, s.regs.get Reg.TIM_STATUS_HOPS)
    else (s.ownKey, 0)

/-- A SYNC is queued on a link that is UP or STANDBY. The serdes inserts T3 at the egress (R447): device time then, and `stamp`,
the part of a nanosecond beyond it in units of 2^-8 ns. DEDUCED: log entry 44. -/
def execSyncSend (l stamp : Nat) (s : State) : Host.Outcome State Fault Refusal :=
  .next (
    if s.linkLive l = false ∨ s.timeState = 4 then s
    else
      let a := s.announced
      let x := s.linkTime l
      let data := leBytes 1 a.1.prio ++ leBytes 1 a.1.cls ++ leBytes 1 a.2 ++ leBytes 1 0 ++ leBytes 4 a.1.rank ++
        instantBytes (subStamp stamp) ++ instantBytes x.t1 ++ instantBytes x.t2 ++ List.replicate 20 0
      let p := s.packet (s.regs.getAt Reg.LNK_LINK_STATUS_PEER_RANK l) PK.time 0 0 0 (clean data) false true
      s.setLink l ((s.link l).enqueue VC.time (p.flits VC.time)))

/-- Steer by the parent's offset: step it out before enable, slew it out after (R443). -/
def State.steer (s : State) (offset : Int) : State :=
  if s.locked then { s with time := { s.time with slew := offset } }
  else
    let n := (((s.time.ns * 2 ^ 32 + s.time.frac : Nat) : Int) + offset).toNat
    { s with time := { s.time with ns := n / 2 ^ 32 % 2 ^ 64, frac := n % 2 ^ 32, slew := 0 } }

/-- 20 ns, in units of 2^-32 ns. -/
def within20 (x : Int) : Bool := decide (x.natAbs ≤ 20 * 2 ^ 32)

/-- What a SYNC from the parent does (R444, R448, R457). ERR_PS is R451's bound once the parent has been held, and until then that
and the offset; a module in BACKUP follows to within 100 ns. DEDUCED: log entry 44. -/
def State.parentSync (s : State) (offset : Int) (cls : Nat) : State :=
  let s1 := if cls < 2 then s.setFlag Reg.TIM_STATUS_SECONDS_SET true else s
  let n := if within20 offset then s1.time.lockCount + 1 else 0
  let s2 := ({ s1 with time := { s1.time with lockCount := n } }).steer offset
  let bound := hopErr (s2.regs.get Reg.TIM_STATUS_HOPS)
  let err := min (2 ^ 32 - 1) ((toPs offset).natAbs + bound)
  if s2.timeState = 1 then (if 64 ≤ n then s2.lockTime else s2.setReg Reg.TIM_STATUS_ERR_PS err)
  else if s2.timeState = 2 then s2.setReg Reg.TIM_STATUS_ERR_PS (if 64 ≤ n then bound else err)
  else s2.setReg Reg.TIM_STATUS_ERR_PS (min (2 ^ 32 - 1) (err + 100000))

/-- The local ingress time of the first SYNC that has arrived on a link, T4 (R448). -/
def State.ingress (s : State) (l : Nat) : Nat :=
  ((s.arrived l fun p => p.kind == PK.time && p.dst == s.rank).map Arrived.at_).getD 0

/-- A SYNC has arrived: the serdes stamped its ingress with device time, and `stamp` is the part of a nanosecond beyond it in
units of 2^-8 ns. DEDUCED: log entry 44. -/
def execSyncReceive (l stamp : Nat) (s0 : State) : Host.Outcome State Fault Refusal :=
  .next (s0.onPacket l PK.time fun s p =>
    if p.good = false then s
    else
      let t4 := s0.ingress l + subStamp stamp
      let b := p.data
      let t3 := instantOf (b.drop 8)
      let t1 := instantOf (b.drop 20)
      let t2 := instantOf (b.drop 32)
      let asym := signedOf 16 (s.regs.getAt Reg.TIM_LINK_ASYM_ASYM_PS l) * 2 ^ 32 / 1000
      let delay : Int := (((t4 : Int) - t1) - ((t3 : Int) - t2)) / 2
      let offset : Int := (t3 : Int) + delay + asym / 2 - t4
      let known := t1 != 0
      let x : LinkTime := ⟨true, leNat (b.take 1), leNat ((b.drop 1).take 1), leNat ((b.drop 2).take 1),
        leNat ((b.drop 4).take 4) % 2 ^ 20, t3, t4, offset, 0⟩
      let s1 := s.setLinkTime l x
      let s2 := if known then s1.setRegAt Reg.TIM_LINK_DELAY_DELAY_PS l (toPs delay).toNat else s1
      let s3 := s2.chooseSource false
      if s3.time.parent = some l ∧ known then s3.parentSync offset x.cls else s3)

/-- A SYNC interval has passed on a link without one: after four the link is no source. -/
def execSyncMissed (l : Nat) (s : State) : Host.Outcome State Fault Refusal :=
  .next (
    let x := s.linkTime l
    if x.valid = false then s
    else if x.missed + 1 < 4 then s.setLinkTime l { x with missed := x.missed + 1 }
    else
      let s1 := s.setLinkTime l { x with missed := 4, valid := false }
      if s.time.parent = some l then s1.sourceLost else s1)

/-! ### External reference (R452, R457) -/

/-- The reference is lost: the grandmaster goes on in HOLDOVER. -/
def State.extLoss (s : State) : State :=
  let had := s.regs.flag Reg.TIM_STATUS_EXT_LOCKED
  let s1 := ({ s with time := { s.time with pps := 0 } }).setFlag Reg.TIM_STATUS_EXT_LOCKED false
  if had ∧ s.isGm then s1.holdover else s1

/-- A PPS edge, `error` ps after the instant at which it was expected. -/
def execPpsEdge (error : Int) (s : State) : Host.Outcome State Fault Refusal :=
  .next (
    if s.regs.flag Reg.TIM_SRC_CTL_EXT_EN = false ∨ s.timeState = 4 then s
    else if error > 1000000 then s.extLoss
    else
      let n := if error.natAbs ≤ 2000 then s.time.pps + 1 else 0
      let sec := (s.time.ns + 500000000) / 1000000000 * 1000000000
      let off : Int := ((sec : Int) - s.time.ns) * 2 ^ 32 - s.time.frac
      let s1 := ({ s with time := { s.time with pps := n } }).steer off
      if 16 ≤ n then
        let s2 := (s1.setFlag Reg.TIM_STATUS_EXT_LOCKED true)
        if s2.leads then (s2.becomeGm).lockTime else s2
      else s1)

/-- REF10M_LOSS (R452): Loss of the 10 MHz input or a late PPS is detected and EXT_LOCKED clears. -/
def execRef10mLoss (s : State) : Host.Outcome State Fault Refusal :=
  .next (if s.regs.flag Reg.TIM_SRC_CTL_EXT_EN then s.extLoss else s)

/-- The oscillator fails: BACKUP until P, following the parent, if any, to within 100 ns (R457). The bound that stood goes on.
DEDUCED: log entry 44. -/
def execOscillatorFail (s : State) : Host.Outcome State Fault Refusal :=
  .next (
    if s.timeState = 4 then s
    else
      let s1 := s.unlockTime
      let s2 := { s1 with time := { s1.time with
        holdErr := s.errPs
        holdSince := s.now } }
      ((s2.setTimeState 4).setReg Reg.TIM_STATUS_ERR_PS (max s.errPs (100000 + hopErr (s.regs.get Reg.TIM_STATUS_HOPS)))).event 5
        St.timeSourceLost 0 0)

/-- The oven is warm: the time block may become LOCKED (R444, R510). -/
def execOvenWarm (s : State) : Host.Outcome State Fault Refusal :=
  .next (
    let s1 := { s with boot := { s.boot with ovenWarm := true } }
    if s1.timeState ≤ 1 ∧ s1.leads = true then s1.becomeGm else s1)

/-! ### Setting the seconds (R443, R454, R459) -/

/-- A write of TIM_SET steps device time while the module is not enabled. -/
def State.setTime (s : State) (v : Nat) : State :=
  if s.locked then s
  else
    let s1 := ({ s with time := { s.time with ns := v % 2 ^ 64, frac := 0, slew := 0 } }).setReg Reg.TIM_SET_TAI_NS v
    let s2 := s1.setFlag Reg.TIM_STATUS_SECONDS_SET true
    let s3 := if s2.timeState = 0 then s2.setTimeState 1 else s2
    if s3.leads then s3.becomeGm else s3

/-- TIM_SET (R459): A write of TIM_SET steps device time and sets SECONDS_SET while disabled. -/
def execTimSet (v : Nat) (s : State) : Host.Outcome State Fault Refusal := .next (s.setTime v)

/-- Seconds from the origin of device time, 1958, to that of PTP's time, 1970. PRESUMED: log entry 64. -/
def ptpOrigin : Nat := 378691200

/-- A PTP timestamp of device time, with its correction: the nanosecond's fraction in units of 2^-16 ns (8 B), seconds (6 B) and
nanoseconds (4 B), big-endian. PRESUMED: log entry 64. -/
def State.ptpStamp (s : State) : List Byte :=
  (leBytes 8 (s.time.frac / 2 ^ 16)).reverse ++ (leBytes 6 (s.time.ns / 1000000000 - ptpOrigin)).reverse ++
    (leBytes 4 (s.time.ns % 1000000000)).reverse

/-- A PTP message (R454): in the grandmaster role a delay request, which is answered with the time at which it came; in the
boundary role the outcome of an exchange with the network's master: its seconds, TAI − UTC, and the offset to it, by which the
oscillator is disciplined. PRESUMED: log entry 64. -/
def execPtpMessage (seconds utc : Nat) (offset : Int) (s : State) : Host.Outcome State Fault Refusal :=
  .next (
    match s.regs.get Reg.TIM_SRC_CTL_PTP_ROLE with
    | 1 => if s.timeState = 2 ∨ s.timeState = 3 then s.emit (.ptp s.ptpStamp) else s
    | 2 =>
      let s1 := s.setReg Reg.TIM_SRC_CTL_TAI_UTC utc
      let s2 := if s.locked then s1
        else
          let s3 := ({ s1 with time := { s1.time with
            ns := ((seconds + ptpOrigin) * 1000000000 + s.time.ns % 1000000000) % 2 ^ 64 } }).setFlag Reg.TIM_STATUS_SECONDS_SET
              true
          let s4 := if s3.timeState = 0 then s3.setTimeState 1 else s3
          if s4.leads then s4.becomeGm else s4
      if s2.regs.flag Reg.TIM_SRC_CTL_EXT_EN then s2 else s2.steer offset
    | _ => s)

/-! ### Host time page (R455) -/

def State.ptmNow (s : State) : Nat :=
  if s.host.ptmOn ∧ s.time.ptm ≠ 0 then s.time.ptm + (s.now - s.time.ptmAt) else 0

/-- Bytes 4 to 63 of the page. -/
def State.pageBytes (s : State) : List Byte :=
  leBytes 1 (s.timeState + (if s.isGm then 8 else 0)) ++ leBytes 1 (s.regs.get Reg.TIM_STATUS_HOPS) ++
    leBytes 2 (s.regs.get Reg.TIM_SRC_CTL_TAI_UTC) ++ leBytes 8 s.time.ns ++ leBytes 4 s.time.frac ++ leBytes 4 s.errPs ++
    leBytes 8 s.ptmNow ++ leBytes 4 (s.regs.get Reg.TIM_STATUS_GM_RANK) ++ List.replicate 28 0

/-- TIME_PAGE_WRITE (R455): Every 1 ms and at each state change the time page is written into host memory under its SEQ
protocol. -/
def execTimePageWrite (s : State) : Host.Outcome State Fault Refusal :=
  .next (
    if s.regs.flag Reg.TIM_PAGE_VALID = false then s
    else
      let a := s.regs.get Reg.TIM_PAGE_BASE * 4096
      let q := s.time.pageSeq
      let s1 := s.emit (.hostWrite a (leBytes 4 (q + 1)) false)
      let s2 := s1.emit (.hostWrite (a + 4) s.pageBytes false)
      let s3 := s2.emit (.hostWrite a (leBytes 4 (q + 2)) false)
      { s3 with time := { s3.time with pageSeq := (q + 2) % 2 ^ 32 } })

/-- A Precision Time Measurement dialogue answers the host's time. -/
def execPtmExchange (hostNs : Nat) (s : State) : Host.Outcome State Fault Refusal :=
  .next (if s.host.ptmOn then { s with time := { s.time with ptm := hostNs, ptmAt := s.now } } else s)

end Sys2Proof.Machine
end

