-- ==== Sys2Proof/Machine/Gate.lean ====
section
/-! DEFINITION. The commit gate (R468 to R473): hearing from parties and losing them, votes, decisions, isolation. -/

namespace Sys2Proof.Machine

/-! ### Parties (R468, R469) -/

def State.setGate (s : State) (g : GateSt) : State := { s with gate := g }

def State.parentRank (s : State) : Nat := s.regs.get Reg.SAF_GATE_CTL_PARENT

/-- Children of SAF_GATE_CTL that must vote: absent ones do not (R484). -/
def State.childrenDue (s : State) : Nat :=
  s.regs.get Reg.SAF_GATE_CTL_CHILDREN - (s.gate.children.filter fun p => !p.adopted && s.absentNow p.rank).length

/-- The party that a rank is, if it is a child. -/
def State.child (s : State) (r : Nat) : Option Party := s.gate.children.find? fun p => p.rank == r

def State.setChild (s : State) (p : Party) : State :=
  s.setGate { s.gate with children := s.gate.children.map fun q => if q.rank = p.rank then p else q }

/-- A message from a party has come. Whoever is neither parent nor backup parent is a child; a child beyond those of
SAF_GATE_CTL is adopted. -/
def State.hear (s : State) (r : Nat) : State :=
  if s.gateParent = some r then s.setGate { s.gate with parentHeard := s.now }
  else if r = s.parentRank ∧ s.regs.flag Reg.SAF_GATE_CTL_ROOT = false then s
  else match s.child r with
    | some p => s.setChild { p with heard := s.now }
    | none =>
      let own := (s.gate.children.filter fun p => !p.adopted).length
      s.setGate { s.gate with
        children := s.gate.children ++ [⟨r, s.now, false, 0, 0, decide (s.regs.get Reg.SAF_GATE_CTL_CHILDREN ≤ own)⟩] }

/-! ### Voting CLEAN (R470, R471) -/

/-- Modules whose CLEAN votes the root needs: SAF_GATE_TOTAL, 0 standing for 2^20, less the absent ranks. -/
def State.gateTotal (s : State) : Nat :=
  let t := s.regs.get Reg.SAF_GATE_TOTAL_TOTAL
  (if t = 0 then 1048576 else t) - (s.res.absent.filter fun a => a.active).length

/-- Modules that the CLEAN votes held here cover, this one included. -/
def State.covered (s : State) : Nat :=
  1 + ((s.gate.children.filter fun p => s.isRoot || !p.adopted).map fun p => p.covered).foldl (· + ·) 0

/-- Have all the children voted CLEAN? -/
def State.childrenClean (s : State) : Bool :=
  decide (s.childrenDue ≤ (s.gate.children.filter fun p => !p.adopted && !s.absentNow p.rank && p.vote == 1).length)

/-- In GATE: vote CLEAN when every condition of R470 still holds, pass it on with the children's, and at the root
decide COMMIT once every module is covered. A replay whose decision came before GATE goes on to its end. -/
def State.tryGate (s : State) : State :=
  if s.stepState ≠ 4 then s
  else if s.gate.decided then (if s.replaying then s.setReg Reg.TRN_STEP_STATUS_STATE 5 else s)
  else if s.regs.get Reg.SAF_STATUS_VOTE = 2 then s
  else match s.gate.children.find? fun p => p.lost && !p.adopted && !s.absentNow p.rank with
    | some p => s.blame 4 p.rank
    | none =>
      if s.cannotHold then s.cause 5 else
      let s1 := s.setReg Reg.SAF_STATUS_VOTE 1
      if s1.isRoot then (if s1.gateTotal ≤ s1.covered ∧ s1.childrenClean = true then s1.decision true else s1)
      else if s1.gate.sentClean = false ∧ s1.childrenClean = true then
        (s1.setGate { s1.gate with sentClean := true }).sendVote
          (voteData 1 0 s.rank s1.covered (s.regs.get Reg.TRN_STEP_NUM_STEP) 0)
      else s1

/-- The gate once a step has ended: no votes yet for the next. -/
def GateSt.release (g : GateSt) : GateSt :=
  { g with
    children := g.children.map fun p => { p with
      vote := 0
      covered := 0 }
    sentClean := false
    decided := false
    refused := false }

/-! ### Losing a party (R469, R473) -/

/-- A module whose parent has changed goes on with its vote; one that takes the root's role after a NOT_CLEAN vote of its own
decides ABORT (R469, R471). -/
def State.revote (s : State) : State :=
  if s.isRoot ∧ s.gated = true ∧ s.regs.get Reg.SAF_STATUS_VOTE = 2 ∧ s.gate.decided = false then s.decision false
  else s.tryGate

/-- A party is declared lost. A lost parent gives way to the backup parent, or to this module when it is the root's
replacement; without either the module is isolated. A lost child is a reason to vote NOT_CLEAN. -/
def State.partyLost (s : State) (r : Nat) : State :=
  if s.gateParent = some r then
    (if s.gate.parentLost = false then
      let s1 := s.setGate { s.gate with
        parentLost := true
        parentHeard := s.now
        actRoot := s.gate.actRoot || s.regs.flag Reg.SAF_GATE_CTL_ALT_ROOT }
      s1.revote
    else
      ((s.setGate { s.gate with
        backupLost := true
        isolatedSince := some s.now }).setFlag Reg.SAF_STATUS_ISOLATED true).blame 4 s.rank)
  else match s.child r with
    | some p => if p.lost then s else (s.setChild { p with lost := true }).blame 4 r
    | none => s

/-- Does SAF_GATE_CTL count a child that has not been heard from since the gate tree began? -/
def State.unheard (s : State) : Bool :=
  decide ((s.gate.children.filter fun p => !p.adopted).length < s.regs.get Reg.SAF_GATE_CTL_CHILDREN)

/-- A child of which nothing has ever been heard: it is lost, unless its rank is absent, and then it is known as a child that need
not vote (R468, R469, R484). DEDUCED: log entry 36. -/
def State.missChild (s : State) (r : Nat) : State :=
  let p : Party := ⟨r, s.now, !s.absentNow r, 0, 0, false⟩
  let s1 := s.setGate { s.gate with children := s.gate.children ++ [p] }
  if p.lost then s1.blame 4 r else s1.tryGate

/-- Nothing has been heard from the party for 8 ms. -/
def execGatePartyLost (r : Nat) (s : State) : Host.Outcome State Fault Refusal :=
  .next (
    if s.enabled = false then s
    else if s.gateParent = some r then (if s.gate.parentHeard + 8000000 ≤ s.now then s.partyLost r else s)
    else match s.child r with
      | some p => if p.heard + 8000000 ≤ s.now ∧ s.absentNow r = false then s.partyLost r else s
      | none =>
        if s.unheard ∧ s.gate.since + 8000000 ≤ s.now ∧ r ≠ s.rank ∧ r ≠ s.parentRank then s.missChild r else s)

/-- Every millisecond a heartbeat goes to the gate parent and to every child heard from. -/
def execHeartbeatSend (s : State) : Host.Outcome State Fault Refusal :=
  .next (
    if s.enabled = false then s
    else
      let beat := leBytes 1 CT.heartbeat ++ leBytes 3 0 ++ leBytes 4 s.rank
      let s1 := match s.gateParent with
        | some p => s.ctrl p beat
        | none => s
      s1.each s.gate.children fun s p => s.ctrl p.rank beat)

/-! ### Votes and decisions (R471, R472) -/

structure Vote where
  clean : Bool
  sender : Nat
  covered : Nat
  step : Nat
  deriving DecidableEq, Repr

def Vote.parse (b : List Byte) : Vote :=
  ⟨leNat ((b.drop 1).take 1) == 1, leNat ((b.drop 4).take 4), leNat ((b.drop 8).take 4), leNat ((b.drop 16).take 8)⟩

/-- The step that a vote or a decision may name: the one in progress, or the one armed. -/
def State.decidable (s : State) (n : Nat) : Bool :=
  (s.gated && n == s.regs.get Reg.TRN_STEP_NUM_STEP) ||
    (match s.waiting with
     | some c => c.step == n && !c.eval
     | none => false)

/-- A vote from the child `r`, its data as sent: NOT_CLEAN is passed on at once, or decided by the root; CLEAN is held,
and one that another module has adopted or passes on goes up unchanged. -/
def State.takeVote (s : State) (r : Nat) (data : List Byte) : State :=
  let v := Vote.parse data
  let s0 := s.hear r
  if s.decidable v.step = false ∨ s.gate.decided = true then s0
  else match s0.child r with
    | none => s0
    | some p =>
      if v.clean = false then (if s0.isRoot then s0.decision false else s0.sendVote data)
      else if s0.isRoot then
        (s0.setChild { p with
          vote := if v.sender = r then 1 else p.vote
          covered := p.covered + v.covered }).tryGate
      else if p.adopted ∨ v.sender ≠ r then s0.sendVote data
      else (s0.setChild { p with
          vote := 1
          covered := v.covered }).tryGate

/-- VOTE_RECEIVE (R471): A gate vote arrives from a child or adopted child and is forwarded, or decided by the root. -/
def execVoteReceive (l : Nat) (s : State) : Host.Outcome State Fault Refusal :=
  .next (s.onCtrl l CT.vote fun s p => s.takeVote p.src p.data)

/-- A decision reaches the module: it is passed to the children and acted on. -/
def execDecisionReceive (l : Nat) (s : State) : Host.Outcome State Fault Refusal :=
  .next (s.onCtrl l CT.decision fun s p =>
    let s0 := s.hear p.src
    let n := leNat ((p.data.drop 8).take 8)
    if s0.decidable n = false ∨ s0.gate.decided = true then s0 else s0.decision (leNat ((p.data.drop 1).take 1) == 1))

/-- An isolated module has had no decision for 10 ms (R473). -/
def execIsolationTimeout (s : State) : Host.Outcome State Fault Refusal :=
  .next (match s.gate.isolatedSince with
    | none => s
    | some t =>
      if s.now < t + 10000000 ∨ s.gate.decided = true ∨ s.abortable = false then s else s.beginAbort 1)

end Sys2Proof.Machine
end

