-- ==== Sys2Proof/Machine/Links.lean ====
section
/-! DEFINITION. The Stelys links (R358 to R369, R391 to R396): sending and receiving flits, retransmission, credits,
lane sparing, links that go down and come back, and fault injection. -/

namespace Sys2Proof.Machine

/-! ### Flits (R359, R360) -/

/-- A flit's header (Table 10.2). -/
structure FlitHeader where
  vc : Nat
  type : Nat
  seq : Nat
  ack : Nat
  cvc : Nat
  pool : Nat
  credits : Nat
  deriving DecidableEq, Repr

/-- TYPE codes. -/
def flitIdle : Nat := 0
def flitData : Nat := 1
def flitLctrl : Nat := 2

def headerWord (h : FlitHeader) : Nat :=
  h.vc % 8 + h.type % 4 * 2 ^ 3 + h.seq % 2 ^ 16 * 2 ^ 5 + h.ack % 2 ^ 16 * 2 ^ 21 + h.cvc % 8 * 2 ^ 37 +
    h.pool % 32 * 2 ^ 40 + h.credits % 8 * 2 ^ 45

def headerOf (w : Nat) : FlitHeader :=
  ⟨bitsOf w 2 0, bitsOf w 4 3, bitsOf w 20 5, bitsOf w 36 21, bitsOf w 39 37, bitsOf w 44 40, bitsOf w 47 45⟩

/-- Bytes 0 to 247 of a flit. -/
def flitBody (h : FlitHeader) (payload : List Byte) : List Byte :=
  leBytes 6 (headerWord h) ++ (payload.take 242 ++ List.replicate (242 - payload.length) 0)

/-- A body with its CRC. -/
def flitSeal (body : List Byte) : List Byte := body ++ leBytes 8 (crc64 body)

/-- A flit's CRC holds. -/
def flitGood (flit : List Byte) : Bool := flit.length == 256 && leNat (flit.drop 248) == crc64 (flit.take 248)

/-- Flip payload bit `i` of a flit or of its body. -/
def flipBit (b : List Byte) (i : Nat) : List Byte :=
  if i < 1936 then b.mapIdx fun k x => if k = 6 + i / 8 then x ^^^ BitVec.ofNat 8 (2 ^ (i % 8)) else x else b

/-- LCTRL messages: the spec names them and leaves their payloads open, so the first byte is the model's. DESIGN CHOICE: log
entry 29. DESIGN CHOICE: log entry 29. -/
def lcNack : Nat := 0
def lcPark : Nat := 1
def lcLane : Nat := 2
def lcRank : Nat := 3
def lcTrain : Nat := 4

/-- The message by which an end tells the other that a lane is spared: the lanes that are left (R359, R368). -/
def laneMessage (lanes : Nat) : List Byte := leBytes 1 lcLane ++ leBytes 1 lanes

/-- The message of a module's new rank (R383). -/
def rankMessage (rank : Nat) : List Byte := leBytes 1 lcRank ++ leBytes 3 0 ++ leBytes 4 rank

/-- What an end reports of itself in training: link number, lanes and rank (R369). -/
def trainMessage (link lanes rank : Nat) : List Byte :=
  leBytes 1 lcTrain ++ leBytes 1 link ++ leBytes 1 lanes ++ leBytes 1 0 ++ leBytes 4 rank

/-! ### SEQ arithmetic -/

/-- How far SEQ `a` lies after `b`, modulo 2^16. -/
def seqAfter (a b : Nat) : Nat := (a + 2 ^ 16 - b % 2 ^ 16) % 2 ^ 16

/-! ### Credits (R366) -/

def sharedSlots : Nat := 15360
def hopSlots : Nat := 8

/-- The key of a channel's pool among the credits: pool 0 is shared by the channels. -/
def poolKey (vc pool : Nat) : Nat := if pool = 0 then 0 else vc * 32 + pool

/-- The pool whose credit a flit takes: the shared one while it has any, else its hop class's. DEDUCED: log entry 30. -/
def LinkSt.creditPool (l : LinkSt) (vc hop : Nat) : Option Nat :=
  if Tbl.get l.credits 0 0 < sharedSlots then some 0
  else if Tbl.get l.credits 0 (poolKey vc hop) < hopSlots then some hop
  else none

def LinkSt.spend (l : LinkSt) (vc pool : Nat) : LinkSt :=
  let key := poolKey vc pool
  { l with credits := Tbl.put l.credits key (Tbl.get l.credits 0 key + 1) }

/-- Credits that a flit returns. -/
def LinkSt.earn (l : LinkSt) (h : FlitHeader) : LinkSt :=
  let key := poolKey h.cvc h.pool
  if h.credits = 0 then l else { l with credits := Tbl.put l.credits key (Tbl.get l.credits 0 key - h.credits) }

/-- The slots that the next flit returns: channel, pool and number, and what is left. -/
def LinkSt.returns (l : LinkSt) : (Nat × Nat × Nat) × LinkSt :=
  match l.giveBack.find? fun x => x.2 != 0 with
  | none => ((0, 0, 0), l)
  | some x =>
    let n := min 7 x.2
    ((x.1 / 32, x.1 % 32, n),
      { l with giveBack := if x.2 = n then Tbl.del l.giveBack x.1 else Tbl.put l.giveBack x.1 (x.2 - n) })

/-! ### Links that go down (R363, R364) -/

/-- Packets that a flit list belongs to, each once. -/
def packetsIn (l : List (Nat × Nat × Packet)) : List (Nat × Nat × Packet) :=
  l.foldl (fun acc x => if acc.contains x then acc else acc ++ [x]) []

/-- Packets of which some flit has been sent and not acknowledged, and packets that have been sent in part. -/
def LinkSt.sentPackets (l : LinkSt) : List (Nat × Nat × Packet) :=
  packetsIn ((l.replay.map fun e => (e.first, e.flit.vc, e.flit.pkt)) ++
    l.txq.filterMap fun q => match q.2.head? with
      | some f => if f.idx = 0 then none else some (Tbl.get l.txFirst 0 q.1, q.1, f.pkt)
      | none => none)

/-- Packets that have not begun to be sent. -/
def LinkSt.unsent (l : LinkSt) : List (Nat × Packet) :=
  l.txq.flatMap fun q => q.2.filterMap fun f => if f.idx = 0 then some (q.1, f.pkt) else none

/-- The first SEQ of the first packet that has not arrived whole. -/
def LinkSt.firstPartial (l : LinkSt) : Nat :=
  (l.partials.filterMap fun p => p.2.head?.map fun f => f.seq).foldl
    (fun acc q => if seqAfter l.rxNext acc < seqAfter l.rxNext q then q else acc) l.rxNext

/-- A link at the start of training: nothing of its traffic is left but whole packets that have arrived and packets
held since it went down. -/
def LinkSt.fresh (l : LinkSt) : LinkSt :=
  { LinkSt.reset with
    arrived := l.arrived
    downHeld := l.downHeld
    downSince := l.downSince
    injState := l.injState
    injLeft := l.injLeft
    injStopped := l.injStopped
    injLane := l.injLane }

/-- LINK_FINAL's data: the link's number at the neighbour, and the SEQ. -/
def linkFinalData (peerLink seq : Nat) : List Byte := leBytes 1 CT.linkFinal ++ leBytes 1 peerLink ++ leBytes 2 seq

/-- Send on a packet that a link has not brought across: one of another module that has no up link left is discarded, and its
source learns it (R364, R377). -/
def State.passOn (s : State) (vc : Nat) (p : Packet) : State :=
  if p.src ≠ s.rank ∧ s.routeUp p.dst = [] then s.sendUnreachable p else s.sendPacket vc p

/-- The held packets of a down link at and after SEQ `seq` go out again over other links (R364). -/
def State.releaseHeld (s : State) (l seq : Nat) : State :=
  let x := s.link l
  (s.setLink l { x with
    downHeld := []
    downSince := none
    early := none }).each (x.downHeld.filter fun p => decide (seqAfter p.1 seq < 2 ^ 15)) fun s p => s.passOn p.2.1 p.2.2

/-- A link goes down with a reason of LNK_LINK_STATUS. A LINK_FINAL that the neighbour has sent before this end saw the link down
is taken now. -/
def State.linkDown (s : State) (l reason : Nat) : State :=
  if s.linkLive l = false then s
  else
    let x := s.link l
    let s1 := ((s.setRegAt Reg.LNK_LINK_STATUS_STATE l 0).setRegAt Reg.LNK_LINK_STATUS_DOWN_REASON l reason).addRegAt
      Reg.LNK_LINK_ERR_DOWNS l 1
    let s2 := s1.setLink l { x.fresh with
      downHeld := x.downHeld ++ x.sentPackets
      downSince := some s.now }
    let s3 := s2.event 4 St.lnkDown l reason
    let s4 := s3.ctrl (s.regs.getAt Reg.LNK_LINK_STATUS_PEER_RANK l)
      (linkFinalData (s.regs.getAt Reg.LNK_LINK_STATUS_PEER_LINK l) x.firstPartial)
    let s5 := (s4.each x.unsent fun s p => s.passOn p.1 p.2).linkTimeDown l
    match x.early with
    | some seq => s5.releaseHeld l seq
    | none => s5

/-! ### Fault injection (R391 to R394) -/

def State.injMode (s : State) (l : Nat) : Nat := s.regs.getAt Reg.LNK_INJ_CTL_MODE l

/-- PRBS31 of x^31 + x^28 + 1, one step. -/
def injStep (st : Nat) : Nat := (st * 2 + (if bitOf st 30 != bitOf st 27 then 1 else 0)) % 2 ^ 31

/-- Is a link's injection armed: a MODE of Table 10.12, on a link that LNK_INJ_PERMIT names (R391)? -/
def State.injArmed (s : State) (l : Nat) : Bool :=
  decide (1 ≤ s.injMode l ∧ s.injMode l ≤ 5) && bitOf (s.regs.get Reg.LNK_INJ_PERMIT_LINKS) l

/-- Is a first transmission of a DATA flit selected? Answers the link with its generator stepped. DEDUCED: log entry 30. -/
def State.select (s : State) (l : Nat) (x : LinkSt) (vc seq : Nat) : Bool × LinkSt :=
  let r := s.regs
  if s.injArmed l = false ∨ (r.getAt Reg.LNK_INJ_CTL_VC_FILTER l = 1 ∧ r.getAt Reg.LNK_INJ_CTL_VC l ≠ vc) then (false, x)
  else
    let count := r.getAt Reg.LNK_INJ_MATCH_COUNT l
    let st := injStep x.injState
    let k := r.getAt Reg.LNK_INJ_CTL_K l
    let mask := r.getAt Reg.LNK_INJ_MATCH_MASK l
    let hit := if r.getAt Reg.LNK_INJ_CTL_BY_PATTERN l = 1 then seq &&& mask == r.getAt Reg.LNK_INJ_MATCH_VALUE l &&& mask
      else k != 0 && st % 2 ^ k == 2 ^ k - 1
    let sel := hit && (count == 0 || decide (x.injLeft < count))
    (sel, { x with
      injState := if r.getAt Reg.LNK_INJ_CTL_BY_PATTERN l = 1 then x.injState else st
      injLeft := if sel then x.injLeft + 1 else x.injLeft })

/-- A selection counts and enters the log (R394). -/
def State.noteInjection (s : State) (l seq : Nat) : State :=
  ({ s with net := { s.net with injLog := ((⟨s.now, seq, l, s.injMode l⟩ : InjRec) :: s.net.injLog).take 64 } }).addRegAt
    Reg.LNK_INJ_COUNT_INJECTED l 1

/-- A write of LNK_INJ_CTL: without permission it is ignored and posted after enable, and kept before it (R391). -/
def State.injWrite (s : State) (l v : Nat) : State :=
  if l ≥ 32 then s
  else if bitsOf v 2 0 ≠ 0 ∧ bitOf (s.regs.get Reg.LNK_INJ_PERMIT_LINKS) l = false ∧ s.locked = true then
    s.event 4 St.injectDenied l 0
  else
    let seed := bitsOf v 57 27
    ({ s with regs := s.regs.hostWrite s.locked (0x501000 + 32 * l) (2 ^ 64 - 1) v }).setLink l { s.link l with
      injState := if seed = 0 then 1 else seed
      injLeft := 0 }

def State.arm (s : State) (mode l ctl : Nat) : State := if bitsOf ctl 2 0 = mode then s.injWrite l ctl else s

/-- INJECT_DROP (R392): MODE 1 arms injection that drops selected flits. -/
def execInjectDrop (l ctl : Nat) (s : State) : Host.Outcome State Fault Refusal := .next (s.arm 1 l ctl)

/-- INJECT_CORRUPT (R392): MODE 2 arms injection that flips a payload bit of selected flits. -/
def execInjectCorrupt (l ctl : Nat) (s : State) : Host.Outcome State Fault Refusal := .next (s.arm 2 l ctl)

/-- INJECT_REORDER (R392): MODE 3 arms injection that sends selected flits after the next. -/
def execInjectReorder (l ctl : Nat) (s : State) : Host.Outcome State Fault Refusal := .next (s.arm 3 l ctl)

/-- INJECT_LANE_FAIL (R392): MODE 4 arms injection that stops a lane at the first selection. -/
def execInjectLaneFail (l ctl : Nat) (s : State) : Host.Outcome State Fault Refusal := .next (s.arm 4 l ctl)

/-- INJECT_LINK_FAIL (R392): MODE 5 arms injection that parks and stops the link at the first selection. -/
def execInjectLinkFail (l ctl : Nat) (s : State) : Host.Outcome State Fault Refusal := .next (s.arm 5 l ctl)

/-! ### Sending (R361, R365 to R367) -/

/-- Put a flit on the link: ACK and returned credits ride on every one, but a DATA flit whose slot a hop pool pays for returns
none and names that pool in POOL, so that its receiver returns the credit to it (R366). `spoil` changes the body before the CRC
is made, `late` the whole flit after it. DEDUCED: log entry 30. -/
def State.putFlit (s : State) (l vc type seq pool : Nat) (payload : List Byte) (spoil late : List Byte → List Byte) : State :=
  let r := if pool = 0 then (s.link l).returns else ((vc, pool, 0), s.link l)
  let h : FlitHeader := ⟨vc, type, seq, (s.link l).rxNext, r.1.1, r.1.2.1, r.1.2.2⟩
  (s.setLink l r.2).emit (.flit l (late (flitSeal (spoil (flitBody h payload)))))

/-- The pool that paid for a DATA flit's slot. DEDUCED: log entry 30. -/
def FlitHeader.paidBy (h : FlitHeader) : Nat := if h.credits = 0 then h.pool else 0

/-- A DATA flit has been sent: the one that REORDER holds back newest may follow. -/
def LinkSt.passed (l : LinkSt) : LinkSt :=
  { l with injHold := match l.injHold with
      | [] => []
      | h :: t => (h.1, true) :: t }

/-- Send a DATA flit. -/
def State.sendData (s : State) (l : Nat) (e : Replay) (spoil late : List Byte → List Byte) : State :=
  let s1 := s.putFlit l e.flit.vc flitData e.seq e.pool (e.flit.egress s.instant) spoil late
  s1.setLink l (s1.link l).passed

/-- The first SEQ in the list that is still in the replay buffer. -/
def LinkSt.toResend (l : LinkSt) : Option Replay :=
  (l.resend.filterMap fun q => l.replay.find? fun e => e.seq == q).head?

/-- Send a flit again; the eighth time takes the link down (R362, R363). -/
def State.resendFlit (s : State) (l : Nat) (e : Replay) : State :=
  let x := s.link l
  let e1 := { e with resends := e.resends + 1 }
  let s1 := (s.setLink l { x with
    resend := x.resend.filter fun q => q != e.seq
    replay := x.replay.map fun y => if y.seq = e.seq then e1 else y }).addRegAt Reg.LNK_LINK_ERR_RETRANS l 1
  let s2 := s1.sendData l e1 id id
  if 8 ≤ e1.resends then s2.linkDown l 1 else s2

/-- Virtual channels in the order the next slot tries them: TIME, CTRL, HANDCART, and the bulk channels from the one
after the last that sent. -/
def LinkSt.vcOrder (l : LinkSt) : List Nat :=
  [VC.time, VC.ctrl, VC.handcart] ++ (List.range 5).map fun i => (l.rr + 1 + i) % 5

/-- The next new flit, with the pool that pays for it and the rest of its channel's queue. -/
def LinkSt.nextFlit (l : LinkSt) : Option (TxFlit × Nat × List TxFlit) :=
  if 16384 ≤ l.replay.length then none
  else (l.vcOrder.filterMap fun vc =>
    match Tbl.get l.txq [] vc with
    | [] => none
    | f :: rest => (l.creditPool vc f.hop).map fun k => (f, k, rest)).head?

/-- The link's record once a new flit has its SEQ. -/
def LinkSt.assign (l : LinkSt) (f : TxFlit) (pool : Nat) (rest : List TxFlit) (now : Nat) : Replay × LinkSt :=
  let first := if f.idx = 0 then l.txSeq else Tbl.get l.txFirst 0 f.vc
  let e : Replay := ⟨l.txSeq, first, f, pool, 0⟩
  (e, { l.spend f.vc pool with
    txq := if rest = [] then Tbl.del l.txq f.vc else Tbl.put l.txq f.vc rest
    replay := l.replay ++ [e]
    txFirst := Tbl.put l.txFirst f.vc first
    txSeq := (l.txSeq + 1) % 2 ^ 16
    rr := if f.vc < 5 then f.vc else l.rr
    ackSince := if l.replay.isEmpty then now else l.ackSince })

/-- Send a new flit, with what injection makes of it (R392). -/
def State.sendNew (s : State) (l : Nat) (f : TxFlit) (pool : Nat) (rest : List TxFlit) : State :=
  let a := (s.link l).assign f pool rest s.now
  let sel := s.select l a.2 f.vc a.1.seq
  let s1 := s.setLink l sel.2
  if sel.1 = false then s1.sendData l a.1 id id
  else
    let s2 := s1.noteInjection l a.1.seq
    let bit := s.regs.getAt Reg.LNK_INJ_CTL_BIT l
    match s.injMode l with
    | 1 => s2.putFlit l 0 flitIdle 0 0 [] id id
    | 2 =>
      if s.regs.getAt Reg.LNK_INJ_CTL_STAGE l = 0 then s2.sendData l a.1 id fun b => flipBit b bit
      else s2.sendData l a.1 (fun b => flipBit b bit) id
    | 3 =>
      let y := s2.link l
      (s2.setLink l { y with injHold := (a.1, false) :: y.passed.injHold }).putFlit l 0 flitIdle 0 0 [] id id
    | 4 =>
      let y := s2.link l
      (s2.setLink l { y with injLane := y.injLane.or (some (s.regs.getAt Reg.LNK_INJ_CTL_LANE l)) }).sendData l a.1 id id
    | _ =>
      let s3 := s2.putFlit l 0 flitLctrl 0 0 (leBytes 1 lcPark) id id
      (s3.setLink l { s3.link l with injStopped := true }).linkDown l 5

/-- KIND 8 messages that wait become packets. -/
def State.drainCtrl (s : State) : State :=
  ({ s with net := { s.net with ctrl := [] } }).each s.net.ctrl fun s m => s.sendCtrl m.1 m.2

/-- One flit slot of a link. -/
def execFlitSend (l : Nat) (s : State) : Host.Outcome State Fault Refusal :=
  .next (
    let s0 := s.drainCtrl
    let x := s0.link l
    if s0.linkLive l = false ∨ x.injStopped = true then s0
    else match x.toResend with
      | some e => s0.resendFlit l e
      | none =>
        match x.injHold with
        | (e, true) :: t => (s0.setLink l { x with injHold := t }).sendData l e id id
        | _ =>
          match x.lctrl with
          | m :: r => (s0.setLink l { x with lctrl := r }).putFlit l 0 flitLctrl 0 0 m id id
          | [] =>
            match x.nextFlit with
            | some (f, pool, rest) => s0.sendNew l f pool rest
            | none => s0.putFlit l 0 flitIdle 0 0 [] id id)

/-! ### Receiving (R361, R366, R372) -/

/-- ACK frees the entries it has passed. -/
def LinkSt.acked (l : LinkSt) (ack now : Nat) : LinkSt :=
  let keep := l.replay.filter fun e => seqAfter ack e.seq == 0 || decide (2 ^ 15 < seqAfter ack e.seq)
  if keep.length = l.replay.length then l else { l with
    replay := keep
    ackSince := now }

/-- A NACK in LCTRL flits of up to 16 SEQs. -/
def nackFlits : Nat → List Nat → List (List Byte)
  | 0, _ => []
  | _, [] => []
  | n + 1, q => (leBytes 1 lcNack ++ leBytes 1 (min 16 q.length) ++ (q.take 16).flatMap (leBytes 2)) :: nackFlits n (q.drop 16)

def LinkSt.nack (l : LinkSt) (q : List Nat) (now : Nat) : LinkSt :=
  { l with
    lctrl := l.lctrl ++ nackFlits q.length q
    missing := q.foldl (fun t k => Tbl.put t k now) l.missing }

/-- Flits of a packet with a header of `len` data bytes. -/
def flitsOf (len : Nat) : Nat := (40 + len + 241) / 242

/-- The packet that a channel's flits make, once all have arrived. -/
def wholePacket (fs : List RxFlit) : Option Packet :=
  let b := fs.flatMap fun f => f.payload
  let n := dataLen (bitsOf (leNat ((b.drop 4).take 4)) 23 20) (leNat ((b.drop 14).take 2))
  if fs ≠ [] ∧ flitsOf n ≤ fs.length then some (Packet.parse b) else none

/-- Deliver one flit in its order: it takes the next place of its packet. DEDUCED: log entry 30. -/
def LinkSt.deliver (l : LinkSt) (f : RxFlit) : LinkSt :=
  let before := Tbl.get l.partials [] f.vc
  let fs := before ++ [f]
  let l1 := { l with rxNext := (f.seq + 1) % 2 ^ 16 }
  match wholePacket fs with
  | some p => { l1 with
      partials := Tbl.del l1.partials f.vc
      arrived := l1.arrived ++ [⟨f.vc, p, fs.map fun g => g.pool, f.at_⟩] }
  | none => { l1 with partials := Tbl.put l1.partials f.vc fs }

/-- Deliver held flits while they follow in SEQ. -/
def LinkSt.deliverHeld (l : LinkSt) : Nat → LinkSt
  | 0 => l
  | n + 1 =>
    match l.held.find? fun f => f.seq == l.rxNext with
    | none => l
    | some f => ({ l with held := l.held.erase f }).deliver f |>.deliverHeld n

/-- SEQs between the next expected and `seq` that are neither held nor known to be missing. -/
def LinkSt.newGaps (l : LinkSt) (seq : Nat) : List Nat :=
  ((List.range (seqAfter seq l.rxNext)).map fun i => (l.rxNext + i) % 2 ^ 16).filter fun q =>
    !(l.held.any fun f => f.seq == q) && (Tbl.find l.missing q).isNone

/-- A DATA flit: delivered, held after a gap, or discarded as a duplicate. -/
def LinkSt.data (l : LinkSt) (f : RxFlit) (now : Nat) : LinkSt :=
  let l0 := { l with missing := Tbl.del l.missing f.seq }
  if f.seq = l.rxNext then (l0.deliver f).deliverHeld l.held.length
  else if 2 ^ 15 ≤ seqAfter f.seq l.rxNext ∨ (l.held.any fun g => g.seq == f.seq) then l
  else
    let gaps := l0.newGaps f.seq
    let l1 := { l0 with held := l0.held ++ [f] }
    if gaps = [] then l1 else l1.nack gaps now

/-! Messages that need no other command: heartbeats, the answers to route probes, a neighbour's new rank. -/

/-- The part of the packed HOPS that an answer brings (R380): five bits a rank, from byte `off` on. -/
def hopsOf (off : Nat) (b : List Byte) : List (Nat × Nat) :=
  let w := leNat b
  ((List.range (b.length * 8 / 5)).map fun i => (off * 8 / 5 + i, bitsOf w (5 * i + 4) (5 * i))).filter fun x => x.2 != 0

/-- Bytes of a whole answer. -/
def answerBytes : Nat := 655360

def takeAnswer (t : List (Nat × Nat)) (b : List Byte) : List (Nat × Nat) :=
  let part := b.drop 12
  let t1 := (hopsOf (leNat ((b.drop 4).take 4)) part).foldl (fun t x => Tbl.put t x.1 x.2) t
  Tbl.put (Tbl.put t1 (2 ^ 20) (Tbl.get t 0 (2 ^ 20) + part.length)) (2 ^ 20 + 1) (leNat ((b.drop 8).take 4))

/-- Note a neighbour's answer under the link that brought it. -/
def State.noteAnswer (l : Nat) (s : State) (p : Packet) : State :=
  let put := fun (t : List (Nat × List (Nat × Nat))) => Tbl.put t l (takeAnswer (Tbl.get t [] l) p.data)
  if leNat ((p.data.drop 1).take 1) = 0 then { s with net := { s.net with peers := put s.net.peers } }
  else { s with net := { s.net with peersNext := put s.net.peersNext } }

/-- Take the heartbeats and the probe answers that have arrived on a link. -/
def State.absorb (s : State) (l : Nat) : State :=
  s.each (List.range (s.link l).arrived.length) fun s _ =>
    (s.onCtrl l CT.heartbeat fun s p => s.hear p.src).onCtrl l CT.answer (State.noteAnswer l)

/-- Lanes of a mask that are in use. -/
def lanesOn (mask : Nat) : Nat := ((List.range 4).filter (bitOf mask)).length

/-- The lanes in use that a mask leaves out are spared: each counts and is posted, and the link goes on with the others; fewer
than two take it down (R363, R368). -/
def State.spareLanes (s : State) (l mask : Nat) : State :=
  let old := s.regs.getAt Reg.LNK_LINK_STATUS_LANES l
  let s1 := (s.each ((List.range 4).filter fun k => bitOf old k && !bitOf mask k) fun s k =>
    (s.addRegAt Reg.LNK_LINK_ERR_SPARES l 1).event 4 St.lnkLaneSpared l k).setRegAt Reg.LNK_LINK_STATUS_LANES l (old &&& mask)
  if lanesOn (old &&& mask) < 2 then s1.linkDown l 3 else s1

/-- A flit of 256 bytes arrives. -/
def execFlitReceive (l : Nat) (flit : List Byte) (s : State) : Host.Outcome State Fault Refusal :=
  .next (
    if s.linkLive l = false then s
    else if flitGood flit = false then s.addRegAt Reg.LNK_LINK_ERR_CRC_FAIL l 1
    else
      let h := headerOf (leNat (flit.take 6))
      let payload := (flit.drop 6).take 242
      let x := (((s.link l).acked h.ack s.now).earn h)
      let x1 := { x with goodSince := s.now }
      let msg := leNat (payload.take 1)
      if h.type = flitData then (s.setLink l (x1.data ⟨h.seq, h.vc, h.paidBy, payload, s.instant⟩ s.now)).absorb l
      else if h.type = flitLctrl ∧ msg = lcPark then (s.setLink l x1).linkDown l 4
      else if h.type = flitLctrl ∧ msg = lcRank then
        (s.setLink l x1).setRegAt Reg.LNK_LINK_STATUS_PEER_RANK l (leNat ((payload.drop 4).take 4))
      else if h.type = flitLctrl ∧ msg = lcTrain then
        ((s.setLink l x1).setRegAt Reg.LNK_LINK_STATUS_PEER_RANK l (leNat ((payload.drop 4).take 4))).setRegAt
          Reg.LNK_LINK_STATUS_PEER_LINK l (leNat ((payload.drop 1).take 1))
      else if h.type = flitLctrl ∧ msg = lcLane then (s.setLink l x1).spareLanes l (leNat ((payload.drop 1).take 1))
      else s.setLink l x1)

/-- A NACK names flits: each that the replay buffer holds is sent again before any new flit. -/
def execNackReceive (l : Nat) (seqs : List Nat) (s : State) : Host.Outcome State Fault Refusal :=
  .next (
    if s.linkLive l = false then s
    else
      let x := s.link l
      let q := (seqs.take 16).filter fun k => (x.replay.any fun e => e.seq == k) && !x.resend.contains k
      s.setLink l { x with resend := x.resend ++ q })

/-! ### Timers (R362, R363) -/

/-- Gaps not filled within 25 µs of their last NACK are named again. -/
def execNackRepeat (l : Nat) (s : State) : Host.Outcome State Fault Refusal :=
  .next (
    let x := s.link l
    let q := (x.missing.filter fun e => decide (e.2 + 25000 ≤ s.now)).map Prod.fst
    if s.linkLive l = false ∨ q = [] then s else s.setLink l (x.nack q s.now))

/-- ACK has not advanced for 50 µs with flits in the replay buffer: the oldest is sent again. -/
def execReplayTimeout (l : Nat) (s : State) : Host.Outcome State Fault Refusal :=
  .next (
    let x := s.link l
    match x.replay.head? with
    | none => s
    | some e =>
      if s.linkLive l = false ∨ s.now < x.ackSince + 50000 then s
      else s.setLink l { x with
        resend := if x.resend.contains e.seq then x.resend else e.seq :: x.resend
        ackSince := s.now })

/-- No flit with a good CRC for 10 µs. -/
def execLinkSilenceTimeout (l : Nat) (s : State) : Host.Outcome State Fault Refusal :=
  .next (if s.linkLive l ∧ (s.link l).goodSince + 10000 ≤ s.now then s.linkDown l 2 else s)

/-! ### LINK_FINAL (R364) -/

/-- LINK_FINAL from the neighbour of link `n`: it acts on the packets held since the link went down, within 1 ms of that, or waits
for the link to go down at this end. DEDUCED: log entry 30. -/
def State.takeFinal (s : State) (n seq : Nat) : State :=
  let x := s.link n
  if s.linkLive n then s.setLink n { x with early := some seq }
  else match x.downSince with
    | none => s
    | some t => if t + 1000000 < s.now then s else s.releaseHeld n seq

/-- LINK_FINAL (R364): A LINK_FINAL arrives and the held packets from its SEQ on are resent over other links. -/
def execLinkFinal (l : Nat) (s : State) : Host.Outcome State Fault Refusal :=
  .next (s.onCtrl l CT.linkFinal fun s p =>
    let n := leNat ((p.data.drop 1).take 1) % 32
    if s.regs.getAt Reg.LNK_LINK_STATUS_PEER_RANK n = p.src then s.takeFinal n (leNat ((p.data.drop 2).take 2)) else s)

/-- A packet in transit is lost: its source learns it. -/
def State.loseTransit (s : State) (p : Packet) : State :=
  if p.src = s.rank then s.lostPacket p
  else if p.kind = PK.unreachable then s.event 4 St.lnkUnreachable 0 p.dst
  else (s.sendUnreachable p).event 4 St.lnkUnreachable 0 p.dst

/-- No LINK_FINAL within 1 ms: the held packets are lost. -/
def execLinkFinalTimeout (l : Nat) (s : State) : Host.Outcome State Fault Refusal :=
  .next (
    let x := s.link l
    match x.downSince with
    | none => s
    | some t =>
      if s.now < t + 1000000 then s
      else (s.setLink l { x with
        downHeld := []
        downSince := none }).each x.downHeld fun s p => s.loseTransit p.2.2)

/-! ### Lanes and training (R368, R369) -/

/-- A lane is spared, and the neighbour is told; fewer than two left take the link down. -/
def execLaneSpare (l lane : Nat) (s : State) : Host.Outcome State Fault Refusal :=
  .next (
    let mask := s.regs.getAt Reg.LNK_LINK_STATUS_LANES l
    if s.linkLive l = false ∨ 4 ≤ lane ∨ bitOf mask lane = false then s
    else
      let m := mask - 2 ^ lane
      let x := s.link l
      (s.setLink l { x with lctrl := x.lctrl ++ [laneMessage m] }).spareLanes l m)

/-- A route probe over a link to its neighbour (R380): bank 0 is the active one, 1 the standby one. DEDUCED: log entry 31. -/
def State.probeLink (s : State) (bank l : Nat) : State :=
  s.sendOver l (s.regs.getAt Reg.LNK_LINK_STATUS_PEER_RANK l) (leBytes 1 CT.probe ++ leBytes 1 bank ++ leBytes 2 0)

/-- A link that comes to run has no answer yet: the route checks that wait ask its neighbour too (R380, R382). DEDUCED: log entry
31. -/
def State.askNeighbour (s : State) (l : Nat) : State :=
  let s1 := { s with net := { s.net with
    peers := Tbl.del s.net.peers l
    peersNext := Tbl.del s.net.peersNext l } }
  let s2 := if s1.regs.get Reg.HIF_DEV_STATUS_STATE = 1 then s1.probeLink 0 l else s1
  if s2.host.descs.any fun d => d.taken && d.opcode == 0x21 then s2.probeLink 1 l else s2

/-- Training ends: the two ends have told each other rank, link number and lanes in LCTRL flits. A link that trains at P or F
becomes UP, unless a step is in progress (R383), one that comes back from down STANDBY; with fewer than two lanes it stays down.
DEDUCED: log entry 30. -/
def execLinkTrainRetry (l peerRank peerLink lanes : Nat) (s : State) : Host.Outcome State Fault Refusal :=
  .next (
    let x := s.link l
    let st := s.linkState l
    let good := match x.injLane with
      | some k => if bitOf (lanes % 16) k then lanes % 16 - 2 ^ k else lanes % 16
      | none => lanes % 16
    if 32 ≤ l ∨ 1 < st ∨ s.fab.powered = false ∨ s.fab.parked = true ∨ s.fab.trip.isSome = true ∨ x.injStopped = true then s
    else if lanesOn good < 2 then
      (s.setRegAt Reg.LNK_LINK_STATUS_STATE l 0).setRegAt Reg.LNK_LINK_STATUS_DOWN_REASON l 3
    else
      let s1 := (s.setLink l { x.fresh with goodSince := s.now }).putFlit l 0 flitLctrl 0 0 (trainMessage l good s.rank) id id
      ((((s1.setRegAt Reg.LNK_LINK_STATUS_STATE l (if st = 1 ∧ s.stepState < 2 then 2 else 3)).setRegAt
        Reg.LNK_LINK_STATUS_LANES l good).setRegAt Reg.LNK_LINK_STATUS_PEER_RANK l peerRank).setRegAt
        Reg.LNK_LINK_STATUS_PEER_LINK l peerLink).askNeighbour l)

/-- RETRANS of every link, where it is not 0. -/
def State.retransNow (s : State) : List (Nat × Nat) :=
  ((List.range 32).map fun l => (l, s.regs.getAt Reg.LNK_LINK_ERR_RETRANS l)).filter fun x => x.2 != 0

/-- Once per second each link's retransmissions are compared with those of a second ago (R396). -/
def execLinkRetryRateCheck (s : State) : Host.Outcome State Fault Refusal :=
  .next (if s.now < s.net.rateAt + 1000000000 then s
    else
      let seen := s.net.retrans
      ({ s with net := { s.net with
        retrans := s.retransNow
        rateAt := s.now } }).each s.retransNow fun s x =>
          if 65536 < x.2 - Tbl.get seen 0 x.1 then s.event 4 St.lnkRetryRate x.1 (x.2 - Tbl.get seen 0 x.1) else s)

end Sys2Proof.Machine
end

