-- ==== Sys2Proof/Machine/Routes.lean ====
section
/-! DEFINITION. Route tables (R378 to R383): loading the standby bank, the route check, arming and making a swap, and
answering a neighbour's probe. -/

namespace Sys2Proof.Machine

/-! ### The route check (R380) -/

/-- Links that an entry names and that run. -/
def State.named (s : State) (e : Nat) : List Nat := (List.range 32).filter fun l => bitOf (routeLinks e) l && s.linkLive l

/-- Does rank `r` meet the conditions on HOPS in a bank? `peers` holds what the neighbours answer, `rankOf` the rank
of each neighbour. -/
def State.hopsOk (s : State) (bank : List (Nat × Nat)) (self : Nat) (peers : List (Nat × List (Nat × Nat)))
    (rankOf : Nat → Nat) (r : Nat) : Bool :=
  let e := routeEntry bank self r
  let h := routeHops e
  if r = self ∨ h = 0 then true
  else if h = 1 then (s.named e).all fun l => rankOf l == r
  else (s.named e).all fun l => Tbl.get (Tbl.get peers [] l) 0 r + 1 == h

/-- The lowest of `n` ranks from `r` on that breaks the conditions on HOPS. -/
def State.firstLoop (s : State) (bank : List (Nat × Nat)) (self : Nat) (peers : List (Nat × List (Nat × Nat)))
    (rankOf : Nat → Nat) : Nat → Nat → Option Nat
  | 0, _ => none
  | n + 1, r => if s.hopsOk bank self peers rankOf r then s.firstLoop bank self peers rankOf n (r + 1) else some r

/-- The code and the rank that the check fails with, if it does: a loop at the lowest rank, then a route to the own
rank. -/
def State.routeCheck (s : State) (bank : List (Nat × Nat)) (self : Nat) (peers : List (Nat × List (Nat × Nat)))
    (rankOf : Nat → Nat) : Option (Nat × Nat) :=
  match s.firstLoop bank self peers rankOf (2 ^ 20) 0 with
  | some r => some (St.cfgRouteLoop, r)
  | none => if routeLinks (routeEntry bank self self) = 0 then none else some (St.cfgDupRank, self)

def State.peerRank (s : State) (l : Nat) : Nat := s.regs.getAt Reg.LNK_LINK_STATUS_PEER_RANK l

/-- The rank that this module will hold after the swap (R36, R383). -/
def State.nextRank (s : State) : Nat :=
  if s.regs.flag Reg.FAB_SELF_RANK_NEXT_VALID then s.regs.get Reg.FAB_SELF_RANK_NEXT else s.rank

/-- A probe over every link that runs: bank 0 is the active one, 1 the standby one. DEDUCED: log entry 31. -/
def State.probe (s : State) (bank : Nat) : State :=
  let s1 := if bank = 0 then { s with net := { s.net with peers := [] } } else { s with net := { s.net with peersNext := [] } }
  s1.each ((List.range 32).filter s.linkLive) fun s l => s.probeLink bank l

/-- Have the neighbours of all the links that run answered? -/
def State.answered (s : State) (peers : List (Nat × List (Nat × Nat))) : Bool :=
  ((List.range 32).filter s.linkLive).all fun l => decide (answerBytes ≤ Tbl.get (Tbl.get peers [] l) 0 (2 ^ 20))

/-! ### Answering a probe (R380) -/

/-- HOPS of `n` ranks from `r`, packed five bits each. -/
def packHops (bank : List (Nat × Nat)) (self r n : Nat) : List Byte :=
  let w := (List.range n).foldl (fun acc i =>
    acc + routeHops (routeEntry bank self (r + i)) * 2 ^ (5 * i)) 0
  leBytes ((5 * n + 7) / 8) w

/-- Ranks per packet of an answer. -/
def ranksPerAnswer : Nat := 6528

/-- ROUTE_PROBE (R380): A route probe arrives and the module answers with the HOPS of every rank in its bank. -/
def execRouteProbe (l : Nat) (s : State) : Host.Outcome State Fault Refusal :=
  .next (s.onCtrl l CT.probe fun s p =>
    let k := leNat ((p.data.drop 1).take 1)
    let bank := if k = 0 then s.net.active else s.net.standby
    let self := if k = 0 then s.rank else s.nextRank
    s.each (List.range ((2 ^ 20 + ranksPerAnswer - 1) / ranksPerAnswer)) fun s i =>
      let r := i * ranksPerAnswer
      s.sendOver l p.src (leBytes 1 CT.answer ++ leBytes 1 k ++ leBytes 2 0 ++ leBytes 4 (r * 5 / 8) ++ leBytes 4 self ++
        packHops bank self r (min ranksPerAnswer (2 ^ 20 - r))))

/-! ### Loading the standby bank (R381) -/

/-- The bits of a route entry that are not reserved (Table 10.8). -/
def routeBits : Nat := (2 ^ 37 - 1) + (2 ^ 21 - 1) * 2 ^ 40

/-- The bank that an image holds, without its reserved bits (R5): only entries that are not zero are listed. -/
def bankOf (b : List Byte) (n : Nat) : List (Nat × Nat) :=
  ((List.range n).map fun i => (i, leNat ((b.drop (8 * i)).take 8) &&& routeBits)).filter fun x => x.2 != 0

/-- ROUTE_LOAD (R381): A ROUTE_LOAD writes a route image into the standby bank and clears any armed swap. One that meets a bus
error changes nothing (R551). -/
def execRouteLoad (r j : Nat) (v : HostView) (s : State) : Host.Outcome State Fault Refusal :=
  .next (
    if s.net.loading.isSome then s
    else s.onDesc r j 0x20 fun s d =>
      let a := d.n 0 8
      let n := d.n 8 2
      let size := 8 * (2048 + n)
      match s.judge .image a size with
      | some e => s.finish r j e
      | none =>
        if a % 64 ≠ 0 ∨ 4096 < n then s.finish r j St.paramCode
        else if s.localOpen a size = false then s
        else
          let g := (s.take r j).fetch v a size
          let out : Nat × List (Nat × Nat) :=
            if g.err then (St.strReadErr, s.net.standby)
            else if g.poison then (St.poisonConsumed, s.net.active)
            else (St.ok, bankOf g.data (2048 + n))
          let s1 := if g.err then g.st
            else (g.st.setReg Reg.LNK_ROUTE_STATUS_ARMED 0).setReg Reg.LNK_ROUTE_ARMED_STEP 0
          { s1 with net := { s1.net with loading := some (r, j, out.1, out.2) } })

/-- The read of the image has ended. -/
def execRouteLoadDone (s : State) : Host.Outcome State Fault Refusal :=
  .next (match s.net.loading with
    | none => s
    | some (r, j, st, bank) =>
      ({ s with net := { s.net with
        standby := bank
        loading := none } }).complete r j st (if st = St.poisonConsumed then 16 else 0) 0)

/-! ### Arming a swap (R382) -/

/-- The step in progress. -/
def State.stepNow (s : State) : Option Nat :=
  if 2 ≤ s.stepState then some (s.regs.get Reg.TRN_STEP_NUM_STEP) else none

/-- ROUTE_ARM is taken and the neighbours are asked; once all have answered, it is carried out. DEDUCED: log entry 31. -/
def execRouteArm (r j : Nat) (s : State) : Host.Outcome State Fault Refusal :=
  .next (match s.working r j 0x21 with
    | some d =>
      if s.answered s.net.peersNext = false then s
      else
        (match s.routeCheck s.net.standby s.nextRank s.net.peersNext fun l =>
            Tbl.get (Tbl.get s.net.peersNext [] l) (s.peerRank l) (2 ^ 20 + 1) with
         | some (st, rank) => s.complete r j st 0 rank
         | none =>
           ((s.setReg Reg.LNK_ROUTE_STATUS_ARMED 1).setReg Reg.LNK_ROUTE_ARMED_STEP (d.n 0 8)).finish r j St.ok)
    | none => s.onDesc r j 0x21 fun s d =>
      let late := match s.stepNow with
        | some n => decide (d.n 0 8 ≤ n)
        | none => false
      if late then s.finish r j St.paramCode else (s.take r j).probe 1)

/-! ### The swap (R383) -/

/-- STANDBY links become UP. -/
def State.raiseLinks (s : State) : State :=
  s.each (List.range 32) fun s l => if s.linkState l = 3 then s.setRegAt Reg.LNK_LINK_STATUS_STATE l 2 else s

/-- Links and lanes that injection has stopped resume where MODE is 0 again (R392). -/
def State.resumeLinks (s : State) : State :=
  { s with net := { s.net with links := Tbl.mapVals (fun l x =>
      if s.injMode l = 0 then { x with
        injStopped := false
        injLane := none } else x) s.net.links } }

/-- Exchange the banks, take the new rank and tell the neighbours; the standby bank takes a copy of the active one
(R381). DEDUCED: log entry 31. -/
def State.swapRoutes (s : State) : State :=
  let self := s.nextRank
  let s1 := { s with net := { s.net with
    active := s.net.standby
    standby := s.net.standby
    peers := s.net.peersNext
    peersNext := []
    sendOrder := []
    recvOrder := [] } }
  let s2 := ((((s1.setReg Reg.FAB_SELF_RANK_RANK self).setReg Reg.FAB_SELF_RANK_NEXT_VALID 0).setReg
    Reg.LNK_ROUTE_STATUS_ARMED 0).setReg Reg.LNK_ROUTE_ARMED_STEP 0).addReg Reg.LNK_ROUTE_STATUS_SWAPS 1
  s2.each ((List.range 32).filter s2.linkLive) fun s l =>
    let x := s.link l
    s.setLink l { x with lctrl := x.lctrl ++ [rankMessage self] }

/-- What a release does to the links: the armed swap when it is for this step, and STANDBY links become UP. -/
def State.releaseLinks (s : State) (n : Nat) : State :=
  let s1 := if s.regs.flag Reg.LNK_ROUTE_STATUS_ARMED ∧ s.regs.get Reg.LNK_ROUTE_ARMED_STEP = n then s.swapRoutes else s
  s1.resumeLinks.raiseLinks

end Sys2Proof.Machine
end

