-- ==== Sys2Proof/Machine/Packets.lean ====
section
/-! DEFINITION. Packets that have arrived (R371 to R377): writes, reads and their answers, forwarding, UNREACHABLE. -/

namespace Sys2Proof.Machine

/-! ### Writes (R371, R375) -/

/-- The module's own address that a packet's ADDR names, when a peer may reach it: tile or stacked memory. -/
def State.peerTarget (s : State) (p : Packet) : Option Nat :=
  let a := s.rank * 2 ^ 44 + p.addr
  match s.judge ⟨[0, 1], true⟩ a p.len with
  | none => some a
  | some _ => none

/-- Does the packet's access to stacked memory wait for a request slot (R259)? It keeps its receive slots meanwhile. -/
def State.peerWaits (s : State) (p : Packet) : Bool :=
  match s.peerTarget p with
  | some a => !s.localOpen a p.len
  | none => false

/-- A packet of a reserved kind is discarded and counted; a WRITE is applied and acknowledged, with an error when its
CRC or its address fails. -/
def execPacketReceive (l : Nat) (s : State) : Host.Outcome State Fault Refusal :=
  .next (match s.arrived l fun p => p.dst == s.rank && (p.kind == PK.write || decide (10 ≤ p.kind)) with
    | none => s
    | some a =>
      let p := a.pkt
      let s0 := s.consume l a
      if 10 ≤ p.kind then s0.addRegAt Reg.LNK_LINK_ERR_CRC_FAIL l 1
      else if s.peerWaits p then s
      else
        let s1 := s0.checkCrc l p
        match s1.peerTarget p with
        | none => s1.sendWack p.src p.tid p.tseq true
        | some x => (s1.put x p.pbytes).sendWack p.src p.tid p.tseq (!p.good))

/-- Write acknowledgements count for the transfer they belong to. One that fails its own CRC counts as an error. -/
def execWack (l : Nat) (s : State) : Host.Outcome State Fault Refusal :=
  .next (s.onPacket l PK.wack fun s p =>
    match s.txn p.tid p.tseq with
    | none => s
    | some t =>
      if t.read ∨ t.rank ≠ p.src then s
      else if p.good = false ∨ leNat (p.data.take 1) ≠ 0 then s.failTxn p.tid p.tseq
      else
        let s1 := s.answerTxn t
        match t.owner with
        | .xfer ch id slot => s1.setChan ch ((s1.chan ch).ack id slot false)
        | _ => s1)

/-! ### Reads (R374) -/

/-- The channel of the transfer that a READ_REQ belongs to (R374). DESIGN CHOICE: log entry 29. -/
def Packet.answerVc (p : Packet) : Nat := if p.poison ≤ 4 then p.poison else VC.gather

/-- A READ_REQ is answered with the bytes, or with an error, which is an answer of no bytes. -/
def execReadReq (l : Nat) (s : State) : Host.Outcome State Fault Refusal :=
  .next (if (s.arrived l fun p => p.kind == PK.readReq && p.dst == s.rank).any fun a => s.peerWaits a.pkt then s
    else s.onPacket l PK.readReq fun s p =>
    let answer := fun (s : State) (bs : List PByte) =>
      s.sendPacket p.answerVc (s.packet p.src PK.readResp p.addr p.tid p.tseq bs false p.last)
    match s.peerTarget p with
    | none => answer s []
    | some a =>
      if p.good = false then answer s []
      else
        let g := s.get ⟨[], [], [], []⟩ a p.len
        answer g.st g.bytes)

/-- Put what a peer has returned into the transfer that asked for it. -/
def Xfer.take (x : Xfer) (off : Nat) (bs : List PByte) : Xfer :=
  { x with
    readData := bs.zipIdx.foldl (fun t b => Tbl.put t (off + b.2) b.1) x.readData
    reads := x.reads - 1 }

/-- Would the slots that this answer lets write wait for request slots (R259)? -/
def State.respWaits (s : State) (p : Packet) : Bool :=
  match s.txn p.tid p.tseq with
  | some t =>
    (match t.owner with
     | .xfer ch id _ =>
       (match (s.chan ch).busy with
        | some x =>
          (match x.job with
           | .stream d => x.id == id && (List.range x.granted).any fun k => decide (x.moved ≤ k) && !s.slotOpen x d k
           | .step _ => false
           | .object _ => false)
        | none => false)
     | _ => false)
  | none => false

/-- A READ_RESP brings its data, or its error, to the requesting transfer. -/
def execReadResp (l : Nat) (v : HostView) (s : State) : Host.Outcome State Fault Refusal :=
  .next (if (s.arrived l fun p => p.kind == PK.readResp && p.dst == s.rank).any fun a => s.respWaits a.pkt then s
    else s.onPacket l PK.readResp fun s p =>
    match s.txn p.tid p.tseq with
    | none => s
    | some t =>
      if t.read = false ∨ t.rank ≠ p.src then s
      else match t.owner with
        | .xfer ch id slot =>
          if p.len = 0 then (s.failTxn p.tid p.tseq).flush v ch
          else
            let s1 := s.answerTxn t
            let c := s1.chan ch
            let c1 := c.readDone id slot
            (s1.setChan ch { c1 with
              busy := c1.busy.map fun x => if x.id = id then x.take (t.place p.tseq) p.pbytes else x }).flush v ch
        | _ => s.answerTxn t)

/-! ### Transit (R377) -/

/-- A packet for another rank is passed on with its hop class one higher, or discarded with UNREACHABLE to its source. -/
def execPacketForward (l : Nat) (s : State) : Host.Outcome State Fault Refusal :=
  .next (match s.arrived l fun p => p.dst != s.rank with
    | none => s
    | some a =>
      let p := a.pkt
      let s0 := s.consume l a
      if 16 ≤ p.hop then s0.sendUnreachable p
      else s0.passOn a.vc { p with hop := p.hop + 1 })

/-- An UNREACHABLE reaches the source: the packet's transfer meets a bus error, a message is lost, a gate party is
lost. It names the packet's kind, destination and first data byte. -/
def execUnreachable (l : Nat) (s : State) : Host.Outcome State Fault Refusal :=
  .next (s.onPacket l PK.unreachable fun s p =>
    let kind := leNat (p.data.take 1)
    let dst := leNat ((p.data.drop 1).take 4)
    let code := leNat ((p.data.drop 5).take 1)
    if p.good = false then s
    else if kind = PK.message then s.lostMessage dst (p.tseq % 2 ^ 16)
    else
      let s1 := s.event 4 St.lnkUnreachable 0 dst
      if kind = 0 ∨ kind = 1 ∨ kind = 5 ∨ kind = 6 then s1.failTxn p.tid p.tseq
      else if kind = PK.ctrl ∧ (code = CT.vote ∨ code = CT.decision ∨ code = CT.heartbeat) then s1.partyLost dst
      else s1)

end Sys2Proof.Machine
end

