-- ==== Sys2Proof/Machine/Gradient.lean ====
section
/-! DEFINITION. Gradient encodings (R420 to R427): a block encoded with error feedback, its form on the wire, and its
decoding. -/

namespace Sys2Proof.Machine

/-- A value with the poison of what it came from. -/
abbrev PVal := Val × Bool

/-- Elements of a block (R420). -/
def gradBlock : Nat := 4096

/-- Chunk length in elements (R424). -/
def gradChunk (e p : Nat) : Nat := 4096 * ((e + 4096 * p - 1) / (4096 * p))

/-- ENC codes (Table 11.12). -/
def encTopk (enc : Nat) : Bool := enc == 2 || enc == 3
def encBf16 (enc : Nat) : Bool := enc == 1 || enc == 3

/-! ### Choosing the largest (R421) -/

/-- Does `a` come before `b` among the largest: NaN first, then the larger magnitude, then the lower index? -/
def topBefore (a b : Val × Nat) : Bool :=
  let lower := decide (a.2 ≤ b.2)
  if a.1.isNaN ∨ b.1.isNaN then (a.1.isNaN && (!b.1.isNaN || lower))
  else if Val.lt b.1.abs a.1.abs then true
  else if Val.lt a.1.abs b.1.abs then false
  else lower

/-- The indices of the `k` largest, in ascending order. -/
def topIndices (v : List Val) (k : Nat) : List Nat :=
  let best := ((v.zipIdx.mergeSort topBefore).take k).map Prod.snd
  (List.range v.length).filter best.contains

/-! ### Encoding (R421, R422) -/

/-- What the draws of a block are made with: seed, step, object id of g, and the linear index of its first element. -/
structure GradDraw where
  seed : Nat
  step : Nat
  tensor : Nat
  x0 : Nat
  deriving DecidableEq, Repr

def GradDraw.u (d : GradDraw) (i j : Nat) : Nat :=
  draw d.seed (drawCounter d.step 3 d.tensor ((d.x0 + i) % 2 ^ 40 * 2 ^ 32 + j))

/-- A value rounded to BF16 in SR. -/
def srBf16 (v : Val) (u : Nat) : Val × Flags := Layout.bf16.round .sr u false v

/-- An encoded block: the values that the owner will decode, the indices sent, the wire bytes, and the flags raised. -/
structure GradBlock where
  w : List Val
  wire : List Byte
  flags : Flags
  deriving DecidableEq, Repr

/-- The 12-bit index string, padded to 16 bytes with what stands before it. -/
def packIndices (before : Nat) (idx : List Nat) : List Byte :=
  let n := (12 * idx.length + 7) / 8
  let w := idx.zipIdx.foldl (fun acc x => acc + x.1 * 2 ^ (12 * x.2)) 0
  leBytes n w ++ List.replicate ((16 - (before + n) % 16) % 16) 0

def wireValue (enc : Nat) (v : Val) : List Byte :=
  if encBf16 enc then leBytes 2 (Layout.bf16.encode v) else leBytes 4 (enc32 v)

/-- Encode the rounded sums of a block. -/
def encodeValues (d : GradDraw) (enc k : Nat) (v : List Val) : GradBlock :=
  match enc with
  | 4 =>
    let a := v.foldl (fun (acc : Val × Flags) x => let r := addWide acc.1 x.abs; (r.1, acc.2 ||| r.2)) (Val.zero, 0)
    let q := Val.div a.1 (Val.ofInt v.length 0)
    let c := rne32 q.1
    let neg := fun (x : Val) => Val.lt x Val.zero
    let bits := v.zipIdx.foldl (fun acc x => if neg x.1 then acc + 2 ^ x.2 else acc) 0
    let n := (v.length + 7) / 8
    ⟨v.map fun x => if neg x then c.1.negate else c.1,
     leBytes 4 (enc32 c.1) ++ List.replicate 12 0 ++ leBytes n bits ++ List.replicate ((16 - n % 16) % 16) 0,
     a.2 ||| q.2 ||| c.2⟩
  | _ =>
    let r := v.zipIdx.map fun x => if encBf16 enc then srBf16 x.1 (d.u x.2 0) else (x.1, 0)
    if encTopk enc then
      let s := topIndices v k
      let w := r.zipIdx.map fun x => if s.contains x.2 then x.1.1 else Val.zero
      let vals := s.flatMap fun i => wireValue enc ((w[i]?).getD Val.zero)
      ⟨w, vals ++ packIndices vals.length s, s.foldl (fun f i => f ||| ((r[i]?).getD (Val.zero, 0)).2) 0⟩
    else ⟨r.map Prod.fst, r.flatMap fun x => wireValue enc x.1, r.foldl (fun f x => f ||| x.2) 0⟩

/-- Encode one block: the sums of g and r, and the residuals that stay behind, as bits of the residual format. Where what is sent
of an element depends on the whole block (SIGN's scale, the choice of the top-k encodings), so does its residual's poison (R79,
R421). -/
def encodeBlock (d : GradDraw) (enc k : Nat) (g r : List PVal) (res : Option Fmt) :
    GradBlock × List (Nat × Bool) × Bool :=
  let sums := (g.zip r).map fun x =>
    let a := Val.add x.1.1 x.2.1
    let b := rne32 a.1
    ((b.1, x.1.2 || x.2.2), a.2 ||| b.2)
  let v := sums.map fun x => x.1.1
  let b := encodeValues d enc k v
  let back := (v.zip b.w).zipIdx.map fun x =>
    let e := Val.add x.1.1 x.1.2.negate
    match res with
    | some .bf16 => let q := srBf16 e.1 (d.u x.2 1); (Layout.bf16.encode q.1, e.2 ||| q.2)
    | some _ => let q := rne32 e.1; (enc32 q.1, e.2 ||| q.2)
    | none => (0, 0)
  let fl := sums.foldl (fun f x => f ||| x.2) (b.flags ||| if res.isSome then back.foldl (fun f x => f ||| x.2) 0 else 0)
  let any := sums.any fun x => x.1.2
  ({ b with flags := fl }, (back.zip sums).map fun x => (x.1.1, x.2.1.2 || (any && decide (2 ≤ enc))), any)

/-! ### Decoding -/

/-- Wire bytes of a block of `l` elements. -/
def wireLen (enc k l : Nat) : Nat :=
  let n := min k l
  let pad := fun x => (x + 15) / 16 * 16
  match enc with
  | 0 => 4 * l
  | 1 => 2 * l
  | 2 => pad (4 * n + (12 * n + 7) / 8)
  | 3 => pad (2 * n + (12 * n + 7) / 8)
  | _ => 16 + pad ((l + 7) / 8)

/-- The elements that a wire block stands for. -/
def decodeWire (enc k l : Nat) (b : List Byte) : List Val :=
  let size := if encBf16 enc then 2 else 4
  let val := fun i =>
    let w := leNat ((b.drop (size * i)).take size)
    if encBf16 enc then Layout.bf16.decode w else val32 w
  match enc with
  | 4 =>
    let c := val32 (leNat (b.take 4))
    let bits := leNat (b.drop 16)
    (List.range l).map fun i => if bits.testBit i then c.negate else c
  | _ =>
    if encTopk enc then
      let n := min k l
      let idx := leNat ((b.drop (size * n)).take ((12 * n + 7) / 8))
      let sent := (List.range n).map fun j => (bitsOf idx (12 * j + 11) (12 * j), val j)
      (List.range l).map fun i => ((sent.find? fun x => x.1 == i).map Prod.snd).getD Val.zero
    else (List.range l).map val

/-- Lengths of the blocks of a chunk of `n` elements. -/
def blockLens (n : Nat) : List Nat := (List.range ((n + 4095) / 4096)).map fun b => min 4096 (n - 4096 * b)

/-- The elements of a whole contribution after its header; each carries the poison of its wire block. -/
def decodeBlocks (enc k : Nat) : List Nat → List PByte → List PVal
  | [], _ => []
  | l :: r, b =>
    let n := wireLen enc k l
    let p := (b.take n).any Prod.snd
    (decodeWire enc k l ((b.take n).map Prod.fst)).map (fun v => (v, p)) ++ decodeBlocks enc k r (b.drop n)

/-! ### The header (Table 11.14) -/

structure GradHead where
  seq : Nat
  enc : Nat
  empty : Bool
  poison : Bool
  k : Nat
  position : Nat
  mbs : Nat
  blocks : Nat
  step : Nat
  deriving DecidableEq, Repr

def GradHead.bytes (h : GradHead) : List Byte :=
  leBytes 4 h.seq ++ leBytes 1 h.enc ++ leBytes 1 ((if h.empty then 1 else 0) + (if h.poison then 2 else 0)) ++
    leBytes 2 h.k ++ leBytes 4 h.position ++ leBytes 2 h.mbs ++ leBytes 2 0 ++ leBytes 4 h.blocks ++ leBytes 4 0 ++
      leBytes 8 h.step

def GradHead.parse (b : List Byte) : GradHead :=
  let n := fun i k => leNat ((b.drop i).take k)
  ⟨n 0 4, n 4 1 % 8, n 5 1 % 2 == 1, n 5 1 / 2 % 2 == 1, n 6 2, n 8 4, n 12 2, n 16 4, n 24 8⟩

/-! ### The owner's sum (R426) -/

/-- Fold one contribution into the running sums. -/
def foldContribution (s : List PVal) (d : List PVal) : List PVal × Flags :=
  let r := (s.zip d).map fun x =>
    let a := Val.add x.1.1 x.2.1
    let b := rne32 a.1
    ((b.1, x.1.2 || x.2.2), a.2 ||| b.2)
  (r.map Prod.fst, r.foldl (fun f x => f ||| x.2) 0)

/-- The stored values: the mean when the chain ends, else the sum. -/
def chainStore (final : Bool) (n : Nat) (s : List PVal) : List PVal × Flags :=
  if final = false then (s, 0)
  else if n = 0 then (s.map fun x => (Val.zero, x.2), 0)
  else
    let r := s.map fun x =>
      let q := Val.div x.1 (Val.ofInt n 0)
      let b := rne32 q.1
      ((b.1, x.2), q.2 ||| b.2)
    (r.map Prod.fst, r.foldl (fun f x => f ||| x.2) 0)

end Sys2Proof.Machine
end

