-- ==== Sys2Proof/Machine/Drops.lean ====
section
/-! DEFINITION. The drop mask and the event log of a step (R411 to R414, R433), and the abort of a step by this module
(R429). -/

namespace Sys2Proof.Machine

/-! ### Aborting for a reason of its own (R429) -/

/-- This module aborts the step: the others learn it through the gate, unless the step has none. DEDUCED: log entry 37. -/
def State.abortStep (s : State) (reason : Nat) : State :=
  let n := s.stepNumber
  let s1 : State :=
    if s.decidable n = false ∨ s.gate.decided = true then s
    else if s.isRoot then
      (s.each s.gate.children fun s p => s.ctrl p.rank (decisionData false n)).setGate
        { s.gate with decided := true }
    else s.sendVote (voteData 2 0 s.rank 0 n 0)
  s1.beginAbort reason

/-! ### The mask -/

def dropWord (mask : List Nat) : Nat := mask.foldl (fun w m => w + 2 ^ m) 0

/-- The mask as 8 KiB: bit m for micro-batch m. -/
def dropBytes (mask : List Nat) : List Byte := leBytes 8192 (dropWord mask)

/-- The ids set in 8 KiB of mask. -/
def dropIds (b : List Byte) : List Nat :=
  b.zipIdx.flatMap fun x => ((List.range 8).filter fun i => x.1.toNat.testBit i).map fun i => 8 * x.2 + i

def State.frozen (s : State) : Bool := s.regs.flag Reg.TRN_STEP_STATUS_FROZEN

/-- Bits that another member has sent (cause SYNC). -/
def State.syncBits (s : State) (ids : List Nat) : State :=
  { s with step := { s.step with mask := NSet.addAll s.step.mask ids } }

/-! ### The log -/

/-- The order of R433. -/
def LogRec.before (a b : LogRec) : Bool :=
  decide (a.kind < b.kind) ||
    (a.kind == b.kind && (decide (a.arg0 < b.arg0) || (a.arg0 == b.arg0 && decide (a.arg1 ≤ b.arg1))))

def sortLog (l : List LogRec) : List LogRec := (l.mergeSort LogRec.before).eraseDups

/-- Add an entry, in its place once the log is frozen; a log that is full aborts the step. -/
def State.logEvent (s : State) (e : LogRec) : State :=
  if 4096 ≤ s.step.log.length then s.abortStep 3
  else
    let s1 := { s with step := s.step.addLog e }
    if s.frozen then { s1 with step := { s1.step with log := sortLog s1.step.log } } else s1

/-! ### Local causes (R411, R413, R435) -/

/-- Entry `i` of a step record's log. -/
def recordLog (b : List Byte) (i : Nat) : LogRec :=
  let n := fun k m => leNat ((b.drop (9216 + 16 * i + k)).take m)
  ⟨n 0 1, n 1 1, n 4 4, n 8 4⟩

def recordLogs (b : List Byte) : List LogRec := (List.range (min 4096 (leNat ((b.drop 124).take 4)))).map (recordLog b)

/-- The original record, in a replay. -/
def State.original (s : State) : Option (List Byte) :=
  match s.step.run with
  | some r => if r.cfg.replay then some r.cfg.original else none
  | none => none

/-- A replay meets a difference: it is posted, and the record will say so. -/
def State.diverge (s : State) (detail : Nat) : State :=
  { s.event 9 St.replayDiverged 0 detail with
    step := { s.step with run := s.step.run.map fun r => { r with diverged := true } } }

/-- A local cause drops one micro-batch. -/
def State.dropBit (s : State) (cause id : Nat) : State :=
  if s.stepState ≠ 2 ∨ 65536 ≤ id ∨ NSet.has s.step.mask id = true then s
  else
    let e : LogRec := ⟨1, cause, id, s.rank⟩
    match s.original with
    | some b => if (recordLogs b).contains e then
        { s with step := { (s.step.addLog e) with mask := NSet.add s.step.mask id } } else s.diverge id
    | none =>
      if s.step.closed then s.abortStep 5
      else
        let s1 := { s with step := { s.step with mask := NSet.add s.step.mask id } }
        (s1.event 9 St.mbDropped 0 id).logEvent e

def State.dropBits (s : State) (cause : Nat) (ids : List Nat) : State := s.each ids fun s id => s.dropBit cause id

/-- The mask freezes (R413, R414): the log is sorted, and too large a share of drops aborts the step. -/
def State.freezeMask (s : State) : State :=
  let s1 := { s.setFlag Reg.TRN_STEP_STATUS_FROZEN true with step := { s.step with
    closed := true
    log := sortLog s.step.log } }
  let total := match s.step.run with
    | some r => r.cfg.mbTotal
    | none => 0
  if s.regs.get Reg.TRN_LIMITS_DROP_SHARE * total < s.step.mask.length * 256 then s1.abortStep 2 else s1

end Sys2Proof.Machine
end

