-- ==== Sys2Proof/Machine/Erasure.lean ====
section
/-! DEFINITION. The arithmetic of the parity groups (R481, R483): GF(2^8) and the coefficients that rebuild an erased
string from the surviving ones. -/

namespace Sys2Proof.Machine

/-- Multiply by g = 0x02 modulo x^8 + x^4 + x^3 + x^2 + 1. -/
def gfDouble (a : Nat) : Nat := if a < 128 then 2 * a else (2 * a) ^^^ 0x11D

/-- Multiply: the bits of `b` from the lowest, `n` of them. -/
def gfMulBits : Nat → Nat → Nat → Nat
  | 0, _, _ => 0
  | n + 1, a, b => (if b % 2 = 1 then a else 0) ^^^ gfMulBits n (gfDouble a) (b / 2)

def gfMul (a b : Nat) : Nat := gfMulBits 8 a b

/-- g^n. -/
def gfPow : Nat → Nat
  | 0 => 1
  | n + 1 => gfDouble (gfPow n)

/-- a^n. -/
def gfExp (a : Nat) : Nat → Nat
  | 0 => 1
  | n + 1 => gfMul a (gfExp a n)

/-- 1/a, which is a^254. -/
def gfInv (a : Nat) : Nat := gfExp a 254

/-- What survivor `i` of a group multiplies its string by toward data string `x`, when the positions `erased`, `x` among
them, are lost: at most two of the eighteen. -/
def dataCoeff (erased : List Nat) (x i : Nat) : Nat :=
  if erased.contains i then 0
  else match erased.find? fun y => decide (y < 16 ∧ y ≠ x) with
    | some y =>
      let d := gfInv (gfPow x ^^^ gfPow y)
      if i < 16 then gfMul d (gfPow y ^^^ gfPow i) else if i = 16 then gfMul d (gfPow y) else d
    | none =>
      if erased.contains 16 = false then (if i = 17 then 0 else 1)
      else if i = 16 then 0
      else gfMul (gfInv (gfPow x)) (if i = 17 then 1 else gfPow i)

/-- What survivor `i` multiplies its string by toward string `want`, data or parity. -/
def rebuildCoeff (erased : List Nat) (want i : Nat) : Nat :=
  if want < 16 then dataCoeff erased want i
  else if erased.contains i then 0
  else
    let g := fun k => if want = 16 then 1 else gfPow k
    let own := if i < 16 then g i else 0
    match erased.find? fun y => decide (y < 16) with
    | some y => own ^^^ gfMul (g y) (dataCoeff erased y i)
    | none => own

/-- A byte times a coefficient. -/
def scaleByte (c : Nat) (b : Byte) : Byte :=
  if c = 0 then 0 else if c = 1 then b else BitVec.ofNat 8 (gfMul c b.toNat)

/-- Add a survivor's bytes, times its coefficient, to a partial. Poison of what has weight spreads. -/
def addScaled (part : List PByte) (c : Nat) (own : List PByte) : List PByte :=
  (part.zip own).map fun x => (x.1.1 ^^^ scaleByte c x.2.1, x.1.2 || (c != 0 && x.2.2))

/-! ### Erased positions of a group (R484, R487) -/

/-- Positions of a parity group whose ranks are absent. -/
def State.erased (s : State) (g : PGroup) : List Nat :=
  (List.range 18).filter fun i => match g.ranks[i]? with
    | some r => s.res.absent.any fun a => a.active && a.rank == r
    | none => false

/-- The side of the training state that the step in progress reads (R415, R431). -/
def State.readSide (s : State) : Nat :=
  let n := s.regs.get Reg.TRN_STEP_NUM_STEP
  if s.evalStep then n % 2 else (n + 1) % 2

/-! ### PARITY packets

The spec gives their content and not their layout. The model names a partial by piece [15:0], kind [19:16], position being
rebuilt [24:20], start [28:25] and group [60:29]: ADDR holds bits 43 to 0 of that name, and the places of the partial's packets,
their TSEQ, count on from 1,024 times the bits above. -/

namespace PT
/-- The parity update: P and Q partials. -/
def update (q : Nat) : Nat := q
/-- A fill string of a side. -/
def fill (side : Nat) : Nat := 2 + side
/-- PARITY_INIT: P and Q partials of a side. -/
def init (side q : Nat) : Nat := 4 + 2 * side + q
/-- A piece of a side decoded for a degraded gather or for a repair. -/
def decode (side : Nat) : Nat := 8 + side
end PT

structure PartialHead where
  piece : Nat
  kind : Nat
  want : Nat
  group : Nat
  gen : Nat
  deriving DecidableEq, Repr

/-- DESIGN CHOICE: log entry 29. -/
def PartialHead.addr (h : PartialHead) : Nat :=
  h.piece % 2 ^ 16 + h.kind % 16 * 2 ^ 16 + h.want % 32 * 2 ^ 20 + h.gen % 16 * 2 ^ 25 + h.group % 2 ^ 32 * 2 ^ 29

def PartialHead.parse (a : Nat) : PartialHead :=
  ⟨bitsOf a 15 0, bitsOf a 19 16, bitsOf a 24 20, bitsOf a 60 29, bitsOf a 28 25⟩

/-- Marks partials with the attempt of the step that started them. DEDUCED: log entry 38. -/
def State.partialGen (s : State) : Nat := (4 * s.step.lastStep + s.step.lastAttempt) % 16

/-- Send a partial; one that is all zero travels as a marker of 32 bytes (R482). -/
def State.sendPartial (s : State) (owner : Owner) (rank : Nat) (h : PartialHead) (bs : List PByte) : State :=
  let parts := if bs.all fun b => b == (0, false) then [clean (List.replicate 32 0)] else cutPackets (bs.length / 4096 + 1) bs
  let tid := s.net.nextTid
  let n := parts.length
  let first := h.addr / 2 ^ 44 * 1024
  let s1 := (s.useTids 1).addTxn ⟨tid, first, n, rank, owner, false, n, 0, bs.length⟩
  s1.each parts.zipIdx fun s p =>
    s.sendPacket VC.parity (s.packet rank PK.parity h.addr tid (first + p.2) p.1 false (p.2 + 1 == parts.length))

/-- The name of the partial that a PARITY packet belongs to, and the packet's place in it. DESIGN CHOICE: log entry 29. -/
def Packet.partialName (p : Packet) : Nat := p.addr + p.tseq / 1024 * 2 ^ 44
def Packet.partialPlace (p : Packet) : Nat := p.tseq % 1024

/-- Ranks at the positions of a group. -/
def PGroup.rankAt (g : PGroup) (pos : Nat) : Nat := (g.ranks[pos]?).getD 0

/-! ### Decoding a piece of a lost position (R483, R485, R490)

The position that needs the result sends a zero partial to the first survivor with weight. Each adds its string times its
coefficient and passes the partial on, the last to the position that asked, which adds its own. -/

/-- Positions that the decode of position `want` takes as lost: the absent ones and `want` itself. -/
def State.lostFor (s : State) (g : PGroup) (want : Nat) : List Nat := NSet.add (s.erased g) want

/-- Where a decode goes: to the position itself, or, where its member is absent, to its stand-in, the next present data position
cyclically. -/
def State.decodeGoal (s : State) (g : PGroup) (want : Nat) : Nat :=
  let lost := s.erased g
  if lost.contains want then (((List.range 15).map fun i => (want + 1 + i) % 16).find? fun p => !lost.contains p).getD want
  else want

/-- The first survivor from position `from_` on that adds to the partial on its way. -/
def State.decodeHop (s : State) (g : PGroup) (want from_ : Nat) : Option Nat :=
  let goal := s.decodeGoal g want
  (List.range 18).find? fun i => decide (from_ ≤ i) && i != goal && rebuildCoeff (s.lostFor g want) want i != 0

/-- Pass a decode's partial on, to the next survivor or to its goal. -/
def State.sendDecode (s : State) (owner : Owner) (g : PGroup) (h : PartialHead) (from_ : Nat) (bs : List PByte) : State :=
  s.sendPartial owner (g.rankAt ((s.decodeHop g h.want from_).getD (s.decodeGoal g h.want))) h bs

/-- Two heads that name the same piece, whatever step they were started in. -/
def PartialHead.same (a b : PartialHead) : Bool :=
  a.piece == b.piece && a.kind == b.kind && a.want == b.want && a.group == b.group

/-- Ask the parity group for piece `i` of a side of position `want`, unless it has been asked for or has come. -/
def State.askPiece (s : State) (owner : Owner) (g : PGroup) (want side i : Nat) : State :=
  let h : PartialHead := ⟨i, PT.decode side, want, g.group, s.partialGen⟩
  if NSet.has s.res.asked h.addr ∨ (Tbl.find s.res.decoded h.addr).isSome then s
  else ({ s with res := { s.res with asked := NSet.add s.res.asked h.addr } }).sendDecode owner g h 0
    (clean (List.replicate pieceBytes 0))

/-- The pieces of a gather that have come are of no use once its step has ended; those of a repair stay. -/
def ResSt.dropDecodes (r : ResSt) (own : Nat) : ResSt :=
  let mine := fun (a : Nat) => (PartialHead.parse a).want == own
  { r with
    asked := r.asked.filter mine
    decoded := r.decoded.filter fun x => mine x.1 }

end Sys2Proof.Machine
end

