-- ==== Sys2Proof/Machine/Rings.lean ====
section
/-! DEFINITION. The collective engine's work (R384 to R389, R404, R417, R485): groups, starting an operation, and the
packets of a ring. -/

namespace Sys2Proof.Machine

/-! ### Groups (R384, R385) -/

def State.groupRanks (s : State) (n : Nat) : List Nat :=
  let g := s.groupSlot n
  (List.range g.p).map (s.member g)

/-- The slot checks and the route of every present member. -/
def State.groupRefusal (s : State) (n : Nat) : Option Nat :=
  let g := s.groupSlot n
  if g.p < 2 ∨ 4096 < g.p ∨ g.p ≤ g.self ∨ s.member g g.self ≠ s.rank then some St.collMismatch
  else if (s.groupRanks n).any fun r => !s.absentNow r && !s.hasRoute r then some St.lnkNoRoute
  else none

/-- Positions of a group whose ranks are not absent (R484). -/
def State.presentOf (s : State) (ranks : List Nat) : List Nat :=
  (List.range ranks.length).filter fun i => !s.absentNow ((ranks[i]?).getD 0)

/-- An operation that has been accepted. -/
def State.newColl (s : State) (d : Desc) (kind : CollKind) (chan : Option Nat) (seq group op unit total : Nat)
    (src dst res : Option Tensor) : Coll :=
  let ranks := s.groupRanks group
  { ring := d.ring, index := d.index, kind := kind, chan := chan, seq := seq, group := group, op := op, ranks := ranks
    self := (s.groupSlot group).self, present := s.presentOf ranks, unit := unit, total := total
    src := src, dst := dst, res := res, tid := 0, started := false, heard := [], got := [], parts := []
    sent := false, status := 0, flags := 0, poison := false, due := [] }

def State.addColl (s : State) (c : Coll) : State := { s with step := { s.step with colls := s.step.colls ++ [c] } }

/-! ### Sending -/

/-- Partial sums, masks and contributions travel on REDUCE, copied bytes on GATHER (Table 10.11, R412, R425). -/
def Coll.vc (c : Coll) : Nat := if c.op = 0 ∨ c.op = 3 then VC.reduce else VC.gather

/-- SEQ, group and OP as the packet's ADDR carries them. DESIGN CHOICE: log entry 29. -/
def Coll.addr (c : Coll) : Nat := c.seq + c.group * 2 ^ 32 + c.op * 2 ^ 40

def State.sendPart (s : State) (c : Coll) (dst tseq : Nat) (bs : List PByte) (last : Bool) : State :=
  s.sendPacket c.vc (s.packet dst PK.coll c.addr c.tid tseq bs false last)

/-- Send packets of the ring to the successor, each under its place. -/
def State.sendRing (s : State) (c : Coll) (ps : List (CollPkt × List PByte)) : State :=
  let out := c.outgoing
  s.each ps fun s p =>
    let i := out.idxOf p.1
    s.sendPart c c.succ i p.2 (i + 1 == out.length)

/-- The bytes of a position that the member holds. -/
def Coll.bytesOf (c : Coll) (pos off n : Nat) : List PByte :=
  match c.parts.find? fun p => p.pos == pos && decide (p.off ≤ off) && decide (off + n ≤ p.off + p.data.length) with
  | some p => (p.data.drop (off - p.off)).take n
  | none => []

/-! ### Landing -/

/-- Elements of a tensor as FP32 bytes, each with the poison of its own. -/
def toFp32 (f : Fmt) (bs : List PByte) : List PByte :=
  let n := f.elemBits / 8
  (List.range (bs.length / n)).flatMap fun i =>
    let e := (bs.drop (n * i)).take n
    (leBytes 4 (enc32 (f.decode (leNat (e.map Prod.fst))))).map fun b => (b, e.any Prod.snd)

/-- FP32 bytes stored in a tensor's format, rounded to nearest even (R64, R386). -/
def fromFp32 (f : Fmt) (bs : List PByte) : List PByte × Flags :=
  match f with
  | .fp32 => (bs, 0)
  | _ =>
    let r := (List.range (bs.length / 4)).map fun i =>
      let e := (bs.drop (4 * i)).take 4
      let x := f.store .rne 0 false (val32 (leNat (e.map Prod.fst)))
      ((leBytes (f.elemBits / 8) x.1).map fun b => (b, e.any Prod.snd), x.2)
    (r.flatMap Prod.fst, r.foldl (fun a x => a ||| x.2) 0)

/-- Write bytes of the result at an address, under the destination's poison policy. -/
def State.putResult (s : State) (c : Coll) (a : Nat) (bs : List PByte) : State × Coll :=
  let bad := bs.any Prod.snd
  let s1 := s.policy (if c.poison then none else c.dst) 4 0 [⟨0, a, bs⟩]
  (s1.put a bs, { c with poison := c.poison || bad })

/-- Write a packet's bytes where they land; a carriage's tag is kept apart. -/
def State.landPart (s : State) (c : Coll) (p : CollPkt) (bs : List PByte) : State × Coll :=
  match c.dst with
  | none => (s, c)
  | some d =>
    let x := c.landing d p
    match c.kind with
    | .reduceScatter =>
      let r := fromFp32 ((Fmt.ofCode d.fmt).getD .fp32) bs
      s.putResult { c with flags := c.flags ||| r.2.toNat } x.1 r.1
    | .gather =>
      let c1 := if p.off = 0 then { c with parts := c.parts ++ [⟨p.origin, 2 ^ 60, bs.take 16⟩] } else c
      s.putResult c1 x.1 (bs.drop (16 - p.off))
    | _ => s.putResult c x.1 bs

/-! ### Sums (R386) -/

/-- What a reduce-scatter's additions round with: mode, seed, step, the destination's object, and the number of terms. -/
structure SumMode where
  sr : Bool
  seed : Nat
  step : Nat
  object : Nat
  deriving DecidableEq, Repr

/-- Add term `k` to the sums of the elements from linear index `x0` on; a poisoned term or sum taints the sum and sets
PZ (R79). -/
def addTerm (m : SumMode) (x0 k : Nat) (a b : List PByte) : List PByte × Flags :=
  let r := (List.range (a.length / 4)).map fun i =>
    let e := fun (l : List PByte) => (l.drop (4 * i)).take 4
    let v := fun (l : List PByte) => val32 (leNat ((e l).map Prod.fst))
    let sum := Val.add (v a) (v b)
    let u := draw m.seed (drawCounter m.step 2 m.object ((x0 + i) % 2 ^ 40 * 2 ^ 32 + k))
    let q := if m.sr then Layout.fp32.round .sr u false sum.1 else rne32 sum.1
    let bad := (e a).any Prod.snd || (e b).any Prod.snd
    ((leBytes 4 (enc32 q.1)).map fun y => (y, bad), sum.2 ||| q.2 ||| if bad then Flags.pz else 0)
  (r.flatMap Prod.fst, r.foldl (fun f x => f ||| x.2) 0)

/-- How this member's reduce-scatter rounds. -/
def State.sumMode (s : State) (c : Coll) : SumMode :=
  match s.host.desc c.ring c.index with
  | some d => ⟨d.n 30 1 % 4 == 3, s.seed, d.n 16 8, (c.dst.map Tensor.object).getD 0⟩
  | none => ⟨false, s.seed, 0, 0⟩

/-! ### Receiving -/

/-- Has the operation all that its ring brings, and no landing of its own to wait for? Then it completes. -/
def State.endIfIn (s : State) (c : Coll) : State :=
  match c.kind with
  | .gather => s
  | _ => if c.allIn ∧ (s.coll c.ring c.index).isSome then s.endColl c c.status 0 else s

/-- Packet `i` of the ring has come: it is added to this member's term or copied, passed on, and lands where it belongs.
DEDUCED: log entry 32. -/
def State.ringPacket (s : State) (c : Coll) (i : Nat) (bs : List PByte) : State :=
  match c.incoming[i]? with
  | none => s
  | some p =>
    if c.got.contains i then s
    else
      let c1 := { c with got := NSet.add c.got i }
      let r : List PByte × Flags := match c.kind with
        | .reduceScatter =>
          let k := (c.self + c.ranks.length - p.origin - 1) % c.ranks.length
          addTerm (s.sumMode c) ((p.origin * c.unit + p.off) / 4) k bs
            (c.bytesOf c.self (p.origin * c.unit + p.off) p.len)
        | _ => (bs, 0)
      let c2 := { c1 with flags := c1.flags ||| r.2.toNat }
      let x := if c2.lands p then s.landPart c2 p r.1 else (s, c2)
      let q := if p.seg = c.size then p else { p with seg := p.seg + 1 }
      let s1 := x.1.setColl x.2
      let s2 := if c.outgoing.contains q then s1.sendRing x.2 [(q, r.1)] else s1
      s2.endIfIn x.2

/-! ### Starting -/

/-- What a member reads at the start: its chunk as the wire carries it. -/
def State.ownBytes (s : State) (v : HostView) (c : Coll) (t : Tensor) : List PByte × Bool × State :=
  let g := s.get v t.base t.bytes
  let raw := if g.err then lostBytes t.bytes else g.bytes
  match c.kind with
  | .reduceScatter => (toFp32 ((Fmt.ofCode t.fmt).getD .fp32) raw, g.err, g.st)
  | .gather =>
    let shard := match g.st.host.desc c.ring c.index with
      | some d => d.n 24 4 % 2 ^ 20
      | none => 0
    let tag := g.st.stackRead (g.st.tagAddr shard) 16
    (tag.1 ++ raw, g.err, tag.2)
  | _ => (raw, g.err, g.st)

/-- The member's own part of the result, and the blocks of absent members (R484). -/
def State.landOwn (s : State) (c : Coll) : State × Coll :=
  let own := c.bytesOf c.self
  let zeros := fun (acc : State × Coll) =>
    c.absent.foldl (fun (acc : State × Coll) x =>
      match c.dst with
      | some d => acc.1.putResult acc.2 (d.base + x * c.unit) (lostBytes (match c.kind with
          | .allToAll => c.unit
          | _ => c.chunk x))
      | none => acc) acc
  match c.kind with
  | .reduceScatter =>
    if c.size = 1 then s.landPart c ⟨0, c.self, c.self, 0, c.chunk c.self⟩ (own (c.self * c.unit) (c.chunk c.self)) else (s, c)
  | .allToAll => zeros (s.landPart c ⟨0, c.self, c.self, 0, c.unit⟩ (own (c.self * c.unit) c.unit))
  | .gather =>
    let n := c.chunk c.self + 16
    s.landPart c ⟨0, c.self, c.self, 0, n⟩ (own 0 n)
  | _ => zeros (s.landPart c ⟨0, c.self, c.self, 0, c.chunk c.self⟩ (own 0 (c.chunk c.self)))

/-- The packets of the first turn, which carry this member's own bytes. -/
def Coll.ownPackets (c : Coll) : List (CollPkt × List PByte) :=
  (c.outgoing.filter fun p => p.seg == 0).map fun p =>
    let off := match c.kind with
      | .reduceScatter => p.origin * c.unit + p.off
      | .allToAll => p.dest * c.unit + p.off
      | _ => p.off
    (p, c.bytesOf c.self off p.len)

/-- The place of entry `k` in the data string of a side. -/
def State.entryOffset (s : State) (side k : Nat) : Nat :=
  (((s.sideSpans side).take k).map fun x => pad4k x.2).foldl (· + ·) 0

/-- The head of the packets that bring a piece of an absent position's string for an operation of the step in progress. -/
def State.decodeHead (s : State) (c : Coll) (x i : Nat) : PartialHead :=
  let g := s.pgroup 0
  ⟨i, PT.decode s.readSide, g.ranks.idxOf (c.rankAt x), g.group, s.partialGen⟩

/-- The pieces of the data string that hold entry `k` of the state list, of `n` bytes. -/
def State.entryPieces (s : State) (k n : Nat) : List Nat := blocksOf pieceBytes (s.entryOffset s.readSide k) n

/-- The decode of an absent position's shard (R485): entry `k` of the state list, of `n` bytes, from the pieces that have come;
none while one of them is still to come. -/
def State.standInShard (s : State) (c : Coll) (x k n : Nat) : Option (List PByte) :=
  let off := s.entryOffset s.readSide k
  (s.entryPieces k n).foldl (fun acc i =>
    match acc, Tbl.find s.res.decoded (s.decodeHead c x i).addr with
    | some bs, some p => some (bs ++ (p.take (off + n - pieceBytes * i)).drop (off - pieceBytes * i))
    | _, _ => none) (some [])

/-- The tag in place of an absent member's. -/
def substituteTag : List Byte := List.replicate 8 255 ++ List.replicate 8 0

/-- Where the state list of the side that the step reads names the member's own shard. -/
def State.ownEntry (s : State) (c : Coll) : Option Nat :=
  match s.host.desc c.ring c.index with
  | some d => s.shards.findIdx? fun h => addrOffset (if s.readSide = 0 then h.td0 else h.td1) == addrOffset (d.n 0 8)
  | none => none

/-- Post a degraded gather once a step for a position. -/
def State.noteDegraded (s : State) (rank : Nat) : State :=
  if s.step.degraded.contains rank then s
  else { s.event 6 St.degradedGather 0 rank with step := { s.step with degraded := rank :: s.step.degraded } }

/-- The absent positions that this member stands in for. -/
def Coll.standsFor (c : Coll) : List Nat :=
  match c.kind with
  | .gather => c.absent.filter fun x => c.standIn x == c.self
  | _ => []

/-- Ask for the pieces of an absent position's shard. -/
def State.askShard (s : State) (c : Coll) (k n x : Nat) : State :=
  let g := s.pgroup 0
  (s.noteDegraded (c.rankAt x)).each (s.entryPieces k n) fun s i =>
    s.askPiece (.coll c.ring c.index) g (g.ranks.idxOf (c.rankAt x)) s.readSide i

/-- Supply the bytes of an absent position to the ring and to this member's own carriage, once they have come. DEDUCED: log
entry 32. -/
def State.supply (s : State) (k n : Nat) (acc : Coll) (x : Nat) : State × Coll :=
  match s.standInShard acc x k n with
  | none => (s, acc)
  | some bs =>
    let bytes := clean substituteTag ++ bs
    let r := s.landPart { acc with due := acc.due.erase x } ⟨acc.size, x, x, 0, bytes.length⟩ bytes
    let ps := (acc.outgoing.filter fun p => p.seg == acc.size && p.origin == x).map fun p =>
      (p, (bytes.drop p.off).take p.len)
    (r.1.sendRing r.2 ps, r.2)

/-- Supply what an operation owes of the absent positions, as far as it has come. -/
def State.supplyDue (s : State) (c : Coll) : State :=
  match c.src, s.ownEntry c with
  | some t, some k =>
    let r := c.due.foldl (fun (acc : State × Coll) x => acc.1.supply k t.bytes acc.2 x) (s, c)
    r.1.setColl r.2
  | _, _ => s

/-- Start an operation on a ring: read the own bytes, land them, send them on. -/
def State.startRing (s : State) (v : HostView) (c0 : Coll) : State :=
  match c0.src, c0.dst with
  | some t, some d =>
    let c1 : Coll := { c0 with
      started := true
      present := s.presentOf c0.ranks
      tid := s.net.nextTid }
    let o := s.ownBytes v c1 t
    let refused := addrWindow d.base == 2 && viewRefuses v (s.hostAddr (addrOffset d.base)) d.bytes
    let c2 := { c1 with
      parts := [⟨c1.self, 0, o.1⟩]
      status := if o.2.1 then St.strReadErr else if refused then St.strWriteErr else 0 }
    let n := c2.outgoing.length
    let s1 := (o.2.2.useTids 1).addTxn ⟨c2.tid, 0, n, c2.succ, .coll c2.ring c2.index, false, n, 0, 0⟩
    let l := s1.landOwn c2
    let s2 := (l.1.setColl l.2).sendRing l.2 l.2.ownPackets
    if l.2.standsFor = [] then s2.endIfIn l.2
    else match s2.ownEntry l.2 with
      | none => s2.endColl l.2 St.paramCode 0
      | some k =>
        if 2 < (s2.erased (s2.pgroup 0)).length then s2.endColl l.2 St.parityExhausted 0
        else
          let c3 := { l.2 with due := l.2.standsFor }
          ((s2.setColl c3).each c3.due (fun s x => s.askShard c3 k t.bytes x)).supplyDue c3
  | _, _ => s

/-! ### The tree of a DROP_SYNC (R412, R484) -/

/-- The nearest present ancestor of position `i`, if any; halving reaches 0 in at most 12 steps. -/
def Coll.ancestor (c : Coll) : Nat → Nat → Option Nat
  | 0, _ => none
  | n + 1, i =>
    if i = 0 then none
    else
      let p := (i - 1) / 2
      if c.present.contains p then some p else c.ancestor n p

/-- Where a position sends its mask: none at the top of the tree, which is the first present position. -/
def Coll.parentOf (c : Coll) (i : Nat) : Option Nat :=
  let top := (c.present.head?).getD 0
  if i = top then none else some ((c.ancestor 13 i).getD top)

def Coll.childrenOf (c : Coll) (i : Nat) : List Nat := c.present.filter fun j => c.parentOf j == some i

/-- A mask that has come from a position, whole: two packets of 4 KiB. -/
def Coll.maskFrom (c : Coll) (pos : Nat) : Option (List PByte) :=
  match c.bytesOf pos 0 4096, c.bytesOf pos 4096 4096 with
  | [], _ => none
  | _, [] => none
  | a, b => some (a ++ b)

/-- The positions that exchange masks with this member's. -/
def Coll.treeNeighbours (c : Coll) : List Nat := c.childrenOf c.self ++ (c.parentOf c.self).toList

/-- The transfer id of the masks sent to a position: one for each member (R370). -/
def Coll.maskTid (c : Coll) (pos : Nat) : Nat := (c.tid + c.treeNeighbours.idxOf pos) % 2 ^ 16

def State.sendMask (s : State) (c : Coll) (pos : Nat) (poison : Bool) : State :=
  let b := (dropBytes s.step.mask).map fun x => (x, poison)
  let c1 := { c with tid := c.maskTid pos }
  (s.sendPart c1 (c.rankAt pos) 0 (b.take 4096) false).sendPart c1 (c.rankAt pos) 1 (b.drop 4096) true

/-- Go on with a DROP_SYNC: once every child's mask has come, send the combined mask up, or at the top down; once the
final mask has come, pass it down. The mask closes when it is first sent. -/
def State.syncOn (s : State) (c : Coll) : State :=
  let kids := c.childrenOf c.self
  let masks := kids.map c.maskFrom
  let bad := fun (l : List (Option (List PByte))) => l.any fun m => (m.getD []).any Prod.snd
  let ids := fun (l : List (Option (List PByte))) => l.flatMap fun m => dropIds ((m.getD []).map Prod.fst)
  if c.sent = false ∧ masks.all Option.isSome then
    let c1 := { c with
      sent := true
      poison := c.poison || bad masks }
    let s1 := s.syncBits (ids masks)
    let s2 := { s1 with step := { s1.step with closed := true } }
    match c.parentOf c.self with
    | some p => (s2.setColl c1).sendMask c1 p c1.poison
    | none =>
      let c2 := { c1 with got := [0] }
      (s2.setColl c2).each kids fun s k => s.sendMask c2 k c2.poison
  else match c.parentOf c.self with
    | none => s
    | some p =>
      let m := c.maskFrom p
      if c.got ≠ [] ∨ m.isNone then s
      else
        let c1 := { c with
          got := [0]
          poison := c.poison || bad [m] }
        ((s.syncBits (ids [m])).setColl c1).each kids fun s k => s.sendMask c1 k c1.poison

def State.startSync (s : State) (c0 : Coll) : State :=
  let c : Coll := { c0 with
    started := true
    present := s.presentOf c0.ranks
    tid := s.net.nextTid }
  let ns := c.treeNeighbours
  (((s.useTids ns.length).each ns fun s pos =>
    s.addTxn ⟨c.maskTid pos, 0, 2, c.rankAt pos, .coll c.ring c.index, false, 2, 0, 0⟩).setColl c).syncOn c

/-- A packet of a mask. -/
def State.maskPacket (s : State) (c : Coll) (pos tseq : Nat) (bs : List PByte) : State :=
  let c1 := { c with parts := c.parts ++ [⟨pos, 4096 * tseq, bs⟩] }
  (s.setColl c1).syncOn c1

end Sys2Proof.Machine
end

