-- ==== Sys2Proof/Machine/CollCommands.lean ====
section
/-! DEFINITION. The commands of the collective engine: COLL, and the step descriptors GATHER, DROP_SYNC and GRAD_EXCHANGE
(R385, R389, R404, R412 to R426). -/

namespace Sys2Proof.Machine

/-! ### COLL (R385) -/

/-- Sizes of Table 10.11 with the formats of R385: the unit of a chunk on the wire and the whole, or a refusal. -/
def collShape (op p self : Nat) (src dst : Tensor) : Except Nat (Nat × Nat) :=
  match Fmt.ofCode src.fmt, Fmt.ofCode dst.fmt with
  | some f, some g =>
    let part := fun (e : Nat) => let c := (e + p - 1) / p; min e ((self + 1) * c) - self * c
    if src.mode ≠ 0 ∨ dst.mode ≠ 0 ∨ f.isMX ∨ g.isMX then .error St.paramCode
    else match op with
      | 0 =>
        if (f ≠ .fp32 ∧ f ≠ .bf16) ∨ (g ≠ .fp32 ∧ g ≠ .bf16) then .error St.paramCode
        else if dst.elems ≠ part src.elems then .error St.tdInvalid
        else .ok (4 * ((src.elems + p - 1) / p), 4 * src.elems)
      | 1 =>
        if f.elemBits ≠ g.elemBits ∨ src.elems ≠ part dst.elems then .error St.tdInvalid
        else .ok ((dst.elems + p - 1) / p * (f.elemBits / 8), dst.elems * (f.elemBits / 8))
      | _ =>
        if f.elemBits ≠ g.elemBits ∨ src.elems ≠ dst.elems ∨ src.elems % p ≠ 0 then .error St.tdInvalid
        else .ok (src.elems / p * (f.elemBits / 8), src.elems * (f.elemBits / 8))
  | _, _ => .error St.fmtReserved

def collKind (op : Nat) : CollKind :=
  match op with
  | 0 => .reduceScatter
  | 1 => .allGather
  | _ => .allToAll

/-- Does a tensor that is written touch a tile's program region (R112)? -/
def Tensor.meetsProgram (t : Tensor) : Bool := t.bytes != 0 && Pat.meetsProgram ⟨t.base, t.bytes, 0, 1⟩

/-- Read the tensor descriptors of a source and of a destination. -/
def State.twoTensors (s : State) (v : HostView) (a b : Nat) : Except (Nat × Nat) (Tensor × Tensor) × State :=
  match s.tensor .local3 v a with
  | (.error e, s1) => (.error e, s1)
  | (.ok t, s1) =>
    match s1.tensor .local3 v b with
    | (.error e, s2) => (.error e, s2)
    | (.ok u, s2) => (if u.meetsProgram then .error (St.progRegion, 0) else .ok (t, u), s2)

/-- Can the accesses to an operation's tensors in stacked memory enter their channels (R259)? -/
def State.collOpen (s : State) (c : Coll) : Bool := ([c.src, c.dst, c.res].filterMap id).all fun t => s.localOpen t.base t.bytes

/-- A COLL is checked and its work starts. DEDUCED: log entry 51. -/
def execColl (r j : Nat) (v : HostView) (s : State) : Host.Outcome State Fault Refusal :=
  .next (s.onDesc r j 0x22 fun s0 d =>
    let g := d.n 28 1
    let s := s0.touchStack [s0.groupSpan g]
    let op := d.n 29 1 % 4
    let rm := d.n 30 1 % 4
    match s.groupRefusal g with
    | some e => s.finish r j e
    | none =>
      if op = 3 ∨ rm = 1 ∨ rm = 2 then s.finish r j St.paramCode
      else match s.twoTensors v (d.n 0 8) (d.n 8 8) with
        | (.error e, s1) => s1.complete r j e.1 e.2 0
        | (.ok (t, u), s1) =>
          match collShape op (s.groupSlot g).p (s.groupSlot g).self t u with
          | .error e => s1.finish r j e
          | .ok x =>
            if d.eval ∧ u.poison = 1 then s1.finish r j St.evalWrite
            else
              let c := s1.newColl d (collKind op) none (d.n 24 4) g op x.1 x.2 (some t) (some u) none
              if s.collOpen c = false then s0 else ((s1.take r j).addColl c).startRing v c)

/-! ### COLL packets (R389) -/

/-- The operation of a group that a packet belongs to. -/
def State.collOf (s : State) (p : Packet) (started : Bool) : Option Coll :=
  s.step.colls.find? fun c => c.started == started && c.addr == p.addr && c.kind != .gradExchange

/-- An operation in progress of the packet's group that has not heard from the sender yet: the packet does not match it.
DEDUCED: log entry 32. -/
def State.mismatched (s : State) (p : Packet) : Option Coll :=
  if p.tseq ≠ 0 ∨ (s.collOf p false).isSome ∨ s.step.colls.any (fun c => c.kind == .gradExchange && c.addr == p.addr) then none
  else s.step.colls.find? fun c => c.started && c.kind != .gradExchange && c.group == p.addr / 2 ^ 32 % 256 &&
    c.ranks.contains p.src && !c.heard.contains (c.ranks.idxOf p.src)

/-- A COLL packet of a ring or of a DROP_SYNC. One that no operation has started for waits in its receive slots, unless it
tells of a mismatch. -/
def execCollPacketReceive (l : Nat) (s : State) : Host.Outcome State Fault Refusal :=
  .next (match s.arrived l fun p => p.kind == PK.coll && p.dst == s.rank &&
      ((s.collOf p true).isSome || (s.mismatched p).isSome) with
    | none => s
    | some a =>
      let p := a.pkt
      let s1 := (s.consume l a).checkCrc l p
      match s.collOf p true with
      | some c =>
        let pos := c.ranks.idxOf p.src
        let c1 := { c with heard := NSet.add c.heard pos }
        let s2 := s1.setColl c1
        if s.collOpen c = false then s
        else (match c.kind with
          | .dropSync => s2.maskPacket c1 pos p.tseq p.pbytes
          | _ => s2.ringPacket c1 p.tseq p.pbytes)
      | none =>
        match s.mismatched p with
        | some c => s1.stopColl c St.collMismatch
        | none => s1)

/-! ### Queues (R404) -/

/-- The QUEUE field's channel, or none where it names none (R292). -/
def queueChan (q : Nat) : Option Nat :=
  let u := q % 8
  let e := q / 8 % 128
  let c := q / 1024 % 16
  if channelValid u e c then some (u * 2048 + e * 16 + c) else none

/-- Accept a step descriptor into its queue; a full queue keeps it waiting. -/
def State.queueColl (s : State) (d : Desc) (q ch : Nat) (c : Coll) : State :=
  ((s.enqueue ch (.ring d.ring d.index) (.step (bitOf q 14)) none false).take d.ring d.index).addColl c

/-- The GROUP of a step descriptor. -/
def Desc.stepGroup (d : Desc) : Nat := if d.opcode = 0x12 then d.n 20 1 else if d.opcode = 0x13 then d.n 4 1 else d.n 28 1

/-- A step descriptor with its QUEUE checked and a place in the queue; the group's slot is read. -/
def State.onStepDesc (s : State) (r j op at_ : Nat) (f : State → Desc → Nat → Nat → State) : State :=
  s.onDesc r j op fun s d =>
    let q := d.n at_ 2
    match queueChan q with
    | none => s.finish r j St.strChannel
    | some ch => if (s.chan ch).full then s else f (s.touchStack [s.groupSpan d.stepGroup]) d q ch

/-! ### GATHER (R417) -/

/-- The unit and the whole of a gather: raw tensors by elements, compressed and MX ones by bytes (R249). -/
def gatherShape (p self : Nat) (src dst : Tensor) : Except Nat (Nat × Nat) :=
  match Fmt.ofCode src.fmt with
  | none => .error St.fmtReserved
  | some f =>
    if src.mode ≠ 0 ∨ f.isMX then
      (if src.fmt ≠ dst.fmt ∨ src.mode ≠ dst.mode ∨ dst.bytes < p * src.bytes then .error St.tdInvalid
       else .ok (src.bytes, p * src.bytes))
    else if dst.mode ≠ 0 then .error St.tdInvalid
    else collShape 1 p self src dst

/-- GATHER (R417): A GATHER all-gathers each member's shard and tag into a carriage. DEDUCED: log entry 51. -/
def execGather (r j : Nat) (v : HostView) (s : State) : Host.Outcome State Fault Refusal :=
  .next (s.onStepDesc r j 0x12 32 fun s d q ch =>
    let g := d.n 20 1
    if d.eval ∧ bitOf (d.n 21 1) 0 = true then s.finish r j St.evalWrite
    else match s.groupRefusal g with
      | some e => s.finish r j e
      | none =>
        match s.twoTensors v (d.n 0 8) (d.n 8 8) with
        | (.error e, s1) => s1.complete r j e.1 e.2 0
        | (.ok (t, u), s1) =>
          match gatherShape (s.groupSlot g).p (s.groupSlot g).self t u with
          | .error e => s1.finish r j e
          | .ok x =>
            if d.eval ∧ u.poison = 1 then s1.finish r j St.evalWrite
            else s1.queueColl d q ch (s1.newColl d .gather (some ch) (d.n 16 4) g 1 x.1 x.2 (some t) (some u) none))

/-- The carriage tag: the first bytes of the digest of the member tags in position order (R418). -/
def Coll.carriageTag (c : Coll) : List Byte :=
  (Config.sm3 ((List.range c.ranks.length).flatMap fun i =>
    if c.present.contains i then (c.bytesOf i (2 ^ 60) 16).map Prod.fst else substituteTag)).take 8

/-- A carriage has landed: forward records its tag, backward compares it. -/
def execGatherLanded (r j : Nat) (s : State) : Host.Outcome State Fault Refusal :=
  .next (match s.coll r j, s.working r j 0x12 with
    | some c, some d =>
      if c.started = false ∨ c.allIn = false ∨ c.due ≠ [] then s
      else
        let tag := leNat c.carriageTag
        let id := d.n 22 2 % 4096
        if bitOf (d.n 21 1) 0 = false then
          { s with step := { s.step with carriages := Tbl.put s.step.carriages id tag } }.endColl c c.status 0
        else match Tbl.find s.step.carriages id with
          | none => s.endColl c St.paramCode 0
          | some x =>
            if x = tag then s.endColl c c.status 0
            else
              let s1 := (s.event 9 St.shardVersionMismatch 0 id).logEvent ⟨2, 0, id, d.n 24 4 % 2 ^ 20⟩
              (s1.endColl c St.shardVersionMismatch 0).dropBits 2 ((List.range (d.n 30 2)).map (d.n 28 2 + ·))
    | _, _ => s)

/-! ### DROP_SYNC (R412, R413) -/

/-- DROP_SYNC (R412): A DROP_SYNC closes the module's drop mask and combines the masks of a group by OR over a binary tree. -/
def execDropSync (r j : Nat) (s : State) : Host.Outcome State Fault Refusal :=
  .next (s.onStepDesc r j 0x13 6 fun s d q ch =>
    let g := d.n 4 1
    if d.eval then s.finish r j St.evalWrite
    else match s.groupRefusal g with
      | some e => s.finish r j e
      | none => s.queueColl d q ch (s.newColl d .dropSync (some ch) (d.n 0 4) g 3 0 0 none none none))

/-- The member holds the combined mask; a LAST sync freezes it. -/
def execDropSyncComplete (r j : Nat) (s : State) : Host.Outcome State Fault Refusal :=
  .next (match s.coll r j, s.working r j 0x13 with
    | some c, some d =>
      if c.got = [] then s
      else
        let s1 := s.endColl c c.status 0
        if bitOf (d.n 5 1) 0 ∧ s1.frozen = false then s1.freezeMask else s1
    | _, _ => s)

/-! ### GRAD_EXCHANGE (R423) -/

/-- Is a chain of the group open after what has been accepted so far? -/
def State.chainOpen (s : State) (g : Nat) : Bool :=
  match (s.step.colls.filter fun c => c.kind == .gradExchange && c.group == g).getLast? with
  | some c =>
    (match s.host.desc c.ring c.index with
     | some d => !bitOf (d.n 29 1) 4
     | none => false)
  | none => s.step.chains.any fun c => c.group == g

/-- The residual of a GRAD_EXCHANGE, if it names one. -/
def State.residual (s : State) (v : HostView) (a : Nat) : Except (Nat × Nat) (Option Tensor) × State :=
  if a = 0 then (.ok none, s)
  else match s.tensor .local3 v a with
    | (.error e, s1) => (.error e, s1)
    | (.ok t, s1) => (if t.meetsProgram then .error (St.progRegion, 0) else .ok (some t), s1)

/-- Elements of the chunk of a position (R424). -/
def gradLen (e p pos : Nat) : Nat := min e ((pos + 1) * gradChunk e p) - pos * gradChunk e p

/-- Do the tensors fit Table 11.13? -/
def gradFits (p self : Nat) (g : Tensor) (r : Option Tensor) (d : Tensor) : Bool :=
  g.mode == 0 && g.fmt == Fmt.fp32.code && d.mode == 0 && d.fmt == Fmt.fp32.code && decide (gradLen g.elems p self ≤ d.elems) &&
    (match r with
     | some t => t.mode == 0 && (t.fmt == Fmt.fp32.code || t.fmt == Fmt.bf16.code) && t.elems == g.elems
     | none => true)

/-- GRAD_EXCHANGE (R423): A GRAD_EXCHANGE is checked and waits for the frozen drop mask. -/
def execGradExchange (r j : Nat) (v : HostView) (s : State) : Host.Outcome State Fault Refusal :=
  .next (s.onStepDesc r j 0x14 36 fun s d q ch =>
    let g := d.n 28 1
    let enc := d.n 29 1 % 8
    let k := d.n 30 2
    if d.eval then s.finish r j St.evalWrite
    else match s.groupRefusal g with
      | some e => s.finish r j e
      | none =>
        if 5 ≤ enc ∨ (encTopk enc = true ∧ (k < 16 ∨ 256 < k)) ∨ (bitOf (d.n 29 1) 3 = true ∧ s.chainOpen g = false) then
          s.finish r j St.paramCode
        else match s.twoTensors v (d.n 0 8) (d.n 16 8) with
          | (.error e, s1) => s1.complete r j e.1 e.2 0
          | (.ok (t, u), s1) =>
            match s1.residual v (d.n 8 8) with
            | (.error e, s2) => s2.complete r j e.1 e.2 0
            | (.ok res, s2) =>
              if gradFits (s.groupSlot g).p (s.groupSlot g).self t res u = false then s2.finish r j St.tdInvalid
              else
                let c := s2.newColl d .gradExchange (some ch) (d.n 24 4) g 0 (4 * gradChunk t.elems (s.groupSlot g).p)
                  (4 * t.elems) (some t) (some u) res
                s2.queueColl d q ch c)

/-! #### Starting and encoding (R421, R424) -/

/-- Where an operation keeps what it has read of a host window: gradient, residual, running sums. -/
def heldG : Nat := 2 ^ 16
def heldR : Nat := 2 ^ 16 + 1
def heldD : Nat := 2 ^ 16 + 2

/-- The bytes of a tensor that lies in a host window, as the start reads them. -/
def State.hold (s : State) (v : HostView) (key : Nat) (t : Option Tensor) : List CollPart × Bool :=
  match t with
  | none => ([], false)
  | some t =>
    if addrWindow t.base ≠ 2 then ([], false)
    else
      let g := s.get v t.base t.bytes
      ([⟨key, 0, if g.err then lostBytes t.bytes else g.bytes⟩], g.err)

def State.startGrad (s : State) (v : HostView) (c : Coll) : State :=
  let a := s.hold v heldG c.src
  let b := s.hold v heldR c.res
  let e := s.hold v heldD c.dst
  let refused := fun (t : Option Tensor) => match t with
    | some t => addrWindow t.base == 2 && viewRefuses v (s.hostAddr (addrOffset t.base)) t.bytes
    | none => false
  s.setColl { c with
    started := true
    present := s.presentOf c.ranks
    parts := a.1 ++ b.1 ++ e.1
    status := if a.2 || b.2 || e.2 then St.strReadErr else if refused c.res || refused c.dst then St.strWriteErr else 0 }

/-- Part of a tensor: what the start has read of a host window, or the memory now. -/
def State.partOf (s : State) (c : Coll) (key : Nat) (t : Tensor) (off n : Nat) : List PByte × State :=
  if addrWindow t.base = 2 then (c.bytesOf key off n, s)
  else
    let g := s.get ⟨[], [], [], []⟩ (t.base + off) n
    (g.bytes, g.st)

/-- Values of elements of `n` bytes. -/
def elemVals (f : Fmt) (bs : List PByte) : List PVal :=
  let n := f.elemBits / 8
  (List.range (bs.length / n)).map fun i =>
    let e := (bs.drop (n * i)).take n
    (f.decode (leNat (e.map Prod.fst)), e.any Prod.snd)

/-- Encode the blocks of one chunk, whose elements start at `x0`: wire blocks with their poison, residuals, flags. -/
def encodeChunk (d : GradDraw) (enc k : Nat) (res : Option Fmt) : Nat → List Nat → List PVal → List PVal →
    List PByte × List PByte × Flags
  | _, [], _, _ => ([], [], 0)
  | x0, l :: r, g, e =>
    let b := encodeBlock { d with x0 := x0 } enc k (g.take l) (e.take l) res
    let rest := encodeChunk d enc k res (x0 + l) r (g.drop l) (e.drop l)
    let size := match res with
      | some f => f.elemBits / 8
      | none => 0
    (b.1.wire.map (fun x => (x, b.2.2)) ++ rest.1,
     b.2.1.flatMap (fun x => (leBytes size x.1).map fun y => (y, x.2)) ++ rest.2.1, b.1.flags ||| rest.2.2)

/-- The draws of this operation's encodings. -/
def State.gradDraw (s : State) (c : Coll) : GradDraw :=
  ⟨s.seed, s.regs.get Reg.TRN_STEP_NUM_STEP, (c.src.map Tensor.object).getD 0, 0⟩

/-- This member's contribution to the chunk of a position: its bytes after the header, the flags, whether a residual written back
carries poison, and the state with it written. -/
def State.encodeFor (s : State) (c : Coll) (d : Desc) (g : Tensor) (pos : Nat) : List PByte × Flags × Bool × State :=
  let p := c.ranks.length
  let x0 := pos * gradChunk g.elems p
  let n := gradLen g.elems p pos
  let gb := s.partOf c heldG g (4 * x0) (4 * n)
  match c.res with
  | none =>
    let zeros := List.replicate n (Val.zero, false)
    let e := encodeChunk (gb.2.gradDraw c) (d.n 29 1 % 8) (d.n 30 2) none x0 (blockLens n) (elemVals .fp32 gb.1) zeros
    (e.1, e.2.2, false, gb.2)
  | some t =>
    let f := (Fmt.ofCode t.fmt).getD .fp32
    let size := f.elemBits / 8
    let rb := gb.2.partOf c heldR t (size * x0) (size * n)
    let e := encodeChunk (rb.2.gradDraw c) (d.n 29 1 % 8) (d.n 30 2) (some f) x0 (blockLens n) (elemVals .fp32 gb.1)
      (elemVals f rb.1)
    let s1 := rb.2.policy (some t) 4 0 [⟨0, t.base + size * x0, e.2.1⟩]
    (e.1, e.2.2, e.2.1.any Prod.snd, s1.put (t.base + size * x0) e.2.1)

/-- Cut bytes into runs of the lengths given, and each run into packets: no packet holds bytes of two runs. -/
def cutRuns : List Nat → List PByte → List (List PByte)
  | [], _ => []
  | n :: r, b => cutPackets (n / 4096 + 1) (b.take n) ++ cutRuns r (b.drop n)

/-- Send a contribution to its owner as packets of its own transaction, `lens` giving the lengths of its wire blocks: the header
is a packet, and each block begins one, so that the packets' POISON says which blocks carry poison (R421). DESIGN CHOICE: log
entry 29. DESIGN CHOICE: log entry 29. -/
def State.sendContribution (s : State) (c : Coll) (pos : Nat) (lens : List Nat) (bs : List PByte) : State :=
  let parts := cutRuns (32 :: lens) bs
  let tid := s.net.nextTid
  let n := parts.length
  let s1 := (s.useTids 1).addTxn ⟨tid, 0, n, c.rankAt pos, .coll c.ring c.index, false, n, 0, bs.length⟩
  s1.each parts.zipIdx fun s p => s.sendPart { c with tid := tid } (c.rankAt pos) p.2 p.1 (p.2 + 1 == parts.length)

/-- One chunk: encoded, or empty, and sent to its owner or kept. A poisoned wire block or residual sets PZ (R79), and a residual
is an output of the descriptor (R81). -/
def State.contribute (s : State) (d : Desc) (empty : Bool) (acc : Coll) (pos : Nat) : State × Coll :=
  match acc.src with
  | none => (s, acc)
  | some g =>
    let enc := d.n 29 1 % 8
    let lens := if empty then [] else blockLens (gradLen g.elems acc.ranks.length pos)
    let e : List PByte × Flags × Bool × State := if empty then ([], 0, false, s) else s.encodeFor acc d g pos
    let bad := e.1.any Prod.snd
    let h : GradHead := ⟨acc.seq, enc, empty, bad, d.n 30 2, acc.self, if empty then 0 else d.n 34 2,
      lens.length, s.regs.get Reg.TRN_STEP_NUM_STEP⟩
    let bytes := clean h.bytes ++ e.1
    let c1 := { acc with
      flags := acc.flags ||| (e.2.1 ||| (if bad then Flags.pz else 0)).toNat
      poison := acc.poison || e.2.2.1 }
    if pos = acc.self then (e.2.2.2, { c1 with parts := c1.parts ++ [⟨pos, 0, bytes⟩] })
    else (e.2.2.2.sendContribution c1 pos (lens.map (wireLen enc (d.n 30 2))) bytes, c1)

/-! #### The owner's sum (R426) -/

/-- Bytes of a position's contribution, in order. -/
def Coll.contribution (c : Coll) (pos : Nat) : List PByte :=
  ((c.parts.filter fun p => p.pos == pos).mergeSort fun a b => decide (a.off ≤ b.off)).flatMap CollPart.data

/-- Has the whole contribution of a position come? -/
def Coll.contributed (c : Coll) (lens : List Nat) (pos : Nat) : Bool :=
  let b := c.contribution pos
  let h := GradHead.parse ((b.take 32).map Prod.fst)
  (c.parts.any fun p => p.pos == pos && p.off == 0) && decide (32 ≤ b.length) &&
    (h.empty || decide (32 + (lens.map (wireLen h.enc h.k)).foldl (· + ·) 0 ≤ b.length))

/-- Fold every contribution, write the chunk, and complete. A header that failed its CRC poisons every sum that it has a part in
(R371). -/
def State.foldChunk (s : State) (c : Coll) (d : Desc) (g u : Tensor) : State :=
  let n := gradLen g.elems c.ranks.length c.self
  let cont := bitOf (d.n 29 1) 3
  let final := bitOf (d.n 29 1) 4
  let old : List PByte × State := if cont then s.partOf c heldD u 0 (4 * n) else (clean (List.replicate (4 * n) 0), s)
  let start : List PVal × Flags × Nat :=
    (elemVals .fp32 old.1, 0, if cont then ((s.step.chains.find? fun x => x.group == c.group).map Chain.count).getD 0 else 0)
  let r := c.present.foldl (fun (acc : List PVal × Flags × Nat) pos =>
    let b := c.contribution pos
    let h := GradHead.parse ((b.take 32).map Prod.fst)
    let bad := (b.take 32).any Prod.snd
    if h.empty then (acc.1.map fun x => (x.1, x.2 || bad), acc.2.1, acc.2.2)
    else
      let x := foldContribution acc.1 ((decodeBlocks h.enc h.k (blockLens n) (b.drop 32)).map fun y => (y.1, y.2 || bad))
      (x.1, acc.2.1 ||| x.2, acc.2.2 + h.mbs)) start
  let o := chainStore final r.2.2 r.1
  let bytes := o.1.flatMap fun x => (leBytes 4 (enc32 x.1)).map fun y => (y, x.2)
  let others := old.2.step.chains.filter fun x => x.group != c.group
  let s1 := { old.2 with step := { old.2.step with
    chains := if final then others else others ++ [(⟨c.group, r.2.2⟩ : Chain)] } }
  let w := s1.putResult { c with flags := c.flags ||| r.2.1.toNat ||| o.2.toNat } u.base bytes
  w.1.endColl w.2 w.2.status 0

/-- Is a GRAD_EXCHANGE ready to fold: its own contribution sent, every present member's come, and no earlier one of its
group open? -/
def State.foldable (s : State) (c : Coll) : Bool :=
  c.kind == .gradExchange && c.started && c.sent &&
    (match c.src with
     | none => false
     | some g => c.present.all (c.contributed (blockLens (gradLen g.elems c.ranks.length c.self)))) &&
    !s.step.colls.any fun x => x.kind == .gradExchange && x.group == c.group && decide (x.seq < c.seq)

/-- Fold whatever is ready, one operation after another. -/
def State.foldAll : Nat → State → State
  | 0, s => s
  | n + 1, s =>
    match s.step.colls.find? s.foldable with
    | none => s
    | some c =>
      match c.src, c.dst, s.host.desc c.ring c.index with
      | some g, some u, some d => State.foldAll n (s.foldChunk c d g u)
      | _, _, _ => s

/-- The drop mask is frozen: every chunk is encoded and sent, or sent empty when a micro-batch folded into it is dropped.
DEDUCED: log entry 32. -/
def execGradEncodeStart (r j : Nat) (s : State) : Host.Outcome State Fault Refusal :=
  .next (match s.coll r j, s.working r j 0x14 with
    | some c, some d =>
      if c.started = false ∨ c.sent = true ∨ s.frozen = false ∨ s.collOpen c = false then s
      else
        let ids := (List.range (d.n 34 2)).map (d.n 32 2 + ·)
        let empty := d.n 34 2 == 0 || ids.any (NSet.has s.step.mask)
        let s1 := if empty then s.logEvent ⟨3, 0, c.group + c.seq % 2 ^ 24 * 2 ^ 8, c.self⟩ else s
        match s1.coll r j with
        | none => s1
        | some c1 =>
          let c2 : Coll := { c1 with sent := true }
          let x := c1.present.foldl (fun (acc : State × Coll) pos => acc.1.contribute d empty acc.2 pos) (s1, c2)
          State.foldAll (x.1.step.colls.length) (x.1.setColl x.2)
    | _, _ => s)

/-- A packet of a gradient contribution. -/
def execContributionReceive (l : Nat) (s : State) : Host.Outcome State Fault Refusal :=
  .next (
    let own := fun (p : Packet) => s.step.colls.find? fun c => c.started && c.kind == .gradExchange && c.addr == p.addr
    match s.arrived l fun p => p.kind == PK.coll && p.dst == s.rank && (own p).isSome with
    | none => s
    | some a =>
      let p := a.pkt
      let s1 := (s.consume l a).checkCrc l p
      match own p with
      | none => s1
      | some c =>
        if s.collOpen c = false then s else
        let pos := c.ranks.idxOf p.src
        let c1 := { c with
          heard := NSet.add c.heard pos
          parts := c.parts ++ [⟨pos, 4096 * p.tseq, p.pbytes⟩] }
        State.foldAll (s1.step.colls.length) (s1.setColl c1))

/-! ### The head of a queue (R404) -/

/-- Start an operation that its queue has handed to the collective engine. A backward GATHER whose carriage entry was not
written in this step writes nothing (R418). -/
def State.startColl (s : State) (v : HostView) (c : Coll) (d : Desc) : State :=
  match c.kind with
  | .dropSync => s.startSync c
  | .gradExchange => s.startGrad v c
  | _ =>
    if c.kind = .gather ∧ bitOf (d.n 21 1) 0 = true ∧ Tbl.find s.step.carriages (d.n 22 2 % 4096) = none then
      s.endColl c St.paramCode 0
    else s.startRing v c

/-- A step descriptor is at the head of its channel: with WAIT it takes 1 from FULL, and its work begins. DEDUCED: log entry 33.
-/
def execQueueStart (ch : Nat) (v : HostView) (s : State) : Host.Outcome State Fault Refusal :=
  .next (
    let q := s.chan ch
    match q.busy, q.queue with
    | none, x :: rest =>
      (match x.job, x.by_ with
       | .step wait, .ring r j =>
         (match s.coll r j, s.host.desc r j with
          | some c, some d =>
            if s.channelFree ch = false ∨ s.collOpen c = false ∨ s.stepState ≠ 2 ∨ d.eval ≠ s.evalStep ∨
              (wait = true ∧ q.sem.ctr 0 = 0) then s
            else
              (s.setChan ch { q with
                queue := rest
                busy := some x
                sem := if wait then q.sem.sub 0 1 else q.sem }).startColl v c d
          | _, _ => s)
       | _, _ => s)
    | _, _ => s)

end Sys2Proof.Machine
end

