-- ==== Sys2Proof/Machine/Parity.lean ====
section
/-! DEFINITION. The parity engine (R390, R480 to R490, R497): the parity update, spare fills, piece repair. -/

namespace Sys2Proof.Machine

/-- The whole partial, once every packet has come. -/
def Partial.whole (p : Partial) : Option (List PByte) :=
  if p.zero then some (clean (List.replicate pieceBytes 0))
  else match p.count with
    | some n =>
      if p.parts.length = n then some ((p.parts.mergeSort fun a b => decide (a.1 ≤ b.1)).flatMap Prod.snd) else none
    | none => none

/-- Add a packet to its partial. -/
def State.notePartial (s : State) (p : Packet) : State :=
  let name := p.partialName
  let k := p.partialPlace
  let zero := k == 0 && p.last && p.len == 32
  let old := s.res.partials.find? fun x => x.head == name && x.src == p.src
  let x : Partial := old.getD ⟨name, p.src, false, [], none⟩
  let y : Partial := { x with
    zero := x.zero || zero
    parts := Tbl.put x.parts k p.pbytes
    count := if p.last then some (k + 1) else x.count }
  let rest := s.res.partials.filter fun x => !(x.head == name && x.src == p.src)
  { s with res := { s.res with partials := rest ++ [y] } }

/-! ### Strings -/

/-- Pieces of a group's strings. -/
def PGroup.pieces (g : PGroup) : Nat := g.len / pieceBytes

/-- Read a piece of a side's data string through the memory's checks (R265, R490). -/
def State.readPiece (s : State) (side i : Nat) : List PByte × State :=
  let spans := s.sideSpans side
  let s1 := (List.range (pieceBytes / 64)).foldl (fun (s : State) k =>
    match spanAt spans (pieceBytes * i + 64 * k) with
    | some a => (s.stackRead a 64).2
    | none => s) s
  (s1.piece side i, s1)

/-- Read and write a piece of a parity side of an entry. -/
def State.readParity (s : State) (g : PGroup) (side i : Nat) : List PByte × State :=
  s.stackRead (g.base + side * g.len + pieceBytes * i) pieceBytes

def State.writeParity (s : State) (g : PGroup) (side i : Nat) (bs : List PByte) : State :=
  s.stackWrite (g.base + side * g.len + pieceBytes * i) bs

def xorBytes (a b : List PByte) : List PByte := addScaled a 1 b

/-- The piece that this module holds in a role: of its data string, or of a parity side. -/
def State.rolePiece (s : State) (g : PGroup) (side i : Nat) : List PByte × State :=
  if g.role = 1 then s.readPiece side i else s.readParity g side i

/-- The next data position of a chain after `pos` that is not erased. -/
def nextData (lost : List Nat) (pos : Nat) : Option Nat :=
  (List.range 16).find? fun i => decide (pos < i) && !lost.contains i

/-- The first data position that is not erased: it starts the chains. -/
def firstData (lost : List Nat) : Option Nat := (List.range 16).find? fun i => !lost.contains i

def writtenKey (entry piece kind : Nat) : Nat := entry * 2 ^ 19 + piece * 8 + kind

def State.noteWritten (s : State) (entry piece kind : Nat) : State :=
  { s with res := { s.res with written := NSet.add s.res.written (writtenKey entry piece kind) } }

/-- Pass a partial of a chain on: to the next data position, or to the holder of P or Q unless it is absent. -/
def State.passPartial (s : State) (owner : Owner) (g : PGroup) (h : PartialHead) (bs : List PByte) : State :=
  let lost := s.erased g
  let holder := 16 + h.kind % 2
  match nextData lost g.position with
  | some n => s.sendPartial owner (g.rankAt n) h bs
  | none => if lost.contains holder then s else s.sendPartial owner (g.rankAt holder) h bs

/-! ### The parity update (R482) -/

/-- What this module adds to a piece's partials: the change of its data string. Poison in it blocks the commit. -/
def State.change (s : State) (i : Nat) : List PByte × State :=
  let n := s.regs.get Reg.TRN_STEP_NUM_STEP
  let a := s.readPiece (n % 2) i
  let b := a.2.readPiece ((n + 1) % 2) i
  let d := xorBytes a.1 b.1
  (d, if d.any Prod.snd then b.2.cause 3 else b.2)

/-- Add this module's change to a partial and pass it on. -/
def State.updateOn (s : State) (g : PGroup) (h : PartialHead) (bs : List PByte) : State :=
  let d := s.change h.piece
  let c := if h.kind = 0 then 1 else gfPow g.position
  (d.2.passPartial .parity g h (addScaled bs c d.1)).noteWritten 0 h.piece h.kind

/-- A parity side takes a piece's whole change. -/
def State.updateParity (s : State) (k : Nat) (g : PGroup) (h : PartialHead) (bs : List PByte) : State :=
  let n := s.regs.get Reg.TRN_STEP_NUM_STEP
  let old := s.readParity g ((n + 1) % 2) h.piece
  let new := xorBytes old.1 bs
  let s1 := if old.1.any Prod.snd then old.2.cause 3 else old.2
  (s1.writeParity g (n % 2) h.piece new).noteWritten k h.piece h.kind

/-- The entry of this module that a partial of a chain concerns: its data role, or the parity role of that kind. -/
def State.chainEntry (s : State) (h : PartialHead) (data : Bool) : Option (Nat × PGroup) :=
  ((List.range 3).map fun k => (k, s.pgroup k)).find? fun x =>
    x.2.group == h.group && (if data then x.2.role == 1 else x.2.role == 2 + h.kind % 2)

/-- Carry out a whole partial of the update. -/
def State.takeUpdate (s : State) (h : PartialHead) (bs : List PByte) : State :=
  match s.chainEntry h true with
  | some x => s.updateOn x.2 h bs
  | none =>
    match s.chainEntry h false with
    | some x => s.updateParity x.1 x.2 h bs
    | none => s

/-- The first member of the chain starts every piece. -/
def State.startUpdate (s : State) : State :=
  let g := s.pgroup 0
  if firstData (s.erased g) ≠ some g.position then s
  else s.each (List.range g.pieces) fun s i =>
    s.each [0, 1] fun s q =>
      s.updateOn g ⟨i, PT.update q, 0, g.group, s.partialGen⟩ (clean (List.replicate pieceBytes 0))

/-- Is every piece passed on in the data role and written in every parity role? -/
def State.updateDone (s : State) : Bool :=
  let g := s.pgroup 0
  ((List.range g.pieces).all fun i => [0, 1].all fun q => NSet.has s.res.written (writtenKey 0 i q)) &&
  (s.parityRoles.all fun x => (List.range x.2.pieces).all fun i =>
    NSet.has s.res.written (writtenKey x.1 i (x.2.role - 2))) &&
  s.net.txns.all fun t => t.owner != .parity

/-! ### PARITY_INIT (R497) -/

/-- Add this module's data string to a piece's partials and pass them on. -/
def State.initOn (s : State) (g : PGroup) (h : PartialHead) (bs : List PByte) : State :=
  let d := s.readPiece (h.kind / 2 % 2) h.piece
  let c := if h.kind % 2 = 0 then 1 else gfPow g.position
  (d.2.passPartial .fill g h (addScaled bs c d.1)).noteWritten 0 h.piece (h.kind - 2)

def State.takeInit (s : State) (h : PartialHead) (bs : List PByte) : State :=
  match s.chainEntry h true with
  | some x => s.initOn x.2 h bs
  | none =>
    match s.chainEntry h false with
    | some x => (s.writeParity x.2 (h.kind / 2 % 2) h.piece bs).noteWritten x.1 h.piece (h.kind - 2)
    | none => s

/-- Is a PARITY_INIT of this group at work here? -/
def State.initOf (s : State) (group : Nat) : Bool :=
  s.host.descs.any fun d => d.taken && d.opcode == 0x2B && d.n 0 4 == group

/-! ### Fill strings (R486, R487) -/

def passedKey (c : FillChain) (side piece : Nat) : Nat := ((c.entry * 32 + c.want) * 2 + side) * 2 ^ 16 + piece

/-- Sides of a chain's fill strings: for the data role the side read, for a parity role both. -/
def FillChain.sides (c : FillChain) : List Nat := if c.want < 16 then [c.side] else [0, 1]

def FillChain.coeff (c : FillChain) (pos : Nat) : Nat := if c.lost.contains pos then 0 else rebuildCoeff c.lost c.want pos

/-- The next contributor after a position. -/
def FillChain.next (c : FillChain) (pos : Nat) : Option Nat :=
  (List.range 18).find? fun i => decide (pos < i) && c.coeff i != 0

def FillChain.first (c : FillChain) : Option Nat := (List.range 18).find? fun i => c.coeff i != 0

/-- Does this module contribute to the chain, and does it receive it? -/
def State.contributes (s : State) (c : FillChain) : Bool :=
  let g := s.pgroup c.entry
  g.rankAt g.position == s.rank && c.coeff g.position != 0

def State.receives (s : State) (c : FillChain) : Bool :=
  let g := s.pgroup c.entry
  s.res.fill == some (g.rankAt c.want) && g.position == c.want

/-- Add this module's string to a fill partial and pass it on, to the next contributor or to the spare. -/
def State.fillOn (s : State) (c : FillChain) (side piece : Nat) (bs : List PByte) : State :=
  let g := s.pgroup c.entry
  let own := s.rolePiece g side piece
  let out := addScaled bs (c.coeff g.position) own.1
  let h : PartialHead := ⟨piece, PT.fill side, c.want, g.group, c.gen⟩
  let dst := match c.next g.position with
    | some n => g.rankAt n
    | none => c.spare
  let s1 := own.2.sendPartial .fill dst h out
  { s1 with res := { s1.res with passed := NSet.add s1.res.passed (passedKey c side piece) } }

/-- The spare writes a piece: data to both sides, parity to its own. -/
def State.fillPiece (s : State) (c : FillChain) (side piece : Nat) (bs : List PByte) : State :=
  let g := s.pgroup c.entry
  let s1 := if c.want < 16 then (s.putPiece 0 piece bs).putPiece 1 piece bs else s.writeParity g side piece bs
  ({ s1 with res := { s1.res with passed := NSet.add s1.res.passed (passedKey c side piece) } }).addReg
    Reg.SAF_FILL_STATUS_PIECES 1

def State.takeFill (s : State) (h : PartialHead) (bs : List PByte) : State :=
  match s.res.chains.find? fun c => c.want == h.want && c.gen == h.gen && (s.pgroup c.entry).group == h.group with
  | none => s
  | some c => if s.receives c then s.fillPiece c (h.kind - 2) h.piece bs else s.fillOn c (h.kind - 2) h.piece bs

/-- The first contributor starts every piece of every string. -/
def State.startChain (s : State) (c : FillChain) : State :=
  let g := s.pgroup c.entry
  if s.contributes c = false ∨ c.first ≠ some g.position then s
  else s.each (List.range g.pieces) fun s i =>
    s.each c.sides fun s side => s.fillOn c side i (clean (List.replicate pieceBytes 0))

/-- Has this module passed on, or written, every piece of a chain? -/
def State.chainDone (s : State) (c : FillChain) : Bool :=
  (List.range (s.pgroup c.entry).pieces).all fun i => c.sides.all fun side => NSet.has s.res.passed (passedKey c side i)

/-- Is a chain unfinished here? -/
def State.chainOpenHere (s : State) (c : FillChain) : Bool := (s.contributes c || s.receives c) && !s.chainDone c

def State.noteFilling (s : State) : State :=
  s.setFlag Reg.SAF_STATUS_FILLING (s.res.fill.isSome || s.res.chains.any s.chainOpenHere)

/-! ### Partials that have come -/

/-- A partial of a decode: added to and passed on, or, where this module asked for it, kept whole for the operations and the
repair that need it. DEDUCED: log entry 32. -/
def State.takeDecode (s : State) (h : PartialHead) (bs : List PByte) : State :=
  match ((List.range 3).map s.pgroup).find? fun g => g.role != 0 && g.group == h.group with
  | none => s
  | some g =>
    let goal := s.decodeGoal g h.want
    if g.position = goal ∧ NSet.has s.res.asked h.addr = false then s
    else
      let own := s.rolePiece g (h.kind - 8) h.piece
      let out := addScaled bs (rebuildCoeff (s.lostFor g h.want) h.want g.position) own.1
      if g.position ≠ goal then own.2.sendDecode .fill g h (g.position + 1) out
      else
        let s1 := { own.2 with res := { own.2.res with
          asked := NSet.del own.2.res.asked h.addr
          decoded := Tbl.put own.2.res.decoded h.addr out } }
        s1.each (s1.step.colls.filter fun c => !c.due.isEmpty) State.supplyDue

/-- Is it time for a partial: the update's in PARITY, an init's while its descriptor is at work, a fill's or a decode's at
once? -/
def State.partialDue (s : State) (h : PartialHead) : Bool :=
  if h.kind < 2 then s.stepState == 3 && h.gen == s.partialGen
  else if h.kind < 4 then s.res.chains.any fun c => c.want == h.want && c.gen == h.gen &&
    (s.pgroup c.entry).group == h.group
  else decide (8 ≤ h.kind) || s.initOf h.group

/-- Carry out whole partials whose time has come, one after another. -/
def State.drainPartials : Nat → State → State
  | 0, s => s
  | n + 1, s =>
    match s.res.partials.find? fun p => p.whole.isSome && s.partialDue (PartialHead.parse p.head) with
    | none => s
    | some p =>
      let h := PartialHead.parse p.head
      let bs := p.whole.getD []
      let s1 := { s with res := { s.res with partials := s.res.partials.erase p } }
      State.drainPartials n (
        if h.kind < 2 then s1.takeUpdate h bs
        else if h.kind < 4 then (s1.takeFill h bs).noteFilling
        else if h.kind < 8 then s1.takeInit h bs
        else s1.takeDecode h bs)

def State.drain (s : State) : State := State.drainPartials s.res.partials.length s

/-- Can the accesses to both data strings and to the parity sides enter their channels (R259)? -/
def State.stringsOpen (s : State) : Bool := s.spansOpen (s.sideSpans 0 ++ s.sideSpans 1 ++ s.paritySpans)

/-- A PARITY packet arrives and is acknowledged; a whole partial is passed on or written once its time has come. The packet keeps
its receive slots while memory has no slot for the strings (R259). -/
def execParityPartialReceive (l : Nat) (s : State) : Host.Outcome State Fault Refusal :=
  .next (if s.stringsOpen = false then s
    else s.onPacket l PK.parity fun s p =>
    let s1 := s.sendWack p.src p.tid p.tseq (!p.good)
    (s1.notePartial p).drain)

/-- Every piece has its WACK and every parity role is written, or a replay has none to make: the step enters GATE. -/
def execParityUpdateDone (s : State) : Host.Outcome State Fault Refusal :=
  .next (
    if s.stepState ≠ 3 ∨ (s.replaying = false ∧ s.updateDone = false) then s
    else (s.setReg Reg.TRN_STEP_STATUS_STATE 4).tryGate)

/-- The end of a step leaves no partial of its update behind. -/
def State.clearUpdate (s : State) : State :=
  { s with
    res := { s.res.dropDecodes (s.pgroup 0).position with
      written := s.res.written.filter fun k => decide (2 ≤ k % 8)
      partials := s.res.partials.filter fun p => decide (2 ≤ (PartialHead.parse p.head).kind) }
    net := { s.net with txns := s.net.txns.filter fun t => t.owner != .parity } }

/-! ### PARITY_INIT -/

def State.initDone (s : State) (k : Nat) (g : PGroup) : Bool :=
  (List.range g.pieces).all fun i => [0, 1].all fun side =>
    (if g.role = 1 then [0, 1] else [g.role - 2]).all fun q => NSet.has s.res.written (writtenKey k i (2 + 2 * side + q))

/-- Three erasures end once a SNAPSHOT_LOAD has restored the shards and a PARITY_INIT has rebuilt the parity of every group of the
module (R487, R497). DEDUCED: log entry 38. -/
def State.endExhaustion (s : State) : State :=
  if s.res.restored = true ∧ ((s.pgroups.filter fun g => g.role != 0).all fun g => NSet.has s.res.rebuilt g.group) = true then
    { s.setFlag Reg.SAF_STATUS_EXHAUSTED false with res := { s.res with exhausted := [] } }
  else s

/-- A PARITY_INIT starts its chains; once this module's part is done, it completes, and the group counts as rebuilt. -/
def execParityInit (r j : Nat) (s : State) : Host.Outcome State Fault Refusal :=
  .next (
    let entry := fun (s : State) (d : Desc) =>
      ((List.range 3).map fun k => (k, s.pgroup k)).find? fun x => x.2.role != 0 && x.2.group == d.n 0 4
    match s.working r j 0x2B with
    | some d =>
      (match entry s d with
       | none => s
       | some x =>
         if s.initDone x.1 x.2 = false then s
         else
           let s1 := { s with res := { s.res with
             rebuilt := NSet.add s.res.rebuilt x.2.group
             written := s.res.written.filter fun k => !(k / 2 ^ 19 == x.1 && decide (2 ≤ k % 8)) } }
           s1.endExhaustion.finish r j St.ok)
    | none => s.onDesc r j 0x2B fun s d =>
      if s.stringsOpen = false then s
      else if s.stepState ≠ 0 then s.finish r j St.paramCode
      else match entry s d with
        | none => s.finish r j St.paramCode
        | some x =>
          let s1 := s.take r j
          let s2 := if x.2.role = 1 ∧ firstData (s1.erased x.2) = some x.2.position then
              s1.each (List.range x.2.pieces) fun s i =>
                s.each [(0, 0), (0, 1), (1, 0), (1, 1)] fun s y =>
                  s.initOn x.2 ⟨i, PT.init y.1 y.2, 0, x.2.group, 0⟩ (clean (List.replicate pieceBytes 0))
            else s1
          s2.drain)

/-! ### Absent ranks (R484, R487, R494) -/

/-- A module's groups that a rank belongs to. -/
def State.groupsOf (s : State) (rank : Nat) : List (Nat × PGroup) :=
  ((List.range 3).map fun k => (k, s.pgroup k)).filter fun x => x.2.role != 0 && x.2.ranks.contains rank

/-- Chains of the fills that the absent table asks for now. -/
def State.fillChains (s : State) : List FillChain :=
  (s.res.absent.filter fun a => a.active && a.spare != 0xFFFFF).flatMap fun a =>
    (s.groupsOf a.rank).filterMap fun x =>
      let lost := s.erased x.2
      if 2 < lost.length then none
      else some ⟨x.1, x.2.ranks.idxOf a.rank, a.spare, lost, s.partialGen, s.regs.get Reg.TRN_COMMITTED_STEP % 2⟩

/-- The fill of the same position, whatever it is decoded from and whichever spare receives it. -/
def FillChain.same (a b : FillChain) : Bool := a.entry == b.entry && a.want == b.want

/-- Start the fills that are new, and start again those whose erasures or whose spare have changed (R487). -/
def State.renewFills (s : State) : State :=
  let kept := fun (c : FillChain) => s.res.chains.find? fun o => o.same c && o.spare == c.spare && o.lost == c.lost
  let next := s.fillChains.map fun c => (kept c).getD c
  let fresh := s.fillChains.filter fun c => (kept c).isNone
  let again := fresh.filter fun c => s.res.chains.any fun o => o.same c && s.chainOpenHere o
  let stale := fun (k : Nat) => fresh.any fun c => k / 2 ^ 17 == c.entry * 32 + c.want
  let s1 := { s with res := { s.res with
    chains := next
    passed := s.res.passed.filter fun k => !stale k
    partials := s.res.partials.filter fun p =>
      let h := PartialHead.parse p.head
      !(h.kind / 2 == 1) || !(fresh.any fun c => c.want == h.want && c.gen != h.gen) } }
  let s2 := if again.isEmpty then s1
    else { s1.addReg Reg.SAF_FILL_STATUS_RESTARTS 1 with regs :=
      (s1.addReg Reg.SAF_FILL_STATUS_RESTARTS 1).regs.set Reg.SAF_FILL_STATUS_PIECES 0 }
  ((s2.each fresh State.startChain).drain).noteFilling

/-- A rank is back: where it is a child of the gate tree, it is lost no more (R488, R492). -/
def State.childBack (s : State) (r : Nat) : State :=
  s.setGate { s.gate with children := s.gate.children.map fun p => if p.rank = r then { p with
    heard := s.now
    lost := false
    vote := 0
    covered := 0 } else p }

/-- One ABSENT takes effect at its release. A rank named again stays absent since its first release. -/
def State.absentNowOn (s : State) (a : AbsentRec) : State :=
  let others := s.res.absent.filter fun b => b.rank != a.rank || (!b.active && b != a)
  if a.clear then
    (({ s with res := { s.res with absent := others } }).childBack a.rank).finish a.ring a.index St.ok
  else
    let old := s.res.absent.find? fun b => b.active && b.rank == a.rank
    let s1 : State := { s with res := { s.res with absent := others ++ [{ a with
      active := true
      first := (old.map AbsentRec.first).getD a.step }] } }
    let worn := (s1.groupsOf a.rank).filter fun x => decide (2 < (s1.erased x.2).length)
    if worn ≠ [] then
      let groups := NSet.addAll s1.res.exhausted (worn.map fun (x : Nat × PGroup) => x.2.group)
      ({ s1.setFlag Reg.SAF_STATUS_EXHAUSTED true with res := { s1.res with
        exhausted := groups
        restored := false
        rebuilt := [] } }).finish a.ring a.index
        St.parityExhausted
    else if a.spare = s.rank then
      ({ s1 with res := { s1.res with fill := some a.rank } }).setReg Reg.SAF_FILL_STATUS_PIECES 0
    else s1.finish a.ring a.index St.ok

/-- The entries that take effect at the release of step `n`, and the fills that follow. -/
def State.releaseAbsent (s : State) (n : Nat) : State :=
  let due := s.res.absent.filter fun a => !a.active && a.step == n
  if due = [] then s else (s.each due State.absentNowOn).renewFills

/-- An ABSENT is checked and waits for its release. One that clears the entry of a module held for repair acts once no step is in
progress, since no step can be armed while that entry stands (R489). DEDUCED: log entry 38. -/
def execAbsent (r j : Nat) (s : State) : Host.Outcome State Fault Refusal :=
  .next (s.onDesc r j 0x2A fun s d =>
    let w := d.n 0 4
    let rank := bitsOf w 19 0
    let clear := bitOf w 20
    let spare := d.n 4 4 % 2 ^ 20
    let others := s.res.absent.filter fun a => a.rank != rank
    let live := others.filter fun a => !a.clear
    if clear = false ∧ spare ≠ 0xFFFFF ∧ (live.any fun a => a.spare == spare || (a.rank == spare && spare != rank)) = true then
      s.finish r j St.spareNone
    else if clear = false ∧ 64 ≤ (live.map AbsentRec.rank).eraseDups.length then s.finish r j St.paramCode
    else
      let a : AbsentRec := ⟨r, j, rank, clear, bitOf w 21, spare, d.n 8 8, false, d.n 8 8⟩
      if clear = true ∧ s.fillsItself rank = true then
        (if s.stepState = 0 ∧ s.step.armed.isNone then ((s.take r j).absentNowOn a).renewFills else s)
      else ({ s with res := { s.res with absent := s.res.absent ++ [a] } }).take r j)

/-- The last fill piece is written: the tags of the listed shards follow, with the rank's last committed step, and the ABSENT
completes. A module held for repair is whole again, and its own entry is cleared (R489). DEDUCED: log entry 38. -/
def execSpareFillDone (s : State) : Host.Outcome State Fault Refusal :=
  .next (match s.res.fill with
    | none => s
    | some rank =>
      let mine := s.res.chains.filter s.receives
      match s.res.absent.find? fun a => a.active && a.rank == rank && a.spare == s.rank with
      | none => s
      | some a =>
        if mine = [] ∨ mine.any (fun c => !s.chainDone c) then s
        else
          let n := (a.first + 2 ^ 64 - 1) % 2 ^ 64
          let s1 := s.each s.shards fun s h =>
            s.stackWrite (s.tagAddr h.id) (clean (tagBytes n (s.sideDigest h (n % 2))))
          let s2 := { s1 with res := { s1.res with
            fill := none
            absent := if a.hold = true ∧ a.rank = s.rank then s1.res.absent.erase a else s1.res.absent } }
          (s2.noteFilling).finish a.ring a.index St.ok)

/-! ### Repair of committed pieces (R490) -/

/-- Does piece `i` of a side hold a granule of the retired channel (R267, R490)? -/
def State.holdsRetired (s : State) (spans : List (Nat × Nat)) (i : Nat) : Bool :=
  (List.range (pieceBytes / 64)).any fun k => match spanAt spans (pieceBytes * i + 64 * k) with
    | some a => s.chanRetired (locate a).chan
    | none => false

/-- The marks of a retired channel become marks of the pieces of the committed side that hold a granule of it. -/
def State.expandMarks (s : State) : State :=
  if s.res.chanMarked = false then s
  else
    let side := s.regs.get Reg.TRN_COMMITTED_STEP % 2
    let n := (s.stringLen side + pieceBytes - 1) / pieceBytes
    let hit := (List.range n).filter (s.holdsRetired (s.sideSpans side))
    { s with res := { s.res with
      chanMarked := false
      pieces := NSet.addAll s.res.pieces (hit.map fun i => side * 2 ^ 16 + i) } }

/-- Is a mark of a granule one of piece `i` of a side? -/
def markOf (spans : List (Nat × Nat)) (side i m : Nat) : Bool := m % 2 == side && (piecesOf spans 0 (m / 2)).contains i

/-- Is piece `i` of a side marked for repair (R490)? -/
def State.isMarked (s : State) (side i : Nat) : Bool :=
  NSet.has s.res.pieces (side * 2 ^ 16 + i) || s.res.marked.any (markOf (s.sideSpans side) side i)

/-- Take the marks of a piece away. -/
def State.unmark (s : State) (side i : Nat) : State :=
  { s with res := { s.res with
    pieces := NSet.del s.res.pieces (side * 2 ^ 16 + i)
    marked := s.res.marked.filter fun m => !markOf (s.sideSpans side) side i m } }

/-- Is a piece of this data member still marked? -/
def State.marksLeft (s : State) : Bool :=
  !(s.res.marked.isEmpty && s.res.pieces.isEmpty) && (s.pgroup 0).role == 1 &&
    (List.range (s.pgroup 0).pieces).any fun i => s.isMarked 0 i || s.isMarked 1 i

/-- A release that finds repairs still running holds its tiles at their entry until the last has ended (R490). DEDUCED: log
entry 61. DEDUCED: log entry 61. -/
def State.holdForRepair (s : State) (b : Bool) : State :=
  { s with res := { s.res with repairing := b && s.marksLeft } }

/-- The repaired bytes of a marked piece, once they have come. -/
def State.repaired (s : State) (g : PGroup) (side i : Nat) : Option (Nat × List PByte) :=
  s.res.decoded.find? fun x =>
    (PartialHead.parse x.1).same ⟨i, PT.decode side, g.position, g.group, 0⟩

/-- Has the parity group been asked for a marked piece? -/
def State.repairAsked (s : State) (g : PGroup) (side i : Nat) : Bool :=
  s.res.asked.any fun a => (PartialHead.parse a).same ⟨i, PT.decode side, g.position, g.group, 0⟩

/-- PIECE_REPAIR (R490): After a step has ended, a marked piece is asked of its group, and, once it has come, written back.
DEDUCED: log entry 61. -/
def execPieceRepair (i side : Nat) (s : State) : Host.Outcome State Fault Refusal :=
  .next (
    if (2 ≤ s.stepState ∧ s.res.repairing = false) ∨ s.stringsOpen = false then s
    else
      let s0 := s.expandMarks
      if s0.isMarked side i = false then s
      else
        let g := s0.pgroup 0
        let s1 := (s0.unmark side i).holdForRepair s.res.repairing
        if 2 < (s0.lostFor g g.position).length then s1.event 6 St.parityExhausted 0 g.group
        else match s0.repaired g side i with
          | some x =>
            ({ s1 with res := { s1.res with decoded := s1.res.decoded.erase x } } : State).putPiece side i x.2 |>.addReg
              Reg.SAF_FILL_STATUS_REPAIRS 1
          | none => if s0.repairAsked g side i then s0 else s0.askPiece .fill g g.position side i)

end Sys2Proof.Machine
end

