-- ==== Sys2Proof/Machine/Steps.lean ====
section
/-! DEFINITION. The step machinery (R402 to R410, R428 to R436): arming and admitting, the release, the end of a
step, and its record. -/

namespace Sys2Proof.Machine

/-! ### STEP_ARM (R405, R406) -/

def State.committed (s : State) : Option Nat :=
  if s.regs.flag Reg.TRN_STEP_STATUS_COMMITTED_VALID then some (s.regs.get Reg.TRN_COMMITTED_STEP) else none

/-- The configuration that a STEP_ARM gives, without an original record. DEDUCED: log entry 36. -/
def State.armCfg (s : State) (d : Desc) : StepCfg :=
  let f := d.n 43 1
  let base := s.regs.get Reg.TRN_TRACE_BASE_ADDR
  let size := s.regs.get Reg.TRN_TRACE_CTL_SIZE
  { ring := d.ring, index := d.index, step := d.n 0 8, release := d.n 8 8, schedule := d.n 16 8, dataSeed := d.n 24 8
    record := d.n 32 8, mbTotal := d.n 40 3, eval := bitOf f 0, replay := bitOf f 1, trace := bitOf f 2
    attempt := f / 8 % 4, admitFirst := d.n 44 2, admitCount := d.n 46 2, late := decide (d.n 8 8 < s.now)
    traceBase := base, traceSize := if s.judge .hostOnly base (4096 * size) = none then size else 0
    traceFirst := s.regs.get Reg.TRN_TRACE_CTL_TILE_FIRST, traceCount := s.regs.get Reg.TRN_TRACE_CTL_TILE_COUNT
    original := [] }

/-- A training step: neither an eval step nor a replay. -/
def StepCfg.training (c : StepCfg) : Bool := !c.eval && !c.replay

/-- The number that the next training step must carry, once something is committed. -/
def State.nextStep (s : State) (committed : Nat) : Nat :=
  match s.step.run with
  | some r => if r.cfg.training then (r.cfg.step + 1) % 2 ^ 64 else (committed + 1) % 2 ^ 64
  | none => (committed + 1) % 2 ^ 64

def recordBytes : Nat := 74752

/-- Rows 2 to 7 of Table 11.5. In row 7 an address that R22 refuses gives that refusal, a record that runs past its window, or
whose address Table 11.4's alignment does not admit, ST_PARAM_CODE. DEDUCED: log entry 34. -/
def State.armRefusal (s : State) (c : StepCfg) : Option Nat :=
  if s.step.armed.isSome then some St.paramCode
  else if (c.eval ∧ c.replay) ∨ 65536 < c.mbTotal ∨ 65536 < c.admitFirst + c.admitCount then some St.paramCode
  else if s.res.absent.any (fun a => a.active && a.hold) ∨ s.regs.flag Reg.SAF_STATUS_ISOLATED ∨
      (c.training ∧ s.res.exhausted ≠ []) then some St.commitBlocked
  else if c.training ∧ s.committed.isSome ∧ c.step ≠ s.nextStep (s.committed.getD 0) then some St.paramCode
  else if c.eval ∧ s.committed ≠ some c.step then some St.paramCode
  else match s.judge .hostOnly c.record 1 with
    | some e => some e
    | none => if (s.judge .hostOnly c.record recordBytes).isSome ∨ c.record % 4096 ≠ 0 then some St.paramCode else none

/-- The original record of a replay, which must be of the same step, schedule and data (R435). -/
def State.replayRecord (s : State) (v : HostView) (c : StepCfg) : Except (Nat × Nat) (List Byte) × State :=
  let a := s.regs.get Reg.TRN_REPLAY_REF_ADDR
  match s.judge .hostOnly a recordBytes with
  | some e => (.error (e, 0), s)
  | none =>
    match s.readStruct v a recordBytes with
    | (.error e, s1) => (.error e, s1)
    | (.ok b, s1) =>
      let n := fun i => leNat ((b.drop i).take 8)
      if n 0 = c.step ∧ n 8 = c.schedule ∧ n 24 = c.dataSeed then (.ok b, s1) else (.error (St.paramCode, 0), s1)

/-- The step is armed. DEDUCED: log entry 34. -/
def State.armStep (s : State) (c : StepCfg) : State :=
  let s1 := (s.take c.ring c.index)
  let s2 := { s1 with step := { s1.step with
    armed := some c
    admitted := []
    drops := []
    held := none } }
  if s2.stepState = 0 then s2.setReg Reg.TRN_STEP_STATUS_STATE 1 else s2

/-- STEP_ARM (R406): A STEP_ARM is checked and arms a training, eval or replay step for its release time. DEDUCED: log entry
34. -/
def execStepArm (r j : Nat) (v : HostView) (s : State) : Host.Outcome State Fault Refusal :=
  .next (match s.ready r j 0x10 with
    | none => s
    | some d =>
      let c := s.armCfg d
      if s.host.stuck d.unit then s
      else if c.mbTotal = 0 then s.finish r j St.ok
      else match s.armRefusal c with
        | some e => s.finish r j e
        | none =>
          if c.replay = false then s.armStep c
          else match s.replayRecord v c with
            | (.error e, s1) => s1.complete r j e.1 e.2 0
            | (.ok b, s1) => s1.armStep { c with original := b })

/-! ### MB_ADMIT (R409, R410) -/

/-- The refusals of rows 2 to 5 of Table 11.7. -/
def State.admitRefusal (s : State) (d : Desc) : Option Nat :=
  let mb := d.n 16 4
  let tokens := d.n 20 4
  let bucket := d.n 24 1 % 8
  match s.step.armed with
  | none => some St.paramCode
  | some c =>
    if c.step ≠ d.n 8 8 ∨ c.eval ≠ d.eval then some St.paramCode
    else if mb < c.admitFirst ∨ c.admitFirst + c.admitCount ≤ mb ∨ s.step.admitted.any (fun m => m.id == mb) then
      some St.paramCode
    else if min 4194304 (s.regs.get Reg.TRN_LIMITS_MAX_TOKENS) < tokens then some St.mbTooLong
    else if s.regs.getAt Reg.TRN_BUCKET_VALID bucket = 0 ∨ s.regs.getAt Reg.TRN_BUCKET_LEN bucket < tokens then
      some St.paramCode
    else none

/-- MB_ADMIT (R410): A micro-batch is checked and admitted to the armed step, its tokens digested into the input digest.
DEDUCED: log entry 35. -/
def execMbAdmit (r j : Nat) (v : HostView) (s : State) : Host.Outcome State Fault Refusal :=
  .next (s.onDesc r j 0x11 fun s d =>
    let tokens := d.n 20 4
    if tokens = 0 then s.finish r j St.ok
    else match s.admitRefusal d with
      | some e => s.finish r j e
      | none =>
        match s.tensor .local3 v (d.n 0 8) with
        | (.error e, s1) => s1.complete r j e.1 e.2 0
        | (.ok t, s1) =>
          if s.localOpen (d.n 0 8) 64 = false ∨ s.localOpen t.base (4 * tokens) = false then s
          else if t.fmt ≠ Fmt.int32.code ∨ t.mode ≠ 0 ∨ t.elems < tokens then s1.finish r j St.tdInvalid
          else
            let g := s1.get v t.base (4 * tokens)
            if g.err then g.st.finish r j St.strReadErr
            else if g.poison then g.st.complete r j St.poisonConsumed 16 0
            else
              ({ g.st with step := { g.st.step with
                admitted := g.st.step.admitted ++ [(⟨d.n 16 4, tokens, g.data⟩ : Mb)] } }).complete r j St.ok 0 (d.n 24 1 % 8))

/-! ### The release (R407, R408) -/

/-- A pair with its initial values. -/
def Sem.loaded (x : Sem) : Sem :=
  { x with
    full := x.fullInit
    empty := x.emptyInit
    fullRemote := false
    emptyRemote := false }

/-- Every tile pair and every compute-die channel pair takes its initial values. -/
def State.loadPairs (s : State) : State :=
  { s with
    tiles := Tbl.mapVals (fun _ t => { t with
      sems := Tbl.mapVals (fun _ x => x.loaded) t.sems
      raised := [] }) s.tiles
    chans := Tbl.mapVals (fun k c => if k / 2048 < 4 then { c with sem := c.sem.loaded } else c) s.chans }

/-- Signals held for this release are applied, the others discarded. -/
def State.applyEarly (s : State) : State :=
  let now := s.net.early.filter fun e => e.1 == s.step.lastStep % 4 && e.2.1 == s.step.lastAttempt % 4
  ({ s with net := { s.net with early := [] } }).each now fun s e => s.applySignal e.2.2.1 (identRaiser e.2.2.2)

/-- Each tile's idle counters now. -/
def State.idleNow (s : State) : List (Nat × Nat) :=
  s.tiles.flatMap fun x => x.2.idle.map fun y => (x.1 * 16 + y.1, y.2)

/-- The registers of the step at its release. DEDUCED: log entry 34. -/
def RegFile.release (r : RegFile) (c : StepCfg) : RegFile :=
  let r1 := ((((((r.set Reg.TRN_STEP_NUM_STEP c.step).set Reg.TRN_STEP_STATUS_STATE 2).setFlag Reg.TRN_STEP_STATUS_EVAL
    c.eval).setFlag Reg.TRN_STEP_STATUS_REPLAY c.replay).setFlag Reg.TRN_STEP_STATUS_FROZEN false).set Reg.SAF_STATUS_VOTE 0).set
    Reg.SAF_STATUS_REASON 0
  if c.trace then (r1.set Reg.TRN_TRACE_STATUS_ENTRIES 0).set Reg.TRN_TRACE_STATUS_LOST 0 else r1

/-- The records of the step at its release: mask, carriages, chains and log are clear; a replay takes the original mask. -/
def StepSt.release (t : StepSt) (c : StepCfg) (now : Nat) (idle : List (Nat × Nat)) : StepSt :=
  { t with
    armed := none
    admitted := []
    drops := []
    held := none
    run := some ⟨c, now, match t.held with
      | some h => now - h
      | none => 0, t.admitted, idle, 0, false⟩
    mask := if c.replay then dropIds ((c.original.drop 1024).take 8192) else []
    closed := false
    log := []
    carriages := []
    chains := []
    folded := []
    degraded := []
    builds := [] }

/-- The drops that a release brings: ids not admitted, then the ranges of MB_DROP. -/
def State.releaseDrops (s : State) (c : StepCfg) (admitted : List Mb) (drops : List MbDrop) : State :=
  let ids := (List.range c.admitCount).map (c.admitFirst + ·)
  (s.dropBits 1 (ids.filter fun i => !admitted.any fun m => m.id == i)).each drops fun s d =>
    s.dropBits d.cause ((List.range (min d.count 65536)).map (d.first + ·))

/-- The step opens: the release in one action, but for the vote of a module that cannot hold its part. -/
def State.openStep (s : State) (c : StepCfg) : State :=
  let s0 := { s with step := { s.step with
    lastStep := c.step
    lastAttempt := c.attempt } }
  let s1 := (s0.releaseLinks c.step).releaseAbsent c.step
  let s2 := { s1 with
    regs := s1.regs.release c
    step := s1.step.release c s1.now s1.idleNow }
  let s3 := { s2 with tiles := Tbl.mapVals (fun _ t => t.openStep) s2.tiles }.loadPairs.applyEarly
  let s4 := s3.each (s3.tiles.map Prod.fst) fun s t => s.takeTile t ((s.tile t).release t c.step)
  (s4.releaseDrops c s.step.admitted s.step.drops).holdForRepair true

/-- The release of an armed step (R407). -/
def State.releaseStep (s : State) (c : StepCfg) : State :=
  let s1 := s.openStep c
  if s1.cannotHold then s1.cause 5 else s1

/-- RELEASE_TIME of the armed step has come: the step starts, or the release is held while another step is open or the
module is parked, or on its way there (R521). DEDUCED: log entry 50. -/
def execStepRelease (_v : HostView) (s : State) : Host.Outcome State Fault Refusal :=
  .next (match s.step.armed with
    | none => s
    | some c =>
      if s.now < c.release then s
      else if s.stepState ≤ 1 ∧ s.fab.parked = false ∧ s.parkDue = false then s.releaseStep c
      else if s.step.held.isSome then s
      else { s with step := { s.step with held := some s.now } })

/-! ### The record (R432, R434) -/

/-- SM3 of the admitted inputs. -/
def inputDigest (mbs : List Mb) : List Byte :=
  Config.sm3 ((mbs.mergeSort fun a b => decide (a.id ≤ b.id)).flatMap fun m =>
    leBytes 4 m.id ++ leBytes 4 m.tokens ++ m.bytes)

def LogRec.bytes (e : LogRec) : List Byte :=
  leBytes 1 e.kind ++ leBytes 1 e.cause ++ leBytes 2 0 ++ leBytes 4 e.arg0 ++ leBytes 4 e.arg1 ++ leBytes 4 0

/-- Rise of the idle counters of a cause since the release, over all tiles. -/
def State.idleRise (s : State) (r : RunSt) (cause : Nat) : Nat :=
  (s.tiles.map fun x => Tbl.get x.2.idle 0 cause - Tbl.get r.idleBase 0 (x.1 * 16 + cause)).foldl (· + ·) 0

/-- The first `n` bytes of a digest. -/
def padTo (n : Nat) (b : List Byte) : List Byte := (b ++ List.replicate n 0).take n

/-- The 74,752 bytes of the step record; `flags` holds COMMITTED and ABORTED. -/
def State.record (s : State) (r : RunSt) (flags status reason : Nat) (digest : List Byte) : List Byte :=
  let c := r.cfg
  let bit := fun (b : Bool) (k : Nat) => if b then k else 0
  let fl := flags + bit c.eval 4 + bit c.replay 8 + bit c.late 16 + bit r.diverged 32
  let idle := (List.range 9).flatMap fun k => leBytes 8 (s.idleRise r k)
  leBytes 8 c.step ++ leBytes 8 c.schedule ++ leBytes 8 s.seed ++ leBytes 8 c.dataSeed ++
  padTo 32 (inputDigest r.mbs) ++ padTo 32 digest ++ leBytes 8 r.releasedAt ++ leBytes 8 s.now ++
  leBytes 2 status ++ leBytes 1 fl ++ leBytes 1 reason ++ leBytes 4 c.mbTotal ++ leBytes 4 s.step.mask.length ++
  leBytes 4 s.step.log.length ++ idle ++ leBytes 8 r.waited ++ List.replicate 816 0 ++ dropBytes s.step.mask ++
  padTo 65536 (s.step.log.flatMap LogRec.bytes)

/-- The record is written, the STEP_ARM completes, and the module is IDLE. -/
def State.closeStep (s : State) (r : RunSt) (flags status reason : Nat) (digest : List Byte) (result : Nat) : State :=
  let s1 := (s.put r.cfg.record (clean (s.record r flags status reason digest))).complete r.cfg.ring r.cfg.index status 0 result
  ({ s1.clearUpdate with
    step := { s1.step with run := none }
    gate := s1.gate.release
    regs := ((s1.regs.set Reg.TRN_STEP_STATUS_STATE 0).setFlag Reg.TRN_STEP_STATUS_EVAL false).setFlag
      Reg.TRN_STEP_STATUS_REPLAY false }).expandMarks

/-! ### The end of RUNNING (R402) -/

/-- Has every released tile completed END, and every step descriptor of the step? DEDUCED: log entry 33. -/
def State.runDone (s : State) : Bool :=
  (s.tiles.all fun x => (x.2.state == .parked || x.2.state == .loading) && x.2.held.isNone) &&
    !s.host.descs.any fun d => d.ofStep && d.taken && d.eval == s.evalStep

/-- The shards of the committed side whose digest differs from their tag. -/
def State.changedShards (s : State) (side : Nat) : List Shard :=
  s.shards.filter fun h => (s.sideDigest h side).take 8 != s.stack.read (s.tagAddr h.id + 8) 8

/-! ### Commit (R428) -/

/-- floor(log2(n / d)) for positive n and d. -/
def floorLog2 (n d : Nat) : Int :=
  let k : Int := (Nat.log2 n : Int) - (Nat.log2 d : Int)
  let fits := if 0 ≤ k then decide (d * 2 ^ k.toNat ≤ n) else decide (d ≤ n * 2 ^ (-k).toNat)
  if fits then k else k - 1

/-- Exponent of the scale that a record derives from its largest magnitude, an FP32 word (R84). -/
def scaleExp (fmt amax margin : Nat) : Int :=
  match val32 amax with
  | .num _ m e =>
    if m = 0 then 0
    else
      let top := if fmt = Fmt.e5m2.code then 57344 else 448
      let k := (if 0 ≤ e then floorLog2 top (m * 2 ^ e.toNat) else floorLog2 (top * 2 ^ (-e).toNat) m) - margin
      max (-126) (min 127 k)
  | _ => 0

/-- A calibrator record at the commit of step `n` (R84). DEDUCED: log entry 37. -/
def commitRecord (m : Mem) (a n margin fmt : Nat) : Mem :=
  let fill := m.nat (a + 84) 4
  let m1 := if fill = 0 then m.writeRaw a (List.replicate 64 0) false else m
  let m2 := ((m1.writeRaw (a + 4 * (n % 16)) (m1.read (a + 72) 4) false).writeRaw (a + 84) (leBytes 4 (min 16 (fill + 1))) false
    ).writeRaw (a + 88) (leBytes 8 n) false
  let amax := (List.range 16).foldl (fun x i => max x (m2.nat (a + 4 * i) 4)) 0
  let scale := leBytes 4 ((scaleExp fmt amax margin + 127).toNat * 2 ^ 23)
  (m2.writeRaw (a + 64) (scale ++ scale) false).writeRaw (a + 72) (List.replicate 12 0) false

/-- What an abort does to a record: the step's magnitude and counts go. -/
def abortRecord (m : Mem) (a : Nat) : Mem := m.writeRaw (a + 72) (List.replicate 12 0) false

/-- Apply `f` to each calibrator record that the step has touched, by its place and format. The saturations that the step has
counted in them go to the health monitor (R85). -/
def State.records (s0 : State) (f : Mem → Nat → Nat → Mem) : State :=
  let base := s0.regs.get Reg.CMP_CAL_BASE_BASE * 128
  let s := s0.touchStack (s0.step.folded.map fun x => (base + 128 * x.1, 128))
  { s with
    stack := s.step.folded.foldl (fun m x => f m (base + 128 * x.1) x.2) s.stack
    res := { s.res with sats := s.step.folded.foldl (fun n x => n + s.stack.nat (base + 128 * x.1 + 76) 4) s.res.sats }
    step := { s.step with folded := [] } }

/-- Table records that the step has touched: those that hold bytes of it. -/
def State.touchedTables (s : State) : List Nat :=
  (List.range 4096).filter fun t => s.stack.nat (s.ctabBase + 4096 * t + 8) 8 != 0

def State.clearTable (s : State) (t : Nat) : State :=
  let a := s.ctabBase + 4096 * t
  (s.poke (a + 8) (List.replicate 16 0)).poke (a + 1024) (List.replicate 2048 0)

/-- A table record at a commit (R235): its ratio is noted, or it is rebuilt when the step compressed worse than THRESH
allows; its sums clear. DEDUCED: log entry 37. -/
def State.commitTable (s : State) (t : Nat) : State :=
  let a := s.ctabBase + 4096 * t
  let s := s.touchStack [(a, 3072)]
  let ratio := s.stack.nat (a + 4) 4
  let raw := s.stack.nat (a + 8) 8
  let cmp := s.stack.nat (a + 16) 8
  let f := (Fmt.ofCode (s.stack.nat (a + 2) 1 % 16)).getD .fp32
  let s1 :=
    if ratio = 0xFFFFFFFF then (if 0 < raw then s.poke (a + 4) (leBytes 4 (cmp * 2 ^ 16 / raw)) else s)
    else if ratio * (64 + s.regs.get Reg.CMP_CTAB_CTL_THRESH) * raw < cmp * 64 * 2 ^ 16 then
      let hist := (List.range (symShape f).1).map fun i => s.stack.nat (a + 1024 + 4 * i) 4
      let s2 := ((((s.poke (a + 320) (s.stack.read (a + 64) 256)).poke (a + 64) (packNibbles 256 (buildLengths hist))).poke a
        (leBytes 2 (s.stack.nat a 2 + 1))).poke (a + 4) (leBytes 4 0xFFFFFFFF)).addReg Reg.CMP_CTAB_STATUS_REBUILDS 1
      { s2 with step := { s2.step with rebuilding := s2.step.rebuilding ++ [t] } }
    else s
  s1.clearTable t

/-- A table builder ends the rebuild at the head of its queue. -/
def execTableRebuildDone (t : Nat) (s : State) : Host.Outcome State Fault Refusal :=
  .next (
    if (s.step.rebuilding.filter fun x => x % 4 == t % 4).head? = some t then
      { s with step := { s.step with rebuilding := s.step.rebuilding.erase t } }
    else s)

/-- The checksum histories of every tile take the step's ratio (R103). -/
def State.commitTiles (s : State) (n : Nat) : State :=
  { s with tiles := (List.range 16384).foldl (fun t k => Tbl.put t k ((Tbl.get t Tile.reset k).commitStep n)) s.tiles }

/-- Write each listed shard's tag. -/
def State.writeTags (s : State) (n : Nat) : State :=
  s.each s.shards fun s h => s.stackWrite (s.tagAddr h.id) (clean (tagBytes n (s.sideDigest h (n % 2))))

/-! #### Snapshots that a commit starts (R479, R495) -/

/-- Bytes of a snapshot image of a side. -/
def State.snapBytes (s : State) (side : Nat) (parity : Bool) : Nat :=
  4096 + ((s.sideSpans side).map fun x => pad4k (64 + x.2)).foldl (· + ·) 0 +
    (if parity then (s.parityRoles.map fun x => 2 * x.2.len).foldl (· + ·) 0 else 0)

/-- Where a snapshot may go: a host window of the own rank, or another rank's stacked memory. -/
def State.snapRefusal (s : State) (a n : Nat) : Option Nat :=
  if addrWindow a = 1 ∧ addrRank a = s.rank then some St.addrWindow
  else match s.judge AddrRule.snapshot a n with
    | some e => some e
    | none => if a % 4096 ≠ 0 then some St.paramCode else none

/-- The address and room of a snapshot taken on risk. -/
def State.riskSnap (s : State) : Bool :=
  let a := s.regs.get Reg.SAF_SNAP_ADDR * 4096
  let n := s.snapBytes (s.regs.get Reg.TRN_COMMITTED_STEP % 2) false
  s.regs.flag Reg.SAF_RISK_CTL_SNAP_AUTO && decide (s.regs.get Reg.SAF_RISK_CTL_SNAP_LEVEL ≤ s.regs.get Reg.SAF_HEALTH_RISK) &&
    a != 0 && decide (n ≤ 4096 * s.regs.get Reg.SAF_SNAP_PAGES_PAGES) && s.snapRefusal a n == none

/-- The ring that stands for SAF_SNAP, in place of a descriptor's. -/
def riskRing : Nat := 65536

/-- A number that no other snapshot taken on risk has. -/
def State.nextRisk (s : State) : Nat := ((s.res.snap.filter fun x => x.ring == riskRing).map fun x => x.index + 1).foldl max 0

/-- At a commit waiting snapshots become ready, and one is taken on risk. -/
def State.startSnaps (s : State) : State :=
  let ready : List Snap := s.res.snap.map fun x => { x with ready := true }
  { s with res := { s.res with
    snap := if s.riskSnap then ready ++ [⟨riskRing, s.nextRisk, true, false, false, false⟩] else ready } }

/-- Does a snapshot, or a fill that this module contributes to, still read what the last commit left?
DEDUCED: log entry 38. DEDUCED: log entry 46. -/
def State.commitHeld (s : State) : Bool :=
  s.res.snap.any (fun x => x.ready && !x.sent) || s.res.chains.any fun c => s.contributes c && !s.chainDone c

/-- What a step that does not commit leaves of calibrator and tables (R84, R235). DEDUCED: log entry 37. -/
def State.dropRecords (s : State) : State :=
  let s1 := s.records fun m a _ => abortRecord m a
  s1.each s1.touchedTables State.clearTable

/-- A replay ends: its digest must be the original's, and nothing of it commits. A gate that decided ABORT is recorded as the
reason GATE, and not acted upon (R435). DEDUCED: log entry 34. -/
def State.endReplay (s0 : State) (r : RunSt) : State :=
  let s := s0.touchStack (s0.listSpans (r.cfg.step % 2))
  let digest := padTo 32 (s.stateDigest (r.cfg.step % 2))
  let differs := digest != (r.cfg.original.drop 64).take 32
  let s1 := if differs then s.event 9 St.replayDiverged 0 0 else s
  s1.dropRecords.closeStep { r with diverged := r.diverged || differs } 0 St.ok (if s.gate.refused then 1 else 0) digest 0

/-- The commit actions have finished. A replay has none (R435). -/
def execStepCommitEnd (s : State) : Host.Outcome State Fault Refusal :=
  .next (match s.step.run with
    | none => s
    | some r =>
      let n := r.cfg.step
      if s.stepState ≠ 5 then s
      else if r.cfg.replay then (if s.spansOpen (s.listSpans (n % 2)) then s.endReplay r else s)
      else if s.commitHeld ∨ s.spansOpen (s.listSpans (n % 2)) = false then s
      else
        let s1 := (s.touchStack (s.listSpans (n % 2))).records fun m a f =>
          commitRecord m a n (s.regs.get Reg.CMP_CAL_CTL_MARGIN) f
        let s2 := (s1.each s1.touchedTables State.commitTable).commitTiles n
        let digest := s2.stateDigest (n % 2)
        let s3 := ((s2.writeTags n).setReg Reg.TRN_COMMITTED_STEP n).setFlag Reg.TRN_STEP_STATUS_COMMITTED_VALID true
        (s3.closeStep r 1 St.ok 0 digest n).startSnaps)

/-- What an aborted step leaves of calibrator, tables and checksum tolerances (R84, R103, R235). -/
def State.abortRecords (s : State) : State :=
  let s1 := s.dropRecords
  { s1 with tiles := Tbl.mapVals (fun _ t => t.abortStep) s1.tiles }

/-! ### The end of RUNNING: eval steps, training steps and replays (R403, R431, R435, R482) -/

/-- An eval step ends: committed state must not have changed, and nothing of the step is kept. -/
def State.endEval (s0 : State) (r : RunSt) : State :=
  let side := r.cfg.step % 2
  let s := s0.touchStack (s0.listSpans side)
  let bad := s.changedShards side
  let s1 := match bad with
    | [] => s
    | h :: _ => s.event 9 St.evalWrite 0 h.id
  s1.dropRecords.closeStep { r with diverged := r.diverged || !bad.isEmpty } 0 St.ok 0 (s.stateDigest side) 0

/-- RUNNING has ended: a training step enters PARITY and its update starts, a replay enters it with no update to make, and an
eval step, which has neither parity update nor gate, finishes. -/
def execStepRunningEnd (s : State) : Host.Outcome State Fault Refusal :=
  .next (match s.step.run with
    | none => s
    | some r =>
      if s.stepState ≠ 2 ∨ s.runDone = false then s
      else if r.cfg.replay then s.setReg Reg.TRN_STEP_STATUS_STATE 3
      else if s.spansOpen (s.pgroupSpan :: (s.listSpans 0 ++ s.listSpans 1)) = false then s
      else if r.cfg.eval then s.endEval r
      else (((s.touchStack [s.pgroupSpan]).setReg Reg.TRN_STEP_STATUS_STATE 3).startUpdate).drain)

/-! ### Abort (R429, R430) -/

/-- A STEP_ABORT of the step in progress or armed. One that waits behind another is disarmed. DEDUCED: log entry 34. -/
def execStepAbort (r j : Nat) (s : State) : Host.Outcome State Fault Refusal :=
  .next (s.onDesc r j 0x15 fun s d =>
    let n := d.n 0 8
    let behind := match s.step.armed with
      | some c => if s.stepState ≤ 1 ∨ c.step ≠ n then none else some c
      | none => none
    if s.stepState = 6 ∧ s.stepNumber = n then s.take r j
    else if s.abortable ∧ s.stepNumber = n then (s.take r j).abortStep 4
    else match behind with
      | some c =>
        (({ s with step := { s.step with
          armed := none
          admitted := []
          drops := []
          held := none } }).finish c.ring c.index St.stepAborted).finish r j St.ok
      | none => s.finish r j St.paramCode)

/-- A training step armed behind an aborted one is disarmed. -/
def State.disarm (s : State) : State :=
  match s.step.armed with
  | none => s
  | some c =>
    if c.training = false then s
    else ({ s with step := { s.step with
      armed := none
      admitted := []
      drops := []
      held := none } }).finish c.ring c.index St.stepAborted

/-- Every tile is parked: the aborted record is written and the module is IDLE. -/
def execAbortEnd (s : State) : Host.Outcome State Fault Refusal :=
  .next (match s.step.run with
    | none => s
    | some r =>
      if s.stepState ≠ 6 ∨ s.tiles.any (fun x => x.2.state != .parked && x.2.state != .loading) = true then s
      else
        let s1 := (s.abortRecords).event 9 St.stepAborted 0 r.reason
        let s2 := s1.closeStep r 2 St.stepAborted r.reason (List.replicate 32 0) 0
        let s3 := s2.each (s2.host.descs.filter fun d => d.taken && d.opcode == 0x15 && d.n 0 8 == r.cfg.step) fun s d =>
          s.finish d.ring d.index St.ok
        s3.disarm)

/-! ### MB_DROP (R491) -/

/-- MB_DROP (R491): An MB_DROP names micro-batches whose drop bits are set at the release of the armed step. DEDUCED: log
entry 35. DEDUCED: log entry 35. -/
def execMbDrop (r j : Nat) (s : State) : Host.Outcome State Fault Refusal :=
  .next (s.onDesc r j 0x2C fun s d =>
    let cause := d.n 16 1
    match s.step.armed with
    | some c =>
      if c.step ≠ d.n 0 8 ∨ (cause ≠ 3 ∧ cause ≠ 4) then s.finish r j St.paramCode
      else ({ s with step := { s.step with drops := s.step.drops ++ [(⟨d.n 8 4, d.n 12 4, cause⟩ : MbDrop)] } }).finish r j St.ok
    | none => s.finish r j St.paramCode)

end Sys2Proof.Machine
end

