-- ==== Sys2Proof/Machine/Resilience.lean ====
section
/-! DEFINITION. Snapshots of the committed state (R479, R495, R496) and the health monitor (R477 to R479). -/

namespace Sys2Proof.Machine

/-! ### SNAPSHOT (R494, R495) -/

/-- Is there a committed state to read at once? -/
def State.snapNow (s : State) : Bool := s.stepState == 0 && s.committed.isSome

/-- The side that a snapshot accepted now will read. -/
def State.snapSide (s : State) : Nat := (if s.snapNow then s.committed.getD 0 else s.stepNumber) % 2

/-- The refusal of a snapshot of `n` bytes to `a` with room for `room` bytes. -/
def State.snapshotRefusal (s : State) (a n room : Nat) : Option Nat :=
  match s.snapRefusal a n <|> s.listRefusal s.snapSide with
  | some e => some e
  | none =>
    if room < n then some St.paramCode
    else if s.hasRoute (addrRank a) then none else some St.lnkNoRoute

/-- A SNAPSHOT is accepted; `view` shows whether the host takes its writes. -/
def execSnapshot (r j : Nat) (v : HostView) (s : State) : Host.Outcome State Fault Refusal :=
  .next (s.onDesc r j 0x28 fun s d =>
    let a := d.n 0 8
    let n := s.snapBytes s.snapSide (bitOf (d.n 12 1) 0)
    match s.snapshotRefusal a n (4096 * d.n 8 4) with
    | some e => s.finish r j e
    | none =>
      let refused := addrWindow a == 2 && viewRefuses v (s.hostAddr (addrOffset a)) n
      let s1 := s.take r j
      { s1 with res := { s1.res with snap := s1.res.snap ++ [(⟨r, j, s.snapNow, false, refused, false⟩ : Snap)] } })

/-- A place in an image: zeros up to a whole number of 4 KiB pages. -/
def page4k (bs : List PByte) : List PByte := bs ++ clean (List.replicate (pad4k bs.length - bs.length) 0)

/-- One shard's entry of an image: its head, with its tag as stacked memory delivers it, and its bytes. -/
def State.snapEntry (s : State) (h : Shard) (t : Tensor) : List PByte × State :=
  let tag := s.stackRead (s.tagAddr h.id) 16
  let body := tag.2.stackRead (addrOffset t.base) t.bytes
  (page4k (clean (leBytes 4 h.id ++ leBytes 4 0 ++ leBytes 8 t.bytes) ++ tag.1 ++ clean (List.replicate 32 0) ++ body.1), body.2)

/-- The image of the committed side. -/
def State.snapImage (s0 : State) (parity : Bool) : List PByte × State :=
  let n := s0.committed.getD 0
  let s := s0.touchStack (s0.listSpans (n % 2))
  let head := leBytes 8 n ++ leBytes 4 s.shardCount ++ leBytes 4 (if parity then 1 else 0) ++
    padTo 32 (s.stateDigest (n % 2)) ++ leBytes 4 s.rank
  let e := s.shards.foldl (fun (acc : List PByte × State) h =>
    let x := acc.2.snapEntry h (s.sideTensor h (n % 2))
    (acc.1 ++ x.1, x.2)) (page4k (clean head), s)
  (if parity then s.parityRoles else []).foldl (fun (acc : List PByte × State) x =>
    let g := acc.2.stackRead x.2.base (2 * x.2.len)
    (acc.1 ++ g.1, g.2)) e

/-- Where a snapshot goes and whether it holds the parity sides: as its descriptor says, or as SAF_SNAP for one taken on
risk. -/
def State.snapDst (s : State) (r j : Nat) : Nat × Bool :=
  match s.host.desc r j with
  | some d => (d.n 0 8, bitOf (d.n 12 1) 0)
  | none => (s.regs.get Reg.SAF_SNAP_ADDR * 4096, false)

def State.setSnap (s : State) (x : Snap) : State :=
  { s with res := { s.res with snap := s.res.snap.map fun y => if y.ring = x.ring ∧ y.index = x.index then x else y } }

def State.dropSnap (s : State) (r j : Nat) : State :=
  { s with res := { s.res with snap := s.res.snap.filter fun y => !(y.ring == r && y.index == j) } }

/-- Read the committed side and send the image. -/
def State.sendSnap (s : State) (x : Snap) : State :=
  let dst := s.snapDst x.ring x.index
  let g := s.snapImage dst.2
  let s1 := g.2.setSnap { x with
    sent := true
    poison := g.1.any Prod.snd }
  if addrRank dst.1 ≠ s.rank then
    (s1.useTids 1).netWrite (.snapshot x.ring x.index) ⟨s1.net.nextTid, 0, true⟩ VC.snap false dst.1 0 g.1
  else if x.refused then s1
  else s1.put dst.1 g.1

/-- The image has been read and its writes acknowledged: the snapshot completes. -/
def State.endSnap (s : State) (x : Snap) : State :=
  let s1 := s.dropSnap x.ring x.index
  if x.refused then s1.finish x.ring x.index St.strWriteErr
  else if x.poison then s1.complete x.ring x.index St.poisonConsumed 16 0
  else s1.finish x.ring x.index St.ok

/-- A snapshot whose step has committed reads and sends its image, which releases the commit it was holding; once no write
of it is outstanding it completes. DEDUCED: log entry 46. -/
def execSnapshotDone (r j : Nat) (s : State) : Host.Outcome State Fault Refusal :=
  .next (match s.res.snap.find? fun x => x.ring == r && x.index == j with
    | none => s
    | some x =>
      let spans := s.listSpans ((s.committed.getD 0) % 2) ++ s.paritySpans
      if x.ready = false ∨ (x.sent = false ∧ s.spansOpen spans = false) then s
      else
        let s1 := if x.sent then s else s.sendSnap x
        let busy := s1.net.txns.any fun t => t.owner == .snapshot r j
        match s1.res.snap.find? fun y => y.ring == r && y.index == j with
        | none => s1
        | some y => if busy then s1 else s1.endSnap y)

/-! ### SNAPSHOT_LOAD (R494, R496) -/

/-- The entry heads of an image, against the state list: where each entry's bytes start, or the status and flags it ends
with. -/
def State.loadHeads (s : State) (v : HostView) : List Shard → Nat → Except (Nat × Nat) (List Nat) × State
  | [], a => (.ok [a], s)
  | h :: rest, a =>
    match s.judge .image a 64 with
    | some e => (.error (e, 0), s)
    | none =>
      match s.readStruct v a 64 with
      | (.error e, s1) => (.error e, s1)
      | (.ok b, s1) =>
        let n := leNat ((b.drop 8).take 8)
        if n ≠ (s1.sideTensor h 0).bytes ∨ n ≠ (s1.sideTensor h 1).bytes then (.error (St.tdInvalid, 0), s1)
        else
          match s1.loadHeads v rest (a + pad4k (64 + n)) with
          | (.error e, s2) => (.error e, s2)
          | (.ok l, s2) => (.ok (a :: l), s2)

/-- Write both sides and the tag of each listed shard from the image, whose first byte is at `a`. -/
def State.loadShards (s : State) (b : List Byte) (a : Nat) (l : List (Shard × Nat)) : State :=
  s.each l fun s x =>
    let e := b.drop (x.2 - a)
    let tag := (e.drop 16).take 16
    (s.each [0, 1] fun s side =>
      let t := s.sideTensor x.1 side
      s.stackWrite (addrOffset t.base) (clean ((e.drop 64).take t.bytes))).stackWrite (s.tagAddr x.1.id) (clean tag)

/-- Write the parity sides of each role, in role order. -/
def State.loadParity (s : State) (b : List Byte) : State :=
  (s.parityRoles.foldl (fun (acc : State × List Byte) x =>
    (acc.1.stackWrite x.2.base (clean (acc.2.take (2 * x.2.len))), acc.2.drop (2 * x.2.len))) (s, b)).1

/-- An image whose heads agree with the state list is read whole and written. -/
def State.loadImage (s : State) (v : HostView) (r j a : Nat) (head : List Byte) (places : List Nat) (parity : Bool) : State :=
  let shards := s.shards
  let last := (places.getLast?).getD a
  let n := last - a + (if parity then (s.parityRoles.map fun x => 2 * x.2.len).foldl (· + ·) 0 else 0)
  match s.judge .image a n with
  | some e => s.finish r j e
  | none =>
    match s.readStruct v a n with
    | (.error e, s1) => s1.complete r j e.1 e.2 0
    | (.ok b, s1) =>
      let step := leNat (head.take 8)
      let s2 := s1.loadShards b a (shards.zip places)
      let s3 := if parity then s2.loadParity (b.drop (last - a)) else s2
      let s4 := ((s3.setReg Reg.TRN_COMMITTED_STEP step).setFlag Reg.TRN_STEP_STATUS_COMMITTED_VALID true).take r j
      { s4 with res := { s4.res with load := some (r, j, (head.drop 16).take 32, step) } }

/-- SNAPSHOT_LOAD (R496): A SNAPSHOT_LOAD writes both sides, tags and the committed step from an image while IDLE. -/
def execSnapshotLoad (r j : Nat) (v : HostView) (s : State) : Host.Outcome State Fault Refusal :=
  .next (
    if s.res.load.isSome then s
    else s.onDesc r j 0x29 fun s d =>
      let a := d.n 0 8
      if s.stepState ≠ 0 ∨ s.step.armed.isSome then s.finish r j St.paramCode
      else if s.localOpen a 4096 = false ∨ s.spansOpen (s.listSpans 0 ++ s.listSpans 1 ++ s.paritySpans) = false then s
      else match s.judge .image a 4096 <|> s.listRefusal 0 <|> s.listRefusal 1 with
        | some e => s.finish r j e
        | none =>
          match s.readStruct v a 4096 with
          | (.error e, s1) => s1.complete r j e.1 e.2 0
          | (.ok head, s1) =>
            if leNat ((head.drop 8).take 4) ≠ s1.shardCount then s1.finish r j St.tdInvalid
            else match s1.loadHeads v s1.shards (a + 4096) with
              | (.error e, s2) => s2.complete r j e.1 e.2 0
              | (.ok places, s2) => s2.loadImage v r j a head places (bitOf (d.n 8 1) 0))

/-- The state digest is computed from what has been written and compared with the image's. A load that agrees restores the
module's shards; the parity of its groups is to be rebuilt after it (R487). -/
def execSnapshotLoadDone (r j : Nat) (s : State) : Host.Outcome State Fault Refusal :=
  .next (match s.res.load with
    | none => s
    | some (r', j', digest, step) =>
      if r' ≠ r ∨ j' ≠ j then s
      else
        let s0 := s.touchStack (s.listSpans (step % 2))
        let s1 := { s0 with res := { s0.res with load := none } }
        if padTo 32 (s1.stateDigest (step % 2)) = digest then
          ({ s1 with res := { s1.res with
            restored := true
            rebuilt := [] } }).finish r j St.ok
        else ((s1.setReg Reg.TRN_COMMITTED_STEP 0).setFlag Reg.TRN_STEP_STATUS_COMMITTED_VALID false).finish r j
          St.shardVersionMismatch)

/-! ### The health monitor (R477 to R479) -/

def sumOf (l : List Nat) : Nat := l.foldl (· + ·) 0

/-- What the monitor reads once a second: corrected memory errors of the channels and of the tiles, link retransmissions, checksum
retries and lockstep retries. -/
def State.healthCounts (s : State) : List Nat :=
  [sumOf (s.mem.chans.map fun x => x.2.corrected), sumOf (s.tiles.map fun x => x.2.corrected),
   sumOf ((List.range 32).map (s.regs.getAt Reg.LNK_LINK_ERR_RETRANS)), sumOf (s.tiles.map fun x => x.2.chkRetries),
   sumOf (s.tiles.map fun x => x.2.lockRetries)]

/-- The filtered temperature of the hottest die or stack. -/
def State.hottest (s : State) : Nat :=
  (((List.range 12).map (s.regs.getAt Reg.MEM_STACK_STATUS_TEMP)) ++
    [Reg.SAF_DIE_TEMP_CD0, Reg.SAF_DIE_TEMP_CD1, Reg.SAF_DIE_TEMP_CD2, Reg.SAF_DIE_TEMP_CD3, Reg.SAF_DIE_TEMP_PD0,
     Reg.SAF_DIE_TEMP_PD1].map s.regs.get).foldl max 0

/-- One second's sample of the eight inputs: the rise of each count since the last, the levels now, and the saturations that step
boundaries have passed on (R85). -/
def State.healthSample (s : State) (counts : List Nat) : List Nat :=
  let d := fun i => (counts[i]?).getD 0 - (s.res.lastCounts[i]?).getD 0
  [d 0 + d 1, d 2, d 3, d 4, (s.fab.margins.map Prod.snd).foldl max 0, s.hottest - 95, s.regs.get Reg.SAF_INPUT_RIPPLE,
    s.res.sats]

/-- The inputs that are levels in mV: the lost margin and the ripple. -/
def inputPeaks (k : Nat) : Bool := k == 4 || k == 6

/-- An input over the trailing hour: its highest value for the margin and the ripple, its sum for the rest.
DEDUCED: log entry 45. -/
def inputOver (samples : List (List Nat)) (k : Nat) : Nat :=
  let l := samples.map fun x => (x[k]?).getD 0
  if inputPeaks k then l.foldl max 0 else sumOf l

/-- How many of an input's thresholds, each standing for 2^(T/8), a value has reached. DEDUCED: log entry 45. -/
def riskScore (t value : Nat) : Nat :=
  ((List.range 7).filter fun j => decide (2 ^ bitsOf t (8 * j + 7) (8 * j) ≤ value ^ 8)).length

/-- The risk level of eight scores. -/
def riskOf (scores : List Nat) : Nat :=
  min 7 (scores.foldl max 0 + if 3 ≤ (scores.filter fun x => decide (2 ≤ x)).length then 1 else 0)

/-- Once per second. -/
def execHealthEvaluate (s : State) : Host.Outcome State Fault Refusal :=
  .next (
    let counts := s.healthCounts
    let sample := s.healthSample counts
    let samples := (sample :: s.res.samples).take 3600
    let scores := (List.range 8).map fun k => riskScore (s.regs.getAt Reg.SAF_HEALTH_THRESH_T k) (inputOver samples k)
    let risk := riskOf scores
    let was := s.regs.get Reg.SAF_HEALTH_RISK
    let s1 := { s with
      res := { s.res with
        samples := samples
        lastCounts := counts
        sats := 0
        lifetime := (List.range 8).map fun k => (s.res.lifetime[k]?).getD 0 + (sample[k]?).getD 0 }
      boot := { s.boot with powerSecs := s.boot.powerSecs + 1 }
      regs := (s.regs.set Reg.SAF_HEALTH_RISK risk).set Reg.SAF_HEALTH_SCORES
        (((List.range 8).zip scores).foldl (fun w x => w + x.2 * 2 ^ (3 * x.1)) 0) }
    if was < risk ∧ s.regs.get Reg.SAF_RISK_CTL_EVENT_LEVEL ≤ risk then s1.event 6 St.riskRaised 0 risk else s1)

end Sys2Proof.Machine
end

