-- ==== Sys2Proof/Machine/Boot.lean ====
section
/-! DEFINITION. Flash (R502 to R508, R515 to R518): settings images and their checks, the selection of one, signed updates,
and the health area. -/

namespace Sys2Proof.Machine

/-! ### Settings images (R503 to R506) -/

/-- A little-endian field of an image. -/
def imgNat (b : List Byte) (i n : Nat) : Nat := leNat ((b.drop i).take n)

def imgSeq (b : List Byte) : Nat := imgNat b 8 8

def imgRollback (b : List Byte) : Nat := imgNat b 16 4

def imgLen (b : List Byte) : Nat := imgNat b 20 4

def imgDigest (b : List Byte) : List Byte := (b.drop (64 + imgLen b)).take 32

/-- A record of an image, with the bytes that fill its value up to 8 B (R504). -/
structure ImgRec where
  type : Nat
  value : List Byte
  pad : List Byte
  deriving DecidableEq, Repr

/-- `n` records that fill the bytes exactly. -/
def imageRecords : Nat → List Byte → Option (List ImgRec)
  | 0, b => if b = [] then some [] else none
  | n + 1, b =>
    let len := imgNat b 4 4
    let total := 8 + (len + 7) / 8 * 8
    if b.length < total then none
    else (imageRecords n (b.drop total)).map fun l =>
      ⟨imgNat b 0 2, (b.drop 8).take len, (b.take total).drop (8 + len)⟩ :: l

def imgRecs (b : List Byte) : Option (List ImgRec) := imageRecords (imgNat b 24 4) ((b.drop 64).take (imgLen b))

/-- The value of the first record of a type. -/
def recValue (l : List ImgRec) (type : Nat) : List Byte :=
  match l.find? fun x => x.type == type with
  | some x => x.value
  | none => []

def recCount (l : List ImgRec) (type : Nat) : Nat := (l.filter fun x => x.type == type).length

/-- Entries of 16 bytes. -/
def cutEntries : Nat → List Byte → List (Nat × Nat)
  | 0, _ => []
  | n + 1, b => (imgNat b 0 4, imgNat b 8 8) :: cutEntries n (b.drop 16)

/-- BAR0 offsets and values that an image's REG records give, in order. -/
def regEntries (l : List ImgRec) : List (Nat × Nat) :=
  (l.filter fun x => x.type == 3).flatMap fun x => cutEntries (x.value.length / 16) x.value

/-- Does an entry name a register with RI fields, with every bit outside them 0 (R505)? -/
def regEntryOk (e : Nat × Nat) : Bool :=
  let fs := (Reg.fieldsAt e.1).filter fun f => f.access == .ri
  let mask := fs.foldl (fun m f => m ||| (2 ^ f.width - 1) * 2 ^ f.lo) 0
  !fs.isEmpty && e.2 &&& mask == e.2

/-- Do the records keep R504 and R505? -/
def recordsOk (l : List ImgRec) : Bool :=
  (l.all fun x => x.pad.all fun y => y == 0) &&
  (l.all fun x =>
    x.type.testBit 15 || (x.type == 1 && x.value.length == 64) || (x.type == 2 && x.value.length == 144) ||
      (x.type == 3 && x.value.length % 16 == 0) || (x.type == 4 && x.value.length == 16) ||
      (x.type == 5 && decide (x.value.length ≤ 2 ^ 23))) &&
  recCount l 1 == 1 && recCount l 2 == 1 && recCount l 4 == 1 && decide (recCount l 5 ≤ 1) && (regEntries l).all regEntryOk

/-- Does the owner certificate verify under the root key? -/
def ownerOk (l : List ImgRec) : Bool :=
  let c := recValue l 2
  Config.sm2Verify (recValue l 1) (Config.sm3 (c.take 80)) (c.drop 80)

/-- REASON of an image against a rollback counter; `failed` when the device fails to read (Table 14.4). DEDUCED: log entry 22. -/
def imageReason (failed : Bool) (counter : Nat) (b : List Byte) : Nat :=
  let n := imgLen b
  if imgNat b 0 4 ≠ 0x39574644 ∨ imgNat b 4 2 ≠ 1 then 1
  else if 2 ^ 24 < n + 160 then 2
  else if failed then 9
  else match imgRecs b with
    | none => 2
    | some l =>
      if n % 8 ≠ 0 ∨ b.length < n + 160 then 2
      else if padTo 32 (Config.sm3 (b.take (64 + n))) ≠ imgDigest b then 3
      else if Config.sm3 (recValue l 1) ≠ Config.rootHash then 4
      else if ownerOk l = false then 5
      else if Config.sm2Verify ((recValue l 2).take 64) (imgDigest b) ((b.drop (96 + n)).take 64) = false then 6
      else if recordsOk l = false then 7
      else if imgRollback b < counter then 8
      else 0

/-- What an image's REG records make of image field `f` of register `i`; the last entry wins, and a field that none names
takes its default. DEDUCED: log entry 6. -/
def imageField (entries : List (Nat × Nat)) (f : Field) (i : Nat) : Nat :=
  match (entries.filter fun e => e.1 == f.offset + f.stride * i).getLast? with
  | some e => bitsOf e.2 f.hi f.lo
  | none => f.reset

/-! ### Selection (R507, R508) -/

def State.counter (s : State) : Nat := max s.boot.flashA.counter s.boot.flashB.counter

/-- What step 3 of the boot sequence finds: each image's REASON, the slot, and whether the selection is a fallback. -/
structure Selection where
  reasonA : Nat
  reasonB : Nat
  slot : Option Nat
  fallback : Bool
  deriving DecidableEq, Repr

def selectSlot (next ra rb seqA seqB : Nat) : Option Nat :=
  if next = 1 ∧ ra = 0 then some 0
  else if next = 2 ∧ rb = 0 then some 1
  else if ra = 0 ∧ rb = 0 then some (if seqA < seqB then 1 else 0)
  else if ra = 0 then some 0
  else if rb = 0 then some 1
  else none

def isFallback (slot : Option Nat) (ra rb seqA seqB : Nat) : Bool :=
  match slot with
  | some 0 => decide (2 ≤ rb ∧ seqA < seqB)
  | some _ => decide (2 ≤ ra ∧ seqB < seqA)
  | none => false

def State.selectImage (s : State) (failA failB : Bool) : Selection :=
  let a := s.boot.flashA.image
  let b := s.boot.flashB.image
  let ra := imageReason failA s.counter a
  let rb := imageReason failB s.counter b
  let slot := selectSlot (s.regs.get Reg.BOOT_RESET_CTL_NEXT_SLOT) ra rb (imgSeq a) (imgSeq b)
  ⟨ra, rb, slot, isFallback slot ra rb (imgSeq a) (imgSeq b)⟩

/-- The copy of the identity area in use: the first whose signature verifies. DEDUCED: log entry 22. -/
def State.identity (s : State) : Option (List Byte) :=
  [s.boot.flashA.identity, s.boot.flashB.identity].find? fun b => b != [] && Config.identityOk b

/-! ### The health area (R517, R518) -/

/-- A column's FIRST_ROW, by d·64 + c. -/
def State.firstRow (s : State) (k : Nat) : Nat := Tbl.get s.fab.spareMap 64 k

/-- The bitmap of die `d` as one number. -/
def badBits (bad : List Nat) (d : Nat) : Nat :=
  (bad.filter fun x => x / 4160 == d).foldl (fun w x => w + 2 ^ (x % 4160)) 0

/-- The health record that holds the module's state now. -/
def State.healthRecord (s : State) (seq : Nat) : List Byte :=
  let sums := (List.range 8).flatMap fun k => leBytes 8 (sumOf (s.res.samples.map fun x => (x[k]?).getD 0))
  let totals := (List.range 8).flatMap fun k => leBytes 8 ((s.res.lifetime[k]?).getD 0)
  let body := leBytes 8 seq ++ leBytes 8 s.now ++ ((List.range 256).flatMap fun k => leBytes 1 (s.firstRow k)) ++
    ((List.range 4).flatMap fun d => leBytes 520 (badBits s.fab.bad d)) ++
    ((List.range 1536).flatMap fun c => leBytes 1 (match (s.memCh c).mark with
      | some l => 1 + 2 * l
      | none => 0)) ++
    leBytes 8 (s.regs.word Reg.MEM_RETIRE_STATUS_USED.offset) ++ sums ++ totals ++ leBytes 4 (s.boot.powerSecs / 3600) ++
    leBytes 4 s.boot.trips ++ List.replicate 56 0
  body ++ leBytes 8 (crc64 body)

def healthOk (b : List Byte) : Bool := b.length == 4096 && crc64 (b.take 4088) == imgNat b 4088 8

/-- The valid record with the highest SEQ of either device. -/
def State.newestHealth (s : State) : Option (List Byte) :=
  ((s.boot.flashA.health ++ s.boot.flashB.health).filter healthOk).foldl (fun (acc : Option (List Byte)) b =>
    match acc with
    | none => some b
    | some x => if imgNat x 0 8 < imgNat b 0 8 then some b else acc) none

/-- Append a record to a device, after an erase when its area is full. -/
def Flash.addHealth (f : Flash) (b : List Byte) : Flash :=
  { f with health := (if 256 ≤ f.health.length then [] else f.health) ++ [b] }

/-- Does the next health record go to device B: in turn, or to the device that a FLASH_WRITE is not writing? -/
def State.healthTarget (s : State) : Bool :=
  if s.boot.write.isSome then s.regs.get Reg.BOOT_STATUS_SLOT == 1 else s.boot.healthToB

/-- Write a health record; `ok` says whether the device takes it. -/
def State.writeHealth (s : State) (ok : Bool) : State :=
  let toB := s.healthTarget
  let seq := match s.newestHealth with
    | some b => imgNat b 0 8 + 1
    | none => 1
  if ok = false then
    ({ s with boot := { s.boot with healthToB := !toB } }.addReg Reg.BOOT_HEALTH_ERRORS 1).event 8 St.flashErr 0 0
  else
    let b := s.healthRecord seq
    let s1 := { s with boot := { s.boot with
      flashA := if toB then s.boot.flashA else s.boot.flashA.addHealth b
      flashB := if toB then s.boot.flashB.addHealth b else s.boot.flashB
      healthToB := !toB
      healthAt := s.now
      healthDirty := false } }
    (s1.addReg Reg.BOOT_HEALTH_RECORDS 1).setReg Reg.BOOT_HEALTH_TIME_TIME s.now

/-- Is a record due: 10 min after the last, or after a change of what it keeps? -/
def State.healthDue (s : State) : Bool :=
  s.fab.powered && (s.boot.healthDirty || decide (s.boot.healthAt + 600 * 10 ^ 9 ≤ s.now))

/-- HEALTH_RECORD_WRITE (R518): Every 10 min, within 1 s of a repair change, or at S, a health record is written to the flash
health area. DEDUCED: log entry 22. -/
def execHealthRecordWrite (ok : Bool) (s : State) : Host.Outcome State Fault Refusal :=
  .next (if s.healthDue then s.writeHealth ok else s)

/-- Columns of a spare map of 256 bytes that use their spare. -/
def spareColumns (b : List Byte) : List (Nat × Nat) :=
  (List.range 256).filterMap fun k =>
    let x := imgNat b k 1 % 128
    if x = 64 then none else some (k, x)

/-- Bad tiles of four bitmaps of 520 bytes. -/
def badTiles (b : List Byte) : List Nat :=
  (List.range 4).flatMap fun d =>
    let w := leNat ((b.drop (520 * d)).take 520)
    ((List.range 4160).filter fun i => w.testBit i).map fun i => 4160 * d + i

/-- Lane marks of 1,536 bytes. -/
def laneMarks (b : List Byte) : List (Nat × Nat) :=
  (List.range 1536).filterMap fun c =>
    let x := imgNat b c 1
    if x.testBit 0 then some (c, x / 2 % 32) else none

/-- Load what a health record keeps; with none, the maps of the identity area, and every count as 0. DEDUCED: log entry 22. -/
def State.loadHealth (s : State) : State :=
  let s0 := { s with mem := { s.mem with chans := Tbl.mapVals (fun _ c => { c with mark := none }) s.mem.chans } }
  match s.newestHealth with
  | some b =>
    let eights := fun i => (List.range 8).map fun k => imgNat b (i + 8 * k) 8
    let s1 := s0.each (laneMarks (b.drop 2352)) fun s x => s.setMemCh x.1 { s.memCh x.1 with mark := some x.2 }
    { s1 with
      fab := { s1.fab with
        spareMap := spareColumns (b.drop 16)
        bad := badTiles (b.drop 272) }
      regs := s1.regs.setWord Reg.MEM_RETIRE_STATUS_USED.offset (imgNat b 3888 8 % 2 ^ 13)
      res := { s1.res with
        samples := [(eights 3896).mapIdx fun k n => if inputPeaks k then 0 else n]
        lifetime := eights 3960 }
      boot := { s1.boot with
        powerSecs := imgNat b 4024 4 * 3600
        trips := imgNat b 4028 4 } }
  | none =>
    { s0 with
      fab := { s0.fab with
        spareMap := match s0.identity with
          | some b => spareColumns (Config.identityPart 4 b)
          | none => []
        bad := match s0.identity with
          | some b => badTiles (Config.identityPart 5 b)
          | none => [] }
      regs := s0.regs.setWord Reg.MEM_RETIRE_STATUS_USED.offset 0
      res := { s0.res with
        samples := []
        lifetime := [] }
      boot := { s0.boot with
        powerSecs := 0
        trips := 0 } }

/-! ### Signed updates (R515, R516) -/

/-- Give a device's image area its content. -/
def BootSt.setImage (b : BootSt) (toB : Bool) (image : List Byte) : BootSt :=
  if toB then { b with flashB := { b.flashB with image := image } }
  else { b with flashA := { b.flashA with image := image } }

/-- Is device B the inactive one? -/
def State.inactiveB (s : State) : Bool := s.regs.get Reg.BOOT_STATUS_SLOT == 0

/-- Step 1 of R515: the inactive image area is erased, which leaves it blank. -/
def State.eraseImage (s : State) : State := { s with boot := s.boot.setImage s.inactiveB [] }

/-- The status of an image's REASON. -/
def reasonStatus (reason : Nat) : Nat :=
  if reason = 0 then St.ok else if reason = 8 then St.imageRollback else St.imageSignature

/-- A FLASH_WRITE: VERIFY_ONLY checks the image and ends; any other holds the header in its buffer, erases the inactive image area
and programs it, and a failed read of the rest leaves that area blank (R515, R516). DEDUCED: log entry 22. -/
def execFlashWrite (r j : Nat) (v : HostView) (s : State) : Host.Outcome State Fault Refusal :=
  .next (
    if s.boot.write.isSome ∨ s.firstFetched r j 0x0A 0x0A = false then s
    else s.onDesc r j 0x0A fun s d =>
      let a := d.n 0 8
      let n := d.n 8 4
      let flags := d.n 12 1
      match s.judge .image a n with
      | some e => s.finish r j e
      | none =>
        if s.localOpen a n = false then s
        else if n = 0 ∨ 2 ^ 24 < n ∨ 2 ≤ flags then s.finish r j St.paramCode
        else match s.readStruct v a (min n 64) with
          | (.error e, s1) => s1.complete r j e.1 e.2 0
          | (.ok header, s1) =>
            if imgSeq header ≤ s1.regs.getAt Reg.BOOT_SEQ_SEQ (s1.regs.get Reg.BOOT_STATUS_SLOT) then
              s1.finish r j St.paramCode
            else
              let s2 := if flags = 1 then s1 else s1.eraseImage
              match s2.readStruct v (a + 64) (n - 64) with
              | (.error e, s3) => s3.complete r j e.1 e.2 0
              | (.ok rest, s3) =>
                let b := header ++ rest
                if flags = 1 then
                  let k := imageReason false s3.counter b
                  s3.complete r j (reasonStatus k) 0 k
                else
                  let s4 := s3.take r j
                  { s4 with boot := { s4.boot with write := some ⟨r, j, b⟩ } })

/-- Erase, program and read-back have ended; the header is programmed only when every check passes. -/
def execFlashWriteDone (ok : Bool) (s : State) : Host.Outcome State Fault Refusal :=
  .next (match s.boot.write with
    | none => s
    | some w =>
      let s1 := { s with boot := { s.boot with write := none } }
      if ok = false then s1.finish w.ring w.index St.flashErr
      else
        let k := imageReason false s1.counter w.image
        let s2 := if k = 0 then { s1 with boot := s1.boot.setImage s1.inactiveB w.image } else s1
        s2.complete w.ring w.index (reasonStatus k) 0 k)

end Sys2Proof.Machine
end

