-- ==== Sys2Proof/Machine/Resets.lean ====
section
/-! DEFINITION. The reset kinds (R9, R519 to R523, R552): what each restores, and the boot sequence at P and F. -/

namespace Sys2Proof.Machine

/-! ### The classes of Table 14.13 -/

/-- Kinds that end every descriptor and forget it (R552). -/
def Kind.forgets (k : Kind) : Bool := [Kind.P, .F, .H, .L, .W, .S].contains k

/-- Kinds that clear the work of the compute dies. -/
def Kind.tiles (k : Kind) : Bool := [Kind.P, .F, .H, .L, .W, .B].contains k

/-- Kinds that clear what the port dies hold of the present job. -/
def Kind.job (k : Kind) : Bool := [Kind.P, .F, .H, .L, .W].contains k

/-- Kinds that restore the set-up. -/
def Kind.setup (k : Kind) : Bool := [Kind.P, .F, .H, .L].contains k

/-- Kinds that take every link down. -/
def Kind.links (k : Kind) : Bool := [Kind.P, .F, .H, .W, .S, .DP].contains k

/-- Injection selects no more on a link (R394). A lane or the link that it has stopped resumes at the next release of a step
(R392), and a flit that it holds back still goes out. -/
def LinkSt.noInjection (l : LinkSt) : LinkSt :=
  { l with
    injState := 0
    injLeft := 0 }

/-- Does an operation belong to a step? COLL descriptors do not (R552). -/
def Coll.ofStep (c : Coll) : Bool :=
  match c.kind with
  | .gather => true
  | .dropSync => true
  | .gradExchange => true
  | .reduceScatter => false
  | .allGather => false
  | .allToAll => false

/-- Does a transaction outlive kind B: not one of a channel of the compute dies, nor of a collective that B ends? -/
def Owner.outlivesB (colls : List Coll) : Owner → Bool
  | .xfer ch _ _ => decide (4 ≤ ch / 2048)
  | .coll r j => colls.any fun c => c.ring == r && c.index == j
  | _ => true

/-- Kind `k` on the links, routes and traffic, where the collectives `colls` run on. -/
def NetSt.resetBy (n : NetSt) (k : Kind) (colls : List Coll) : NetSt :=
  { n with
    links := if k.links then [] else Tbl.mapVals (fun _ l => l.noInjection) n.links
    injLog := []
    active := if k.setup then [] else n.active
    standby := if k.setup then [] else n.standby
    peers := if k.links then [] else n.peers
    peersNext := if k.links then [] else n.peersNext
    loading := if k.forgets then none else n.loading
    sendOrder := if k.forgets then [] else n.sendOrder
    recvOrder := if k.forgets then [] else n.recvOrder
    replay := if k.forgets then [] else n.replay
    reorder := if k.forgets then [] else n.reorder
    txns := if k.forgets then [] else if k = .B then n.txns.filter fun t => t.owner.outlivesB colls else n.txns
    early := if k.tiles then [] else n.early
    mesh := if k.tiles then [] else n.mesh
    ctrl := if k.forgets then [] else n.ctrl
    retrans := if k.job then [] else n.retrans
    rateAt := if k = .P then 0 else n.rateAt }

/-- The set-up of a step whose STEP_ARM is forgotten: it names no descriptor any more (R552). -/
def StepCfg.forget (c : StepCfg) : StepCfg := { c with ring := noRing }

/-- Is a step armed or running, which kind B ends (R552)? -/
def StepSt.on (x : StepSt) : Bool := x.armed.isSome || x.run.isSome

/-- Does kind B cut an operation off: one of a step that it ends, or one queued on a compute-die channel (R552)? -/
def StepSt.cuts (x : StepSt) (c : Coll) : Bool := (x.on && c.ofStep) || c.chan.any fun ch => decide (ch / 2048 < 4)

/-- Kind `k` on the step state: B ends the step and leaves the collectives that it does not cut off; S keeps the step and forgets
the descriptors (R552). -/
def StepSt.resetBy (x : StepSt) (k : Kind) : StepSt :=
  if k.job then StepSt.reset
  else if k = .B then { StepSt.reset with colls := x.colls.filter fun c => !x.cuts c }
  else if k.forgets then { x with
    colls := []
    armed := x.armed.map StepCfg.forget
    run := x.run.map fun r => { r with cfg := r.cfg.forget } }
  else x

/-- Kind `k` on the host interface. -/
def HostSt.resetBy (h : HostSt) (k : Kind) : HostSt :=
  if k.forgets = false then h
  else
    let h1 : HostSt := { HostSt.reset with
      events := if k = .S then h.events else []
      dropped := if k = .S then h.dropped else 0
      msixOn := h.msixOn
      msixTable := h.msixTable
      msixPending := h.msixPending
      ptmOn := h.ptmOn
      d3 := h.d3
      perst := h.perst && k != .F && k != .P }
    if k.setup then { h1 with
      msixOn := false
      msixTable := []
      msixPending := []
      ptmOn := false
      d3 := false }
    else h1

/-- A memory channel under kind `k`: counts, requests and generator go; the lane mark stays. -/
def MemCh.resetBy (c : MemCh) (k : Kind) : MemCh :=
  if k.job then { MemCh.reset with mark := c.mark }
  else if k = .B then { c with
    slots := []
    blocked := []
    gen := Gen.reset }
  else c

/-- A copy of an object whose descriptors are forgotten runs on without them (R552). -/
def ObjMove.forget (m : ObjMove) : ObjMove :=
  { m with
    waiters := m.waiters.map fun w => (noRing, 0, w.2.2)
    evicts := m.evicts.map fun _ => (noRing, 0) }

/-- A channel's work that a forgotten descriptor asked for. -/
def Xfer.forget (x : Xfer) : Xfer :=
  match x.by_ with
  | .ring _ _ => { x with by_ := .ring noRing 0 }
  | .tile _ _ => x

def MemSt.resetBy (m : MemSt) (k : Kind) : MemSt :=
  { m with
    chans := Tbl.mapVals (fun _ c => c.resetBy k) m.chans
    lastTemp := if k.job then [] else m.lastTemp
    tempLevel := if k.job then [] else m.tempLevel
    exhausted := m.exhausted && k != .P && k != .F
    clearDue := m.clearDue || k.job
    moves := if k.job ∨ k = .B ∨ k = .DP then [] else if k.forgets then m.moves.map ObjMove.forget else m.moves }

/-- A channel without the step descriptors that were queued on it: B has completed them, and the next entry can run (R552). -/
def Chan.dropSteps (c : Chan) : Chan :=
  { c with
    queue := c.queue.filter fun x => !x.isStep
    busy := c.busy.filter fun x => !x.isStep
    lastStatus := if c.busy.any Xfer.isStep then St.stepAborted else c.lastStatus }

/-- What a kind leaves of a channel: the compute dies' channels are cleared with their dies, the other channels lose the
descriptors of a step that B ends; where descriptors are forgotten, those of the driver go. -/
def keepChans (k : Kind) (stepOn : Bool) (l : List (Nat × Chan)) : List (Nat × Chan) :=
  if k.job then []
  else if k = .B then
    let rest := l.filter fun x => decide (4 ≤ x.1 / 2048)
    if stepOn then Tbl.mapVals (fun _ c => c.dropSteps) rest else rest
  else if k.forgets then Tbl.mapVals (fun _ c => { c with
      queue := (c.queue.filter fun x => x.tile.isSome || x.isObject).map Xfer.forget
      busy := (c.busy.filter fun x => x.tile.isSome || x.isObject).map Xfer.forget }) l
  else if k = .DP then Tbl.mapVals (fun _ c => { c with
      queue := c.queue.filter fun x => !x.isObject
      busy := c.busy.filter fun x => !x.isObject }) l
  else l

/-- Kind `k` on the absent table, fills and snapshots. The monitor counts on from 0 for a count that the kind clears (R477). -/
def ResSt.resetBy (r : ResSt) (k : Kind) : ResSt :=
  if k.job then
    { ResSt.reset with
      marked := r.marked
      chanMarked := r.chanMarked
      pieces := r.pieces
      samples := r.samples
      sats := r.sats
      lifetime := r.lifetime }
  else if k.forgets then { r with
    snap := []
    load := none
    asked := []
    decoded := [] }
  else if k = .B then { r with
    lastCounts := [(r.lastCounts[0]?).getD 0, 0, (r.lastCounts[2]?).getD 0]
    written := []
    asked := []
    decoded := [] }
  else r

/-- The object table is cleared, every entry to TIER 0 (R279). -/
def State.clearObjects (s : State) : State :=
  s.poke (s.objAddr 0) (List.replicate (32 * s.regs.get Reg.MEM_OBJ_COUNT_COUNT) 0)

/-- An interrupted FLASH_WRITE leaves its target blank (R515, R520). -/
def State.cutWrite (s : State) : State :=
  match s.boot.write with
  | none => s
  | some _ => { s with boot := { s.boot.setImage s.inactiveB [] with write := none } }

/-- Stacked memory's contents and tags are lost, and with them what is committed (R440) and the object table, whose copies end. -/
def State.loseStack (s : State) : State :=
  { s with
    stack := Mem.empty
    chans := Tbl.mapVals (fun _ c => { c with
      queue := c.queue.filter fun x => !x.isObject
      busy := c.busy.filter fun x => !x.isObject }) s.chans
    mem := { s.mem with
      lanes := []
      own := Mem.empty
      moves := [] }
    res := { s.res with
      marked := []
      chanMarked := false
      pieces := [] }
    regs := (s.regs.set Reg.TRN_COMMITTED_STEP 0).setFlag Reg.TRN_STEP_STATUS_COMMITTED_VALID false }

/-- Links that kind `k` takes down are no source of time (R446). -/
def State.dropSources (s : State) (k : Kind) : State :=
  if k.links then s.each (s.time.links.map Prod.fst) State.linkTimeDown else s

/-- What kind `k` leaves of the module, with the image fields that `img` gives. DEDUCED: log entry 47. -/
def State.resetBy (s0 : State) (k : Kind) (img : Field → Nat → Nat) : State :=
  let s := ((if k.forgets then s0.cutWrite else s0).dropSources k)
  let s1 := if k.job ∨ k = .DP then s.clearObjects else s
  { s1 with
    regs := s1.regs.resetBy k img
    tiles := if k.tiles then [] else s1.tiles
    mem := s1.mem.resetBy k
    kv := if k.job ∨ k = .DP then [] else s1.kv
    host := s1.host.resetBy k
    chans := keepChans k s1.step.on s1.chans
    tree := if k.tiles then [] else s1.tree
    net := s1.net.resetBy k (s1.step.resetBy k).colls
    step := s1.step.resetBy k
    gate := if k.job then GateSt.reset else if k = .B then s1.gate.release else s1.gate
    res := s1.res.resetBy k
    fab := { s1.fab with
      parked := if k.job then false else s1.fab.parked
      scrubFrom := if k.tiles then s1.now else s1.fab.scrubFrom
      repairs := if k.tiles then s1.fab.repairs.map fun x => { x with copying := false } else s1.fab.repairs } }

/-- BOOT_RESET_STATUS after a kind other than P. -/
def State.noteKind (s : State) (code : Nat) : State :=
  (s.setReg Reg.BOOT_RESET_STATUS_LAST code).addReg Reg.BOOT_RESET_STATUS_COUNT 1

/-- A kind that keeps the image: its fields stay. -/
def keepImage (_ : Field) (_ : Nat) : Nat := 0

/-! ### The boot sequence (R509 to R511) -/

/-- Steps 3 and 4: the images are checked, one is selected, and its fields and the health area load. -/
def State.bootLoad (s : State) (k : Kind) (slot : Nat) (failA failB : Bool) : State :=
  let sel := s.selectImage failA failB
  let a := s.boot.flashA.image
  let b := s.boot.flashB.image
  let image := match sel.slot with
    | some 0 => a
    | some _ => b
    | none => []
  let recs := (imgRecs image).getD []
  let s1 := s.resetBy k (imageField (regEntries recs))
  let r := s1.regs
  let r1 := ((((((r.set Reg.BOOT_STATUS_STAGE (if sel.slot = none then 4 else 3)).set Reg.BOOT_STATUS_SLOT
    (sel.slot.getD 0)).setFlag Reg.BOOT_STATUS_FALLBACK sel.fallback).setFlag Reg.BOOT_STATUS_COUNTER_PENDING
    (decide (s.counter < imgRollback image))).set Reg.BOOT_STATUS_COUNTER s.counter).setAt Reg.BOOT_IMAGE_REASON 0
    sel.reasonA).setAt Reg.BOOT_IMAGE_REASON 1 sel.reasonB
  let r2 := (((r1.setAt Reg.BOOT_IMAGE_ROLLBACK_VER 0 (imgRollback a)).setAt Reg.BOOT_IMAGE_ROLLBACK_VER 1
    (imgRollback b)).setAt Reg.BOOT_SEQ_SEQ 0 (imgSeq a)).setAt Reg.BOOT_SEQ_SEQ 1 (imgSeq b)
  ({ s1 with
    regs := r2
    boot := { s1.boot with
      image := image
      pciId := if sel.slot = none then Config.recoveryId else recValue recs 4
      fallbackPost := sel.fallback
      healthAt := s1.now
      healthDirty := false
      spdm := 0
      vca := []
      certs := []
      measured := [] }
    fab := { s1.fab with slotId := slot % 8 } }).loadHealth

/-- Step 5: the Stelys links start training (R369). DEDUCED: log entry 30. -/
def State.trainLinks (s : State) : State := s.each (List.range 32) fun s l => s.setRegAt Reg.LNK_LINK_STATUS_STATE l 1

/-- Steps 5 to 8, unless the module is in RECOVERY: links train, rails and pace come up, and a recorded retirement takes
effect, its area poisoned when the contents were lost (R285). -/
def State.bootDies (s : State) (lost : Bool) : State :=
  if s.regs.get Reg.BOOT_STATUS_STAGE = 4 then s
  else
    let s1 := s.trainLinks
    let s2 : State := { s1 with
      mem := { s1.mem with
        selfRefresh := false
        off := false }
      fab := { s1.fab with rails := [] } }
    if lost ∧ s2.regs.flag Reg.MEM_RETIRE_STATUS_USED then
      let c := 128 * s2.regs.get Reg.MEM_RETIRE_STATUS_STACK + s2.regs.get Reg.MEM_RETIRE_STATUS_CHANNEL
      s2.poisonArea c
    else s2

/-- The PUF is read and the device key derived (R512, R513). -/
def State.deriveKey (s : State) (puf : Nat) : State :=
  let area := s.identity.getD []
  let helper := if area = [] then [] else Config.identityPart 0 area
  let key := Config.pufKey puf helper
  { s with
    boot := { s.boot with
      puf := puf
      helper := helper
      publicKey := key }
    regs := s.regs.setFlag Reg.BOOT_STATUS_IDENTITY_OK (area != [] && Config.sm3 key == Config.identityPart 1 area) }

/-! ### Starting the consistency check (R351, R509, R510) -/

/-- A write of 1 to ENABLE: the RWL fields lock, and the neighbours are asked for their routes. -/
def State.startCheck (s : State) : State :=
  if s.fab.powered = false ∨ s.host.perst = true ∨ s.regs.get Reg.BOOT_STATUS_STAGE ≠ 3 ∨ s.locked = true then s
  else ((s.setFlag Reg.HIF_DEV_CTL_ENABLE true).setReg Reg.HIF_DEV_STATUS_STATE 1).probe 0

/-- ENABLE (R351): Writing 1 to HIF_DEV_CTL.ENABLE locks the RWL fields and starts the consistency check. -/
def execEnable (s : State) : Host.Outcome State Fault Refusal := .next s.startCheck

/-- READY is reached; a write of ENABLE that came before it acts now. -/
def State.atReady (s : State) (early : Bool) : State := if early then s.startCheck else s

/-- The 56 V input reaches 50 V: every class takes its P entry, and the module boots to READY or RECOVERY. Only the flash
devices, and what stands outside the module, are as before. DEDUCED: log entry 21. -/
def execPowerOn (puf slot : Nat) (failA failB early : Bool) (s : State) : Host.Outcome State Fault Refusal :=
  .next (
    if s.fab.hotSwap = false ∨ s.fab.breakerOpen = true then s
    else
      let low := s.fab.alertPulse || s.regs.flag Reg.SAF_SAFE_STATUS_ACTIVE
      let s1 := ({ (if low then s.emit (.alert false) else s) with
        mem := { MemSt.reset with chans := s.mem.chans }
        host := HostSt.reset
        time := TimeSt.reset
        boot := { BootSt.reset with
          flashA := s.boot.flashA
          flashB := s.boot.flashB
          write := s.boot.write }
        fab := { FabSt.reset with
          present := s.fab.present
          hotSwap := s.fab.hotSwap
          powered := true } }).loseStack
      (((s1.bootLoad .P slot failA failB).bootDies true).deriveKey puf).atReady early)

/-! ### PERST# (R511) -/

/-- PERST# is asserted: the module waits, with the stacks in self-refresh. -/
def execPerstAssert (s : State) : Host.Outcome State Fault Refusal :=
  .next (
    if s.fab.powered = false then s
    else { s with
      host := { s.host with perst := true }
      mem := { s.mem with selfRefresh := true } })

/-- PERST# is released: reset kind F, with steps 3 to 8 of the boot sequence. DEDUCED: log entry 21. -/
def execPerstDeassert (slot : Nat) (failA failB early : Bool) (s : State) : Host.Outcome State Fault Refusal :=
  .next (
    if s.host.perst = false then s
    else (((s.bootLoad .F slot failA failB).bootDies false).noteKind 1).atReady early)

/-! ### H, L and W -/

/-- The stacks come back zero-filled, in self-refresh. -/
def State.stacksOn (s : State) : State :=
  if s.mem.off then { s.setFlag Reg.HIF_DEV_STATUS_DEEP false with mem := { s.mem with off := false } } else s

/-- The rails and the pace return, the stacks leave self-refresh, zero-filled after deep park, and the links retrain.
DEDUCED: log entry 50. -/
def State.unpark (s : State) : State :=
  if s.fab.parked = false then s
  else
    let s1 := ((s.stacksOn).setFlag Reg.HIF_DEV_STATUS_PARKED false).setFlag Reg.HIF_DEV_STATUS_DEEP false
    let s2 := s1.each ((List.range 32).filter fun l => s.linkState l == 4) fun s l => s.setRegAt Reg.LNK_LINK_STATUS_STATE l 0
    { s2 with
      mem := { s2.mem with selfRefresh := s2.regs.flag Reg.SAF_SAFE_STATUS_ACTIVE || s2.host.perst }
      fab := { s2.fab with parked := false } }

/-- A kind that leaves the boot state alone runs on a powered module outside PERST#. H, L and W reset PARK and PARKED, so a
parked module runs its exit (R521). -/
def State.resetKind (s : State) (k : Kind) (code : Nat) : State :=
  if s.fab.powered = false ∨ s.host.perst = true then s else (s.unpark.resetBy k keepImage).noteKind code

/-- HOT_RESET (R519): A PCIe hot reset or the PCIe link going down starts reset kind H. -/
def execHotReset (s : State) : Host.Outcome State Fault Refusal := .next (s.resetKind .H 2)

/-- FUNCTION_LEVEL_RESET (R519): A PCIe Function Level Reset starts reset kind L. -/
def execFunctionLevelReset (s : State) : Host.Outcome State Fault Refusal := .next (s.resetKind .L 3)

/-- WARM_RESET (R519): Writing 1 to HIF_DEV_CTL.WARM starts reset kind W. -/
def execWarmReset (s : State) : Host.Outcome State Fault Refusal := .next (s.resetKind .W 4)

/-! ### B (R279, R552) -/

/-- The descriptors that a move completes with. -/
def ObjMove.descs (m : ObjMove) : List (Nat × Nat) := (m.waiters.map fun w => (w.1, w.2.1)) ++ m.evicts

/-- Objects on the tile tier lose their copy: TIER 1, no pins, STALE. Copies end there, and their descriptors are cut off with
the channels that carried them (R278, R279, R552). DEDUCED: log entry 43. -/
def State.staleObjects (s : State) : State :=
  let s1 := s.each (List.range (s.regs.get Reg.MEM_OBJ_COUNT_COUNT)) fun s o =>
    let x := s.obj o
    if x.tier = 2 ∨ x.evicting = true then s.setObj o { x with
      tier := 1
      pins := 0
      flags := 4 }
    else s
  (s1.setMoves []).each (s.mem.moves.flatMap ObjMove.descs) fun s w => s.finish w.1 w.2 St.stepAborted

/-- The driver's descriptors on a compute-die channel. -/
def Chan.driven (c : Chan) : List (Nat × Nat) :=
  (c.busy.toList ++ c.queue).filterMap fun x => match x.by_ with
    | .ring r j => some (r, j)
    | .tile _ _ => none

/-- Descriptors that B cuts off: those on compute-die channels, and those of the step in progress or armed. -/
def State.cutByB (s : State) : List (Nat × Nat) :=
  ((s.chans.filter fun x => decide (x.1 / 2048 < 4)).flatMap fun x => x.2.driven) ++
    (s.host.descs.filter fun d => s.step.on && d.ofStep && (d.taken || d.started)).map (fun d => (d.ring, d.index)) ++
    (s.step.colls.filter s.step.cuts).map (fun c => (c.ring, c.index)) ++ s.step.armed.toList.map (fun c => (c.ring, c.index)) ++
    s.step.run.toList.map fun r => (r.cfg.ring, r.cfg.index)

/-- The compute dies are reset: a step in progress ends as aborted with no record, descriptors cut off complete, a
STEP_ABORT that waited for the end completes, and the rest runs on. DEDUCED: log entry 43. -/
def State.fabricReset (s : State) : State :=
  let s1 := if s.step.run.isSome then s.abortRecords else s
  let s2 := (s1.each s.cutByB.eraseDups fun s d => s.finish d.1 d.2 St.stepAborted).staleObjects
  let s3 := s2.each (s2.host.descs.filter fun d => d.taken && d.opcode == 0x15) fun s d => s.finish d.ring d.index St.ok
  (s3.resetBy .B keepImage).noteKind 5

/-- FABRIC_RESET (R519): Writing 1 to BOOT_RESET_CTL.FABRIC starts reset kind B on the compute dies, ends any step as aborted
and marks tile-tier objects STALE. DEDUCED: log entry 47. -/
def execFabricReset (s : State) : Host.Outcome State Fault Refusal :=
  .next (if s.fab.powered = false ∨ s.host.perst = true then s else s.fabricReset)

/-! ### S (R474 to R476) -/

/-- The breaker opens at once. -/
def State.openBreaker (s : State) : State :=
  if s.fab.breakerOpen then s
  else ({ s with fab := { s.fab with breakerOpen := true } }).emit (.breaker true)

/-- Every link that runs sends PARK and stops. -/
def State.parkLinks (s : State) : State :=
  s.each ((List.range 32).filter s.linkLive) fun s l => s.putFlit l 0 flitLctrl 0 0 (leBytes 1 lcPark) id id

/-- The safe-state sequence: links park, the stacks go to self-refresh while the rails hold, the breaker opens where the
cause asks for it, and reset kind S completes. Whether the flash device takes the health record is a free value (R518). DESIGN
CHOICE: log entry 9. -/
def State.safeState (s : State) (breaker railsHold pd0 : Bool) : State :=
  let s1 := s.parkLinks
  let s2 := if railsHold then { s1 with mem := { s1.mem with selfRefresh := true } } else s1.loseStack
  let s3 := if pd0 then s2 else { s2 with host := { s2.host with events := [] } }
  let s4 := (s3.resetBy .S keepImage).noteKind 6
  let s5 := { s4 with
    boot := { s4.boot with trips := s4.boot.trips + 1 }
    fab := { s4.fab with trip := none }
    mem := { s4.mem with selfRefresh := s4.mem.selfRefresh && s4.regs.flag Reg.SAF_SAFE_STATUS_ACTIVE } }
  let f := s5.draw
  let s6 := if pd0 then f.2.writeHealth (f.1 % 2 == 0) else s5
  if breaker then ({ s6 with fab := { s6.fab with powered := false } }).openBreaker else s6

/-- SAFE_STATE (R474): A detected limit stops the fabric and the links, puts the stacks in self-refresh, opens the breaker
where required and completes reset kind S. DEDUCED: log entry 47. DEDUCED: log entry 48. -/
def execSafeState (railsHold pd0 : Bool) (s : State) : Host.Outcome State Fault Refusal :=
  .next (match s.fab.trip with
    | none => s
    | some (_, breaker) => s.safeState breaker railsHold pd0)

end Sys2Proof.Machine
end

