-- ==== Sys2Proof/Machine/Power.lean ====
section
/-! DEFINITION. The input stage, thermal limits, the pace governor, tile repair and park (chapters 01, 13, 14 and 15). -/

namespace Sys2Proof.Machine

/-! ### Limits (R465, R466, R530, R531) -/

/-- An input overcurrent: the breaker opens and the safe state begins. -/
def State.overcurrent (s : State) (milliamps : Nat) : State := (s.openBreaker).trip St.inputOvercurrent 1 true 0 milliamps

/-- The input current: above 95 A for 5 µs, or above 150 A at any instant. -/
def overcurrent (milliamps ns : Nat) : Bool := decide (150000 < milliamps ∨ (95000 < milliamps ∧ 5000 ≤ ns))

/-- INPUT_OVERCURRENT (R465): The input current exceeds the breaker limit and the breaker opens, starting the safe state. -/
def execInputOvercurrent (milliamps ns : Nat) (s : State) : Host.Outcome State Fault Refusal :=
  .next (
    if s.fab.powered ∧ s.fab.breakerOpen = false ∧ overcurrent milliamps ns then s.overcurrent milliamps else s)

/-- The safe state's cause, when it persists and the sequence has completed. -/
def State.liveCause (s : State) : Nat :=
  if s.regs.flag Reg.SAF_SAFE_STATUS_ACTIVE ∧ s.fab.trip = none then s.regs.get Reg.SAF_SAFE_STATUS_CAUSE else 0

/-- Is a rail outside its window? The bus is at 62 V, where the breaker opens too (R531). DEDUCED: log entry 48. -/
def outOfWindow : RailKind → Nat → Nat → Bool
  | .regional, mv, _ => decide (mv < 500 ∨ 900 < mv)
  | .bus, mv, _ => decide (mv < 48000 ∨ 62000 ≤ mv)
  | .other, mv, set => decide (20 * mv < 19 * set ∨ 21 * set < 20 * mv)

/-- Does the breaker open for a rail: on a rail fault, and on a bus at 62 V or above? -/
def railOpens : RailKind → Nat → Bool
  | .bus, mv => decide (62000 ≤ mv)
  | _, _ => true

/-- RAIL_WINDOW (R465): A rail, or the 56 V bus, stays outside its window for 10 µs and the module enters the safe state. A bus
that stays below its window after the safe state it led to is that same cause; a rail fault, or a bus at 62 V, is another. -/
def execRailWindow (rail : RailKind) (millivolts setPoint ns : Nat) (s : State) : Host.Outcome State Fault Refusal :=
  .next (
    if s.fab.powered ∧ (s.liveCause ≠ 2 ∨ railOpens rail millivolts = true) ∧ outOfWindow rail millivolts setPoint ∧
      10000 ≤ ns then
      s.trip St.railWindow 2 (railOpens rail millivolts) 0 millivolts
    else s)

/-- The mean of a sensor's last four readings. -/
def filtered (l : List Nat) : Nat := sumOf l / max 1 l.length

def dieTempFields : List Field :=
  [Reg.SAF_DIE_TEMP_CD0, Reg.SAF_DIE_TEMP_CD1, Reg.SAF_DIE_TEMP_CD2, Reg.SAF_DIE_TEMP_CD3, Reg.SAF_DIE_TEMP_PD0,
   Reg.SAF_DIE_TEMP_PD1]

/-- One die's reading: CD0 to CD3, PD0, PD1. -/
def State.dieTemp (s : State) (k reading : Nat) : State :=
  let l := (reading :: Tbl.get s.fab.dieTemps [] k).take 4
  let t := filtered l
  let s1 := { s with fab := { s.fab with dieTemps := Tbl.put s.fab.dieTemps k (l.take 3) } }
  let s2 : State := match dieTempFields[k]? with
    | some f => s1.setReg f (min 255 t)
    | none => s1
  if 115 ≤ t ∧ s2.fab.trip.isNone = true ∧ s2.liveCause ≠ 3 then s2.trip St.dieOvertemp 3 false 0 t else s2

def State.diesHot (s : State) : Bool := dieTempFields.any fun f => decide (115 ≤ s.regs.get f)

/-- DIE_TEMP_SAMPLE (R465): Each die sensor is read every 20 µs and filtered; reaching 115 °C starts the safe state. DEDUCED:
log entry 48. -/
def execDieTempSample (temps : List Nat) (s : State) : Host.Outcome State Fault Refusal :=
  .next (
    let s1 := ((List.range 6).zip temps).foldl (fun s x => s.dieTemp x.1 x.2) s
    if s1.liveCause = 3 ∧ s1.diesHot = false then s1.causeEnds else s1)

/-- Every compute die has risen by more than 5 °C, and the input power has stayed within 5 %. -/
def coolantLost (before after : List Nat) (power lowest highest : Nat) : Bool :=
  ((List.range 4).all fun d => decide ((before[d]?).getD 0 + 5 < (after[d]?).getD 0)) &&
    decide (19 * power ≤ 20 * lowest ∧ 20 * highest ≤ 21 * power)

/-- COOLANT_CHECK (R466): At the end of each 50 ms window the module infers coolant loss from the die temperature rise at
steady power. -/
def execCoolantCheck (before after : List Nat) (power lowest highest : Nat) (s : State) : Host.Outcome State Fault Refusal :=
  .next (
    if s.fab.powered = false then s
    else if coolantLost before after power lowest highest then
      (if s.liveCause = 5 then s else s.trip St.coolantLoss 5 false 0 0)
    else if s.liveCause = 5 then s.causeEnds
    else s)

/-- The demand exceeds 94 A and the limiter acts. -/
def execLimiterAct (milliamps : Nat) (s : State) : Host.Outcome State Fault Refusal :=
  .next (
    if s.fab.powered = false ∨ s.fab.limiter = true ∨ milliamps ≤ 94000 then s
    else ({ s with fab := { s.fab with
      limiter := true
      limitSince := s.now } }).countLimit)

/-- The limiter has acted for 10 ms without a break. -/
def execLimiterSustained (s : State) : Host.Outcome State Fault Refusal :=
  .next (
    if s.fab.limiter = false ∨ s.now < s.fab.limitSince + 10 ^ 7 then s
    else
      let s1 := s.countLimit
      ({ s1 with fab := { s1.fab with limiter := false } }).overcurrent 94000)

/-- The demand has fallen to 94 A or below. -/
def execLimiterRelease (milliamps : Nat) (s : State) : Host.Outcome State Fault Refusal :=
  .next (
    if s.fab.limiter = false ∨ 94000 < milliamps then s
    else
      let s1 := s.countLimit
      { s1 with fab := { s1.fab with limiter := false } })

/-! ### Telemetry (R532, R534) -/

/-- SAF_INPUT is refreshed, and the peaks follow. A bus that is back in its window ends the cause of a rail's safe state.
DEDUCED: log entry 48. -/
def execSafInputRefresh (vin iin pin : Nat) (s : State) : Host.Outcome State Fault Refusal :=
  .next (
    if s.fab.powered = false then s
    else
      let r := (((s.regs.set Reg.SAF_INPUT_VIN vin).set Reg.SAF_INPUT_IIN iin).set Reg.SAF_INPUT_PIN pin)
      let r1 := (r.set Reg.SAF_INPUT_PEAK_PIN_PEAK (max (r.get Reg.SAF_INPUT_PEAK_PIN_PEAK) (r.get Reg.SAF_INPUT_PIN))).set
        Reg.SAF_INPUT_PEAK_VIN_MIN (min (r.get Reg.SAF_INPUT_PEAK_VIN_MIN) (r.get Reg.SAF_INPUT_VIN))
      let s1 := { s with regs := r1 }
      if s1.liveCause = 2 ∧ s1.fab.breakerOpen = false ∧ 4800 ≤ vin ∧ vin ≤ 6200 then s1.causeEnds else s1)

/-- RIPPLE_MEASURE (R532): Once per second the input ripple is measured into SAF_INPUT.RIPPLE, and ST_INPUT_RIPPLE is posted
when it exceeds 1,000 mV. -/
def execRippleMeasure (millivolts : Nat) (s : State) : Host.Outcome State Fault Refusal :=
  .next (
    if s.fab.powered = false then s
    else
      let s1 := s.setReg Reg.SAF_INPUT_RIPPLE (min 65535 millivolts)
      let due : Bool := match s.fab.ripplePost with
        | some t => decide (t + 60 * 10 ^ 9 ≤ s.now)
        | none => true
      if 1000 < millivolts ∧ due = true then
        ({ s1 with fab := { s1.fab with ripplePost := some s.now } }).event 6 St.inputRipple 0 millivolts
      else s1)

/-- The 10 ms pulse of MGMT_ALERT_N ends, 10 ms after the last event of class 0x6; the line stays low while the safe state is
active (R543). -/
def execMgmtAlertPulseEnd (s : State) : Host.Outcome State Fault Refusal :=
  .next (
    if s.fab.alertPulse = false ∨ s.now < s.fab.alertSince + 10 ^ 7 then s
    else ({ s with fab := { s.fab with alertPulse := false } }).emit (.alert (s.regs.flag Reg.SAF_SAFE_STATUS_ACTIVE)))

/-! ### Insertion and removal (R476, R533) -/

/-- Power is gone, and with it stacked memory. -/
def State.powerLost (s : State) : State :=
  let s1 := s.cutWrite.loseStack
  { s1 with fab := { s1.fab with powered := false } }

/-- PRESENT_N mates; after its debounce the hot-swap switch turns on. -/
def execPresentMate (s : State) : Host.Outcome State Fault Refusal :=
  .next { s with fab := { s.fab with
    present := true
    hotSwap := true } }

/-- PRESENT_N parts and the hot-swap switch opens. DEDUCED: log entry 48. -/
def execPresentPart (s : State) : Host.Outcome State Fault Refusal :=
  .next (({ s with fab := { s.fab with
    present := false
    hotSwap := false } }).powerLost)

/-- The bus falls below 40 V: a breaker that a safe state opened closes. -/
def execBusBelow40v (s : State) : Host.Outcome State Fault Refusal :=
  .next (
    let s1 := s.powerLost
    if s.fab.breakerOpen then ({ s1 with fab := { s1.fab with breakerOpen := false } }).emit (.breaker false) else s1)

/-! ### The pace governor (R23 to R26, R529) -/

/-- A region's rail in units of 0.1 mV, by die·64 + region. -/
def State.rail (s : State) (k : Nat) : Nat := Tbl.get s.fab.rails 7500 k

def State.setRail (s : State) (k v : Nat) : State := { s with fab := { s.fab with rails := Tbl.put s.fab.rails k v } }

/-- SAF_POWER_CTL.LIMIT as it acts. -/
def State.powerLimit (s : State) : Nat :=
  let x := s.regs.get Reg.SAF_POWER_CTL_LIMIT
  if 2000 ≤ x ∧ x ≤ 4300 then x else 4300

def State.held (s : State) : Bool := s.regs.flag Reg.SAF_POWER_CTL_HELD

/-- Below, or above, the target by more than 0.5 %. -/
def paceLow (pace target : Nat) : Bool := decide (200 * pace < 199 * target)

def paceHigh (pace target : Nat) : Bool := decide (201 * target < 200 * pace)

/-- A rail after one trim: a step of 2.5 mV, between 0.55 V and 0.86 V; none rises while LIMIT holds the rails, and each falls
while the input power is above LIMIT (R529). -/
def trim (pace target rail : Nat) (held above : Bool) : Nat :=
  if above then max 5500 (rail - 25)
  else if paceLow pace target ∧ held = false then min 8600 (rail + 25)
  else if paceHigh pace target then max 5500 (rail - 25)
  else rail

/-- A region that cannot reach the target is short: its bit sets, and once it does so an event is posted (R25). -/
def State.noteShort (s : State) (die region pace : Nat) : State :=
  if s.regionShort (64 * die + region) then s
  else
    let w := s.regs.getAt Reg.FAB_PACE_SHORT_SHORT die
    ((s.setRegAt Reg.FAB_PACE_SHORT_SHORT die (w ||| 2 ^ region)).addRegAt Reg.FAB_PACE_STATUS_SHORT_EVENTS die 1).event 0
      St.paceShort (64 * die + region) pace

/-- Since when a short region again holds the target: from the start of the first window of 10 µs that is not low (R25). -/
def State.notePace (s : State) (k pace target : Nat) : State :=
  let held : List (Nat × Nat) :=
    if paceLow pace target ∨ s.regionShort k = false then Tbl.del s.fab.paceHeld k
    else if (Tbl.find s.fab.paceHeld k).isSome then s.fab.paceHeld
    else Tbl.put s.fab.paceHeld k (s.now - 10000)
  { s with fab := { s.fab with paceHeld := held } }

/-- One region's measurement. DEDUCED: log entry 49. -/
def State.regionPace (s : State) (die region pace : Nat) : State :=
  let k := 64 * die + region
  let target := s.regs.get Reg.FAB_PACE_TARGET_TARGET
  let s1 := (s.notePace k pace target).setRail k (trim pace target (s.rail k) s.held s.fab.overLimit)
  if paceLow pace target ∧ (8600 ≤ s.rail k ∨ s.held = true ∨ s.fab.overLimit = true) then s1.noteShort die region pace else s1

/-- The lowest pace and the lowest region that measured it. -/
def slowest (paces : List Nat) : Nat × Nat :=
  (((List.range 64).zip paces).foldl (fun (acc : Option (Nat × Nat)) x =>
    match acc with
    | none => some (x.2, x.1)
    | some a => if x.2 < a.1 then some (x.2, x.1) else acc) none).getD (0, 0)

/-- A window of 10 µs ends on a die: its 64 paces. -/
def execPaceWindow (die : Nat) (paces : List Nat) (s : State) : Host.Outcome State Fault Refusal :=
  .next (
    if 4 ≤ die ∨ s.fab.powered = false ∨ s.fab.parked = true ∨ paces.length ≠ 64 then s
    else
      let s1 := ((List.range 64).zip paces).foldl (fun s x => s.regionPace die x.1 x.2) s
      let low := slowest paces
      let top := ((List.range 64).map fun r => s1.rail (64 * die + r)).foldl max 0
      ((s1.setRegAt Reg.FAB_PACE_STATUS_MIN_PACE die (min 2047 low.1)).setRegAt Reg.FAB_PACE_STATUS_MIN_REGION die low.2).setRegAt
        Reg.FAB_PACE_STATUS_MAX_RAIL die top)

/-- Has a short region held the target again for 1 ms (R25)? -/
def State.paceBack (s : State) (k : Nat) : Bool :=
  match Tbl.find s.fab.paceHeld k with
  | some since => decide (since + 10 ^ 6 ≤ s.now)
  | none => false

/-- A short region has held the target for 1 ms: its bit clears, and no event is posted. -/
def execPaceShortClear (die region : Nat) (s : State) : Host.Outcome State Fault Refusal :=
  .next (
    let w := s.regs.getAt Reg.FAB_PACE_SHORT_SHORT die
    if 4 ≤ die ∨ 64 ≤ region ∨ bitOf w region = false ∨ s.paceBack (64 * die + region) = false then s
    else ({ s with fab := { s.fab with paceHeld := Tbl.del s.fab.paceHeld (64 * die + region) } }).setRegAt
      Reg.FAB_PACE_SHORT_SHORT die (w - 2 ^ region))

/-- Each region's lost margin in mV, by die·64 + region. -/
def execMarginReport (margins : List Nat) (s : State) : Host.Outcome State Fault Refusal :=
  .next { s with fab := { s.fab with margins := (List.range 256).zip margins } }

/-- The input power averaged over 10 ms against LIMIT: below it the governors are free, at it they raise no rail, above it they
lower every rail by a step in each window of 10 µs until the average is back at LIMIT. -/
def execPowerLimitWindow (watts : Nat) (s : State) : Host.Outcome State Fault Refusal :=
  .next (
    let s1 := s.setFlag Reg.SAF_POWER_CTL_HELD (decide (s.powerLimit ≤ watts))
    { s1 with fab := { s1.fab with overLimit := decide (s.powerLimit < watts) } })

/-! ### Tile repair (R16) -/

/-- A step boundary: no step is in progress. -/
def State.boundary (s : State) : Bool := decide (s.stepState ≤ 1)

/-- A pending repair starts at a step boundary: the column's FIRST_ROW changes, and its tail copies its tile memory one
physical row down, which leaves every logical tile's content as it is. DEDUCED: log entry 49. -/
def execTileRepair (t : Nat) (s : State) : Host.Outcome State Fault Refusal :=
  .next (match s.fab.repairs.find? fun r => r.tile == t && !r.copying with
    | none => s
    | some r =>
      if s.boundary = false then s
      else
        let s1 : State := { s with
          fab := { s.fab with
            spareMap := Tbl.put s.fab.spareMap (columnOf t) r.row
            repairs := s.fab.repairs.map fun x => if x.tile = t then { x with copying := true } else x }
          boot := { s.boot with healthDirty := true } }
        s1.markColumn (columnOf t) false)

/-- The copy has finished: the logical tile runs on a good tile, and the new FIRST_ROW goes to the health area. -/
def execTileRepairDone (t : Nat) (s : State) : Host.Outcome State Fault Refusal :=
  .next (match s.fab.repairs.find? fun r => r.tile == t && r.copying with
    | none => s
    | some _ =>
      ({ s with
        fab := { s.fab with repairs := s.fab.repairs.filter fun x => x.tile != t }
        boot := { s.boot with healthDirty := true } }).setTile t { s.tile t with
          retired := false
          solo := false
          lockPending := false })

/-! ### Park, deep park and D3hot (R521, R522) -/

/-- Does the register or the power state ask for park? -/
def State.parkAsked (s : State) : Bool :=
  let p := s.regs.get Reg.HIF_DEV_CTL_PARK
  p == 1 || p == 2 || s.host.d3

/-- Deep park: the stacks are powered off, and what they held is lost. -/
def State.stacksOff (s : State) : State :=
  if s.mem.off then s
  else
    let s1 := (s.resetBy .DP keepImage).loseStack
    { s1.setFlag Reg.HIF_DEV_STATUS_DEEP true with mem := { s1.mem with off := true } }

/-- A write of HIF_DEV_CTL.PARK: 1 and 2 ask for park, 0 for its end. A module already parked changes its depth at once. -/
def State.writePark (s : State) (p : Nat) : State :=
  let s1 := s.setReg Reg.HIF_DEV_CTL_PARK p
  if s.fab.parked = false then s1
  else if p = 2 then s1.stacksOff
  else s1.stacksOn

/-- PARK (R521): Writing 1 to HIF_DEV_CTL.PARK requests Park, which takes effect once the step machinery is IDLE. -/
def execPark (s : State) : Host.Outcome State Fault Refusal := .next (s.writePark 1)

/-- DEEP_PARK (R521): Writing 2 to HIF_DEV_CTL.PARK requests Deep park, with the stacks powered off after self-refresh. -/
def execDeepPark (s : State) : Host.Outcome State Fault Refusal := .next (s.writePark 2)

/-- Every running link sends PARK and shows PARKED; a follower loses its source. -/
def State.linksParked (s : State) : State :=
  let live := (List.range 32).filter s.linkLive
  (s.parkLinks.each live fun s l =>
    (s.setRegAt Reg.LNK_LINK_STATUS_STATE l 4).setLink l (s.link l).fresh).each live State.linkTimeDown

/-- Does a descriptor of the module's wait for a release, which a parked module holds: STEP_ARM, or one of the armed step's? -/
def Desc.awaitsRelease (d : Desc) : Bool := d.opcode == 0x10 || d.ofStep

/-- A pending park takes effect once the step machinery is IDLE and the descriptors in progress have completed, but for those of a
step that is armed behind, whose release waits for the end of park. DEDUCED: log entry 50. -/
def execParkEntry (s : State) : Host.Outcome State Fault Refusal :=
  .next (
    if s.fab.powered = false ∨ s.fab.parked = true ∨ s.parkDue = false ∨ (s.host.descs.all Desc.awaitsRelease) = false then s
    else
      let s1 := (s.linksParked.resetBy (if s.host.d3 then .D3 else .PK) keepImage).setFlag Reg.HIF_DEV_STATUS_PARKED true
      let s2 := { s1 with
        mem := { s1.mem with selfRefresh := true }
        fab := { s1.fab with parked := true } }
      if s.regs.get Reg.HIF_DEV_CTL_PARK = 2 then s2.stacksOff else s2)

/-- A write of 0 to HIF_DEV_CTL.PARK. -/
def State.parkExit (s : State) : State :=
  let s1 := s.setReg Reg.HIF_DEV_CTL_PARK 0
  if s1.host.d3 then s1.stacksOn else s1.unpark

/-- PARK_EXIT (R521): Writing 0 to HIF_DEV_CTL.PARK brings back rails, pace and stacks, and the links retrain to STANDBY. -/
def execParkExit (s : State) : Host.Outcome State Fault Refusal := .next s.parkExit

/-- The function enters D3hot, which asks for the entry of park; what D3 clears, the injection settings and their log, goes at
once. -/
def execD3hotEntry (s : State) : Host.Outcome State Fault Refusal :=
  .next (
    ({ s with host := { s.host with d3 := true } } : State).resetBy .D3 keepImage)

/-- The function returns to D0; the exit runs unless PARK holds 1 or 2. -/
def execD0Return (s : State) : Host.Outcome State Fault Refusal :=
  .next (
    let s1 := { s with host := { s.host with d3 := false } }
    if s1.parkAsked then s1 else s1.unpark)

end Sys2Proof.Machine
end

