-- ==== Sys2Proof/Machine/Enable.lean ====
section
/-! DEFINITION. The consistency check (R351, R352 and the rules that Table 09.13 names) and what a pass sets up. -/

namespace Sys2Proof.Machine

/-! ### The conditions of Table 09.13. Each is the list of cases that break it, as offset and INDEX. -/

/-- A region that the check compares with others: where its register stands, its INDEX, its first byte and its length. -/
structure Claim where
  offset : Nat
  index : Nat
  base : Nat
  len : Nat
  deriving DecidableEq, Repr

def Claim.meets (a b : Claim) : Bool := overlaps a.base a.len b.base b.len

/-- Claims that overlap another of the list. -/
def clashes (l : List Claim) : List Claim :=
  (l.zipIdx.filter fun x => l.zipIdx.any fun y => x.2 != y.2 && x.1.meets y.1).map Prod.fst

def Claim.case (c : Claim) : Nat × Nat := (c.offset, c.index)

def State.cqValid (s : State) (m : Nat) : Bool := s.regs.getAt Reg.HIF_CQ_CTL_VALID m == 1

def State.validCqs (s : State) : List Nat := (List.range 256).filter s.cqValid

/-- Host-memory regions. -/
def State.hostClaims (s : State) : List Claim :=
  let r := s.regs
  [⟨0x20, 0, s.dbAddr, 4096⟩] ++
  (if r.flag Reg.HIF_EQ_CTL_VALID then
    [⟨0x30, 0, r.get Reg.HIF_EQ_BASE_BASE * 4096, 32 * r.get Reg.HIF_EQ_CTL_SIZE⟩] else []) ++
  [⟨0x48, 0, r.get Reg.HIF_MBOX_BASE_BASE * 4096, 4096 * r.get Reg.HIF_MBOX_CTL_COUNT⟩] ++
  (s.validRings.map fun n => ⟨0x1000 + 16 * n, n, r.getAt Reg.HIF_SQ_BASE_BASE n * 4096, 64 * s.ringSize n⟩) ++
  (s.validCqs.map fun m =>
    ⟨0x2000 + 16 * m, m, r.getAt Reg.HIF_CQ_BASE_BASE m * 4096, 32 * r.getAt Reg.HIF_CQ_CTL_SIZE m⟩) ++
  (if r.flag Reg.TIM_PAGE_VALID then [⟨0x600030, 0, r.get Reg.TIM_PAGE_BASE * 4096, 4096⟩] else [])

def State.ringOverlaps (s : State) : List (Nat × Nat) := (clashes s.hostClaims).map Claim.case

/-- A power of two from 64 to 65,536 (R329). -/
def ringSizeOk (n : Nat) : Bool := (List.range 11).any fun k => n == 64 * 2 ^ k

def State.ringSizes (s : State) : List (Nat × Nat) :=
  (if s.regs.flag Reg.HIF_EQ_CTL_VALID && ringSizeOk (s.regs.get Reg.HIF_EQ_CTL_SIZE) then [] else [(0x38, 0)]) ++
  ((s.validRings.filter fun n => !ringSizeOk (s.ringSize n)).map fun n => (0x1008 + 16 * n, n)) ++
  ((s.validCqs.filter fun m => !ringSizeOk (s.regs.getAt Reg.HIF_CQ_CTL_SIZE m)).map fun m => (0x2008 + 16 * m, m))

/-- Does an IRQ break the rule on vectors? -/
def State.vectorBad (s : State) (irq : Bool) (vector : Nat) : Bool := irq && (decide (2048 ≤ vector) || !s.host.msixOn)

/-- The cases of ST_CFG_MSIX_VECTOR on a ring or the mailbox array. -/
def State.irqCases (s : State) : List (Nat × Nat) :=
  let r := s.regs
  (if r.flag Reg.HIF_EQ_CTL_VALID && s.vectorBad (r.flag Reg.HIF_EQ_CTL_IRQ) (r.get Reg.HIF_EQ_CTL_VECTOR) then [(0x38, 0)]
   else []) ++
  (if s.vectorBad (r.flag Reg.HIF_MBOX_CTL_IRQ) (r.get Reg.HIF_MBOX_CTL_VECTOR) then [(0x50, 256)] else []) ++
  ((s.validCqs.filter fun m => s.vectorBad (r.getAt Reg.HIF_CQ_CTL_IRQ m == 1) (r.getAt Reg.HIF_CQ_CTL_VECTOR m)).map
    fun m => (0x2008 + 16 * m, m))

/-- ST_CFG_MSIX_VECTOR: also where MSI-X is not enabled and no IRQ is set, a case for which the spec names neither OFFSET nor
INDEX. DEDUCED: log entry 26. -/
def State.vectorCases (s : State) : List (Nat × Nat) :=
  if s.host.msixOn = false ∧ s.irqCases = [] then [(Config.freeNat (2 ^ 42) % 2 ^ 26, Config.freeNat (2 ^ 42 + 1) % 2 ^ 20)]
  else s.irqCases

def State.paceCases (s : State) : List (Nat × Nat) :=
  let t := s.regs.get Reg.FAB_PACE_TARGET_TARGET
  if 600 ≤ t ∧ t ≤ 1500 then [] else [(0x100008, 0)]

def State.timeCases (s : State) : List (Nat × Nat) := if s.timeState ≤ 1 then [(0x600010, 0)] else []

def State.routeCases (s : State) : List (Nat × Nat) :=
  match s.routeCheck s.net.active s.rank s.net.peers s.peerRank with
  | some (c, r) => if c = St.cfgRouteLoop then [(0x500308, r)] else []
  | none => []

/-- A column whose FIRST_ROW is above 64 or leaves a logical tile on a bad physical one (R17). -/
def State.columnBad (s : State) (k : Nat) : Bool :=
  decide (64 < s.firstRow k) ||
    (List.range 64).any fun y => NSet.has s.fab.bad (s.physTile (k / 64 * 4096 + 64 * y + k % 64))

def State.spareCases (s : State) : List (Nat × Nat) :=
  ((List.range 256).filter s.columnBad).map fun k => (0x101000 + k, k)

/-- Do ROLE and POSITION agree (R480)? -/
def roleOk (role position : Nat) : Bool :=
  (role == 1 && decide (position < 16)) || (role == 2 && position == 16) || (role == 3 && position == 17)

/-- Parity sides that overlap another declared region. -/
def State.sidesClash (s : State) (k : Nat) : Bool :=
  let sides := s.parityRoles.map fun x => (x.1, (⟨0x700020, 0, x.2.base, 2 * x.2.len⟩ : Claim))
  let fixed := s.fixedRegions.map fun r => (⟨r.reg, 0, r.base, r.len⟩ : Claim)
  sides.any fun x => x.1 == k && (fixed.any x.2.meets || sides.any fun y => y.1 != k && x.2.meets y.2)

/-- Does entry `k` of the parity groups break R480? -/
def State.pgroupBad (s : State) (k : Nat) : Bool :=
  let g := s.pgroup k
  if g.role = 0 then k == 0
  else
    g.ranks.eraseDups.length != 18 || (g.ranks[g.position]?).getD (2 ^ 20) != s.rank || !roleOk g.role g.position ||
      (k == 0 && g.role != 1) || g.len % 2 ^ 22 != 0 || decide (2 ^ 38 < g.len) ||
      (g.role == 1 && (decide (g.len < s.stringLen 0) || decide (g.len < s.stringLen 1))) || s.sidesClash k

def State.parityCases (s : State) : List (Nat × Nat) :=
  ((List.range 3).filter s.pgroupBad).map fun k => (0x700020, (s.pgroup k).group)

/-- Fixed regions that overlap each other, and any region past 768 GiB (R550). -/
def State.regionCases (s : State) : List (Nat × Nat) :=
  let fixed := s.fixedRegions.map fun r => (⟨r.reg, 0, r.base, r.len⟩ : Claim)
  let past := (s.fixedRegions ++ s.paritySides).filter fun r => decide (0xC000000000 < r.base + r.len)
  ((clashes fixed).map Claim.case) ++ past.map fun r => (r.reg, 0)

def State.seedCases (s : State) : List (Nat × Nat) := if s.seed = 0 then [(0x800000, 0)] else []

def State.injectCases (s : State) : List (Nat × Nat) :=
  ((List.range 32).filter fun l => s.injMode l != 0 && !bitOf (s.regs.get Reg.LNK_INJ_PERMIT_LINKS) l).map fun l =>
    (0x501000 + 32 * l, l)

/-- Neighbours that report the own rank, and the links that the own rank's route names. -/
def State.rankCases (s : State) : List (Nat × Nat) :=
  (((List.range 32).filter fun l => s.linkLive l && s.peerRank l == s.rank).map fun l => (0x500000 + 8 * l, l)) ++
    ((List.range 32).filter fun l => bitOf (routeLinks (routeEntry s.net.active s.rank s.rank)) l).map fun l => (0x500308, l)

/-- The cases of one attention ring (R171): CMP_RING_CFG, then CMP_RING_TRAIN. -/
def State.attRing (s : State) (n : Nat) : List (Nat × Nat) :=
  let g := fun f => s.regs.getAt f n
  let size := g Reg.CMP_RING_CFG_SIZE
  if g Reg.CMP_RING_CFG_VALID = 0 then []
  else
    (if size = 0 ∨ 64 < size ∨ size ≤ g Reg.CMP_RING_CFG_POSITION ∨
        (size = 1 ∧ (g Reg.CMP_RING_CFG_SUCC ≠ s.rank ∨ g Reg.CMP_RING_CFG_PRED ≠ s.rank)) then [(0x400B00 + 8 * n,
          n)] else []) ++
    (if g Reg.CMP_RING_TRAIN_TRAIN = 0 ∨ g Reg.CMP_RING_TRAIN_BAY_KIB = 0 then [(0x400B80 + 8 * n, n)] else [])

def State.attCases (s : State) : List (Nat × Nat) := (List.range 16).flatMap s.attRing

def State.threshCases (s : State) : List (Nat × Nat) := if s.regs.get Reg.CMP_CTAB_CTL_THRESH = 0 then [(0x400C08, 0)] else []

def State.ringLinkCases (s : State) : List (Nat × Nat) :=
  (if s.regs.get Reg.HIF_DB_BASE_BASE = 0 then [(0x20, 0)] else []) ++
    (s.validRings.filter fun n => !s.cqValid (s.regs.getAt Reg.HIF_SQ_CTL_CQ n)).map fun n => (0x1008 + 16 * n, n)

/-! ### The check (R352) -/

/-- Table 09.13 in order. DEDUCED: log entry 26. -/
def State.checks (s : State) : List (Nat × List (Nat × Nat)) :=
  [(St.cfgRingOverlap, s.ringOverlaps), (St.cfgRingSize, s.ringSizes), (St.cfgMsixVector, s.vectorCases),
   (St.cfgPace, s.paceCases), (St.cfgNoTime, s.timeCases), (St.cfgRouteLoop, s.routeCases), (St.cfgSpareMap, s.spareCases),
   (St.cfgParityGroup, s.parityCases), (St.cfgMemOverlap, s.regionCases), (St.cfgZeroSeed, s.seedCases),
   (St.cfgInject, s.injectCases), (St.cfgDupRank, s.rankCases), (St.cfgAttRing, s.attCases),
   (St.cfgCtabThresh, s.threshCases), (St.cfgRingLink, s.ringLinkCases)]

/-- The case at the lowest offset, and then at the lowest index. -/
def lowestCase (l : List (Nat × Nat)) : Option (Nat × Nat) :=
  l.foldl (fun (acc : Option (Nat × Nat)) c =>
    match acc with
    | none => some c
    | some a => if c.1 < a.1 ∨ (c.1 = a.1 ∧ c.2 < a.2) then some c else acc) none

/-- The first reason whose condition holds, with its offset and INDEX. -/
def firstReason : List (Nat × List (Nat × Nat)) → Option (Nat × Nat × Nat)
  | [] => none
  | (reason, cases) :: r => match lowestCase cases with
    | some c => some (reason, c.1, c.2)
    | none => firstReason r

/-- HIF_CFG_STATUS. -/
def State.noteCheck (s : State) (reason offset index : Nat) : State :=
  ((s.setReg Reg.HIF_CFG_STATUS_REASON reason).setReg Reg.HIF_CFG_STATUS_OFFSET offset).setReg Reg.HIF_CFG_STATUS_INDEX index

/-- A refusal disables the module again and posts nothing. -/
def State.checkRefused (s : State) (reason offset index : Nat) : State :=
  ((s.noteCheck reason offset index).setFlag Reg.HIF_DEV_CTL_ENABLE false).setReg Reg.HIF_DEV_STATUS_STATE 0

/-- Raise both rollback counters to the image's ROLLBACK_VER, where one waits for it (R508); `ok` says whether the
devices take the write. -/
def State.raiseCounter (s : State) (ok : Bool) : State :=
  if s.regs.flag Reg.BOOT_STATUS_COUNTER_PENDING = false then s
  else if ok = false then (s.addReg Reg.BOOT_HEALTH_ERRORS 1).event 8 St.flashErr 0 0
  else
    let v := imgRollback s.boot.image
    { s.setFlag Reg.BOOT_STATUS_COUNTER_PENDING false with
      boot := { s.boot with
        flashA := { s.boot.flashA with counter := v }
        flashB := { s.boot.flashB with counter := v } } }

/-- The rings start empty at count 0. -/
def HostSt.startRings (h : HostSt) : HostSt :=
  { h with
    rings := []
    descs := []
    queue := []
    waiting := []
    cqs := []
    eq := CqSt.zero
    pollBusy := false
    pollEmpty := 0
    pollErr := false
    fetch := none
    served := []
    mboxes := [] }

/-- A fallback image is reported at the first enable that passes (R507). -/
def State.postFallback (s : State) : State :=
  if s.boot.fallbackPost then ({ s with boot := { s.boot with fallbackPost := false } }).event 8 St.imageFallback 0 0 else s

/-- A pass: the module is enabled, the standby bank takes a copy of the active one (R381), the order
numbers start at 0 (R373), and the gate tree starts anew. -/
def State.checkPassed (s : State) (counterOk : Bool) : State :=
  let s0 : State := if s.mem.clearDue then { s.clearObjects with mem := { s.clearObjects.mem with clearDue := false } } else s
  let s1 := ((s0.noteCheck 0 0 0).setReg Reg.HIF_DEV_STATUS_STATE 2).setReg Reg.HIF_POLL_STATUS_LEVEL 0
  let s2 := { s1 with
    host := s1.host.startRings
    net := { s1.net with
      standby := s1.net.active
      sendOrder := []
      recvOrder := [] }
    gate := { GateSt.reset with
      since := s1.now
      parentHeard := s1.now } }
  s2.postFallback.raiseCounter counterOk

/-- The check ends, once every neighbour has answered. -/
def execConsistencyCheckDone (counterOk : Bool) (s : State) : Host.Outcome State Fault Refusal :=
  .next (
    if s.regs.get Reg.HIF_DEV_STATUS_STATE ≠ 1 ∨ s.answered s.net.peers = false then s
    else match firstReason s.checks with
      | some x => s.checkRefused x.1 x.2.1 x.2.2
      | none => s.checkPassed counterOk)

end Sys2Proof.Machine
end

