-- ==== Sys2Proof/Machine/Bar0.lean ====
section
/-! DEFINITION. BAR0 (R8, R124, R326, R327): host writes to every register, what a host read of one returns, the two reads that
have an effect or a row of their own, and the coming up of the PCIe link. -/

namespace Sys2Proof.Machine

/-! ### Registers that window onto other state -/

/-- The stacked-memory channel that MEM_CH_SEL selects (R287). -/
def State.selMemCh (s : State) : Nat := 128 * s.regs.get Reg.MEM_CH_SEL_STACK + s.regs.get Reg.MEM_CH_SEL_CHANNEL

/-- MEM_CH_STATUS. -/
def State.memChWord (s : State) : Nat :=
  if 12 ≤ s.regs.get Reg.MEM_CH_SEL_STACK then 0
  else
    let c := s.memCh s.selMemCh
    (match c.mark with
      | some l => 1 + 2 * (l % 32)
      | none => 0) + flagBit (s.chanRetired s.selMemCh) 6 + min c.corrected (2 ^ 32 - 1) * 2 ^ 8 +
      min c.uncorrected 65535 * 2 ^ 40 + min c.scrubUncorr 255 * 2 ^ 56

/-- The generator that MEM_TG_SEL selects (R289). -/
def State.selGen (s : State) : Gen :=
  (s.memCh (128 * s.regs.get Reg.MEM_TG_SEL_STACK + s.regs.get Reg.MEM_TG_SEL_CHANNEL)).gen

/-- MEM_TG_CTL, MEM_TG_RANGE and MEM_TG_STATUS of a generator. -/
def Gen.ctlWord (g : Gen) : Nat := g.ctl + flagBit g.running 0

def Gen.rangeWord (g : Gen) : Nat := g.first + g.last * 2 ^ 32

def Gen.statusWord (g : Gen) : Nat :=
  g.code + g.lanes % 2 ^ 18 * 2 ^ 16 + min g.errors 65535 * 2 ^ 34 + min g.corrections 16383 * 2 ^ 50

/-- The stream channel that STR_CH_SEL selects, where the module has it (R320). -/
def State.selChan (s : State) : Option Nat :=
  let u := s.regs.get Reg.STR_CH_SEL_UNIT
  let e := s.regs.get Reg.STR_CH_SEL_ENGINE
  if u < 4 ∨ (u = 4 ∧ e < 16) then some (2048 * u + 16 * e + s.regs.get Reg.STR_CH_SEL_CHANNEL) else none

/-- Does the channel wait on its pair (R311)? -/
def Chan.chainWait (c : Chan) : Bool :=
  match c.busy with
  | some x => match x.job with
    | .stream d => d.wait && d.kind != 3 && decide (x.granted < d.slots) && c.sem.ctr d.waitCtr == 0
    | .step _ => false
    | .object _ => false
  | none => false

/-- STR_CH_STATUS. -/
def Chan.statusWord (c : Chan) : Nat :=
  flagBit c.busy.isSome 0 + min c.queue.length 31 * 2 + flagBit c.chainWait 6 + c.lastStatus % 2 ^ 16 * 2 ^ 16 +
    min c.errors 65535 * 2 ^ 32

/-- MEM_OBJ_STATUS (R284). -/
def State.objWord (s : State) : Nat :=
  let objs := if s.mem.clearDue then [] else (List.range (s.regs.get Reg.MEM_OBJ_COUNT_COUNT)).map s.obj
  (objs.filter fun o => o.tier != 0).length + (objs.filter fun o => o.tier == 2).length * 2 ^ 21 +
    (objs.filter fun o => o.pins != 0).length * 2 ^ 42

/-- CMP_KV_STATUS (R170). -/
def State.kvWord (s : State) : Nat :=
  sumOf (s.kvFree.map Prod.snd) + largest s.kvFree * 2 ^ 24 + s.kv.length * 2 ^ 48

/-- LNK_ROUTE_DATA (R398). -/
def State.routeWord (s : State) : Nat :=
  let bank := if s.regs.get Reg.LNK_ROUTE_SEL_BANK = 0 then s.net.active else s.net.standby
  let i := s.regs.get Reg.LNK_ROUTE_SEL_INDEX
  if i < 6144 then Tbl.get bank 0 i else 0

/-- The injection log's entry that LNK_INJ_LOG_SEL selects (R401). -/
def State.selLog (s : State) : Option InjRec := s.net.injLog[s.regs.get Reg.LNK_INJ_LOG_SEL_ENTRY]?

/-- The tile register that CMP_TILE_SEL selects (R124). -/
def State.tileDataWord (s : State) : Nat :=
  let t := s.regs.get Reg.CMP_TILE_SEL_TILE
  (s.tile t).readReg t (s.regs.get Reg.CMP_TILE_SEL_INDEX)

/-- Eight registers FAB_SPARE_MAP_d_c from number `k` on (R40). -/
def State.spareWord (s : State) (k : Nat) : Nat := leNat ((List.range 8).map fun i => BitVec.ofNat 8 (s.firstRow (k + i)))

/-- Word `i` of the array of FAB_TILE_BAD registers (R41): each bitmap has 65 words and stands 66 words after the one
before, and the word between two of them is reserved. -/
def State.badWord (s : State) (i : Nat) : Nat :=
  if i % 66 = 65 then 0
  else (List.range 64).foldl (fun w b => w + flagBit (NSet.has s.fab.bad (i / 66 * 4160 + 64 * (i % 66) + b)) b) 0

/-- Pending bits of 64 vectors from `v` on. -/
def State.pbaWord (s : State) (v : Nat) : Nat :=
  (List.range 64).foldl (fun w b => w + flagBit (NSet.has s.host.msixPending (v + b)) b) 0

/-- What an 8 B host read of the register at an aligned offset returns, as one untorn value. DEDUCED: log entry 24. -/
def State.bar0 (s : State) (off : Nat) : Nat :=
  let w := s.regs.word off
  if off = 0x40 then w + s.host.events.length * 2 ^ 33
  else if off = 0x58 then w + s.host.queue.length
  else if 0x101000 ≤ off ∧ off < 0x101100 then s.spareWord (off - 0x101000)
  else if 0x102000 ≤ off ∧ off < 0x102840 then s.badWord ((off - 0x102000) / 8)
  else if off = 0x200020 then s.objWord
  else if off = 0x200208 then s.memChWord
  else if off = 0x200408 then s.selGen.ctlWord
  else if off = 0x200410 then s.selGen.rangeWord
  else if off = 0x200418 then s.selGen.statusWord
  else if off = 0x300008 then (match s.selChan with
    | some c => (s.chan c).statusWord
    | none => 0)
  else if off = 0x300010 then (match s.selChan with
    | some c => (s.chan c).sem.word
    | none => 0)
  else if off = 0x400908 then s.tileDataWord
  else if off = 0x400A10 then s.kvWord
  else if off = 0x500308 then s.routeWord
  else if off = 0x501408 then (match s.selLog with
    | some x => x.time
    | none => 0)
  else if off = 0x501410 then (match s.selLog with
    | some x => x.seq % 2 ^ 16 + x.link * 2 ^ 16 + x.mode * 2 ^ 21 + 2 ^ 24
    | none => 0)
  else if off = 0x600000 then s.now
  else if off = 0x600010 then setBits w 63 32 s.errPs
  else if off = 0x700000 then w + (s.res.absent.filter fun a => a.active).length * 2 ^ 5
  else if off = 0x800200 then w + s.step.mask.length * 2 ^ 16
  else if 0x3F00000 ≤ off ∧ off < 0x3F08000 then
    s.host.msixDword ((off - 0x3F00000) / 4) + s.host.msixDword ((off - 0x3F00000) / 4 + 1) * 2 ^ 32
  else if 0x3F80000 ≤ off ∧ off < 0x3F80100 then s.pbaWord (8 * (off - 0x3F80000))
  else w

/-! ### Writes -/

/-- The bits of a word that a mask lets through, over an old word. -/
def mergeWord (old mask v : Nat) : Nat := (old &&& ((2 ^ 64 - 1) ^^^ mask)) ||| (v &&& mask)

/-- HIF_DEV_CTL (R351, R355): PARK, then ENABLE, then WARM. -/
def State.writeDevCtl (s : State) (mask v : Nat) : State :=
  if mask % 2 = 0 then s
  else
    let p := bitsOf v 3 2
    let s1 := if p = 3 then s else if p = 0 then s.parkExit else s.writePark p
    let s2 := if bitOf v 0 then s1.startCheck else s1
    if bitOf v 1 then s2.resetKind .W 4 else s2

/-- BOOT_RESET_CTL (R526): NEXT_SLOT, then FABRIC. -/
def State.writeResetCtl (s : State) (mask v : Nat) : State :=
  if mask % 2 = 0 then s
  else
    let s1 := s.setReg Reg.BOOT_RESET_CTL_NEXT_SLOT (bitsOf v 2 1)
    if bitOf v 0 then s1.fabricReset else s1

/-- The bytes of FAB_SPARE_MAP that a write reaches, one register each (R40). -/
def State.writeSpare (s : State) (k mask v : Nat) : State :=
  if s.locked then s
  else s.each ((List.range 8).filter fun i => bitOf mask (8 * i)) fun s i =>
    let s1 := s.mapColumn (k + i) (v / 2 ^ (8 * i) % 128)
    { s1 with boot := { s1.boot with healthDirty := true } }

/-- LNK_ROUTE_DATA: only the active bank takes writes, before enable (R398). -/
def State.writeRoute (s : State) (mask v : Nat) : State :=
  let i := s.regs.get Reg.LNK_ROUTE_SEL_INDEX
  if s.locked = true ∨ s.regs.get Reg.LNK_ROUTE_SEL_BANK ≠ 0 ∨ 6144 ≤ i then s
  else { s with net := { s.net with
    active := RegFile.setWord s.net.active i (mergeWord (Tbl.get s.net.active 0 i) mask v &&& routeBits) } }

/-- STR_CH_SEM: the counters and their initial values, before enable (R322). -/
def State.writeChSem (s : State) (mask v : Nat) : State :=
  if s.locked = true ∨ mask % 2 = 0 then s
  else match s.selChan with
    | none => s
    | some c =>
      let x := s.chan c
      let f := v % 2 ^ 16
      let e := v / 2 ^ 16 % 2 ^ 16
      s.setChan c { x with sem := { x.sem with
        full := f
        empty := e
        fullInit := f
        emptyInit := e } }

/-- MEM_TG_CTL of each generator that the write reaches; START starts a run (R271, R289). -/
def State.writeTgCtl (s : State) (mask v : Nat) : State :=
  s.each s.tgChannels fun s c =>
    let x := s.memCh c
    let w := mergeWord x.gen.ctl mask v
    if bitOf w 0 then s.tgStart w c else s.setMemCh c { x with gen := { x.gen with ctl := tgFields w } }

/-- MEM_TG_RANGE of each generator that the write reaches. -/
def State.writeTgRange (s : State) (mask v : Nat) : State :=
  s.each s.tgChannels fun s c =>
    let x := s.memCh c
    let w := mergeWord x.gen.rangeWord mask v
    s.setMemCh c { x with gen := { x.gen with
      first := bitsOf w 20 0
      last := bitsOf w 52 32 } }

/-- CMP_TILE_DATA: every writable field lies in the low half of its register (R124, R127 to R134, R216). -/
def State.writeTileData (s : State) (mask v : Nat) : State :=
  if mask % 2 = 0 then s
  else
    let t := s.regs.get Reg.CMP_TILE_SEL_TILE
    s.setTile t ((s.tile t).hostWriteReg s.locked (s.regs.get Reg.CMP_TILE_SEL_INDEX) v)

/-- Device time steps before enable (R443, R459). -/
def State.writeTimSet (s : State) (mask v : Nat) : State := s.setTime (mergeWord (s.regs.word 0x600028) mask v)

/-- A dword of the MSI-X table; a vector that is unmasked sends the message it holds back. -/
def State.writeMsix (s : State) (i v : Nat) : State :=
  let s1 := { s with host := { s.host with msixTable := Tbl.put s.host.msixTable i (v % 2 ^ 32) } }
  if i % 4 = 3 ∧ bitOf v 0 = false ∧ NSet.has s1.host.msixPending (i / 4) = true ∧ s1.host.msixOn = true then
    ({ s1 with host := { s1.host with msixPending := NSet.del s1.host.msixPending (i / 4) } }).emit (.msix (i / 4))
  else s1

def State.writeMsixWord (s : State) (i mask v : Nat) : State :=
  let s1 := if bitOf mask 0 then s.writeMsix i v else s
  if bitOf mask 32 then s1.writeMsix (i + 1) (v / 2 ^ 32) else s1

/-- LNK_INJ_CTL_l takes a write whole, with what the mask keeps (R391, R400). -/
def State.writeInj (s : State) (l mask v : Nat) : State := s.injWrite l (mergeWord (s.regs.word (0x501000 + 32 * l)) mask v)

/-- MAX_QUEUED is at least the records queued now, also after it has been cleared (R356). -/
def State.noteQueued (s : State) : State :=
  s.setReg Reg.HIF_CPL_STATUS_MAX_QUEUED (max (s.regs.get Reg.HIF_CPL_STATUS_MAX_QUEUED) s.host.queue.length)

/-- A host write of the bits in `mask` of the 8 B at an aligned offset. -/
def State.writeWord (s : State) (off mask v : Nat) : State :=
  if off = 0 then s.writeDevCtl mask v
  else if off = 0x900028 then s.writeResetCtl mask v
  else if 0x101000 ≤ off ∧ off < 0x101100 then s.writeSpare (off - 0x101000) mask v
  else if off = 0x200408 then s.writeTgCtl mask v
  else if off = 0x200410 then s.writeTgRange mask v
  else if off = 0x300010 then s.writeChSem mask v
  else if off = 0x58 then ({ s with regs := s.regs.hostWrite s.locked off mask v } : State).noteQueued
  else if off = 0x400908 then s.writeTileData mask v
  else if off = 0x500308 then s.writeRoute mask v
  else if off = 0x600028 then s.writeTimSet mask v
  else if 0x501000 ≤ off ∧ off < 0x501400 ∧ off % 32 = 0 then s.writeInj ((off - 0x501000) / 32) mask v
  else if 0x3F00000 ≤ off ∧ off < 0x3F08000 then s.writeMsixWord ((off - 0x3F00000) / 4) mask v
  else { s with regs := s.regs.hostWrite s.locked off mask v }

/-- Is an access one that BAR0 accepts (R327)? -/
def accessOk (off len : Nat) : Bool := (len == 4 || len == 8) && off % len == 0 && decide (off < 2 ^ 26)

/-- Does the host reach the module's registers: powered, and not under PERST#? DEDUCED: log entry 21. -/
def State.reachable (s : State) : Bool := s.fab.powered && !s.host.perst

/-- The bits of the aligned 8 B that an access covers. -/
def accessMask (off len : Nat) : Nat := (2 ^ (8 * len) - 1) * 2 ^ (8 * (off % 8))

def State.writeBar0 (s : State) (w : RegWrite) : State :=
  if accessOk w.offset w.len then
    s.writeWord (w.offset - w.offset % 8) (accessMask w.offset w.len) (w.value % 2 ^ (8 * w.len) * 2 ^ (8 * (w.offset % 8)))
  else s.emit (.unsupported w.offset)

/-- A host read of BAR0 (R326, R327): the value of the 4 or 8 B at its offset, or Unsupported Request. -/
def State.readBar0 (s : State) (off len : Nat) : State :=
  if accessOk off len then s.emit (.readData off (s.bar0 (off - off % 8) / 2 ^ (8 * (off % 8)) % 2 ^ (8 * len)))
  else s.emit (.unsupported off)

/-- REGISTER_WRITE (R8): A BAR0 write to a register with no row of its own updates its fields under their access codes; an
unsupported access completes with Unsupported Request. DEDUCED: log entry 24. -/
def execRegisterWrite (w : RegWrite) (s : State) : Host.Outcome State Fault Refusal :=
  .next (if s.reachable then s.writeBar0 w else s)

/-! ### CMP_TILE_DATA and TIM_NOW (R124, R458) -/

/-- Does a host read reach the 8 B register at `r`, or is it one that BAR0 does not accept (R327)? -/
def readsAt (r off len : Nat) : Bool := !accessOk off len || off - off % 8 == r

/-- CMP_TILE_DATA_READ (R124): A host read returns the selected tile register, or half of it; an 8 B read returns one untorn
value. -/
def execCmpTileDataRead (s : State) (off : Nat := 0x400908) (len : Nat := 8) : Host.Outcome State Fault Refusal :=
  .next (if s.reachable && readsAt 0x400908 off len then s.readBar0 off len else s)

/-- A write of CMP_TILE_DATA, whole or in half. -/
def execCmpTileDataWrite (w : RegWrite) (s : State) : Host.Outcome State Fault Refusal :=
  .next (if s.reachable = true ∧ w.offset - w.offset % 8 = 0x400908 then s.writeBar0 w else s)

/-- TIM_NOW_READ (R458): A host read returns device time, or half of it; an 8 B read latches the fraction for TIM_NOW_FRAC. -/
def execTimNowRead (s : State) (off : Nat := 0x600000) (len : Nat := 8) : Host.Outcome State Fault Refusal :=
  .next (
    if s.reachable && readsAt 0x600000 off len then
      let s1 := s.readBar0 off len
      if len = 8 ∧ off = 0x600000 then s1.setReg Reg.TIM_NOW_FRAC_FRAC s.time.frac else s1
    else s)

/-! ### The PCIe link (R324, R355) -/

/-- The link comes up with the host, which has set the function's MSI-X and PTM enables. Flit mode is on at 64 and 128 GT/s, and
at 32 GT/s when the link partner supports it. PRESUMED: log entry 23. -/
def execPcieLinkUp (rate width : Nat) (flit msix ptm : Bool) (s : State) : Host.Outcome State Fault Refusal :=
  .next (
    if s.reachable = false ∨ rate = 0 ∨ 3 < rate ∨ (width ≠ 8 ∧ width ≠ 16) then s
    else
      let s1 := ((s.setReg Reg.HIF_DEV_STATUS_RATE rate).setReg Reg.HIF_DEV_STATUS_WIDTH width).setFlag Reg.HIF_DEV_STATUS_FLIT
        (flit || decide (2 ≤ rate))
      { s1 with host := { s1.host with
        msixOn := msix
        ptmOn := ptm } })

end Sys2Proof.Machine
end

