-- ==== Sys2Proof/Machine/Mgmt.lean ====
section
/-! DEFINITION. Attestation over the DOE mailbox (R513, R514) and the management port (R509, R534, R543). The messages have the
layout of DMTF SPDM 1.2. -/

namespace Sys2Proof.Machine

/-! ### SPDM messages -/

/-- The byte of a message at a place, 0 beyond its end. -/
def msgByte (m : List Byte) (i : Nat) : Nat := imgNat m i 1

def spdmHead (version code p1 p2 : Nat) : List Byte := leBytes 1 version ++ leBytes 1 code ++ leBytes 1 p1 ++ leBytes 1 p2

/-- An ERROR response. PRESUMED: log entry 25. -/
def spdmError (code : Nat) : List Byte := spdmHead 0x12 0x7F code 0

/-- Error codes. -/
abbrev SpdmErr.invalidRequest : Nat := 0x01
abbrev SpdmErr.unexpectedRequest : Nat := 0x04
abbrev SpdmErr.unspecified : Nat := 0x05
abbrev SpdmErr.versionMismatch : Nat := 0x41

/-- Does the module answer over DOE: powered, outside PERST# and with the link up? -/
def State.doeReady (s : State) : Bool := s.reachable && s.regs.get Reg.HIF_DEV_STATUS_RATE != 0

/-- Answer a request of SPDM 1.2 whose code is `code`, at least `len` bytes long, once the connection has come to `stage`. -/
def State.onSpdm (s : State) (request : List Byte) (code len stage : Nat) (f : State → State) : State :=
  if s.doeReady = false then s
  else if msgByte request 1 ≠ code ∨ request.length < len then s.emit (.doe (spdmError SpdmErr.invalidRequest))
  else if msgByte request 0 ≠ 0x12 then s.emit (.doe (spdmError SpdmErr.versionMismatch))
  else if s.boot.spdm < stage then s.emit (.doe (spdmError SpdmErr.unexpectedRequest))
  else f s

/-! ### The connection -/

/-- VERSION: one entry, 1.2. A GET_VERSION starts the connection anew. -/
def versionResponse : List Byte := spdmHead 0x10 0x04 0 0 ++ leBytes 1 0 ++ leBytes 1 1 ++ leBytes 2 0x1200

/-- GET_VERSION (R514): An SPDM GET_VERSION request is answered over DOE. PRESUMED: log entry 25. -/
def execGetVersion (request : List Byte) (s : State) : Host.Outcome State Fault Refusal :=
  .next (
    if s.doeReady = false then s
    else if msgByte request 0 ≠ 0x10 ∨ msgByte request 1 ≠ 0x84 ∨ request.length < 4 then
      s.emit (.doe (spdmError SpdmErr.invalidRequest))
    else ({ s with boot := { s.boot with
      spdm := 1
      vca := request ++ versionResponse
      certs := []
      measured := [] } }).emit (.doe versionResponse))

/-- CAPABILITIES: CERT_CAP, CHAL_CAP and MEAS_CAP with signature. PRESUMED: log entry 25. -/
def capabilitiesResponse : List Byte :=
  spdmHead 0x12 0x61 0 0 ++ leBytes 1 0 ++ leBytes 1 (Config.spdmParam 0) ++ leBytes 2 0 ++ leBytes 4 0x16 ++
    leBytes 4 (Config.spdmParam 1) ++ leBytes 4 (Config.spdmParam 2)

/-- Go on with the connection: the exchange joins the messages that signatures cover. -/
def State.connect (s : State) (stage : Nat) (request response : List Byte) : State :=
  ({ s with boot := { s.boot with
    spdm := stage
    vca := s.boot.vca ++ request ++ response } }).emit (.doe response)

/-- GET_CAPABILITIES (R514): An SPDM GET_CAPABILITIES request is answered. -/
def execGetCapabilities (request : List Byte) (s : State) : Host.Outcome State Fault Refusal :=
  .next (s.onSpdm request 0xE1 20 1 fun s => s.connect 2 request capabilitiesResponse)

/-- ALGORITHMS: SM2 over P-256 and SM3, where the requester offers them. -/
def algorithmsResponse (request : List Byte) : List Byte :=
  let meas := bitOf (msgByte request 6) 0
  let asym := bitOf (imgNat request 8 4) 9
  let hash := bitOf (imgNat request 12 4) 6
  spdmHead 0x12 0x63 0 0 ++ leBytes 2 36 ++ leBytes 1 (flagBit meas 0) ++ leBytes 1 0 ++ leBytes 4 (flagBit meas 7) ++
    leBytes 4 (flagBit asym 9) ++ leBytes 4 (flagBit hash 6) ++ List.replicate 12 0 ++ leBytes 1 0 ++ leBytes 1 0 ++ leBytes 2 0

/-- NEGOTIATE_ALGORITHMS (R514): An SPDM NEGOTIATE_ALGORITHMS request selects SM2 and SM3. -/
def execNegotiateAlgorithms (request : List Byte) (s : State) : Host.Outcome State Fault Refusal :=
  .next (s.onSpdm request 0xE3 32 2 fun s => s.connect 3 request (algorithmsResponse request))

/-! ### Certificates -/

/-- The certificate chain of slot 0. -/
def State.certChain (s : State) : List Byte := Config.identityPart 2 (s.identity.getD [])

/-- An exchange about certificates. -/
def State.certExchange (s : State) (request response : List Byte) : State :=
  ({ s with boot := { s.boot with certs := s.boot.certs ++ request ++ response } }).emit (.doe response)

/-- Exactly 32 bytes. -/
def cut32 (d : List Byte) : List Byte := padTo 32 (d.take 32)

/-- An SM3 digest, 32 bytes. -/
def digest32 (m : List Byte) : List Byte := cut32 (Config.sm3 m)

/-- GET_DIGESTS (R514): An SPDM GET_DIGESTS request returns the certificate chain digest. -/
def execGetDigests (request : List Byte) (s : State) : Host.Outcome State Fault Refusal :=
  .next (s.onSpdm request 0x81 4 3 fun s => s.certExchange request (spdmHead 0x12 0x01 0 1 ++ digest32 s.certChain))

/-- The part of the chain that a GET_CERTIFICATE asks for. -/
def State.certResponse (s : State) (request : List Byte) : List Byte :=
  let offset := imgNat request 4 2
  let chain := s.certChain
  let part := (chain.drop offset).take (imgNat request 6 2)
  spdmHead 0x12 0x02 0 0 ++ leBytes 2 part.length ++ leBytes 2 (chain.length - offset - part.length) ++ part

/-- GET_CERTIFICATE (R514): An SPDM GET_CERTIFICATE request returns slot 0. -/
def execGetCertificate (request : List Byte) (s : State) : Host.Outcome State Fault Refusal :=
  .next (s.onSpdm request 0x82 8 3 fun s =>
    if msgByte request 2 % 16 ≠ 0 ∨ s.certChain.length ≤ imgNat request 4 2 then
      s.emit (.doe (spdmError SpdmErr.invalidRequest))
    else s.certExchange request (s.certResponse request))

/-! ### Measurements (Table 14.7) -/

/-- The measurement blocks that the module has: index, value type and value. -/
def State.measurements (s : State) : List (Nat × Nat × List Byte) :=
  let recs := (imgRecs s.boot.image).getD []
  [(1, 0, cut32 Config.romDigest)] ++
  (if s.boot.image = [] then [] else [(2, 3, imgDigest s.boot.image)]) ++
  (if recCount recs 5 = 0 then [] else [(3, 1, digest32 (recValue recs 5))]) ++
  [(4, 3, digest32 ((recs.filter fun x => x.type == 3).flatMap fun x => x.value)),
   (5, 0x83, leBytes 4 (s.regs.get Reg.BOOT_STATUS_COUNTER) ++ leBytes 1 (s.regs.get Reg.BOOT_STATUS_SLOT) ++
      leBytes 1 (s.regs.get Reg.BOOT_STATUS_FALLBACK) ++ leBytes 2 0),
   (6, 2, digest32 (s.identity.getD []))]

/-- A block in the DMTF measurement format. -/
def measurementBlock (x : Nat × Nat × List Byte) : List Byte :=
  leBytes 1 x.1 ++ leBytes 1 1 ++ leBytes 2 (x.2.2.length + 3) ++ leBytes 1 x.2.1 ++ leBytes 2 x.2.2.length ++ x.2.2

/-! ### Signatures (R512, R513) -/

def asciiBytes (t : String) : List Byte := t.toList.map fun c => BitVec.ofNat 8 c.toNat

/-- What an SPDM signature covers: the version prefix four times, the context, and the digest of the messages. -/
def signedMessage (context : String) (messages : List Byte) : List Byte :=
  let c := asciiBytes context
  let p := asciiBytes "dmtf-spdm-v1.2.*"
  p ++ p ++ p ++ p ++ List.replicate (36 - c.length) 0 ++ c ++ digest32 messages

/-- The device key's signature. -/
def State.sign (s : State) (context : String) (messages : List Byte) : List Byte :=
  padTo 64 ((Config.pufSign s.boot.puf s.boot.helper (signedMessage context messages)).take 64)

/-- Does the derived key match the identity? -/
def State.identified (s : State) : Bool := s.regs.flag Reg.BOOT_STATUS_IDENTITY_OK

/-- A random number of 32 bytes: no rule gives its value. -/
def State.nonce (s : State) : List Byte × State :=
  let x := s.draw
  (leBytes 32 x.1, x.2)

/-- The digest of the measurements that a CHALLENGE asks for: none, or all of them. -/
def State.measSummary (s : State) (type : Nat) : List Byte :=
  if type = 0 then [] else digest32 (s.measurements.flatMap measurementBlock)

/-- CHALLENGE_AUTH, signed. -/
def State.challengeAuth (s : State) (request : List Byte) : State :=
  let n := s.nonce
  let body := spdmHead 0x12 0x03 0 1 ++ digest32 s.certChain ++ n.1 ++ s.measSummary (msgByte request 3) ++ leBytes 2 0
  let response := body ++ s.sign "responder-challenge_auth signing" (s.boot.vca ++ s.boot.certs ++ request ++ body)
  n.2.emit (.doe response)

/-- CHALLENGE (R514): An SPDM CHALLENGE is signed with the device key, or answered with ERROR when identity failed. -/
def execChallenge (request : List Byte) (s : State) : Host.Outcome State Fault Refusal :=
  .next (s.onSpdm request 0x83 36 3 fun s =>
    if s.identified = false then s.emit (.doe (spdmError SpdmErr.unspecified))
    else if msgByte request 2 % 16 ≠ 0 ∨ (2 ≤ msgByte request 3 ∧ msgByte request 3 ≠ 0xFF) then
      s.emit (.doe (spdmError SpdmErr.invalidRequest))
    else s.challengeAuth request)

/-- MEASUREMENTS with the blocks of a GET_MEASUREMENTS; operation 0 asks for their number, 0xFF for all of them. -/
def State.measResponse (s : State) (request : List Byte) : State :=
  let op := msgByte request 3
  let all := s.measurements
  let blocks := if op = 0 then [] else if op = 0xFF then all else all.filter fun x => x.1 == op
  let rec_ := blocks.flatMap measurementBlock
  let n := s.nonce
  let body := spdmHead 0x12 0x60 (if op = 0 then all.length else 0) 0 ++ leBytes 1 blocks.length ++ leBytes 3 rec_.length ++
    rec_ ++
    n.1 ++ leBytes 2 0
  if bitOf (msgByte request 2) 0 then
    let response := body ++ s.sign "responder-measurements signing" (s.boot.vca ++ s.boot.measured ++ request ++ body)
    ({ n.2 with boot := { n.2.boot with measured := [] } }).emit (.doe response)
  else ({ n.2 with boot := { n.2.boot with measured := n.2.boot.measured ++ request ++ body } }).emit (.doe body)

/-- GET_MEASUREMENTS (R514): An SPDM GET_MEASUREMENTS request returns the measurement blocks, signed. PRESUMED: log entry 25.
-/
def execGetMeasurements (request : List Byte) (s : State) : Host.Outcome State Fault Refusal :=
  .next (s.onSpdm request 0xE0 (if bitOf (msgByte request 2) 0 then 37 else 4) 3 fun s =>
    let op := msgByte request 3
    if bitOf (msgByte request 2) 0 = true ∧ s.identified = false then s.emit (.doe (spdmError SpdmErr.unspecified))
    else if op ≠ 0 ∧ op ≠ 0xFF ∧ (s.measurements.all fun x => x.1 != op) = true then
      s.emit (.doe (spdmError SpdmErr.invalidRequest))
    else s.measResponse request)

/-! ### The management port -/

/-- What the module sends over the sideband, from its static address. -/
def State.mctpSend (s : State) (data : List Byte) : State := s.emit (.mctp (leBytes 1 (0x30 + s.fab.slotId) ++ data))

/-- In RECOVERY an image is checked and written to either device; the header stands only when every check passes. The answer holds
the REASON. -/
def execPldmFirmwareUpdate (toB : Bool) (image : List Byte) (s : State) : Host.Outcome State Fault Refusal :=
  .next (
    if s.fab.powered = false ∨ s.regs.get Reg.BOOT_STATUS_STAGE ≠ 4 then s
    else
      let reason := imageReason false s.counter image
      ({ s with boot := s.boot.setImage toB (if reason = 0 then image else []) }).mctpSend (leBytes 1 reason))

/-- The values of SAF_INPUT, SAF_INPUT_PEAK, SAF_POWER_CTL and SAF_DIE_TEMP, after the request. -/
def execPldmPlatformMonitoring (request : List Byte) (s : State) : Host.Outcome State Fault Refusal :=
  .next (
    if s.fab.powered = false then s
    else s.mctpSend (request ++ leBytes 8 (s.bar0 0x700200) ++ leBytes 8 (s.bar0 0x700208) ++ leBytes 8 (s.bar0 0x700210) ++
      leBytes 8 (s.bar0 0x700218)))

end Sys2Proof.Machine
end

