-- ==== Sys2Proof/Machine/Tree.lean ====
section
/-! DEFINITION. The result tree (R120 to R123, R197): a tile's input, the combination at a node, the result. -/

namespace Sys2Proof.Machine

/-! ### Places in the tree (R120) -/

/-- The node of a level above a logical tile. -/
def treeNode (level t : Nat) : Nat :=
  if level ≥ 7 then 0
  else t / 4096 * 4 ^ (6 - level) + t / 64 % 64 / 2 ^ level * 2 ^ (6 - level) + t % 64 / 2 ^ level

/-- Which child of that node the tile is under. -/
def treeChild (level t : Nat) : Nat :=
  if level ≥ 7 then t / 4096
  else 2 * (t / 64 % 64 / 2 ^ (level - 1) % 2) + t % 64 / 2 ^ (level - 1) % 2

def treeKey (channel level node : Nat) : Nat := (channel * 16 + level) * 16384 + node

/-- Hand an input to the node of `level` above its tiles. -/
def State.toNode (s : State) (channel level : Nat) (i : TreeIn) : State :=
  let t := ((i.tiles.map Prod.fst).head?).getD 0
  let k := treeKey channel level (treeNode level t)
  { s with tree := Tbl.put s.tree k (Tbl.get s.tree [] k ++ [{ i with child := treeChild level t }]) }

/-! ### A tile's input (R121, R197) -/

/-- Bytes of a source element, and of a result element. -/
def treeInBytes (op : Nat) : Nat := if op = 0 then 4 else 8
def treeOutBytes (op fmt : Nat) : Nat :=
  if op = 0 then (match Fmt.ofCode fmt with
    | some f => f.elemBits / 8
    | none => 4) else 8

/-- The result of an empty input is one element (R71, R197). -/
def treeOutLen (len : Nat) : Nat := max 1 len

def treeIdentity (op : Nat) : Nat × Nat × Bool :=
  if op = 0 then (0, 0, false) else (Layout.fp32.encode (Winner.identity (op == 1)).v, 0xFFFFFFFF, false)

/-- One source element: a sum's value in the wide format, or a value with its index. -/
def treeElem (t : Tile) (op a i : Nat) : Nat × Nat × Bool :=
  let n := treeInBytes op
  let w := t.mem.nat (a + n * i) n
  let p := t.mem.poisoned (a + n * i) n || t.solo
  if op = 0 then (encWide (Layout.fp32.decode w), 0, p) else (w % 2 ^ 32, w / 2 ^ 32, p)

/-- The elements of an input; an empty one is the identity (R71, R197). -/
def treeVals (t : Tile) (op len a : Nat) : List (Nat × Nat × Bool) :=
  if len = 0 then [((treeIdentity op).1, (treeIdentity op).2.1, t.solo)] else (List.range len).map (treeElem t op a)

/-- The refusals of a TREE at issue, or the address of its source. -/
def State.treeJudge (s : State) (x : Tile) (f : TreeF) : Except Nat Nat :=
  let len := x.regNat f.lreg
  let dst := x.regNat f.areg
  let out := treeOutLen len * treeOutBytes f.op f.dstfmt
  if f.op = 3 then .error St.paramCode
  else if f.level = 0 then .error St.treeSpan
  else match (if f.op = 0 then sumFmt f.dstfmt else .ok .fp32) with
    | .error e => .error e
    | .ok _ =>
      match s.judge .tree dst out with
      | some e => .error e
      | none =>
        if Pat.meetsProgram ⟨dst, out, 0, 1⟩ then .error St.progRegion
        else if len = 0 then .ok 0
        else match x.tileRef f.ref (len * treeInBytes f.op) with
          | .error e => .error e
          | .ok a => if a % treeInBytes f.op ≠ 0 then .error St.paramCode else .ok a

/-- TREE (R197): The tile contributes its input to a result-tree reduction on one tree channel. -/
def execTree (t : Nat) (f : TreeF) (s : State) : Host.Outcome State Fault Refusal :=
  .next (
    if s.issues t (.tree f) = false then s
    else
      let s0 := s.fetched t
      let x := s0.tile t
      match s0.treeJudge x f with
      | .error e => s0.takeTile t (x.refuse t e)
      | .ok a =>
        let len := x.regNat f.lreg
        let n := len * treeInBytes f.op
        let rd := if len = 0 then 0 else zoneMask a n
        if x.hazard rd 0 then s0.setTile t { x with stall := .hazard }
        else
          let s1 := s0.takeTile t (if len = 0 then .ok x else x.touch t a n)
          let y := s1.tile t
          let i : TreeIn := {
            child := 0, op := f.op, fmt := if f.op = 0 then f.dstfmt else 0, len := len, dst := x.regNat f.areg
            top := f.level, vals := treeVals y f.op len a, flags := 0, tiles := [(t, y.pc)] }
          let s2 := s1.onTile t fun z =>
            ({ z with
              inflight := z.inflight ++ [(⟨z.nextId, z.pc, .tree f.channel, rd, 0, [], [], 0⟩ : Inflight)]
              nextId := z.nextId + 1 }).advance t
          (s2.toNode f.channel 1 i).trace t x.pc x.opcode)

/-! ### Combining (R122, R123) -/

/-- Two values meet: a wide sum in RNE, or the winner of R71. -/
def treeMeet (op : Nat) (a b : Nat × Nat × Bool) : (Nat × Nat × Bool) × Flags :=
  if op = 0 then
    let r := addWide (valWide a.1) (valWide b.1)
    ((encWide r.1, 0, a.2.2 || b.2.2), r.2)
  else
    let w := Winner.combine (op == 1) ⟨Layout.fp32.decode a.1, a.2.1⟩ ⟨Layout.fp32.decode b.1, b.2.1⟩
    ((Layout.fp32.encode w.v, w.idx, a.2.2 || b.2.2), if w.v.isNaN then Flags.nv else 0)

/-- Combine inputs in child order. DESIGN CHOICE: log entry 18. -/
def treeFold (op : Nat) : List TreeIn → List (Nat × Nat × Bool) × Flags
  | [] => ([], 0)
  | i :: r =>
    r.foldl (fun acc j =>
      let m := (acc.1.zip j.vals).map fun p => treeMeet op p.1 p.2
      (m.map Prod.fst, acc.2 ||| orFlags (m.map Prod.snd) ||| BitVec.ofNat 16 j.flags)) (i.vals, BitVec.ofNat 16 i.flags)

/-- Do two inputs name the same reduction? -/
def TreeIn.agrees (a b : TreeIn) : Bool :=
  a.op == b.op && a.fmt == b.fmt && a.len == b.len && a.dst == b.dst && a.top == b.top

def TreeIn.lowest (i : TreeIn) : Nat := (i.tiles.map Prod.fst).foldl min 16384

/-- The input that holds the lowest-numbered tile. -/
def lowestIn : List TreeIn → Option TreeIn
  | [] => none
  | i :: r =>
    match lowestIn r with
    | none => some i
    | some j => if j.lowest < i.lowest then some j else some i

/-- Result bytes: one rounding into the destination format, or values and indices as they are. -/
def treeResult (i : TreeIn) : List PByte × Flags :=
  if i.op = 0 then
    match Fmt.ofCode i.fmt with
    | none => ([], 0)
    | some f =>
      let r := i.vals.map fun v => (f.store .rne 0 false (valWide v.1), v.2.2)
      (r.flatMap fun x => (leBytes (f.elemBits / 8) x.1.1).map fun b => (b, x.2), orFlags (r.map fun x => x.1.2))
  else (i.vals.flatMap fun v => (leBytes 4 v.1 ++ leBytes 4 v.2.1).map fun b => (b, v.2.2), 0)

/-- A tile's oldest TREE on a channel completes. -/
def Tile.treeDone (num : Nat) (t : Tile) (channel : Nat) (fl : Flags) : TileRes :=
  match t.firstOf (.tree channel) with
  | some f => t.complete num f [] [] fl
  | none => .ok t

/-- Write a result and complete the TREE of every tile that took part. The flags that the nodes and the last rounding raise
reach the word of each of those tiles. DESIGN CHOICE: log entry 18. -/
def State.treeWrite (s : State) (channel : Nat) (i : TreeIn) : State :=
  let r := treeResult i
  let p := r.1.any Prod.snd
  let fl := r.2 ||| BitVec.ofNat 16 i.flags ||| pzIf p
  (s.put i.dst r.1).each i.tiles fun s t => s.onTile t.1 fun x => x.treeDone t.1 channel fl

/-- Take the first input of each child out of a node's queue. -/
def takeChildren (l : List TreeIn) : Option (List TreeIn × List TreeIn) :=
  match l.find? (·.child == 0), l.find? (·.child == 1), l.find? (·.child == 2), l.find? (·.child == 3) with
  | some a, some b, some c, some d => some ([a, b, c, d], (((l.erase a).erase b).erase c).erase d)
  | _, _, _, _ => none

/-- A mismatch at a node (R123): the output carries poison and free values in the form that the input with the
lowest-numbered tile names, and every tile whose input entered faults at its TREE. DESIGN CHOICE: log entry 18. -/
def State.treeMismatch (s : State) (ins : List TreeIn) (low : TreeIn) : TreeIn × State :=
  let tiles := ins.flatMap fun i => i.tiles
  let n := treeOutLen low.len
  let vals := (List.range n).map fun k =>
    (Config.freeNat (s.drawn + 2 * k) % 2 ^ 64, Config.freeNat (s.drawn + 2 * k + 1) % 2 ^ 32, true)
  ({ low with vals := vals, tiles := tiles },
   ({ s with drawn := s.drawn + 2 * n }).each tiles fun s t => s.onTile t.1 fun x => x.raise t.1 St.treeMismatch t.2 0)

/-- A node holds an input of every child: it combines them in child order and passes the result up, or writes it
at the top of the participant set, once memory has slots for it (R259). DESIGN CHOICE: log entry 18. -/
def execTreeNodeCombine (channel level node : Nat) (s : State) : Host.Outcome State Fault Refusal :=
  .next (
    let k := treeKey channel level node
    match takeChildren (Tbl.get s.tree [] k) with
    | none => s
    | some (ins, rest) =>
      match lowestIn ins with
      | none => s
      | some low =>
        let s1 := { s with tree := if rest = [] then Tbl.del s.tree k else Tbl.put s.tree k rest }
        let r : TreeIn × State :=
          if ins.all fun i => i.agrees low then
            (let f := treeFold low.op ins
             ({ low with vals := f.1, flags := f.2.toNat, tiles := ins.flatMap fun i => i.tiles }, s1))
          else s1.treeMismatch ins low
        if r.1.top ≤ level then (if s.localOpen r.1.dst (treeResult r.1).1.length then r.2.treeWrite channel r.1 else s)
        else r.2.toNode channel (level + 1) r.1)

/-! ### Hazards (R107, R108, R204) -/

/-- The instruction at PC issues, its tile no longer held back. A STREAM issues by its own row. -/
def State.reissue (s : State) (t : Nat) : Host.Outcome State Fault Refusal :=
  match (s.tile t).fetch with
  | .vop f => execVop t f s
  | .vred f => execVred t f s
  | .cvt f => execCvt t f s
  | .merge f => execMerge t f s
  | .mma f => execMma t f s
  | .att f => if f.bwd then execAttBackward t f s else execAttForward t f s
  | .hcsend f => execHcsend t f s
  | .tree f => execTree t f s
  | _ => .next s

/-- The hazard that held back the instruction at PC has cleared, and it issues. -/
def execHazardClear (t : Nat) (s : State) : Host.Outcome State Fault Refusal :=
  if (s.tile t).stall ≠ .hazard ∨ s.tilesRun = false ∨ s.repairHold t = true then .next s
  else (s.setTile t { s.tile t with stall := .none }).reissue t

end Sys2Proof.Machine
end

