-- ==== Sys2Proof/Machine/Dispatch.lean ====
section
/-! DEFINITION. Which meaning each command has: one arm per row of the table. -/

namespace Sys2Proof.Machine

def exec (i : Instr) (s : State) : Host.Outcome State Fault Refusal :=
  match i with
  | .powerOn puf slot failA failB early => Sys2Proof.Machine.execPowerOn puf slot failA failB early s
  | .perstAssert => Sys2Proof.Machine.execPerstAssert s
  | .perstDeassert slot failA failB early => Sys2Proof.Machine.execPerstDeassert slot failA failB early s
  | .hotReset => Sys2Proof.Machine.execHotReset s
  | .functionLevelReset => Sys2Proof.Machine.execFunctionLevelReset s
  | .warmReset => Sys2Proof.Machine.execWarmReset s
  | .fabricReset => Sys2Proof.Machine.execFabricReset s
  | .safeState railsHold pd0 => Sys2Proof.Machine.execSafeState railsHold pd0 s
  | .inputOvercurrent milliamps ns => Sys2Proof.Machine.execInputOvercurrent milliamps ns s
  | .railWindow rail millivolts setPoint ns => Sys2Proof.Machine.execRailWindow rail millivolts setPoint ns s
  | .dieTempSample temps => Sys2Proof.Machine.execDieTempSample temps s
  | .coolantCheck before after power lowest highest => Sys2Proof.Machine.execCoolantCheck before after power lowest highest s
  | .limiterAct milliamps => Sys2Proof.Machine.execLimiterAct milliamps s
  | .limiterSustained => Sys2Proof.Machine.execLimiterSustained s
  | .limiterRelease milliamps => Sys2Proof.Machine.execLimiterRelease milliamps s
  | .powerLimitWindow watts => Sys2Proof.Machine.execPowerLimitWindow watts s
  | .rippleMeasure millivolts => Sys2Proof.Machine.execRippleMeasure millivolts s
  | .presentMate => Sys2Proof.Machine.execPresentMate s
  | .presentPart => Sys2Proof.Machine.execPresentPart s
  | .paceWindow die paces => Sys2Proof.Machine.execPaceWindow die paces s
  | .paceShortClear die region => Sys2Proof.Machine.execPaceShortClear die region s
  | .marginReport margins => Sys2Proof.Machine.execMarginReport margins s
  | .tileRepair t => Sys2Proof.Machine.execTileRepair t s
  | .tileRepairDone t => Sys2Proof.Machine.execTileRepairDone t s
  | .nop t => Sys2Proof.Machine.execNop t s
  | .end_ t => Sys2Proof.Machine.execEnd t s
  | .tileEndDone t => Sys2Proof.Machine.execTileEndDone t s
  | .rdreg t f => Sys2Proof.Machine.execRdreg t f s
  | .wrreg t f => Sys2Proof.Machine.execWrreg t f s
  | .fence t => Sys2Proof.Machine.execFence t s
  | .fenceSatisfied t => Sys2Proof.Machine.execFenceSatisfied t s
  | .trap t code => Sys2Proof.Machine.execTrap t code s
  | .li t f => Sys2Proof.Machine.execLi t f s
  | .addi t f => Sys2Proof.Machine.execAddi t f s
  | .alu t f => Sys2Proof.Machine.execAlu t f s
  | .br t f => Sys2Proof.Machine.execBr t f s
  | .jmp t target => Sys2Proof.Machine.execJmp t target s
  | .loop t f => Sys2Proof.Machine.execLoop t f s
  | .loopExit t lc => Sys2Proof.Machine.execLoopExit t lc s
  | .lockstepMismatch t => Sys2Proof.Machine.execLockstepMismatch t s
  | .sig t f => Sys2Proof.Machine.execSig t f s
  | .wait t f => Sys2Proof.Machine.execWait t f s
  | .waitSatisfied t => Sys2Proof.Machine.execWaitSatisfied t s
  | .copy by_ => Sys2Proof.Machine.execCopy by_ s
  | .compress by_ => Sys2Proof.Machine.execCompress by_ s
  | .areaRead by_ => Sys2Proof.Machine.execAreaRead by_ s
  | .landed by_ => Sys2Proof.Machine.execLanded by_ s
  | .streamDescriptorStart ch view => Sys2Proof.Machine.execStreamDescriptorStart ch view s
  | .chainSlotGrant ch view => Sys2Proof.Machine.execChainSlotGrant ch view s
  | .streamComplete ch => Sys2Proof.Machine.execStreamComplete ch s
  | .slotSignal ch => Sys2Proof.Machine.execSlotSignal ch s
  | .landedComplete ch ok => Sys2Proof.Machine.execLandedComplete ch ok s
  | .busError ch view => Sys2Proof.Machine.execBusError ch view s
  | .stwait t f => Sys2Proof.Machine.execStwait t f s
  | .stwaitSatisfied t => Sys2Proof.Machine.execStwaitSatisfied t s
  | .hcsend t f => Sys2Proof.Machine.execHcsend t f s
  | .handcartLeave from_ => Sys2Proof.Machine.execHandcartLeave from_ s
  | .handcartDeliver n => Sys2Proof.Machine.execHandcartDeliver n s
  | .mailboxWrite n => Sys2Proof.Machine.execMailboxWrite n s
  | .tree t f => Sys2Proof.Machine.execTree t f s
  | .treeNodeCombine channel level node => Sys2Proof.Machine.execTreeNodeCombine channel level node s
  | .vop t f => Sys2Proof.Machine.execVop t f s
  | .vred t f => Sys2Proof.Machine.execVred t f s
  | .cvt t f => Sys2Proof.Machine.execCvt t f s
  | .merge t f => Sys2Proof.Machine.execMerge t f s
  | .mma t f => Sys2Proof.Machine.execMma t f s
  | .segmentVerify t corrupt => Sys2Proof.Machine.execSegmentVerify t corrupt s
  | .segmentRetryDone t corrupt => Sys2Proof.Machine.execSegmentRetryDone t corrupt s
  | .mmaComplete t => Sys2Proof.Machine.execMmaComplete t s
  | .attForward t f => Sys2Proof.Machine.execAttForward t f s
  | .attBackward t f => Sys2Proof.Machine.execAttBackward t f s
  | .instructionComplete t att => Sys2Proof.Machine.execInstructionComplete t att s
  | .hazardClear t => Sys2Proof.Machine.execHazardClear t s
  | .tmemScrub t upsets => Sys2Proof.Machine.execTmemScrub t upsets s
  | .tmemScrubPassEnd t late => Sys2Proof.Machine.execTmemScrubPassEnd t late s
  | .livenessAdvance t => Sys2Proof.Machine.execLivenessAdvance t s
  | .watchdogSample die => Sys2Proof.Machine.execWatchdogSample die s
  | .cmpTileDataRead offset len => Sys2Proof.Machine.execCmpTileDataRead s offset len
  | .cmpTileDataWrite w => Sys2Proof.Machine.execCmpTileDataWrite w s
  | .timNowRead offset len => Sys2Proof.Machine.execTimNowRead s offset len
  | .registerWrite w => Sys2Proof.Machine.execRegisterWrite w s
  | .enable => Sys2Proof.Machine.execEnable s
  | .consistencyCheckDone counterOk => Sys2Proof.Machine.execConsistencyCheckDone counterOk s
  | .park => Sys2Proof.Machine.execPark s
  | .deepPark => Sys2Proof.Machine.execDeepPark s
  | .parkExit => Sys2Proof.Machine.execParkExit s
  | .parkEntry => Sys2Proof.Machine.execParkEntry s
  | .d3hotEntry => Sys2Proof.Machine.execD3hotEntry s
  | .d0Return => Sys2Proof.Machine.execD0Return s
  | .doorbellPoll => Sys2Proof.Machine.execDoorbellPoll s
  | .doorbellPollResult view => Sys2Proof.Machine.execDoorbellPollResult view s
  | .descriptorFetch => Sys2Proof.Machine.execDescriptorFetch s
  | .descriptorFetchResult view => Sys2Proof.Machine.execDescriptorFetchResult view s
  | .descriptorStart ring index => Sys2Proof.Machine.execDescriptorStart ring index s
  | .nopDescriptor ring index => Sys2Proof.Machine.execNopDescriptor ring index s
  | .progLoad ring index view => Sys2Proof.Machine.execProgLoad ring index view s
  | .progLoadDone ring index => Sys2Proof.Machine.execProgLoadDone ring index s
  | .kvReserve ring index => Sys2Proof.Machine.execKvReserve ring index s
  | .kvRelease ring index => Sys2Proof.Machine.execKvRelease ring index s
  | .objDefine ring index => Sys2Proof.Machine.execObjDefine ring index s
  | .objPromote ring index => Sys2Proof.Machine.execObjPromote ring index s
  | .objEvict ring index => Sys2Proof.Machine.execObjEvict ring index s
  | .objUnpin ring index => Sys2Proof.Machine.execObjUnpin ring index s
  | .objFree ring index => Sys2Proof.Machine.execObjFree ring index s
  | .objectCopyDone part => Sys2Proof.Machine.execObjectCopyDone part s
  | .flashWrite ring index view => Sys2Proof.Machine.execFlashWrite ring index view s
  | .flashWriteDone ok => Sys2Proof.Machine.execFlashWriteDone ok s
  | .completionWrite cq => Sys2Proof.Machine.execCompletionWrite cq s
  | .eventWrite => Sys2Proof.Machine.execEventWrite s
  | .modTimeExpiry cq => Sys2Proof.Machine.execModTimeExpiry cq s
  | .stepArm ring index view => Sys2Proof.Machine.execStepArm ring index view s
  | .mbAdmit ring index view => Sys2Proof.Machine.execMbAdmit ring index view s
  | .stepRelease view => Sys2Proof.Machine.execStepRelease view s
  | .queueStart ch view => Sys2Proof.Machine.execQueueStart ch view s
  | .gather ring index view => Sys2Proof.Machine.execGather ring index view s
  | .gatherLanded ring index => Sys2Proof.Machine.execGatherLanded ring index s
  | .dropSync ring index => Sys2Proof.Machine.execDropSync ring index s
  | .dropSyncComplete ring index => Sys2Proof.Machine.execDropSyncComplete ring index s
  | .gradExchange ring index view => Sys2Proof.Machine.execGradExchange ring index view s
  | .gradEncodeStart ring index => Sys2Proof.Machine.execGradEncodeStart ring index s
  | .contributionReceive link => Sys2Proof.Machine.execContributionReceive link s
  | .coll ring index view => Sys2Proof.Machine.execColl ring index view s
  | .collPacketReceive link => Sys2Proof.Machine.execCollPacketReceive link s
  | .stepAbort ring index => Sys2Proof.Machine.execStepAbort ring index s
  | .stepRunningEnd => Sys2Proof.Machine.execStepRunningEnd s
  | .parityPartialReceive link => Sys2Proof.Machine.execParityPartialReceive link s
  | .parityUpdateDone => Sys2Proof.Machine.execParityUpdateDone s
  | .voteReceive link => Sys2Proof.Machine.execVoteReceive link s
  | .decisionReceive link => Sys2Proof.Machine.execDecisionReceive link s
  | .tableRebuildDone table => Sys2Proof.Machine.execTableRebuildDone table s
  | .abortEnd => Sys2Proof.Machine.execAbortEnd s
  | .heartbeatSend => Sys2Proof.Machine.execHeartbeatSend s
  | .gatePartyLost rank => Sys2Proof.Machine.execGatePartyLost rank s
  | .isolationTimeout => Sys2Proof.Machine.execIsolationTimeout s
  | .healthEvaluate => Sys2Proof.Machine.execHealthEvaluate s
  | .absent ring index => Sys2Proof.Machine.execAbsent ring index s
  | .spareFillDone => Sys2Proof.Machine.execSpareFillDone s
  | .pieceRepair piece side => Sys2Proof.Machine.execPieceRepair piece side s
  | .mbDrop ring index => Sys2Proof.Machine.execMbDrop ring index s
  | .snapshot ring index view => Sys2Proof.Machine.execSnapshot ring index view s
  | .snapshotLoad ring index view => Sys2Proof.Machine.execSnapshotLoad ring index view s
  | .parityInit ring index => Sys2Proof.Machine.execParityInit ring index s
  | .routeLoad ring index view => Sys2Proof.Machine.execRouteLoad ring index view s
  | .routeArm ring index => Sys2Proof.Machine.execRouteArm ring index s
  | .routeProbe link => Sys2Proof.Machine.execRouteProbe link s
  | .flitSend link => Sys2Proof.Machine.execFlitSend link s
  | .flitReceive link flit => Sys2Proof.Machine.execFlitReceive link flit s
  | .nackReceive link seqs => Sys2Proof.Machine.execNackReceive link seqs s
  | .nackRepeat link => Sys2Proof.Machine.execNackRepeat link s
  | .replayTimeout link => Sys2Proof.Machine.execReplayTimeout link s
  | .linkSilenceTimeout link => Sys2Proof.Machine.execLinkSilenceTimeout link s
  | .linkFinal link => Sys2Proof.Machine.execLinkFinal link s
  | .linkFinalTimeout link => Sys2Proof.Machine.execLinkFinalTimeout link s
  | .laneSpare link lane => Sys2Proof.Machine.execLaneSpare link lane s
  | .linkTrainRetry link peerRank peerLink lanes => Sys2Proof.Machine.execLinkTrainRetry link peerRank peerLink lanes s
  | .linkRetryRateCheck => Sys2Proof.Machine.execLinkRetryRateCheck s
  | .packetReceive link => Sys2Proof.Machine.execPacketReceive link s
  | .packetForward link => Sys2Proof.Machine.execPacketForward link s
  | .unreachable link => Sys2Proof.Machine.execUnreachable link s
  | .message link => Sys2Proof.Machine.execMessage link s
  | .hold link => Sys2Proof.Machine.execHold link s
  | .holdResendTimeout rank order => Sys2Proof.Machine.execHoldResendTimeout rank order s
  | .handcartAck link => Sys2Proof.Machine.execHandcartAck link s
  | .readReq link => Sys2Proof.Machine.execReadReq link s
  | .readResp link view => Sys2Proof.Machine.execReadResp link view s
  | .wack link => Sys2Proof.Machine.execWack link s
  | .injectDrop link ctl => Sys2Proof.Machine.execInjectDrop link ctl s
  | .injectCorrupt link ctl => Sys2Proof.Machine.execInjectCorrupt link ctl s
  | .injectReorder link ctl => Sys2Proof.Machine.execInjectReorder link ctl s
  | .injectLaneFail link ctl => Sys2Proof.Machine.execInjectLaneFail link ctl s
  | .injectLinkFail link ctl => Sys2Proof.Machine.execInjectLinkFail link ctl s
  | .memRequestEnter req => Sys2Proof.Machine.execMemRequestEnter req s
  | .memReadDone channel slot => Sys2Proof.Machine.execMemReadDone channel slot s
  | .laneMark channel lane training => Sys2Proof.Machine.execLaneMark channel lane training s
  | .channelRetire channel training => Sys2Proof.Machine.execChannelRetire channel training s
  | .retireAreaPoisoned => Sys2Proof.Machine.execRetireAreaPoisoned s
  | .bankRefresh channel bank => Sys2Proof.Machine.execBankRefresh channel bank s
  | .stackTempSample temps => Sys2Proof.Machine.execStackTempSample temps s
  | .patrolScrubRead upsets => Sys2Proof.Machine.execPatrolScrubRead upsets s
  | .tgStart value => Sys2Proof.Machine.execTgStart value s
  | .tgRunDone channel wrong => Sys2Proof.Machine.execTgRunDone channel wrong s
  | .healthRecordWrite ok => Sys2Proof.Machine.execHealthRecordWrite ok s
  | .syncSend link stamp => Sys2Proof.Machine.execSyncSend link stamp s
  | .syncReceive link stamp => Sys2Proof.Machine.execSyncReceive link stamp s
  | .syncMissed link => Sys2Proof.Machine.execSyncMissed link s
  | .ppsEdge error => Sys2Proof.Machine.execPpsEdge error s
  | .ref10mLoss => Sys2Proof.Machine.execRef10mLoss s
  | .oscillatorFail => Sys2Proof.Machine.execOscillatorFail s
  | .timSet value => Sys2Proof.Machine.execTimSet value s
  | .timePageWrite => Sys2Proof.Machine.execTimePageWrite s
  | .ptmExchange hostNs => Sys2Proof.Machine.execPtmExchange hostNs s
  | .ptpMessage seconds utc offset => Sys2Proof.Machine.execPtpMessage seconds utc offset s
  | .getVersion request => Sys2Proof.Machine.execGetVersion request s
  | .getCapabilities request => Sys2Proof.Machine.execGetCapabilities request s
  | .negotiateAlgorithms request => Sys2Proof.Machine.execNegotiateAlgorithms request s
  | .getDigests request => Sys2Proof.Machine.execGetDigests request s
  | .getCertificate request => Sys2Proof.Machine.execGetCertificate request s
  | .challenge request => Sys2Proof.Machine.execChallenge request s
  | .getMeasurements request => Sys2Proof.Machine.execGetMeasurements request s
  | .pldmFirmwareUpdate toB image => Sys2Proof.Machine.execPldmFirmwareUpdate toB image s
  | .pldmPlatformMonitoring request => Sys2Proof.Machine.execPldmPlatformMonitoring request s
  | .ovenWarm => Sys2Proof.Machine.execOvenWarm s
  | .pcieLinkUp rate width flit msix ptm => Sys2Proof.Machine.execPcieLinkUp rate width flit msix ptm s
  | .illegalOpcode t => Sys2Proof.Machine.execIllegalOpcode t s
  | .stepCommitEnd => Sys2Proof.Machine.execStepCommitEnd s
  | .snapshotDone ring index => Sys2Proof.Machine.execSnapshotDone ring index s
  | .snapshotLoadDone ring index => Sys2Proof.Machine.execSnapshotLoadDone ring index s
  | .routeLoadDone => Sys2Proof.Machine.execRouteLoadDone s
  | .safInputRefresh vin iin pin => Sys2Proof.Machine.execSafInputRefresh vin iin pin s
  | .mgmtAlertPulseEnd => Sys2Proof.Machine.execMgmtAlertPulseEnd s
  | .busBelow40v => Sys2Proof.Machine.execBusBelow40v s

end Sys2Proof.Machine
end

