-- ==== Sys2Proof/Machine/Step.lean ====
section
/-! DEFINITION. One step: the command at the front of the queue, or a tick on an empty queue. -/

namespace Sys2Proof.Machine

/-- Take the command at the front of the queue and carry it out; with an empty queue, a nanosecond of device
time passes (`State.tick`). DESIGN CHOICE: log entry 2. DESIGN CHOICE: log entry 3. -/
def step (s : State) : Host.Outcome State Fault Refusal :=
  match s.pending with
  | c :: rest => exec c { s with pending := rest }
  | [] => .next s.tick

/-- The command that a table word spells goes to the front of the queue; no row of the table gives bits. -/
def State.withFetchWord (s : State) (nbits w : Nat) : State :=
  match Sys2Proof.decodeTableWord nbits w with
  | some c => { s with pending := c :: s.pending }
  | none => s

end Sys2Proof.Machine
end

