-- ==== Sys2Proof/Safety.lean ====
section
/-! DEFINITION. The terms in which the statements speak: an instruction that issues, where a tile goes next, and what
counts as a sound state. -/

namespace Sys2Proof.Machine

/-! ### A tile that issues -/

/-- PC after the instruction at PC has issued: the start of the innermost loop that goes round, else PC + 1 (R190). -/
def Tile.nextPc (t : Tile) : Nat := ((countDown t t.loopsEnding).2).getD (t.pc + 1)

/-- The next PC lies inside the program (R189). -/
def Tile.goesOn (t : Tile) : Prop := (countDown t t.loopsEnding).2 = none → t.pc + 1 < t.progLen

/-- The tile once the instruction at PC has issued, before that instruction's own effect. -/
def Tile.past (t : Tile) : Tile :=
  { (countDown t t.loopsEnding).1 with
    pc := t.nextPc
    lockPending := false
    stall := .none }

/-- From the state in which the instruction at PC has been fetched: what its issue makes of tile `t`, with the effects outside the
tile, and the issue traced where the step traces the tile (R436). -/
def State.issuedWith (s : State) (t : Nat) (r : TileRes) : State := (s.takeTile t r).trace t (s.tile t).pc (s.tile t).opcode

/-- The same for an issue that touches the tile alone. -/
def State.issued (s : State) (t : Nat) (x : Tile) : State := s.issuedWith t (.ok x)

/-! ### Engines (R113, R174, R204) -/

/-- The instruction `i` at PC is judged as `p`, which an engine works on, and no hazard holds it back. -/
def State.mayWork (s : State) (t : Nat) (i : TInsn) (p : Plan) : Prop :=
  let x := (s.fetched t).tile t
  let q := (x.touchAll t (x.preReads i)).tile
  s.issues t i = true ∧ x.goesOn ∧ x.hazard (maskOf (x.preReads i)) 0 = false ∧ s.planOf t i q = .ok p ∧
    (p.rd ≠ 0 ∨ p.wr ≠ 0) ∧ q.hazard p.rd p.wr = false

/-- The state in which it has issued: what it read has met the check codes, it is in progress with the writes it will make, the
expander holds the tables it names, and the program goes on. -/
def State.works (s : State) (t : Nat) (i : TInsn) (p : Plan) : State :=
  let x := (s.fetched t).tile t
  let q := x.touchAll t (x.preReads i)
  let r := q.tile.touchAll t p.touch
  let o := p.run r.tile
  let u := Tile.useTables (s.tileCtx t).slotNs { r.tile with
    inflight := x.inflight ++ [⟨x.nextId, x.pc, o.work, p.rd, p.wr, o.writes, o.folds, o.flags⟩]
    nextId := x.nextId + 1 } o.tables
  (s.fetched t).issuedWith t ⟨u.tile.past, q.effs ++ (r.effs ++ (o.effs ++ u.effs))⟩

/-! ### Program faults (R208) -/

/-- A tile at its first program fault. -/
def Tile.faultedAs (t : Tile) (status pc detail : Nat) : Tile :=
  { t with
    state := .faulted
    stall := .none
    fault := ⟨status, false, pc, detail⟩ }

/-- Tile `t` raised its first program fault: the event names the tile and the PC, and the step can no longer commit
(R208, R470). -/
def State.faultsAt (s : State) (t : Nat) (r : TileRes) (status pc : Nat) : State :=
  ((s.takeTile t r).event 1 status (t % 2 ^ 14) pc).cause 1

/-- The state after an instruction refused at issue, which has read its parameters as `r` says: it has no effect, and no entry of
the trace (R113, R208, R436). -/
def State.refusingWith (s : State) (t : Nat) (r : TileRes) (status : Nat) : State :=
  s.faultsAt t ⟨{ r.tile.faultedAs status r.tile.pc 0 with stall := .refused }, r.effs⟩ status r.tile.pc

/-- The same for an instruction that reads nothing before it is judged. -/
def State.refusing (s : State) (t status : Nat) : State := s.refusingWith t (.ok (s.tile t)) status

/-- The state after an instruction that raises a program fault as its effect, which is traced. -/
def State.faulting (s : State) (t status detail : Nat) : State :=
  (s.faultsAt t (.ok ((s.tile t).faultedAs status (s.tile t).pc detail)) status (s.tile t).pc).trace t (s.tile t).pc
    (s.tile t).opcode

/-! ### Packets -/

/-- The first packet of a kind for this module that has arrived whole on a link, its end-to-end CRC correct (R371). -/
def State.hasPacket (s : State) (l kind : Nat) (a : Arrived) : Prop :=
  s.arrived l (fun p => p.kind == kind && p.dst == s.rank) = some a ∧ a.pkt.good = true

/-- The same for a control message, by the first byte that names it. -/
def State.hasCtrl (s : State) (l code : Nat) (a : Arrived) : Prop :=
  s.arrived l (fun p => p.isCtrl s.rank code) = some a ∧ a.pkt.good = true

/-! ### Frames -/

/-- Two tiles that differ at most in sequencer state: loops, PC, stall, lockstep and branch counts. -/
def Tile.sameData (t u : Tile) : Prop :=
  t = { u with
    pc := t.pc
    loops := t.loops
    stall := t.stall
    lockPending := t.lockPending
    btb := t.btb
    branches := t.branches
    misses := t.misses }

/-! ### Registers -/

/-- A register that a host write reaches as it stands in the field tables, rather than as an action or a window. -/
def plainRegister (off : Nat) : Prop :=
  off ≠ 0 ∧ off ≠ 0x58 ∧ off ≠ 0x900028 ∧ off ≠ 0x600028 ∧ ¬ (0x501000 ≤ off ∧ off < 0x501400 ∧ off % 32 = 0)

/-! ### Soundness -/

/-- Reservations in ascending order of place, none over another, no ID in two of them, and each of at least one unit (R159). -/
def kvApart (l : List KvRes) : Prop :=
  List.Pairwise (fun a b : KvRes => a.first + a.units ≤ b.first ∧ a.id ≠ b.id) l ∧ ∀ k ∈ l, 0 < k.units

/-- What every state that the module can be in meets: stacked memory in its one form, reservations apart. -/
def State.Sound (s : State) : Prop := s.stack.wf = true ∧ kvApart s.kv

end Sys2Proof.Machine
end

