-- ==== Sys2Proof/Certificates/Slice0/Obligations.lean ====
section
/-! DEFINITION. The statements for the provers, one definition each. A statement that gives the next state as an
equation gives the whole frame with it: every field that the right side does not name is as it was. -/

open Sys2Proof Sys2Proof.Machine

/-! ### The machine -/

/-- The front command of the queue is carried out on the state with the rest of the queue. The queue is the model's choice, log
entry 2. -/
def Obligations.StepRunsFrontCommand : Prop :=
  ∀ (s : State) (c : Instr) (rest : List Instr), s.pending = c :: rest →
    step s = exec c { s with pending := rest }

/-! ### The tile sequencer -/

/-- Every tile instruction with its fields in range reads back from its word, which has 64 bits; a word whose opcode the table
of opcodes does not list decodes as illegal, whatever its other bits hold; and the word that the encoder gives for what a word
decodes to has no bit that the word has not: it is the word with its reserved bits 0 (R5, R185, R187 to R203). -/
def Obligations.TileInstructionsReadBack : Prop :=
  (∀ i : TInsn, i.wf = true → i.encode < 2 ^ 64 ∧ TInsn.decode i.encode = i) ∧
  (∀ w, w < 2 ^ 64 → w / 2 ^ 56 ∉ tileOpcodes → TInsn.decode w = .illegal (w / 2 ^ 56)) ∧
  (∀ w, w < 2 ^ 64 → (TInsn.decode w).encode &&& w = (TInsn.decode w).encode)

/-- LI, ADDI, ALU and RDREG write one scalar register and go on; g0 reads as 0 and writes to it are ignored; WRREG clears
the flags of CMP_ASW whose bits are 1, and a write to any other register is ignored (R127, R173, R187 to R190). -/
def Obligations.ScalarRegisterWrites : Prop :=
  ∀ (s : State) (t : Nat),
    let s0 := s.fetched t
    let x := s0.tile t
    x.goesOn →
    (∀ f : LiF, s.issues t (.li f) = true →
      exec (.li t f) s = .next (s0.issued t (x.past.setReg f.gd (BitVec.ofInt 64 (signedOf 40 f.imm))))) ∧
    (∀ f : AddiF, s.issues t (.addi f) = true →
      exec (.addi t f) s =
        .next (s0.issued t (x.past.setReg f.gd (x.reg f.ga + BitVec.ofInt 64 (signedOf 32 f.imm))))) ∧
    (∀ f : AluF, s.issues t (.alu f) = true →
      let a := x.reg f.ga
      let b := x.reg f.gb
      ∀ p ∈ [(0, a + b), (1, a - b), (2, a * b), (3, a &&& b), (4, a ||| b), (5, a ^^^ b), (6, a <<< (b.toNat % 64)),
          (7, a >>> (b.toNat % 64)), (8, if a.toNat ≤ b.toNat then a else b), (9, if a.toNat ≤ b.toNat then b else a)],
        f.op = p.1 → exec (.alu t f) s = .next (s0.issued t (x.past.setReg f.gd p.2))) ∧
    (∀ f : RdregF, s.issues t (.rdreg f) = true →
      exec (.rdreg t f) s = .next (s0.issued t (x.past.setReg f.gd (BitVec.ofNat 64 (x.readReg t f.index))))) ∧
    (∀ f : WrregF, s.issues t (.wrreg f) = true →
      (f.index = 1 → ∃ y : Tile, exec (.wrreg t f) s = .next (s0.issued t y) ∧
        y = { x.past with asw := y.asw } ∧
        ∀ k, k < 16 → y.asw.getLsbD k =
          (x.asw.getLsbD k && !(decide (k < 5) && (x.reg f.ga).getLsbD k))) ∧
      (f.index ≠ 1 → exec (.wrreg t f) s = .next (s0.issued t x.past))) ∧
    (∀ (y : Tile) (n k : Nat) (v : Word), y.reg 0 = 0 ∧ y.setReg 0 v = y ∧
      (n ≠ 0 → (y.setReg n v).reg n = v) ∧ (n ≠ k → (y.setReg n v).reg k = y.reg k))

/-- NOP, FENCE, BR and JMP move the PC and nothing of the tile's data; a taken branch or a jump leaves active exactly the
loops whose body holds its target (R187, R189, R190). -/
def Obligations.BranchesMoveThePc : Prop :=
  ∀ (s : State) (t : Nat),
    let s0 := s.fetched t
    let x := s0.tile t
    let jumped := fun (target : Nat) (c : Instr) => ∃ y : Tile, exec c s = .next (s0.issued t y) ∧ y.pc = target ∧
      y.stall = .none ∧ y.sameData x ∧ ∀ lc, lc < 4 → ((y.loopCtr lc).active = true ↔
        (x.loopCtr lc).active = true ∧ (x.loopCtr lc).start ≤ target ∧ target ≤ (x.loopCtr lc).stop)
    (s.issues t .nop = true → x.goesOn → exec (.nop t) s = .next (s0.issued t x.past)) ∧
    (s.issues t .fence = true → x.goesOn → exec (.fence t) s =
      .next (s0.issued t (if x.inflight = [] then x.past else { x.past with stall := .fence }))) ∧
    (∀ target, s.issues t (.jmp target) = true → target < x.progLen → jumped target (.jmp t target)) ∧
    (∀ f : BrF, s.issues t (.br f) = true → f.target < x.progLen →
      let a := x.reg f.ga
      let b := x.reg f.gb
      ∀ p ∈ [(0, decide (a = b)), (1, decide (a ≠ b)), (2, decide (a.toNat < b.toNat)), (3, decide (b.toNat ≤ a.toNat)),
          (4, decide (a.toInt < b.toInt)), (5, decide (b.toInt ≤ a.toInt))], f.cond = p.1 →
        (p.2 = true → jumped f.target (.br t f)) ∧
        (p.2 = false → x.goesOn → ∃ y : Tile, exec (.br t f) s = .next (s0.issued t y) ∧ y.pc = x.nextPc ∧
          y.loops = x.past.loops ∧ y.stall = .none ∧ y.sameData x))

/-- LOOP starts its counter at the body's start, or skips the body on a count of 0; a loop at whose END the counter stays
above 0 goes round; LOOP_EXIT makes a loop whose counter has reached 0 inactive (R190). -/
def Obligations.HardwareLoops : Prop :=
  ∀ (s : State) (t : Nat),
    let s0 := s.fetched t
    let x := s0.tile t
    (∀ f : LoopF, s.issues t (.loop f) = true →
      (x.loopCtr f.lc).active = false → x.pc < f.stop → f.stop < x.progLen →
      (∀ k, k < 4 → (x.loopCtr k).active = true → (x.loopCtr k).start ≤ x.pc → x.pc ≤ (x.loopCtr k).stop →
        f.stop ≤ (x.loopCtr k).stop) →
      let n := if f.creg = 0 then f.imm else (x.reg f.creg).toNat % 2 ^ 32
      (n ≠ 0 → exec (.loop t f) s = .next (s0.issued t { x with
        loops := Tbl.put x.loops f.lc ⟨n, x.pc + 1, f.stop, true⟩
        pc := x.pc + 1
        lockPending := false
        stall := .none })) ∧
      (n = 0 → f.stop + 1 < x.progLen → exec (.loop t f) s = .next (s0.issued t { x with
        pc := f.stop + 1
        lockPending := false
        stall := .none }))) ∧
    (∀ lc, x.loopsEnding = [lc] → (x.loopCtr lc).count > 1 →
      x.nextPc = (x.loopCtr lc).start ∧ x.past.loopCtr lc = { x.loopCtr lc with count := (x.loopCtr lc).count - 1 }) ∧
    (∀ lc, x.loopsEnding = [lc] → (x.loopCtr lc).count ≤ 1 → x.nextPc = x.pc + 1 ∧ (x.past.loopCtr lc).count = 0) ∧
    (∀ lc, ((s.tile t).loopCtr lc).active = true → ((s.tile t).loopCtr lc).count = 0 → exec (.loopExit t lc) s =
      .next (s.setTile t { s.tile t with
        loops := Tbl.put (s.tile t).loops lc { (s.tile t).loopCtr lc with active := false } }))

/-- A program fault stops the tile at the faulting instruction, which has no effect; the first one is recorded with its PC
and posted, and the step can no longer commit: TRAP with its code, an opcode that is not listed, an ALU OP or BR COND code
that is not listed, a TARGET at or above LEN, and a LOOP that R190 refuses (R185, R188, R189, R190, R208). -/
def Obligations.ProgramFaults : Prop :=
  ∀ (s : State) (t : Nat),
    let s0 := s.fetched t
    let x := s0.tile t
    x.fault.status = 0 →
    (∀ code, s.issues t (.trap code) = true → exec (.trap t code) s = .next (s0.faulting t 0x2056 code)) ∧
    (∀ op, s.issues t (.illegal op) = true → exec (.illegalOpcode t) s = .next (s0.refusing t 0x2050)) ∧
    (∀ f : AluF, s.issues t (.alu f) = true → 10 ≤ f.op → exec (.alu t f) s = .next (s0.refusing t 0x2050)) ∧
    (∀ f : BrF, s.issues t (.br f) = true → 6 ≤ f.cond → exec (.br t f) s = .next (s0.refusing t 0x2050)) ∧
    (∀ f : BrF, s.issues t (.br f) = true → f.cond < 6 → x.progLen ≤ f.target →
      exec (.br t f) s = .next (s0.refusing t 0x2055)) ∧
    (∀ target, s.issues t (.jmp target) = true → x.progLen ≤ target →
      exec (.jmp t target) s = .next (s0.refusing t 0x2055)) ∧
    (∀ f : LoopF, s.issues t (.loop f) = true →
      ((x.loopCtr f.lc).active = true ∨ f.stop ≤ x.pc ∨ x.progLen ≤ f.stop ∨ ∃ k, k < 4 ∧ (x.loopCtr k).active = true ∧
        (x.loopCtr k).start ≤ x.pc ∧ x.pc ≤ (x.loopCtr k).stop ∧ (x.loopCtr k).stop < f.stop) →
      exec (.loop t f) s = .next (s0.refusing t 0x2054))

/-- WAIT on a counter that holds its count subtracts it and goes on, and on one that does not it waits; STWAIT goes on when no
transfer it names is incomplete, and else waits; each waiting sequencer goes on, its count subtracted, when its condition is met;
FENCE goes on in the same way; END stops issue, and once all its work has completed the tile parks, or starts the release that it
holds (R117, R181, R183, R187, R191, R193, R195). That PC stays at the END is the model's choice, log entry 63. -/
def Obligations.WaitsAndEnd : Prop :=
  ∀ (s : State) (t : Nat),
    let s0 := s.fetched t
    let x := s0.tile t
    let y := s.tile t
    (∀ f : WaitF, s.issues t (.wait f) = true → x.goesOn →
      (f.count = 0 → exec (.wait t f) s = .next (s0.issued t x.past)) ∧
      (f.count ≠ 0 → f.count ≤ (x.sem f.pair).ctr f.ctr → exec (.wait t f) s =
        .next (s0.issued t { x.past with sems := Tbl.put x.sems f.pair ((x.sem f.pair).sub f.ctr f.count) })) ∧
      ((x.sem f.pair).ctr f.ctr < f.count → exec (.wait t f) s =
        .next (s0.issued t { x.past with stall := .wait f.pair f.ctr f.count }))) ∧
    (∀ p c n, y.stall = .wait p c n → n ≤ (y.sem p).ctr c → s.tilesRun = true → exec (.waitSatisfied t) s =
      .next (s.setTile t { y with sems := Tbl.put y.sems p ((y.sem p).sub c n), stall := .none })) ∧
    (∀ f : StwaitF, s.issues t (.stwait f) = true → x.goesOn →
      (x.outstanding f.engine f.channel = 0 → exec (.stwait t f) s = .next (s0.issued t x.past)) ∧
      (x.outstanding f.engine f.channel ≠ 0 → exec (.stwait t f) s =
        .next (s0.issued t { x.past with stall := .stwait f.engine f.channel }))) ∧
    (∀ e c, y.stall = .stwait e c → y.outstanding e c = 0 →
      exec (.stwaitSatisfied t) s = .next (s.setTile t { y with stall := .none })) ∧
    (y.stall = .fence → y.inflight = [] →
      exec (.fenceSatisfied t) s = .next (s.setTile t { y with stall := .none })) ∧
    (s.issues t .fin = true →
      exec (.end_ t) s = .next (s0.issued t { x with stall := .ending, lockPending := false })) ∧
    (y.state = .running → y.stall = .ending → y.quiet = true → s.tilesRun = true → y.held = none →
      exec (.tileEndDone t) s = .next (s.setTile t { y with state := .parked, stall := .none })) ∧
    (∀ n, y.state = .running → y.stall = .ending → y.quiet = true → s.tilesRun = true → y.held = some n →
      y.progValid = true → exec (.tileEndDone t) s = .next (s.setTile t { y with
        state := .running
        stall := .none
        held := none
        stepNo := n
        g := [(1, BitVec.ofNat 64 n), (2, BitVec.ofNat 64 t)]
        loops := []
        pc := y.progEntry })) ∧
    (∀ n, y.state = .running → y.stall = .ending → y.quiet = true → s.tilesRun = true → y.held = some n →
      y.progValid = false →
      exec (.tileEndDone t) s = .next (s.setTile t { y with state := .parked, stall := .none, held := none }))


/-- SIG adds to a counter of the tile's own semaphore, or holds the signal behind earlier writers (SCOPE 0), or queues a
message to another tile; HCSEND queues its checked message; a full stream port holds the instruction back
(R117, R191, R192, R315, R316). -/
def Obligations.SignalsAndSends : Prop :=
  ∀ (s : State) (t : Nat),
    let s0 := s.fetched t
    let x := s0.tile t
    (∀ f : SigF, s.issues t (.sig f) = true → x.goesOn →
      (f.count = 0 → exec (.sig t f) s = .next (s0.issued t x.past)) ∧
      (f.count ≠ 0 → f.treg = 0 → (f.scope ≠ 0 ∨ x.writers = []) → (x.sem f.pair).ctr f.ctr + f.count ≤ 65535 →
        exec (.sig t f) s = .next (s0.issued t
          { x.past with
            sems := Tbl.put x.sems f.pair ((x.sem f.pair).add f.ctr f.count false)
            raised := Tbl.put x.raised (f.pair * 2 + f.ctr) (.tile t) })) ∧
      (f.count ≠ 0 → f.treg = 0 → f.scope = 0 → x.writers ≠ [] →
        exec (.sig t f) s = .next (s0.issued t
          { x.past with selfSigs := x.selfSigs ++ [⟨x.writers, x.pc, f.pair, f.ctr, f.count⟩] })) ∧
      (f.count ≠ 0 → f.treg ≠ 0 → bitsOf (x.reg f.treg).toNat 19 0 ≠ s.rank →
        s.hasRoute (bitsOf (x.reg f.treg).toNat 19 0) = true →
        (x.port.length < 4 → exec (.sig t f) s = .next (s0.issued t { x.past with
          port := x.port ++ [⟨⟨bitsOf (x.reg f.treg).toNat 19 0, .tile (bitsOf (x.reg f.treg).toNat 33 20),
            signalHeader f.pair f.ctr f.count, [], x.solo⟩, if f.scope = 0 then x.writers else [], false⟩] })) ∧
        (4 ≤ x.port.length → exec (.sig t f) s = .next (s0.setTile t { x with stall := .port })))) ∧
    (∀ (f : HcsendF) (a : Nat) (tgt : HcTarget), s.issues t (.hcsend f) = true → x.goesOn →
      x.hazard (maskOf (x.preReads (.hcsend f))) 0 = false → x.tileRef f.ref (16 * (f.len + 1)) = .ok a →
      hcJudge s.rank (s.regs.get Reg.HIF_MBOX_CTL_COUNT) s.hasRoute (x.reg f.areg).toNat
        (x.mem.read a 16) (16 * f.len) = .ok tgt →
      x.port.length < 4 →
      let r := x.touch t a (16 * (f.len + 1))
      exec (.hcsend t f) s = .next (s0.issuedWith t ⟨{ r.tile.past with
          port := x.port ++ [⟨⟨addrRank (x.reg f.areg).toNat, tgt, x.mem.read a 8, x.mem.read (a + 16) (16 * f.len),
            r.tile.mem.poisoned a (16 * (f.len + 1)) || x.solo⟩, [], false⟩] }, r.effs⟩))

/-- A queued message leaves its port for the die network, a channel's held signal leaves for its own module; a message
delivered in the order of its sender and target writes its payload and applies its signal; a message to a host mailbox is
written to the next of its 16 slots, IDENT last, and with IRQ set the vector follows (R311, R316 to R319, R344, R345). That the
slot is allotted when the message is written is the model's reading, log entry 40. -/
def Obligations.HandcartOnTheModule : Prop :=
  ∀ s : State,
    (∀ (t : Nat) (m : PortMsg) (rest : List PortMsg), (s.tile t).port = m :: rest →
      (s.tile t).idsBusy m.after = false → m.msg.rank = s.rank → (∀ b, m.msg.target ≠ .mbox b) →
      let e := s.onMesh (some t) (s.tilePlace t) m.msg
      s.net.meshRoom e.path = true →
      ∃ s', exec (.handcartLeave (.tile t)) s = .next s' ∧ s'.tile t = { s.tile t with port := rest } ∧
        s'.net = { s.net with mesh := s.net.mesh ++ [e] } ∧ s'.tiles = Tbl.put s.tiles t (s'.tile t) ∧
        s'.chans = s.chans ∧ s'.stack = s.stack ∧ s'.host = s.host) ∧
    (∀ (ch w : Nat) (tile : Option Nat) (rest : List (Nat × Option Nat)), (s.chan ch).outbox = (w, tile) :: rest →
      w % 2 ^ 20 = s.rank →
      let e := s.onMesh none (enginePlace (ch / 2048) (ch / 16 % 128)) (targetMsg w)
      s.net.meshRoom e.path = true → exec (.handcartLeave (.chan ch)) s =
        .next { s.setChan ch { s.chan ch with outbox := rest } with
          net := { s.net with mesh := s.net.mesh ++ [e] } }) ∧
    (∀ (n : Nat) (e : MeshMsg), s.deliverable n = some e → (∀ b, e.msg.target ≠ .mbox b) →
      exec (.handcartDeliver n) s =
        .next (((s.dropMesh n).writePayload e.msg e.msg.poison).applySignal e.msg e.raiser)) ∧
    (∀ (n b : Nat) (e : MeshMsg), s.deliverable n = some e → e.msg.target = .mbox b →
      e.msg.payload ≠ [] →
      let box := Tbl.get s.host.mboxes ⟨0, 0⟩ b
      let slot := s.regs.get Reg.HIF_MBOX_BASE_BASE * 4096 + 4096 * b + 256 * (box.sent % 16)
      let s1 : State := { s with
        out := .hostWrite (slot + 8) (leBytes 8 (e.ident + box.sent % 2 ^ 16 * 2 ^ 48)) false ::
          .hostWrite slot e.msg.header false :: .hostWrite (slot + 16) e.msg.payload false :: s.out
        host := { s.host with mboxes := Tbl.put s.host.mboxes b { box with sent := (box.sent + 1) % 2 ^ 16 } }
        net := { s.net with mesh := ldel s.net.mesh n } }
      (s.regs.flag Reg.HIF_MBOX_CTL_IRQ = false → exec (.mailboxWrite n) s = .next s1) ∧
      (s.regs.flag Reg.HIF_MBOX_CTL_IRQ = true → s.host.msixOn = true →
        bitOf (s.host.msixDword (4 * s.regs.get Reg.HIF_MBOX_CTL_VECTOR + 3)) 0 = false →
        exec (.mailboxWrite n) s = .next (s1.emit (.msix (s.regs.get Reg.HIF_MBOX_CTL_VECTOR)))) ∧
      (s.regs.flag Reg.HIF_MBOX_CTL_IRQ = true → s.host.msixOn = true →
        bitOf (s.host.msixDword (4 * s.regs.get Reg.HIF_MBOX_CTL_VECTOR + 3)) 0 = true →
        exec (.mailboxWrite n) s = .next { s1 with host := { s1.host with
          msixPending := NSet.add s.host.msixPending (s.regs.get Reg.HIF_MBOX_CTL_VECTOR) } }))

/-- A STREAM of a tile and a STREAM descriptor of a ring, of each of the four kinds, put the transfer they name into the
queue of its channel once it is judged acceptable; the tile goes on and STWAIT counts the transfer, the ring's descriptor
is taken (R195, R291, R293, R299). -/
def Obligations.StreamsAreAccepted : Prop :=
  ∀ (s : State) (row : Nat) (c : StreamFrom → Instr),
    (row, c) ∈ [(0, Instr.copy), (1, Instr.compress), (2, Instr.areaRead), (3, Instr.landed)] →
    (∀ (t : Nat) (f : StreamF) (v : HostView) (a : Nat) (td : Option Tensor) (s2 : State),
      let s0 := s.fetched t
      let x := s0.tile t
      let s1 := s0.takeTile t (x.touch t a 64)
      let d := StrDesc.parse (x.mem.read a 64) (x.reg f.sreg).toNat (x.reg f.dreg).toNat
      let ch := t / 4096 * 2048 + f.engine * 16 + f.channel
      s.issues t (.stream f) = true → x.hazard (maskOf (x.preReads (.stream f))) 0 = false → x.tileRef f.ref 64 = .ok a →
      kindRow d.kind = row → (s.chan ch).full = false →
      s1.judgeStream v (t / 4096) f.engine f.channel d = (.accepted, td, s2) →
      exec (c (.tile t f v)) s = .next (((s2.enqueue ch (.tile t (if f.sig then some (2 * f.pair + f.ctr, x.pc) else none))
        (.stream d) td (x.solo || (s1.tile t).mem.poisoned a 64)).streamIssued t f true).trace t x.pc x.opcode)) ∧
    (∀ (r j : Nat) (v : HostView) (q : Desc) (b : List Byte) (td : Option Tensor) (s2 : State),
      let u := q.n 8 1 % 8
      let e := q.n 9 1 % 128
      let k := q.n 10 1 % 16
      let ch := u * 2048 + e * 16 + k
      let d := StrDesc.parse b 0 0
      s.ready r j 1 = some q → s.host.stuck q.unit = false → q.eval = false → q.latched = some (St.ok, 0, b) →
      kindRow d.kind = row → (s.chan ch).full = false → s.judgeStream v u e k d = (.accepted, td, s2) →
      exec (c (.ring r j v)) s = .next ((s2.enqueue ch (.ring r j) (.stream d) td false).take r j)) ∧
    (∀ (ch : Nat) (by_ : Submitter) (job : Job) (td : Option Tensor) (taint : Bool),
      ((s.enqueue ch by_ job td taint).chan ch).queue.length = (s.chan ch).queue.length + 1 ∧
      ∀ k, k ≠ ch → (s.enqueue ch by_ job td taint).chan k = s.chan k)

/-- The head of a channel's queue becomes its work; with WAIT a slot starts when the pair's counter is at least 1, which is
subtracted; a transfer whose last write has left signals its tile or completes its descriptor; a slot whose accesses are
all answered signals its target; a fence completes once all writes before it are acknowledged; a transfer that met an error
response completes with it (R291, R303, R304, R306, R311). -/
def Obligations.StreamChannelsRun : Prop :=
  ∀ (s : State) (ch : Nat) (v : HostView) (x : Xfer) (d : StrDesc), x.job = .stream d →
    (∀ rest, (s.chan ch).busy = none → (s.chan ch).queue = x :: rest → s.channelFree ch = true →
      (d.kind = 1 → d.cmp % 4 = 1 → s.step.rebuilding.contains d.table = false) →
      let b := s.openXfer x
      let s1 := b.2.setChan ch { s.chan ch with queue := rest, busy := some b.1 }
      (d.kind ≠ 3 → d.wait = true → exec (.streamDescriptorStart ch v) s = .next s1) ∧
      (d.kind ≠ 3 → d.wait = false → (∀ k, k < d.slots → s.slotOpen x d k = true) → exec (.streamDescriptorStart ch v) s =
        .next ((List.range d.slots).foldl (fun s k => s.startSlot v ch k) s1))) ∧
    ((s.chan ch).busy = some x → d.kind ≠ 3 → d.wait = true → x.granted < d.slots → x.writeFailed = false →
      1 ≤ (s.chan ch).sem.ctr d.waitCtr → s.channelFree ch = true → s.slotOpen x d x.granted = true →
      exec (.chainSlotGrant ch v) s =
        .next ((s.setChan ch { s.chan ch with sem := (s.chan ch).sem.sub d.waitCtr 1 }).startSlot v ch x.granted)) ∧
    (∀ t, (s.chan ch).busy = some x → d.kind ≠ 3 → x.allMoved d = true → x.err = none → x.poison = false →
      x.by_ = .tile t none → exec (.streamComplete ch) s =
        .next ((s.setChan ch { s.chan ch with busy := none, lastStatus := 0 }).setTile t { s.tile t with
          streams := Tbl.put (s.tile t).streams (ch / 16 % 128 * 8 + ch % 16)
            (Tbl.get (s.tile t).streams 0 (ch / 16 % 128 * 8 + ch % 16) - 1) })) ∧
    (∀ r j, (s.chan ch).busy = some x → d.kind ≠ 3 → x.allMoved d = true → x.err = none →
      x.by_ = .ring r j → exec (.streamComplete ch) s =
        .next ((s.setChan ch { s.chan ch with
          busy := none
          lastStatus := if x.poison then St.poisonConsumed else St.ok }).complete r j
            (if x.poison then St.poisonConsumed else St.ok) x.flagWord (x.result d))) ∧
    (∀ (a : SlotAck) (w : Nat), (s.chan ch).acks.find? (fun a => a.target.isSome && a.waiting == 0) = some a →
      a.target = some w → a.err = false → ∃ s', exec (.slotSignal ch) s = .next s' ∧
        (s'.chan ch).outbox = (s.chan ch).outbox ++ [(w, a.tile)] ∧
        (s'.chan ch).acks = (s.chan ch).acks.map (fun b => if b = a then { b with target := none } else b) ∧
        s'.tiles = s.tiles ∧ s'.net = s.net) ∧
    (∀ ok r j, (s.chan ch).busy = some x → d.kind = 3 → (s.chan ch).landedAll = true → d.slotSig = false →
      x.by_ = .ring r j →
      let bad := (s.chan ch).fenceErr || (!(s.chan ch).hostLast.isEmpty && !ok)
      exec (.landedComplete ch ok) s = .next ((s.setChan ch { s.chan ch with
        busy := none
        lastStatus := if bad then St.strFenceErr else St.ok
        fenceErr := false
        hostLast := []
        acks := (s.chan ch).acks.filter fun a => a.target.isSome || a.onReads }).complete r j
          (if bad then St.strFenceErr else St.ok) 0 0)) ∧
    (∀ st off r j, (s.flush v ch).setChan ch (((s.flush v ch).chan ch).ackReads v) = s → (s.chan ch).busy = some x →
      x.err = some (st, off) → x.writeFailed = true →
      x.by_ = .ring r j → exec (.busError ch v) s = .next ((s.setChan ch { s.chan ch with
        busy := none
        lastStatus := st
        errors := if st = 0x2048 then (s.chan ch).errors else min 65535 ((s.chan ch).errors + 1) }).complete r j st
          x.flagWord off))

/-- A message from another module that is next in its sender's order is applied and acknowledged, one that is early is kept,
one that was applied before is acknowledged again; an acknowledgement frees the replay store's entry; a HOLD is kept with
its time and the message goes out again 50 µs later (R373). The bytes of HANDCART_ACK and HOLD are the model's choice, log
entry 29. -/
def Obligations.HandcartBetweenModules : Prop :=
  ∀ (s : State) (link : Nat) (a : Arrived),
    (s.hasPacket link PK.message a →
      let s0 := s.consume link a
      let p := a.pkt
      let want := Tbl.get s.net.recvOrder 0 p.src
      (∀ s1, p.tseq % 2 ^ 16 = want → s0.applyMessage link p = some s1 → s1.net.reorder = [] →
        exec (.message link) s = .next (({ s1 with net := { s1.net with
          recvOrder := Tbl.put s1.net.recvOrder p.src ((want + 1) % 2 ^ 16) } }).ackMessage p.src (p.tseq % 2 ^ 16))) ∧
      (p.tseq % 2 ^ 16 ≠ want → (p.tseq % 2 ^ 16 + 2 ^ 16 - want) % 2 ^ 16 < 2 ^ 15 → s.net.reorder.length < 1024 →
        exec (.message link) s = .next { s0 with net := { s0.net with
          reorder := s0.net.reorder ++ [⟨p.src, p.tseq % 2 ^ 16, p, none, none, none, link⟩] } }) ∧
      (p.tseq % 2 ^ 16 ≠ want → 2 ^ 15 ≤ (p.tseq % 2 ^ 16 + 2 ^ 16 - want) % 2 ^ 16 →
        exec (.message link) s = .next (s0.ackMessage p.src (p.tseq % 2 ^ 16)))) ∧
    (∀ o, s.hasCtrl link CT.hcAck a → a.pkt.data = leBytes 1 CT.hcAck ++ leBytes 3 1 ++ leBytes 4 o → o < 2 ^ 16 →
      (∀ e ∈ s.net.replay, e.rank = a.pkt.src → e.held = none) →
      ∃ s', exec (.handcartAck link) s = .next s' ∧
        (∀ e, e ∈ s'.net.replay ↔ e ∈ s.net.replay ∧ ¬ (e.rank = a.pkt.src ∧ e.order = o)) ∧
        s'.tiles = s.tiles ∧ s'.chans = s.chans) ∧
    (∀ o, s.hasCtrl link CT.hold a → leNat ((a.pkt.data.drop 4).take 4) = o →
      (∃ e ∈ s.net.replay, e.rank = a.pkt.src ∧ e.order = (o + 2 ^ 16 - 1) % 2 ^ 16) →
      ∃ s', exec (.hold link) s = .next s' ∧ (∀ e ∈ s'.net.replay, e.rank = a.pkt.src → e.order = o → e.held = some s.now) ∧
        s'.net.replay.length = s.net.replay.length ∧ s'.tiles = s.tiles ∧ s'.out = s.out) ∧
    (∀ (rank order since : Nat) (e : HcStored),
      s.net.replay.find? (fun e => e.rank == rank && e.order == order) = some e → e.held = some since →
      since + 50000 ≤ s.now → exec (.holdResendTimeout rank order) s =
        .next (({ s with net := { s.net with
          replay := s.net.replay.map fun x => if x = e then { e with held := none } else x } }).sendPacket VC.handcart e.pkt))

/-- VOP, VRED, CVT, MERGE, MMA and both attention passes, judged acceptable and held back by no hazard, read the check codes
of their operands and enter progress with the writes they will make; the program goes on. HAZARD_CLEAR issues an instruction
that a hazard held back (R107, R113, R174, R204). -/
def Obligations.EnginesTakeInstructions : Prop :=
  ∀ (s : State) (t : Nat) (i : TInsn) (c : Instr),
    ((∃ f, i = .vop f ∧ c = .vop t f) ∨ (∃ f, i = .vred f ∧ c = .vred t f) ∨ (∃ f, i = .cvt f ∧ c = .cvt t f) ∨
      (∃ f, i = .merge f ∧ c = .merge t f) ∨ (∃ f, i = .mma f ∧ c = .mma t f) ∨
      (∃ f : AttF, i = .att f ∧ f.bwd = false ∧ c = .attForward t f) ∨
      (∃ f : AttF, i = .att f ∧ f.bwd = true ∧ c = .attBackward t f)) →
    (∀ p : Plan, s.mayWork t i p → exec c s = .next (s.works t i p)) ∧
    (∀ e, let x := (s.fetched t).tile t
      let q := x.touchAll t (x.preReads i)
      s.issues t i = true → x.fault.status = 0 → x.hazard (maskOf (x.preReads i)) 0 = false → s.planOf t i q.tile = .error e →
      exec c s = .next ((s.fetched t).refusingWith t q e)) ∧
    (∀ p : Plan, let s1 := s.setTile t { s.tile t with stall := .none }
      (s.tile t).stall = .hazard → s1.mayWork t i p → exec (.hazardClear t) s = .next (s1.works t i p))

/-- An instruction of the vector engine, or an attention pass whose products have all been accepted, completes: it leaves
progress, its flags reach CMP_ASW, and no byte of tile memory or of the register files changes outside what it writes (R80, R98,
R174). -/
def Obligations.EnginesComplete : Prop :=
  ∀ (s : State) (t : Nat) (att : Bool) (f : Inflight),
    let x := s.tile t
    let out : List Write × Flags := match f.work with
      | .att r => ((r.finish x.mem x.retired).1, f.flags ||| (r.finish x.mem x.retired).2.2)
      | _ => (f.writes, f.flags)
    x.firstOf (if att then .attention else .vector) = some f → (∀ r, f.work = .att r → r.todo = []) → x.selfSigs = [] →
    ∃ r : TileRes, exec (.instructionComplete t att) s = .next (s.takeTile t r) ∧
      r.tile.inflight = x.inflight.filter (fun g => g.id != f.id) ∧ r.tile.asw = x.asw ||| out.2 ∧
      (∀ a, (∀ w ∈ out.1, w.file = false → a < w.addr ∨ w.addr + w.data.length ≤ a) →
        r.tile.mem.byte a = x.mem.byte a) ∧
      (∀ a, (∀ w ∈ out.1, w.file = true → a < w.addr ∨ w.addr + w.data.length ≤ a) →
        r.tile.files.byte a = x.files.byte a) ∧
      r.tile.g = x.g ∧ r.tile.pc = x.pc ∧ r.tile.sems = x.sems ∧ r.tile.state = x.state ∧ r.tile.stall = x.stall

/-- The segments of a matrix instruction and the products of an attention pass: one that passes its check is accepted; one that
fails is run again from the same operands; a retry that passes is accepted with ST_CHECKSUM_RETRY; one that gives the same digest
within the widest tolerance is accepted with ST_CHECKSUM_TOL, F at 256; any other is accepted under poison and retires the tile.
After the last spill a matrix instruction completes (R97, R98, R100, R102). -/
def Obligations.MatrixSegments : Prop :=
  ∀ (s : State) (t : Nat) (f : Inflight),
    let x := s.tile t
    (∀ (corrupt : List (Nat × Nat)) (g : Seg), x.inflight.find? (fun f => f.work.segment.isSome) = some f →
      f.work.segment = some g →
      let sums := g.sums s.seed x.stepNo corrupt
      let words := sums.map Prod.fst
      let v := g.verdict x.factor words
      let noted := x.noteVerdict v
      let judged := fun (y : Tile) (bad : Bool) (effs : List Eff) =>
        exec (.segmentRetryDone t corrupt) s =
          .next (s.takeTile t ⟨(y.accept t f sums bad).tile, effs ++ (y.accept t f sums bad).effs⟩)
      (f.work.failed = none → v.pass = true →
        exec (.segmentVerify t corrupt) s = .next (s.takeTile t (noted.accept t f sums false))) ∧
      (f.work.failed = none → v.pass = false →
        exec (.segmentVerify t corrupt) s = .next (s.setTile t (({ noted with
          chkRetries := min 65535 (x.chkRetries + 1) }).putInflight { f with work := f.work.retrying (g.digest words) }))) ∧
      (∀ d, f.work.failed = some d → v.pass = true → judged noted false [tileEv t 0x1030 0]) ∧
      (∀ d, f.work.failed = some d → v.pass = false → d = g.digest words → v.worst = true →
        judged { noted with
          factor := 256
          tolMisses := min 65535 (x.tolMisses + 1) } false [tileEv t St.checksumTol 0]) ∧
      (∀ d, f.work.failed = some d → v.pass = false → (d ≠ g.digest words ∨ v.worst = false) →
        judged { noted with retired := true } true [tileEv t 0x6030 0, .retire t])) ∧
    (∀ r : MmaRun, x.firstOf .matrix = some f → f.work = .mma r → r.segs ≤ r.seg →
      let y : TileRes := if r.n = 0 ∨ r.more = true then .ok x else x.touchAll t r.wideRows
      let out := ({ r with tainted := r.tainted || y.tile.retired }).final y.tile.mem
      let z := y.tile.complete t f out.1 out.2.1 (f.flags ||| out.2.2)
      exec (.mmaComplete t) s = .next (s.takeTile t ⟨z.tile, y.effs ++ z.effs⟩))

/-- A tile's TREE contributes its elements, or the identity of an empty input, to the lowest node above it; a node that holds an
input of each child combines them in child order and passes the result up, or writes it at the top of the participant set (R120 to
R122, R197). That an empty input is the operation's identity, and which tiles take the nodes' flags, is the model's choice, log
entry 18. -/
def Obligations.ResultTree : Prop :=
  ∀ s : State,
    (∀ (t : Nat) (f : TreeF) (a : Nat),
      let s0 := s.fetched t
      let x := s0.tile t
      let len := x.regNat f.lreg
      let n := len * treeInBytes f.op
      let rd := if len = 0 then 0 else zoneMask a n
      let s1 := s0.takeTile t (if len = 0 then .ok x else x.touch t a n)
      let y := s1.tile t
      s.issues t (.tree f) = true → y.goesOn → s0.treeJudge x f = .ok a → x.hazard rd 0 = false →
      exec (.tree t f) s = .next (((s1.setTile t { y.past with
          inflight := y.inflight ++ [⟨y.nextId, y.pc, .tree f.channel, rd, 0, [], [], 0⟩]
          nextId := y.nextId + 1 }).toNode f.channel 1 {
            child := 0, op := f.op, fmt := if f.op = 0 then f.dstfmt else 0, len := len
            dst := x.regNat f.areg, top := f.level
            vals := treeVals y f.op len a, flags := 0, tiles := [(t, y.pc)] }).trace t x.pc x.opcode)) ∧
    (∀ (channel level node : Nat) (a b c d : TreeIn),
      Tbl.get s.tree [] (treeKey channel level node) = [a, b, c, d] →
      a.child = 0 → b.child = 1 → c.child = 2 → d.child = 3 → b.agrees a = true → c.agrees a = true → d.agrees a = true →
      (∀ i ∈ [b, c, d], a.lowest < i.lowest) →
      let up : TreeIn := { a with
        vals := (treeFold a.op [a, b, c, d]).1
        flags := (treeFold a.op [a, b, c, d]).2.toNat
        tiles := a.tiles ++ b.tiles ++ c.tiles ++ d.tiles }
      let s1 := { s with tree := Tbl.del s.tree (treeKey channel level node) }
      (a.top ≤ level → s.localOpen up.dst (treeResult up).1.length = true →
        exec (.treeNodeCombine channel level node) s = .next (s1.treeWrite channel up)) ∧
      (level < a.top → exec (.treeNodeCombine channel level node) s = .next (s1.toNode channel (level + 1) up)))

/-- The first lockstep mismatch reloads both copies and counts; the second retires the tile. The scrub reads one word and moves
on, a pass that has not read every word in 10 ms counts in SCRUB_LATE once and goes on, the next one starts when its time comes,
and a liveness count that has not moved for 10 samples retires the tile (R115, R175, R467). That a late pass goes on from where
it stands is the model's reading, log entry 61; that one sample covers a die, log entry 20. -/
def Obligations.TileWatches : Prop :=
  ∀ (s : State) (t : Nat),
    let x := s.tile t
    (x.free = true → x.solo = false → x.lockPending = false →
      exec (.lockstepMismatch t) s = .next ((s.setTile t { x with
        lockPending := true
        lockRetries := min 65535 (x.lockRetries + 1) }).event 1 St.lockstepRetry (t % 2 ^ 14) x.pc)) ∧
    (x.free = true → x.solo = false → x.lockPending = true →
      exec (.lockstepMismatch t) s = .next (((s.setTile t { x with
        solo := true
        lockPending := false
        retired := true }).event 1 St.lockstepFail (t % 2 ^ 14) 0).retireTile t)) ∧
    (∀ upsets, let r := ((x.upset upsets).countOverrun s.fab.scrubFrom s.now).touch t (16 * x.scrubPos) 16
      x.scrubPos < 32768 → exec (.tmemScrub t upsets) s =
        .next (s.takeTile t ⟨{ r.tile with scrubPos := x.scrubPos + 1 }, r.effs⟩)) ∧
    (max x.scrubAt s.fab.scrubFrom + 10000000 ≤ s.now →
      (32768 ≤ x.scrubPos → exec (.tmemScrubPassEnd t false) s = .next (s.setTile t { x with
        scrubPos := 0
        scrubAt := s.now
        scrubOver := false })) ∧
      (x.scrubPos < 32768 → x.scrubOver = false → exec (.tmemScrubPassEnd t true) s = .next (s.setTile t { x with
        scrubOver := true
        scrubLate := min 255 (x.scrubLate + 1) }))) ∧
    (x.scrubOver = true → exec (.tmemScrubPassEnd t true) s = .next (s.setTile t x)) ∧
    (x.liveDead = false → exec (.livenessAdvance t) s = .next (s.setTile t { x with live := x.live + 1 })) ∧
    (∀ die, (∀ n, n / 4096 = die % 4 → (s.tile n).live ≠ (s.tile n).liveSeen ∨ (s.tile n).liveMs ≠ 9) →
      ∃ s', exec (.watchdogSample die) s = .next s' ∧ s'.host = s.host ∧ s'.fab = s.fab ∧
        (∀ n, n / 4096 ≠ die % 4 → s'.tile n = s.tile n) ∧
        (∀ n, n / 4096 = die % 4 → (s.tile n).live ≠ (s.tile n).liveSeen →
          s'.tile n = { s.tile n with liveSeen := (s.tile n).live, liveMs := 0, liveDead := false }) ∧
        (∀ n, n / 4096 = die % 4 → (s.tile n).live = (s.tile n).liveSeen →
          s'.tile n = { s.tile n with liveMs := min 10 ((s.tile n).liveMs + 1) })) ∧
    (x.live = x.liveSeen → x.liveMs = 9 → (x.watch t).tile.retired = true ∧
      (x.watch t).effs = [.ev ⟨St.tileWatchdog, 0, 1, t, t⟩, .notClean t St.tileWatchdog, .retire t])

/-! ### Limits, power and resets -/

/-- A limit begins the safe state: its event is posted, SAF_SAFE_STATUS shows it and the alert goes low. Overcurrent opens the
breaker; a rail out of its window for 10 µs, a die at 115 °C and the loss of coolant do the same each with its own code
(R465, R466, R474, R531). That a reading is the mean of the last four, and that the event and the latch come at detection, is the
model's reading, log entry 48; the moment at which the safe state begins, log entry 4. -/
def Obligations.LimitsTrip : Prop :=
  ∀ s : State, s.fab.powered = true →
    (∀ status cause loc detail b, cause < 8 → s.fab.trip = none → s.host.events.length < 1024 →
      let s' := s.trip status cause b loc detail
      s'.fab.trip = some (cause, b) ∧ s'.regs.flag Reg.SAF_SAFE_STATUS_ACTIVE = true ∧
      s'.regs.get Reg.SAF_SAFE_STATUS_CAUSE = cause ∧ s'.out.head? = some (.alert true) ∧
      (∃ e, s'.host.events = s.host.events ++ [e] ∧ e.ev.status = status) ∧ s'.tiles = s.tiles ∧ s'.stack = s.stack) ∧
    (∀ mA ns, s.fab.breakerOpen = false → (150000 < mA ∨ (95000 < mA ∧ 5000 ≤ ns)) →
      exec (.inputOvercurrent mA ns) s =
        .next ((({ s with fab := { s.fab with breakerOpen := true } }).emit (.breaker true)).trip 0x60D2 1 true 0 mA)) ∧
    (∀ (rail : RailKind) (mV set ns : Nat), (s.liveCause = 2 → rail = .bus → 62000 ≤ mV) → 10000 ≤ ns →
      (match rail with
        | .regional => mV < 500 ∨ 900 < mV
        | .bus => mV < 48000 ∨ 62000 ≤ mV
        | .other => 20 * mV < 19 * set ∨ 21 * set < 20 * mV) →
      exec (.railWindow rail mV set ns) s =
        .next (s.trip 0x60D3 2 (match rail with
          | .bus => decide (62000 ≤ mV)
          | _ => true) 0 mV)) ∧
    (∀ temps : List Nat, temps.length = 6 → s.liveCause = 0 → s.fab.trip = none →
      let readings := fun (k : Nat) => ((temps[k]?).getD 0 :: Tbl.get s.fab.dieTemps [] k).take 4
      ∃ s', exec (.dieTempSample temps) s = .next s' ∧
        (∀ k f, dieTempFields[k]? = some f → s'.regs.get f = min 255 (filtered (readings k))) ∧
        (∀ k, k < 6 → Tbl.get s'.fab.dieTemps [] k = (readings k).take 3) ∧
        ((∃ k, k < 6 ∧ 115 ≤ filtered (readings k)) → s'.fab.trip = some (3, false)) ∧
        ((∀ k, k < 6 → filtered (readings k) < 115) → s'.fab.trip = none) ∧
        s'.tiles = s.tiles ∧ s'.stack = s.stack) ∧
    (∀ (before after : List Nat) (power lowest highest : Nat), s.liveCause ≠ 5 →
      (∀ d, d < 4 → (before[d]?).getD 0 + 5 < (after[d]?).getD 0) → 19 * power ≤ 20 * lowest → 20 * highest ≤ 21 * power →
      exec (.coolantCheck before after power lowest highest) s = .next (s.trip 0x60D5 5 false 0 0)) ∧
    (∀ (before after : List Nat) (power lowest highest : Nat), s.liveCause ≠ 5 →
      ((∃ d, d < 4 ∧ (after[d]?).getD 0 ≤ (before[d]?).getD 0 + 5) ∨ 20 * lowest < 19 * power ∨ 21 * power < 20 * highest) →
      exec (.coolantCheck before after power lowest highest) s = .next s)

/-- The limiter acts above 94 A and counts the milliseconds of device time in which it acts; held for 10 ms it is an input
overcurrent; a demand back at 94 A releases it (R530). -/
def Obligations.CurrentLimiter : Prop :=
  ∀ s : State,
    (∀ mA, s.fab.powered = true → s.fab.limiter = false → 94000 < mA → s.fab.limitMs ≤ s.now / 10 ^ 6 →
      exec (.limiterAct mA) s = .next (({ s with fab := { s.fab with
        limiter := true
        limitSince := s.now
        limitMs := s.now / 10 ^ 6 + 1 } }).addReg Reg.SAF_INPUT_PEAK_LIMIT_MS 1)) ∧
    (s.fab.limiter = true → s.fab.limitSince + 10000000 ≤ s.now → s.fab.breakerOpen = false →
      ∃ s1, s1 = s.countLimit ∧ exec .limiterSustained s =
        .next ((({ s1 with fab := { s1.fab with
          limiter := false
          breakerOpen := true } }).emit (.breaker true)).trip 0x60D2 1 true 0 94000)) ∧
    (∀ mA, s.fab.limiter = true → mA ≤ 94000 →
      exec (.limiterRelease mA) s =
        .next { s.countLimit with fab := { s.countLimit.fab with limiter := false } }) ∧
    (∀ since now, since < now → s.fab.limitSince = since → s.time.ns = now → s.fab.limitMs ≤ since / 10 ^ 6 →
      s.countLimit.fab.limitMs = (now - 1) / 10 ^ 6 + 1 ∧
      s.countLimit.regs = s.regs.add Reg.SAF_INPUT_PEAK_LIMIT_MS ((now - 1) / 10 ^ 6 + 1 - since / 10 ^ 6))

/-- What each kind leaves: H, L, W and B clear the work of the compute dies; H, L and W also the descriptors, the channels, the
key/value entries and the gate; H and W the links; none of them, nor B, clears stacked memory outside the object table: B writes
there only what the abort of the running step writes. The safe-state sequence parks the links, completes reset kind S and counts
the trip; the breaker opens where the cause asks for it; stacked memory keeps its contents only while the rails hold (R9, R474,
R476, R523, R552). That lost contents read as zeros is the model's choice, log entry 8. -/
def Obligations.ResetsAndSafeState : Prop :=
  (∀ (s : State) (cause : Nat) (breaker railsHold pd0 : Bool), s.fab.trip = some (cause, breaker) →
    ∃ s', exec (.safeState railsHold pd0) s = .next s' ∧ s'.fab.trip = none ∧ s'.host.descs = [] ∧ s'.net.links = [] ∧
      s'.regs.get Reg.BOOT_RESET_STATUS_LAST = 6 ∧ s'.regs.flag Reg.HIF_DEV_CTL_ENABLE = false ∧
      (railsHold = true → s'.stack = s.stack) ∧ (railsHold = false → s'.stack = Mem.empty) ∧
      (breaker = true → s'.fab.powered = false ∧ s'.fab.breakerOpen = true) ∧
      (breaker = false → s'.fab.powered = s.fab.powered ∧ s'.fab.breakerOpen = s.fab.breakerOpen) ∧
      s'.boot.trips = s.boot.trips + 1) ∧
  ∀ s : State, s.fab.powered = true → s.host.perst = false →
    (∀ c k code, (c, k, code) ∈ [(Instr.hotReset, Kind.H, 2), (.functionLevelReset, .L, 3), (.warmReset, .W, 4)] →
      ∃ s', exec c s = .next s' ∧ s'.tiles = [] ∧ s'.tree = [] ∧ s'.kv = [] ∧ s'.chans = [] ∧ s'.host.descs = [] ∧
        s'.host.rings = [] ∧ s'.step = StepSt.reset ∧ s'.gate = GateSt.reset ∧ s'.time.ns = s.time.ns ∧
        s'.regs.get Reg.BOOT_RESET_STATUS_LAST = code ∧ s'.regs.flag Reg.HIF_DEV_CTL_ENABLE = false ∧
        (k ≠ .L → s'.net.links = []) ∧ (k ≠ .W → s'.net.active = [] ∧ s'.net.standby = []) ∧
        ∀ a, (∀ c, s.objAddr 0 ≤ c → c < s.objAddr 0 + 32 * s.regs.get Reg.MEM_OBJ_COUNT_COUNT →
          s.regs.placed c / 64 ≠ a / 64) → s'.stack.byte a = s.stack.byte a) ∧
    (∃ s', exec .fabricReset s = .next s' ∧ s'.tiles = [] ∧ s'.tree = [] ∧ s'.step = StepSt.reset ∧ s'.kv = s.kv ∧
      s'.boot = s.boot ∧ s'.regs.get Reg.BOOT_RESET_STATUS_LAST = 5 ∧
      (∀ ch ∈ s'.chans, 4 ≤ ch.1 / 2048) ∧ s'.host.rings = s.host.rings ∧
      let s1 := if s.step.run.isSome then s.abortRecords else s
      ∀ a, (∀ c, s.objAddr 0 ≤ c → c < s.objAddr 0 + 32 * s.regs.get Reg.MEM_OBJ_COUNT_COUNT →
        s.regs.placed c / 64 ≠ a / 64) → s'.stack.byte a = s1.stack.byte a)

/-- P boots from nothing but flash, F runs the boot sequence when PERST# is released, and while PERST# is asserted the stacks
are in self-refresh; a slot that fits NEXT_SLOT or the sequence numbers is selected (R507, R510, R511, R523). -/
def Obligations.PowerOnAndPerst : Prop :=
  ∀ (s : State) (slot : Nat) (failA failB early : Bool),
    let a := s.boot.flashA.image
    let b := s.boot.flashB.image
    let sel := selectSlot (s.regs.get Reg.BOOT_RESET_CTL_NEXT_SLOT) (imageReason failA s.counter a)
      (imageReason failB s.counter b) (imgSeq a) (imgSeq b)
    let booted := fun (s' : State) => s'.tiles = [] ∧ s'.kv = [] ∧ s'.chans = [] ∧ s'.host.descs = [] ∧
      s'.step = StepSt.reset ∧ s'.boot.flashA = s.boot.flashA ∧ s'.boot.flashB = s.boot.flashB ∧
      s'.fab.slotId = slot % 8 ∧ s'.boot.image = (match sel with
        | some 0 => a
        | some _ => b
        | none => [])
    (∀ puf, s.fab.hotSwap = true → s.fab.breakerOpen = false → s.boot.write = none →
      ∃ s', exec (.powerOn puf slot failA failB early) s = .next s' ∧ booted s' ∧ s'.fab.powered = true ∧
        s'.host.perst = false ∧ s'.boot.puf = puf ∧ s'.fab.trip = none) ∧
    (s.host.perst = true → s.boot.write = none →
      ∃ s', exec (.perstDeassert slot failA failB early) s = .next s' ∧ booted s' ∧ s'.host.perst = false ∧
        s'.boot.puf = s.boot.puf ∧ s'.fab.powered = s.fab.powered) ∧
    (s.fab.powered = true → exec .perstAssert s = .next { s with
      host := { s.host with perst := true }
      mem := { s.mem with selfRefresh := true } })

/-- Insertion and removal, the refresh of SAF_INPUT with its peaks, the ripple measurement and the alert's pulse
(R476, R532 to R534, R543). -/
def Obligations.InputStage : Prop :=
  ∀ s : State,
    exec .presentMate s = .next { s with fab := { s.fab with
      present := true
      hotSwap := true } } ∧
    (∃ s', exec .presentPart s = .next s' ∧ s'.fab.present = false ∧ s'.fab.hotSwap = false ∧ s'.fab.powered = false ∧
      s'.stack = Mem.empty ∧ s'.tiles = s.tiles) ∧
    (∃ s', exec .busBelow40v s = .next s' ∧ s'.fab.powered = false ∧ s'.fab.breakerOpen = false ∧ s'.stack = Mem.empty ∧
      s'.fab.present = s.fab.present) ∧
    (∀ vin iin pin, s.fab.powered = true → vin < 2 ^ 16 → iin < 2 ^ 16 → pin < 2 ^ 16 → s.liveCause ≠ 2 →
      ∃ s', exec (.safInputRefresh vin iin pin) s = .next s' ∧ s' = { s with regs := s'.regs } ∧
        s'.regs.get Reg.SAF_INPUT_VIN = vin ∧ s'.regs.get Reg.SAF_INPUT_IIN = iin ∧ s'.regs.get Reg.SAF_INPUT_PIN = pin ∧
        s'.regs.get Reg.SAF_INPUT_PEAK_PIN_PEAK = max (s.regs.get Reg.SAF_INPUT_PEAK_PIN_PEAK) pin ∧
        s'.regs.get Reg.SAF_INPUT_PEAK_VIN_MIN = min (s.regs.get Reg.SAF_INPUT_PEAK_VIN_MIN) vin ∧
        s'.regs.get Reg.SAF_INPUT_RIPPLE = s.regs.get Reg.SAF_INPUT_RIPPLE ∧
        s'.regs.get Reg.SAF_INPUT_PEAK_LIMIT_MS = s.regs.get Reg.SAF_INPUT_PEAK_LIMIT_MS) ∧
    (∀ mV, s.fab.powered = true →
      let s1 := s.setReg Reg.SAF_INPUT_RIPPLE (min 65535 mV)
      ((1000 < mV ∧ ∀ t, s.fab.ripplePost = some t → t + 60000000000 ≤ s.now) → exec (.rippleMeasure mV) s =
        .next (({ s1 with fab := { s1.fab with ripplePost := some s.now } }).event 6 0x10F0 0 mV)) ∧
      ((mV ≤ 1000 ∨ ∃ t, s.fab.ripplePost = some t ∧ s.now < t + 60000000000) →
        exec (.rippleMeasure mV) s = .next s1)) ∧
    (s.fab.alertPulse = true → s.now < s.fab.alertSince + 10000000 → exec .mgmtAlertPulseEnd s = .next s) ∧
    (s.fab.alertPulse = true → s.fab.alertSince + 10000000 ≤ s.now → exec .mgmtAlertPulseEnd s =
      .next (({ s with fab := { s.fab with alertPulse := false } }).emit (.alert (s.regs.flag Reg.SAF_SAFE_STATUS_ACTIVE))))

/-- The governor trims each of a die's rails once a window, between 0.55 V and 0.86 V: up where the region is slow and the power
limit does not hold it, down where it is fast or the power is above the limit. A region that stays below the target at the
ceiling, or held, sets its bit, counts and posts once; a short region that holds the target for 1 ms loses its bit (R23, R25, R26,
R529). That a rail stays where the pace is within 0.5 % of the target is the model's choice, log entry 49. -/
def Obligations.PaceGovernor : Prop :=
  ∀ s : State,
    (∀ die paces, die < 4 → s.fab.powered = true → s.fab.parked = false → paces.length = 64 →
      ∃ s', exec (.paceWindow die paces) s = .next s' ∧ s'.tiles = s.tiles ∧ s'.stack = s.stack ∧
        let target := s.regs.get Reg.FAB_PACE_TARGET_TARGET
        let short := fun (region pace : Nat) => 200 * pace < 199 * target ∧
          (8600 ≤ s.rail (64 * die + region) ∨ s.held = true ∨ s.fab.overLimit = true)
        let bit := fun (x : State) (region : Nat) => bitOf (x.regs.getAt Reg.FAB_PACE_SHORT_SHORT die) region
        let new := ((List.range 64).zip paces).filter fun x => decide (short x.1 x.2) && !bit s x.1
        (∀ region pace, paces[region]? = some pace →
          s'.rail (64 * die + region) = trim pace target (s.rail (64 * die + region)) s.held s.fab.overLimit ∧
          (bit s' region = true ↔ bit s region = true ∨ short region pace)) ∧
        s'.regs.getAt Reg.FAB_PACE_STATUS_SHORT_EVENTS die =
          min 65535 (s.regs.getAt Reg.FAB_PACE_STATUS_SHORT_EVENTS die + new.length) ∧
        (s.host.events.length + 64 ≤ 1024 → s'.host.events.map (fun e => e.ev) = s.host.events.map (fun e => e.ev) ++
          new.map fun x => ⟨St.paceShort, 0, 0, 64 * die + x.1, x.2⟩) ∧
        (∀ k, k / 64 ≠ die → s'.rail k = s.rail k)) ∧
    (∀ pace target rail held above, 5500 ≤ rail → rail ≤ 8600 →
      let r := trim pace target rail held above
      5500 ≤ r ∧ r ≤ 8600 ∧ (held = true → r ≤ rail) ∧
      (above = true → r = max 5500 (rail - 25)) ∧
      (above = false → held = false → 200 * pace < 199 * target → r = min 8600 (rail + 25)) ∧
      (above = false → 201 * target < 200 * pace → r = max 5500 (rail - 25)) ∧
      (above = false → 199 * target ≤ 200 * pace → 200 * pace ≤ 201 * target → r = rail)) ∧
    (∀ die region since, die < 4 → region < 64 → bitOf (s.regs.getAt Reg.FAB_PACE_SHORT_SHORT die) region = true →
      Tbl.find s.fab.paceHeld (64 * die + region) = some since → since + 1000000 ≤ s.now →
      ∃ s', exec (.paceShortClear die region) s = .next s' ∧ s' = { s with
          regs := s'.regs
          fab := { s.fab with paceHeld := Tbl.del s.fab.paceHeld (64 * die + region) } } ∧
        ∀ k, k < 64 → bitOf (s'.regs.getAt Reg.FAB_PACE_SHORT_SHORT die) k =
          (bitOf (s.regs.getAt Reg.FAB_PACE_SHORT_SHORT die) k && k != region)) ∧
    (∀ margins, exec (.marginReport margins) s =
      .next { s with fab := { s.fab with margins := (List.range 256).zip margins } }) ∧
    (∀ watts, 2000 ≤ s.regs.get Reg.SAF_POWER_CTL_LIMIT → s.regs.get Reg.SAF_POWER_CTL_LIMIT ≤ 4300 →
      let limit := s.regs.get Reg.SAF_POWER_CTL_LIMIT
      exec (.powerLimitWindow watts) s = .next { s with
        regs := s.regs.setFlag Reg.SAF_POWER_CTL_HELD (decide (limit ≤ watts))
        fab := { s.fab with overLimit := decide (limit < watts) } })

/-- A repair starts at a step boundary: the column's FIRST_ROW changes, and no tile's content; when the copy has finished the
logical tile runs again; the health area is due from the repair's start (R16, R40). That FIRST_ROW changes when the repair begins
is the model's reading, log entry 49. -/
def Obligations.TileRepairs : Prop :=
  ∀ (s : State) (t : Nat) (r : Repair),
    (s.fab.repairs.find? (fun r => r.tile == t && !r.copying) = some r → s.stepState ≤ 1 →
      ∃ s', exec (.tileRepair t) s = .next s' ∧ s'.firstRow (t / 4096 * 64 + t % 64) = r.row ∧
        (∀ u, s'.tile u = { s.tile u with repairPending := (s'.tile u).repairPending }) ∧
        (s'.tile t).repairPending = false ∧
        (∀ k, k ≠ t / 4096 * 64 + t % 64 → s'.firstRow k = s.firstRow k) ∧ s'.repairHold t = true ∧
        s' = { s with
          tiles := s'.tiles
          fab := { s.fab with
            spareMap := s'.fab.spareMap
            repairs := s'.fab.repairs }
          boot := { s.boot with healthDirty := true } }) ∧
    (s.fab.repairs.find? (fun r => r.tile == t && r.copying) = some r →
      exec (.tileRepairDone t) s = .next (({ s with
        fab := { s.fab with repairs := s.fab.repairs.filter fun x => x.tile != t }
        boot := { s.boot with healthDirty := true } }).setTile t { s.tile t with
          retired := false
          solo := false
          lockPending := false }))

/-- Park is asked for by a write of HIF_DEV_CTL.PARK or by D3hot; it takes effect once the step machinery is IDLE and no
descriptor is in progress but those that await a step's release, with the links parked and the stacks in self-refresh; D3hot
clears the injection log at once; deep park loses their contents; a write of 0, or D0 without a pending park, brings the module
back (R521, R522). That descriptors in progress are waited for is the model's reading, log entry 50. -/
def Obligations.ParkAndD3 : Prop :=
  ∀ s : State,
    (s.fab.parked = false → exec .park s = .next (s.setReg Reg.HIF_DEV_CTL_PARK 1) ∧
      exec .deepPark s = .next (s.setReg Reg.HIF_DEV_CTL_PARK 2) ∧
      ∃ s', exec .d3hotEntry s = .next s' ∧ s'.host = { s.host with d3 := true } ∧ s'.net.injLog = [] ∧
        (∀ l, (s'.link l).injLeft = 0) ∧ s'.stack = s.stack ∧ s'.tiles = s.tiles ∧ s'.chans = s.chans ∧ s'.kv = s.kv) ∧
    (s.fab.parked = true → s.mem.off = false → ∃ s', exec .deepPark s = .next s' ∧ s'.stack = Mem.empty ∧ s'.mem.off = true ∧
      s'.kv = [] ∧ s'.fab.parked = true ∧ s'.tiles = s.tiles) ∧
    (s.fab.powered = true → s.fab.parked = false → s.parkDue = true → (∀ d ∈ s.host.descs, d.awaitsRelease = true) →
      s.regs.get Reg.HIF_DEV_CTL_PARK ≠ 2 → ∃ s', exec .parkEntry s = .next s' ∧ s'.fab.parked = true ∧
        s'.mem.selfRefresh = true ∧ s'.regs.flag Reg.HIF_DEV_STATUS_PARKED = true ∧ s'.stack = s.stack ∧
        s'.tiles = s.tiles ∧ s'.kv = s.kv ∧ s'.net.injLog = [] ∧
        ∀ l, l < 32 → s.linkLive l = true → s'.linkState l = 4) ∧
    (s.fab.powered = true → s.fab.parked = false → s.parkDue = true → (∀ d ∈ s.host.descs, d.awaitsRelease = true) →
      s.regs.get Reg.HIF_DEV_CTL_PARK = 2 → s.mem.off = false → ∃ s', exec .parkEntry s = .next s' ∧ s'.fab.parked = true ∧
        s'.stack = Mem.empty ∧ s'.mem.off = true ∧ s'.kv = [] ∧ s'.tiles = s.tiles) ∧
    (s.fab.parked = true → s.host.d3 = false → ∃ s', exec .parkExit s = .next s' ∧ s'.fab.parked = false ∧
      s'.mem.off = false ∧ s'.regs.flag Reg.HIF_DEV_STATUS_PARKED = false ∧ s'.regs.get Reg.HIF_DEV_CTL_PARK = 0 ∧
      s'.stack = s.stack ∧ s'.tiles = s.tiles) ∧
    (s.fab.parked = true → s.regs.get Reg.HIF_DEV_CTL_PARK = 0 → ∃ s', exec .d0Return s = .next s' ∧ s'.host.d3 = false ∧
      s'.fab.parked = false ∧ s'.stack = s.stack ∧ s'.tiles = s.tiles) ∧
    ((s.regs.get Reg.HIF_DEV_CTL_PARK = 1 ∨ s.regs.get Reg.HIF_DEV_CTL_PARK = 2) →
      exec .d0Return s = .next { s with host := { s.host with d3 := false } })

/-! ### Registers and enabling -/

/-- A host write to BAR0 obeys each field's access code: RW takes the written bits, RWL only while ENABLE is 0, W1C returns to
its reset value when a 1 is written to it, RO and RI keep their value; an access that is not 4 B or 8 B and naturally aligned
is an Unsupported Request with no effect; MAX_QUEUED, once cleared, holds at least the records queued then (R8, R327, R356). -/
def Obligations.RegisterWritesObeyAccessCodes : Prop :=
  ∀ s : State, s.reachable = true →
    (∀ f ∈ Reg.fields, ∀ i v, i < f.count → v < 2 ^ 64 → plainRegister (f.offset + f.stride * i) →
      ∃ s', exec (.registerWrite ⟨f.offset + f.stride * i, 8, v⟩) s = .next s' ∧ s' = { s with regs := s'.regs } ∧
        s'.regs.getAt f i = (match f.access with
          | .rw => bitsOf v f.hi f.lo
          | .rwl => if s.regs.flag Reg.HIF_DEV_CTL_ENABLE then s.regs.getAt f i else bitsOf v f.hi f.lo
          | .w1c => if bitsOf v f.hi f.lo = 0 then s.regs.getAt f i else f.reset
          | .ro => s.regs.getAt f i
          | .ri => s.regs.getAt f i)) ∧
    (∀ v, v < 2 ^ 64 → ∃ s', exec (.registerWrite ⟨0x58, 8, v⟩) s = .next s' ∧ s' = { s with regs := s'.regs } ∧
      s'.regs.get Reg.HIF_CPL_STATUS_MAX_QUEUED = max s.host.queue.length
        (if bitsOf v Reg.HIF_CPL_STATUS_MAX_QUEUED.hi Reg.HIF_CPL_STATUS_MAX_QUEUED.lo = 0 then
          s.regs.get Reg.HIF_CPL_STATUS_MAX_QUEUED else 0) % 2 ^ Reg.HIF_CPL_STATUS_MAX_QUEUED.width) ∧
    (∀ w : RegWrite, ¬ ((w.len = 4 ∨ w.len = 8) ∧ w.offset % w.len = 0 ∧ w.offset < 2 ^ 26) →
      exec (.registerWrite w) s = .next (s.emit (.unsupported w.offset)))

/-- CMP_TILE_DATA reads, whole or in halves, and writes the register that CMP_TILE_SEL selects; an 8 B read of TIM_NOW latches its
fraction; the link's rate and width show in HIF_DEV_STATUS (R124, R327, R355, R458). That a 4 B read leaves TIM_NOW_FRAC as it
was is the model's reading, log entry 24. -/
def Obligations.RegisterWindows : Prop :=
  ∀ s : State, s.reachable = true →
    let t := s.regs.get Reg.CMP_TILE_SEL_TILE
    let k := s.regs.get Reg.CMP_TILE_SEL_INDEX
    let data := (s.tile t).readReg t k
    (data < 2 ^ 64 → exec (.cmpTileDataRead 0x400908 8) s = .next (s.emit (.readData 0x400908 data)) ∧
      exec (.cmpTileDataRead 0x400908 4) s = .next (s.emit (.readData 0x400908 (data % 2 ^ 32))) ∧
      exec (.cmpTileDataRead 0x40090C 4) s = .next (s.emit (.readData 0x40090C (data / 2 ^ 32)))) ∧
    (∀ v, v < 2 ^ 64 → exec (.cmpTileDataWrite ⟨0x400908, 8, v⟩) s =
      .next (s.setTile t ((s.tile t).hostWriteReg (s.regs.flag Reg.HIF_DEV_CTL_ENABLE) k v))) ∧
    (∀ v, v < 2 ^ 64 → s.regs.flag Reg.HIF_DEV_CTL_ENABLE = false → 0x20 ≤ k → k ≤ 0x3F →
      let sem := (((s.tile t).hostWriteReg false k v).sem (k - 0x20))
      sem.full = v % 2 ^ 16 ∧ sem.empty = v / 2 ^ 16 % 2 ^ 16 ∧ (s.tile t).hostWriteReg true k v = s.tile t) ∧
    (s.now < 2 ^ 64 → exec (.timNowRead 0x600000 8) s =
      .next ((s.emit (.readData 0x600000 s.time.ns)).setReg Reg.TIM_NOW_FRAC_FRAC s.time.frac)) ∧
    (exec (.timNowRead 0x600000 4) s = .next (s.emit (.readData 0x600000 (s.time.ns % 2 ^ 32)))) ∧
    (∀ rate width flit msix ptm, rate ∈ [1, 2, 3] → width ∈ [8, 16] →
      ∃ s', exec (.pcieLinkUp rate width flit msix ptm) s = .next s' ∧ s'.regs.get Reg.HIF_DEV_STATUS_RATE = rate ∧
        s'.regs.get Reg.HIF_DEV_STATUS_WIDTH = width ∧
        s'.regs.flag Reg.HIF_DEV_STATUS_FLIT = (flit || decide (2 ≤ rate)) ∧
        s' = { s with
          regs := s'.regs
          host := { s.host with
            msixOn := msix
            ptmOn := ptm } })

/-- A write of 1 to ENABLE takes STATE to CHECKING and asks the neighbours for their routes; the check then refuses with the
first reason whose condition holds, at its lowest offset and index, or passes with every ring empty and the standby bank a
copy of the active one (R351, R352, R381). The bytes of the route probe are the model's choice, log entry 29, and so is that it
goes over the link itself, log entry 31. -/
def Obligations.EnableAndCheck : Prop :=
  ∀ s : State,
    (s.fab.powered = true → s.host.perst = false → s.regs.get Reg.BOOT_STATUS_STAGE = 3 →
      s.regs.flag Reg.HIF_DEV_CTL_ENABLE = false →
      ∃ s', exec .enable s = .next s' ∧ s'.regs.flag Reg.HIF_DEV_CTL_ENABLE = true ∧
        s'.regs.get Reg.HIF_DEV_STATUS_STATE = 1 ∧ s'.host = s.host ∧ s'.tiles = s.tiles ∧ s'.net.peers = [] ∧
        ∀ l, l < 32 → s.linkLive l = true → s'.link l = (s.link l).enqueue VC.ctrl ((s.packet (s.peerRank l) PK.ctrl 0 0 0
          (clean (leBytes 1 CT.probe ++ leBytes 1 0 ++ leBytes 2 0)) false true).flits VC.ctrl)) ∧
    (∀ ok pre reason cases post c, s.regs.get Reg.HIF_DEV_STATUS_STATE = 1 → s.answered s.net.peers = true →
      s.checks = pre ++ (reason, cases) :: post → (∀ x ∈ pre, x.2 = []) → c ∈ cases →
      (∀ d ∈ cases, c.1 < d.1 ∨ (c.1 = d.1 ∧ c.2 ≤ d.2)) →
      ∃ s', exec (.consistencyCheckDone ok) s = .next s' ∧ s' = { s with regs := s'.regs } ∧
        s'.regs = (((s.regs.set Reg.HIF_CFG_STATUS_REASON reason).set Reg.HIF_CFG_STATUS_OFFSET c.1).set
          Reg.HIF_CFG_STATUS_INDEX c.2 |>.setFlag Reg.HIF_DEV_CTL_ENABLE false).set Reg.HIF_DEV_STATUS_STATE 0) ∧
    (s.regs.get Reg.HIF_DEV_STATUS_STATE = 1 → s.answered s.net.peers = true → (∀ x ∈ s.checks, x.2 = []) →
      ∀ ok, ∃ s', exec (.consistencyCheckDone ok) s = .next s' ∧ s'.regs.get Reg.HIF_DEV_STATUS_STATE = 2 ∧
        s'.regs.get Reg.HIF_CFG_STATUS_REASON = 0 ∧ s'.host.descs = [] ∧ s'.host.rings = [] ∧ s'.host.cqs = [] ∧
        s'.net.standby = s.net.active ∧ s'.net.active = s.net.active ∧ s'.net.sendOrder = [] ∧
        s'.net.recvOrder = [] ∧ s'.tiles = s.tiles ∧ (s.mem.clearDue = false → s'.stack = s.stack) ∧
        (s.mem.clearDue = true → s'.stack = s.clearObjects.stack))

/-! ### Rings in host memory -/

/-- A poll is one read of the PRODUCED words; its values reach the rings; one that fails is reported once; 16 empty polls
double the interval. A fetch serves the highest priority and reads at most 16 descriptors; a descriptor is accepted when its
GEN matches, with the stream descriptor that a STREAM names read then, and the ring waits when it does not (R293, R331 to
R333). -/
def Obligations.PollAndFetch : Prop :=
  ∀ s : State,
    (s.fetching = true → s.host.pollBusy = false → s.pollLen ≠ 0 → s.onDemand = [] →
      exec .doorbellPoll s = .next ((({ s with host := { s.host with pollBusy := true } }).addReg
        Reg.HIF_POLL_STATUS_POLLS 1).emit (.hostRead s.dbAddr s.pollLen))) ∧
    (∀ v, s.host.pollBusy = true → s.onDemand = [] → viewFails v s.dbAddr s.pollLen = false →
      ∃ s', exec (.doorbellPollResult v) s = .next s' ∧ s'.host.pollBusy = false ∧ s'.host.pollErr = false ∧
        s'.host.descs = s.host.descs ∧ s'.host.events = s.host.events ∧
        ∀ r, r < 256 → s.ringValid r = true →
          let x := Tbl.get s'.host.rings RingSt.zero r
          x.produced = leNat ((List.range 4).map fun i => (viewByte v (s.dbAddr + 4 * r + i)).1) ∧
          x.next = (Tbl.get s.host.rings RingSt.zero r).next ∧ x.hold = false) ∧
    (∀ v, s.host.pollBusy = true → viewFails v s.dbAddr s.pollLen = true → s.host.pollErr = false →
      exec (.doorbellPollResult v) s = .next ((({ s with host := { s.host with
        pollBusy := false
        pollErr := true
        rings := Tbl.mapVals (fun _ x => { x with hold := false }) s.host.rings } }).post
          ⟨0x4090, 2, 7, 0, s.dbAddr⟩).pollLevel false)) ∧
    (s.host.descs = [] → s.host.pollEmpty = 15 → (s.pollLevel false).regs.get Reg.HIF_POLL_STATUS_LEVEL =
      min 8 (s.regs.get Reg.HIF_POLL_STATUS_LEVEL + 1)) ∧
    (∀ r, s.fetching = true → s.host.fetch = none → s.nextRing = some r →
      let x := Tbl.get s.host.rings RingSt.zero r
      let n := s.fetchCount r
      1 ≤ n ∧ n ≤ 16 ∧ s.ringValid r = true ∧
      (∀ q, q < 256 → s.ringValid q = true → s.fetchCount q ≠ 0 →
        s.regs.getAt Reg.HIF_SQ_CTL_PRIO q ≤ s.regs.getAt Reg.HIF_SQ_CTL_PRIO r) ∧
      ∃ s', exec .descriptorFetch s = .next s' ∧ s'.host.fetch = some ⟨r, x.next, n⟩ ∧ s'.host.descs = s.host.descs ∧
        s'.out = ((List.range n).map fun i => Output.hostRead (s.slotAddr r ((x.next + i) % 2 ^ 32)) 64).reverse ++ s.out) ∧
    (∀ (v : HostView) (f : Fetch), s.host.fetch = some f →
      (∀ i, i < f.count → viewFails v (s.slotAddr f.ring ((f.first + i) % 2 ^ 32)) 64 = false) →
      let x := Tbl.get s.host.rings RingSt.zero f.ring
      exec (.descriptorFetchResult v) s = .next (({ s with host := { s.host with
        fetch := none
        rings := Tbl.put s.host.rings f.ring { x with fetchErr := false } } }).acceptDescs v f.ring f.count f.first)) ∧
    (∀ (v : HostView) (r n j : Nat),
      let d := Desc.parse r j ((List.range 64).map fun i => (viewByte v (s.slotAddr r j + i)).1)
      let x := Tbl.get s.host.rings RingSt.zero r
      let l := s.latchStream v d
      let host := { l.2.host with
        descs := l.2.host.descs ++ [{ d with latched := l.1 }]
        pollEmpty := 0
        rings := Tbl.put l.2.host.rings r { x with next := (j + 1) % 2 ^ 32 } }
      (d.flags % 2 = (j / s.ringSize r + 1) % 2 → s.acceptDescs v r (n + 1) j =
        ({ l.2.setReg Reg.HIF_POLL_STATUS_LEVEL 0 with host := host }).acceptDescs v r n ((j + 1) % 2 ^ 32)) ∧
      (d.opcode ≠ 1 → l = (none, s)) ∧
      (∀ b s1, d.opcode = 1 → s.judge .local3 (d.n 0 8) 64 = none → d.n 0 8 % 64 = 0 →
        s.readStruct v (d.n 0 8) 64 = (.ok b, s1) → l = (some (0x0000, 0, b), s1)) ∧
      (d.flags % 2 ≠ (j / s.ringSize r + 1) % 2 → s.acceptDescs v r (n + 1) j =
        { s with host := { s.host with rings := Tbl.put s.host.rings r { x with hold := true } } }))

/-- A descriptor without ORDER starts once every earlier one without ORDER has been taken by its unit, one with ORDER once
every earlier one has completed. NOP and a reserved opcode complete at once. A completed descriptor leaves a record with its
status, opcode, ring, count, tag, result and time (R336 to R338, R340). That ST_DESC_OPCODE comes before the EVAL rule of R431 is
the model's reading, log entry 41. -/
def Obligations.DescriptorsStartAndComplete : Prop :=
  ∀ (s : State) (r j : Nat) (d : Desc), s.host.desc r j = some d →
    (d.started = false →
      (∀ e ∈ s.host.descs, e.before r j = true → d.order = false ∧ (e.taken = true ∨ (e.order = true ∧ e.queues = false))) →
      (d.order = true → ∀ c ∈ s.host.unwritten, c.ring = r → earlier c.index j = false) →
      exec (.descriptorStart r j) s = .next { s with host := { s.host with
        descs := s.host.descs.map fun e => if e.ring = r ∧ e.index = j then { e with started := true } else e } }) ∧
    (d.started = true → d.taken = false → d.opcode = 0 → s.host.stuck d.unit = false → (d.eval = true → s.evalOn = true) →
      exec (.nopDescriptor r j) s = .next (s.complete r j 0x0000 0 0)) ∧
    (d.started = true → opcodeKnown d.opcode = false → s.host.stuck d.unit = false →
      exec (.nopDescriptor r j) s = .next (s.complete r j 0x2090 0 0)) ∧
    (∀ status flags result, s.host.room (s.regs.getAt Reg.HIF_SQ_CTL_CQ r) = true →
      let s' := s.complete r j status flags result
      s'.host.queue = s.host.queue ++ [{
        cq := s.regs.getAt Reg.HIF_SQ_CTL_CQ r
        status := status
        flags := flags
        opcode := d.opcode
        ring := r
        index := j
        tag := d.tag
        result := result
        time := s.time.ns
        notify := d.flags.testBit 1
        unit := d.unit }] ∧
      s'.host.desc r j = none ∧ (∀ r' j', (r', j') ≠ (r, j) → s'.host.desc r' j' = s.host.desc r' j') ∧
      s'.tiles = s.tiles ∧ s'.stack = s.stack ∧ s'.host.events = s.host.events)

/-- The coalescer writes consecutive records of one ring in one write of at most 512 B, in the order they entered, and a record
whose slot has been re-armed early shows it; the event ring takes the oldest event, an overflow first; a vector is sent by count,
by time, or at once, only after the record that it announces (R334, R338, R340, R342, R343, R345). The layout of the MSI-X table
is taken from outside the spec, log entry 23. -/
def Obligations.RecordsReachTheHost : Prop :=
  ∀ s : State,
    (∀ c : CplRec, c.rearm false = c ∧ (c.rearm true).flags = c.flags + 32 ∧
      (c.rearm true).status = if c.status = 0x0000 then 0x1090 else c.status) ∧
    (∀ m, s.enabled = true → s.batch m ≠ [] →
      let size := s.regs.getAt Reg.HIF_CQ_CTL_SIZE m
      let k := (s.cq m).written
      (s.batch m).length ≤ 16 ∧ s.batch m <+: s.host.queue.filter (fun r => r.cq == m) ∧
      ∃ s' msgs, exec (.completionWrite m) s = .next s' ∧
        s'.out = msgs ++ .hostWrite (s.regs.getAt Reg.HIF_CQ_BASE_BASE m * 4096 + 32 * (k % size))
          ((s.batch m).mapIdx fun i r => (r.rearm (s.rearmed r.ring r.index)).bytes ((k + i) % 2 ^ 32) size).flatten false ::
            s.out ∧
        (∀ o ∈ msgs, o = .msix (s.regs.getAt Reg.HIF_CQ_CTL_VECTOR m)) ∧
        (s.regs.getAt Reg.HIF_CQ_CTL_IRQ m = 0 → msgs = []) ∧ s'.host.descs = s.host.descs ∧
        (s'.cq m).written = (k + (s.batch m).length) % 2 ^ 32) ∧
    (∀ m r, s.enabled = true → s.batch m = [r] →
      let due := r.notify = true ∨ s.regs.getAt Reg.HIF_CQ_CTL_MOD_COUNT m ≤ (s.cq m).pending + 1 ∨
        s.regs.getAt Reg.HIF_CQ_CTL_MOD_TIME m = 0
      ∃ s1 : State, s1.out.length = s.out.length + 1 ∧ s1.tiles = s.tiles ∧ s1.regs = s.regs ∧
        s1.cq m = { s.cq m with
          written := ((s.cq m).written + 1) % 2 ^ 32
          oldest := if (s.cq m).pending = 0 then s.now else (s.cq m).oldest
          pending := if due then 0 else (s.cq m).pending + 1 } ∧
        (s.regs.getAt Reg.HIF_CQ_CTL_IRQ m = 1 → due →
          exec (.completionWrite m) s = .next (s1.sendVector (s.regs.getAt Reg.HIF_CQ_CTL_VECTOR m))) ∧
        (s.regs.getAt Reg.HIF_CQ_CTL_IRQ m = 1 → ¬ due → exec (.completionWrite m) s = .next s1) ∧
        (s.regs.getAt Reg.HIF_CQ_CTL_IRQ m ≠ 1 → exec (.completionWrite m) s = .next s1)) ∧
    (∀ (e : EvRec) (h : HostSt), s.enabled = true → s.eqRoom ≠ 0 →
      (s.host.dropped = 0 ∧ s.host.events = e :: h.events ∧ h = { s.host with events := h.events } ∨
        s.host.dropped ≠ 0 ∧ e = ⟨⟨St.eventOverflow, 0, 7, 0, s.host.dropped⟩, s.regs.get Reg.TRN_STEP_NUM_STEP, s.now⟩ ∧
          h = { s.host with dropped := 0 }) →
      let size := s.regs.get Reg.HIF_EQ_CTL_SIZE
      let q := s.host.eq
      let due := St.cls e.ev.status = 3 ∨ St.cls e.ev.status = 6 ∨ s.regs.get Reg.HIF_EQ_CTL_MOD_COUNT ≤ q.pending + 1 ∨
        s.regs.get Reg.HIF_EQ_CTL_MOD_TIME = 0
      let s1 : State := { s with
        out := .hostWrite (s.regs.get Reg.HIF_EQ_BASE_BASE * 4096 + 32 * (q.written % size)) (e.bytes q.written size) false ::
          s.out
        host := { h with eq := { q with
          written := (q.written + 1) % 2 ^ 32
          oldest := if q.pending = 0 then s.now else q.oldest
          pending := if due then 0 else q.pending + 1 } } }
      (s.regs.flag Reg.HIF_EQ_CTL_IRQ = true → due →
        exec .eventWrite s = .next (s1.sendVector (s.regs.get Reg.HIF_EQ_CTL_VECTOR))) ∧
      (s.regs.flag Reg.HIF_EQ_CTL_IRQ = true → ¬ due → exec .eventWrite s = .next s1) ∧
      (s.regs.flag Reg.HIF_EQ_CTL_IRQ = false → exec .eventWrite s = .next s1)) ∧
    (∀ m, let c := s.cq m
      c.pending ≠ 0 → c.oldest + 1000 * s.regs.getAt Reg.HIF_CQ_CTL_MOD_TIME m ≤ s.now →
      s.regs.getAt Reg.HIF_CQ_CTL_IRQ m = 1 →
      exec (.modTimeExpiry (some m)) s = .next (({ s with host := { s.host with
        cqs := Tbl.put s.host.cqs m { c with pending := 0 } } }).sendVector (s.regs.getAt Reg.HIF_CQ_CTL_VECTOR m))) ∧
    (s.host.eq.pending ≠ 0 → s.host.eq.oldest + 1000 * s.regs.get Reg.HIF_EQ_CTL_MOD_TIME ≤ s.now →
      s.regs.flag Reg.HIF_EQ_CTL_IRQ = true → exec (.modTimeExpiry none) s =
        .next (({ s with host := { s.host with eq := { s.host.eq with pending := 0 } } }).sendVector
          (s.regs.get Reg.HIF_EQ_CTL_VECTOR))) ∧
    (∀ v, s.host.msixOn = true →
      (bitOf (s.host.msixDword (4 * v + 3)) 0 = false → s.sendVector v = s.emit (.msix v)) ∧
      (bitOf (s.host.msixDword (4 * v + 3)) 0 = true →
        s.sendVector v = { s with host := { s.host with msixPending := NSet.add s.host.msixPending v } }))

/-! ### Driver descriptors on memory -/

/-- A KV_RESERVE takes the free range at the lowest offset that holds UNITS units and returns its offset; a KV_RELEASE frees the
range of its ID; reservations never overlap (R159, R160). -/
def Obligations.KeyValueReservations : Prop :=
  ∀ (s : State) (r j : Nat) (d : Desc),
    s.firstFetched r j 3 4 = true → s.host.stuck d.unit = false → (d.eval = true → s.evalOn = true) →
    let apart := kvApart
    (∀ g, s.ready r j 3 = some d → d.n 0 2 < 4096 → (d.n 2 1 = 0 ∧ d.n 3 1 = 0 ∨ d.n 2 1 = 1 ∧ d.n 3 1 < 16) → d.n 4 4 ≠ 0 →
      (∀ k ∈ s.kv, k.id ≠ d.n 0 2 ∧ ¬ (d.n 2 1 = 1 ∧ k.kind = 1 ∧ k.ring = d.n 3 1)) →
      s.kvFree.find? (fun g => decide (d.n 4 4 ≤ g.2)) = some g →
      ∃ kv, exec (.kvReserve r j) s = .next (({ s with kv := kv }).complete r j 0x0000 0
          ((s.regs.get Reg.CMP_KV_BASE_BASE + g.1) * 65536)) ∧
        (∀ k, k ∈ kv ↔ k = ⟨d.n 0 2, d.n 2 1, d.n 3 1, g.1, d.n 4 4⟩ ∨ k ∈ s.kv) ∧ (apart s.kv → apart kv)) ∧
    (s.ready r j 3 = some d → d.n 0 2 < 4096 → (d.n 2 1 = 0 ∧ d.n 3 1 = 0 ∨ d.n 2 1 = 1 ∧ d.n 3 1 < 16) → d.n 4 4 ≠ 0 →
      (∀ k ∈ s.kv, k.id ≠ d.n 0 2 ∧ ¬ (d.n 2 1 = 1 ∧ k.kind = 1 ∧ k.ring = d.n 3 1)) → (∀ g ∈ s.kvFree, g.2 < d.n 4 4) →
      exec (.kvReserve r j) s = .next (s.complete r j 0x5040 0 (largest s.kvFree))) ∧
    (s.ready r j 4 = some d → d.n 0 2 < 4096 → (∃ k ∈ s.kv, k.id = d.n 0 2) →
      ∃ kv, exec (.kvRelease r j) s = .next (({ s with kv := kv }).complete r j 0x0000 0 0) ∧
        (∀ k, k ∈ kv ↔ k ∈ s.kv ∧ k.id ≠ d.n 0 2) ∧ (apart s.kv → apart kv)) ∧
    (s.ready r j 4 = some d → d.n 0 2 < 4096 → (∀ k ∈ s.kv, k.id ≠ d.n 0 2) →
      exec (.kvRelease r j) s = .next (s.complete r j 0x2045 0 0)) ∧
    (∀ k : KvRes, ∀ g ∈ s.kvFree, k ∈ s.kv → apart s.kv → g.1 + g.2 ≤ k.first ∨ k.first + k.units ≤ g.1)

/-- DEFINE, PROMOTE, EVICT, UNPIN and FREE change the entry as Table 07.7 says for the states of the entry that are named, for an
object below MEM_OBJ_COUNT (R276, R277). That a copy is one transfer, which the model gives a number of its own, is the model's
reading, log entry 43. -/
def Obligations.ObjectTable : Prop :=
  ∀ (s : State) (r j : Nat) (d : Desc), s.firstFetched r j 5 9 = true → s.host.stuck d.unit = false →
    (d.eval = true → s.evalOn = true) →
    let o := d.object
    let s1 := (s.stackRead (s.objAddr o) 32).2
    let x := s1.obj o
    let p := d.placement
    let homeOk := fun (home size : Nat) =>
      home % 64 = 0 ∧ home + size ≤ 0xC000000000 ∧ s1.inRegion home size = false
    o < s.regs.get Reg.MEM_OBJ_COUNT_COUNT → s.memOpen (s.objAddr o) 32 = true →
    (s.ready r j 5 = some d → x.tier = 0 → homeOk (d.n 16 8 % 2 ^ 40) (d.n 24 8) →
      exec (.objDefine r j) s = .next ((s1.setObj o { x with
        tier := 1
        flags := 0
        pins := 0
        home := d.n 16 8 % 2 ^ 40
        size := d.n 24 8 }).objDone o r j 0x0000 0)) ∧
    (s.ready r j 6 = some d → p.count ≠ 0 → p.fits x.size = true → homeOk x.home x.size →
      (x.tier = 1 → s1.copyRoom p = true →
        let y : Obj := ⟨2, 1, 1, p.slice, x.home, x.size, p.first, p.count, p.offset⟩
        exec (.objPromote r j) s = .next ((s1.setObj o y).startMove r j
          ⟨s1.nextMove, y, o, true, false, [(r, j, d.objSig)], [], x.stale, false, List.range p.count⟩)) ∧
      (x.tier = 2 → x.placement = p → x.pins < 65535 → x.evicting = false → x.movingUp = false →
        exec (.objPromote r j) s =
          .next (((s1.setObj o { x with pins := x.pins + 1 }).objSignal x d.objSig).objDone o r j 0x0000 0)) ∧
      (x.tier = 2 → x.placement ≠ p → exec (.objPromote r j) s = .next (s1.objDone o r j 0x2074 0))) ∧
    (s.ready r j 7 = some d → x.tier = 2 → x.movingUp = false →
      (x.pins = 0 → x.evicting = false → s1.copyRoom x.placement = true → exec (.objEvict r j) s =
        .next ((s1.setObj o { x with flags := x.flags ||| 2 }).startMove r j
          ⟨s1.nextMove, x, o, false, false, [], [(r, j)], false, false, List.range x.count⟩)) ∧
      (x.pins ≠ 0 → exec (.objEvict r j) s = .next (s1.objDone o r j 0x5003 0))) ∧
    (s.ready r j 8 = some d → x.tier ≠ 0 →
      (x.pins ≠ 0 → exec (.objUnpin r j) s = .next ((s1.setObj o { x with pins := x.pins - 1 }).objDone o r j 0x0000 0)) ∧
      (x.pins = 0 → exec (.objUnpin r j) s = .next (s1.objDone o r j 0x2073 0))) ∧
    (s.ready r j 9 = some d → x.tier ≠ 0 → x.movingUp = false → x.evicting = false →
      (x.pins = 0 → exec (.objFree r j) s = .next ((s1.setObj o ⟨0, 0, 0, 0, 0, 0, 0, 0, 0⟩).objDone o r j 0x0000 0)) ∧
      (x.pins ≠ 0 → exec (.objFree r j) s = .next (s1.objDone o r j 0x5003 0)))

/-- An object's copy goes slice by slice, each on the channel of its die; on the way up each target tile is signalled as its own
copy completes. After the last slice the entry settles: a copy up ends its PROMOTE, a copy down its EVICTs, and poison that moved
shows in the status. An entry of the table reads back as it was written and leaves the others alone (R276, R278, R279). That an
object is copied slice by slice in one transfer of channel 7 of engine 127 of each die, and that poison wins over STALE in the
status, is the model's reading, log entry 43. -/
def Obligations.ObjectCopies : Prop :=
  ∀ (s : State) (o : Nat),
    (∀ (m : ObjMove) (i : Nat), s.mem.moves.find? (fun m => m.obj == o) = some m → m.cancelled = false → i ∈ m.left →
      s.copying m (2048 * ((m.entry.first + i) / 4096) + 127 * 16 + 7) = true →
      s.memOpen (m.entry.home + m.entry.slice * i) (m.entry.sliceBytes i) = true → s.memOpen (s.objAddr o) 32 = true →
      exec (.objectCopyDone ⟨o, i⟩) s = .next ((s.stackRead (s.objAddr o) 32).2.moveSlice m i)) ∧
    (∀ (m : ObjMove) (i : Nat) (w : Nat × Nat × Option Nat) (p : Nat), m.up = true → m.waiters = [w] → w.2.2 = some p →
      m.left.erase i ≠ [] → (∀ k ∈ m.entry.placement.channels, ∃ l ∈ m.left.erase i, (m.entry.first + l) / 4096 = k / 2048) →
      let c := s.copySlice m.entry true i m.entry.slice
      s.moveSlice m i = (c.2.signalTile (m.entry.first + i) (p / 2) (p % 2) 1 .chan none).putMove { m with
        left := m.left.erase i
        poison := m.poison || c.1 }) ∧
    (∀ (m : ObjMove) (x : Obj), let s0 := s.setMoves (s.mem.moves.filter fun y => y.id != m.id)
      let status := if m.poison then 0x3020 else if m.stale then 0x1072 else 0x0000
      let flags := if m.poison then 16 else 0
      (m.up = false → s.settleMove x m = (s0.setObj m.obj { x with
        tier := 1
        flags := 0 }).each m.evicts fun s e => s.objDone m.obj e.1 e.2 status flags) ∧
      (∀ w, m.up = true → m.waiters = [w] → s.settleMove x m =
        (s0.setObj m.obj { x with flags := x.flags &&& 0xFE }).objDone m.obj w.1 w.2.1 status flags)) ∧
    (∀ y : Obj, s.stack.wf = true → s.stack.uncorr = [] → s.stack.single = [] → (∀ a, s.objAddr 0 ≤ a → s.regs.placed a = a) →
      y.tier < 2 ^ 8 → y.flags < 2 ^ 8 → y.pins < 2 ^ 16 → y.slice < 2 ^ 32 → y.home < 2 ^ 40 → y.size < 2 ^ 64 →
        y.first < 2 ^ 16 → y.count < 2 ^ 16 → y.offset < 2 ^ 19 →
      (s.setObj o y).obj o = y ∧ ∀ k, k ≠ o → (s.setObj o y).obj k = s.obj k)

/-- PROG_LOAD leaves every target LOADING with the image in its program region, zeros after it; when the load is done the
program is valid, the fault is clear and the tile is parked. A release that reaches a LOADING tile is held and takes effect when
the load is done, with the new program (R176, R177, R179). -/
def Obligations.ProgramLoads : Prop :=
  ∀ (s : State) (r j : Nat) (v : HostView) (d : Desc),
    (s.ready r j 2 = some d → s.host.stuck d.unit = false → (d.eval = true → s.evalOn = true) →
      let src := d.n 0 8
      let len := d.n 8 2
      let tiles := (List.range (d.n 14 2)).map (· + d.n 12 2)
      (len = 0 ∨ d.n 14 2 = 0 → exec (.progLoad r j v) s = .next (s.complete r j 0x0000 0 0)) ∧
      (len ≠ 0 → d.n 14 2 ≠ 0 → (16384 < d.n 12 2 + d.n 14 2 ∨ 2048 < len ∨ len ≤ d.n 10 2) →
        exec (.progLoad r j v) s = .next (s.complete r j 0x2052 0 0)) ∧
      (len ≠ 0 → d.n 14 2 ≠ 0 → d.n 12 2 + d.n 14 2 ≤ 16384 → len ≤ 2048 → d.n 10 2 < len →
        s.judge .image src (8 * len) = none → src % 8 = 0 →
        ((∃ t ∈ tiles, s.loadable t = false) → exec (.progLoad r j v) s = .next (s.complete r j 0x2051 0 0)) ∧
        ((∀ t ∈ tiles, s.loadable t = true) →
          let g := s.get v src (8 * len)
          s.localOpen src (8 * len) = true → g.err = false → g.poison = false →
          exec (.progLoad r j v) s =
            .next ((g.st.each tiles fun s t => s.setTile t ((s.tile t).loadProgram g.data)).take r j)))) ∧
    (∀ (x : Tile) (image : List Byte) (i : Nat), x.mem.wf = true → image.length ≤ 16384 → i < 16384 →
      (x.loadProgram image).state = .loading ∧
      (x.loadProgram image).mem.byte (progBase + i) = (image[i]?).getD 0 ∧
      ∀ a, (a < progBase ∨ progBase + 16384 ≤ a) → (x.loadProgram image).mem.byte a = x.mem.byte a) ∧
    (∀ (x : Tile) (t n : Nat), x.state = .loading → x.release t n = ⟨{ x with held := some n }, []⟩) ∧
    (s.working r j 2 = some d →
      ∃ s1 : State, exec (.progLoadDone r j) s = .next (s1.complete r j 0x0000 0 0) ∧ s1.regs = s.regs ∧ s1.host = s.host ∧
        s1.stack = s.stack ∧ ∀ t, let y : Tile := { s.tile t with
            state := .parked
            progValid := true
            progLen := d.n 8 2
            progEntry := d.n 10 2
            btb := []
            fault := ⟨0, false, 0, 0⟩
            stall := .none
            held := none }
          let here := d.n 12 2 ≤ t ∧ t < d.n 12 2 + d.n 14 2
          (¬ here → s1.tile t = s.tile t) ∧ (here → (s.tile t).held = none → s1.tile t = y) ∧
            ∀ n, here → (s.tile t).held = some n → s1.tile t = { y with
              state := .running
              stepNo := n
              g := [(1, BitVec.ofNat 64 n), (2, BitVec.ofNat 64 t)]
              loops := []
              pc := d.n 10 2
              lockPending := false })

/-- A FLASH_WRITE reads the header, erases the inactive image area and reads the rest; the image is programmed there only when
every check passes, with ST_OK and REASON 0; a read-back that fails ends with ST_FLASH_ERR and leaves the area blank; VERIFY_ONLY
writes nothing. Health records alternate between the devices (R515 to R518). That the header is read before the erase, and that a
failed read of the rest leaves the area blank, is the model's reading, log entry 22. -/
def Obligations.FlashUpdates : Prop :=
  ∀ s : State,
    (∀ (r j : Nat) (v : HostView) (d : Desc) (header : List Byte) (s1 : State), s.boot.write = none →
      s.firstFetched r j 0x0A 0x0A = true → s.ready r j 0x0A = some d → s.host.stuck d.unit = false →
      (d.eval = true → s.evalOn = true) →
      s.judge .image (d.n 0 8) (d.n 8 4) = none → s.localOpen (d.n 0 8) (d.n 8 4) = true → d.n 8 4 ≠ 0 → d.n 8 4 ≤ 2 ^ 24 →
      s.readStruct v (d.n 0 8) (min (d.n 8 4) 64) = (.ok header, s1) →
      s1.regs.getAt Reg.BOOT_SEQ_SEQ (s1.regs.get Reg.BOOT_STATUS_SLOT) < imgSeq header →
      (∀ rest s3, d.n 12 1 = 1 → s1.readStruct v (d.n 0 8 + 64) (d.n 8 4 - 64) = (.ok rest, s3) →
        let k := imageReason false s3.counter (header ++ rest)
        exec (.flashWrite r j v) s = .next (s3.complete r j (reasonStatus k) 0 k)) ∧
      (∀ rest s3, d.n 12 1 = 0 → s1.eraseImage.readStruct v (d.n 0 8 + 64) (d.n 8 4 - 64) = (.ok rest, s3) →
        exec (.flashWrite r j v) s =
          .next { s3.take r j with boot := { s3.boot with write := some ⟨r, j, header ++ rest⟩ } }) ∧
      (∀ e s3, d.n 12 1 = 0 → s1.eraseImage.readStruct v (d.n 0 8 + 64) (d.n 8 4 - 64) = (.error e, s3) →
        exec (.flashWrite r j v) s = .next (s3.complete r j e.1 e.2 0)) ∧
      (s1.regs.get Reg.BOOT_STATUS_SLOT = 0 →
        s1.eraseImage = { s1 with boot := { s1.boot with flashB := { s1.boot.flashB with image := [] } } }) ∧
      (s1.regs.get Reg.BOOT_STATUS_SLOT ≠ 0 →
        s1.eraseImage = { s1 with boot := { s1.boot with flashA := { s1.boot.flashA with image := [] } } })) ∧
    (∀ w : FlashJob, s.boot.write = some w →
      exec (.flashWriteDone false) s =
        .next (({ s with boot := { s.boot with write := none } }).complete w.ring w.index 0x40E0 0 0) ∧
      let k := imageReason false s.counter w.image
      let toB := s.regs.get Reg.BOOT_STATUS_SLOT = 0
      exec (.flashWriteDone true) s =
        .next (({ s with boot := { s.boot with
          write := none
          flashA := if k = 0 ∧ ¬ toB then { s.boot.flashA with image := w.image } else s.boot.flashA
          flashB := if k = 0 ∧ toB then { s.boot.flashB with image := w.image } else s.boot.flashB } }).complete w.ring
            w.index (if k = 0 then 0x0000 else reasonStatus k) 0 k)) ∧
    (s.fab.powered = true → (s.boot.healthDirty = true ∨ s.boot.healthAt + 600000000000 ≤ s.now) → s.boot.write = none →
      ∃ s', exec (.healthRecordWrite true) s = .next s' ∧ s'.boot.healthDirty = false ∧ s'.boot.healthAt = s.now ∧
        s'.boot.healthToB = !s.boot.healthToB ∧ s'.regs.get Reg.BOOT_HEALTH_TIME_TIME = s.now % 2 ^ 64 ∧
        (s.boot.healthToB = false → s'.boot.flashB = s.boot.flashB ∧ s'.boot.flashA.image = s.boot.flashA.image ∧
          ∃ rec old, s'.boot.flashA.health = old ++ [rec] ∧ healthOk rec = true))

/-! ### Stacked memory -/

/-- `locate` gives the fields of its definition, puts every offset into the stacks' ranges,
and no two offsets at one place (R254). -/
def Obligations.LocateIsOneToOne : Prop :=
  (∀ a, a < 0xC000000000 → let l := locate a
    l.stack < 12 ∧ l.channel < 128 ∧ l.granule < 2097152 ∧ l.bank < 16 ∧ l.row < 32768 ∧ l.col < 4 ∧ l.byte < 256 ∧
    l.stack / 3 = a / 0x3000000000) ∧
  (∀ a, a < 0xC000000000 → let l := locate a
    let g := (a - a / 0x3000000000 * 0x3000000000) / 256
    let n := g / 384
    l.stack = 3 * (a / 0x3000000000) + g % 3 ∧ l.channel = g / 3 % 128 ∧ l.granule = n ∧
    (∀ k, k < 4 → l.bank.testBit k = (n.testBit k ^^ n.testBit (12 + k))) ∧ l.row = n / 64 % 32768 ∧ l.col = n / 16 % 4 ∧
    l.byte = a % 256) ∧
  (∀ a b, a < 0xC000000000 → b < 0xC000000000 → let l := locate a
    let m := locate b
    l.stack = m.stack → l.channel = m.channel → l.bank = m.bank → l.row = m.row → l.col = m.col → l.byte = m.byte → a = b)

/-- A write takes effect at the ordering point: its bytes are there for every later read, and no other byte changes; a read takes
its bytes there with their tags, holds a slot and delivers them when it is done; a slot is free below 64 for the channel and 12
for the bank; a request that finds none waits, and its source's later ones behind it. An uncorrectable error that an access meets
is counted, posted and leaves its granule poisoned (R256, R259, R264, R265). That a read takes its bytes and meets its errors at
the ordering point, and that the later requests of a source wait behind one that cannot enter, is the model's reading, log entry
42. -/
def Obligations.MemoryRequests : Prop :=
  ∀ s : State,
    (∀ q : MemAccess, q.write = true → inGranule q.addr q.data.length = true → s.memReady q.addr = true →
      let k := s.chanOf q.addr
      (s.memCh k).behind (q.source, q.addr, true) = false → (s.memCh k).slots.length < 64 →
      (∀ bank, ((s.memCh k).slots.filter fun p => (locate (s.regs.home p.addr)).bank == bank).length < 12) →
      s.stack.wf = true →
      ∃ s', exec (.memRequestEnter q) s = .next s' ∧
        (∀ i b, q.data[i]? = some b → s'.stack.byte (s.regs.placed (q.addr + i)) = b) ∧
        (s.stack.uncorr = [] → s.stack.single = [] →
          ∀ c, (∀ i, i < q.data.length → c ≠ s.regs.placed (q.addr + i)) → s'.stack.byte c = s.stack.byte c) ∧
        (s'.memCh k).slots = (s.memCh k).slots ++ [⟨q.source, q.addr, true, []⟩] ∧
        (s'.memCh k).blocked = (s.memCh k).blocked.erase (q.source, q.addr, true) ∧ s'.tiles = s.tiles ∧ s'.kv = s.kv) ∧
    (∀ q : MemAccess, q.write = false → inGranule q.addr q.len = true → s.memReady q.addr = true →
      let k := s.chanOf q.addr
      let c := s.memCh k
      c.behind (q.source, q.addr, false) = false → c.slots.length < 64 →
      (∀ bank, (c.slots.filter fun p => (locate (s.regs.home p.addr)).bank == bank).length < 12) →
      let g := (s.setMemCh k { c with blocked := c.blocked.erase (q.source, q.addr, false) }).stackRead q.addr q.len
      exec (.memRequestEnter q) s = .next (g.2.holdSlot k ⟨q.source, q.addr, false, g.1⟩)) ∧
    (∀ a n, s.stack.uncorr = [] → s.stack.single = [] → (s.stackRead a n).1 =
      (List.range n).map fun i => (s.stack.byte (s.regs.placed (a + i)), s.stack.tag (s.regs.placed (a + i)))) ∧
    (∀ q : MemAccess, inGranule q.addr (if q.write then q.data.length else q.len) = true →
      let k := s.chanOf q.addr
      let c := s.memCh k
      let key := (q.source, q.addr, q.write)
      (c.behind key = true → exec (.memRequestEnter q) s = .next s) ∧
      (c.behind key = false → s.memAdmits q.addr = false → key ∉ c.blocked →
        exec (.memRequestEnter q) s = .next (s.setMemCh k { c with blocked := c.blocked ++ [key] })) ∧
      (c.behind key = false → s.memAdmits q.addr = false → key ∈ c.blocked → exec (.memRequestEnter q) s = .next s)) ∧
    (∀ channel slot q, (s.memCh channel).slots[slot]? = some q →
      let s1 := s.setMemCh channel { s.memCh channel with slots := ldel (s.memCh channel).slots slot }
      (q.write = true → exec (.memReadDone channel slot) s = .next s1) ∧
      (q.write = false →
        exec (.memReadDone channel slot) s = .next (s1.emit (.memData q.source q.addr q.data)))) ∧
    (∀ flags a, let w := s.regs.placed a / 64
      s.beyondCode w a = true → s.host.events.length < 1024 →
      let s' := s.meetErrors flags a
      NSet.has s'.stack.poison w = true ∧ NSet.has s'.stack.uncorr w = false ∧ NSet.has s'.stack.single w = false ∧
      (s'.memCh (s.chanOf a)).uncorrected = min 65535 ((s.memCh (s.chanOf a)).uncorrected + 1) ∧
      (∃ e, s'.host.events = s.host.events ++ [e] ∧ e.ev = ⟨0x3070, flags, 2, memWhere (s.chanOf a), a⟩) ∧
      ∀ c, c / 64 ≠ w → s'.stack.byte c = s.stack.byte c)

/-- A lane that fails training or has 64 errors corrected within a second is marked; a channel that must be retired is, once, its
granules moving to the area of another die, and one that cannot be posts it and takes the reason CAPACITY; the area's poisoning
ends; banks are refreshed when due (R261, R266 to R268). That every later gate has that reason is the model's reading, log entries
42 and 61. -/
def Obligations.LanesAndChannels : Prop :=
  ∀ (s : State) (ch : Nat), ch < 1536 →
    let c := s.memCh ch
    (∀ lane training, lane < 18 → c.mark = none → (training = true ∨ NSet.has c.due lane = true) →
      exec (.laneMark ch lane training) s =
        .next (((s.setMemCh ch { c with mark := some lane }).event 2 0x1070 (memWhere ch) 0).repairChanged)) ∧
    (∀ now lane, 63 ≤ (c.laneErrs.filter fun x => decide (now < x.1 + 1000000000) && x.2 == lane).length →
      NSet.has (c.noteLane now lane).due lane = true) ∧
    (∀ now, 15 ≤ (c.uncorrAt.filter fun t => decide (now < t + 1000000000)).length → (c.noteUncorr now).failed = true) ∧
    (∀ training, s.chanRetired ch = true → exec (.channelRetire ch training) s = .next s) ∧
    (∀ training, s.chanRetired ch = false → (training = true ∨ c.failed = true ∨ ∃ m, c.mark = some m ∧ ∃ l ∈ c.due, l ≠ m) →
      ((s.regs.flag Reg.MEM_RETIRE_CTL_ENABLE = false ∨ s.regs.flag Reg.MEM_RETIRE_STATUS_USED = true) →
        ∃ s1 : State, exec (.channelRetire ch training) s = .next ((s1.event 2 0x6071 (memWhere ch) 0).cause 5) ∧
          s1 = { s with mem := s1.mem } ∧ s1.mem.exhausted = true ∧ s1.memCh ch = { c with uncorrAt := [], failed := false } ∧
          ∀ k, k ≠ ch → s1.memCh k = s.memCh k) ∧
      (s.regs.flag Reg.MEM_RETIRE_CTL_ENABLE = true → s.regs.flag Reg.MEM_RETIRE_STATUS_USED = false →
        ∃ s', exec (.channelRetire ch training) s = .next s' ∧ s'.regs.flag Reg.MEM_RETIRE_STATUS_USED = true ∧
          s'.regs.get Reg.MEM_RETIRE_STATUS_STACK = ch / 128 ∧ s'.regs.get Reg.MEM_RETIRE_STATUS_CHANNEL = ch % 128 ∧
          s'.regs.get Reg.MEM_RETIRE_STATUS_AREA = (if ch / 384 = 0 ∨ ch / 384 = 3 then 1 else 0) ∧
          s'.mem.poisoning = true ∧ (s'.memCh ch).slots = [] ∧ s'.boot.healthDirty = true ∧ s'.tiles = s.tiles ∧
          ∀ a, (locate a).chan = ch → (locate a).channel < 128 → s'.regs.home a =
            (if ch / 384 = 0 ∨ ch / 384 = 3 then 0x8FE0000000 else 0x2FE0000000) + 256 * (locate a).granule + a % 256)) ∧
    (s.mem.poisoning = true → exec .retireAreaPoisoned s = .next { s with mem := { s.mem with poisoning := false } }) ∧
    (∀ bank, bank < 16 → s.mem.selfRefresh = false → s.mem.off = false →
      Tbl.get s.mem.refreshed 0 (ch * 16 + bank) + 3900 ≤ s.now →
      exec (.bankRefresh ch bank) s =
        .next { s with mem := { s.mem with refreshed := Tbl.put s.mem.refreshed (ch * 16 + bank) s.now } })

/-- The temperature of a stack sets its refresh interval and its throttle, with 2 °C of hysteresis, and 110 °C begins the safe
state. The scrub reads the next granule once per interval, corrects or poisons it, and changes no byte of data that it does not
poison (R261, R262, R269, R270, R288). That the event, the latch and the trip come when the reading does is the model's reading,
log entry 48. -/
def Obligations.TemperatureAndScrub : Prop :=
  (∀ old t, old ≤ 4 → let n := tempState old t
    (∀ k b, tempBounds[k]? = some b → (b ≤ t → k + 1 ≤ n) ∧ (t + 2 ≤ b → n ≤ k) ∧
      (k < old → b < t + 2 → k + 1 ≤ n) ∧ (old ≤ k → t < b → n ≤ k)) ∧ n ≤ 4) ∧
  (∀ (s : State) (temps : List Nat), temps.length = 12 → (∀ t ∈ temps, t < 256) → (∀ k, Tbl.get s.mem.lastTemp 0 k < 256) →
    let mean := fun (k : Nat) => (Tbl.get s.mem.lastTemp ((temps[k]?).getD 0) k + (temps[k]?).getD 0) / 2
    let now := fun (k : Nat) => tempState (Tbl.get s.mem.tempLevel 0 k) (mean k)
    ∃ s', exec (.stackTempSample temps) s = .next s' ∧ s'.tiles = s.tiles ∧ s'.stack = s.stack ∧
      (∀ k, k < 12 → s'.regs.getAt Reg.MEM_STACK_STATUS_TEMP k = mean k ∧ Tbl.get s'.mem.tempLevel 0 k = now k ∧
        s'.regs.getAt Reg.MEM_STACK_STATUS_REFRESH k = min (now k) 2 ∧
        (s'.regs.getAt Reg.MEM_STACK_STATUS_THROTTLE k = 1 ↔ 3 ≤ now k)) ∧
      (s.fab.trip = none → s.regs.flag Reg.SAF_SAFE_STATUS_ACTIVE = false → (∃ k, k < 12 ∧ 110 ≤ mean k) →
        s'.fab.trip = some (4, false) ∧ s'.regs.get Reg.SAF_SAFE_STATUS_CAUSE = 4)) ∧
  (∀ s : State, let v := s.regs.get Reg.MEM_SCRUB_CTL_INTERVAL
    s.regs.scrubInterval = if 10 ≤ v ∧ v ≤ 10000 then 1000 * v else 10000000) ∧
  (∀ (s : State) (upsets : List (Nat × List Nat)), s.now < s.mem.scrubbed + s.regs.scrubInterval →
    exec (.patrolScrubRead upsets) s = .next s) ∧
  (∀ (s : State) (upsets : List (Nat × List Nat)), s.scrubMay = true → s.mem.selfRefresh = false → s.mem.off = false →
    s.mem.scrubbed + s.regs.scrubInterval ≤ s.now →
    let l := s.regs.get Reg.MEM_SCRUB_STATUS_POSITION
    ∃ s', exec (.patrolScrubRead upsets) s = .next s' ∧ s'.mem.scrubbed = s.now ∧
      (upsets = [] → s.regs.get Reg.MEM_RETIRE_STATUS_USED = 0 → ∀ w ∈ s.inScrub (s.stack.uncorr ++ s.stack.single),
        NSet.has s'.stack.uncorr w = false ∧ NSet.has s'.stack.single w = false ∧
        (s.beyondCode w (64 * w) = true → NSet.has s'.stack.poison w = true) ∧
        (s.beyondCode w (64 * w) = false → ∀ a, a / 64 = w → s'.stack.byte a = s.stack.byte a)) ∧
      (∀ a, s'.stack.byte a ≠ s.stack.byte a → s'.stack.tag a = true) ∧ s'.tiles = s.tiles ∧
      s'.regs.get Reg.MEM_SCRUB_STATUS_POSITION = (if l = 2097151 then 0 else l + 1) ∧
      (l ≠ 2097151 → s'.regs.get Reg.MEM_SCRUB_STATUS_PASSES = s.regs.get Reg.MEM_SCRUB_STATUS_PASSES))

/-- A generator starts on a channel without live traffic, and a start elsewhere, or with ORDER 3, is refused with ST_TG_LIVE; each
of its passes writes its pattern, checks it, or does both, and after the last START reads 0 (R271 to R273, R289). That what the
checks find counts in the generator alone is the model's reading, log entry 42. -/
def Obligations.TrafficGenerators : Prop :=
  ∀ s : State,
    (∀ v, ∃ s', exec (.tgStart v) s = .next s' ∧ s'.stack = s.stack ∧ s'.regs = s.regs ∧
      (∀ c, c ∉ s.tgChannels → s'.memCh c = s.memCh c) ∧
      ∀ c ∈ s.tgChannels, (s.memCh c).gen.running = false →
        ((s.locked = true ∧ s.chanRetired c = false ∨ bitsOf v 6 5 = 3) →
          s'.memCh c = { s.memCh c with gen := { (s.memCh c).gen with
            ctl := tgFields v
            code := 0x2075 } }) ∧
        (¬ (s.locked = true ∧ s.chanRetired c = false ∨ bitsOf v 6 5 = 3) →
          s'.memCh c = { s.memCh c with gen := { (s.memCh c).gen with
            ctl := tgFields v
            code := 0
            lanes := 0
            errors := 0
            corrections := 0
            running := decide (bitsOf v 23 8 ≠ 0) } })) ∧
    (∀ channel wrong, let g := (s.memCh channel).gen
      g.running = true →
      let acc := g.accesses channel
      let r := (List.range g.passes).foldl (fun (r : Gen × State) i =>
        r.2.tgPass channel acc wrong r.1 (i * acc.length)) (g, s)
      exec (.tgRunDone channel wrong) s =
        .next (r.2.setMemCh channel { r.2.memCh channel with gen := { r.1 with running := false } })) ∧
    (∀ channel acc wrong g from_,
      (g.op = 0 → s.tgPass channel acc wrong g from_ = (g, s.tgWrite channel acc)) ∧
      (g.op = 1 → s.tgPass channel acc wrong g from_ = (s.tgCheck g channel acc wrong from_, s)) ∧
      (g.op = 2 → s.tgPass channel acc wrong g from_ =
        ((s.tgWrite channel acc).tgCheck g channel acc wrong from_, s.tgWrite channel acc))) ∧
    (∀ (g : Gen) mark cell want f, g.raw = false → cell.hurt = 0 → cell.bytes = want → g.check mark cell want 0 f = g)


/-! ### Stelys links -/

/-- A flit's header and payload read back as they were written and its CRC holds; a packet within the layout's ranges reads back
from its bytes, and from its flits, as it was sent (R359 to R361, R370, R371). -/
def Obligations.FlitsAndPacketsReadBack : Prop :=
  (∀ (h : FlitHeader) (payload : List Byte), h.vc < 8 → h.type < 4 → h.seq < 2 ^ 16 → h.ack < 2 ^ 16 → h.cvc < 8 →
    h.pool < 32 → h.credits < 8 → payload.length = 242 →
    let flit := flitSeal (flitBody h payload)
    flit.length = 256 ∧ flitGood flit = true ∧ headerOf (leNat (flit.take 6)) = h ∧ (flit.drop 6).take 242 = payload) ∧
  (∀ p : Packet, p.dst < 2 ^ 20 → p.src < 2 ^ 20 → p.hop < 32 → p.kind < 16 → p.addr < 2 ^ 44 → p.len ≤ 4096 →
    p.data.length = dataLen p.kind p.len → p.tid < 2 ^ 16 → p.tseq < 2 ^ 32 → p.poison < 2 ^ 64 → p.crc < 2 ^ 64 →
      p.rsv < 2 ^ 33 →
    Packet.parse p.bytes = p ∧
    ∀ vc, wholePacket ((p.flits vc).map fun f => ⟨f.idx, f.vc, 0, f.payload, 0⟩) = some p)

/-- A flit slot sends a resend, then a flit that was held back, then an LCTRL flit, then the first channel in priority order that
has a flit and a credit, and otherwise IDLE; a new flit takes the next SEQ and stays in the replay buffer; the eighth resend takes
the link down (R361 to R363, R365 to R367, R392). That the shared pool pays before a hop pool, and that a flit which a hop pool
pays for names it and returns no credits, is the model's reading, log entry 30. -/
def Obligations.FlitSlots : Prop :=
  ∀ (s : State) (l : Nat),
    let d := s.drainCtrl
    let x := d.link l
    let held := ∀ e t, x.injHold ≠ (e, true) :: t
    d.linkLive l = true → x.injStopped = false →
    (∀ e, x.toResend = some e →
      let e1 := { e with resends := e.resends + 1 }
      let s1 := ((d.setLink l { x with
        resend := x.resend.filter fun q => q != e.seq
        replay := x.replay.map fun y => if y.seq = e.seq then e1 else y }).addRegAt Reg.LNK_LINK_ERR_RETRANS l 1).sendData l e1
          id id
      (e.resends + 1 ≤ 7 → exec (.flitSend l) s = .next s1) ∧
      (8 ≤ e.resends + 1 → exec (.flitSend l) s = .next (s1.linkDown l 1))) ∧
    (∀ e t, x.toResend = none → x.injHold = (e, true) :: t →
      exec (.flitSend l) s = .next ((d.setLink l { x with injHold := t }).sendData l e id id)) ∧
    (∀ m r, x.toResend = none → held → x.lctrl = m :: r →
      exec (.flitSend l) s = .next ((d.setLink l { x with lctrl := r }).putFlit l 0 2 0 0 m id id)) ∧
    (∀ pre vc post f rest k, x.toResend = none → held → x.lctrl = [] → x.replay.length < 16384 →
      x.vcOrder = pre ++ vc :: post →
      (∀ w ∈ pre, ∀ g r, Tbl.get x.txq [] w = g :: r → x.creditPool w g.hop = none) →
      Tbl.get x.txq [] vc = f :: rest → x.creditPool vc f.hop = some k →
      exec (.flitSend l) s = .next (d.sendNew l f k rest)) ∧
    (x.toResend = none → held → x.lctrl = [] → x.nextFlit = none →
      exec (.flitSend l) s = .next (d.putFlit l 0 0 0 0 [] id id)) ∧
    (∀ f k rest now, let r := x.assign f k rest now
      r.1.seq = x.txSeq ∧ r.2.txSeq = (x.txSeq + 1) % 2 ^ 16 ∧ r.2.replay = x.replay ++ [r.1] ∧ r.1.flit = f) ∧
    (∀ f k rest, d.injMode l = 0 → let r := x.assign f k rest d.now
      d.sendNew l f k rest = (d.setLink l r.2).sendData l r.1 id id) ∧
    (∀ e : Replay, d.sendData l e id id =
      let s1 := d.putFlit l e.flit.vc 1 e.seq e.pool (e.flit.egress d.instant) id id
      s1.setLink l (s1.link l).passed) ∧
    (∀ vc type seq payload, let g := x.returns
      d.putFlit l vc type seq 0 payload id id = (d.setLink l g.2).emit (.flit l (flitSeal (flitBody
        ⟨vc, type, seq, x.rxNext, g.1.1, g.1.2.1, g.1.2.2⟩ payload)))) ∧
    (∀ vc seq pool payload, pool ≠ 0 → d.putFlit l vc 1 seq pool payload id id =
      (d.setLink l x).emit (.flit l (flitSeal (flitBody ⟨vc, 1, seq, x.rxNext, vc, pool, 0⟩ payload))))

/-- A flit whose CRC fails is only counted; one in order is delivered with those held behind it; one after a gap is held and the
gap is named in a NACK; a duplicate is discarded; a neighbour's lane change and rank are taken. A NACK, a gap not filled in 25 µs
and an ACK that stands still for 50 µs bring resends (R361, R362). The bytes of the messages in LCTRL flits are the model's
choice, log entry 29; that both ends of a link narrow it to the lanes told is its reading, log entry 30. -/
def Obligations.FlitsArrive : Prop :=
  ∀ (s : State) (l : Nat), s.linkLive l = true →
    let x := s.link l
    (∀ flit, flitGood flit = false → exec (.flitReceive l flit) s = .next (s.addRegAt Reg.LNK_LINK_ERR_CRC_FAIL l 1)) ∧
    (∀ flit, flitGood flit = true →
      let h := headerOf (leNat (flit.take 6))
      let y := { (x.acked h.ack s.now).earn h with goodSince := s.now }
      let payload := (flit.drop 6).take 242
      (h.type = 0 → exec (.flitReceive l flit) s = .next (s.setLink l y)) ∧
      (h.type = 1 → exec (.flitReceive l flit) s =
        .next ((s.setLink l (y.data ⟨h.seq, h.vc, h.paidBy, payload, s.instant⟩ s.now)).absorb l)) ∧
      (h.type = 2 → leNat (payload.take 1) = lcPark → exec (.flitReceive l flit) s = .next ((s.setLink l y).linkDown l 4)) ∧
      (h.type = 2 → leNat (payload.take 1) = lcLane → exec (.flitReceive l flit) s =
        .next ((s.setLink l y).spareLanes l (leNat ((payload.drop 1).take 1)))) ∧
      (h.type = 2 → leNat (payload.take 1) = lcRank → exec (.flitReceive l flit) s =
        .next ((s.setLink l y).setRegAt Reg.LNK_LINK_STATUS_PEER_RANK l (leNat ((payload.drop 4).take 4)))) ∧
      (h.type = 2 → leNat (payload.take 1) = lcTrain → exec (.flitReceive l flit) s =
        .next (((s.setLink l y).setRegAt Reg.LNK_LINK_STATUS_PEER_RANK l (leNat ((payload.drop 4).take 4))).setRegAt
          Reg.LNK_LINK_STATUS_PEER_LINK l (leNat ((payload.drop 1).take 1))))) ∧
    (∀ lane, lane < 4 → bitOf (s.regs.getAt Reg.LNK_LINK_STATUS_LANES l) lane = true →
      let m := s.regs.getAt Reg.LNK_LINK_STATUS_LANES l - 2 ^ lane
      let s1 := ((s.addRegAt Reg.LNK_LINK_ERR_SPARES l 1).event 4 0x10A0 l lane).setRegAt Reg.LNK_LINK_STATUS_LANES l m
      s.spareLanes l m = if lanesOn m < 2 then s1.linkDown l 3 else s1) ∧
    (∀ (y : LinkSt) (f : RxFlit) (now : Nat),
      (f.seq = y.rxNext → y.data f now =
        (({ y with missing := Tbl.del y.missing f.seq }).deliver f).deliverHeld y.held.length) ∧
      (f.seq ≠ y.rxNext → 2 ^ 15 ≤ seqAfter f.seq y.rxNext → y.data f now = y) ∧
      (f.seq ≠ y.rxNext → seqAfter f.seq y.rxNext < 2 ^ 15 → (∀ g ∈ y.held, g.seq ≠ f.seq) →
        (y.data f now).held = y.held ++ [f] ∧ (y.data f now).rxNext = y.rxNext ∧
        let gaps := ({ y with missing := Tbl.del y.missing f.seq }).newGaps f.seq
        (y.data f now).lctrl = y.lctrl ++ nackFlits gaps.length gaps ∧ ∀ k ∈ gaps, Tbl.find (y.data f now).missing k = some now) ∧
      (f.seq ≠ y.rxNext → f.seq < 2 ^ 16 → y.rxNext < 2 ^ 16 → seqAfter f.seq y.rxNext ≤ 16 → y.held = [] → y.missing = [] →
        let n := seqAfter f.seq y.rxNext
        (y.data f now).lctrl = y.lctrl ++ [leBytes 1 lcNack ++ leBytes 1 n ++
          (List.range n).flatMap fun i => leBytes 2 ((y.rxNext + i) % 2 ^ 16)])) ∧
    (∀ ack now e, e ∈ (x.acked ack now).replay ↔
      e ∈ x.replay ∧ (seqAfter ack e.seq = 0 ∨ 2 ^ 15 < seqAfter ack e.seq)) ∧
    (∀ seqs, exec (.nackReceive l seqs) s = .next (s.setLink l { x with
      resend := x.resend ++ (seqs.take 16).filter fun k => (x.replay.any fun e => e.seq == k) && !x.resend.contains k })) ∧
    (∀ late, late = (x.missing.filter fun e => decide (e.2 + 25000 ≤ s.now)).map Prod.fst →
      late ≠ [] → exec (.nackRepeat l) s = .next (s.setLink l (x.nack late s.now))) ∧
    (∀ e, x.replay.head? = some e → x.ackSince + 50000 ≤ s.now → e.seq ∉ x.resend →
      exec (.replayTimeout l) s = .next (s.setLink l { x with
        resend := e.seq :: x.resend
        ackSince := s.now }))

/-- A link without a good flit for 10 µs goes down; held packets go out again after LINK_FINAL, which a link still up keeps till
it goes down, or are lost after 1 ms; one of another module that finds no route returns UNREACHABLE; a lane is spared and the
neighbour told, and fewer than two take the link down; training tells rank, link and lanes, brings the link UP at P or F while no
step runs, else STANDBY, and asks the neighbour for its routes where a check waits for them; more than 65,536 retransmissions in a
second are posted (R363, R364, R368, R369, R396). The bytes of these messages are the model's choice, log entry 29; that a
LINK_FINAL is kept by a link that is up, and that a link trains to STANDBY within a step, is its reading, log entry 30, and so is
the probe of a link that comes to run, log entry 31. -/
def Obligations.LinksGoDownAndReturn : Prop :=
  ∀ (s : State) (l : Nat), l < 32 →
    let x := s.link l
    (s.linkLive l = true → x.goodSince + 10000 ≤ s.now →
      exec (.linkSilenceTimeout l) s = .next (s.linkDown l 2)) ∧
    (∀ reason, s.linkLive l = true → reason < 8 → x.unsent = [] → x.early = none →
      let s' := s.linkDown l reason
      s'.linkState l = 0 ∧ s'.regs.getAt Reg.LNK_LINK_STATUS_DOWN_REASON l = reason ∧
      (s'.link l).downHeld = x.downHeld ++ x.sentPackets ∧
      s'.net.ctrl = s.net.ctrl ++ [(s.regs.getAt Reg.LNK_LINK_STATUS_PEER_RANK l,
        linkFinalData (s.regs.getAt Reg.LNK_LINK_STATUS_PEER_LINK l) x.firstPartial)]) ∧
    (∀ a n q t, s.hasCtrl l CT.linkFinal a → n < 32 → leNat ((a.pkt.data.drop 1).take 1) = n →
      leNat ((a.pkt.data.drop 2).take 2) = q → s.regs.getAt Reg.LNK_LINK_STATUS_PEER_RANK n = a.pkt.src →
      let y := (s.consume l a).link n
      (s.linkLive n = true → exec (.linkFinal l) s = .next ((s.consume l a).setLink n { y with early := some q })) ∧
      (s.linkLive n = false → y.downSince = some t → s.now ≤ t + 1000000 → exec (.linkFinal l) s =
        .next (((s.consume l a).setLink n { y with
          downHeld := []
          downSince := none
          early := none }).each (y.downHeld.filter fun p => decide (seqAfter p.1 q < 2 ^ 15)) fun s p =>
            s.passOn p.2.1 p.2.2))) ∧
    (∀ vc (p : Packet), (p.src = s.rank ∨ s.routeUp p.dst ≠ [] → s.passOn vc p = s.sendPacket vc p) ∧
      (p.src ≠ s.rank → s.routeUp p.dst = [] → s.passOn vc p = s.sendUnreachable p)) ∧
    (∀ t, x.downSince = some t → t + 1000000 ≤ s.now → exec (.linkFinalTimeout l) s =
      .next ((s.setLink l { x with
        downHeld := []
        downSince := none }).each x.downHeld fun s p => s.loseTransit p.2.2)) ∧
    (∀ lane, s.linkLive l = true → lane < 4 → bitOf (s.regs.getAt Reg.LNK_LINK_STATUS_LANES l) lane = true →
      let m := s.regs.getAt Reg.LNK_LINK_STATUS_LANES l - 2 ^ lane
      let s1 := (((s.setLink l { x with lctrl := x.lctrl ++ [leBytes 1 lcLane ++ leBytes 1 m] }).addRegAt
        Reg.LNK_LINK_ERR_SPARES l 1).event 4 0x10A0 l lane).setRegAt Reg.LNK_LINK_STATUS_LANES l m
      exec (.laneSpare l lane) s = .next (if lanesOn m < 2 then s1.linkDown l 3 else s1)) ∧
    (∀ peerRank peerLink lanes, s.linkState l ≤ 1 → s.fab.powered = true → s.fab.parked = false → s.fab.trip = none →
      x.injStopped = false → x.injLane = none → lanes < 16 → 2 ≤ lanesOn lanes → peerRank < 2 ^ 20 → peerLink < 32 →
      ∃ s', exec (.linkTrainRetry l peerRank peerLink lanes) s = .next s' ∧
        s'.linkState l = (if s.linkState l = 1 ∧ s.stepState < 2 then 2 else 3) ∧
        s'.regs.getAt Reg.LNK_LINK_STATUS_LANES l = lanes ∧ s'.peerRank l = peerRank ∧
        ((∀ d ∈ s.host.descs, ¬ (d.taken = true ∧ d.opcode = 0x21)) →
          let y := { x.fresh with goodSince := s.now }
          (s.regs.get Reg.HIF_DEV_STATUS_STATE ≠ 1 → s'.link l = y) ∧
          (s.regs.get Reg.HIF_DEV_STATUS_STATE = 1 → s'.link l = y.enqueue VC.ctrl ((s.packet peerRank PK.ctrl 0 0 0
            (clean (leBytes 1 CT.probe ++ leBytes 1 0 ++ leBytes 2 0)) false true).flits VC.ctrl))) ∧
        s' = { s with
          regs := s'.regs
          net := s'.net
          out := .flit l (flitSeal (flitBody ⟨0, 2, 0, 0, 0, 0, 0⟩ (trainMessage l lanes s.rank))) :: s.out }) ∧
    (∃ s', exec .linkRetryRateCheck s = .next s' ∧ s'.tiles = s.tiles ∧
      (s.now < s.net.rateAt + 1000000000 → s' = s) ∧
      (s.net.rateAt + 1000000000 ≤ s.now →
        let more := s.regs.getAt Reg.LNK_LINK_ERR_RETRANS l - Tbl.get s.net.retrans 0 l
        s'.net.rateAt = s.now ∧ Tbl.get s'.net.retrans 0 l = s.regs.getAt Reg.LNK_LINK_ERR_RETRANS l ∧
        (s.host.events.length + 32 ≤ 1024 → 65536 < more → ∃ e ∈ s'.host.events, e.ev = ⟨0x10A1, 0, 4, l, more⟩)))

/-- Injection is armed where LNK_INJ_PERMIT allows it, and its generator starts from SEED; a write without permission is kept
before enable, and ignored and posted after it. A dropped flit leaves its slot IDLE with its SEQ used, a corrupted one has bit BIT
flipped on the chosen side of the CRC; each selection is counted and logged (R391 to R394). That a write of LNK_INJ_CTL starts the
link's generator again is the model's reading, log entry 24. -/
def Obligations.FaultInjection : Prop :=
  ∀ (s : State) (l ctl : Nat), l < 32 →
    (∀ c ∈ [(1, Instr.injectDrop l ctl), (2, .injectCorrupt l ctl), (3, .injectReorder l ctl), (4, .injectLaneFail l ctl),
        (5, .injectLinkFail l ctl)], bitsOf ctl 2 0 = c.1 →
      ((bitOf (s.regs.get Reg.LNK_INJ_PERMIT_LINKS) l = true ∨ s.locked = false) →
        ∃ s', exec c.2 s = .next s' ∧ s'.injMode l = c.1 ∧
          (s'.link l).injState = (if bitsOf ctl 57 27 = 0 then 1 else bitsOf ctl 57 27) ∧ (s'.link l).injLeft = 0 ∧
          s'.host = s.host ∧ s'.tiles = s.tiles ∧ ∀ k, k ≠ l → s'.link k = s.link k) ∧
      (bitOf (s.regs.get Reg.LNK_INJ_PERMIT_LINKS) l = false → s.locked = true →
        exec c.2 s = .next (s.event 4 0x20A2 l 0))) ∧
    (∀ f key rest y, let a := (s.link l).assign f key rest s.now
      s.select l a.2 f.vc a.1.seq = (true, y) →
      let s1 := (s.setLink l y).noteInjection l a.1.seq
      (s.injMode l = 1 → s.sendNew l f key rest = s1.putFlit l 0 0 0 0 [] id id) ∧
      (s.injMode l = 2 → s.regs.getAt Reg.LNK_INJ_CTL_STAGE l = 0 → s.sendNew l f key rest =
        s1.sendData l a.1 id fun b => flipBit b (s.regs.getAt Reg.LNK_INJ_CTL_BIT l)) ∧
      (s.injMode l = 2 → s.regs.getAt Reg.LNK_INJ_CTL_STAGE l ≠ 0 → s.sendNew l f key rest =
        s1.sendData l a.1 (fun b => flipBit b (s.regs.getAt Reg.LNK_INJ_CTL_BIT l)) id)) ∧
    (∀ x vc seq, s.injArmed l = false → s.select l x vc seq = (false, x)) ∧
    (∀ x vc seq y, s.select l x vc seq = (true, y) →
      bitOf (s.regs.get Reg.LNK_INJ_PERMIT_LINKS) l = true ∧ 1 ≤ s.injMode l ∧ s.injMode l ≤ 5) ∧
    (∀ q, let s' := s.noteInjection l q
      s'.net.injLog = (⟨s.now, q, l, s.injMode l⟩ :: s.net.injLog).take 64 ∧
      s'.regs = s.regs.addAt Reg.LNK_INJ_COUNT_INJECTED l 1)

/-- A WRITE that arrives is applied and acknowledged, with poison and an error when its CRC fails; a WACK counts for its transfer;
a READ_REQ is answered with the bytes; a READ_RESP brings them; a packet for another rank goes on with its hop class raised, or is
discarded with UNREACHABLE (R371, R374, R375, R377). That one WACK travels per packet and how a READ_REQ names the channel of its
answer is the model's choice, log entry 29; that host memory comes in the view of the READ_RESP is its reading, log entry 39. -/
def Obligations.PacketsArrive : Prop :=
  ∀ (s : State) (l : Nat) (a : Arrived),
    let p := a.pkt
    let s0 := s.consume l a
    (s.arrived l (fun p => p.dst == s.rank && (p.kind == PK.write || decide (10 ≤ p.kind))) = some a →
      (10 ≤ p.kind → exec (.packetReceive l) s = .next (s0.addRegAt Reg.LNK_LINK_ERR_CRC_FAIL l 1)) ∧
      (∀ x, p.kind < 10 → p.good = true → s.judge ⟨[0, 1], true⟩ (s.rank * 2 ^ 44 + p.addr) p.len = none →
        x = s.rank * 2 ^ 44 + p.addr → (addrWindow x = 1 → s.memOpen (addrOffset x) p.len = true) →
        exec (.packetReceive l) s = .next ((s0.put x p.pbytes).sendWack p.src p.tid p.tseq false)) ∧
      (p.kind < 10 → s.peerWaits p = true → exec (.packetReceive l) s = .next s) ∧
      (p.kind < 10 → p.good = true → s.judge ⟨[0, 1], true⟩ (s.rank * 2 ^ 44 + p.addr) p.len ≠ none →
        exec (.packetReceive l) s = .next (s0.sendWack p.src p.tid p.tseq true)) ∧
      (p.kind < 10 → p.good = false → s.judge ⟨[0, 1], true⟩ (s.rank * 2 ^ 44 + p.addr) p.len = none →
        s.peerWaits p = false → exec (.packetReceive l) s = .next (((s0.event 4 0x40A2 l p.src).put (s.rank * 2 ^ 44 + p.addr)
          (p.data.map fun b => (b, true))).sendWack p.src p.tid p.tseq true))) ∧
    (∀ t ch id slot, s.hasPacket l PK.wack a → s.txn p.tid p.tseq = some t → t.read = false → t.rank = p.src →
      t.owner = .xfer ch id slot →
      (leNat (p.data.take 1) = 0 → exec (.wack l) s =
        .next ((s0.answerTxn t).setChan ch (((s0.answerTxn t).chan ch).ack id slot false))) ∧
      (leNat (p.data.take 1) ≠ 0 → exec (.wack l) s = .next (s0.failTxn p.tid p.tseq))) ∧
    (s.hasPacket l PK.readReq a → s.judge ⟨[0, 1], true⟩ (s.rank * 2 ^ 44 + p.addr) p.len = none →
      s.peerWaits p = false →
      let g := s0.get ⟨[], [], [], []⟩ (s.rank * 2 ^ 44 + p.addr) p.len
      exec (.readReq l) s = .next (g.st.sendPacket p.answerVc
        (g.st.packet p.src PK.readResp p.addr p.tid p.tseq g.bytes false p.last))) ∧
    (∀ v t ch id slot, s.hasPacket l PK.readResp a → s.txn p.tid p.tseq = some t → t.read = true → t.rank = p.src →
      t.owner = .xfer ch id slot → p.len ≠ 0 → s.respWaits p = false →
      let s1 := s0.answerTxn t
      let c := (s1.chan ch).readDone id slot
      exec (.readResp l v) s = .next ((s1.setChan ch { c with
        busy := c.busy.map fun x => if x.id = id then x.take (t.off + 4096 * (p.tseq - t.first)) p.pbytes else x }).flush v ch)) ∧
    (s.arrived l (fun p => p.dst != s.rank) = some a →
      (p.hop < 16 → s.routeUp p.dst ≠ [] →
        exec (.packetForward l) s = .next (s0.sendPacket a.vc { p with hop := p.hop + 1 })) ∧
      (16 ≤ p.hop → exec (.packetForward l) s = .next (s0.sendUnreachable p)) ∧
      (s.routeUp p.dst = [] → p.src ≠ s.rank → exec (.packetForward l) s = .next (s0.sendUnreachable p))) ∧
    (s.hasPacket l PK.unreachable a → leNat (p.data.take 1) ∈ [0, 1, 5, 6] → exec (.unreachable l) s =
      .next ((s0.event 4 0x40A1 0 (leNat ((p.data.drop 1).take 4))).failTxn p.tid p.tseq))

/-- ROUTE_LOAD reads the whole image and clears an armed swap, or meets a bus error and changes nothing; the standby bank is then
exactly its entries; a ROUTE_ARM asks the neighbours and, when every rank passes the route check, arms the swap for its step; a
probe is answered with the HOPS of every rank (R380 to R382). The bytes of a probe and its answer are the model's choice, log
entry 29; that they travel over the link itself is its reading, log entry 31. -/
def Obligations.RouteTables : Prop :=
  ∀ s : State,
    (∀ r j v d, s.net.loading = none → s.ready r j 0x20 = some d → (d.eval = true → s.evalOn = true) →
      s.host.stuck d.unit = false → s.judge .image (d.n 0 8) (8 * (2048 + d.n 8 2)) = none → d.n 0 8 % 64 = 0 →
      d.n 8 2 ≤ 4096 → s.localOpen (d.n 0 8) (8 * (2048 + d.n 8 2)) = true →
      let g := (s.take r j).fetch v (d.n 0 8) (8 * (2048 + d.n 8 2))
      let s1 := (g.st.setReg Reg.LNK_ROUTE_STATUS_ARMED 0).setReg Reg.LNK_ROUTE_ARMED_STEP 0
      (g.err = false → g.poison = false → exec (.routeLoad r j v) s =
        .next { s1 with net := { s1.net with loading := some (r, j, 0x0000, bankOf g.data (2048 + d.n 8 2)) } }) ∧
      (g.err = true → exec (.routeLoad r j v) s =
        .next { g.st with net := { g.st.net with loading := some (r, j, 0x4080, g.st.net.standby) } })) ∧
    (∀ r j st bank, s.net.loading = some (r, j, st, bank) → st ≠ 0x3020 → exec .routeLoadDone s =
      .next (({ s with net := { s.net with
        standby := bank
        loading := none } }).complete r j st 0 0)) ∧
    (∀ (b : List Byte) (n i : Nat), i < n →
      Tbl.get (bankOf b n) 0 i = leNat ((b.drop (8 * i)).take 8) &&& routeBits) ∧
    (∀ r j d, s.working r j 0x21 = none → s.ready r j 0x21 = some d → s.host.stuck d.unit = false →
      (d.eval = true → s.evalOn = true) →
      (∀ n, s.stepNow = some n → n < d.n 0 8) → exec (.routeArm r j) s = .next ((s.take r j).probe 1)) ∧
    (∀ r j d, s.working r j 0x21 = some d → s.answered s.net.peersNext = true →
      let check := s.routeCheck s.net.standby s.nextRank s.net.peersNext fun l =>
        Tbl.get (Tbl.get s.net.peersNext [] l) (s.peerRank l) (2 ^ 20 + 1)
      (check = none → exec (.routeArm r j) s =
        .next (((s.setReg Reg.LNK_ROUTE_STATUS_ARMED 1).setReg Reg.LNK_ROUTE_ARMED_STEP (d.n 0 8)).complete r j 0x0000 0 0)) ∧
      (∀ st rank, check = some (st, rank) → exec (.routeArm r j) s = .next (s.complete r j st 0 rank))) ∧
    (∀ bank self peers rankOf, s.routeCheck bank self peers rankOf = none →
      routeLinks (routeEntry bank self self) = 0 ∧ ∀ r l, r < 2 ^ 20 → r ≠ self → l ∈ s.named (routeEntry bank self r) →
        let h := routeHops (routeEntry bank self r)
        (h = 1 → rankOf l = r) ∧ (2 ≤ h → Tbl.get (Tbl.get peers [] l) 0 r + 1 = h)) ∧
    (∀ l a, s.hasCtrl l CT.probe a → leNat ((a.pkt.data.drop 1).take 1) = 0 →
      exec (.routeProbe l) s = .next ((s.consume l a).each (List.range 161) fun s1 i => s1.sendOver l a.pkt.src
        (leBytes 1 CT.answer ++ leBytes 1 0 ++ leBytes 2 0 ++ leBytes 4 (i * 4080) ++ leBytes 4 s.rank ++
          packHops s.net.active s.rank (i * 6528) (min 6528 (2 ^ 20 - i * 6528))))) ∧
    (∀ l dst data, s.sendOver l dst data = s.setLink l ((s.link l).enqueue VC.ctrl
      ((s.packet dst PK.ctrl 0 0 0 (clean data) false true).flits VC.ctrl)))

/-! ### Time -/

/-- A SYNC carries the announced key and the stamps, T3 inserted at the egress and T4 taken at the ingress, to 2^-8 ns; its
receipt gives the offset of R448, the link's record and the choice of source; a module that starts to follow acquires, and a
follower steers by its parent only, and locks after 64 SYNCs within 20 ns; a parent that misses four is lost. The external
reference, the oscillator and the oven act as R444, R452 and R457 say (R444, R447, R448, R449, R452, R457). When a module acquires
again, how T3 and T4 come, and the bound in BACKUP are the model's reading, log entry 44. -/
def Obligations.TimeSources : Prop :=
  ∀ (s : State) (l : Nat),
    (∀ stamp, s.linkLive l = true → s.timeState ≠ 4 → ∃ p : Packet, exec (.syncSend l stamp) s =
        .next (s.setLink l ((s.link l).enqueue VC.time (p.flits VC.time))) ∧
      p.kind = PK.time ∧ p.dst = s.peerRank l ∧ p.good = true ∧
      (stamp < 256 → instantOf (p.data.drop 8) = stamp * 2 ^ 24) ∧ p.data.take 3 =
        leBytes 1 s.announced.1.prio ++ leBytes 1 s.announced.1.cls ++ leBytes 1 s.announced.2 ∧
      ∀ t, t + stamp % 256 * 2 ^ 24 < 2 ^ 96 → (p.stamped t).good = true ∧
        instantOf ((p.stamped t).data.drop 8) = t + stamp % 256 * 2 ^ 24 ∧
        ∀ (k : Nat) (f g : TxFlit),
          (p.flits VC.time)[k]? = some f → ((p.stamped t).flits VC.time)[k]? = some g → f.egress t = g.payload) ∧
    (∀ (a : Arrived) (stamp : Nat), s.hasPacket l PK.time a →
      let b := a.pkt.data
      let t3 : Int := instantOf (b.drop 8)
      let t1 : Int := instantOf (b.drop 20)
      let t2 : Int := instantOf (b.drop 32)
      let t4 : Nat := a.at_ + stamp % 256 * 2 ^ 24
      let d : Int := (((t4 : Int) - t1) - (t3 - t2)) / 2
      let θ : Int := t3 + d + signedOf 16 (s.regs.getAt Reg.TIM_LINK_ASYM_ASYM_PS l) * 2 ^ 32 / 1000 / 2 - (t4 : Int)
      t1 ≠ 0 →
      let s1 := ((s.consume l a).setLinkTime l ⟨true, leNat (b.take 1), leNat ((b.drop 1).take 1), leNat ((b.drop 2).take 1),
        leNat ((b.drop 4).take 4) % 2 ^ 20, t3.toNat, t4, θ, 0⟩).setRegAt Reg.TIM_LINK_DELAY_DELAY_PS l (toPs d).toNat
      exec (.syncReceive l stamp) s = .next
        (if (s1.chooseSource false).time.parent = some l then
          (s1.chooseSource false).parentSync θ (leNat ((b.drop 1).take 1))
         else s1.chooseSource false)) ∧
    (∀ (θ : Int) (cls : Nat),
      (s.locked = true → (s.steer θ).time.ns = s.time.ns ∧ (s.steer θ).time.slew = θ) ∧
      (s.locked = false → s.time.frac < 2 ^ 32 → 0 ≤ (s.time.ns * 2 ^ 32 + s.time.frac : Nat) + θ →
        ((s.time.ns * 2 ^ 32 + s.time.frac : Nat) : Int) + θ < 2 ^ 96 →
        (((s.steer θ).time.ns * 2 ^ 32 + (s.steer θ).time.frac : Nat) : Int) =
          ((s.time.ns * 2 ^ 32 + s.time.frac : Nat) : Int) + θ) ∧
      (s.timeState = 1 → s.boot.ovenWarm = true → θ.natAbs ≤ 20 * 2 ^ 32 →
        ((s.parentSync θ cls).timeState = if 64 ≤ s.time.lockCount + 1 then 2 else 1))) ∧
    (∀ k lost, (s.follow k lost).time.parent = some k ∧
      (s.isGm = true ∨ s.time.parent ≠ some k → (s.follow k lost).time.lockCount = 0) ∧
      (s.timeState = 0 ∨ s.timeState = 3 → (s.follow k lost).timeState = 1) ∧
      (s.timeState = 2 → lost = false → (s.isGm = true ∨ s.time.parent ≠ some k) → (s.follow k lost).timeState = 1) ∧
      (s.timeState = 2 → (lost = true ∨ (s.isGm = false ∧ s.time.parent = some k)) → (s.follow k lost).timeState = 2)) ∧
    (∀ x, s.linkTime l = x → x.valid = true →
      (x.missed < 3 → exec (.syncMissed l) s = .next (s.setLinkTime l { x with missed := x.missed + 1 })) ∧
      (3 ≤ x.missed → s.time.parent = some l → exec (.syncMissed l) s = .next ((s.setLinkTime l { x with
        missed := 4
        valid := false }).sourceLost))) ∧
    (∀ error : Int, s.regs.flag Reg.TIM_SRC_CTL_EXT_EN = true → s.timeState ≠ 4 →
      (1000000 < error → exec (.ppsEdge error) s = .next s.extLoss) ∧
      (error.natAbs ≤ 2000 → s.time.pps + 1 < 16 → ∃ s', exec (.ppsEdge error) s = .next s' ∧
        s'.time.pps = s.time.pps + 1 ∧ s'.regs = s.regs ∧ s'.tiles = s.tiles) ∧
      (error.natAbs ≤ 2000 → 16 ≤ s.time.pps + 1 → ∃ s', exec (.ppsEdge error) s = .next s' ∧
        s'.regs.flag Reg.TIM_STATUS_EXT_LOCKED = true ∧ s'.tiles = s.tiles)) ∧
    (s.regs.flag Reg.TIM_SRC_CTL_EXT_EN = true → ∃ s', exec .ref10mLoss s = .next s' ∧
      s'.regs.flag Reg.TIM_STATUS_EXT_LOCKED = false ∧ s'.time.pps = 0 ∧ s'.time.ns = s.time.ns ∧
      (s.regs.flag Reg.TIM_STATUS_EXT_LOCKED = true → s.isGm = true → s.timeState = 2 → s'.timeState = 3)) ∧
    (s.timeState ≠ 4 →
      let s1 : State := { s.unlockTime with time := { s.unlockTime.time with
        holdErr := s.errPs
        holdSince := s.now } }
      exec .oscillatorFail s = .next (((s1.setTimeState 4).setReg Reg.TIM_STATUS_ERR_PS
        (max s.errPs (100000 + (150 * s.regs.get Reg.TIM_STATUS_HOPS + 100)))).event 5 0x60C0 0 0)) ∧
    (∃ s', exec .ovenWarm s = .next s' ∧ s'.boot = { s.boot with ovenWarm := true } ∧ s'.time.ns = s.time.ns ∧
      (1 < s.timeState → s' = { s with boot := { s.boot with ovenWarm := true } }))

/-- TIM_SET and PTP give the seconds before enable; the time page is written as SEQ + 1, its fields, SEQ + 2; PTM answers the
host's time. With no command a nanosecond of device time passes on a powered module, at most 42,949 units of 2^-32 ns away from
the oscillator's, and never backward (R442, R443, R454, R455, R459). That an empty queue lets a nanosecond pass is the model's
choice, log entry 3; PTP's epoch and its framing are taken from outside the spec, log entry 64. -/
def Obligations.TimeService : Prop :=
  ∀ s : State,
    (∀ v, v < 2 ^ 64 → s.locked = false → ∃ s', exec (.timSet v) s = .next s' ∧ s'.time.ns = v ∧ s'.time.frac = 0 ∧
      s'.regs.flag Reg.TIM_STATUS_SECONDS_SET = true ∧ s'.tiles = s.tiles) ∧
    (∀ v, s.locked = true → exec (.timSet v) s = .next s) ∧
    (s.regs.flag Reg.TIM_PAGE_VALID = true →
      let a := s.regs.get Reg.TIM_PAGE_BASE * 4096
      let q := s.time.pageSeq
      exec .timePageWrite s = .next { s with
        out := .hostWrite a (leBytes 4 (q + 2)) false :: .hostWrite (a + 4) s.pageBytes false ::
          .hostWrite a (leBytes 4 (q + 1)) false :: s.out
        time := { s.time with pageSeq := (q + 2) % 2 ^ 32 } } ∧ s.pageBytes.length = 60) ∧
    (∀ ns, s.host.ptmOn = true → exec (.ptmExchange ns) s = .next { s with time := { s.time with
      ptm := ns
      ptmAt := s.time.ns } }) ∧
    (∀ seconds utc offset,
      (s.regs.get Reg.TIM_SRC_CTL_PTP_ROLE = 1 → (s.timeState = 2 ∨ s.timeState = 3) →
        exec (.ptpMessage seconds utc offset) s = .next (s.emit (.ptp s.ptpStamp))) ∧
      (s.regs.get Reg.TIM_SRC_CTL_PTP_ROLE = 2 → s.locked = false →
        let ns := ((seconds + 378691200) * 1000000000 + s.time.ns % 1000000000) % 2 ^ 64
        let s1 := ({ s.setReg Reg.TIM_SRC_CTL_TAI_UTC utc with time := { s.time with ns := ns } }).setFlag
          Reg.TIM_STATUS_SECONDS_SET true
        (∃ s', exec (.ptpMessage seconds utc offset) s = .next s' ∧ s'.regs.flag Reg.TIM_STATUS_SECONDS_SET = true ∧
          s'.tiles = s.tiles ∧ (s.regs.flag Reg.TIM_SRC_CTL_EXT_EN = true → s'.time.ns = ns)) ∧
        (s.timeState ≠ 0 → s1.leads = false → s.regs.flag Reg.TIM_SRC_CTL_EXT_EN = false →
          exec (.ptpMessage seconds utc offset) s = .next (s1.steer offset))) ∧
      (s.regs.get Reg.TIM_SRC_CTL_PTP_ROLE = 2 → s.locked = true → s.regs.flag Reg.TIM_SRC_CTL_EXT_EN = false →
        exec (.ptpMessage seconds utc offset) s = .next ((s.setReg Reg.TIM_SRC_CTL_TAI_UTC utc).steer offset))) ∧
    (s.pending = [] → s.fab.powered = false → step s = .next s) ∧
    (s.pending = [] → s.fab.powered = true → s.fab.limiter = false → s.time.frac < 2 ^ 32 →
      s.time.ns * 2 ^ 32 + s.time.frac + 2 ^ 32 + 42949 < 2 ^ 96 →
      ∃ s', step s = .next s' ∧ s'.stack = s.stack ∧ s'.host = s.host ∧ s'.regs = s.regs ∧
        s.time.ns * 2 ^ 32 + s.time.frac + 2 ^ 32 ≤ s'.time.ns * 2 ^ 32 + s'.time.frac + 42949 ∧
        s'.time.ns * 2 ^ 32 + s'.time.frac ≤ s.time.ns * 2 ^ 32 + s.time.frac + 2 ^ 32 + 42949 ∧
        (∀ t, (s'.tile t).mem = (s.tile t).mem ∧ (s'.tile t).g = (s.tile t).g ∧ (s'.tile t).pc = (s.tile t).pc))

/-! ### Attestation and management -/

/-- The SPDM responder answers each request in its order over DOE, and with ERROR out of order; signed answers need the identity;
the management port takes an image in RECOVERY, whose header stands only when every check passes, and reports the telemetry (R509,
R513, R514, R534). The layouts of the SPDM messages and the framing of both ports are taken from outside the spec, log entry 25.
-/
def Obligations.Attestation : Prop :=
  ∀ (s : State) (q : List Byte),
    let b := s.boot
    (s.doeReady = true → msgByte q 0 = 0x10 → msgByte q 1 = 0x84 → 4 ≤ q.length → exec (.getVersion q) s =
      .next (({ s with boot := { b with
        spdm := 1
        vca := q ++ versionResponse
        certs := []
        measured := [] } }).emit (.doe versionResponse))) ∧
    (∀ c ∈ [(0xE1, 20, 1, Instr.getCapabilities q), (0xE3, 32, 2, .negotiateAlgorithms q), (0x81, 4, 3, .getDigests q),
        (0x82, 8, 3, .getCertificate q), (0x83, 36, 3, .challenge q), (0xE0, 37, 3, .getMeasurements q)],
      s.doeReady = true → msgByte q 0 = 0x12 → msgByte q 1 = c.1 → c.2.1 ≤ q.length → b.spdm < c.2.2.1 →
      exec c.2.2.2 s = .next (s.emit (.doe (spdmError 0x04)))) ∧
    (s.doeReady = true → msgByte q 0 = 0x12 → msgByte q 1 = 0xE1 → 20 ≤ q.length → 1 ≤ b.spdm →
      exec (.getCapabilities q) s = .next (s.connect 2 q capabilitiesResponse)) ∧
    (s.doeReady = true → msgByte q 0 = 0x12 → msgByte q 1 = 0xE3 → 32 ≤ q.length → 2 ≤ b.spdm →
      exec (.negotiateAlgorithms q) s = .next (s.connect 3 q (algorithmsResponse q))) ∧
    (s.doeReady = true → msgByte q 0 = 0x12 → msgByte q 1 = 0x81 → 4 ≤ q.length → 3 ≤ b.spdm →
      exec (.getDigests q) s = .next (s.certExchange q (spdmHead 0x12 0x01 0 1 ++ digest32 s.certChain))) ∧
    (s.doeReady = true → msgByte q 0 = 0x12 → msgByte q 1 = 0x82 → 8 ≤ q.length → 3 ≤ b.spdm →
      exec (.getCertificate q) s = .next (if msgByte q 2 % 16 = 0 ∧ imgNat q 4 2 < s.certChain.length then
        s.certExchange q (s.certResponse q) else s.emit (.doe (spdmError 0x01)))) ∧
    (s.doeReady = true → msgByte q 0 = 0x12 → msgByte q 1 = 0x83 → 36 ≤ q.length → 3 ≤ b.spdm →
      (s.regs.flag Reg.BOOT_STATUS_IDENTITY_OK = false →
        exec (.challenge q) s = .next (s.emit (.doe (spdmError 0x05)))) ∧
      (s.regs.flag Reg.BOOT_STATUS_IDENTITY_OK = true → msgByte q 2 % 16 = 0 → (msgByte q 3 < 2 ∨ msgByte q 3 = 0xFF) →
        ∃ answer, exec (.challenge q) s = .next { s with
          drawn := s.drawn + 1
          out := .doe answer :: s.out } ∧ answer.take 4 = spdmHead 0x12 0x03 0 1)) ∧
    (s.doeReady = true → msgByte q 0 = 0x12 → msgByte q 1 = 0xE0 → 37 ≤ q.length → 3 ≤ b.spdm →
      bitOf (msgByte q 2) 0 = true → s.regs.flag Reg.BOOT_STATUS_IDENTITY_OK = false →
      exec (.getMeasurements q) s = .next (s.emit (.doe (spdmError 0x05)))) ∧
    (s.doeReady = true → msgByte q 0 = 0x12 → msgByte q 1 = 0xE0 → 37 ≤ q.length → 3 ≤ b.spdm →
      s.regs.flag Reg.BOOT_STATUS_IDENTITY_OK = true → (msgByte q 3 = 0 ∨ msgByte q 3 = 0xFF) →
      ∃ answer measured, exec (.getMeasurements q) s = .next { s with
        boot := { b with measured := measured }
        drawn := s.drawn + 1
        out := .doe answer :: s.out } ∧
      answer.take 2 = leBytes 1 0x12 ++ leBytes 1 0x60 ∧ (bitOf (msgByte q 2) 0 = true → measured = [])) ∧
    (∀ toB image, s.fab.powered = true → s.regs.get Reg.BOOT_STATUS_STAGE = 4 →
      let reason := imageReason false s.counter image
      exec (.pldmFirmwareUpdate toB image) s = .next (({ s with
        boot := b.setImage toB (if reason = 0 then image else []) }).mctpSend (leBytes 1 reason))) ∧
    (s.fab.powered = true → exec (.pldmPlatformMonitoring q) s = .next (s.mctpSend (q ++ leBytes 8 (s.bar0 0x700200) ++
      leBytes 8 (s.bar0 0x700208) ++ leBytes 8 (s.bar0 0x700210) ++ leBytes 8 (s.bar0 0x700218))))

/-! ### Steps -/

/-- STEP_ARM arms a step or is refused by the first failing row of Table 11.5; MB_ADMIT and MB_DROP are accepted for the armed
step only; at RELEASE_TIME the step starts in one action, or is held while another is open (R405 to R410, R491). What the checks
of Table 11.5 take as a training step, and STATE of a step armed behind, are the model's reading, log entry 34; so is the status
of a read that MB_ADMIT cannot use, log entry 35, and the release that waits for a park, log entry 50. -/
def Obligations.StepsAreArmedAndReleased : Prop :=
  ∀ (s : State) (r j : Nat) (v : HostView) (d : Desc),
    (s.ready r j 0x10 = some d → s.host.stuck d.unit = false →
      let c := s.armCfg d
      (d.n 40 3 = 0 → exec (.stepArm r j v) s = .next (s.complete r j 0x0000 0 0)) ∧
      (d.n 40 3 ≠ 0 → s.step.armed.isSome = true → exec (.stepArm r j v) s = .next (s.complete r j 0x2053 0 0)) ∧
      (∀ e, d.n 40 3 ≠ 0 → s.armRefusal c = some e → exec (.stepArm r j v) s = .next (s.complete r j e 0 0)) ∧
      (d.n 40 3 ≠ 0 → s.armRefusal c = none →
        s.step.armed = none ∧ (s.res.absent.any fun a => a.active && a.hold) = false ∧
        s.regs.flag Reg.SAF_STATUS_ISOLATED = false ∧ (c.training = true → s.res.exhausted = []) ∧
          ¬ (c.eval = true ∧ c.replay = true) ∧ c.mbTotal ≤ 65536 ∧ c.admitFirst + c.admitCount ≤ 65536 ∧
        (c.training = true → s.step.run = none → ∀ n, s.committed = some n → c.step = (n + 1) % 2 ^ 64) ∧
        (c.eval = true → s.committed = some c.step) ∧ s.judge .hostOnly c.record 74752 = none ∧ c.record % 4096 = 0 ∧
        (c.replay = false → ∃ s', exec (.stepArm r j v) s = .next s' ∧
          s'.step = { s.step with
            armed := some c
            admitted := []
            drops := []
            held := none } ∧
          s'.regs = (if s.stepState = 0 then s.regs.set Reg.TRN_STEP_STATUS_STATE 1 else s.regs) ∧
          s'.tiles = s.tiles ∧ s'.stack = s.stack ∧ s'.out = s.out ∧ s'.host.queue = s.host.queue)) ∧
      (d.n 40 3 ≠ 0 → s.armRefusal c = none → c.replay = true →
        (∀ b s1, s.replayRecord v c = (.ok b, s1) →
          exec (.stepArm r j v) s = .next (s1.armStep { c with original := b })) ∧
        (∀ e s1, s.replayRecord v c = (.error e, s1) →
          exec (.stepArm r j v) s = .next (s1.complete r j e.1 e.2 0)))) ∧
    (s.ready r j 0x11 = some d → s.host.stuck d.unit = false → (d.eval = true → s.evalOn = true) →
      (d.n 20 4 = 0 → exec (.mbAdmit r j v) s = .next (s.complete r j 0x0000 0 0)) ∧
      (∀ e, d.n 20 4 ≠ 0 → s.admitRefusal d = some e → exec (.mbAdmit r j v) s = .next (s.complete r j e 0 0)) ∧
      (∀ c, s.step.armed = some c → c.step = d.n 8 8 → c.eval = d.eval → c.admitFirst ≤ d.n 16 4 →
        d.n 16 4 < c.admitFirst + c.admitCount → (∀ m ∈ s.step.admitted, m.id ≠ d.n 16 4) →
        (min 4194304 (s.regs.get Reg.TRN_LIMITS_MAX_TOKENS) < d.n 20 4 → s.admitRefusal d = some 0x20B0) ∧
        (d.n 20 4 ≤ min 4194304 (s.regs.get Reg.TRN_LIMITS_MAX_TOKENS) →
          s.regs.getAt Reg.TRN_BUCKET_VALID (d.n 24 1 % 8) ≠ 0 →
          d.n 20 4 ≤ s.regs.getAt Reg.TRN_BUCKET_LEN (d.n 24 1 % 8) → s.admitRefusal d = none)) ∧
      (∀ t s1, d.n 20 4 ≠ 0 → s.admitRefusal d = none → s.tensor .local3 v (d.n 0 8) = (.ok t, s1) → t.fmt = Fmt.int32.code →
        t.mode = 0 → d.n 20 4 ≤ t.elems → s.localOpen (d.n 0 8) 64 = true → s.localOpen t.base (4 * d.n 20 4) = true →
        let g := s1.get v t.base (4 * d.n 20 4)
        (g.err = false → g.poison = true → exec (.mbAdmit r j v) s = .next (g.st.complete r j 0x3020 16 0)) ∧
        (g.err = false → g.poison = false → ∃ s' : State,
          exec (.mbAdmit r j v) s = .next (s'.complete r j 0x0000 0 (d.n 24 1 % 8)) ∧
          s' = { g.st with step := s'.step } ∧
          s'.step = { g.st.step with admitted := g.st.step.admitted ++ [⟨d.n 16 4, d.n 20 4, g.data⟩] }))) ∧
    (s.ready r j 0x2C = some d → s.host.stuck d.unit = false → (d.eval = true → s.evalOn = true) →
      (∀ c, s.step.armed = some c → c.step = d.n 0 8 → (d.n 16 1 = 3 ∨ d.n 16 1 = 4) →
        exec (.mbDrop r j) s = .next (({ s with step := { s.step with
          drops := s.step.drops ++ [(⟨d.n 8 4, d.n 12 4, d.n 16 1⟩ : MbDrop)] } }).complete r j 0x0000 0 0)) ∧
      ((∀ c, s.step.armed = some c → c.step ≠ d.n 0 8) → exec (.mbDrop r j) s = .next (s.complete r j 0x2053 0 0))) ∧
    (∀ c, s.step.armed = some c → c.release ≤ s.now →
      (s.stepState ≤ 1 → s.fab.parked = false → s.parkDue = false → exec (.stepRelease v) s = .next (s.releaseStep c)) ∧
      (2 ≤ s.stepState ∨ s.parkDue = true → s.step.held = none →
        exec (.stepRelease v) s = .next { s with step := { s.step with held := some s.now } })) ∧
    (∀ c, c.step < 2 ^ 64 → ((s.regs.release c).get Reg.TRN_STEP_NUM_STEP = c.step ∧
      (s.regs.release c).get Reg.TRN_STEP_STATUS_STATE = 2 ∧ (s.regs.release c).flag Reg.TRN_STEP_STATUS_FROZEN = false)) ∧
    (∀ t k, ((s.loadPairs.tile t).sem k).full = ((s.tile t).sem k).fullInit ∧
      ((s.loadPairs.tile t).sem k).empty = ((s.tile t).sem k).emptyInit ∧
      ((s.loadPairs.tile t).sem k).fullRemote = false ∧ ((s.loadPairs.tile t).sem k).emptyRemote = false)

/-- RUNNING ends when every tile and every step descriptor has ended, and PARITY follows, or the end of an eval step; COMMITTING
ends with TRN_COMMITTED set, a record of 74,752 bytes written and the STEP_ARM complete, or, of a replay, with nothing committed;
an abort ends with the record and no step in progress; STEP_ABORT of the step in progress aborts it (R402, R403, R428 to R432).
That a replay passes the gate without acting on it, and how STEP_ABORT ends for a step armed behind or past the gate, is the
model's reading, log entry 34. -/
def Obligations.StepsEnd : Prop :=
  ∀ s : State,
    (∀ x : RunSt, s.step.run = some x → s.stepState = 2 → s.runDone = true →
      (x.cfg.training = true → s.spansOpen (s.pgroupSpan :: (s.listSpans 0 ++ s.listSpans 1)) = true →
        exec .stepRunningEnd s =
          .next (((s.touchStack [s.pgroupSpan]).setReg Reg.TRN_STEP_STATUS_STATE 3).startUpdate).drain) ∧
      (x.cfg.replay = true → exec .stepRunningEnd s = .next (s.setReg Reg.TRN_STEP_STATUS_STATE 3)) ∧
      (x.cfg.eval = true → x.cfg.replay = false → addrWindow x.cfg.record = 2 →
        s.spansOpen (s.pgroupSpan :: (s.listSpans 0 ++ s.listSpans 1)) = true → ∃ s', exec .stepRunningEnd s = .next s' ∧
          s'.step.run = none ∧
        s'.stepState = 0 ∧ s'.regs.get Reg.TRN_COMMITTED_STEP = s.regs.get Reg.TRN_COMMITTED_STEP)) ∧
    (s.stepState = 2 → s.runDone = false → exec .stepRunningEnd s = .next s) ∧
    (∀ x : RunSt, s.step.run = some x → s.stepState = 5 → x.cfg.replay = false → s.commitHeld = false →
      addrWindow x.cfg.record = 2 → s.spansOpen (s.listSpans (x.cfg.step % 2)) = true →
      x.cfg.step < 2 ^ 64 → ∃ s', exec .stepCommitEnd s = .next s' ∧ s'.regs.get Reg.TRN_COMMITTED_STEP = x.cfg.step ∧
        s'.regs.flag Reg.TRN_STEP_STATUS_COMMITTED_VALID = true ∧ s'.stepState = 0 ∧ s'.step.run = none) ∧
    (∀ x : RunSt, s.step.run = some x → s.stepState = 5 → x.cfg.replay = true → addrWindow x.cfg.record = 2 →
      s.spansOpen (s.listSpans (x.cfg.step % 2)) = true → ∃ s', exec .stepCommitEnd s = .next s' ∧
        s'.regs.get Reg.TRN_COMMITTED_STEP = s.regs.get Reg.TRN_COMMITTED_STEP ∧
        s'.stepState = 0 ∧ s'.step.run = none ∧ s'.kv = s.kv) ∧
    (s.stepState ≠ 5 → exec .stepCommitEnd s = .next s) ∧
    (∀ (x : RunSt) flags status reason digest, (s.record x flags status reason digest).length = 74752 ∧
      ((s.record x flags status reason digest).drop 112).take 2 = leBytes 2 status ∧
      (s.record x flags status reason digest).take 8 = leBytes 8 x.cfg.step ∧
      ((s.record x flags status reason digest).drop 1024).take 8192 = dropBytes s.step.mask) ∧
    (∀ r j d, s.ready r j 0x15 = some d → s.host.stuck d.unit = false → (d.eval = true → s.evalOn = true) →
      (s.abortable = true → s.stepNumber = d.n 0 8 → exec (.stepAbort r j) s = .next ((s.take r j).abortStep 4)) ∧
      (s.stepState = 6 → s.stepNumber = d.n 0 8 → exec (.stepAbort r j) s = .next (s.take r j)) ∧
      (s.stepNumber ≠ d.n 0 8 → (∀ c, s.step.armed = some c → c.step ≠ d.n 0 8) →
        exec (.stepAbort r j) s = .next (s.complete r j 0x2053 0 0)) ∧
      (∀ c, s.step.armed = some c → 2 ≤ s.stepState → s.stepNumber ≠ d.n 0 8 → c.step = d.n 0 8 →
        exec (.stepAbort r j) s = .next ((({ s with step := { s.step with
          armed := none
          admitted := []
          drops := []
          held := none } }).complete c.ring c.index 0x60B0 0 0).complete r j 0x0000 0 0))) ∧
    (∀ x : RunSt, s.step.run = some x → s.stepState = 6 →
      (∀ t ∈ s.tiles, t.2.state = .parked ∨ t.2.state = .loading) → addrWindow x.cfg.record = 2 →
      ∃ s', exec .abortEnd s = .next s' ∧ s'.step.run = none ∧ s'.stepState = 0 ∧
        s'.regs.get Reg.TRN_COMMITTED_STEP = s.regs.get Reg.TRN_COMMITTED_STEP ∧
        (∀ c, s.step.armed = some c → c.training = true → s'.step.armed = none ∧ s'.step.admitted = []) ∧ s'.kv = s.kv) ∧
    (∀ t, (s.step.rebuilding.filter fun x => x % 4 == t % 4).head? = some t → exec (.tableRebuildDone t) s =
      .next { s with step := { s.step with rebuilding := s.step.rebuilding.erase t } })

/-! ### Collectives -/

/-- COLL is checked and runs round the ring of the group's present members in packets of at most 4 KiB; a packet goes to the
operation it belongs to, and a sum adds each element with one rounding; a packet that matches no operation of its group stops it;
a GATHER enters its queue, and its carriage's tag is kept in forward and compared in backward (R385, R386, R389, R404, R417,
R418). How bytes are cut into packets is the model's choice, log entry 29; that a packet of a member not heard from shows a
mismatch is its reading, log entry 32. -/
def Obligations.RingCollectives : Prop :=
  ∀ (s : State) (r j : Nat) (v : HostView) (d : Desc),
    (s.ready r j 0x22 = some d → s.host.stuck d.unit = false → (d.eval = true → s.evalOn = true) →
      let g := d.n 28 1
      let op := d.n 29 1 % 4
      let rm := d.n 30 1 % 4
      let s0 := s.touchStack [s.groupSpan g]
      (∀ e, s0.groupRefusal g = some e → exec (.coll r j v) s = .next (s0.complete r j e 0 0)) ∧
      (s0.groupRefusal g = none → (op = 3 ∨ rm = 1 ∨ rm = 2) →
        exec (.coll r j v) s = .next (s0.complete r j 0x2053 0 0)) ∧
      (∀ t u s1 x, s0.groupRefusal g = none → op < 3 → (rm = 0 ∨ rm = 3) →
        s0.twoTensors v (d.n 0 8) (d.n 8 8) = (.ok (t, u), s1) →
        collShape op (s0.groupSlot g).p (s0.groupSlot g).self t u = .ok x → (d.eval = true → u.poison ≠ 1) →
        let c := s1.newColl d (collKind op) none (d.n 24 4) g op x.1 x.2 (some t) (some u) none
        s0.collOpen c = true → exec (.coll r j v) s = .next (((s1.take r j).addColl c).startRing v c))) ∧
    (∀ seg o q start n, ((cutChunk seg o q start n).map CollPkt.len).sum = n ∧
      ∀ p ∈ cutChunk seg o q start n, p.len ≤ 4096 ∧ p.off + p.len ≤ n ∧ (p.off ≠ 0 → (start + p.off) % 64 = 0)) ∧
    (∀ (m : SumMode) (x0 k x y : Nat), m.sr = false → x < 2 ^ 32 → y < 2 ^ 32 →
      (addTerm m x0 k (clean (leBytes 4 x)) (clean (leBytes 4 y))).1 =
        clean (leBytes 4 (enc32 (rne32 (Val.add (val32 x) (val32 y)).1).1))) ∧
    (∀ (l : Nat) (a : Arrived) (c : Coll),
      s.arrived l (fun p => p.kind == PK.coll && p.dst == s.rank && ((s.collOf p true).isSome || (s.mismatched p).isSome)) =
        some a → a.pkt.good = true →
      (s.collOf a.pkt true = some c → c.kind ≠ .dropSync → s.collOpen c = true →
        let c1 := { c with heard := NSet.add c.heard (c.ranks.idxOf a.pkt.src) }
        exec (.collPacketReceive l) s = .next (((s.consume l a).setColl c1).ringPacket c1 a.pkt.tseq a.pkt.pbytes)) ∧
      (s.collOf a.pkt true = none → s.mismatched a.pkt = some c →
        exec (.collPacketReceive l) s = .next ((s.consume l a).stopColl c 0x20A1))) ∧
    (s.ready r j 0x12 = some d → s.host.stuck d.unit = false → (d.eval = true → s.evalOn = true) →
      (d.eval = true → bitOf (d.n 21 1) 0 = false) →
      ∀ ch t u s1 x, let s0 := s.touchStack [s.groupSpan (d.n 20 1)]
        queueChan (d.n 32 2) = some ch → (s.chan ch).full = false → s0.groupRefusal (d.n 20 1) = none →
        s0.twoTensors v (d.n 0 8) (d.n 8 8) = (.ok (t, u), s1) →
        gatherShape (s0.groupSlot (d.n 20 1)).p (s0.groupSlot (d.n 20 1)).self t u = .ok x → (d.eval = true → u.poison ≠ 1) →
        exec (.gather r j v) s = .next (s1.queueColl d (d.n 32 2) ch
          (s1.newColl d .gather (some ch) (d.n 16 4) (d.n 20 1) 1 x.1 x.2 (some t) (some u) none))) ∧
    (∀ c, s.coll r j = some c → s.working r j 0x12 = some d → c.started = true → c.allIn = true → c.due = [] →
      let id := d.n 22 2 % 4096
      (bitOf (d.n 21 1) 0 = false → exec (.gatherLanded r j) s = .next ({ s with step := { s.step with
        carriages := Tbl.put s.step.carriages id (leNat c.carriageTag) } }.endColl c c.status 0)) ∧
      (bitOf (d.n 21 1) 0 = true → Tbl.find s.step.carriages id = some (leNat c.carriageTag) →
        exec (.gatherLanded r j) s = .next (s.endColl c c.status 0)) ∧
      (∀ x, bitOf (d.n 21 1) 0 = true → Tbl.find s.step.carriages id = some x → x ≠ leNat c.carriageTag →
        exec (.gatherLanded r j) s = .next (((((s.event 9 0x30B0 0 id).logEvent ⟨2, 0, id, d.n 24 4 % 2 ^ 20⟩).endColl c
          0x30B0 0).dropBits 2 ((List.range (d.n 30 2)).map (d.n 28 2 + ·))))))

/-- A step descriptor at the head of its queue starts, with WAIT once FULL is at least 1, which it takes 1 from; DROP_SYNC enters
its queue and ends with the combined mask, frozen after LAST; GRAD_EXCHANGE enters its queue, and once the mask is frozen each
chunk is encoded and sent to its owner, which folds them in position order; the chunks cover the gradient; a mask's bytes give
back its bits (R404, R411 to R414, R423 to R426). How a contribution is cut into packets is the model's choice, log entry 29;
which step descriptors take part in a step is its reading, log entry 33. -/
def Obligations.DropsAndGradients : Prop :=
  ∀ (s : State) (r j : Nat) (v : HostView) (d : Desc),
    (∀ ch x rest c wait, (s.chan ch).busy = none → (s.chan ch).queue = x :: rest → x.job = .step wait → x.by_ = .ring r j →
      s.coll r j = some c → s.host.desc r j = some d → s.channelFree ch = true → s.collOpen c = true → s.stepState = 2 →
        d.eval = s.evalStep →
      (wait = true → (s.chan ch).sem.ctr 0 ≠ 0) → exec (.queueStart ch v) s = .next ((s.setChan ch { s.chan ch with
        queue := rest
        busy := some x
        sem := if wait then (s.chan ch).sem.sub 0 1 else (s.chan ch).sem }).startColl v c d)) ∧
    (s.ready r j 0x13 = some d → s.host.stuck d.unit = false → d.eval = false → ∀ ch, queueChan (d.n 6 2) = some ch →
      let s0 := s.touchStack [s.groupSpan (d.n 4 1)]
      ((s.chan ch).full = true → exec (.dropSync r j) s = .next s) ∧
      (s0.groupRefusal (d.n 4 1) = none → (s.chan ch).full = false → exec (.dropSync r j) s = .next
        (s0.queueColl d (d.n 6 2) ch (s0.newColl d .dropSync (some ch) (d.n 0 4) (d.n 4 1) 3 0 0 none none none)))) ∧
    (∀ c, s.coll r j = some c → s.working r j 0x13 = some d → c.got ≠ [] →
      let s1 := s.endColl c c.status 0
      (bitOf (d.n 5 1) 0 = false → exec (.dropSyncComplete r j) s = .next s1) ∧
      (bitOf (d.n 5 1) 0 = true → s1.frozen = false → exec (.dropSyncComplete r j) s = .next s1.freezeMask)) ∧
    (∀ x : RunSt, s.step.run = some x →
      (s.step.mask.length * 256 ≤ s.regs.get Reg.TRN_LIMITS_DROP_SHARE * x.cfg.mbTotal →
        s.freezeMask.frozen = true ∧ s.freezeMask.step = { s.step with
          closed := true
          log := sortLog s.step.log } ∧ s.freezeMask.tiles = s.tiles) ∧
      (s.regs.get Reg.TRN_LIMITS_DROP_SHARE * x.cfg.mbTotal < s.step.mask.length * 256 →
        ∃ s1 : State, s.freezeMask = s1.abortStep 2 ∧ s1.frozen = true ∧ s1.tiles = s.tiles)) ∧
    (∀ ids, (∀ i ∈ ids, i < 65536) → ids.Nodup → (dropBytes ids).length = 8192 ∧ ∀ i, i ∈ dropIds (dropBytes ids) ↔ i ∈ ids) ∧
    (s.ready r j 0x14 = some d → s.host.stuck d.unit = false → d.eval = false → ∀ ch t u s1 s2 res,
      let g := d.n 28 1
      let s0 := s.touchStack [s.groupSpan g]
      queueChan (d.n 36 2) = some ch →
      (s.chan ch).full = false → s0.groupRefusal g = none → d.n 29 1 % 8 < 5 →
      (encTopk (d.n 29 1 % 8) = true → 16 ≤ d.n 30 2 ∧ d.n 30 2 ≤ 256) →
      (bitOf (d.n 29 1) 3 = true → s0.chainOpen g = true) → s0.twoTensors v (d.n 0 8) (d.n 16 8) = (.ok (t, u), s1) →
      s1.residual v (d.n 8 8) = (.ok res, s2) → gradFits (s0.groupSlot g).p (s0.groupSlot g).self t res u = true →
      exec (.gradExchange r j v) s = .next (s2.queueColl d (d.n 36 2) ch (s2.newColl d .gradExchange (some ch) (d.n 24 4)
        g 0 (4 * gradChunk t.elems (s0.groupSlot g).p) (4 * t.elems) (some t) (some u) res))) ∧
    (∀ c, s.coll r j = some c → s.working r j 0x14 = some d → c.started = true → c.sent = false → s.frozen = true →
      s.collOpen c = true →
      d.n 34 2 ≠ 0 → (∀ i, i < d.n 34 2 → NSet.has s.step.mask (d.n 32 2 + i) = false) →
      let x := c.present.foldl (fun (acc : State × Coll) pos => acc.1.contribute d false acc.2 pos) (s, { c with sent := true })
      exec (.gradEncodeStart r j) s = .next (State.foldAll x.1.step.colls.length (x.1.setColl x.2))) ∧
    (∀ e p, 0 < p → ((List.range p).map (gradLen e p)).sum = e ∧ gradChunk e p % 4096 = 0) ∧
    (∀ (l : Nat) (a : Arrived) (c : Coll),
      s.arrived l (fun p => p.kind == PK.coll && p.dst == s.rank && (s.step.colls.find? fun c => c.started &&
        c.kind == .gradExchange && c.addr == p.addr).isSome) = some a → a.pkt.good = true →
      (s.step.colls.find? fun c => c.started && c.kind == .gradExchange && c.addr == a.pkt.addr) = some c →
      s.collOpen c = true →
      let pos := c.ranks.idxOf a.pkt.src
      exec (.contributionReceive l) s = .next (State.foldAll s.step.colls.length ((s.consume l a).setColl { c with
        heard := NSet.add c.heard pos
        parts := c.parts ++ [⟨pos, 4096 * a.pkt.tseq, a.pkt.pbytes⟩] })))

/-! ### The commit gate -/

/-- A heartbeat goes to the parent and to every child; a party unheard for 8 ms is lost, one that was never heard among them, and
a lost child means NOT_CLEAN; the root decides ABORT at its first NOT_CLEAN vote; other modules pass NOT_CLEAN on; a decision is
passed to the children and acted on; votes and decisions of another step are discarded; an isolated module aborts after 10 ms
(R469 to R473). The bytes of these messages are the model's choice, log entry 29; from when a child that was never heard counts as
unheard is its reading, log entry 36. -/
def Obligations.CommitGate : Prop :=
  ∀ (s : State) (l : Nat),
    (∀ p, s.enabled = true → s.gateParent = some p → s.gate.children = [] → exec .heartbeatSend s =
      .next (s.ctrl p (leBytes 1 CT.heartbeat ++ leBytes 3 0 ++ leBytes 4 s.rank))) ∧
    (∀ p, s.enabled = true → s.gateParent = some p → let beat := leBytes 1 CT.heartbeat ++ leBytes 3 0 ++ leBytes 4 s.rank
      ∃ s', exec .heartbeatSend s = .next s' ∧
        s'.net.ctrl = s.net.ctrl ++ (p, beat) :: s.gate.children.map (fun c => (c.rank, beat)) ∧
        s'.regs = s.regs ∧ s'.gate = s.gate ∧ s'.step = s.step) ∧
    (s.enabled = true → s.gateParent = none → ∃ s', exec .heartbeatSend s = .next s' ∧ s'.net.ctrl = s.net.ctrl ++
      s.gate.children.map (fun p => (p.rank, leBytes 1 CT.heartbeat ++ leBytes 3 0 ++ leBytes 4 s.rank)) ∧
      s'.regs = s.regs ∧ s'.gate = s.gate ∧ s'.step = s.step) ∧
    (∀ r p, s.enabled = true → s.gateParent ≠ some r → s.child r = some p → s.absentNow r = false →
      (p.heard + 8000000 ≤ s.now → p.lost = false →
        exec (.gatePartyLost r) s = .next ((s.setChild { p with lost := true }).blame 4 r)) ∧
      (s.now < p.heard + 8000000 → exec (.gatePartyLost r) s = .next s)) ∧
    (∀ r, s.enabled = true → s.gateParent ≠ some r → s.child r = none → s.unheard = true → r ≠ s.rank → r ≠ s.parentRank →
      (s.gate.since + 8000000 ≤ s.now → s.absentNow r = false → exec (.gatePartyLost r) s =
        .next (({ s with gate := { s.gate with
          children := s.gate.children ++ [(⟨r, s.now, true, 0, 0, false⟩ : Party)] } }).blame 4 r)) ∧
      (s.now < s.gate.since + 8000000 → exec (.gatePartyLost r) s = .next s)) ∧
    (∀ r, s.enabled = true → s.gateParent = some r → s.gate.parentHeard + 8000000 ≤ s.now → s.gate.parentLost = false →
      ∃ s1 : State, exec (.gatePartyLost r) s = .next s1.revote ∧ s1.gate.parentLost = true ∧ s1.gate.parentHeard = s.now ∧
        (s.regs.flag Reg.SAF_GATE_CTL_ALT_ROOT = true → s1.isRoot = true) ∧ s1.step = s.step ∧ s1.regs = s.regs) ∧
    (∀ reason lost, s.gated = true → s.regs.get Reg.SAF_STATUS_VOTE ≠ 2 →
      reason < 8 → s.isRoot = false → ∀ p, s.gateParent = some p → ∃ s' : State, s.blame reason lost = s' ∧
        s'.regs.get Reg.SAF_STATUS_VOTE = 2 ∧ s'.regs.get Reg.SAF_STATUS_REASON = reason ∧ s'.net.ctrl = s.net.ctrl ++
          [(p, voteData 2 reason s.rank 0 (s.regs.get Reg.TRN_STEP_NUM_STEP) lost)]) ∧
    (∀ a, s.hasCtrl l CT.vote a →
      let s0 := (s.consume l a).hear a.pkt.src
      let v := Vote.parse a.pkt.data
      (s0.decidable v.step = false → exec (.voteReceive l) s = .next s0) ∧
      (s0.decidable v.step = true → s0.gate.decided = false → (s0.child a.pkt.src).isSome = true → v.clean = false →
        (s0.isRoot = true → exec (.voteReceive l) s = .next (s0.decision false)) ∧
        (s0.isRoot = false → exec (.voteReceive l) s = .next (s0.sendVote a.pkt.data))) ∧
      (∀ p, s0.decidable v.step = true → s0.gate.decided = false → s0.child a.pkt.src = some p → v.clean = true →
        s0.isRoot = true → v.sender = a.pkt.src → exec (.voteReceive l) s = .next (s0.setChild { p with
          vote := 1
          covered := p.covered + v.covered }).tryGate)) ∧
    (∀ a, s.hasCtrl l CT.decision a →
      let s0 := (s.consume l a).hear a.pkt.src
      let n := leNat ((a.pkt.data.drop 8).take 8)
      (s0.decidable n = false → exec (.decisionReceive l) s = .next s0) ∧
      (s0.decidable n = true → s0.gate.decided = false → exec (.decisionReceive l) s =
        .next (s0.decision (leNat ((a.pkt.data.drop 1).take 1) == 1)))) ∧
    (s.stepState = 4 → (s.decision true).stepState = 5 ∧ (s.decision true).gate.decided = true ∧
      (s.decision true).net.ctrl = s.net.ctrl ++ s.gate.children.map fun p =>
        (p.rank, decisionData true s.stepNumber)) ∧
    (s.stepState < 4 → (s.decision true).stepState = s.stepState) ∧
    (s.replaying = true → s.stepState = 4 → (s.decision false).stepState = 5 ∧ (s.decision false).gate.refused = true) ∧
    (s.stepState = 4 → s.gate.decided = true → s.replaying = true → s.tryGate = s.setReg Reg.TRN_STEP_STATUS_STATE 5) ∧
    (∀ t, s.gate.isolatedSince = some t → s.gate.decided = false → s.abortable = true →
      (t + 10000000 ≤ s.now → exec .isolationTimeout s = .next (s.beginAbort 1)) ∧
      (s.now < t + 10000000 → exec .isolationTimeout s = .next s))

/-! ### Resilience -/

/-- The strings of up to two lost positions of a parity group, data or parity, are given back whole by the survivors' strings,
each times its coefficient (R481, R483). -/
def Obligations.ErasedStringsAreRebuilt : Prop :=
  ∀ (b : Nat → Byte) (lost : List Nat) (want : Nat),
    b 16 = (List.range 16).foldl (fun x i => x ^^^ b i) 0 →
    b 17 = (List.range 16).foldl (fun x i => x ^^^ scaleByte (gfPow i) (b i)) 0 →
    lost.length ≤ 2 → lost.Nodup → (∀ i ∈ lost, i < 18) → want ∈ lost →
    ((List.range 18).filter fun i => !lost.contains i).foldl (fun x i => x ^^^ scaleByte (rebuildCoeff lost want i) (b i)) 0 =
      b want

/-- The health monitor's risk level follows its scores; ABSENT waits for its release; a spare's fill ends with its ABSENT
complete; a marked piece is asked of the group, decoded on its way round the other members, and written back; a SNAPSHOT is
checked, sent and completed, and a SNAPSHOT_LOAD ends by its digest; PARITY_INIT and PARITY packets run the chains, and PARITY
gives way to GATE (R477 to R479, R482, R486, R490, R494 to R497). How the risk level takes its inputs, when a snapshot reads, how
a fill ends, when a clear of a held module acts, and how a marked piece comes back are the model's reading, log entries 38, 45, 46
and 61; the ADDR of a PARITY packet is its choice, log entry 29. -/
def Obligations.SparesSnapshotsAndParity : Prop :=
  ∀ (s : State) (r j : Nat) (v : HostView) (d : Desc),
    (∃ s', exec .healthEvaluate s = .next s' ∧ s'.step = s.step ∧ s'.tiles = s.tiles ∧ s'.stack = s.stack ∧
      (∀ scores : List Nat, riskOf scores ≤ 7 ∧ min 7 (scores.foldl max 0) ≤ riskOf scores) ∧
      s'.regs.get Reg.SAF_HEALTH_RISK = riskOf ((List.range 8).map fun k => riskScore (s.regs.getAt Reg.SAF_HEALTH_THRESH_T k)
        (inputOver ((s.healthSample s.healthCounts :: s.res.samples).take 3600) k))) ∧
    (s.ready r j 0x2A = some d → s.host.stuck d.unit = false → (d.eval = true → s.evalOn = true) →
      let rank := bitsOf (d.n 0 4) 19 0
      let clear := bitOf (d.n 0 4) 20
      let spare := d.n 4 4 % 2 ^ 20
      let a : AbsentRec := ⟨r, j, rank, clear, bitOf (d.n 0 4) 21, spare, d.n 8 8, false, d.n 8 8⟩
      let live := (s.res.absent.filter fun b => b.rank != rank).filter fun b => !b.clear
      let wait := ({ s with res := { s.res with absent := s.res.absent ++ [a] } }).take r j
      (clear = true → s.fillsItself rank = false → exec (.absent r j) s = .next wait) ∧
      (clear = true → s.fillsItself rank = true → s.stepState = 0 → s.step.armed = none →
        exec (.absent r j) s = .next ((s.take r j).absentNowOn a).renewFills) ∧
      (clear = false → (live.map AbsentRec.rank).eraseDups.length < 64 → (spare = 0xFFFFF ∨
          ∀ b ∈ live, b.spare ≠ spare ∧ (b.rank = spare → spare = rank)) → exec (.absent r j) s = .next wait) ∧
      (clear = false → spare ≠ 0xFFFFF → (∃ b ∈ live, b.spare = spare ∨ (b.rank = spare ∧ spare ≠ rank)) →
        exec (.absent r j) s = .next (s.complete r j 0x50D0 0 0))) ∧
    (∀ rank a, s.res.fill = some rank →
      (s.res.absent.find? fun a => a.active && a.rank == rank && a.spare == s.rank) = some a →
      s.res.chains.filter s.receives ≠ [] → (∀ c ∈ s.res.chains, s.receives c = true → s.chainDone c = true) →
      ∃ s1 : State, exec .spareFillDone s = .next (s1.complete a.ring a.index 0x0000 0 0) ∧
        s1.res.fill = none) ∧
    (∀ i side, s.stepState < 2 ∨ s.res.repairing = true → s.stringsOpen = true → s.res.chanMarked = false →
      s.isMarked side i = true →
      let g := s.pgroup 0
      let s1 := (s.unmark side i).holdForRepair s.res.repairing
      (2 < (s.lostFor g g.position).length → exec (.pieceRepair i side) s = .next (s1.event 6 0x60D6 0 g.group)) ∧
      ((s.lostFor g g.position).length ≤ 2 →
        (∀ x, s.repaired g side i = some x → exec (.pieceRepair i side) s = .next ((({ s1 with res := { s1.res with
          decoded := s1.res.decoded.erase x } } : State).putPiece side i x.2).addReg Reg.SAF_FILL_STATUS_REPAIRS 1)) ∧
        (s.repaired g side i = none → s.repairAsked g side i = false →
          exec (.pieceRepair i side) s = .next (s.askPiece .fill g g.position side i)) ∧
        (s.repaired g side i = none → s.repairAsked g side i = true → exec (.pieceRepair i side) s = .next s))) ∧
    (∀ (h : PartialHead) bs k g, ((List.range 3).map s.pgroup).find? (fun g => g.role != 0 && g.group == h.group) = some g →
      k = s.decodeGoal g h.want →
      let own := s.rolePiece g (h.kind - 8) h.piece
      let out := addScaled bs (rebuildCoeff (s.lostFor g h.want) h.want g.position) own.1
      (g.position ≠ k → s.takeDecode h bs = own.2.sendPartial .fill
        (g.rankAt ((own.2.decodeHop g h.want (g.position + 1)).getD (own.2.decodeGoal g h.want))) h out) ∧
      (g.position = k → NSet.has s.res.asked h.addr = false → s.takeDecode h bs = s) ∧
      (g.position = k → NSet.has s.res.asked h.addr = true → own.2.step.colls = [] →
        s.takeDecode h bs = { own.2 with res := { own.2.res with
          asked := NSet.del own.2.res.asked h.addr
          decoded := Tbl.put own.2.res.decoded h.addr out } })) ∧
    (s.ready r j 0x28 = some d → s.host.stuck d.unit = false → (d.eval = true → s.evalOn = true) →
      let n := s.snapBytes s.snapSide (bitOf (d.n 12 1) 0)
      (∀ e, s.snapshotRefusal (d.n 0 8) n (4096 * d.n 8 4) = some e → exec (.snapshot r j v) s =
        .next (s.complete r j e 0 0)) ∧
      (s.snapshotRefusal (d.n 0 8) n (4096 * d.n 8 4) = none → ∃ s' refused, exec (.snapshot r j v) s = .next s' ∧
        s'.res = { s.res with snap := s.res.snap ++ [⟨r, j, s.snapNow, false, refused, false⟩] } ∧
        s'.stack = s.stack ∧ s'.out = s.out)) ∧
    (∀ x, (s.res.snap.find? fun x => x.ring == r && x.index == j) = some x →
      (x.ready = false → exec (.snapshotDone r j) s = .next s) ∧
      (x.ready = true → x.sent = true → (s.net.txns.any fun t => t.owner == .snapshot r j) = false →
        exec (.snapshotDone r j) s = .next ((s.dropSnap x.ring x.index).complete x.ring x.index
          (if x.refused then 0x4081 else if x.poison then 0x3020 else 0x0000)
          (if x.refused = false ∧ x.poison = true then 16 else 0) 0))) ∧
    (s.ready r j 0x29 = some d → s.host.stuck d.unit = false → (d.eval = true → s.evalOn = true) → s.res.load = none →
      (s.stepState ≠ 0 ∨ s.step.armed.isSome = true → exec (.snapshotLoad r j v) s = .next (s.complete r j 0x2053 0 0)) ∧
      (∀ head s1 places s2, s.stepState = 0 → s.step.armed = none → s.localOpen (d.n 0 8) 4096 = true →
        s.spansOpen (s.listSpans 0 ++ s.listSpans 1 ++ s.paritySpans) = true → s.judge .image (d.n 0 8) 4096 = none →
        s.listRefusal 0 = none → s.listRefusal 1 = none → s.readStruct v (d.n 0 8) 4096 = (.ok head, s1) →
        (leNat ((head.drop 8).take 4) ≠ s1.shardCount →
          exec (.snapshotLoad r j v) s = .next (s1.complete r j 0x2091 0 0)) ∧
        (leNat ((head.drop 8).take 4) = s1.shardCount → s1.loadHeads v s1.shards (d.n 0 8 + 4096) = (.ok places, s2) →
          exec (.snapshotLoad r j v) s =
            .next (s2.loadImage v r j (d.n 0 8) head places (bitOf (d.n 8 1) 0))))) ∧
    (∀ digest n, s.res.load = some (r, j, digest, n) →
      let s0 := s.touchStack (s.listSpans (n % 2))
      let s1 := { s0 with res := { s0.res with load := none } }
      (padTo 32 (s1.stateDigest (n % 2)) = digest → exec (.snapshotLoadDone r j) s =
        .next (({ s1 with res := { s1.res with
          restored := true
          rebuilt := [] } }).complete r j 0x0000 0 0)) ∧
      (padTo 32 (s1.stateDigest (n % 2)) ≠ digest → exec (.snapshotLoadDone r j) s =
        .next (((s1.setReg Reg.TRN_COMMITTED_STEP 0).setFlag Reg.TRN_STEP_STATUS_COMMITTED_VALID false).complete r j
          0x30B0 0 0))) ∧
    (s.ready r j 0x2B = some d → s.host.stuck d.unit = false → (d.eval = true → s.evalOn = true) → s.stringsOpen = true →
      s.stepState ≠ 0 → exec (.parityInit r j) s = .next (s.complete r j 0x2053 0 0)) ∧
    (s.ready r j 0x2B = some d → s.host.stuck d.unit = false → (d.eval = true → s.evalOn = true) → s.stringsOpen = true →
      s.stepState = 0 →
      ∀ x, (((List.range 3).map fun k => (k, s.pgroup k)).find? fun x => x.2.role != 0 && x.2.group == d.n 0 4) = some x →
      x.2.role ≠ 1 → exec (.parityInit r j) s = .next (s.take r j).drain) ∧
    (∀ l a, s.stringsOpen = true → s.hasPacket l PK.parity a → exec (.parityPartialReceive l) s = .next
      ((((s.consume l a).sendWack a.pkt.src a.pkt.tid a.pkt.tseq false).notePartial a.pkt).drain)) ∧
    (s.stepState = 3 → s.updateDone = true →
      exec .parityUpdateDone s = .next (s.setReg Reg.TRN_STEP_STATUS_STATE 4).tryGate) ∧
    (s.stepState = 3 → s.replaying = true →
      exec .parityUpdateDone s = .next (s.setReg Reg.TRN_STEP_STATUS_STATE 4).tryGate) ∧
    (s.stepState = 3 → s.replaying = false → s.updateDone = false → exec .parityUpdateDone s = .next s)

/-! ### What every command keeps -/

/-- The module at reset is sound: memory in canonical form with nothing listed, no reservations; the queue is empty, no step is
armed, the locked fields may be written, and STATE and TRN_COMMITTED read 0 (R440, R523). Which state the model starts from is its
choice, log entry 1. -/
def Obligations.ResetIsSound : Prop :=
  State.reset.Sound ∧ State.reset.stack = Mem.empty ∧ State.reset.kv = [] ∧ State.reset.pending = [] ∧
    State.reset.locked = false ∧ State.reset.stepState = 0 ∧
    State.reset.regs.get Reg.TRN_COMMITTED_STEP = 0 ∧ State.reset.regs.flag Reg.TRN_STEP_STATUS_COMMITTED_VALID = false ∧
    State.reset.step.armed = none ∧ State.reset.out = []

/-- Every command keeps the stacked memory in its one form and the key/value reservations apart, with no units and no ID in
two of them (R159, R253). -/
def Obligations.EveryStepKeepsSound : Prop :=
  ∀ s s' : State, s.Sound → step s = .next s' → s'.Sound
end

