-- ==== Sys2Proof/Laws/Bytes.lean ====
section
/-! SUPPORT. Little-endian bytes, the CRC of R360 and sealed flits: what each is, said once. -/

namespace Sys2Proof

@[simp] theorem leBytes_length (n w : Nat) : (leBytes n w).length = n := by
  induction n generalizing w with
  | zero => rfl
  | succ n ih => simp [leBytes, ih]

/-- Bytes read back as the number they were cut from, up to their width. -/
@[simp] theorem leNat_leBytes (n w : Nat) : leNat (leBytes n w) = w % 256 ^ n := by
  induction n generalizing w with
  | zero => simp [leBytes, leNat, Nat.mod_one]
  | succ n ih =>
    rw [leBytes, leNat, ih, BitVec.toNat_ofNat, show (2 : Nat) ^ 8 = 256 from rfl,
      show 256 ^ (n + 1) = 256 * 256 ^ n from pow_succ' _ _, Nat.mod_mul]

theorem leNat_lt (b : List Byte) : leNat b < 256 ^ b.length := by
  induction b with
  | nil => simp [leNat]
  | cons x b ih =>
    have := x.isLt
    rw [leNat, List.length_cons, pow_succ]
    omega

theorem leNat_append (a b : List Byte) : leNat (a ++ b) = leNat a + 256 ^ a.length * leNat b := by
  induction a with
  | nil => simp [leNat]
  | cons x a ih => rw [List.cons_append, leNat, leNat, ih, List.length_cons, pow_succ]; ring

/-- The bytes of the number that bytes spell are those bytes. -/
theorem leBytes_leNat (b : List Byte) : leBytes b.length (leNat b) = b := by
  induction b with
  | nil => rfl
  | cons x b ih =>
    have hx := x.isLt
    have h1 : (x.toNat + 256 * leNat b) / 256 = leNat b := by omega
    have h2 : BitVec.ofNat 8 (x.toNat + 256 * leNat b) = x := by
      apply BitVec.eq_of_toNat_eq
      rw [BitVec.toNat_ofNat]
      omega
    rw [List.length_cons, leNat, leBytes, h1, h2, ih]

namespace Machine

theorem crcShift_lt (n r : Nat) (h : r < 2 ^ 64) : crcShift n r < 2 ^ 64 := by
  induction n generalizing r with
  | zero => exact h
  | succ n ih =>
    apply ih
    have hs : r >>> 1 < 2 ^ 64 := by rw [Nat.shiftRight_eq_div_pow]; omega
    split
    · exact Nat.xor_lt_two_pow hs (by decide)
    · exact hs

theorem crcByte_lt (r : Nat) (b : Byte) (h : r < 2 ^ 64) : crcByte r b < 2 ^ 64 :=
  crcShift_lt 8 _ (Nat.xor_lt_two_pow h (Nat.lt_trans b.isLt (by decide)))

/-- The CRC has 64 bits. -/
theorem crc64_lt (bs : List Byte) : crc64 bs < 2 ^ 64 := by
  have h : ∀ (l : List Byte) (r : Nat), r < 2 ^ 64 → l.foldl crcByte r < 2 ^ 64 := by
    intro l
    induction l with
    | nil => exact fun _ h => h
    | cons x l ih => exact fun r hr => ih _ (crcByte_lt r x hr)
  exact Nat.xor_lt_two_pow (h bs _ (by decide)) (by decide)

/-- A flit that has been sealed passes its check. -/
theorem flitGood_seal (body : List Byte) (h : body.length = 248) : flitGood (flitSeal body) = true := by
  have hc := crc64_lt body
  simp [flitGood, flitSeal, h]
  omega

@[simp] theorem flitBody_length (h : FlitHeader) (p : List Byte) : (flitBody h p).length = 248 := by
  simp [flitBody]
  omega

end Machine
end Sys2Proof
end

