-- ==== Sys2Proof/Laws/Store.lean ====
section
/-! SUPPORT. Laws of the sparse stores: reading back what was written, and the canonical form kept by every
operation. -/

namespace Sys2Proof.Machine

/-! ### Bytes -/

@[simp] theorem Cells.get_cons_self (a : Nat) (b : Byte) (cs : List Host.Cell) (h : Cells.get cs a = unlistedByte) :
    Cells.get (Cells.cons a b cs) a = b := by
  unfold Cells.cons
  split
  · next hb => rw [h, hb]
  · simp [Cells.get]

theorem Cells.get_cons_other {a c : Nat} (b : Byte) (cs : List Host.Cell) (h : a ≠ c) :
    Cells.get (Cells.cons a b cs) c = Cells.get cs c := by
  unfold Cells.cons
  split
  · rfl
  · simp [Cells.get, h]

theorem Cells.wfFrom_mono {lo lo' : Nat} (h : lo ≤ lo') (cs : List Host.Cell) (w : Cells.wfFrom lo' cs = true) :
    Cells.wfFrom lo cs = true := by
  cases cs with
  | nil => rfl
  | cons c cs =>
    simp only [Cells.wfFrom, Bool.and_eq_true, decide_eq_true_eq] at w ⊢
    exact ⟨⟨Nat.le_trans h w.1.1, w.1.2⟩, w.2⟩

/-- Nothing is listed below the bound of the canonical form. -/
theorem Cells.get_below {lo a : Nat} (h : a < lo) (cs : List Host.Cell) (w : Cells.wfFrom lo cs = true) :
    Cells.get cs a = unlistedByte := by
  induction cs generalizing lo with
  | nil => rfl
  | cons c cs ih =>
    simp only [Cells.wfFrom, Bool.and_eq_true, decide_eq_true_eq] at w
    have hk : c.1 ≠ a := by omega
    simp only [Cells.get, hk, if_false]
    exact ih (by omega) w.2

theorem Cells.wfFrom_cons {lo a : Nat} (b : Byte) (cs : List Host.Cell) (h : lo ≤ a)
    (w : Cells.wfFrom (a + 1) cs = true) : Cells.wfFrom lo (Cells.cons a b cs) = true := by
  unfold Cells.cons
  split
  · exact Cells.wfFrom_mono (by omega) cs w
  · next hb => simp [Cells.wfFrom, h, hb, w]

/-- Writing a byte keeps the canonical form. -/
theorem Cells.wfFrom_put {lo : Nat} (cs : List Host.Cell) (a : Nat) (b : Byte) (h : lo ≤ a)
    (w : Cells.wfFrom lo cs = true) : Cells.wfFrom lo (Cells.put cs a b) = true := by
  induction cs generalizing lo with
  | nil => exact Cells.wfFrom_cons b [] h rfl
  | cons c cs ih =>
    have w0 := w
    simp only [Cells.wfFrom, Bool.and_eq_true, decide_eq_true_eq] at w
    simp only [Cells.put]
    split
    · next hk => exact Cells.wfFrom_cons b _ h (by simp [Cells.wfFrom, w.1.2, w.2]; omega)
    · split
      · next hk => exact Cells.wfFrom_cons b _ h (by rw [hk]; exact w.2)
      · have hn : c.1 + 1 ≤ a := by omega
        simp only [Cells.wfFrom, Bool.and_eq_true, decide_eq_true_eq]
        exact ⟨w.1, ih hn w.2⟩

theorem Cells.wf_put (cs : List Host.Cell) (a : Nat) (b : Byte) (w : Cells.wf cs = true) :
    Cells.wf (Cells.put cs a b) = true := Cells.wfFrom_put cs a b (Nat.zero_le a) w

theorem Cells.wf_write (bs : List Byte) (cs : List Host.Cell) (a : Nat) (w : Cells.wf cs = true) :
    Cells.wf (Cells.write cs a bs) = true := by
  induction bs generalizing cs a with
  | nil => exact w
  | cons b bs ih => exact ih _ _ (Cells.wf_put cs a b w)

/-- A byte reads back as it was written. -/
theorem Cells.get_put_self {lo : Nat} (cs : List Host.Cell) (a : Nat) (b : Byte) (w : Cells.wfFrom lo cs = true) :
    Cells.get (Cells.put cs a b) a = b := by
  induction cs generalizing lo with
  | nil => exact Cells.get_cons_self a b [] rfl
  | cons c cs ih =>
    have w0 := w
    simp only [Cells.wfFrom, Bool.and_eq_true, decide_eq_true_eq] at w
    simp only [Cells.put]
    split
    · next hk =>
      refine Cells.get_cons_self a b _ (Cells.get_below (lo := c.1) hk _ ?_)
      simp [Cells.wfFrom, w.1.2, w.2]
    · split
      · next hk => exact Cells.get_cons_self a b _ (Cells.get_below (lo := c.1 + 1) (by omega) _ w.2)
      · have : c.1 ≠ a := by omega
        simp only [Cells.get, this, if_false]
        exact ih w.2

/-- A write leaves every other byte alone. -/
theorem Cells.get_put_other (cs : List Host.Cell) {a c : Nat} (b : Byte) (h : a ≠ c) :
    Cells.get (Cells.put cs a b) c = Cells.get cs c := by
  induction cs with
  | nil => exact Cells.get_cons_other b [] h
  | cons d cs ih =>
    simp only [Cells.put]
    split
    · exact Cells.get_cons_other b _ h
    · split
      · next hk =>
        rw [Cells.get_cons_other b _ h]
        have : d.1 ≠ c := by omega
        simp [Cells.get, this]
      · simp only [Cells.get, ih]

theorem Cells.get_write_outside (bs : List Byte) (cs : List Host.Cell) (a c : Nat)
    (h : c < a ∨ a + bs.length ≤ c) : Cells.get (Cells.write cs a bs) c = Cells.get cs c := by
  induction bs generalizing cs a with
  | nil => rfl
  | cons b bs ih =>
    simp only [List.length_cons] at h
    simp only [Cells.write]
    rw [ih _ _ (by omega), Cells.get_put_other cs b (by omega)]

/-- Bytes read back as they were written. -/
theorem Cells.get_write_inside (bs : List Byte) (cs : List Host.Cell) (a i : Nat) (w : Cells.wf cs = true)
    (h : i < bs.length) : Cells.get (Cells.write cs a bs) (a + i) = bs[i] := by
  induction bs generalizing cs a i with
  | nil => simp at h
  | cons b bs ih =>
    simp only [Cells.write]
    cases i with
    | zero =>
      rw [Cells.get_write_outside bs _ _ _ (by omega)]
      simpa using Cells.get_put_self cs a b w
    | succ i =>
      have := ih (Cells.put cs a b) (a + 1) i (Cells.wf_put cs a b w) (by simpa using h)
      rw [show a + 1 + i = a + (i + 1) by omega] at this
      simpa using this

/-! ### Tables -/

@[simp] theorem Tbl.find_put_self {α : Type} (t : List (Nat × α)) (a : Nat) (v : α) :
    Tbl.find (Tbl.put t a v) a = some v := by
  induction t with
  | nil => simp [Tbl.put, Tbl.find]
  | cons e t ih =>
    simp only [Tbl.put]
    split
    · simp [Tbl.find]
    · split
      · simp [Tbl.find]
      · have : e.1 ≠ a := by omega
        simp [Tbl.find, this, ih]

theorem Tbl.find_put_other {α : Type} (t : List (Nat × α)) {a b : Nat} (v : α) (h : a ≠ b) :
    Tbl.find (Tbl.put t a v) b = Tbl.find t b := by
  induction t with
  | nil => simp [Tbl.put, Tbl.find, h]
  | cons e t ih =>
    simp only [Tbl.put]
    split
    · simp [Tbl.find, h]
    · split
      · next hk =>
        have : e.1 ≠ b := by omega
        simp [Tbl.find, h, this]
      · simp [Tbl.find, ih]

@[simp] theorem Tbl.get_put_self {α : Type} (t : List (Nat × α)) (d : α) (a : Nat) (v : α) :
    Tbl.get (Tbl.put t a v) d a = v := by simp [Tbl.get]

theorem Tbl.get_put_other {α : Type} (t : List (Nat × α)) (d : α) {a b : Nat} (v : α) (h : a ≠ b) :
    Tbl.get (Tbl.put t a v) d b = Tbl.get t d b := by simp [Tbl.get, Tbl.find_put_other t v h]

@[simp] theorem Tbl.find_del_self {α : Type} (t : List (Nat × α)) (a : Nat) : Tbl.find (Tbl.del t a) a = none := by
  induction t with
  | nil => rfl
  | cons e t ih =>
    simp only [Tbl.del]
    split
    · exact ih
    · next hk => simp [Tbl.find, hk, ih]

theorem Tbl.find_del_other {α : Type} (t : List (Nat × α)) {a b : Nat} (h : a ≠ b) :
    Tbl.find (Tbl.del t a) b = Tbl.find t b := by
  induction t with
  | nil => rfl
  | cons e t ih =>
    simp only [Tbl.del]
    split
    · next hk =>
      have : e.1 ≠ b := by omega
      simp [Tbl.find, this, ih]
    · simp [Tbl.find, ih]

/-! ### Sets -/

theorem NSet.has_add (ks : List Nat) (a b : Nat) : NSet.has (NSet.add ks a) b = (a == b || NSet.has ks b) := by
  induction ks with
  | nil => rfl
  | cons k ks ih =>
    simp only [NSet.add]
    split
    · rfl
    · split
      · next hk => subst hk; simp only [NSet.has]; cases (a == b) <;> rfl
      · simp only [NSet.has, ih]
        cases (k == b) <;> cases (a == b) <;> rfl

@[simp] theorem NSet.has_del_self (ks : List Nat) (a : Nat) : NSet.has (NSet.del ks a) a = false := by
  induction ks with
  | nil => rfl
  | cons k ks ih =>
    simp only [NSet.del]
    split
    · exact ih
    · next hk => simp [NSet.has, ih, hk]

theorem NSet.has_del_other (ks : List Nat) {a b : Nat} (h : a ≠ b) : NSet.has (NSet.del ks a) b = NSet.has ks b := by
  induction ks with
  | nil => rfl
  | cons k ks ih =>
    simp only [NSet.del]
    split
    · next hk =>
      have : (k == b) = false := by rw [hk]; simpa using h
      simp [NSet.has, ih, this]
    · simp [NSet.has, ih]

/-! ### Memories -/

@[simp] theorem Mem.wf_empty : Mem.empty.wf = true := rfl

/-- Every memory operation keeps the canonical form: writes of bytes, reads and writes that meet check codes. -/
@[simp] theorem Mem.wf_writeRaw (m : Mem) (a : Nat) (bs : List Byte) (p : Bool) (w : m.wf = true) :
    (m.writeRaw a bs p).wf = true := Cells.wf_write bs m.cells a w

@[simp] theorem Mem.wf_write (wsize : Nat) (m : Mem) (a : Nat) (bs : List Byte) (p : Bool) (w : m.wf = true) :
    (m.write wsize a bs p).1.wf = true := Cells.wf_write bs m.cells a w

@[simp] theorem Mem.wf_touch (wsize : Nat) (m : Mem) (a n : Nat) (w : m.wf = true) :
    (m.touch wsize a n).1.wf = true := w

theorem Mem.byte_writeRaw_outside (m : Mem) (a c : Nat) (bs : List Byte) (p : Bool) (h : c < a ∨ a + bs.length ≤ c) :
    (m.writeRaw a bs p).byte c = m.byte c := Cells.get_write_outside bs m.cells a c h

theorem Mem.byte_writeRaw_inside (m : Mem) (a i : Nat) (bs : List Byte) (p : Bool) (w : m.wf = true)
    (h : i < bs.length) : (m.writeRaw a bs p).byte (a + i) = bs[i] := Cells.get_write_inside bs m.cells a i w h

end Sys2Proof.Machine
end

