-- ==== Sys2Proof/Laws/State.lean ====
section
/-! SUPPORT. What each plain update of the state leaves alone, field by field, and what it writes. -/

namespace Sys2Proof.Machine

/-! ### setTile -/

@[simp] theorem State.setTile_pending (s : State) (t : Nat) (x : Tile) : (s.setTile t x).pending = s.pending := rfl
@[simp] theorem State.setTile_regs (s : State) (t : Nat) (x : Tile) : (s.setTile t x).regs = s.regs := rfl
@[simp] theorem State.setTile_stack (s : State) (t : Nat) (x : Tile) : (s.setTile t x).stack = s.stack := rfl
@[simp] theorem State.setTile_mem (s : State) (t : Nat) (x : Tile) : (s.setTile t x).mem = s.mem := rfl
@[simp] theorem State.setTile_kv (s : State) (t : Nat) (x : Tile) : (s.setTile t x).kv = s.kv := rfl
@[simp] theorem State.setTile_host (s : State) (t : Nat) (x : Tile) : (s.setTile t x).host = s.host := rfl
@[simp] theorem State.setTile_chans (s : State) (t : Nat) (x : Tile) : (s.setTile t x).chans = s.chans := rfl
@[simp] theorem State.setTile_tree (s : State) (t : Nat) (x : Tile) : (s.setTile t x).tree = s.tree := rfl
@[simp] theorem State.setTile_net (s : State) (t : Nat) (x : Tile) : (s.setTile t x).net = s.net := rfl
@[simp] theorem State.setTile_step (s : State) (t : Nat) (x : Tile) : (s.setTile t x).step = s.step := rfl
@[simp] theorem State.setTile_gate (s : State) (t : Nat) (x : Tile) : (s.setTile t x).gate = s.gate := rfl
@[simp] theorem State.setTile_res (s : State) (t : Nat) (x : Tile) : (s.setTile t x).res = s.res := rfl
@[simp] theorem State.setTile_time (s : State) (t : Nat) (x : Tile) : (s.setTile t x).time = s.time := rfl
@[simp] theorem State.setTile_boot (s : State) (t : Nat) (x : Tile) : (s.setTile t x).boot = s.boot := rfl
@[simp] theorem State.setTile_fab (s : State) (t : Nat) (x : Tile) : (s.setTile t x).fab = s.fab := rfl
@[simp] theorem State.setTile_drawn (s : State) (t : Nat) (x : Tile) : (s.setTile t x).drawn = s.drawn := rfl
@[simp] theorem State.setTile_out (s : State) (t : Nat) (x : Tile) : (s.setTile t x).out = s.out := rfl

/-! ### setChan -/

@[simp] theorem State.setChan_pending (s : State) (c : Nat) (x : Chan) : (s.setChan c x).pending = s.pending := rfl
@[simp] theorem State.setChan_regs (s : State) (c : Nat) (x : Chan) : (s.setChan c x).regs = s.regs := rfl
@[simp] theorem State.setChan_tiles (s : State) (c : Nat) (x : Chan) : (s.setChan c x).tiles = s.tiles := rfl
@[simp] theorem State.setChan_stack (s : State) (c : Nat) (x : Chan) : (s.setChan c x).stack = s.stack := rfl
@[simp] theorem State.setChan_mem (s : State) (c : Nat) (x : Chan) : (s.setChan c x).mem = s.mem := rfl
@[simp] theorem State.setChan_kv (s : State) (c : Nat) (x : Chan) : (s.setChan c x).kv = s.kv := rfl
@[simp] theorem State.setChan_host (s : State) (c : Nat) (x : Chan) : (s.setChan c x).host = s.host := rfl
@[simp] theorem State.setChan_tree (s : State) (c : Nat) (x : Chan) : (s.setChan c x).tree = s.tree := rfl
@[simp] theorem State.setChan_net (s : State) (c : Nat) (x : Chan) : (s.setChan c x).net = s.net := rfl
@[simp] theorem State.setChan_step (s : State) (c : Nat) (x : Chan) : (s.setChan c x).step = s.step := rfl
@[simp] theorem State.setChan_gate (s : State) (c : Nat) (x : Chan) : (s.setChan c x).gate = s.gate := rfl
@[simp] theorem State.setChan_res (s : State) (c : Nat) (x : Chan) : (s.setChan c x).res = s.res := rfl
@[simp] theorem State.setChan_time (s : State) (c : Nat) (x : Chan) : (s.setChan c x).time = s.time := rfl
@[simp] theorem State.setChan_boot (s : State) (c : Nat) (x : Chan) : (s.setChan c x).boot = s.boot := rfl
@[simp] theorem State.setChan_fab (s : State) (c : Nat) (x : Chan) : (s.setChan c x).fab = s.fab := rfl
@[simp] theorem State.setChan_drawn (s : State) (c : Nat) (x : Chan) : (s.setChan c x).drawn = s.drawn := rfl
@[simp] theorem State.setChan_out (s : State) (c : Nat) (x : Chan) : (s.setChan c x).out = s.out := rfl

/-! ### setMemCh -/

@[simp] theorem State.setMemCh_pending (s : State) (c : Nat) (x : MemCh) : (s.setMemCh c x).pending = s.pending := rfl
@[simp] theorem State.setMemCh_regs (s : State) (c : Nat) (x : MemCh) : (s.setMemCh c x).regs = s.regs := rfl
@[simp] theorem State.setMemCh_tiles (s : State) (c : Nat) (x : MemCh) : (s.setMemCh c x).tiles = s.tiles := rfl
@[simp] theorem State.setMemCh_stack (s : State) (c : Nat) (x : MemCh) : (s.setMemCh c x).stack = s.stack := rfl
@[simp] theorem State.setMemCh_kv (s : State) (c : Nat) (x : MemCh) : (s.setMemCh c x).kv = s.kv := rfl
@[simp] theorem State.setMemCh_host (s : State) (c : Nat) (x : MemCh) : (s.setMemCh c x).host = s.host := rfl
@[simp] theorem State.setMemCh_chans (s : State) (c : Nat) (x : MemCh) : (s.setMemCh c x).chans = s.chans := rfl
@[simp] theorem State.setMemCh_tree (s : State) (c : Nat) (x : MemCh) : (s.setMemCh c x).tree = s.tree := rfl
@[simp] theorem State.setMemCh_net (s : State) (c : Nat) (x : MemCh) : (s.setMemCh c x).net = s.net := rfl
@[simp] theorem State.setMemCh_step (s : State) (c : Nat) (x : MemCh) : (s.setMemCh c x).step = s.step := rfl
@[simp] theorem State.setMemCh_gate (s : State) (c : Nat) (x : MemCh) : (s.setMemCh c x).gate = s.gate := rfl
@[simp] theorem State.setMemCh_res (s : State) (c : Nat) (x : MemCh) : (s.setMemCh c x).res = s.res := rfl
@[simp] theorem State.setMemCh_time (s : State) (c : Nat) (x : MemCh) : (s.setMemCh c x).time = s.time := rfl
@[simp] theorem State.setMemCh_boot (s : State) (c : Nat) (x : MemCh) : (s.setMemCh c x).boot = s.boot := rfl
@[simp] theorem State.setMemCh_fab (s : State) (c : Nat) (x : MemCh) : (s.setMemCh c x).fab = s.fab := rfl
@[simp] theorem State.setMemCh_drawn (s : State) (c : Nat) (x : MemCh) : (s.setMemCh c x).drawn = s.drawn := rfl
@[simp] theorem State.setMemCh_out (s : State) (c : Nat) (x : MemCh) : (s.setMemCh c x).out = s.out := rfl

/-! ### setLink -/

@[simp] theorem State.setLink_pending (s : State) (l : Nat) (x : LinkSt) : (s.setLink l x).pending = s.pending := rfl
@[simp] theorem State.setLink_regs (s : State) (l : Nat) (x : LinkSt) : (s.setLink l x).regs = s.regs := rfl
@[simp] theorem State.setLink_tiles (s : State) (l : Nat) (x : LinkSt) : (s.setLink l x).tiles = s.tiles := rfl
@[simp] theorem State.setLink_stack (s : State) (l : Nat) (x : LinkSt) : (s.setLink l x).stack = s.stack := rfl
@[simp] theorem State.setLink_mem (s : State) (l : Nat) (x : LinkSt) : (s.setLink l x).mem = s.mem := rfl
@[simp] theorem State.setLink_kv (s : State) (l : Nat) (x : LinkSt) : (s.setLink l x).kv = s.kv := rfl
@[simp] theorem State.setLink_host (s : State) (l : Nat) (x : LinkSt) : (s.setLink l x).host = s.host := rfl
@[simp] theorem State.setLink_chans (s : State) (l : Nat) (x : LinkSt) : (s.setLink l x).chans = s.chans := rfl
@[simp] theorem State.setLink_tree (s : State) (l : Nat) (x : LinkSt) : (s.setLink l x).tree = s.tree := rfl
@[simp] theorem State.setLink_step (s : State) (l : Nat) (x : LinkSt) : (s.setLink l x).step = s.step := rfl
@[simp] theorem State.setLink_gate (s : State) (l : Nat) (x : LinkSt) : (s.setLink l x).gate = s.gate := rfl
@[simp] theorem State.setLink_res (s : State) (l : Nat) (x : LinkSt) : (s.setLink l x).res = s.res := rfl
@[simp] theorem State.setLink_time (s : State) (l : Nat) (x : LinkSt) : (s.setLink l x).time = s.time := rfl
@[simp] theorem State.setLink_boot (s : State) (l : Nat) (x : LinkSt) : (s.setLink l x).boot = s.boot := rfl
@[simp] theorem State.setLink_fab (s : State) (l : Nat) (x : LinkSt) : (s.setLink l x).fab = s.fab := rfl
@[simp] theorem State.setLink_drawn (s : State) (l : Nat) (x : LinkSt) : (s.setLink l x).drawn = s.drawn := rfl
@[simp] theorem State.setLink_out (s : State) (l : Nat) (x : LinkSt) : (s.setLink l x).out = s.out := rfl

/-! ### setReg -/

@[simp] theorem State.setReg_pending (s : State) (f : Field) (v : Nat) : (s.setReg f v).pending = s.pending := rfl
@[simp] theorem State.setReg_tiles (s : State) (f : Field) (v : Nat) : (s.setReg f v).tiles = s.tiles := rfl
@[simp] theorem State.setReg_stack (s : State) (f : Field) (v : Nat) : (s.setReg f v).stack = s.stack := rfl
@[simp] theorem State.setReg_mem (s : State) (f : Field) (v : Nat) : (s.setReg f v).mem = s.mem := rfl
@[simp] theorem State.setReg_kv (s : State) (f : Field) (v : Nat) : (s.setReg f v).kv = s.kv := rfl
@[simp] theorem State.setReg_host (s : State) (f : Field) (v : Nat) : (s.setReg f v).host = s.host := rfl
@[simp] theorem State.setReg_chans (s : State) (f : Field) (v : Nat) : (s.setReg f v).chans = s.chans := rfl
@[simp] theorem State.setReg_tree (s : State) (f : Field) (v : Nat) : (s.setReg f v).tree = s.tree := rfl
@[simp] theorem State.setReg_net (s : State) (f : Field) (v : Nat) : (s.setReg f v).net = s.net := rfl
@[simp] theorem State.setReg_step (s : State) (f : Field) (v : Nat) : (s.setReg f v).step = s.step := rfl
@[simp] theorem State.setReg_gate (s : State) (f : Field) (v : Nat) : (s.setReg f v).gate = s.gate := rfl
@[simp] theorem State.setReg_res (s : State) (f : Field) (v : Nat) : (s.setReg f v).res = s.res := rfl
@[simp] theorem State.setReg_time (s : State) (f : Field) (v : Nat) : (s.setReg f v).time = s.time := rfl
@[simp] theorem State.setReg_boot (s : State) (f : Field) (v : Nat) : (s.setReg f v).boot = s.boot := rfl
@[simp] theorem State.setReg_fab (s : State) (f : Field) (v : Nat) : (s.setReg f v).fab = s.fab := rfl
@[simp] theorem State.setReg_drawn (s : State) (f : Field) (v : Nat) : (s.setReg f v).drawn = s.drawn := rfl
@[simp] theorem State.setReg_out (s : State) (f : Field) (v : Nat) : (s.setReg f v).out = s.out := rfl

/-! ### setRegAt -/

@[simp] theorem State.setRegAt_pending (s : State) (f : Field) (i v : Nat) : (s.setRegAt f i v).pending = s.pending := rfl
@[simp] theorem State.setRegAt_tiles (s : State) (f : Field) (i v : Nat) : (s.setRegAt f i v).tiles = s.tiles := rfl
@[simp] theorem State.setRegAt_stack (s : State) (f : Field) (i v : Nat) : (s.setRegAt f i v).stack = s.stack := rfl
@[simp] theorem State.setRegAt_mem (s : State) (f : Field) (i v : Nat) : (s.setRegAt f i v).mem = s.mem := rfl
@[simp] theorem State.setRegAt_kv (s : State) (f : Field) (i v : Nat) : (s.setRegAt f i v).kv = s.kv := rfl
@[simp] theorem State.setRegAt_host (s : State) (f : Field) (i v : Nat) : (s.setRegAt f i v).host = s.host := rfl
@[simp] theorem State.setRegAt_chans (s : State) (f : Field) (i v : Nat) : (s.setRegAt f i v).chans = s.chans := rfl
@[simp] theorem State.setRegAt_tree (s : State) (f : Field) (i v : Nat) : (s.setRegAt f i v).tree = s.tree := rfl
@[simp] theorem State.setRegAt_net (s : State) (f : Field) (i v : Nat) : (s.setRegAt f i v).net = s.net := rfl
@[simp] theorem State.setRegAt_step (s : State) (f : Field) (i v : Nat) : (s.setRegAt f i v).step = s.step := rfl
@[simp] theorem State.setRegAt_gate (s : State) (f : Field) (i v : Nat) : (s.setRegAt f i v).gate = s.gate := rfl
@[simp] theorem State.setRegAt_res (s : State) (f : Field) (i v : Nat) : (s.setRegAt f i v).res = s.res := rfl
@[simp] theorem State.setRegAt_time (s : State) (f : Field) (i v : Nat) : (s.setRegAt f i v).time = s.time := rfl
@[simp] theorem State.setRegAt_boot (s : State) (f : Field) (i v : Nat) : (s.setRegAt f i v).boot = s.boot := rfl
@[simp] theorem State.setRegAt_fab (s : State) (f : Field) (i v : Nat) : (s.setRegAt f i v).fab = s.fab := rfl
@[simp] theorem State.setRegAt_drawn (s : State) (f : Field) (i v : Nat) : (s.setRegAt f i v).drawn = s.drawn := rfl
@[simp] theorem State.setRegAt_out (s : State) (f : Field) (i v : Nat) : (s.setRegAt f i v).out = s.out := rfl

/-! ### setFlag -/

@[simp] theorem State.setFlag_pending (s : State) (f : Field) (b : Bool) : (s.setFlag f b).pending = s.pending := rfl
@[simp] theorem State.setFlag_tiles (s : State) (f : Field) (b : Bool) : (s.setFlag f b).tiles = s.tiles := rfl
@[simp] theorem State.setFlag_stack (s : State) (f : Field) (b : Bool) : (s.setFlag f b).stack = s.stack := rfl
@[simp] theorem State.setFlag_mem (s : State) (f : Field) (b : Bool) : (s.setFlag f b).mem = s.mem := rfl
@[simp] theorem State.setFlag_kv (s : State) (f : Field) (b : Bool) : (s.setFlag f b).kv = s.kv := rfl
@[simp] theorem State.setFlag_host (s : State) (f : Field) (b : Bool) : (s.setFlag f b).host = s.host := rfl
@[simp] theorem State.setFlag_chans (s : State) (f : Field) (b : Bool) : (s.setFlag f b).chans = s.chans := rfl
@[simp] theorem State.setFlag_tree (s : State) (f : Field) (b : Bool) : (s.setFlag f b).tree = s.tree := rfl
@[simp] theorem State.setFlag_net (s : State) (f : Field) (b : Bool) : (s.setFlag f b).net = s.net := rfl
@[simp] theorem State.setFlag_step (s : State) (f : Field) (b : Bool) : (s.setFlag f b).step = s.step := rfl
@[simp] theorem State.setFlag_gate (s : State) (f : Field) (b : Bool) : (s.setFlag f b).gate = s.gate := rfl
@[simp] theorem State.setFlag_res (s : State) (f : Field) (b : Bool) : (s.setFlag f b).res = s.res := rfl
@[simp] theorem State.setFlag_time (s : State) (f : Field) (b : Bool) : (s.setFlag f b).time = s.time := rfl
@[simp] theorem State.setFlag_boot (s : State) (f : Field) (b : Bool) : (s.setFlag f b).boot = s.boot := rfl
@[simp] theorem State.setFlag_fab (s : State) (f : Field) (b : Bool) : (s.setFlag f b).fab = s.fab := rfl
@[simp] theorem State.setFlag_drawn (s : State) (f : Field) (b : Bool) : (s.setFlag f b).drawn = s.drawn := rfl
@[simp] theorem State.setFlag_out (s : State) (f : Field) (b : Bool) : (s.setFlag f b).out = s.out := rfl

/-! ### addReg -/

@[simp] theorem State.addReg_pending (s : State) (f : Field) (n : Nat) : (s.addReg f n).pending = s.pending := rfl
@[simp] theorem State.addReg_tiles (s : State) (f : Field) (n : Nat) : (s.addReg f n).tiles = s.tiles := rfl
@[simp] theorem State.addReg_stack (s : State) (f : Field) (n : Nat) : (s.addReg f n).stack = s.stack := rfl
@[simp] theorem State.addReg_mem (s : State) (f : Field) (n : Nat) : (s.addReg f n).mem = s.mem := rfl
@[simp] theorem State.addReg_kv (s : State) (f : Field) (n : Nat) : (s.addReg f n).kv = s.kv := rfl
@[simp] theorem State.addReg_host (s : State) (f : Field) (n : Nat) : (s.addReg f n).host = s.host := rfl
@[simp] theorem State.addReg_chans (s : State) (f : Field) (n : Nat) : (s.addReg f n).chans = s.chans := rfl
@[simp] theorem State.addReg_tree (s : State) (f : Field) (n : Nat) : (s.addReg f n).tree = s.tree := rfl
@[simp] theorem State.addReg_net (s : State) (f : Field) (n : Nat) : (s.addReg f n).net = s.net := rfl
@[simp] theorem State.addReg_step (s : State) (f : Field) (n : Nat) : (s.addReg f n).step = s.step := rfl
@[simp] theorem State.addReg_gate (s : State) (f : Field) (n : Nat) : (s.addReg f n).gate = s.gate := rfl
@[simp] theorem State.addReg_res (s : State) (f : Field) (n : Nat) : (s.addReg f n).res = s.res := rfl
@[simp] theorem State.addReg_time (s : State) (f : Field) (n : Nat) : (s.addReg f n).time = s.time := rfl
@[simp] theorem State.addReg_boot (s : State) (f : Field) (n : Nat) : (s.addReg f n).boot = s.boot := rfl
@[simp] theorem State.addReg_fab (s : State) (f : Field) (n : Nat) : (s.addReg f n).fab = s.fab := rfl
@[simp] theorem State.addReg_drawn (s : State) (f : Field) (n : Nat) : (s.addReg f n).drawn = s.drawn := rfl
@[simp] theorem State.addReg_out (s : State) (f : Field) (n : Nat) : (s.addReg f n).out = s.out := rfl

/-! ### addRegAt -/

@[simp] theorem State.addRegAt_pending (s : State) (f : Field) (i n : Nat) : (s.addRegAt f i n).pending = s.pending := rfl
@[simp] theorem State.addRegAt_tiles (s : State) (f : Field) (i n : Nat) : (s.addRegAt f i n).tiles = s.tiles := rfl
@[simp] theorem State.addRegAt_stack (s : State) (f : Field) (i n : Nat) : (s.addRegAt f i n).stack = s.stack := rfl
@[simp] theorem State.addRegAt_mem (s : State) (f : Field) (i n : Nat) : (s.addRegAt f i n).mem = s.mem := rfl
@[simp] theorem State.addRegAt_kv (s : State) (f : Field) (i n : Nat) : (s.addRegAt f i n).kv = s.kv := rfl
@[simp] theorem State.addRegAt_host (s : State) (f : Field) (i n : Nat) : (s.addRegAt f i n).host = s.host := rfl
@[simp] theorem State.addRegAt_chans (s : State) (f : Field) (i n : Nat) : (s.addRegAt f i n).chans = s.chans := rfl
@[simp] theorem State.addRegAt_tree (s : State) (f : Field) (i n : Nat) : (s.addRegAt f i n).tree = s.tree := rfl
@[simp] theorem State.addRegAt_net (s : State) (f : Field) (i n : Nat) : (s.addRegAt f i n).net = s.net := rfl
@[simp] theorem State.addRegAt_step (s : State) (f : Field) (i n : Nat) : (s.addRegAt f i n).step = s.step := rfl
@[simp] theorem State.addRegAt_gate (s : State) (f : Field) (i n : Nat) : (s.addRegAt f i n).gate = s.gate := rfl
@[simp] theorem State.addRegAt_res (s : State) (f : Field) (i n : Nat) : (s.addRegAt f i n).res = s.res := rfl
@[simp] theorem State.addRegAt_time (s : State) (f : Field) (i n : Nat) : (s.addRegAt f i n).time = s.time := rfl
@[simp] theorem State.addRegAt_boot (s : State) (f : Field) (i n : Nat) : (s.addRegAt f i n).boot = s.boot := rfl
@[simp] theorem State.addRegAt_fab (s : State) (f : Field) (i n : Nat) : (s.addRegAt f i n).fab = s.fab := rfl
@[simp] theorem State.addRegAt_drawn (s : State) (f : Field) (i n : Nat) : (s.addRegAt f i n).drawn = s.drawn := rfl
@[simp] theorem State.addRegAt_out (s : State) (f : Field) (i n : Nat) : (s.addRegAt f i n).out = s.out := rfl

/-! ### emit -/

@[simp] theorem State.emit_pending (s : State) (o : Output) : (s.emit o).pending = s.pending := rfl
@[simp] theorem State.emit_regs (s : State) (o : Output) : (s.emit o).regs = s.regs := rfl
@[simp] theorem State.emit_tiles (s : State) (o : Output) : (s.emit o).tiles = s.tiles := rfl
@[simp] theorem State.emit_stack (s : State) (o : Output) : (s.emit o).stack = s.stack := rfl
@[simp] theorem State.emit_mem (s : State) (o : Output) : (s.emit o).mem = s.mem := rfl
@[simp] theorem State.emit_kv (s : State) (o : Output) : (s.emit o).kv = s.kv := rfl
@[simp] theorem State.emit_host (s : State) (o : Output) : (s.emit o).host = s.host := rfl
@[simp] theorem State.emit_chans (s : State) (o : Output) : (s.emit o).chans = s.chans := rfl
@[simp] theorem State.emit_tree (s : State) (o : Output) : (s.emit o).tree = s.tree := rfl
@[simp] theorem State.emit_net (s : State) (o : Output) : (s.emit o).net = s.net := rfl
@[simp] theorem State.emit_step (s : State) (o : Output) : (s.emit o).step = s.step := rfl
@[simp] theorem State.emit_gate (s : State) (o : Output) : (s.emit o).gate = s.gate := rfl
@[simp] theorem State.emit_res (s : State) (o : Output) : (s.emit o).res = s.res := rfl
@[simp] theorem State.emit_time (s : State) (o : Output) : (s.emit o).time = s.time := rfl
@[simp] theorem State.emit_boot (s : State) (o : Output) : (s.emit o).boot = s.boot := rfl
@[simp] theorem State.emit_fab (s : State) (o : Output) : (s.emit o).fab = s.fab := rfl
@[simp] theorem State.emit_drawn (s : State) (o : Output) : (s.emit o).drawn = s.drawn := rfl

/-! ### ctrl -/

@[simp] theorem State.ctrl_pending (s : State) (dst : Nat) (data : List Byte) : (s.ctrl dst data).pending = s.pending := rfl
@[simp] theorem State.ctrl_regs (s : State) (dst : Nat) (data : List Byte) : (s.ctrl dst data).regs = s.regs := rfl
@[simp] theorem State.ctrl_tiles (s : State) (dst : Nat) (data : List Byte) : (s.ctrl dst data).tiles = s.tiles := rfl
@[simp] theorem State.ctrl_stack (s : State) (dst : Nat) (data : List Byte) : (s.ctrl dst data).stack = s.stack := rfl
@[simp] theorem State.ctrl_mem (s : State) (dst : Nat) (data : List Byte) : (s.ctrl dst data).mem = s.mem := rfl
@[simp] theorem State.ctrl_kv (s : State) (dst : Nat) (data : List Byte) : (s.ctrl dst data).kv = s.kv := rfl
@[simp] theorem State.ctrl_host (s : State) (dst : Nat) (data : List Byte) : (s.ctrl dst data).host = s.host := rfl
@[simp] theorem State.ctrl_chans (s : State) (dst : Nat) (data : List Byte) : (s.ctrl dst data).chans = s.chans := rfl
@[simp] theorem State.ctrl_tree (s : State) (dst : Nat) (data : List Byte) : (s.ctrl dst data).tree = s.tree := rfl
@[simp] theorem State.ctrl_step (s : State) (dst : Nat) (data : List Byte) : (s.ctrl dst data).step = s.step := rfl
@[simp] theorem State.ctrl_gate (s : State) (dst : Nat) (data : List Byte) : (s.ctrl dst data).gate = s.gate := rfl
@[simp] theorem State.ctrl_res (s : State) (dst : Nat) (data : List Byte) : (s.ctrl dst data).res = s.res := rfl
@[simp] theorem State.ctrl_time (s : State) (dst : Nat) (data : List Byte) : (s.ctrl dst data).time = s.time := rfl
@[simp] theorem State.ctrl_boot (s : State) (dst : Nat) (data : List Byte) : (s.ctrl dst data).boot = s.boot := rfl
@[simp] theorem State.ctrl_fab (s : State) (dst : Nat) (data : List Byte) : (s.ctrl dst data).fab = s.fab := rfl
@[simp] theorem State.ctrl_drawn (s : State) (dst : Nat) (data : List Byte) : (s.ctrl dst data).drawn = s.drawn := rfl
@[simp] theorem State.ctrl_out (s : State) (dst : Nat) (data : List Byte) : (s.ctrl dst data).out = s.out := rfl

/-! ### What they write -/

@[simp] theorem State.tile_setTile_self (s : State) (t : Nat) (x : Tile) : (s.setTile t x).tile t = x := by
  simp [State.tile, State.setTile]

theorem State.tile_setTile_other (s : State) {t u : Nat} (x : Tile) (h : t ≠ u) : (s.setTile t x).tile u = s.tile u := by
  simp [State.tile, State.setTile, Tbl.get_put_other _ _ _ h]

@[simp] theorem State.chan_setChan_self (s : State) (c : Nat) (x : Chan) : (s.setChan c x).chan c = x := by
  simp [State.chan, State.setChan]

theorem State.chan_setChan_other (s : State) {c d : Nat} (x : Chan) (h : c ≠ d) : (s.setChan c x).chan d = s.chan d := by
  simp [State.chan, State.setChan, Tbl.get_put_other _ _ _ h]

@[simp] theorem State.memCh_setMemCh_self (s : State) (c : Nat) (x : MemCh) : (s.setMemCh c x).memCh c = x := by
  simp [State.memCh, State.setMemCh]

@[simp] theorem State.link_setLink_self (s : State) (l : Nat) (x : LinkSt) : (s.setLink l x).link l = x := by
  simp [State.link, State.setLink]

theorem State.link_setLink_other (s : State) {l k : Nat} (x : LinkSt) (h : l ≠ k) : (s.setLink l x).link k = s.link k := by
  simp [State.link, State.setLink, Tbl.get_put_other _ _ _ h]

@[simp] theorem State.emit_out (s : State) (o : Output) : (s.emit o).out = o :: s.out := rfl

@[simp] theorem RegFile.word_setWord_self (r : RegFile) (off v : Nat) : (r.setWord off v).word off = v := by
  unfold RegFile.setWord RegFile.word
  split
  · next h => simp [Tbl.get, h]
  · simp

theorem RegFile.word_setWord_other (r : RegFile) {off k : Nat} (v : Nat) (h : off ≠ k) :
    (r.setWord off v).word k = r.word k := by
  unfold RegFile.setWord RegFile.word
  split
  · simp [Tbl.get, Tbl.find_del_other _ h]
  · simp [Tbl.get_put_other _ _ _ h]

end Sys2Proof.Machine
end

