-- ==== Sys2Proof/Laws/Regs.lean ====
section
/-! SUPPORT. Laws of bit fields and of the register file: a field reads back what was written, cut to its width, and
a write leaves every other field alone. -/

namespace Sys2Proof

theorem bitsOf_eq (w hi lo : Nat) : bitsOf w hi lo = w / 2 ^ lo % 2 ^ (hi + 1 - lo) := by
  simp [bitsOf, Nat.shiftRight_eq_div_pow]

/-- A word cut at a field: what lies above it, the field, what lies below. -/
theorem word_split (w hi lo : Nat) :
    w = w / 2 ^ (lo + (hi + 1 - lo)) * 2 ^ (lo + (hi + 1 - lo)) + bitsOf w hi lo * 2 ^ lo + w % 2 ^ lo := by
  rw [bitsOf_eq]
  have h1 := Nat.div_add_mod w (2 ^ lo)
  have h2 := Nat.div_add_mod (w / 2 ^ lo) (2 ^ (hi + 1 - lo))
  rw [Nat.div_div_eq_div_mul, ← pow_add] at h2
  calc w = 2 ^ lo * (w / 2 ^ lo) + w % 2 ^ lo := h1.symm
    _ = 2 ^ lo * (2 ^ (hi + 1 - lo) * (w / 2 ^ (lo + (hi + 1 - lo))) + w / 2 ^ lo % 2 ^ (hi + 1 - lo)) + w % 2 ^ lo := by
      rw [h2]
    _ = _ := by rw [pow_add]; ring

theorem setBits_eq (w hi lo v : Nat) :
    setBits w hi lo v = w / 2 ^ (lo + (hi + 1 - lo)) * 2 ^ (lo + (hi + 1 - lo)) + v % 2 ^ (hi + 1 - lo) * 2 ^ lo + w % 2 ^ lo :=
      by
  have h := word_split w hi lo
  unfold setBits
  generalize bitsOf w hi lo * 2 ^ lo = b at *
  omega

@[simp] theorem bitsOf_setBits_self (w hi lo v : Nat) : bitsOf (setBits w hi lo v) hi lo = v % 2 ^ (hi + 1 - lo) := by
  rw [setBits_eq, bitsOf_eq]
  set n := hi + 1 - lo with hn
  have hlt : w % 2 ^ lo < 2 ^ lo := Nat.mod_lt _ (by positivity)
  have : (w / 2 ^ (lo + n) * 2 ^ (lo + n) + v % 2 ^ n * 2 ^ lo + w % 2 ^ lo) / 2 ^ lo =
      w / 2 ^ (lo + n) * 2 ^ n + v % 2 ^ n := by
    rw [pow_add 2 lo n, ← mul_assoc, mul_right_comm _ (2 ^ lo), ← add_mul,
      show (w / (2 ^ lo * 2 ^ n) * 2 ^ n + v % 2 ^ n) * 2 ^ lo + w % 2 ^ lo =
        w % 2 ^ lo + 2 ^ lo * (w / (2 ^ lo * 2 ^ n) * 2 ^ n + v % 2 ^ n) by ring,
      Nat.add_mul_div_left _ _ (by positivity), Nat.div_eq_of_lt hlt, Nat.zero_add]
  rw [this, Nat.mul_add_mod_of_lt (Nat.mod_lt _ (by positivity))]

/-- A field above the one written reads as before. -/
theorem bitsOf_setBits_above (w hi lo v hi' lo' : Nat) (hw : lo ≤ hi) (h : hi < lo') :
    bitsOf (setBits w hi lo v) hi' lo' = bitsOf w hi' lo' := by
  rw [setBits_eq, bitsOf_eq, bitsOf_eq]
  have e : lo + (hi + 1 - lo) = hi + 1 := by omega
  rw [e]
  have hb : v % 2 ^ (hi + 1 - lo) * 2 ^ lo + w % 2 ^ lo < 2 ^ (hi + 1) := by
    have h1 : v % 2 ^ (hi + 1 - lo) < 2 ^ (hi + 1 - lo) := Nat.mod_lt _ (by positivity)
    have h2 : w % 2 ^ lo < 2 ^ lo := Nat.mod_lt _ (by positivity)
    calc _ < v % 2 ^ (hi + 1 - lo) * 2 ^ lo + 2 ^ lo := by omega
      _ = (v % 2 ^ (hi + 1 - lo) + 1) * 2 ^ lo := by ring
      _ ≤ 2 ^ (hi + 1 - lo) * 2 ^ lo := by gcongr; exact h1
      _ = 2 ^ (hi + 1) := by rw [← pow_add]; congr 1; omega
  have key : (w / 2 ^ (hi + 1) * 2 ^ (hi + 1) + v % 2 ^ (hi + 1 - lo) * 2 ^ lo + w % 2 ^ lo) / 2 ^ lo' = w / 2 ^ lo' := by
    have hs : 2 ^ lo' = 2 ^ (hi + 1) * 2 ^ (lo' - (hi + 1)) := by rw [← pow_add]; congr 1; omega
    rw [hs, ← Nat.div_div_eq_div_mul, ← Nat.div_div_eq_div_mul]
    congr 1
    rw [Nat.add_assoc, Nat.mul_comm, Nat.mul_add_div (by positivity), Nat.div_eq_of_lt hb, Nat.add_zero]
  rw [key]

/-- A field below the one written reads as before. -/
theorem bitsOf_setBits_below (w hi lo v hi' lo' : Nat) (h : hi' < lo) :
    bitsOf (setBits w hi lo v) hi' lo' = bitsOf w hi' lo' := by
  by_cases hl : lo' ≤ hi'
  · have hm : setBits w hi lo v % 2 ^ lo = w % 2 ^ lo := by
      rw [setBits_eq, pow_add]
      rw [show w / (2 ^ lo * 2 ^ (hi + 1 - lo)) * (2 ^ lo * 2 ^ (hi + 1 - lo)) + v % 2 ^ (hi + 1 - lo) * 2 ^ lo + w % 2 ^ lo =
        w % 2 ^ lo + 2 ^ lo * (w / (2 ^ lo * 2 ^ (hi + 1 - lo)) * 2 ^ (hi + 1 - lo) + v % 2 ^ (hi + 1 - lo)) by ring]
      simp [Nat.add_mul_mod_self_left]
    have cut : ∀ x : Nat, bitsOf x hi' lo' = bitsOf (x % 2 ^ lo) hi' lo' := by
      intro x
      rw [bitsOf_eq, bitsOf_eq]
      have hp : 2 ^ lo = 2 ^ (hi' + 1) * 2 ^ (lo - (hi' + 1)) := by rw [← pow_add]; congr 1; omega
      have hq : 2 ^ (hi' + 1) = 2 ^ lo' * 2 ^ (hi' + 1 - lo') := by rw [← pow_add]; congr 1; omega
      have e1 : ∀ y : Nat, y / 2 ^ lo' % 2 ^ (hi' + 1 - lo') = y % 2 ^ (hi' + 1) / 2 ^ lo' := by
        intro y; rw [hq, Nat.mod_mul_right_div_self]
      rw [e1, e1, hp, Nat.mod_mul_right_mod]
    rw [cut (setBits w hi lo v), hm, ← cut]
  · rw [bitsOf_eq, bitsOf_eq, show hi' + 1 - lo' = 0 by omega, pow_zero, Nat.mod_one, Nat.mod_one]

end Sys2Proof

namespace Sys2Proof.Machine

theorem RegFile.getAt_setAt_self (r : RegFile) (f : Field) (i v : Nat) (h : f.width ≠ 0) :
    (r.setAt f i v).getAt f i = v % 2 ^ f.width := by
  have : f.hi + 1 - f.lo = f.width := by unfold Field.hi; omega
  simp [RegFile.setAt, RegFile.getAt, this]

@[simp] theorem RegFile.get_set_self (r : RegFile) (f : Field) (v : Nat) (h : f.width ≠ 0) :
    (r.set f v).get f = v % 2 ^ f.width := RegFile.getAt_setAt_self r f 0 v h

/-- Two fields that share no bit of a register. -/
def Field.apart (f : Field) (i : Nat) (g : Field) (j : Nat) : Prop :=
  f.offset + f.stride * i ≠ g.offset + g.stride * j ∨ f.hi < g.lo ∨ g.hi < f.lo

theorem RegFile.getAt_setAt_other (r : RegFile) (f g : Field) (i j v : Nat) (h : f.apart i g j) (hw : f.width ≠ 0) :
    (r.setAt f i v).getAt g j = r.getAt g j := by
  unfold RegFile.setAt RegFile.getAt
  by_cases he : f.offset + f.stride * i = g.offset + g.stride * j
  · rw [he, RegFile.word_setWord_self]
    have hh : f.lo ≤ f.hi := by unfold Field.hi; omega
    rcases h with h | h | h
    · exact absurd he h
    · exact bitsOf_setBits_above _ _ _ _ _ _ hh h
    · exact bitsOf_setBits_below _ _ _ _ _ _ h
  · rw [RegFile.word_setWord_other _ _ he]

theorem RegFile.get_set_other (r : RegFile) (f g : Field) (v : Nat) (h : f.apart 0 g 0) (hw : f.width ≠ 0) :
    (r.set f v).get g = r.get g := RegFile.getAt_setAt_other r f g 0 0 v h hw

end Sys2Proof.Machine
end

