-- ==== Sys2Proof/Laws/Routes.lean ====
section
/-! SUPPORT. The route check of R380: what its search over the ranks answers. -/

namespace Sys2Proof.Machine

/-- The search answers none exactly when every rank of its range keeps the conditions on HOPS. -/
theorem State.firstLoop_none (s : State) (bank : List (Nat × Nat)) (self : Nat) (peers : List (Nat × List (Nat × Nat)))
    (rankOf : Nat → Nat) (n r : Nat) :
    s.firstLoop bank self peers rankOf n r = none ↔ ∀ k, r ≤ k → k < r + n → s.hopsOk bank self peers rankOf k = true := by
  induction n generalizing r with
  | zero => exact ⟨fun _ k h1 h2 => absurd h2 (by omega), fun _ => rfl⟩
  | succ n ih =>
    rw [State.firstLoop]
    by_cases h : s.hopsOk bank self peers rankOf r = true
    · rw [if_pos h, ih]
      constructor
      · intro hk k h1 h2
        rcases Nat.eq_or_lt_of_le h1 with rfl | h3
        · exact h
        · exact hk k h3 (by omega)
      · exact fun hk k h1 h2 => hk k (by omega) (by omega)
    · rw [if_neg h]
      exact ⟨fun hn => (nomatch hn), fun hk => absurd (hk r (Nat.le_refl r) (by omega)) h⟩

/-- What it answers is the lowest rank that breaks them. -/
theorem State.firstLoop_some (s : State) (bank : List (Nat × Nat)) (self : Nat) (peers : List (Nat × List (Nat × Nat)))
    (rankOf : Nat → Nat) (n r q : Nat) (h : s.firstLoop bank self peers rankOf n r = some q) :
    r ≤ q ∧ q < r + n ∧ s.hopsOk bank self peers rankOf q = false ∧
      ∀ k, r ≤ k → k < q → s.hopsOk bank self peers rankOf k = true := by
  induction n generalizing r with
  | zero => exact nomatch h
  | succ n ih =>
    rw [State.firstLoop] at h
    by_cases hr : s.hopsOk bank self peers rankOf r = true
    · rw [if_pos hr] at h
      obtain ⟨a, b, c, d⟩ := ih (r + 1) h
      refine ⟨by omega, by omega, c, fun k h1 h2 => ?_⟩
      rcases Nat.eq_or_lt_of_le h1 with rfl | h3
      · exact hr
      · exact d k h3 h2
    · rw [if_neg hr] at h
      obtain rfl := Option.some.inj h
      exact ⟨Nat.le_refl _, by omega, by simpa using hr, fun k h1 h2 => absurd h2 (by omega)⟩

end Sys2Proof.Machine
end

