-- ==== Sys2Proof/Laws/SoundOps.lean ====
section
/-! SUPPORT. What keeps a state sound (`State.Sound`: R159, R253): the shared operations and addresses, and the tick.
One lemma per operation and per command. -/

namespace Sys2Proof.Machine

theorem State.Sound.mk_of {t : State} {p r ti m ho ch tr n st g re tm b f d o} (h : t.Sound) :
    State.Sound ⟨p, r, ti, t.stack, m, t.kv, ho, ch, tr, n, st, g, re, tm, b, f, d, o⟩ := h

theorem State.Sound.wf {s : State} (h : s.Sound) : s.stack.wf = true := h.1

theorem State.Sound.apart {s : State} (h : s.Sound) : kvApart s.kv := h.2

theorem State.Sound.mk_stack {t : State} {k p r ti m ho ch tr n st g re tm b f d o} (h : t.Sound) (w : k.wf = true) :
    State.Sound ⟨p, r, ti, k, m, t.kv, ho, ch, tr, n, st, g, re, tm, b, f, d, o⟩ := ⟨w, h.2⟩

theorem State.Sound.mk_kv {t : State} {k p r ti m ho ch tr n st g re tm b f d o} (h : t.Sound) (w : kvApart k) :
    State.Sound ⟨p, r, ti, t.stack, m, k, ho, ch, tr, n, st, g, re, tm, b, f, d, o⟩ := ⟨h.1, w⟩

theorem ite_sound {c : Prop} [Decidable c] {a b : State} (ha : a.Sound) (hb : b.Sound) : (if c then a else b).Sound := by
  split <;> assumption

theorem foldl_keeps {σ ι : Type} {step : σ → ι → σ} {P : σ → Prop} (kept : ∀ x i, P x → P (step x i)) (is : List ι) {x : σ} :
    P x → P (List.foldl step x is) :=
  fun start => List.foldlRecOn is step start fun y hy i _ => kept y i hy

theorem each_sound {α : Type} {s : State} {l : List α} {f : State → α → State} (hf : ∀ s x, State.Sound s → (f s x).Sound)
    (h : s.Sound) : (s.each l f).Sound := foldl_keeps hf l h

theorem fold_sound {α : Type} {s : State} {l : List α} {f : State → α → State} (hf : ∀ s x, State.Sound s → (f s x).Sound)
    (h : s.Sound) : (l.foldl f s).Sound := foldl_keeps hf l h

theorem fold_snd_sound {α β : Type} {s : β × State} {l : List α} {f : β × State → α → β × State}
    (hf : ∀ s x, State.Sound s.2 → (f s x).2.Sound) (h : s.2.Sound) : (l.foldl f s).2.Sound :=
  foldl_keeps (P := fun a : β × State => a.2.Sound) hf l h

theorem fold_fst_sound {α β : Type} {s : State × β} {l : List α} {f : State × β → α → State × β}
    (hf : ∀ s x, State.Sound s.1 → (f s x).1.Sound) (h : s.1.Sound) : (l.foldl f s).1.Sound :=
  foldl_keeps (P := fun a : State × β => a.1.Sound) hf l h

theorem next_sound {s t : State} (h : s.Sound)
    (e : (Host.Outcome.next s : Host.Outcome State Fault Refusal) = .next t) : t.Sound := by
  cases e
  exact h

/-! ### Ops -/

theorem foldRecord_wf (m : Mem) (b : Nat) (c : CalFold) (h : m.wf = true) : (foldRecord m b c).wf = true :=
  Mem.wf_writeRaw _ _ _ _ (Mem.wf_writeRaw _ _ _ _ (Mem.wf_writeRaw _ _ _ _ h))

theorem State.setTile_sound {s : State} {t : Nat} {x : Tile} (hs : s.Sound) : (State.setTile s t x).Sound := by
  unfold State.setTile
  repeat (with_reducible refine State.Sound.mk_of ?_; with_reducible assumption)

theorem State.setChan_sound {s : State} {c : Nat} {x : Chan} (hs : s.Sound) : (State.setChan s c x).Sound := by
  unfold State.setChan
  repeat (with_reducible refine State.Sound.mk_of ?_; with_reducible assumption)

theorem State.setMemCh_sound {s : State} {c : Nat} {x : MemCh} (hs : s.Sound) : (State.setMemCh s c x).Sound := by
  unfold State.setMemCh
  dsimp only
  repeat (with_reducible refine State.Sound.mk_of ?_; with_reducible assumption)

theorem State.setLink_sound {s : State} {l : Nat} {x : LinkSt} (hs : s.Sound) : (State.setLink s l x).Sound := by
  unfold State.setLink
  dsimp only
  repeat (with_reducible refine State.Sound.mk_of ?_; with_reducible assumption)

theorem State.setReg_sound {s : State} {f : Field} {v : Nat} (hs : s.Sound) : (State.setReg s f v).Sound := by
  unfold State.setReg
  repeat (with_reducible refine State.Sound.mk_of ?_; with_reducible assumption)

theorem State.setRegAt_sound {s : State} {f : Field} {i v : Nat} (hs : s.Sound) : (State.setRegAt s f i v).Sound := by
  unfold State.setRegAt
  repeat (with_reducible refine State.Sound.mk_of ?_; with_reducible assumption)

theorem State.setFlag_sound {s : State} {f : Field} {b : Bool} (hs : s.Sound) : (State.setFlag s f b).Sound := by
  unfold State.setFlag
  repeat (with_reducible refine State.Sound.mk_of ?_; with_reducible assumption)

theorem State.addReg_sound {s : State} {f : Field} {n : Nat} (hs : s.Sound) : (State.addReg s f n).Sound := by
  unfold State.addReg
  repeat (with_reducible refine State.Sound.mk_of ?_; with_reducible assumption)

theorem State.addRegAt_sound {s : State} {f : Field} {i n : Nat} (hs : s.Sound) : (State.addRegAt s f i n).Sound := by
  unfold State.addRegAt
  repeat (with_reducible refine State.Sound.mk_of ?_; with_reducible assumption)

theorem State.emit_sound {s : State} {o : Output} (hs : s.Sound) : (State.emit s o).Sound := by
  unfold State.emit
  repeat (with_reducible refine State.Sound.mk_of ?_; with_reducible assumption)

theorem State.draw_sound {s : State} (hs : s.Sound) : (State.draw s).2.Sound := by
  unfold State.draw
  dsimp only
  repeat (with_reducible refine State.Sound.mk_of ?_; with_reducible assumption)

theorem State.post_sound {s : State} {e : Ev} (hs : s.Sound) : (State.post s e).Sound := by
  unfold State.post
  dsimp only
  repeat' first
    | with_reducible refine ite_sound ?_ ?_
    | (with_reducible refine State.Sound.mk_of ?_; with_reducible assumption)

theorem State.event_sound {s : State} {source status loc detail : Nat} (hs : s.Sound) :
    (State.event s source status loc detail).Sound := by
  unfold State.event
  repeat' first
    | with_reducible assumption
    | with_reducible refine State.post_sound ?_

theorem State.memUncorr_sound {s : State} {flags a : Nat} {lane : Option Nat} (hs : s.Sound) :
    (State.memUncorr s flags a lane).Sound := by
  unfold State.memUncorr
  dsimp only
  repeat' first
    | with_reducible assumption
    | with_reducible refine State.setMemCh_sound ?_
    | with_reducible refine State.post_sound ?_

theorem State.memFixed_sound {s : State} {a lane : Nat} (hs : s.Sound) : (State.memFixed s a lane).Sound := by
  unfold State.memFixed
  dsimp only
  repeat' first
    | with_reducible assumption
    | with_reducible refine State.setMemCh_sound ?_

theorem State.meetErrors_sound {s : State} {flags a : Nat} (h : s.Sound) : (State.meetErrors s flags a).Sound := by
  unfold State.meetErrors
  dsimp only
  split
  · refine State.memUncorr_sound (State.Sound.mk_stack (t := s) h ?_)
    have w := h.wf
    simp only [Mem.wf] at w ⊢
    exact Cells.wf_write _ _ _ w
  · split
    · exact State.memFixed_sound (State.Sound.mk_stack h h.wf)
    · exact h

theorem State.markGranules_sound {s : State} {gs : List Nat} (hs : s.Sound) : (State.markGranules s gs).Sound := by
  unfold State.markGranules
  dsimp only
  repeat' first
    | with_reducible refine ite_sound ?_ ?_
    | (with_reducible refine State.Sound.mk_of ?_; with_reducible assumption)

theorem State.stackRead_sound {s : State} {a n : Nat} (hs : s.Sound) : (State.stackRead s a n).2.Sound := by
  unfold State.stackRead
  dsimp only
  repeat' first
    | with_reducible assumption
    | with_reducible refine State.meetErrors_sound ?_
    | with_reducible refine State.markGranules_sound ?_
    | with_reducible refine fold_sound (fun _ _ _ => ?_) ?_

theorem State.stackPut_sound {s : State} {a : Nat} {bs : List Byte} {p : Bool} (h : s.Sound) :
    (State.stackPut s a bs p).Sound := by
  unfold State.stackPut
  dsimp only
  split
  · exact ⟨Mem.wf_writeRaw _ _ _ _ h.wf, h.apart⟩
  · exact ⟨Mem.wf_writeRaw _ _ _ _ (State.meetErrors_sound h).wf, (State.meetErrors_sound h).apart⟩

theorem State.stackWrite_sound {s : State} {a : Nat} {bs : List PByte} (hs : s.Sound) : (State.stackWrite s a bs).Sound := by
  unfold State.stackWrite
  dsimp only
  repeat' first
    | with_reducible assumption
    | with_reducible refine State.stackPut_sound ?_
    | with_reducible refine fold_sound (fun _ _ _ => ?_) ?_

theorem State.poke_sound {s : State} {a : Nat} {bs : List Byte} (hs : s.Sound) : (State.poke s a bs).Sound := by
  unfold State.poke
  repeat' first
    | with_reducible assumption
    | with_reducible refine State.stackWrite_sound ?_

theorem State.pushCpl_sound {s : State} {c : CplRec} (hs : s.Sound) : (State.pushCpl s c).Sound := by
  unfold State.pushCpl
  dsimp only
  repeat' first
    | with_reducible refine ite_sound ?_ ?_
    | (with_reducible refine State.Sound.mk_of ?_; with_reducible assumption)

theorem State.complete_sound {s : State} {ring j status flags result : Nat} (hs : s.Sound) :
    (State.complete s ring j status flags result).Sound := by
  unfold State.complete
  repeat' first
    | with_reducible assumption
    | with_reducible refine State.pushCpl_sound ?_
    | (with_reducible refine State.Sound.mk_of ?_; with_reducible assumption)
    | split

theorem State.markColumn_sound {s : State} {col : Nat} {b : Bool} (hs : s.Sound) : (State.markColumn s col b).Sound := by
  unfold State.markColumn
  dsimp only
  repeat' first
    | with_reducible assumption
    | with_reducible refine State.setTile_sound ?_
    | with_reducible refine each_sound (fun _ _ _ => ?_) ?_

theorem State.spareTile_sound {s : State} {t : Nat} (hs : s.Sound) : (State.spareTile s t).1.Sound := by
  unfold State.spareTile
  dsimp only
  repeat' first
    | with_reducible refine State.event_sound ?_
    | with_reducible refine State.markColumn_sound ?_
    | (with_reducible refine State.Sound.mk_of ?_; with_reducible assumption)
    | split

theorem State.softEffect_sound {s : State} {e : Eff} (h : s.Sound) : (State.softEffect s e).Sound := by
  unfold State.softEffect
  split
  · exact State.post_sound h
  · split
    · exact h
    · exact ⟨foldRecord_wf _ _ _ (State.stackRead_sound h).wf, (State.stackRead_sound h).apart⟩
  · exact State.addReg_sound h
  · exact h
  · exact State.spareTile_sound h
  exact h

theorem State.ctrl_sound {s : State} {dst : Nat} {data : List Byte} (hs : s.Sound) : (State.ctrl s dst data).Sound := by
  unfold State.ctrl
  dsimp only
  repeat (with_reducible refine State.Sound.mk_of ?_; with_reducible assumption)

theorem State.parkTile_sound {s : State} {n : Nat} (hs : s.Sound) : (State.parkTile s n).Sound := by
  unfold State.parkTile
  dsimp only
  repeat' first
    | with_reducible assumption
    | with_reducible refine State.softEffect_sound ?_
    | with_reducible refine State.setTile_sound ?_
    | with_reducible refine fold_sound (fun _ _ _ => ?_) ?_
    | split

theorem State.beginAbort_sound {s : State} {reason : Nat} (hs : s.Sound) : (State.beginAbort s reason).Sound := by
  unfold State.beginAbort
  dsimp only
  repeat' first
    | with_reducible refine State.parkTile_sound ?_
    | with_reducible refine State.complete_sound ?_
    | (with_reducible refine State.Sound.mk_of ?_
       first
         | with_reducible assumption
         | with_reducible refine each_sound (fun _ _ _ => ?_) ?_)

theorem State.sendVote_sound {s : State} {data : List Byte} (hs : s.Sound) : (State.sendVote s data).Sound := by
  unfold State.sendVote
  repeat' first
    | with_reducible assumption
    | with_reducible refine State.ctrl_sound ?_
    | split

theorem State.decision_sound {s : State} {commit : Bool} (hs : s.Sound) : (State.decision s commit).Sound := by
  unfold State.decision
  dsimp only
  repeat' first
    | with_reducible assumption
    | with_reducible refine State.ctrl_sound ?_
    | with_reducible refine State.setReg_sound ?_
    | with_reducible refine State.beginAbort_sound ?_
    | with_reducible refine ite_sound ?_ ?_
    | (with_reducible refine State.Sound.mk_of ?_; with_reducible refine each_sound (fun _ _ _ => ?_) ?_)

theorem State.blame_sound {s : State} {reason lost : Nat} (hs : s.Sound) : (State.blame s reason lost).Sound := by
  unfold State.blame
  dsimp only
  repeat' first
    | with_reducible assumption
    | with_reducible refine State.setReg_sound ?_
    | with_reducible refine State.event_sound ?_
    | with_reducible refine State.decision_sound ?_
    | with_reducible refine State.sendVote_sound ?_
    | with_reducible refine ite_sound ?_ ?_

theorem State.cause_sound {s : State} {reason : Nat} (hs : s.Sound) : (State.cause s reason).Sound := by
  unfold State.cause
  repeat' first
    | with_reducible assumption
    | with_reducible refine State.blame_sound ?_

theorem State.retireTile_sound {s : State} {t : Nat} (hs : s.Sound) : (State.retireTile s t).Sound := by
  unfold State.retireTile
  dsimp only
  repeat' first
    | with_reducible assumption
    | with_reducible refine State.spareTile_sound ?_
    | with_reducible refine State.cause_sound ?_
    | with_reducible refine ite_sound ?_ ?_

theorem State.mapColumn_sound {s : State} {col first : Nat} (hs : s.Sound) : (State.mapColumn s col first).Sound := by
  unfold State.mapColumn
  dsimp only
  repeat (with_reducible refine State.Sound.mk_of ?_; with_reducible assumption)

theorem State.trip_sound {s : State} {status cause : Nat} {breaker : Bool} {loc detail : Nat} (hs : s.Sound) :
    (State.trip s status cause breaker loc detail).Sound := by
  unfold State.trip
  dsimp only
  repeat' first
    | with_reducible assumption
    | with_reducible refine State.setReg_sound ?_
    | with_reducible refine State.setFlag_sound ?_
    | with_reducible refine State.emit_sound ?_
    | (with_reducible refine State.Sound.mk_of ?_; with_reducible refine State.event_sound ?_)
    | split

theorem State.effect_sound {s : State} {e : Eff} (hs : s.Sound) : (State.effect s e).Sound := by
  unfold State.effect
  repeat' first
    | with_reducible assumption
    | with_reducible refine State.cause_sound ?_
    | with_reducible refine State.retireTile_sound ?_
    | with_reducible refine State.softEffect_sound ?_
    | with_reducible refine State.stackRead_sound ?_
    | split

theorem State.takeTile_sound {s : State} {t : Nat} {r : TileRes} (hs : s.Sound) : (State.takeTile s t r).Sound := by
  unfold State.takeTile
  repeat' first
    | with_reducible assumption
    | with_reducible refine State.effect_sound ?_
    | with_reducible refine State.setTile_sound ?_
    | with_reducible refine fold_sound (fun _ _ _ => ?_) ?_

theorem State.tileRead_sound {s : State} {t a n : Nat} (hs : s.Sound) : (State.tileRead s t a n).2.Sound := by
  unfold State.tileRead
  dsimp only
  repeat' first
    | with_reducible assumption
    | with_reducible refine State.takeTile_sound ?_

theorem State.tileWrite_sound {s : State} {t a : Nat} {bs : List PByte} (hs : s.Sound) : (State.tileWrite s t a bs).Sound := by
  unfold State.tileWrite
  dsimp only
  repeat' first
    | with_reducible assumption
    | with_reducible refine State.takeTile_sound ?_
    | with_reducible refine fold_sound (fun _ _ _ => ?_) ?_

theorem State.signalTile_sound {s : State} {t pair ctr count : Nat} {by_ : Raiser} {pc : Option Nat} (hs : s.Sound) :
    (State.signalTile s t pair ctr count by_ pc).Sound := by
  unfold State.signalTile
  repeat' first
    | with_reducible assumption
    | with_reducible refine State.takeTile_sound ?_

theorem State.signalChan_sound {s : State} {c ctr count : Nat} {remote : Bool} (hs : s.Sound) :
    (State.signalChan s c ctr count remote).Sound := by
  unfold State.signalChan
  dsimp only
  repeat' first
    | with_reducible assumption
    | with_reducible refine State.event_sound ?_
    | with_reducible refine State.setChan_sound ?_
    | with_reducible refine ite_sound ?_ ?_

/-! ### Address -/

theorem State.get_sound {s : State} {v : HostView} {a n : Nat} (hs : s.Sound) : (State.get s v a n).st.Sound := by
  unfold State.get
  dsimp only
  repeat' first
    | with_reducible assumption
    | with_reducible refine State.tileRead_sound ?_
    | with_reducible refine State.stackRead_sound ?_
    | with_reducible refine fold_snd_sound (fun _ _ _ => ?_) ?_
    | split

theorem State.put_sound {s : State} {a : Nat} {bs : List PByte} (hs : s.Sound) : (State.put s a bs).Sound := by
  unfold State.put
  dsimp only
  repeat' first
    | with_reducible assumption
    | with_reducible refine State.tileWrite_sound ?_
    | with_reducible refine State.stackWrite_sound ?_
    | with_reducible refine State.emit_sound ?_
    | with_reducible refine ite_sound ?_ ?_
    | with_reducible refine fold_fst_sound (fun _ _ _ => ?_) ?_
    | split

theorem State.fetch_sound {s : State} {v : HostView} {a n : Nat} (hs : s.Sound) : (State.fetch s v a n).st.Sound := by
  unfold State.fetch
  repeat' first
    | with_reducible assumption
    | with_reducible refine State.get_sound ?_
    | split

theorem State.readStruct_sound {s : State} {v : HostView} {a n : Nat} (hs : s.Sound) : (State.readStruct s v a n).2.Sound := by
  unfold State.readStruct
  dsimp only
  repeat' first
    | with_reducible assumption
    | with_reducible refine State.fetch_sound ?_
    | split

theorem State.readStruct_eq {s : State} {v : HostView} {a n : Nat} {s' : State} {r0} (hs : s.Sound)
    (he : State.readStruct s v a n = (r0, s')) : s'.Sound := by
  have k := State.readStruct_sound (s := s) (v := v) (a := a) (n := n) hs
  rw [he] at k
  exact k

theorem State.tensorBy_sound {s : State} {check : Tensor → Option Nat} {r : AddrRule} {v : HostView} {a : Nat}
    (hs : s.Sound) : (State.tensorBy s check r v a).2.Sound := by
  unfold State.tensorBy
  dsimp only
  repeat' first
    | with_reducible assumption
    | refine State.readStruct_eq ?_ (by assumption)
    | split

theorem State.tensorBy_eq {s : State} {check : Tensor → Option Nat} {r : AddrRule} {v : HostView} {a : Nat} {s' : State}
    {r0} (hs : s.Sound) (he : State.tensorBy s check r v a = (r0, s')) : s'.Sound := by
  have k := State.tensorBy_sound (s := s) (check := check) (r := r) (v := v) (a := a) hs
  rw [he] at k
  exact k

theorem State.tensor_sound {s : State} {r : AddrRule} {v : HostView} {a : Nat} (hs : s.Sound) :
    (State.tensor s r v a).2.Sound := by
  unfold State.tensor
  repeat' first
    | with_reducible assumption
    | with_reducible refine State.tensorBy_sound ?_

theorem State.tensor_eq {s : State} {r : AddrRule} {v : HostView} {a : Nat} {s' : State} {r0} (hs : s.Sound)
    (he : State.tensor s r v a = (r0, s')) : s'.Sound := by
  have k := State.tensor_sound (s := s) (r := r) (v := v) (a := a) hs
  rw [he] at k
  exact k

/-! ### Mesh -/

theorem State.enterMesh_sound {s : State} {m : MeshMsg} (hs : s.Sound) : (State.enterMesh s m).Sound := by
  unfold State.enterMesh
  dsimp only
  repeat (with_reducible refine State.Sound.mk_of ?_; with_reducible assumption)

theorem State.dropMesh_sound {s : State} {n : Nat} (hs : s.Sound) : (State.dropMesh s n).Sound := by
  unfold State.dropMesh
  dsimp only
  repeat (with_reducible refine State.Sound.mk_of ?_; with_reducible assumption)

/-! ### Tick -/

theorem State.chargeIdle_sound {s : State} (hs : s.Sound) : (State.chargeIdle s).Sound := by
  unfold State.chargeIdle
  repeat (with_reducible refine State.Sound.mk_of ?_; with_reducible assumption)

theorem State.timePins_sound {s : State} {before : Nat} (hs : s.Sound) : (State.timePins s before).Sound := by
  unfold State.timePins
  dsimp only
  repeat' first
    | with_reducible refine State.emit_sound ?_
    | (with_reducible refine State.Sound.mk_of ?_
       first
         | with_reducible assumption
         | with_reducible refine ite_sound ?_ ?_)

theorem State.countLimit_sound {s : State} (hs : s.Sound) : (State.countLimit s).Sound := by
  unfold State.countLimit
  dsimp only
  repeat' first
    | with_reducible refine State.addReg_sound ?_
    | (with_reducible refine State.Sound.mk_of ?_; with_reducible assumption)

theorem State.tick_sound {s : State} (hs : s.Sound) : (State.tick s).Sound := by
  unfold State.tick
  repeat' first
    | with_reducible refine State.timePins_sound ?_
    | with_reducible refine State.countLimit_sound ?_
    | with_reducible refine ite_sound ?_ ?_
    | (with_reducible refine State.Sound.mk_of ?_
       first
         | with_reducible assumption
         | with_reducible refine State.chargeIdle_sound ?_)

end Sys2Proof.Machine
end

