-- ==== Sys2Proof/Laws/SoundTile.lean ====
section
/-! SUPPORT. What keeps a state sound (`State.Sound`: R159, R253): what a tile issues.
One lemma per operation and per command. -/

namespace Sys2Proof.Machine

/-! ### TileCommands -/

theorem State.trace_sound {s : State} {t pc opcode : Nat} (hs : s.Sound) : (State.trace s t pc opcode).Sound := by
  unfold State.trace
  dsimp only
  repeat' first
    | with_reducible assumption
    | with_reducible refine State.addReg_sound ?_
    | with_reducible refine State.put_sound ?_
    | with_reducible refine ite_sound ?_ ?_
    | split

theorem State.onTile_sound {s : State} {t : Nat} {f : Tile → TileRes} (hs : s.Sound) : (State.onTile s t f).Sound := by
  unfold State.onTile
  repeat' first
    | with_reducible assumption
    | with_reducible refine State.takeTile_sound ?_

theorem State.fetched_sound {s : State} {t : Nat} (hs : s.Sound) : (State.fetched s t).Sound := by
  unfold State.fetched
  repeat' first
    | with_reducible assumption
    | with_reducible refine State.onTile_sound ?_

theorem State.issue_sound {s : State} {t : Nat} {i : TInsn} {f : Tile → TileRes} (hs : s.Sound) :
    (State.issue s t i f).Sound := by
  unfold State.issue
  dsimp only
  repeat' first
    | with_reducible assumption
    | with_reducible refine State.fetched_sound ?_
    | with_reducible refine State.takeTile_sound ?_
    | with_reducible refine State.trace_sound ?_
    | with_reducible refine ite_sound ?_ ?_

theorem State.issueWork_sound {s : State} {t : Nat} {i : TInsn} (hs : s.Sound) : (State.issueWork s t i).Sound := by
  unfold State.issueWork
  repeat' first
    | with_reducible assumption
    | with_reducible refine State.issue_sound ?_

theorem execNop_sound {t : Nat} {s s' : State} (hs : s.Sound) (he : execNop t s = .next s') : s'.Sound := by
  refine next_sound ?_ he
  repeat' first
    | with_reducible assumption
    | with_reducible refine State.issue_sound ?_

theorem execEnd_sound {t : Nat} {s s' : State} (hs : s.Sound) (he : execEnd t s = .next s') : s'.Sound := by
  refine next_sound ?_ he
  repeat' first
    | with_reducible assumption
    | with_reducible refine State.issue_sound ?_

theorem execTileEndDone_sound {t : Nat} {s s' : State} (hs : s.Sound) (he : execTileEndDone t s = .next s') : s'.Sound := by
  refine next_sound ?_ he
  repeat' first
    | with_reducible assumption
    | with_reducible refine State.onTile_sound ?_
    | with_reducible refine ite_sound ?_ ?_

theorem execRdreg_sound {t : Nat} {f : RdregF} {s s' : State} (hs : s.Sound) (he : execRdreg t f s = .next s') : s'.Sound := by
  refine next_sound ?_ he
  repeat' first
    | with_reducible assumption
    | with_reducible refine State.issue_sound ?_

theorem execWrreg_sound {t : Nat} {f : WrregF} {s s' : State} (hs : s.Sound) (he : execWrreg t f s = .next s') : s'.Sound := by
  refine next_sound ?_ he
  repeat' first
    | with_reducible assumption
    | with_reducible refine State.issue_sound ?_

theorem execFence_sound {t : Nat} {s s' : State} (hs : s.Sound) (he : execFence t s = .next s') : s'.Sound := by
  refine next_sound ?_ he
  repeat' first
    | with_reducible assumption
    | with_reducible refine State.issue_sound ?_

theorem execFenceSatisfied_sound {t : Nat} {s s' : State} (hs : s.Sound) (he : execFenceSatisfied t s = .next s') : s'.Sound := by
  refine next_sound ?_ he
  repeat' first
    | with_reducible assumption
    | with_reducible refine State.onTile_sound ?_

theorem execTrap_sound {t code : Nat} {s s' : State} (hs : s.Sound) (he : execTrap t code s = .next s') : s'.Sound := by
  refine next_sound ?_ he
  repeat' first
    | with_reducible assumption
    | with_reducible refine State.issue_sound ?_

theorem execIllegalOpcode_sound {t : Nat} {s s' : State} (hs : s.Sound) (he : execIllegalOpcode t s = .next s') : s'.Sound := by
  refine next_sound ?_ he
  repeat' first
    | with_reducible assumption
    | with_reducible refine State.issue_sound ?_
    | split

theorem execLi_sound {t : Nat} {f : LiF} {s s' : State} (hs : s.Sound) (he : execLi t f s = .next s') : s'.Sound := by
  refine next_sound ?_ he
  repeat' first
    | with_reducible assumption
    | with_reducible refine State.issue_sound ?_

theorem execAddi_sound {t : Nat} {f : AddiF} {s s' : State} (hs : s.Sound) (he : execAddi t f s = .next s') : s'.Sound := by
  refine next_sound ?_ he
  repeat' first
    | with_reducible assumption
    | with_reducible refine State.issue_sound ?_

theorem execAlu_sound {t : Nat} {f : AluF} {s s' : State} (hs : s.Sound) (he : execAlu t f s = .next s') : s'.Sound := by
  refine next_sound ?_ he
  repeat' first
    | with_reducible assumption
    | with_reducible refine State.issue_sound ?_

theorem execBr_sound {t : Nat} {f : BrF} {s s' : State} (hs : s.Sound) (he : execBr t f s = .next s') : s'.Sound := by
  refine next_sound ?_ he
  repeat' first
    | with_reducible assumption
    | with_reducible refine State.issue_sound ?_

theorem execJmp_sound {t target : Nat} {s s' : State} (hs : s.Sound) (he : execJmp t target s = .next s') : s'.Sound := by
  refine next_sound ?_ he
  repeat' first
    | with_reducible assumption
    | with_reducible refine State.issue_sound ?_

theorem execLoop_sound {t : Nat} {f : LoopF} {s s' : State} (hs : s.Sound) (he : execLoop t f s = .next s') : s'.Sound := by
  refine next_sound ?_ he
  repeat' first
    | with_reducible assumption
    | with_reducible refine State.issue_sound ?_

theorem execLoopExit_sound {t lc : Nat} {s s' : State} (hs : s.Sound) (he : execLoopExit t lc s = .next s') : s'.Sound := by
  refine next_sound ?_ he
  repeat' first
    | with_reducible assumption
    | with_reducible refine State.onTile_sound ?_

theorem execLockstepMismatch_sound {t : Nat} {s s' : State} (hs : s.Sound)
    (he : execLockstepMismatch t s = .next s') : s'.Sound := by
  refine next_sound ?_ he
  repeat' first
    | with_reducible assumption
    | with_reducible refine State.onTile_sound ?_

theorem execSig_sound {t : Nat} {f : SigF} {s s' : State} (hs : s.Sound) (he : execSig t f s = .next s') : s'.Sound := by
  refine next_sound ?_ he
  repeat' first
    | with_reducible assumption
    | with_reducible refine State.issue_sound ?_

theorem execWait_sound {t : Nat} {f : WaitF} {s s' : State} (hs : s.Sound) (he : execWait t f s = .next s') : s'.Sound := by
  refine next_sound ?_ he
  repeat' first
    | with_reducible assumption
    | with_reducible refine State.issue_sound ?_

theorem execWaitSatisfied_sound {t : Nat} {s s' : State} (hs : s.Sound) (he : execWaitSatisfied t s = .next s') : s'.Sound := by
  refine next_sound ?_ he
  repeat' first
    | with_reducible assumption
    | with_reducible refine State.onTile_sound ?_
    | with_reducible refine ite_sound ?_ ?_

theorem execStwait_sound {t : Nat} {f : StwaitF} {s s' : State} (hs : s.Sound) (he : execStwait t f s = .next s') : s'.Sound := by
  refine next_sound ?_ he
  repeat' first
    | with_reducible assumption
    | with_reducible refine State.issue_sound ?_

theorem execStwaitSatisfied_sound {t : Nat} {s s' : State} (hs : s.Sound)
    (he : execStwaitSatisfied t s = .next s') : s'.Sound := by
  refine next_sound ?_ he
  repeat' first
    | with_reducible assumption
    | with_reducible refine State.onTile_sound ?_

theorem execHcsend_sound {t : Nat} {f : HcsendF} {s s' : State} (hs : s.Sound) (he : execHcsend t f s = .next s') : s'.Sound := by
  refine next_sound ?_ he
  repeat' first
    | with_reducible assumption
    | with_reducible refine State.issue_sound ?_

theorem execVop_sound {t : Nat} {f : VopF} {s s' : State} (hs : s.Sound) (he : execVop t f s = .next s') : s'.Sound := by
  refine next_sound ?_ he
  repeat' first
    | with_reducible assumption
    | with_reducible refine State.issueWork_sound ?_

theorem execVred_sound {t : Nat} {f : VredF} {s s' : State} (hs : s.Sound) (he : execVred t f s = .next s') : s'.Sound := by
  refine next_sound ?_ he
  repeat' first
    | with_reducible assumption
    | with_reducible refine State.issueWork_sound ?_

theorem execCvt_sound {t : Nat} {f : CvtF} {s s' : State} (hs : s.Sound) (he : execCvt t f s = .next s') : s'.Sound := by
  refine next_sound ?_ he
  repeat' first
    | with_reducible assumption
    | with_reducible refine State.issueWork_sound ?_

theorem execMerge_sound {t : Nat} {f : MergeF} {s s' : State} (hs : s.Sound) (he : execMerge t f s = .next s') : s'.Sound := by
  refine next_sound ?_ he
  repeat' first
    | with_reducible assumption
    | with_reducible refine State.issueWork_sound ?_

theorem execMma_sound {t : Nat} {f : MmaF} {s s' : State} (hs : s.Sound) (he : execMma t f s = .next s') : s'.Sound := by
  refine next_sound ?_ he
  repeat' first
    | with_reducible assumption
    | with_reducible refine State.issueWork_sound ?_

theorem execAttForward_sound {t : Nat} {f : AttF} {s s' : State} (hs : s.Sound)
    (he : execAttForward t f s = .next s') : s'.Sound := by
  refine next_sound ?_ he
  repeat' first
    | with_reducible assumption
    | with_reducible refine State.issueWork_sound ?_
    | with_reducible refine ite_sound ?_ ?_

theorem execAttBackward_sound {t : Nat} {f : AttF} {s s' : State} (hs : s.Sound)
    (he : execAttBackward t f s = .next s') : s'.Sound := by
  refine next_sound ?_ he
  repeat' first
    | with_reducible assumption
    | with_reducible refine State.issueWork_sound ?_
    | with_reducible refine ite_sound ?_ ?_

theorem execSegmentVerify_sound {t : Nat} {corrupt : List (Nat × Nat)} {s s' : State} (hs : s.Sound)
    (he : execSegmentVerify t corrupt s = .next s') : s'.Sound := by
  refine next_sound ?_ he
  repeat' first
    | with_reducible assumption
    | with_reducible refine State.onTile_sound ?_

theorem execSegmentRetryDone_sound {t : Nat} {corrupt : List (Nat × Nat)} {s s' : State} (hs : s.Sound)
    (he : execSegmentRetryDone t corrupt s = .next s') : s'.Sound := by
  refine next_sound ?_ he
  repeat' first
    | with_reducible assumption
    | with_reducible refine State.onTile_sound ?_

theorem execMmaComplete_sound {t : Nat} {s s' : State} (hs : s.Sound) (he : execMmaComplete t s = .next s') : s'.Sound := by
  refine next_sound ?_ he
  repeat' first
    | with_reducible assumption
    | with_reducible refine State.onTile_sound ?_

theorem execInstructionComplete_sound {t : Nat} {att : Bool} {s s' : State} (hs : s.Sound)
    (he : execInstructionComplete t att s = .next s') : s'.Sound := by
  refine next_sound ?_ he
  repeat' first
    | with_reducible assumption
    | with_reducible refine State.onTile_sound ?_

theorem execTmemScrub_sound {t : Nat} {upsets : List (Nat × Bool)} {s s' : State} (hs : s.Sound)
    (he : execTmemScrub t upsets s = .next s') : s'.Sound := by
  refine next_sound ?_ he
  repeat' first
    | with_reducible assumption
    | with_reducible refine State.onTile_sound ?_

theorem execTmemScrubPassEnd_sound {t : Nat} {late : Bool} {s s' : State} (hs : s.Sound)
    (he : execTmemScrubPassEnd t late s = .next s') : s'.Sound := by
  refine next_sound ?_ he
  repeat' first
    | with_reducible assumption
    | with_reducible refine State.onTile_sound ?_

theorem execLivenessAdvance_sound {t : Nat} {s s' : State} (hs : s.Sound)
    (he : execLivenessAdvance t s = .next s') : s'.Sound := by
  refine next_sound ?_ he
  repeat' first
    | with_reducible assumption
    | with_reducible refine State.onTile_sound ?_

theorem execWatchdogSample_sound {die : Nat} {s s' : State} (hs : s.Sound)
    (he : execWatchdogSample die s = .next s') : s'.Sound := by
  refine next_sound ?_ he
  repeat' first
    | with_reducible assumption
    | with_reducible refine State.onTile_sound ?_
    | with_reducible refine each_sound (fun _ _ _ => ?_) ?_

end Sys2Proof.Machine
end

