-- ==== Sys2Proof/Laws/SoundStreams.lean ====
section
/-! SUPPORT. What keeps a state sound (`State.Sound`: R159, R253): descriptors, collectives' packets and stream transfers.
One lemma per operation and per command. -/

namespace Sys2Proof.Machine

/-! ### Descriptors -/

theorem State.take_sound {s : State} {r j : Nat} (hs : s.Sound) : (State.take s r j).Sound := by
  unfold State.take
  dsimp only
  repeat (with_reducible refine State.Sound.mk_of ?_; with_reducible assumption)

theorem State.finish_sound {s : State} {r j status : Nat} (hs : s.Sound) : (State.finish s r j status).Sound := by
  unfold State.finish
  repeat' first
    | with_reducible assumption
    | with_reducible refine State.complete_sound ?_

theorem State.onDesc_sound {s : State} {r j op : Nat} {f : State → Desc → State} (hs : s.Sound)
    (kf : ∀ y0 y1, State.Sound y0 → (f y0 y1).Sound) : (State.onDesc s r j op f).Sound := by
  unfold State.onDesc
  repeat' first
    | with_reducible assumption
    | with_reducible refine kf _ _ ?_
    | with_reducible refine State.finish_sound ?_
    | with_reducible refine ite_sound ?_ ?_
    | split

theorem State.enqueue_sound {s : State} {ch : Nat} {by_ : Submitter} {job : Job} {td : Option Tensor} {taint : Bool}
    (hs : s.Sound) : (State.enqueue s ch by_ job td taint).Sound := by
  unfold State.enqueue
  dsimp only
  repeat' first
    | with_reducible assumption
    | with_reducible refine State.setChan_sound ?_

/-! ### Collective -/

theorem State.setColl_sound {s : State} {c : Coll} (hs : s.Sound) : (State.setColl s c).Sound := by
  unfold State.setColl
  dsimp only
  repeat (with_reducible refine State.Sound.mk_of ?_; with_reducible assumption)

theorem State.dropColl_sound {s : State} {r j : Nat} (hs : s.Sound) : (State.dropColl s r j).Sound := by
  unfold State.dropColl
  dsimp only
  repeat (with_reducible refine State.Sound.mk_of ?_; with_reducible assumption)

theorem State.tainted_sound {s : State} {t : Tensor} {source where_ a : Nat} (hs : s.Sound) :
    (State.tainted s t source where_ a).Sound := by
  unfold State.tainted
  repeat' first
    | with_reducible assumption
    | with_reducible refine State.event_sound ?_
    | with_reducible refine State.cause_sound ?_
    | with_reducible refine ite_sound ?_ ?_

theorem State.policy_sound {s : State} {td : Option Tensor} {source where_ : Nat} {ps : List Piece} (hs : s.Sound) :
    (State.policy s td source where_ ps).Sound := by
  unfold State.policy
  repeat' first
    | with_reducible assumption
    | with_reducible refine State.tainted_sound ?_
    | split

theorem State.zeroRest_sound {s : State} {c : Coll} (hs : s.Sound) : (State.zeroRest s c).Sound := by
  unfold State.zeroRest
  repeat' first
    | with_reducible assumption
    | with_reducible refine State.put_sound ?_
    | with_reducible refine State.tainted_sound ?_
    | with_reducible refine each_sound (fun _ _ _ => ?_) ?_
    | split

theorem State.freeQueue_sound {s : State} {c : Coll} {target status : Nat} (hs : s.Sound) :
    (State.freeQueue s c target status).Sound := by
  unfold State.freeQueue
  dsimp only
  repeat' first
    | with_reducible assumption
    | with_reducible refine State.setChan_sound ?_
    | with_reducible refine State.emit_sound ?_
    | split

theorem State.endColl_sound {s : State} {c : Coll} {status result : Nat} (hs : s.Sound) :
    (State.endColl s c status result).Sound := by
  unfold State.endColl
  dsimp only
  repeat' first
    | with_reducible assumption
    | with_reducible refine State.freeQueue_sound ?_
    | with_reducible refine State.dropColl_sound ?_
    | with_reducible refine State.complete_sound ?_

theorem State.stopColl_sound {s : State} {c : Coll} {status : Nat} (hs : s.Sound) : (State.stopColl s c status).Sound := by
  unfold State.stopColl
  dsimp only
  repeat' first
    | with_reducible assumption
    | with_reducible refine State.zeroRest_sound ?_
    | with_reducible refine State.endColl_sound ?_
    | with_reducible refine ite_sound ?_ ?_

/-! ### Net -/

theorem State.addTxn_sound {s : State} {t : Txn} (hs : s.Sound) : (State.addTxn s t).Sound := by
  unfold State.addTxn
  dsimp only
  repeat (with_reducible refine State.Sound.mk_of ?_; with_reducible assumption)

theorem State.useTids_sound {s : State} {n : Nat} (hs : s.Sound) : (State.useTids s n).Sound := by
  unfold State.useTids
  dsimp only
  repeat (with_reducible refine State.Sound.mk_of ?_; with_reducible assumption)

theorem State.setTxn_sound {s : State} {t : Txn} (hs : s.Sound) : (State.setTxn s t).Sound := by
  unfold State.setTxn
  dsimp only
  repeat (with_reducible refine State.Sound.mk_of ?_; with_reducible assumption)

theorem State.dropTxn_sound {s : State} {t : Txn} (hs : s.Sound) : (State.dropTxn s t).Sound := by
  unfold State.dropTxn
  dsimp only
  repeat (with_reducible refine State.Sound.mk_of ?_; with_reducible assumption)

theorem State.busError_sound {s : State} {ch xfer slot : Nat} {read : Bool} {off : Nat} (hs : s.Sound) :
    (State.busError s ch xfer slot read off).Sound := by
  unfold State.busError
  dsimp only
  repeat' first
    | with_reducible assumption
    | with_reducible refine State.setChan_sound ?_
    | with_reducible refine State.cause_sound ?_
    | with_reducible refine State.event_sound ?_
    | with_reducible refine ite_sound ?_ ?_
    | split

theorem State.answerTxn_sound {s : State} {t : Txn} (hs : s.Sound) : (State.answerTxn s t).Sound := by
  unfold State.answerTxn
  repeat' first
    | with_reducible assumption
    | with_reducible refine State.dropTxn_sound ?_
    | with_reducible refine State.setTxn_sound ?_
    | with_reducible refine ite_sound ?_ ?_

theorem State.failTxn_sound {s : State} {tid tseq : Nat} (hs : s.Sound) : (State.failTxn s tid tseq).Sound := by
  unfold State.failTxn
  dsimp only
  repeat' first
    | with_reducible assumption
    | with_reducible refine State.answerTxn_sound ?_
    | with_reducible refine State.busError_sound ?_
    | with_reducible refine State.complete_sound ?_
    | with_reducible refine State.stopColl_sound ?_
    | with_reducible refine State.cause_sound ?_
    | split

theorem State.lostMessage_sound {s : State} {rank order : Nat} (hs : s.Sound) : (State.lostMessage s rank order).Sound := by
  unfold State.lostMessage
  dsimp only
  repeat' first
    | with_reducible assumption
    | with_reducible refine State.event_sound ?_
    | with_reducible refine State.cause_sound ?_
    | with_reducible refine ite_sound ?_ ?_
    | (with_reducible refine State.Sound.mk_of ?_; with_reducible assumption)
    | split

theorem State.lostPacket_sound {s : State} {p : Packet} (hs : s.Sound) : (State.lostPacket s p).Sound := by
  unfold State.lostPacket
  dsimp only
  repeat' first
    | with_reducible assumption
    | with_reducible refine State.failTxn_sound ?_
    | with_reducible refine State.lostMessage_sound ?_
    | with_reducible refine State.event_sound ?_
    | with_reducible refine ite_sound ?_ ?_

theorem State.sendPacket_sound {s : State} {vc : Nat} {p : Packet} (hs : s.Sound) : (State.sendPacket s vc p).Sound := by
  unfold State.sendPacket
  repeat' first
    | with_reducible assumption
    | with_reducible refine State.lostPacket_sound ?_
    | with_reducible refine State.setLink_sound ?_
    | with_reducible refine ite_sound ?_ ?_
    | split

theorem State.netWrite_sound {s : State} {owner : Owner} {x : InXfer} {vc : Nat} {ordered : Bool} {a off : Nat}
    {bs : List PByte} (hs : s.Sound) : (State.netWrite s owner x vc ordered a off bs).Sound := by
  unfold State.netWrite
  dsimp only
  repeat' first
    | with_reducible assumption
    | with_reducible refine State.addTxn_sound ?_
    | with_reducible refine State.sendPacket_sound ?_
    | with_reducible refine each_sound (fun _ _ _ => ?_) ?_

theorem State.netRead_sound {s : State} {owner : Owner} {x : InXfer} {vc a off n : Nat} (hs : s.Sound) :
    (State.netRead s owner x vc a off n).Sound := by
  unfold State.netRead
  dsimp only
  repeat' first
    | with_reducible assumption
    | with_reducible refine State.addTxn_sound ?_
    | with_reducible refine State.sendPacket_sound ?_
    | with_reducible refine each_sound (fun _ _ _ => ?_) ?_

theorem State.sendCtrl_sound {s : State} {dst : Nat} {data : List Byte} (hs : s.Sound) : (State.sendCtrl s dst data).Sound := by
  unfold State.sendCtrl
  repeat' first
    | with_reducible assumption
    | with_reducible refine State.sendPacket_sound ?_

theorem State.sendOver_sound {s : State} {l dst : Nat} {data : List Byte} (hs : s.Sound) :
    (State.sendOver s l dst data).Sound := by
  unfold State.sendOver
  repeat' first
    | with_reducible assumption
    | with_reducible refine State.setLink_sound ?_

theorem State.sendWack_sound {s : State} {dst tid tseq : Nat} {err : Bool} (hs : s.Sound) :
    (State.sendWack s dst tid tseq err).Sound := by
  unfold State.sendWack
  repeat' first
    | with_reducible assumption
    | with_reducible refine State.sendPacket_sound ?_

theorem State.sendUnreachable_sound {s : State} {p : Packet} (hs : s.Sound) : (State.sendUnreachable s p).Sound := by
  unfold State.sendUnreachable
  repeat' first
    | with_reducible assumption
    | with_reducible refine State.sendPacket_sound ?_

theorem State.sendMessage_sound {s : State} {m : HcMsg} {tile : Option Nat} {chan : Option Nat} (hs : s.Sound) :
    (State.sendMessage s m tile chan).Sound := by
  unfold State.sendMessage
  dsimp only
  repeat' first
    | with_reducible assumption
    | with_reducible refine State.sendPacket_sound ?_
    | (with_reducible refine State.Sound.mk_of ?_; with_reducible refine State.useTids_sound ?_)

theorem State.consume_sound {s : State} {l : Nat} {a : Arrived} (hs : s.Sound) : (State.consume s l a).Sound := by
  unfold State.consume
  repeat' first
    | with_reducible assumption
    | with_reducible refine State.setLink_sound ?_

theorem State.checkCrc_sound {s : State} {l : Nat} {p : Packet} (hs : s.Sound) : (State.checkCrc s l p).Sound := by
  unfold State.checkCrc
  repeat' first
    | with_reducible assumption
    | with_reducible refine State.event_sound ?_
    | with_reducible refine ite_sound ?_ ?_

theorem State.onPacket_sound {s : State} {l kind : Nat} {f : State → Packet → State} (hs : s.Sound)
    (kf : ∀ y0 y1, State.Sound y0 → (f y0 y1).Sound) : (State.onPacket s l kind f).Sound := by
  unfold State.onPacket
  repeat' first
    | with_reducible assumption
    | with_reducible refine kf _ _ ?_
    | with_reducible refine State.consume_sound ?_
    | with_reducible refine State.checkCrc_sound ?_
    | split

theorem State.onCtrl_sound {s : State} {l code : Nat} {f : State → Packet → State} (hs : s.Sound)
    (kf : ∀ y0 y1, State.Sound y0 → (f y0 y1).Sound) : (State.onCtrl s l code f).Sound := by
  unfold State.onCtrl
  dsimp only
  repeat' first
    | with_reducible assumption
    | with_reducible refine kf _ _ ?_
    | with_reducible refine State.consume_sound ?_
    | with_reducible refine State.checkCrc_sound ?_
    | with_reducible refine ite_sound ?_ ?_
    | split

/-! ### Streams -/

theorem State.judgeCompress_sound {s : State} {v : HostView} {d : StrDesc} (hs : s.Sound) :
    (State.judgeCompress s v d).2.2.Sound := by
  unfold State.judgeCompress
  dsimp only
  repeat' first
    | with_reducible assumption
    | refine State.tensorBy_eq ?_ (by assumption)
    | split

theorem State.judgeAreaRead_sound {s : State} {v : HostView} {d : StrDesc} (hs : s.Sound) :
    (State.judgeAreaRead s v d).2.2.Sound := by
  unfold State.judgeAreaRead
  repeat' first
    | with_reducible assumption
    | refine State.tensor_eq ?_ (by assumption)
    | split

theorem State.judgeStream_sound {s : State} {v : HostView} {u e c : Nat} {d : StrDesc} (hs : s.Sound) :
    (State.judgeStream s v u e c d).2.2.Sound := by
  unfold State.judgeStream
  dsimp only
  repeat' first
    | with_reducible assumption
    | with_reducible refine State.judgeCompress_sound ?_
    | with_reducible refine State.judgeAreaRead_sound ?_
    | split

theorem State.readParts_sound {s : State} {v : HostView} {ps : List (Nat × Nat × Nat)} (h : s.Sound) :
    (State.readParts s v ps).st.Sound := by
  induction ps generalizing s with
  | nil => exact h
  | cons p r ih =>
    rw [State.readParts]
    dsimp only
    split
    · exact State.get_sound h
    · exact ih (State.get_sound h)

theorem State.readSeq_sound {s : State} {v : HostView} {p : Pat} {lo hi : Nat} (h : s.Sound) :
    (State.readSeq s v p lo hi).st.Sound := by
  unfold State.readSeq
  refine foldl_keeps (P := fun x : SeqGot => x.st.Sound) (fun acc b k => ?_) _ h
  dsimp only
  split
  · exact k
  · split
    · exact State.readParts_sound k
    · exact State.readParts_sound k

theorem State.putPieces_sound {s : State} {v : HostView} {ps : List Piece} (hs : s.Sound) : (State.putPieces s v ps).2.Sound := by
  unfold State.putPieces
  dsimp only
  repeat' first
    | with_reducible assumption
    | with_reducible refine State.put_sound ?_
    | with_reducible refine fold_sound (fun _ _ _ => ?_) ?_
    | split

theorem State.putPieces_eq {s : State} {v : HostView} {ps : List Piece} {s' : State} {r0} (hs : s.Sound)
    (he : State.putPieces s v ps = (r0, s')) : s'.Sound := by
  have k := State.putPieces_sound (s := s) (v := v) (ps := ps) hs
  rw [he] at k
  exact k

theorem State.setBusy_sound {s : State} {ch : Nat} {f : Xfer → Xfer} (hs : s.Sound) : (State.setBusy s ch f).Sound := by
  unfold State.setBusy
  dsimp only
  repeat' first
    | with_reducible assumption
    | with_reducible refine State.setChan_sound ?_

theorem State.nextParts_sound {s : State} {ch n : Nat} {last : Bool} (hs : s.Sound) : (State.nextParts s ch n last).2.Sound := by
  unfold State.nextParts
  repeat' first
    | with_reducible assumption
    | with_reducible refine State.setBusy_sound ?_
    | split

theorem State.sendWrites_sound {s : State} {ch k : Nat} {ordered last : Bool} {p : Piece} (hs : s.Sound) :
    (State.sendWrites s ch k ordered last p).Sound := by
  unfold State.sendWrites
  dsimp only
  repeat' first
    | with_reducible assumption
    | with_reducible refine State.nextParts_sound ?_
    | with_reducible refine State.netWrite_sound ?_
    | split

theorem State.deliver_sound {s : State} {v : HostView} {ch : Nat} {x : Xfer} {d : StrDesc} {k : Nat} {ps : List Piece}
    (hs : s.Sound) : (State.deliver s v ch x d k ps).Sound := by
  unfold State.deliver
  dsimp only
  repeat' first
    | with_reducible assumption
    | with_reducible refine State.setChan_sound ?_
    | with_reducible refine State.emit_sound ?_
    | with_reducible refine State.busError_sound ?_
    | with_reducible refine State.putPieces_sound ?_
    | with_reducible refine State.policy_sound ?_
    | with_reducible refine State.sendWrites_sound ?_
    | with_reducible refine each_sound (fun _ _ _ => ?_) ?_
    | split

theorem State.touchStack_sound {s : State} {l : List (Nat × Nat)} (hs : s.Sound) : (State.touchStack s l).Sound := by
  unfold State.touchStack
  repeat' first
    | with_reducible assumption
    | with_reducible refine State.stackRead_sound ?_
    | with_reducible refine fold_sound (fun _ _ _ => ?_) ?_

theorem State.buildTable_sound {s : State} {where_ t : Nat} {f : Fmt} {hist : List Nat} (hs : s.Sound) :
    (State.buildTable s where_ t f hist).2.Sound := by
  unfold State.buildTable
  repeat' first
    | with_reducible refine State.addReg_sound ?_
    | with_reducible refine State.event_sound ?_
    | with_reducible refine State.touchStack_sound ?_
    | with_reducible refine ite_sound ?_ ?_
    | (with_reducible refine State.Sound.mk_of ?_
       first
         | with_reducible assumption
         | with_reducible refine State.poke_sound ?_)

theorem State.transferTable_sound {s : State} {where_ : Nat} {d : StrDesc} {f : Fmt} {hist : List Nat} (hs : s.Sound) :
    (State.transferTable s where_ d f hist).2.Sound := by
  unfold State.transferTable
  repeat' first
    | with_reducible assumption
    | with_reducible refine State.buildTable_sound ?_
    | split

theorem State.tableStats_sound {s : State} {t : Nat} {f : Fmt} {syms : List Nat} {raw stored : Nat} (hs : s.Sound) :
    (State.tableStats s t f syms raw stored).Sound := by
  unfold State.tableStats
  repeat' first
    | with_reducible assumption
    | with_reducible refine State.poke_sound ?_
    | with_reducible refine State.touchStack_sound ?_
    | with_reducible refine ite_sound ?_ ?_
    | with_reducible refine each_sound (fun _ _ _ => ?_) ?_

theorem State.encode_sound {s : State} {where_ : Nat} {d : StrDesc} {latch : Option (Nat × List Nat)} {counts : List Nat}
    {bytes : List PByte} (hs : s.Sound) : (State.encode s where_ d latch counts bytes).st.Sound := by
  unfold State.encode
  dsimp only
  repeat' first
    | with_reducible assumption
    | with_reducible refine State.transferTable_sound ?_
    | with_reducible refine State.tableStats_sound ?_
    | with_reducible refine ite_sound ?_ ?_
    | with_reducible refine each_sound (fun _ _ _ => ?_) ?_
    | split

theorem State.compressSlot_sound {s : State} {v : HostView} {ch : Nat} {x : Xfer} {d : StrDesc} {bytes : List PByte}
    {errAt : Option Nat} (hs : s.Sound) : (State.compressSlot s v ch x d bytes errAt).Sound := by
  unfold State.compressSlot
  dsimp only
  repeat' first
    | with_reducible assumption
    | with_reducible refine State.encode_sound ?_
    | with_reducible refine State.setBusy_sound ?_
    | with_reducible refine State.deliver_sound ?_
    | split

theorem State.areaGet_sound {s : State} {v : HostView} {x : Xfer} {t : Tensor} {off n : Nat} (hs : s.Sound) :
    (State.areaGet s v x t off n).st.Sound := by
  unfold State.areaGet
  repeat' first
    | with_reducible assumption
    | with_reducible refine State.get_sound ?_
    | split

theorem RunGot.add_sound {r : RunGot} {g : Got} {p : Bool} (h : r.st.Sound) (k : g.st.Sound) : (r.add g p).st.Sound := by
  unfold RunGot.add
  split
  · exact h
  · split
    · exact k
    · exact k

theorem RunGot.block_sound {r : RunGot} {v : HostView} {x : Xfer} {t : Tensor} {f : Fmt} {k : Nat} {b : Bool} (h : r.st.Sound) :
    (RunGot.block r v x t f k b).st.Sound := by
  unfold RunGot.block
  dsimp only
  split
  repeat' first
    | with_reducible assumption
    | with_reducible refine RunGot.add_sound h ?_
    | with_reducible refine State.areaGet_sound ?_
    | split

theorem State.areaRun_sound {s : State} {v : HostView} {x : Xfer} {t : Tensor} {f : Fmt} {b0 n : Nat} (h : s.Sound) :
    (State.areaRun s v x t f b0 n).st.Sound := by
  unfold State.areaRun
  refine foldl_keeps (P := fun x : RunGot => x.st.Sound) (fun r i k => ?_) _ h
  dsimp only
  split
  · exact k
  · split
    · exact RunGot.add_sound k (State.areaGet_sound k)
    · refine RunGot.block_sound ?_
      split
      · exact RunGot.add_sound k (State.areaGet_sound k)
      · exact k

theorem State.areaSlot_sound {s : State} {v : HostView} {ch : Nat} {x : Xfer} {d : StrDesc} (hs : s.Sound) :
    (State.areaSlot s v ch x d).Sound := by
  unfold State.areaSlot
  dsimp only
  repeat' first
    | with_reducible assumption
    | with_reducible refine State.areaRun_sound ?_
    | with_reducible refine State.setBusy_sound ?_
    | with_reducible refine State.deliver_sound ?_
    | split

theorem State.openXfer_sound {s : State} {x : Xfer} (hs : s.Sound) : (State.openXfer s x).2.Sound := by
  unfold State.openXfer
  repeat' first
    | with_reducible assumption
    | with_reducible refine State.useTids_sound ?_
    | split

theorem State.moveSlot_sound {s : State} {v : HostView} {ch k : Nat} (hs : s.Sound) : (State.moveSlot s v ch k).Sound := by
  unfold State.moveSlot
  dsimp only
  repeat' first
    | with_reducible assumption
    | with_reducible refine State.setChan_sound ?_
    | with_reducible refine State.areaSlot_sound ?_
    | with_reducible refine State.readSeq_sound ?_
    | with_reducible refine State.compressSlot_sound ?_
    | with_reducible refine State.setBusy_sound ?_
    | with_reducible refine State.deliver_sound ?_
    | with_reducible refine ite_sound ?_ ?_
    | split

theorem State.requestSlot_sound {s : State} {ch k : Nat} (hs : s.Sound) : (State.requestSlot s ch k).Sound := by
  unfold State.requestSlot
  dsimp only
  repeat' first
    | with_reducible assumption
    | with_reducible refine State.setChan_sound ?_
    | with_reducible refine State.nextParts_sound ?_
    | with_reducible refine State.netRead_sound ?_
    | with_reducible refine each_sound (fun _ _ _ => ?_) ?_
    | split

theorem State.flush_sound {s : State} {v : HostView} {ch : Nat} (hs : s.Sound) : (State.flush s v ch).Sound := by
  unfold State.flush
  dsimp only
  repeat' first
    | with_reducible assumption
    | with_reducible refine State.setChan_sound ?_
    | with_reducible refine State.setBusy_sound ?_
    | with_reducible refine State.deliver_sound ?_
    | with_reducible refine State.compressSlot_sound ?_
    | with_reducible refine State.areaSlot_sound ?_
    | with_reducible refine each_sound (fun _ _ _ => ?_) ?_
    | split

theorem State.startSlot_sound {s : State} {v : HostView} {ch k : Nat} (hs : s.Sound) : (State.startSlot s v ch k).Sound := by
  unfold State.startSlot
  dsimp only
  repeat' first
    | with_reducible assumption
    | with_reducible refine State.touchStack_sound ?_
    | with_reducible refine State.setBusy_sound ?_
    | with_reducible refine State.moveSlot_sound ?_
    | with_reducible refine State.requestSlot_sound ?_
    | with_reducible refine State.flush_sound ?_
    | split

/-! ### StreamCommands -/

theorem State.streamIssued_sound {s : State} {t : Nat} {f : StreamF} {counted : Bool} (hs : s.Sound) :
    (State.streamIssued s t f counted).Sound := by
  unfold State.streamIssued
  dsimp only
  repeat' first
    | with_reducible assumption
    | with_reducible refine State.onTile_sound ?_

theorem State.acceptTile_sound {s : State} {row t : Nat} {f : StreamF} {v : HostView} (hs : s.Sound) :
    (State.acceptTile s row t f v).Sound := by
  unfold State.acceptTile
  dsimp only
  repeat' first
    | with_reducible assumption
    | with_reducible refine State.fetched_sound ?_
    | with_reducible refine State.setTile_sound ?_
    | with_reducible refine State.takeTile_sound ?_
    | with_reducible refine State.judgeStream_sound ?_
    | with_reducible refine State.onTile_sound ?_
    | with_reducible refine State.signalTile_sound ?_
    | with_reducible refine State.streamIssued_sound ?_
    | with_reducible refine State.trace_sound ?_
    | with_reducible refine State.enqueue_sound ?_
    | with_reducible refine ite_sound ?_ ?_
    | split

theorem State.acceptRing_sound {s : State} {row r j : Nat} {v : HostView} (hs : s.Sound) :
    (State.acceptRing s row r j v).Sound := by
  unfold State.acceptRing
  dsimp only
  repeat' first
    | with_reducible assumption
    | with_reducible refine State.complete_sound ?_
    | with_reducible refine State.judgeStream_sound ?_
    | with_reducible refine State.enqueue_sound ?_
    | with_reducible refine State.take_sound ?_
    | with_reducible refine ite_sound ?_ ?_
    | split

theorem State.accept_sound {s : State} {row : Nat} {by_ : StreamFrom} (hs : s.Sound) : (State.accept s row by_).Sound := by
  unfold State.accept
  repeat' first
    | with_reducible assumption
    | with_reducible refine State.acceptTile_sound ?_
    | with_reducible refine State.acceptRing_sound ?_
    | split

theorem execCopy_sound {b : StreamFrom} {s s' : State} (hs : s.Sound) (he : execCopy b s = .next s') : s'.Sound := by
  refine next_sound ?_ he
  repeat' first
    | with_reducible assumption
    | with_reducible refine State.accept_sound ?_

theorem execCompress_sound {b : StreamFrom} {s s' : State} (hs : s.Sound) (he : execCompress b s = .next s') : s'.Sound := by
  refine next_sound ?_ he
  repeat' first
    | with_reducible assumption
    | with_reducible refine State.accept_sound ?_

theorem execAreaRead_sound {b : StreamFrom} {s s' : State} (hs : s.Sound) (he : execAreaRead b s = .next s') : s'.Sound := by
  refine next_sound ?_ he
  repeat' first
    | with_reducible assumption
    | with_reducible refine State.accept_sound ?_

theorem execLanded_sound {b : StreamFrom} {s s' : State} (hs : s.Sound) (he : execLanded b s = .next s') : s'.Sound := by
  refine next_sound ?_ he
  repeat' first
    | with_reducible assumption
    | with_reducible refine State.accept_sound ?_

theorem execStreamDescriptorStart_sound {ch : Nat} {v : HostView} {s s' : State} (hs : s.Sound)
    (he : execStreamDescriptorStart ch v s = .next s') : s'.Sound := by
  refine next_sound ?_ he
  dsimp only
  repeat' first
    | with_reducible assumption
    | with_reducible refine State.openXfer_sound ?_
    | with_reducible refine State.setChan_sound ?_
    | with_reducible refine State.emit_sound ?_
    | with_reducible refine State.startSlot_sound ?_
    | with_reducible refine ite_sound ?_ ?_
    | with_reducible refine each_sound (fun _ _ _ => ?_) ?_
    | split

theorem execChainSlotGrant_sound {ch : Nat} {v : HostView} {s s' : State} (hs : s.Sound)
    (he : execChainSlotGrant ch v s = .next s') : s'.Sound := by
  refine next_sound ?_ he
  dsimp only
  repeat' first
    | with_reducible assumption
    | with_reducible refine State.setChan_sound ?_
    | with_reducible refine State.startSlot_sound ?_
    | with_reducible refine ite_sound ?_ ?_
    | split

theorem State.endTransfer_sound {s : State} {ch : Nat} {x : Xfer} {status flags result : Nat} (hs : s.Sound) :
    (State.endTransfer s ch x status flags result).Sound := by
  unfold State.endTransfer
  dsimp only
  repeat' first
    | with_reducible assumption
    | with_reducible refine State.setChan_sound ?_
    | with_reducible refine State.complete_sound ?_
    | with_reducible refine State.onTile_sound ?_
    | with_reducible refine State.signalTile_sound ?_
    | split

theorem execStreamComplete_sound {ch : Nat} {s s' : State} (hs : s.Sound)
    (he : execStreamComplete ch s = .next s') : s'.Sound := by
  refine next_sound ?_ he
  repeat' first
    | with_reducible assumption
    | with_reducible refine State.endTransfer_sound ?_
    | with_reducible refine ite_sound ?_ ?_
    | split

theorem execBusError_sound {ch : Nat} {v : HostView} {s s' : State} (hs : s.Sound)
    (he : execBusError ch v s = .next s') : s'.Sound := by
  refine next_sound ?_ he
  dsimp only
  repeat' first
    | with_reducible assumption
    | with_reducible refine State.flush_sound ?_
    | with_reducible refine State.setChan_sound ?_
    | with_reducible refine State.event_sound ?_
    | with_reducible refine State.cause_sound ?_
    | with_reducible refine State.endTransfer_sound ?_
    | with_reducible refine ite_sound ?_ ?_
    | split

theorem State.channelSignal_sound {s : State} {ch target : Nat} {tile : Option Nat} (hs : s.Sound) :
    (State.channelSignal s ch target tile).Sound := by
  unfold State.channelSignal
  dsimp only
  repeat' first
    | with_reducible assumption
    | with_reducible refine State.setChan_sound ?_

theorem execSlotSignal_sound {ch : Nat} {s s' : State} (hs : s.Sound) (he : execSlotSignal ch s = .next s') : s'.Sound := by
  refine next_sound ?_ he
  dsimp only
  repeat' first
    | with_reducible assumption
    | with_reducible refine State.setChan_sound ?_
    | with_reducible refine State.channelSignal_sound ?_
    | with_reducible refine ite_sound ?_ ?_
    | split

theorem execLandedComplete_sound {ch : Nat} {ok : Bool} {s s' : State} (hs : s.Sound)
    (he : execLandedComplete ch ok s = .next s') : s'.Sound := by
  refine next_sound ?_ he
  dsimp only
  repeat' first
    | with_reducible assumption
    | with_reducible refine State.setChan_sound ?_
    | with_reducible refine State.channelSignal_sound ?_
    | with_reducible refine State.endTransfer_sound ?_
    | with_reducible refine ite_sound ?_ ?_
    | split

end Sys2Proof.Machine
end

