-- ==== Sys2Proof/Laws/SoundHost.lean ====
section
/-! SUPPORT. What keeps a state sound (`State.Sound`: R159, R253): the handcart, the host interface, memory and objects.
One lemma per operation and per command. -/

namespace Sys2Proof.Machine

/-! ### Handcart -/

theorem State.sendVector_sound {s : State} {v : Nat} (hs : s.Sound) : (State.sendVector s v).Sound := by
  unfold State.sendVector
  dsimp only
  repeat' first
    | with_reducible assumption
    | with_reducible refine State.emit_sound ?_
    | with_reducible refine ite_sound ?_ ?_
    | (with_reducible refine State.Sound.mk_of ?_; with_reducible assumption)

theorem State.applySignal_sound {s : State} {m : HcMsg} {by_ : Raiser} (hs : s.Sound) :
    (State.applySignal s m by_).Sound := by
  unfold State.applySignal
  dsimp only
  repeat' first
    | with_reducible assumption
    | with_reducible refine State.signalTile_sound ?_
    | with_reducible refine State.signalChan_sound ?_
    | with_reducible refine ite_sound ?_ ?_
    | split

theorem State.writePayload_sound {s : State} {m : HcMsg} {poison : Bool} (hs : s.Sound) :
    (State.writePayload s m poison).Sound := by
  unfold State.writePayload
  repeat' first
    | with_reducible assumption
    | with_reducible refine State.tileWrite_sound ?_
    | split

theorem State.tileLeaves_sound {s : State} {t : Nat} (hs : s.Sound) : (State.tileLeaves s t).Sound := by
  unfold State.tileLeaves
  dsimp only
  repeat' first
    | with_reducible assumption
    | with_reducible refine State.setTile_sound ?_
    | with_reducible refine State.addReg_sound ?_
    | with_reducible refine State.enterMesh_sound ?_
    | with_reducible refine State.sendMessage_sound ?_
    | with_reducible refine ite_sound ?_ ?_
    | split

theorem State.chanLeaves_sound {s : State} {ch : Nat} (hs : s.Sound) : (State.chanLeaves s ch).Sound := by
  unfold State.chanLeaves
  dsimp only
  repeat' first
    | with_reducible assumption
    | with_reducible refine State.setChan_sound ?_
    | with_reducible refine State.enterMesh_sound ?_
    | with_reducible refine State.sendMessage_sound ?_
    | with_reducible refine ite_sound ?_ ?_
    | split

theorem execHandcartLeave_sound {p : PortFrom} {s s' : State} (hs : s.Sound)
    (he : execHandcartLeave p s = .next s') : s'.Sound := by
  refine next_sound ?_ he
  repeat' first
    | with_reducible assumption
    | with_reducible refine State.tileLeaves_sound ?_
    | with_reducible refine State.chanLeaves_sound ?_
    | split

theorem execHandcartDeliver_sound {n : Nat} {s s' : State} (hs : s.Sound)
    (he : execHandcartDeliver n s = .next s') : s'.Sound := by
  refine next_sound ?_ he
  repeat' first
    | with_reducible assumption
    | with_reducible refine State.dropMesh_sound ?_
    | with_reducible refine State.writePayload_sound ?_
    | with_reducible refine State.applySignal_sound ?_
    | split

theorem execMailboxWrite_sound {n : Nat} {s s' : State} (hs : s.Sound) (he : execMailboxWrite n s = .next s') : s'.Sound := by
  refine next_sound ?_ he
  dsimp only
  repeat' first
    | with_reducible assumption
    | with_reducible refine State.dropMesh_sound ?_
    | with_reducible refine State.emit_sound ?_
    | with_reducible refine State.sendVector_sound ?_
    | with_reducible refine ite_sound ?_ ?_
    | (with_reducible refine State.Sound.mk_of ?_; with_reducible refine State.emit_sound ?_)
    | split

theorem State.ackMessage_sound {s : State} {src order : Nat} (hs : s.Sound) : (State.ackMessage s src order).Sound := by
  unfold State.ackMessage
  repeat' first
    | with_reducible assumption
    | with_reducible refine State.ctrl_sound ?_

theorem State.holdMessage_sound {s : State} {src order : Nat} (hs : s.Sound) : (State.holdMessage s src order).Sound := by
  unfold State.holdMessage
  repeat' first
    | with_reducible assumption
    | with_reducible refine State.ctrl_sound ?_

theorem State.applyMessage_keeps {s t : State} {link : Nat} {p : Packet} (h : s.Sound) (e : s.applyMessage link p = some t) :
    t.Sound := by
  unfold State.applyMessage at e
  split at e
  · cases e
    exact State.event_sound h
  · split at e
    · cases e
      exact State.event_sound h
    · split at e
      · cases e
        exact State.writePayload_sound h
      · split at e
        · cases e
          exact State.applySignal_sound (State.writePayload_sound h)
        · split at e
          · cases e
            exact State.Sound.mk_of (State.writePayload_sound h)
          · cases e

theorem State.applyHeld_sound {n : Nat} {s : State} {src : Nat} (h : s.Sound) : (State.applyHeld s src n).Sound := by
  induction n generalizing s with
  | zero => exact h
  | succ n ih =>
    rw [State.applyHeld]
    dsimp only
    split
    · exact h
    · split
      · exact h
      · exact ih (State.ackMessage_sound (State.Sound.mk_of (State.applyMessage_keeps h (by assumption))))

theorem execMessage_sound {l : Nat} {s s' : State} (h : s.Sound) (he : execMessage l s = .next s') : s'.Sound := by
  refine next_sound ?_ he
  refine State.onPacket_sound h (fun s p k => ?_)
  dsimp only
  split
  · split
    · exact State.holdMessage_sound k
    · exact State.applyHeld_sound (State.ackMessage_sound (State.Sound.mk_of (State.applyMessage_keeps k (by assumption))))
  · split
    · split
      · exact State.Sound.mk_of k
      · exact State.holdMessage_sound k
    · exact State.ackMessage_sound k

theorem State.resend_sound {s : State} {rank order : Nat} (hs : s.Sound) : (State.resend s rank order).Sound := by
  unfold State.resend
  dsimp only
  repeat' first
    | with_reducible assumption
    | with_reducible refine State.sendPacket_sound ?_
    | (with_reducible refine State.Sound.mk_of ?_; with_reducible assumption)
    | split

theorem execHandcartAck_sound {link : Nat} {s s' : State} (hs : s.Sound) (he : execHandcartAck link s = .next s') : s'.Sound := by
  refine next_sound ?_ he
  dsimp only
  repeat' first
    | with_reducible assumption
    | with_reducible refine State.onCtrl_sound ?_ (fun _ _ _ => ?_)
    | with_reducible refine State.resend_sound ?_
    | with_reducible refine ite_sound ?_ ?_
    | with_reducible refine fold_sound (fun _ _ _ => ?_) ?_
    | (with_reducible refine State.Sound.mk_of ?_; with_reducible assumption)

theorem execHold_sound {link : Nat} {s s' : State} (hs : s.Sound) (he : execHold link s = .next s') : s'.Sound := by
  refine next_sound ?_ he
  dsimp only
  repeat' first
    | with_reducible assumption
    | with_reducible refine State.onCtrl_sound ?_ (fun _ _ _ => ?_)
    | with_reducible refine State.resend_sound ?_
    | with_reducible refine ite_sound ?_ ?_
    | (with_reducible refine State.Sound.mk_of ?_; with_reducible assumption)

theorem execHoldResendTimeout_sound {rank order : Nat} {s s' : State} (hs : s.Sound)
    (he : execHoldResendTimeout rank order s = .next s') : s'.Sound := by
  refine next_sound ?_ he
  repeat' first
    | with_reducible assumption
    | with_reducible refine State.resend_sound ?_
    | with_reducible refine ite_sound ?_ ?_
    | split

/-! ### Host -/

theorem execDoorbellPoll_sound {s s' : State} (hs : s.Sound) (he : execDoorbellPoll s = .next s') : s'.Sound := by
  refine next_sound ?_ he
  dsimp only
  repeat' first
    | with_reducible assumption
    | with_reducible refine State.addReg_sound ?_
    | with_reducible refine State.emit_sound ?_
    | with_reducible refine ite_sound ?_ ?_
    | with_reducible refine each_sound (fun _ _ _ => ?_) ?_
    | (with_reducible refine State.Sound.mk_of ?_; with_reducible assumption)

theorem State.takeConsumed_sound {s : State} {v : HostView} (hs : s.Sound) : (State.takeConsumed s v).Sound := by
  unfold State.takeConsumed
  dsimp only
  repeat (with_reducible refine State.Sound.mk_of ?_; with_reducible assumption)

theorem State.takeProduced_sound {s : State} {v : HostView} (hs : s.Sound) : (State.takeProduced s v).Sound := by
  unfold State.takeProduced
  dsimp only
  repeat (with_reducible refine State.Sound.mk_of ?_; with_reducible assumption)

theorem State.pollLevel_sound {s : State} {found : Bool} (hs : s.Sound) : (State.pollLevel s found).Sound := by
  unfold State.pollLevel
  dsimp only
  repeat' first
    | with_reducible refine State.setReg_sound ?_
    | with_reducible refine ite_sound ?_ ?_
    | (with_reducible refine State.Sound.mk_of ?_; with_reducible assumption)

theorem State.freeRings_sound {s : State} (hs : s.Sound) : (State.freeRings s).Sound := by
  unfold State.freeRings
  dsimp only
  repeat (with_reducible refine State.Sound.mk_of ?_; with_reducible assumption)

theorem execDoorbellPollResult_sound {v : HostView} {s s' : State} (hs : s.Sound)
    (he : execDoorbellPollResult v s = .next s') : s'.Sound := by
  refine next_sound ?_ he
  dsimp only
  repeat' first
    | with_reducible assumption
    | with_reducible refine State.freeRings_sound ?_
    | with_reducible refine State.post_sound ?_
    | with_reducible refine State.pollLevel_sound ?_
    | with_reducible refine State.takeConsumed_sound ?_
    | with_reducible refine State.takeProduced_sound ?_
    | with_reducible refine ite_sound ?_ ?_
    | (with_reducible refine State.Sound.mk_of ?_; with_reducible refine State.freeRings_sound ?_)

theorem execDescriptorFetch_sound {s s' : State} (hs : s.Sound) (he : execDescriptorFetch s = .next s') : s'.Sound := by
  refine next_sound ?_ he
  dsimp only
  repeat' first
    | with_reducible assumption
    | with_reducible refine State.emit_sound ?_
    | with_reducible refine ite_sound ?_ ?_
    | with_reducible refine each_sound (fun _ _ _ => ?_) ?_
    | (with_reducible refine State.Sound.mk_of ?_; with_reducible assumption)
    | split

theorem State.latchStream_sound {s : State} {v : HostView} {d : Desc} (hs : s.Sound) : (State.latchStream s v d).2.Sound := by
  unfold State.latchStream
  dsimp only
  repeat' first
    | with_reducible assumption
    | refine State.readStruct_eq ?_ (by assumption)
    | split

theorem State.acceptDescs_sound {n : Nat} {s : State} {v : HostView} {r j : Nat} (h : s.Sound) :
    (State.acceptDescs s v r n j).Sound := by
  induction n generalizing s j with
  | zero => exact h
  | succ n ih =>
    rw [State.acceptDescs]
    dsimp only
    split
    · exact ih (State.Sound.mk_of (State.setReg_sound (State.latchStream_sound h)))
    · exact State.Sound.mk_of h

theorem execDescriptorFetchResult_sound {v : HostView} {s s' : State} (hs : s.Sound)
    (he : execDescriptorFetchResult v s = .next s') : s'.Sound := by
  refine next_sound ?_ he
  dsimp only
  repeat' first
    | with_reducible assumption
    | with_reducible refine State.post_sound ?_
    | with_reducible refine State.acceptDescs_sound ?_
    | with_reducible refine ite_sound ?_ ?_
    | (with_reducible refine State.Sound.mk_of ?_; with_reducible assumption)
    | split

theorem execDescriptorStart_sound {r j : Nat} {s s' : State} (hs : s.Sound)
    (he : execDescriptorStart r j s = .next s') : s'.Sound := by
  refine next_sound ?_ he
  dsimp only
  repeat' first
    | with_reducible assumption
    | with_reducible refine ite_sound ?_ ?_
    | (with_reducible refine State.Sound.mk_of ?_; with_reducible assumption)
    | split

theorem execNopDescriptor_sound {r j : Nat} {s s' : State} (hs : s.Sound)
    (he : execNopDescriptor r j s = .next s') : s'.Sound := by
  refine next_sound ?_ he
  repeat' first
    | with_reducible assumption
    | with_reducible refine State.finish_sound ?_
    | with_reducible refine State.onDesc_sound ?_ (fun _ _ _ => ?_)
    | with_reducible refine ite_sound ?_ ?_
    | split

theorem execCompletionWrite_sound {m : Nat} {s s' : State} (hs : s.Sound)
    (he : execCompletionWrite m s = .next s') : s'.Sound := by
  refine next_sound ?_ he
  dsimp only
  repeat' first
    | with_reducible assumption
    | with_reducible refine State.emit_sound ?_
    | with_reducible refine State.sendVector_sound ?_
    | with_reducible refine ite_sound ?_ ?_
    | with_reducible refine each_sound (fun _ _ _ => ?_) ?_
    | (with_reducible refine State.Sound.mk_of ?_; with_reducible assumption)

theorem execEventWrite_sound {s s' : State} (hs : s.Sound) (he : execEventWrite s = .next s') : s'.Sound := by
  refine next_sound ?_ he
  dsimp only
  repeat' first
    | with_reducible assumption
    | with_reducible refine State.emit_sound ?_
    | with_reducible refine State.sendVector_sound ?_
    | with_reducible refine ite_sound ?_ ?_
    | (with_reducible refine State.Sound.mk_of ?_; with_reducible assumption)
    | split

theorem execModTimeExpiry_sound {cq : Option Nat} {s s' : State} (hs : s.Sound)
    (he : execModTimeExpiry cq s = .next s') : s'.Sound := by
  refine next_sound ?_ he
  dsimp only
  repeat' first
    | with_reducible assumption
    | with_reducible refine State.sendVector_sound ?_
    | with_reducible refine ite_sound ?_ ?_
    | (with_reducible refine State.Sound.mk_of ?_; with_reducible assumption)
    | split

/-! ### Memory -/

theorem State.holdSlot_sound {s : State} {k : Nat} {q : MemReq} (hs : s.Sound) : (State.holdSlot s k q).Sound := by
  unfold State.holdSlot
  dsimp only
  repeat' first
    | with_reducible assumption
    | with_reducible refine State.setMemCh_sound ?_

theorem execMemRequestEnter_sound {q : MemAccess} {s s' : State} (hs : s.Sound)
    (he : execMemRequestEnter q s = .next s') : s'.Sound := by
  refine next_sound ?_ he
  dsimp only
  repeat' first
    | with_reducible assumption
    | with_reducible refine State.holdSlot_sound ?_
    | with_reducible refine State.setMemCh_sound ?_
    | with_reducible refine State.stackRead_sound ?_
    | with_reducible refine State.stackWrite_sound ?_
    | with_reducible refine ite_sound ?_ ?_

theorem execMemReadDone_sound {channel slot : Nat} {s s' : State} (hs : s.Sound)
    (he : execMemReadDone channel slot s = .next s') : s'.Sound := by
  refine next_sound ?_ he
  dsimp only
  repeat' first
    | with_reducible assumption
    | with_reducible refine State.setMemCh_sound ?_
    | with_reducible refine State.emit_sound ?_
    | with_reducible refine ite_sound ?_ ?_
    | split

theorem State.repairChanged_sound {s : State} (hs : s.Sound) : (State.repairChanged s).Sound := by
  unfold State.repairChanged
  dsimp only
  repeat (with_reducible refine State.Sound.mk_of ?_; with_reducible assumption)

theorem execLaneMark_sound {channel lane : Nat} {training : Bool} {s s' : State} (hs : s.Sound)
    (he : execLaneMark channel lane training s = .next s') : s'.Sound := by
  refine next_sound ?_ he
  dsimp only
  repeat' first
    | with_reducible assumption
    | with_reducible refine State.setMemCh_sound ?_
    | with_reducible refine State.event_sound ?_
    | with_reducible refine State.repairChanged_sound ?_
    | with_reducible refine ite_sound ?_ ?_

theorem Mem.wf_poisonChannel {m : Mem} {c f : Nat} (h : m.wf = true) : (m.poisonChannel c f).wf = true := by
  simp only [Mem.wf, Mem.poisonChannel] at h ⊢
  exact foldl_keeps (P := fun cs => Cells.wf cs = true) (fun _ _ k => Cells.wf_write _ _ _ k) _ h

theorem Mem.wf_dropArea {m : Mem} {b : Nat} (h : m.wf = true) : (m.dropArea b).wf = true := by
  simp only [Mem.wf, Mem.dropArea] at h ⊢
  exact foldl_keeps (P := fun cs => Cells.wf cs = true) (fun _ _ k => Cells.wf_put _ _ _ k) _ h

theorem State.poisonArea_sound {s : State} {channel : Nat} (h : s.Sound) : (State.poisonArea s channel).Sound :=
  State.Sound.mk_stack (t := s) h (Mem.wf_poisonChannel h.wf)

theorem State.retireChannel_sound {s : State} {channel : Nat} (h : s.Sound) : (State.retireChannel s channel).Sound := by
  unfold State.retireChannel
  refine each_sound (fun _ _ k => State.emit_sound k) (State.Sound.mk_of (State.poisonArea_sound ?_))
  repeat' first
    | with_reducible refine State.setReg_sound ?_
    | with_reducible refine State.setMemCh_sound ?_
  exact State.Sound.mk_stack (t := s) h (Mem.wf_dropArea h.wf)

theorem execChannelRetire_sound {channel : Nat} {training : Bool} {s s' : State} (hs : s.Sound)
    (he : execChannelRetire channel training s = .next s') : s'.Sound := by
  refine next_sound ?_ he
  dsimp only
  repeat' first
    | with_reducible assumption
    | with_reducible refine State.event_sound ?_
    | with_reducible refine State.cause_sound ?_
    | with_reducible refine State.retireChannel_sound ?_
    | with_reducible refine State.repairChanged_sound ?_
    | with_reducible refine ite_sound ?_ ?_
    | (with_reducible refine State.Sound.mk_of ?_; with_reducible refine State.setMemCh_sound ?_)

theorem execRetireAreaPoisoned_sound {s s' : State} (hs : s.Sound) (he : execRetireAreaPoisoned s = .next s') : s'.Sound := by
  refine next_sound ?_ he
  dsimp only
  repeat' first
    | with_reducible assumption
    | with_reducible refine ite_sound ?_ ?_
    | (with_reducible refine State.Sound.mk_of ?_; with_reducible assumption)

theorem execBankRefresh_sound {channel bank : Nat} {s s' : State} (hs : s.Sound)
    (he : execBankRefresh channel bank s = .next s') : s'.Sound := by
  refine next_sound ?_ he
  dsimp only
  repeat' first
    | with_reducible assumption
    | with_reducible refine ite_sound ?_ ?_
    | (with_reducible refine State.Sound.mk_of ?_; with_reducible assumption)

theorem State.stackTemp_sound {s : State} {k reading : Nat} (hs : s.Sound) : (State.stackTemp s k reading).Sound := by
  unfold State.stackTemp
  dsimp only
  repeat' first
    | with_reducible refine State.setRegAt_sound ?_
    | with_reducible refine State.addRegAt_sound ?_
    | with_reducible refine State.event_sound ?_
    | with_reducible refine State.trip_sound ?_
    | with_reducible refine ite_sound ?_ ?_
    | (with_reducible refine State.Sound.mk_of ?_; with_reducible assumption)

theorem State.causeEnds_sound {s : State} (hs : s.Sound) : (State.causeEnds s).Sound := by
  unfold State.causeEnds
  dsimp only
  repeat' first
    | with_reducible assumption
    | with_reducible refine State.setFlag_sound ?_
    | (with_reducible refine State.Sound.mk_of ?_; with_reducible refine State.emit_sound ?_)

theorem execStackTempSample_sound {temps : List Nat} {s s' : State} (hs : s.Sound)
    (he : execStackTempSample temps s = .next s') : s'.Sound := by
  refine next_sound ?_ he
  dsimp only
  repeat' first
    | with_reducible assumption
    | with_reducible refine State.stackTemp_sound ?_
    | with_reducible refine State.causeEnds_sound ?_
    | with_reducible refine ite_sound ?_ ?_
    | with_reducible refine fold_sound (fun _ _ _ => ?_) ?_

theorem State.upsetAccess_sound {s : State} {w mask : Nat} (h : s.Sound) : (State.upsetAccess s w mask).Sound := by
  unfold State.upsetAccess
  split
  · exact h
  · exact State.Sound.mk_stack h h.wf

theorem State.upsetStack_sound {s : State} {l : List (Nat × List Nat)} (hs : s.Sound) : (State.upsetStack s l).Sound := by
  unfold State.upsetStack
  repeat' first
    | with_reducible assumption
    | with_reducible refine State.upsetAccess_sound ?_
    | with_reducible refine fold_sound (fun _ _ _ => ?_) ?_

theorem State.countPoisoned_sound {s : State} {w : Nat} (hs : s.Sound) : (State.countPoisoned s w).Sound := by
  unfold State.countPoisoned
  dsimp only
  repeat' first
    | with_reducible assumption
    | with_reducible refine State.setMemCh_sound ?_

theorem execPatrolScrubRead_sound {upsets : List (Nat × List Nat)} {s s' : State} (hs : s.Sound)
    (he : execPatrolScrubRead upsets s = .next s') : s'.Sound := by
  refine next_sound ?_ he
  dsimp only
  repeat' first
    | with_reducible refine State.upsetStack_sound ?_
    | with_reducible refine State.countPoisoned_sound ?_
    | with_reducible refine State.setReg_sound ?_
    | with_reducible refine State.addReg_sound ?_
    | with_reducible refine State.meetErrors_sound ?_
    | with_reducible refine State.markGranules_sound ?_
    | with_reducible refine ite_sound ?_ ?_
    | with_reducible refine fold_sound (fun _ _ _ => ?_) ?_
    | (with_reducible refine State.Sound.mk_of ?_; with_reducible assumption)

theorem State.tgStart_sound {s : State} {v c : Nat} (hs : s.Sound) : (State.tgStart s v c).Sound := by
  unfold State.tgStart
  dsimp only
  repeat' first
    | with_reducible assumption
    | with_reducible refine State.setMemCh_sound ?_
    | with_reducible refine ite_sound ?_ ?_

theorem execTgStart_sound {v : Nat} {s s' : State} (hs : s.Sound) (he : execTgStart v s = .next s') : s'.Sound := by
  refine next_sound ?_ he
  repeat' first
    | with_reducible assumption
    | with_reducible refine State.tgStart_sound ?_
    | with_reducible refine each_sound (fun _ _ _ => ?_) ?_

theorem State.tgWrite_sound {s : State} {channel : Nat} {acc : List (Nat × List Byte)} (hs : s.Sound) :
    (State.tgWrite s channel acc).Sound := by
  unfold State.tgWrite
  dsimp only
  repeat' first
    | with_reducible assumption
    | with_reducible refine State.stackPut_sound ?_
    | with_reducible refine ite_sound ?_ ?_
    | with_reducible refine fold_sound (fun _ _ _ => ?_) ?_
    | (with_reducible refine State.Sound.mk_of ?_; with_reducible assumption)

theorem State.tgPass_sound {s : State} {channel : Nat} {acc : List (Nat × List Byte)} {wrong : List (Nat × Nat)} {g : Gen}
    {from_ : Nat} (hs : s.Sound) : (State.tgPass s channel acc wrong g from_).2.Sound := by
  unfold State.tgPass
  dsimp only
  repeat' first
    | with_reducible assumption
    | with_reducible refine State.tgWrite_sound ?_
    | with_reducible refine ite_sound ?_ ?_

theorem execTgRunDone_sound {channel : Nat} {wrong : List (Nat × Nat)} {s s' : State} (hs : s.Sound)
    (he : execTgRunDone channel wrong s = .next s') : s'.Sound := by
  refine next_sound ?_ he
  dsimp only
  repeat' first
    | with_reducible assumption
    | with_reducible refine State.tgPass_sound ?_
    | with_reducible refine State.setMemCh_sound ?_
    | with_reducible refine ite_sound ?_ ?_
    | with_reducible refine fold_snd_sound (fun _ _ _ => ?_) ?_

/-! ### Regions -/

theorem State.putPiece_sound {s : State} {side i : Nat} {bs : List PByte} (hs : s.Sound) :
    (State.putPiece s side i bs).Sound := by
  unfold State.putPiece
  dsimp only
  repeat' first
    | with_reducible assumption
    | with_reducible refine State.stackWrite_sound ?_
    | with_reducible refine fold_sound (fun _ _ _ => ?_) ?_
    | split

/-! ### Objects -/

theorem kvInsert_mem {k x : KvRes} {l : List KvRes} : x ∈ kvInsert k l ↔ x = k ∨ x ∈ l := by
  induction l with
  | nil => simp [kvInsert]
  | cons h t ih =>
    rw [kvInsert]
    split
    · simp
    · simp only [List.mem_cons, ih]
      constructor
      · rintro (h | h | h) <;> simp [h]
      · rintro (h | h | h) <;> simp [h]

/-- A gap between reservations that rise from a place on: it lies at that place or above, and clear of each of them. -/
theorem kvGaps_clear {units place : Nat} {l : List KvRes} {g : Nat × Nat}
    (hp : List.Pairwise (fun a b : KvRes => a.first + a.units ≤ b.first ∧ a.id ≠ b.id) l)
    (hl : ∀ k ∈ l, place ≤ k.first) (hg : g ∈ kvGaps units place l) :
    place ≤ g.1 ∧ ∀ k ∈ l, g.1 + g.2 ≤ k.first ∨ k.first + k.units ≤ g.1 := by
  induction l generalizing place with
  | nil =>
    rw [kvGaps] at hg
    split at hg
    · rw [List.mem_singleton] at hg
      subst hg
      exact ⟨Nat.le_refl _, fun _ h => by cases h⟩
    · cases hg
  | cons k r ih =>
    rw [List.pairwise_cons] at hp
    have hk := hl k List.mem_cons_self
    have hr : ∀ x ∈ r, k.first + k.units ≤ x.first := fun x hx => (hp.1 x hx).1
    rw [kvGaps, List.mem_append] at hg
    rcases hg with hg | hg
    · split at hg
      · rw [List.mem_singleton] at hg
        subst hg
        refine ⟨Nat.le_refl _, fun x hx => .inl ?_⟩
        rcases List.mem_cons.mp hx with rfl | hx
        · show place + (x.first - place) ≤ x.first
          omega
        · have := hr x hx
          show place + (k.first - place) ≤ x.first
          omega
      · cases hg
    · have i := ih hp.2 hr hg
      refine ⟨by omega, fun x hx => ?_⟩
      rcases List.mem_cons.mp hx with rfl | hx
      · exact .inr i.1
      · exact i.2 x hx

theorem kvInsert_apart {k : KvRes} {l : List KvRes} (h : kvApart l) (hk : 0 < k.units) (hid : ∀ x ∈ l, x.id ≠ k.id)
    (hc : ∀ x ∈ l, k.first + k.units ≤ x.first ∨ x.first + x.units ≤ k.first) : kvApart (kvInsert k l) := by
  refine ⟨?_, fun x hx => ?_⟩
  · obtain ⟨hp, hu⟩ := h
    induction l with
    | nil => exact List.pairwise_singleton _ _
    | cons y r ih =>
      rw [List.pairwise_cons] at hp
      have hy := hc y List.mem_cons_self
      have iy := hid y List.mem_cons_self
      have uy := hu y List.mem_cons_self
      rw [kvInsert]
      split
      · refine List.pairwise_cons.mpr ⟨fun x hx => ?_, List.pairwise_cons.mpr hp⟩
        have := hid x hx
        rcases List.mem_cons.mp hx with rfl | hx
        · exact ⟨by omega, fun e => this e.symm⟩
        · have := (hp.1 x hx).1
          exact ⟨by omega, fun e => hid x (List.mem_cons_of_mem _ hx) e.symm⟩
      · refine List.pairwise_cons.mpr ⟨fun x hx => ?_, ih (fun x hx => hid x (List.mem_cons_of_mem _ hx))
          (fun x hx => hc x (List.mem_cons_of_mem _ hx)) hp.2 (fun x hx => hu x (List.mem_cons_of_mem _ hx))⟩
        rcases kvInsert_mem.mp hx with rfl | hx
        · exact ⟨by omega, iy⟩
        · exact hp.1 x hx
  · rcases kvInsert_mem.mp hx with rfl | hx
    · exact hk
    · exact h.2 x hx

theorem State.kvReserve_apart {s : State} {d : Desc} (h : s.Sound) : kvApart (s.kvReserve d).2.2 := by
  unfold State.kvReserve
  dsimp only
  split
  · exact h.apart
  · split
    · exact h.apart
    · split
      · exact h.apart
      · split
        · exact h.apart
        · split
          · exact h.apart
          · rename_i hz hb _ _ g hg
            have hn : d.n 4 4 ≤ g.2 := of_decide_eq_true (List.find?_some (p := fun x : Nat × Nat => decide (d.n 4 4 ≤ x.2)) hg)
            have c := kvGaps_clear h.apart.1 (fun k _ => Nat.zero_le _) (List.mem_of_find?_eq_some hg)
            refine kvInsert_apart h.apart (Nat.pos_of_ne_zero hz) (fun x hx e => hb (List.any_eq_true.mpr ⟨x, hx, ?_⟩))
              (fun x hx => ?_)
            · exact beq_iff_eq.mpr e
            · rcases c.2 x hx with i | i
              · exact .inl (Nat.le_trans (Nat.add_le_add_left hn g.1) i)
              · exact .inr i

theorem execKvReserve_sound {r j : Nat} {s s' : State} (hs : s.Sound) (he : execKvReserve r j s = .next s') : s'.Sound := by
  refine next_sound ?_ he
  split
  · exact hs
  · exact State.onDesc_sound hs (fun s d k => State.complete_sound (State.Sound.mk_kv k (State.kvReserve_apart k)))

theorem kvApart_filter {l : List KvRes} (p : KvRes → Bool) (h : kvApart l) : kvApart (l.filter p) :=
  ⟨h.1.filter p, fun k hk => h.2 k ((List.mem_filter.mp hk).1)⟩

theorem execKvRelease_sound {r j : Nat} {s s' : State} (hs : s.Sound) (he : execKvRelease r j s = .next s') : s'.Sound := by
  refine next_sound ?_ he
  split
  · exact hs
  · refine State.onDesc_sound hs (fun s d k => ?_)
    dsimp only
    split
    · exact State.finish_sound k
    · split
      · exact State.finish_sound (State.Sound.mk_kv k (kvApart_filter _ k.apart))
      · exact State.finish_sound k

theorem State.setObj_sound {s : State} {o : Nat} {x : Obj} (hs : s.Sound) : (State.setObj s o x).Sound := by
  unfold State.setObj
  repeat' first
    | with_reducible assumption
    | with_reducible refine State.poke_sound ?_

theorem State.objDone_sound {s : State} {o r j status flags : Nat} (hs : s.Sound) :
    (State.objDone s o r j status flags).Sound := by
  unfold State.objDone
  repeat' first
    | with_reducible assumption
    | with_reducible refine State.complete_sound ?_

theorem State.objSignalAt_sound {s : State} {x : Obj} {sig : Option Nat} {i : Nat} (hs : s.Sound) :
    (State.objSignalAt s x sig i).Sound := by
  unfold State.objSignalAt
  repeat' first
    | with_reducible assumption
    | with_reducible refine State.signalTile_sound ?_
    | split

theorem State.objSignal_sound {s : State} {x : Obj} {sig : Option Nat} (hs : s.Sound) : (State.objSignal s x sig).Sound := by
  unfold State.objSignal
  repeat' first
    | with_reducible assumption
    | with_reducible refine State.objSignalAt_sound ?_
    | with_reducible refine each_sound (fun _ _ _ => ?_) ?_

theorem State.onObj_sound {s : State} {r j op : Nat} {f : State → Desc → Nat → Obj → State} (hs : s.Sound)
    (kf : ∀ y0 y1 y2 y3, State.Sound y0 → (f y0 y1 y2 y3).Sound) : (State.onObj s r j op f).Sound := by
  unfold State.onObj
  dsimp only
  repeat' first
    | with_reducible assumption
    | with_reducible refine kf _ _ _ _ ?_
    | with_reducible refine State.onDesc_sound ?_ (fun _ _ _ => ?_)
    | with_reducible refine State.complete_sound ?_
    | with_reducible refine State.stackRead_sound ?_
    | with_reducible refine ite_sound ?_ ?_

theorem execObjDefine_sound {r j : Nat} {s s' : State} (hs : s.Sound) (he : execObjDefine r j s = .next s') : s'.Sound := by
  refine next_sound ?_ he
  dsimp only
  repeat' first
    | with_reducible assumption
    | with_reducible refine State.onObj_sound ?_ (fun _ _ _ _ _ => ?_)
    | with_reducible refine State.objDone_sound ?_
    | with_reducible refine State.setObj_sound ?_
    | with_reducible refine ite_sound ?_ ?_

theorem State.setMoves_sound {s : State} {l : List ObjMove} (hs : s.Sound) : (State.setMoves s l).Sound := by
  unfold State.setMoves
  dsimp only
  repeat (with_reducible refine State.Sound.mk_of ?_; with_reducible assumption)

theorem State.startMove_sound {s : State} {r j : Nat} {m : ObjMove} (hs : s.Sound) : (State.startMove s r j m).Sound := by
  unfold State.startMove
  repeat' first
    | with_reducible assumption
    | with_reducible refine State.setMoves_sound ?_
    | with_reducible refine State.take_sound ?_
    | with_reducible refine State.enqueue_sound ?_
    | with_reducible refine each_sound (fun _ _ _ => ?_) ?_

theorem State.promoteUp_sound {s : State} {r j o : Nat} {x : Obj} {p : Placement} {sig : Option Nat} (hs : s.Sound) :
    (State.promoteUp s r j o x p sig).Sound := by
  unfold State.promoteUp
  dsimp only
  repeat' first
    | with_reducible assumption
    | with_reducible refine State.setObj_sound ?_
    | with_reducible refine State.startMove_sound ?_

theorem State.promoteHere_sound {s : State} {r j o : Nat} {x : Obj} {sig : Option Nat} (hs : s.Sound) :
    (State.promoteHere s r j o x sig).Sound := by
  unfold State.promoteHere
  dsimp only
  repeat' first
    | with_reducible assumption
    | with_reducible refine State.objDone_sound ?_
    | with_reducible refine State.setObj_sound ?_
    | with_reducible refine State.setMoves_sound ?_
    | with_reducible refine State.take_sound ?_
    | with_reducible refine State.objSignal_sound ?_
    | with_reducible refine ite_sound ?_ ?_

theorem execObjPromote_sound {r j : Nat} {s s' : State} (hs : s.Sound) (he : execObjPromote r j s = .next s') : s'.Sound := by
  refine next_sound ?_ he
  dsimp only
  repeat' first
    | with_reducible assumption
    | with_reducible refine State.onObj_sound ?_ (fun _ _ _ _ _ => ?_)
    | with_reducible refine State.objDone_sound ?_
    | with_reducible refine State.promoteUp_sound ?_
    | with_reducible refine State.promoteHere_sound ?_
    | with_reducible refine ite_sound ?_ ?_

theorem execObjEvict_sound {r j : Nat} {s s' : State} (hs : s.Sound) (he : execObjEvict r j s = .next s') : s'.Sound := by
  refine next_sound ?_ he
  repeat' first
    | with_reducible assumption
    | with_reducible refine State.setObj_sound ?_
    | with_reducible refine State.objDone_sound ?_
    | with_reducible refine State.onObj_sound ?_ (fun _ _ _ _ _ => ?_)
    | with_reducible refine State.setMoves_sound ?_
    | with_reducible refine State.startMove_sound ?_
    | with_reducible refine State.take_sound ?_
    | with_reducible refine ite_sound ?_ ?_

theorem execObjUnpin_sound {r j : Nat} {s s' : State} (hs : s.Sound) (he : execObjUnpin r j s = .next s') : s'.Sound := by
  refine next_sound ?_ he
  repeat' first
    | with_reducible assumption
    | with_reducible refine State.onObj_sound ?_ (fun _ _ _ _ _ => ?_)
    | with_reducible refine State.objDone_sound ?_
    | with_reducible refine State.setObj_sound ?_
    | with_reducible refine ite_sound ?_ ?_

theorem execObjFree_sound {r j : Nat} {s s' : State} (hs : s.Sound) (he : execObjFree r j s = .next s') : s'.Sound := by
  refine next_sound ?_ he
  repeat' first
    | with_reducible assumption
    | with_reducible refine State.onObj_sound ?_ (fun _ _ _ _ _ => ?_)
    | with_reducible refine State.objDone_sound ?_
    | with_reducible refine State.setObj_sound ?_
    | with_reducible refine ite_sound ?_ ?_

theorem State.copySlice_sound {s : State} {x : Obj} {up : Bool} {i n : Nat} (hs : s.Sound) :
    (State.copySlice s x up i n).2.Sound := by
  unfold State.copySlice
  dsimp only
  repeat' first
    | with_reducible assumption
    | with_reducible refine State.stackRead_sound ?_
    | with_reducible refine State.tileWrite_sound ?_
    | with_reducible refine State.tileRead_sound ?_
    | with_reducible refine State.stackWrite_sound ?_
    | split

theorem State.leaveChannels_sound {s : State} {m : ObjMove} {ks : List Nat} (hs : s.Sound) :
    (State.leaveChannels s m ks).Sound := by
  unfold State.leaveChannels
  dsimp only
  repeat' first
    | with_reducible assumption
    | with_reducible refine State.setChan_sound ?_
    | with_reducible refine each_sound (fun _ _ _ => ?_) ?_

theorem State.putMove_sound {s : State} {m : ObjMove} (hs : s.Sound) : (State.putMove s m).Sound := by
  unfold State.putMove
  repeat' first
    | with_reducible assumption
    | with_reducible refine State.setMoves_sound ?_

theorem State.dropMove_sound {s : State} {m : ObjMove} (hs : s.Sound) : (State.dropMove s m).Sound := by
  unfold State.dropMove
  repeat' first
    | with_reducible assumption
    | with_reducible refine State.setMoves_sound ?_

theorem State.stopMove_sound {s : State} {m : ObjMove} (hs : s.Sound) : (State.stopMove s m).Sound := by
  unfold State.stopMove
  dsimp only
  repeat' first
    | with_reducible assumption
    | with_reducible refine State.objDone_sound ?_
    | with_reducible refine State.objSignal_sound ?_
    | with_reducible refine State.copySlice_sound ?_
    | with_reducible refine State.leaveChannels_sound ?_
    | with_reducible refine State.dropMove_sound ?_
    | with_reducible refine State.draw_sound ?_
    | with_reducible refine each_sound (fun _ _ _ => ?_) ?_
    | with_reducible refine fold_sound (fun _ _ _ => ?_) ?_

theorem State.settleMove_sound {s : State} {x : Obj} {m : ObjMove} (hs : s.Sound) : (State.settleMove s x m).Sound := by
  unfold State.settleMove
  dsimp only
  repeat' first
    | with_reducible assumption
    | with_reducible refine State.setObj_sound ?_
    | with_reducible refine State.objDone_sound ?_
    | with_reducible refine State.objSignal_sound ?_
    | with_reducible refine State.dropMove_sound ?_
    | with_reducible refine each_sound (fun _ _ _ => ?_) ?_
    | split

theorem State.moveSlice_sound {s : State} {m : ObjMove} {i : Nat} (hs : s.Sound) : (State.moveSlice s m i).Sound := by
  unfold State.moveSlice
  dsimp only
  repeat' first
    | with_reducible assumption
    | with_reducible refine State.objSignalAt_sound ?_
    | with_reducible refine State.copySlice_sound ?_
    | with_reducible refine State.leaveChannels_sound ?_
    | with_reducible refine State.putMove_sound ?_
    | with_reducible refine State.settleMove_sound ?_
    | split

theorem execObjectCopyDone_sound {part : ObjPart} {s s' : State} (hs : s.Sound)
    (he : execObjectCopyDone part s = .next s') : s'.Sound := by
  refine next_sound ?_ he
  dsimp only
  repeat' first
    | with_reducible assumption
    | with_reducible refine State.stopMove_sound ?_
    | with_reducible refine State.moveSlice_sound ?_
    | with_reducible refine State.stackRead_sound ?_
    | split

theorem execProgLoad_sound {r j : Nat} {v : HostView} {s s' : State} (hs : s.Sound)
    (he : execProgLoad r j v s = .next s') : s'.Sound := by
  refine next_sound ?_ he
  dsimp only
  repeat' first
    | with_reducible assumption
    | with_reducible refine State.onDesc_sound ?_ (fun _ _ _ => ?_)
    | with_reducible refine State.finish_sound ?_
    | with_reducible refine State.get_sound ?_
    | with_reducible refine State.setTile_sound ?_
    | with_reducible refine State.complete_sound ?_
    | with_reducible refine State.take_sound ?_
    | with_reducible refine ite_sound ?_ ?_
    | with_reducible refine each_sound (fun _ _ _ => ?_) ?_
    | split

theorem execProgLoadDone_sound {r j : Nat} {s s' : State} (hs : s.Sound) (he : execProgLoadDone r j s = .next s') : s'.Sound := by
  refine next_sound ?_ he
  repeat' first
    | with_reducible assumption
    | with_reducible refine State.onTile_sound ?_
    | with_reducible refine State.finish_sound ?_
    | with_reducible refine each_sound (fun _ _ _ => ?_) ?_
    | split

end Sys2Proof.Machine
end

