-- ==== Sys2Proof/Laws/SoundLinks.lean ====
section
/-! SUPPORT. What keeps a state sound (`State.Sound`: R159, R253): time, the gate, links, routes, packets and drops.
One lemma per operation and per command. -/

namespace Sys2Proof.Machine

/-! ### Time -/

theorem State.setTimeState_sound {s : State} {n : Nat} (hs : s.Sound) : (State.setTimeState s n).Sound := by
  unfold State.setTimeState
  repeat' first
    | with_reducible assumption
    | with_reducible refine State.setReg_sound ?_

theorem State.setLinkTime_sound {s : State} {l : Nat} {x : LinkTime} (hs : s.Sound) : (State.setLinkTime s l x).Sound := by
  unfold State.setLinkTime
  dsimp only
  repeat (with_reducible refine State.Sound.mk_of ?_; with_reducible assumption)

theorem State.setGm_sound {s : State} {gm : Bool} {rank hops : Nat} (hs : s.Sound) : (State.setGm s gm rank hops).Sound := by
  unfold State.setGm
  dsimp only
  repeat' first
    | with_reducible assumption
    | with_reducible refine State.setFlag_sound ?_
    | with_reducible refine State.setReg_sound ?_
    | with_reducible refine State.addReg_sound ?_
    | with_reducible refine State.event_sound ?_
    | with_reducible refine ite_sound ?_ ?_

theorem State.lockTime_sound {s : State} (hs : s.Sound) : (State.lockTime s).Sound := by
  unfold State.lockTime
  dsimp only
  repeat' first
    | with_reducible assumption
    | with_reducible refine State.setTimeState_sound ?_
    | with_reducible refine State.setReg_sound ?_
    | with_reducible refine ite_sound ?_ ?_
    | (with_reducible refine State.Sound.mk_of ?_; with_reducible assumption)

theorem State.unlockTime_sound {s : State} (hs : s.Sound) : (State.unlockTime s).Sound := by
  unfold State.unlockTime
  dsimp only
  repeat' first
    | with_reducible assumption
    | (with_reducible refine State.Sound.mk_of ?_; with_reducible assumption)
    | split

theorem State.holdover_sound {s : State} (hs : s.Sound) : (State.holdover s).Sound := by
  unfold State.holdover
  dsimp only
  repeat' first
    | with_reducible assumption
    | with_reducible refine State.setTimeState_sound ?_
    | with_reducible refine State.addReg_sound ?_
    | with_reducible refine State.event_sound ?_
    | with_reducible refine ite_sound ?_ ?_
    | (with_reducible refine State.Sound.mk_of ?_; with_reducible refine State.unlockTime_sound ?_)

theorem State.keepErr_sound {s : State} (hs : s.Sound) : (State.keepErr s).Sound := by
  unfold State.keepErr
  dsimp only
  repeat' first
    | (with_reducible refine State.Sound.mk_of ?_; with_reducible assumption)
    | split

theorem State.becomeGm_sound {s : State} (hs : s.Sound) : (State.becomeGm s).Sound := by
  unfold State.becomeGm
  dsimp only
  repeat' first
    | with_reducible assumption
    | with_reducible refine State.setTimeState_sound ?_
    | with_reducible refine State.setGm_sound ?_
    | with_reducible refine State.lockTime_sound ?_
    | with_reducible refine State.keepErr_sound ?_
    | with_reducible refine ite_sound ?_ ?_

theorem State.follow_sound {s : State} {l : Nat} {lost : Bool} (hs : s.Sound) : (State.follow s l lost).Sound := by
  unfold State.follow
  dsimp only
  repeat' first
    | with_reducible refine State.setTimeState_sound ?_
    | with_reducible refine State.setGm_sound ?_
    | with_reducible refine State.unlockTime_sound ?_
    | with_reducible refine State.setReg_sound ?_
    | (with_reducible refine State.Sound.mk_of ?_
       first
         | with_reducible assumption
         | with_reducible refine ite_sound ?_ ?_)

theorem State.chooseSource_sound {s : State} {lost : Bool} (hs : s.Sound) : (State.chooseSource s lost).Sound := by
  unfold State.chooseSource
  repeat' first
    | with_reducible assumption
    | with_reducible refine State.holdover_sound ?_
    | with_reducible refine State.keepErr_sound ?_
    | with_reducible refine State.becomeGm_sound ?_
    | with_reducible refine State.follow_sound ?_
    | with_reducible refine State.setFlag_sound ?_
    | split

theorem State.sourceLost_sound {s : State} (hs : s.Sound) : (State.sourceLost s).Sound := by
  unfold State.sourceLost
  repeat' first
    | with_reducible assumption
    | with_reducible refine State.holdover_sound ?_
    | with_reducible refine State.keepErr_sound ?_
    | with_reducible refine State.chooseSource_sound ?_
    | with_reducible refine ite_sound ?_ ?_

theorem State.linkTimeDown_sound {s : State} {l : Nat} (hs : s.Sound) : (State.linkTimeDown s l).Sound := by
  unfold State.linkTimeDown
  dsimp only
  repeat' first
    | with_reducible refine State.sourceLost_sound ?_
    | with_reducible refine ite_sound ?_ ?_
    | (with_reducible refine State.Sound.mk_of ?_; with_reducible assumption)

theorem execSyncSend_sound {l stamp : Nat} {s s' : State} (hs : s.Sound) (he : execSyncSend l stamp s = .next s') : s'.Sound := by
  refine next_sound ?_ he
  dsimp only
  repeat' first
    | with_reducible assumption
    | with_reducible refine State.setLink_sound ?_
    | with_reducible refine ite_sound ?_ ?_

theorem State.steer_sound {s : State} {offset : Int} (hs : s.Sound) : (State.steer s offset).Sound := by
  unfold State.steer
  dsimp only
  repeat' first
    | with_reducible refine ite_sound ?_ ?_
    | (with_reducible refine State.Sound.mk_of ?_; with_reducible assumption)

theorem State.parentSync_sound {s : State} {offset : Int} {cls : Nat} (hs : s.Sound) : (State.parentSync s offset cls).Sound := by
  unfold State.parentSync
  dsimp only
  repeat' first
    | with_reducible assumption
    | with_reducible refine State.setFlag_sound ?_
    | with_reducible refine State.setTimeState_sound ?_
    | with_reducible refine State.steer_sound ?_
    | with_reducible refine State.lockTime_sound ?_
    | with_reducible refine State.setReg_sound ?_
    | with_reducible refine ite_sound ?_ ?_
    | (with_reducible refine State.Sound.mk_of ?_; with_reducible refine ite_sound ?_ ?_)

theorem execSyncReceive_sound {l stamp : Nat} {s s' : State} (hs : s.Sound)
    (he : execSyncReceive l stamp s = .next s') : s'.Sound := by
  refine next_sound ?_ he
  dsimp only
  repeat' first
    | with_reducible assumption
    | with_reducible refine State.setLinkTime_sound ?_
    | with_reducible refine State.chooseSource_sound ?_
    | with_reducible refine State.parentSync_sound ?_
    | with_reducible refine State.setRegAt_sound ?_
    | with_reducible refine State.onPacket_sound ?_ (fun _ _ _ => ?_)
    | with_reducible refine ite_sound ?_ ?_

theorem execSyncMissed_sound {l : Nat} {s s' : State} (hs : s.Sound) (he : execSyncMissed l s = .next s') : s'.Sound := by
  refine next_sound ?_ he
  dsimp only
  repeat' first
    | with_reducible assumption
    | with_reducible refine State.setLinkTime_sound ?_
    | with_reducible refine State.sourceLost_sound ?_
    | with_reducible refine ite_sound ?_ ?_

theorem State.extLoss_sound {s : State} (hs : s.Sound) : (State.extLoss s).Sound := by
  unfold State.extLoss
  dsimp only
  repeat' first
    | with_reducible refine State.setFlag_sound ?_
    | with_reducible refine State.holdover_sound ?_
    | with_reducible refine ite_sound ?_ ?_
    | (with_reducible refine State.Sound.mk_of ?_; with_reducible assumption)

theorem execPpsEdge_sound {error : Int} {s s' : State} (hs : s.Sound) (he : execPpsEdge error s = .next s') : s'.Sound := by
  refine next_sound ?_ he
  dsimp only
  repeat' first
    | with_reducible assumption
    | with_reducible refine State.extLoss_sound ?_
    | with_reducible refine State.steer_sound ?_
    | with_reducible refine State.setFlag_sound ?_
    | with_reducible refine State.becomeGm_sound ?_
    | with_reducible refine State.lockTime_sound ?_
    | with_reducible refine ite_sound ?_ ?_
    | (with_reducible refine State.Sound.mk_of ?_; with_reducible assumption)

theorem execRef10mLoss_sound {s s' : State} (hs : s.Sound) (he : execRef10mLoss s = .next s') : s'.Sound := by
  refine next_sound ?_ he
  repeat' first
    | with_reducible assumption
    | with_reducible refine State.extLoss_sound ?_
    | with_reducible refine ite_sound ?_ ?_

theorem execOscillatorFail_sound {s s' : State} (hs : s.Sound) (he : execOscillatorFail s = .next s') : s'.Sound := by
  refine next_sound ?_ he
  dsimp only
  repeat' first
    | with_reducible refine State.setTimeState_sound ?_
    | with_reducible refine State.setReg_sound ?_
    | with_reducible refine State.event_sound ?_
    | with_reducible refine ite_sound ?_ ?_
    | (with_reducible refine State.Sound.mk_of ?_
       first
         | with_reducible assumption
         | with_reducible refine State.unlockTime_sound ?_)

theorem execOvenWarm_sound {s s' : State} (hs : s.Sound) (he : execOvenWarm s = .next s') : s'.Sound := by
  refine next_sound ?_ he
  dsimp only
  repeat' first
    | with_reducible refine State.becomeGm_sound ?_
    | with_reducible refine ite_sound ?_ ?_
    | (with_reducible refine State.Sound.mk_of ?_; with_reducible assumption)

theorem State.setTime_sound {s : State} {v : Nat} (hs : s.Sound) : (State.setTime s v).Sound := by
  unfold State.setTime
  dsimp only
  repeat' first
    | with_reducible assumption
    | with_reducible refine State.setReg_sound ?_
    | with_reducible refine State.setFlag_sound ?_
    | with_reducible refine State.setTimeState_sound ?_
    | with_reducible refine State.becomeGm_sound ?_
    | with_reducible refine ite_sound ?_ ?_
    | (with_reducible refine State.Sound.mk_of ?_; with_reducible assumption)

theorem execTimSet_sound {v : Nat} {s s' : State} (hs : s.Sound) (he : execTimSet v s = .next s') : s'.Sound := by
  refine next_sound ?_ he
  repeat' first
    | with_reducible assumption
    | with_reducible refine State.setTime_sound ?_

theorem execPtpMessage_sound {seconds utc : Nat} {offset : Int} {s s' : State} (hs : s.Sound)
    (he : execPtpMessage seconds utc offset s = .next s') : s'.Sound := by
  refine next_sound ?_ he
  dsimp only
  repeat' first
    | with_reducible assumption
    | with_reducible refine State.emit_sound ?_
    | with_reducible refine State.setReg_sound ?_
    | with_reducible refine State.setFlag_sound ?_
    | with_reducible refine State.setTimeState_sound ?_
    | with_reducible refine State.becomeGm_sound ?_
    | with_reducible refine State.steer_sound ?_
    | with_reducible refine ite_sound ?_ ?_
    | (with_reducible refine State.Sound.mk_of ?_; with_reducible refine State.setReg_sound ?_)
    | split

theorem execTimePageWrite_sound {s s' : State} (hs : s.Sound) (he : execTimePageWrite s = .next s') : s'.Sound := by
  refine next_sound ?_ he
  dsimp only
  repeat' first
    | with_reducible assumption
    | with_reducible refine State.emit_sound ?_
    | with_reducible refine ite_sound ?_ ?_
    | (with_reducible refine State.Sound.mk_of ?_; with_reducible refine State.emit_sound ?_)

theorem execPtmExchange_sound {hostNs : Nat} {s s' : State} (hs : s.Sound)
    (he : execPtmExchange hostNs s = .next s') : s'.Sound := by
  refine next_sound ?_ he
  dsimp only
  repeat' first
    | with_reducible assumption
    | with_reducible refine ite_sound ?_ ?_
    | (with_reducible refine State.Sound.mk_of ?_; with_reducible assumption)

/-! ### Gate -/

theorem State.setGate_sound {s : State} {g : GateSt} (hs : s.Sound) : (State.setGate s g).Sound := by
  unfold State.setGate
  repeat (with_reducible refine State.Sound.mk_of ?_; with_reducible assumption)

theorem State.setChild_sound {s : State} {p : Party} (hs : s.Sound) : (State.setChild s p).Sound := by
  unfold State.setChild
  dsimp only
  repeat' first
    | with_reducible assumption
    | with_reducible refine State.setGate_sound ?_

theorem State.hear_sound {s : State} {r : Nat} (hs : s.Sound) : (State.hear s r).Sound := by
  unfold State.hear
  dsimp only
  repeat' first
    | with_reducible assumption
    | with_reducible refine State.setGate_sound ?_
    | with_reducible refine State.setChild_sound ?_
    | with_reducible refine ite_sound ?_ ?_
    | split

theorem State.tryGate_sound {s : State} (hs : s.Sound) : (State.tryGate s).Sound := by
  unfold State.tryGate
  dsimp only
  repeat' first
    | with_reducible assumption
    | with_reducible refine State.setReg_sound ?_
    | with_reducible refine State.blame_sound ?_
    | with_reducible refine State.cause_sound ?_
    | with_reducible refine State.decision_sound ?_
    | with_reducible refine State.setGate_sound ?_
    | with_reducible refine State.sendVote_sound ?_
    | with_reducible refine ite_sound ?_ ?_
    | split

theorem State.revote_sound {s : State} (hs : s.Sound) : (State.revote s).Sound := by
  unfold State.revote
  repeat' first
    | with_reducible assumption
    | with_reducible refine State.decision_sound ?_
    | with_reducible refine State.tryGate_sound ?_
    | with_reducible refine ite_sound ?_ ?_

theorem State.partyLost_sound {s : State} {r : Nat} (hs : s.Sound) : (State.partyLost s r).Sound := by
  unfold State.partyLost
  dsimp only
  repeat' first
    | with_reducible assumption
    | with_reducible refine State.setGate_sound ?_
    | with_reducible refine State.revote_sound ?_
    | with_reducible refine State.setFlag_sound ?_
    | with_reducible refine State.blame_sound ?_
    | with_reducible refine State.setChild_sound ?_
    | with_reducible refine ite_sound ?_ ?_
    | split

theorem State.missChild_sound {s : State} {r : Nat} (hs : s.Sound) : (State.missChild s r).Sound := by
  unfold State.missChild
  dsimp only
  repeat' first
    | with_reducible assumption
    | with_reducible refine State.blame_sound ?_
    | with_reducible refine State.setGate_sound ?_
    | with_reducible refine State.tryGate_sound ?_
    | with_reducible refine ite_sound ?_ ?_

theorem execGatePartyLost_sound {r : Nat} {s s' : State} (hs : s.Sound) (he : execGatePartyLost r s = .next s') : s'.Sound := by
  refine next_sound ?_ he
  repeat' first
    | with_reducible assumption
    | with_reducible refine State.partyLost_sound ?_
    | with_reducible refine State.missChild_sound ?_
    | split

theorem execHeartbeatSend_sound {s s' : State} (hs : s.Sound) (he : execHeartbeatSend s = .next s') : s'.Sound := by
  refine next_sound ?_ he
  dsimp only
  repeat' first
    | with_reducible assumption
    | with_reducible refine State.ctrl_sound ?_
    | with_reducible refine ite_sound ?_ ?_
    | with_reducible refine each_sound (fun _ _ _ => ?_) ?_
    | split

theorem State.takeVote_sound {s : State} {r : Nat} {data : List Byte} (hs : s.Sound) : (State.takeVote s r data).Sound := by
  unfold State.takeVote
  dsimp only
  repeat' first
    | with_reducible assumption
    | with_reducible refine State.hear_sound ?_
    | with_reducible refine State.decision_sound ?_
    | with_reducible refine State.sendVote_sound ?_
    | with_reducible refine State.setChild_sound ?_
    | with_reducible refine State.tryGate_sound ?_
    | with_reducible refine ite_sound ?_ ?_
    | split

theorem execVoteReceive_sound {l : Nat} {s s' : State} (hs : s.Sound) (he : execVoteReceive l s = .next s') : s'.Sound := by
  refine next_sound ?_ he
  repeat' first
    | with_reducible assumption
    | with_reducible refine State.onCtrl_sound ?_ (fun _ _ _ => ?_)
    | with_reducible refine State.takeVote_sound ?_

theorem execDecisionReceive_sound {l : Nat} {s s' : State} (hs : s.Sound)
    (he : execDecisionReceive l s = .next s') : s'.Sound := by
  refine next_sound ?_ he
  dsimp only
  repeat' first
    | with_reducible assumption
    | with_reducible refine State.onCtrl_sound ?_ (fun _ _ _ => ?_)
    | with_reducible refine State.decision_sound ?_
    | with_reducible refine State.hear_sound ?_
    | with_reducible refine ite_sound ?_ ?_

theorem execIsolationTimeout_sound {s s' : State} (hs : s.Sound) (he : execIsolationTimeout s = .next s') : s'.Sound := by
  refine next_sound ?_ he
  repeat' first
    | with_reducible assumption
    | with_reducible refine State.beginAbort_sound ?_
    | with_reducible refine ite_sound ?_ ?_
    | split

/-! ### Links -/

theorem State.passOn_sound {s : State} {vc : Nat} {p : Packet} (hs : s.Sound) : (State.passOn s vc p).Sound := by
  unfold State.passOn
  repeat' first
    | with_reducible assumption
    | with_reducible refine State.sendPacket_sound ?_
    | with_reducible refine State.sendUnreachable_sound ?_
    | with_reducible refine ite_sound ?_ ?_

theorem State.releaseHeld_sound {s : State} {l seq : Nat} (hs : s.Sound) : (State.releaseHeld s l seq).Sound := by
  unfold State.releaseHeld
  dsimp only
  repeat' first
    | with_reducible assumption
    | with_reducible refine State.passOn_sound ?_
    | with_reducible refine State.setLink_sound ?_
    | with_reducible refine each_sound (fun _ _ _ => ?_) ?_

theorem State.linkDown_sound {s : State} {l reason : Nat} (hs : s.Sound) : (State.linkDown s l reason).Sound := by
  unfold State.linkDown
  dsimp only
  repeat' first
    | with_reducible assumption
    | with_reducible refine State.linkTimeDown_sound ?_
    | with_reducible refine State.passOn_sound ?_
    | with_reducible refine State.releaseHeld_sound ?_
    | with_reducible refine State.setLink_sound ?_
    | with_reducible refine State.setRegAt_sound ?_
    | with_reducible refine State.addRegAt_sound ?_
    | with_reducible refine State.event_sound ?_
    | with_reducible refine State.ctrl_sound ?_
    | with_reducible refine each_sound (fun _ _ _ => ?_) ?_
    | split

theorem State.noteInjection_sound {s : State} {l seq : Nat} (hs : s.Sound) : (State.noteInjection s l seq).Sound := by
  unfold State.noteInjection
  dsimp only
  repeat' first
    | with_reducible refine State.addRegAt_sound ?_
    | (with_reducible refine State.Sound.mk_of ?_; with_reducible assumption)

theorem State.injWrite_sound {s : State} {l v : Nat} (hs : s.Sound) : (State.injWrite s l v).Sound := by
  unfold State.injWrite
  dsimp only
  repeat' first
    | with_reducible assumption
    | with_reducible refine State.event_sound ?_
    | with_reducible refine State.setLink_sound ?_
    | with_reducible refine ite_sound ?_ ?_
    | (with_reducible refine State.Sound.mk_of ?_; with_reducible assumption)

theorem State.arm_sound {s : State} {mode l ctl : Nat} (hs : s.Sound) : (State.arm s mode l ctl).Sound := by
  unfold State.arm
  repeat' first
    | with_reducible assumption
    | with_reducible refine State.injWrite_sound ?_
    | with_reducible refine ite_sound ?_ ?_

theorem execInjectDrop_sound {l ctl : Nat} {s s' : State} (hs : s.Sound) (he : execInjectDrop l ctl s = .next s') : s'.Sound := by
  refine next_sound ?_ he
  repeat' first
    | with_reducible assumption
    | with_reducible refine State.arm_sound ?_

theorem execInjectCorrupt_sound {l ctl : Nat} {s s' : State} (hs : s.Sound)
    (he : execInjectCorrupt l ctl s = .next s') : s'.Sound := by
  refine next_sound ?_ he
  repeat' first
    | with_reducible assumption
    | with_reducible refine State.arm_sound ?_

theorem execInjectReorder_sound {l ctl : Nat} {s s' : State} (hs : s.Sound)
    (he : execInjectReorder l ctl s = .next s') : s'.Sound := by
  refine next_sound ?_ he
  repeat' first
    | with_reducible assumption
    | with_reducible refine State.arm_sound ?_

theorem execInjectLaneFail_sound {l ctl : Nat} {s s' : State} (hs : s.Sound)
    (he : execInjectLaneFail l ctl s = .next s') : s'.Sound := by
  refine next_sound ?_ he
  repeat' first
    | with_reducible assumption
    | with_reducible refine State.arm_sound ?_

theorem execInjectLinkFail_sound {l ctl : Nat} {s s' : State} (hs : s.Sound)
    (he : execInjectLinkFail l ctl s = .next s') : s'.Sound := by
  refine next_sound ?_ he
  repeat' first
    | with_reducible assumption
    | with_reducible refine State.arm_sound ?_

theorem State.putFlit_sound {s : State} {l vc type seq pool : Nat} {payload : List Byte}
    {spoil late : List Byte → List Byte} (hs : s.Sound) : (State.putFlit s l vc type seq pool payload spoil late).Sound := by
  unfold State.putFlit
  dsimp only
  repeat' first
    | with_reducible assumption
    | with_reducible refine State.setLink_sound ?_
    | with_reducible refine State.emit_sound ?_

theorem State.sendData_sound {s : State} {l : Nat} {e : Replay} {spoil late : List Byte → List Byte} (hs : s.Sound) :
    (State.sendData s l e spoil late).Sound := by
  unfold State.sendData
  dsimp only
  repeat' first
    | with_reducible assumption
    | with_reducible refine State.putFlit_sound ?_
    | with_reducible refine State.setLink_sound ?_

theorem State.resendFlit_sound {s : State} {l : Nat} {e : Replay} (hs : s.Sound) : (State.resendFlit s l e).Sound := by
  unfold State.resendFlit
  dsimp only
  repeat' first
    | with_reducible assumption
    | with_reducible refine State.setLink_sound ?_
    | with_reducible refine State.addRegAt_sound ?_
    | with_reducible refine State.sendData_sound ?_
    | with_reducible refine State.linkDown_sound ?_
    | with_reducible refine ite_sound ?_ ?_

theorem State.sendNew_sound {s : State} {l : Nat} {f : TxFlit} {pool : Nat} {rest : List TxFlit} (hs : s.Sound) :
    (State.sendNew s l f pool rest).Sound := by
  unfold State.sendNew
  dsimp only
  repeat' first
    | with_reducible assumption
    | with_reducible refine State.setLink_sound ?_
    | with_reducible refine State.sendData_sound ?_
    | with_reducible refine State.noteInjection_sound ?_
    | with_reducible refine State.putFlit_sound ?_
    | with_reducible refine State.linkDown_sound ?_
    | with_reducible refine ite_sound ?_ ?_
    | split

theorem State.drainCtrl_sound {s : State} (hs : s.Sound) : (State.drainCtrl s).Sound := by
  unfold State.drainCtrl
  dsimp only
  repeat' first
    | with_reducible assumption
    | with_reducible refine State.sendCtrl_sound ?_
    | with_reducible refine each_sound (fun _ _ _ => ?_) ?_
    | (with_reducible refine State.Sound.mk_of ?_; with_reducible assumption)

theorem execFlitSend_sound {l : Nat} {s s' : State} (hs : s.Sound) (he : execFlitSend l s = .next s') : s'.Sound := by
  refine next_sound ?_ he
  dsimp only
  repeat' first
    | with_reducible assumption
    | with_reducible refine State.drainCtrl_sound ?_
    | with_reducible refine State.resendFlit_sound ?_
    | with_reducible refine State.setLink_sound ?_
    | with_reducible refine State.sendData_sound ?_
    | with_reducible refine State.putFlit_sound ?_
    | with_reducible refine State.sendNew_sound ?_
    | with_reducible refine ite_sound ?_ ?_
    | split

theorem State.noteAnswer_sound {l : Nat} {s : State} {p : Packet} (hs : s.Sound) : (State.noteAnswer l s p).Sound := by
  unfold State.noteAnswer
  dsimp only
  repeat' first
    | with_reducible refine ite_sound ?_ ?_
    | (with_reducible refine State.Sound.mk_of ?_; with_reducible assumption)

theorem State.absorb_sound {s : State} {l : Nat} (hs : s.Sound) : (State.absorb s l).Sound := by
  unfold State.absorb
  repeat' first
    | with_reducible assumption
    | with_reducible refine State.onCtrl_sound ?_ (fun _ _ _ => ?_)
    | with_reducible refine State.hear_sound ?_
    | with_reducible refine State.noteAnswer_sound ?_
    | with_reducible refine each_sound (fun _ _ _ => ?_) ?_

theorem State.spareLanes_sound {s : State} {l mask : Nat} (hs : s.Sound) : (State.spareLanes s l mask).Sound := by
  unfold State.spareLanes
  dsimp only
  repeat' first
    | with_reducible assumption
    | with_reducible refine State.linkDown_sound ?_
    | with_reducible refine State.setRegAt_sound ?_
    | with_reducible refine State.addRegAt_sound ?_
    | with_reducible refine State.event_sound ?_
    | with_reducible refine ite_sound ?_ ?_
    | with_reducible refine each_sound (fun _ _ _ => ?_) ?_

theorem execFlitReceive_sound {l : Nat} {flit : List Byte} {s s' : State} (hs : s.Sound)
    (he : execFlitReceive l flit s = .next s') : s'.Sound := by
  refine next_sound ?_ he
  dsimp only
  repeat' first
    | with_reducible assumption
    | with_reducible refine State.linkDown_sound ?_
    | with_reducible refine State.absorb_sound ?_
    | with_reducible refine State.spareLanes_sound ?_
    | with_reducible refine State.setLink_sound ?_
    | with_reducible refine State.setRegAt_sound ?_
    | with_reducible refine State.addRegAt_sound ?_
    | with_reducible refine ite_sound ?_ ?_

theorem execNackReceive_sound {l : Nat} {seqs : List Nat} {s s' : State} (hs : s.Sound)
    (he : execNackReceive l seqs s = .next s') : s'.Sound := by
  refine next_sound ?_ he
  dsimp only
  repeat' first
    | with_reducible assumption
    | with_reducible refine State.setLink_sound ?_
    | with_reducible refine ite_sound ?_ ?_

theorem execNackRepeat_sound {l : Nat} {s s' : State} (hs : s.Sound) (he : execNackRepeat l s = .next s') : s'.Sound := by
  refine next_sound ?_ he
  dsimp only
  repeat' first
    | with_reducible assumption
    | with_reducible refine State.setLink_sound ?_
    | with_reducible refine ite_sound ?_ ?_

theorem execReplayTimeout_sound {l : Nat} {s s' : State} (hs : s.Sound) (he : execReplayTimeout l s = .next s') : s'.Sound := by
  refine next_sound ?_ he
  dsimp only
  repeat' first
    | with_reducible assumption
    | with_reducible refine State.setLink_sound ?_
    | with_reducible refine ite_sound ?_ ?_
    | split

theorem execLinkSilenceTimeout_sound {l : Nat} {s s' : State} (hs : s.Sound)
    (he : execLinkSilenceTimeout l s = .next s') : s'.Sound := by
  refine next_sound ?_ he
  repeat' first
    | with_reducible assumption
    | with_reducible refine State.linkDown_sound ?_
    | with_reducible refine ite_sound ?_ ?_

theorem State.takeFinal_sound {s : State} {n seq : Nat} (hs : s.Sound) : (State.takeFinal s n seq).Sound := by
  unfold State.takeFinal
  dsimp only
  repeat' first
    | with_reducible assumption
    | with_reducible refine State.releaseHeld_sound ?_
    | with_reducible refine State.setLink_sound ?_
    | split

theorem execLinkFinal_sound {l : Nat} {s s' : State} (hs : s.Sound) (he : execLinkFinal l s = .next s') : s'.Sound := by
  refine next_sound ?_ he
  dsimp only
  repeat' first
    | with_reducible assumption
    | with_reducible refine State.onCtrl_sound ?_ (fun _ _ _ => ?_)
    | with_reducible refine State.takeFinal_sound ?_
    | with_reducible refine ite_sound ?_ ?_

theorem State.loseTransit_sound {s : State} {p : Packet} (hs : s.Sound) : (State.loseTransit s p).Sound := by
  unfold State.loseTransit
  repeat' first
    | with_reducible assumption
    | with_reducible refine State.lostPacket_sound ?_
    | with_reducible refine State.event_sound ?_
    | with_reducible refine State.sendUnreachable_sound ?_
    | with_reducible refine ite_sound ?_ ?_

theorem execLinkFinalTimeout_sound {l : Nat} {s s' : State} (hs : s.Sound)
    (he : execLinkFinalTimeout l s = .next s') : s'.Sound := by
  refine next_sound ?_ he
  dsimp only
  repeat' first
    | with_reducible assumption
    | with_reducible refine State.setLink_sound ?_
    | with_reducible refine State.loseTransit_sound ?_
    | with_reducible refine ite_sound ?_ ?_
    | with_reducible refine each_sound (fun _ _ _ => ?_) ?_
    | split

theorem execLaneSpare_sound {l lane : Nat} {s s' : State} (hs : s.Sound)
    (he : execLaneSpare l lane s = .next s') : s'.Sound := by
  refine next_sound ?_ he
  dsimp only
  repeat' first
    | with_reducible assumption
    | with_reducible refine State.spareLanes_sound ?_
    | with_reducible refine State.setLink_sound ?_
    | with_reducible refine ite_sound ?_ ?_

theorem State.probeLink_sound {s : State} {bank l : Nat} (hs : s.Sound) : (State.probeLink s bank l).Sound := by
  unfold State.probeLink
  repeat' first
    | with_reducible assumption
    | with_reducible refine State.sendOver_sound ?_

theorem State.probe_sound {s : State} {bank : Nat} (hs : s.Sound) : (State.probe s bank).Sound := by
  unfold State.probe
  repeat' first
    | with_reducible refine State.probeLink_sound ?_
    | with_reducible refine ite_sound ?_ ?_
    | with_reducible refine each_sound (fun _ _ _ => ?_) ?_
    | (with_reducible refine State.Sound.mk_of ?_; with_reducible assumption)

theorem State.askNeighbour_sound {s : State} {l : Nat} (hs : s.Sound) : (State.askNeighbour s l).Sound := by
  unfold State.askNeighbour
  dsimp only
  repeat' first
    | with_reducible refine State.probeLink_sound ?_
    | with_reducible refine ite_sound ?_ ?_
    | (with_reducible refine State.Sound.mk_of ?_; with_reducible assumption)

theorem execLinkTrainRetry_sound {l peerRank peerLink lanes : Nat} {s s' : State} (hs : s.Sound)
    (he : execLinkTrainRetry l peerRank peerLink lanes s = .next s') : s'.Sound := by
  refine next_sound ?_ he
  dsimp only
  repeat' first
    | with_reducible assumption
    | with_reducible refine State.putFlit_sound ?_
    | with_reducible refine State.askNeighbour_sound ?_
    | with_reducible refine State.setLink_sound ?_
    | with_reducible refine State.setRegAt_sound ?_
    | with_reducible refine ite_sound ?_ ?_

theorem execLinkRetryRateCheck_sound {s s' : State} (hs : s.Sound) (he : execLinkRetryRateCheck s = .next s') : s'.Sound := by
  refine next_sound ?_ he
  dsimp only
  repeat' first
    | with_reducible refine State.event_sound ?_
    | with_reducible refine ite_sound ?_ ?_
    | with_reducible refine each_sound (fun _ _ _ => ?_) ?_
    | (with_reducible refine State.Sound.mk_of ?_; with_reducible assumption)

/-! ### Routes -/

theorem execRouteProbe_sound {l : Nat} {s s' : State} (hs : s.Sound) (he : execRouteProbe l s = .next s') : s'.Sound := by
  refine next_sound ?_ he
  dsimp only
  repeat' first
    | with_reducible assumption
    | with_reducible refine State.onCtrl_sound ?_ (fun _ _ _ => ?_)
    | with_reducible refine State.sendOver_sound ?_
    | with_reducible refine each_sound (fun _ _ _ => ?_) ?_

theorem execRouteLoad_sound {r j : Nat} {v : HostView} {s s' : State} (hs : s.Sound)
    (he : execRouteLoad r j v s = .next s') : s'.Sound := by
  refine next_sound ?_ he
  dsimp only
  repeat' first
    | with_reducible assumption
    | with_reducible refine State.onDesc_sound ?_ (fun _ _ _ => ?_)
    | with_reducible refine State.finish_sound ?_
    | with_reducible refine State.take_sound ?_
    | with_reducible refine State.fetch_sound ?_
    | with_reducible refine State.setReg_sound ?_
    | with_reducible refine ite_sound ?_ ?_
    | (with_reducible refine State.Sound.mk_of ?_; with_reducible refine ite_sound ?_ ?_)
    | split

theorem execRouteLoadDone_sound {s s' : State} (hs : s.Sound) (he : execRouteLoadDone s = .next s') : s'.Sound := by
  refine next_sound ?_ he
  dsimp only
  repeat' first
    | with_reducible assumption
    | with_reducible refine State.complete_sound ?_
    | (with_reducible refine State.Sound.mk_of ?_; with_reducible assumption)
    | split

theorem execRouteArm_sound {r j : Nat} {s s' : State} (hs : s.Sound) (he : execRouteArm r j s = .next s') : s'.Sound := by
  refine next_sound ?_ he
  dsimp only
  repeat' first
    | with_reducible assumption
    | with_reducible refine State.complete_sound ?_
    | with_reducible refine State.setReg_sound ?_
    | with_reducible refine State.finish_sound ?_
    | with_reducible refine State.onDesc_sound ?_ (fun _ _ _ => ?_)
    | with_reducible refine State.take_sound ?_
    | with_reducible refine State.probe_sound ?_
    | with_reducible refine ite_sound ?_ ?_
    | split

theorem State.raiseLinks_sound {s : State} (hs : s.Sound) : (State.raiseLinks s).Sound := by
  unfold State.raiseLinks
  repeat' first
    | with_reducible assumption
    | with_reducible refine State.setRegAt_sound ?_
    | with_reducible refine ite_sound ?_ ?_
    | with_reducible refine each_sound (fun _ _ _ => ?_) ?_

theorem State.resumeLinks_sound {s : State} (hs : s.Sound) : (State.resumeLinks s).Sound := by
  unfold State.resumeLinks
  dsimp only
  repeat (with_reducible refine State.Sound.mk_of ?_; with_reducible assumption)

theorem State.swapRoutes_sound {s : State} (hs : s.Sound) : (State.swapRoutes s).Sound := by
  unfold State.swapRoutes
  dsimp only
  repeat' first
    | with_reducible assumption
    | with_reducible refine State.setReg_sound ?_
    | with_reducible refine State.addReg_sound ?_
    | with_reducible refine State.setLink_sound ?_
    | with_reducible refine each_sound (fun _ _ _ => ?_) ?_
    | (with_reducible refine State.Sound.mk_of ?_; with_reducible assumption)

theorem State.releaseLinks_sound {s : State} {n : Nat} (hs : s.Sound) : (State.releaseLinks s n).Sound := by
  unfold State.releaseLinks
  dsimp only
  repeat' first
    | with_reducible assumption
    | with_reducible refine State.swapRoutes_sound ?_
    | with_reducible refine State.resumeLinks_sound ?_
    | with_reducible refine State.raiseLinks_sound ?_
    | with_reducible refine ite_sound ?_ ?_

/-! ### Packets -/

theorem execPacketReceive_sound {l : Nat} {s s' : State} (hs : s.Sound) (he : execPacketReceive l s = .next s') : s'.Sound := by
  refine next_sound ?_ he
  dsimp only
  repeat' first
    | with_reducible assumption
    | with_reducible refine State.consume_sound ?_
    | with_reducible refine State.addRegAt_sound ?_
    | with_reducible refine State.checkCrc_sound ?_
    | with_reducible refine State.sendWack_sound ?_
    | with_reducible refine State.put_sound ?_
    | with_reducible refine ite_sound ?_ ?_
    | split

theorem execWack_sound {l : Nat} {s s' : State} (hs : s.Sound) (he : execWack l s = .next s') : s'.Sound := by
  refine next_sound ?_ he
  dsimp only
  repeat' first
    | with_reducible assumption
    | with_reducible refine State.onPacket_sound ?_ (fun _ _ _ => ?_)
    | with_reducible refine State.failTxn_sound ?_
    | with_reducible refine State.answerTxn_sound ?_
    | with_reducible refine State.setChan_sound ?_
    | with_reducible refine ite_sound ?_ ?_
    | split

theorem execReadReq_sound {l : Nat} {s s' : State} (hs : s.Sound) (he : execReadReq l s = .next s') : s'.Sound := by
  unfold execReadReq at he
  refine next_sound ?_ he
  split
  · exact hs
  refine State.onPacket_sound hs (fun s p k => ?_)
  split
  · exact State.sendPacket_sound k
  · split
    · exact State.sendPacket_sound k
    · exact State.sendPacket_sound (State.get_sound k)

theorem execReadResp_sound {l : Nat} {v : HostView} {s s' : State} (hs : s.Sound)
    (he : execReadResp l v s = .next s') : s'.Sound := by
  refine next_sound ?_ he
  dsimp only
  repeat' first
    | with_reducible assumption
    | with_reducible refine State.onPacket_sound ?_ (fun _ _ _ => ?_)
    | with_reducible refine State.failTxn_sound ?_
    | with_reducible refine State.flush_sound ?_
    | with_reducible refine State.answerTxn_sound ?_
    | with_reducible refine State.setChan_sound ?_
    | with_reducible refine ite_sound ?_ ?_
    | split

theorem execPacketForward_sound {l : Nat} {s s' : State} (hs : s.Sound) (he : execPacketForward l s = .next s') : s'.Sound := by
  refine next_sound ?_ he
  dsimp only
  repeat' first
    | with_reducible assumption
    | with_reducible refine State.passOn_sound ?_
    | with_reducible refine State.sendUnreachable_sound ?_
    | with_reducible refine State.consume_sound ?_
    | split

theorem execUnreachable_sound {l : Nat} {s s' : State} (hs : s.Sound) (he : execUnreachable l s = .next s') : s'.Sound := by
  refine next_sound ?_ he
  dsimp only
  repeat' first
    | with_reducible assumption
    | with_reducible refine State.onPacket_sound ?_ (fun _ _ _ => ?_)
    | with_reducible refine State.lostMessage_sound ?_
    | with_reducible refine State.event_sound ?_
    | with_reducible refine State.failTxn_sound ?_
    | with_reducible refine State.partyLost_sound ?_
    | with_reducible refine ite_sound ?_ ?_

/-! ### Drops -/

theorem State.abortStep_sound {s : State} {reason : Nat} (hs : s.Sound) : (State.abortStep s reason).Sound := by
  unfold State.abortStep
  dsimp only
  repeat' first
    | with_reducible assumption
    | with_reducible refine State.ctrl_sound ?_
    | with_reducible refine State.setGate_sound ?_
    | with_reducible refine State.sendVote_sound ?_
    | with_reducible refine State.beginAbort_sound ?_
    | with_reducible refine ite_sound ?_ ?_
    | with_reducible refine each_sound (fun _ _ _ => ?_) ?_

theorem State.syncBits_sound {s : State} {ids : List Nat} (hs : s.Sound) : (State.syncBits s ids).Sound := by
  unfold State.syncBits
  dsimp only
  repeat (with_reducible refine State.Sound.mk_of ?_; with_reducible assumption)

theorem State.logEvent_sound {s : State} {e : LogRec} (hs : s.Sound) : (State.logEvent s e).Sound := by
  unfold State.logEvent
  dsimp only
  repeat' first
    | with_reducible assumption
    | with_reducible refine State.abortStep_sound ?_
    | with_reducible refine ite_sound ?_ ?_
    | (with_reducible refine State.Sound.mk_of ?_; with_reducible assumption)

theorem State.diverge_sound {s : State} {detail : Nat} (hs : s.Sound) : (State.diverge s detail).Sound := by
  unfold State.diverge
  dsimp only
  repeat' first
    | with_reducible assumption
    | (with_reducible refine State.Sound.mk_of ?_; with_reducible refine State.event_sound ?_)

theorem State.dropBit_sound {s : State} {cause id : Nat} (hs : s.Sound) : (State.dropBit s cause id).Sound := by
  unfold State.dropBit
  dsimp only
  repeat' first
    | with_reducible assumption
    | with_reducible refine State.diverge_sound ?_
    | with_reducible refine State.abortStep_sound ?_
    | with_reducible refine State.event_sound ?_
    | with_reducible refine State.logEvent_sound ?_
    | with_reducible refine ite_sound ?_ ?_
    | (with_reducible refine State.Sound.mk_of ?_; with_reducible assumption)
    | split

theorem State.dropBits_sound {s : State} {cause : Nat} {ids : List Nat} (hs : s.Sound) : (State.dropBits s cause ids).Sound := by
  unfold State.dropBits
  repeat' first
    | with_reducible assumption
    | with_reducible refine State.dropBit_sound ?_
    | with_reducible refine each_sound (fun _ _ _ => ?_) ?_

theorem State.freezeMask_sound {s : State} (hs : s.Sound) : (State.freezeMask s).Sound := by
  unfold State.freezeMask
  dsimp only
  repeat' first
    | with_reducible assumption
    | with_reducible refine State.abortStep_sound ?_
    | with_reducible refine ite_sound ?_ ?_
    | (with_reducible refine State.Sound.mk_of ?_; with_reducible refine State.setFlag_sound ?_)

/-! ### Erasure -/

theorem State.sendPartial_sound {s : State} {owner : Owner} {rank : Nat} {h : PartialHead} {bs : List PByte}
    (hs : s.Sound) : (State.sendPartial s owner rank h bs).Sound := by
  unfold State.sendPartial
  dsimp only
  repeat' first
    | with_reducible assumption
    | with_reducible refine State.useTids_sound ?_
    | with_reducible refine State.addTxn_sound ?_
    | with_reducible refine State.sendPacket_sound ?_
    | with_reducible refine each_sound (fun _ _ _ => ?_) ?_

theorem State.sendDecode_sound {s : State} {owner : Owner} {g : PGroup} {h : PartialHead} {from_ : Nat} {bs : List PByte}
    (hs : s.Sound) : (State.sendDecode s owner g h from_ bs).Sound := by
  unfold State.sendDecode
  repeat' first
    | with_reducible assumption
    | with_reducible refine State.sendPartial_sound ?_

theorem State.askPiece_sound {s : State} {owner : Owner} {g : PGroup} {want side i : Nat} (hs : s.Sound) :
    (State.askPiece s owner g want side i).Sound := by
  unfold State.askPiece
  dsimp only
  repeat' first
    | with_reducible assumption
    | with_reducible refine State.sendDecode_sound ?_
    | with_reducible refine ite_sound ?_ ?_
    | (with_reducible refine State.Sound.mk_of ?_; with_reducible assumption)

end Sys2Proof.Machine
end

