-- ==== Sys2Proof/Laws/SoundSteps.lean ====
section
/-! SUPPORT. What keeps a state sound (`State.Sound`: R159, R253): collectives, parity and steps.
One lemma per operation and per command. -/

namespace Sys2Proof.Machine

/-! ### Rings -/

theorem State.addColl_sound {s : State} {c : Coll} (hs : s.Sound) : (State.addColl s c).Sound := by
  unfold State.addColl
  dsimp only
  repeat (with_reducible refine State.Sound.mk_of ?_; with_reducible assumption)

theorem State.sendPart_sound {s : State} {c : Coll} {dst tseq : Nat} {bs : List PByte} {last : Bool} (hs : s.Sound) :
    (State.sendPart s c dst tseq bs last).Sound := by
  unfold State.sendPart
  repeat' first
    | with_reducible assumption
    | with_reducible refine State.sendPacket_sound ?_

theorem State.sendRing_sound {s : State} {c : Coll} {ps : List (CollPkt × List PByte)} (hs : s.Sound) :
    (State.sendRing s c ps).Sound := by
  unfold State.sendRing
  dsimp only
  repeat' first
    | with_reducible assumption
    | with_reducible refine State.sendPart_sound ?_
    | with_reducible refine each_sound (fun _ _ _ => ?_) ?_

theorem State.putResult_sound {s : State} {c : Coll} {a : Nat} {bs : List PByte} (hs : s.Sound) :
    (State.putResult s c a bs).1.Sound := by
  unfold State.putResult
  dsimp only
  repeat' first
    | with_reducible assumption
    | with_reducible refine State.policy_sound ?_
    | with_reducible refine State.put_sound ?_

theorem State.landPart_sound {s : State} {c : Coll} {p : CollPkt} {bs : List PByte} (hs : s.Sound) :
    (State.landPart s c p bs).1.Sound := by
  unfold State.landPart
  dsimp only
  repeat' first
    | with_reducible assumption
    | with_reducible refine State.putResult_sound ?_
    | split

theorem State.endIfIn_sound {s : State} {c : Coll} (hs : s.Sound) : (State.endIfIn s c).Sound := by
  unfold State.endIfIn
  repeat' first
    | with_reducible assumption
    | with_reducible refine State.endColl_sound ?_
    | with_reducible refine ite_sound ?_ ?_
    | split

theorem State.ringPacket_sound {s : State} {c : Coll} {i : Nat} {bs : List PByte} (hs : s.Sound) :
    (State.ringPacket s c i bs).Sound := by
  unfold State.ringPacket
  dsimp only
  repeat' first
    | with_reducible assumption
    | with_reducible refine State.landPart_sound ?_
    | with_reducible refine State.setColl_sound ?_
    | with_reducible refine State.sendRing_sound ?_
    | with_reducible refine State.endIfIn_sound ?_
    | with_reducible refine ite_sound ?_ ?_
    | split

theorem State.ownBytes_sound {s : State} {v : HostView} {c : Coll} {t : Tensor} (hs : s.Sound) :
    (State.ownBytes s v c t).2.2.Sound := by
  unfold State.ownBytes
  dsimp only
  repeat' first
    | with_reducible assumption
    | with_reducible refine State.get_sound ?_
    | with_reducible refine State.stackRead_sound ?_
    | split

theorem State.landOwn_sound {s : State} {c : Coll} (hs : s.Sound) : (State.landOwn s c).1.Sound := by
  unfold State.landOwn
  dsimp only
  repeat' first
    | with_reducible assumption
    | with_reducible refine State.putResult_sound ?_
    | with_reducible refine State.landPart_sound ?_
    | with_reducible refine fold_fst_sound (fun _ _ _ => ?_) ?_
    | split

theorem State.noteDegraded_sound {s : State} {rank : Nat} (hs : s.Sound) : (State.noteDegraded s rank).Sound := by
  unfold State.noteDegraded
  dsimp only
  repeat' first
    | with_reducible assumption
    | with_reducible refine ite_sound ?_ ?_
    | (with_reducible refine State.Sound.mk_of ?_; with_reducible refine State.event_sound ?_)

theorem State.askShard_sound {s : State} {c : Coll} {k n x : Nat} (hs : s.Sound) : (State.askShard s c k n x).Sound := by
  unfold State.askShard
  dsimp only
  repeat' first
    | with_reducible assumption
    | with_reducible refine State.noteDegraded_sound ?_
    | with_reducible refine State.askPiece_sound ?_
    | with_reducible refine each_sound (fun _ _ _ => ?_) ?_

theorem State.supply_sound {s : State} {k n : Nat} {acc : Coll} {x : Nat} (hs : s.Sound) :
    (State.supply s k n acc x).1.Sound := by
  unfold State.supply
  dsimp only
  repeat' first
    | with_reducible assumption
    | with_reducible refine State.landPart_sound ?_
    | with_reducible refine State.sendRing_sound ?_
    | split

theorem State.supplyDue_sound {s : State} {c : Coll} (hs : s.Sound) : (State.supplyDue s c).Sound := by
  unfold State.supplyDue
  dsimp only
  repeat' first
    | with_reducible assumption
    | with_reducible refine State.supply_sound ?_
    | with_reducible refine State.setColl_sound ?_
    | with_reducible refine fold_fst_sound (fun _ _ _ => ?_) ?_
    | split

theorem State.startRing_sound {s : State} {v : HostView} {c0 : Coll} (hs : s.Sound) : (State.startRing s v c0).Sound := by
  unfold State.startRing
  dsimp only
  repeat' first
    | with_reducible assumption
    | with_reducible refine State.ownBytes_sound ?_
    | with_reducible refine State.useTids_sound ?_
    | with_reducible refine State.addTxn_sound ?_
    | with_reducible refine State.landOwn_sound ?_
    | with_reducible refine State.setColl_sound ?_
    | with_reducible refine State.sendRing_sound ?_
    | with_reducible refine State.endIfIn_sound ?_
    | with_reducible refine State.endColl_sound ?_
    | with_reducible refine State.askShard_sound ?_
    | with_reducible refine State.supplyDue_sound ?_
    | with_reducible refine ite_sound ?_ ?_
    | with_reducible refine each_sound (fun _ _ _ => ?_) ?_
    | split

theorem State.sendMask_sound {s : State} {c : Coll} {pos : Nat} {poison : Bool} (hs : s.Sound) :
    (State.sendMask s c pos poison).Sound := by
  unfold State.sendMask
  dsimp only
  repeat' first
    | with_reducible assumption
    | with_reducible refine State.sendPart_sound ?_

theorem State.syncOn_sound {s : State} {c : Coll} (hs : s.Sound) : (State.syncOn s c).Sound := by
  unfold State.syncOn
  dsimp only
  repeat' first
    | with_reducible assumption
    | with_reducible refine State.syncBits_sound ?_
    | with_reducible refine State.setColl_sound ?_
    | with_reducible refine State.sendMask_sound ?_
    | with_reducible refine ite_sound ?_ ?_
    | with_reducible refine each_sound (fun _ _ _ => ?_) ?_
    | (with_reducible refine State.Sound.mk_of ?_; with_reducible refine State.syncBits_sound ?_)
    | split

theorem State.startSync_sound {s : State} {c0 : Coll} (hs : s.Sound) : (State.startSync s c0).Sound := by
  unfold State.startSync
  dsimp only
  repeat' first
    | with_reducible assumption
    | with_reducible refine State.useTids_sound ?_
    | with_reducible refine State.addTxn_sound ?_
    | with_reducible refine State.setColl_sound ?_
    | with_reducible refine State.syncOn_sound ?_
    | with_reducible refine each_sound (fun _ _ _ => ?_) ?_

theorem State.maskPacket_sound {s : State} {c : Coll} {pos tseq : Nat} {bs : List PByte} (hs : s.Sound) :
    (State.maskPacket s c pos tseq bs).Sound := by
  unfold State.maskPacket
  dsimp only
  repeat' first
    | with_reducible assumption
    | with_reducible refine State.setColl_sound ?_
    | with_reducible refine State.syncOn_sound ?_

/-! ### CollCommands -/

theorem State.twoTensors_sound {s : State} {v : HostView} {a b : Nat} (hs : s.Sound) : (State.twoTensors s v a b).2.Sound := by
  unfold State.twoTensors
  repeat' first
    | with_reducible assumption
    | refine State.tensor_eq ?_ (by assumption)
    | split

theorem State.twoTensors_eq {s : State} {v : HostView} {a b : Nat} {s' : State} {r0} (hs : s.Sound)
    (he : State.twoTensors s v a b = (r0, s')) : s'.Sound := by
  have k := State.twoTensors_sound (s := s) (v := v) (a := a) (b := b) hs
  rw [he] at k
  exact k

theorem execColl_sound {r j : Nat} {v : HostView} {s s' : State} (hs : s.Sound)
    (he : execColl r j v s = .next s') : s'.Sound := by
  refine next_sound ?_ he
  dsimp only
  repeat' first
    | with_reducible assumption
    | with_reducible refine State.take_sound ?_
    | with_reducible refine State.finish_sound ?_
    | with_reducible refine State.onDesc_sound ?_ (fun _ _ _ => ?_)
    | with_reducible refine State.touchStack_sound ?_
    | with_reducible refine State.complete_sound ?_
    | with_reducible refine State.addColl_sound ?_
    | with_reducible refine State.startRing_sound ?_
    | refine State.twoTensors_eq ?_ (by assumption)
    | split

theorem execCollPacketReceive_sound {l : Nat} {s s' : State} (hs : s.Sound)
    (he : execCollPacketReceive l s = .next s') : s'.Sound := by
  refine next_sound ?_ he
  dsimp only
  repeat' first
    | with_reducible assumption
    | with_reducible refine State.consume_sound ?_
    | with_reducible refine State.checkCrc_sound ?_
    | with_reducible refine State.setColl_sound ?_
    | with_reducible refine State.maskPacket_sound ?_
    | with_reducible refine State.ringPacket_sound ?_
    | with_reducible refine State.stopColl_sound ?_
    | split

theorem State.queueColl_sound {s : State} {d : Desc} {q ch : Nat} {c : Coll} (hs : s.Sound) :
    (State.queueColl s d q ch c).Sound := by
  unfold State.queueColl
  repeat' first
    | with_reducible assumption
    | with_reducible refine State.enqueue_sound ?_
    | with_reducible refine State.take_sound ?_
    | with_reducible refine State.addColl_sound ?_

theorem State.onStepDesc_sound {s : State} {r j op at_ : Nat} {f : State → Desc → Nat → Nat → State} (hs : s.Sound)
    (kf : ∀ y0 y1 y2 y3, State.Sound y0 → (f y0 y1 y2 y3).Sound) : (State.onStepDesc s r j op at_ f).Sound := by
  unfold State.onStepDesc
  dsimp only
  repeat' first
    | with_reducible assumption
    | with_reducible refine kf _ _ _ _ ?_
    | with_reducible refine State.onDesc_sound ?_ (fun _ _ _ => ?_)
    | with_reducible refine State.finish_sound ?_
    | with_reducible refine State.touchStack_sound ?_
    | with_reducible refine ite_sound ?_ ?_
    | split

theorem execGather_sound {r j : Nat} {v : HostView} {s s' : State} (hs : s.Sound)
    (he : execGather r j v s = .next s') : s'.Sound := by
  refine next_sound ?_ he
  dsimp only
  repeat' first
    | with_reducible assumption
    | with_reducible refine State.onStepDesc_sound ?_ (fun _ _ _ _ _ => ?_)
    | with_reducible refine State.finish_sound ?_
    | refine State.twoTensors_eq ?_ (by assumption)
    | with_reducible refine State.complete_sound ?_
    | with_reducible refine State.queueColl_sound ?_
    | with_reducible refine ite_sound ?_ ?_
    | split

theorem execGatherLanded_sound {r j : Nat} {s s' : State} (hs : s.Sound) (he : execGatherLanded r j s = .next s') : s'.Sound := by
  refine next_sound ?_ he
  dsimp only
  repeat' first
    | with_reducible assumption
    | with_reducible refine State.endColl_sound ?_
    | with_reducible refine State.event_sound ?_
    | with_reducible refine State.logEvent_sound ?_
    | with_reducible refine State.dropBits_sound ?_
    | with_reducible refine ite_sound ?_ ?_
    | (with_reducible refine State.Sound.mk_of ?_; with_reducible assumption)
    | split

theorem execDropSync_sound {r j : Nat} {s s' : State} (hs : s.Sound) (he : execDropSync r j s = .next s') : s'.Sound := by
  refine next_sound ?_ he
  dsimp only
  repeat' first
    | with_reducible assumption
    | with_reducible refine State.onStepDesc_sound ?_ (fun _ _ _ _ _ => ?_)
    | with_reducible refine State.finish_sound ?_
    | with_reducible refine State.queueColl_sound ?_
    | with_reducible refine ite_sound ?_ ?_
    | split

theorem execDropSyncComplete_sound {r j : Nat} {s s' : State} (hs : s.Sound)
    (he : execDropSyncComplete r j s = .next s') : s'.Sound := by
  refine next_sound ?_ he
  dsimp only
  repeat' first
    | with_reducible assumption
    | with_reducible refine State.endColl_sound ?_
    | with_reducible refine State.freezeMask_sound ?_
    | with_reducible refine ite_sound ?_ ?_
    | split

theorem State.residual_sound {s : State} {v : HostView} {a : Nat} (hs : s.Sound) : (State.residual s v a).2.Sound := by
  unfold State.residual
  repeat' first
    | with_reducible assumption
    | refine State.tensor_eq ?_ (by assumption)
    | split

theorem State.residual_eq {s : State} {v : HostView} {a : Nat} {s' : State} {r0} (hs : s.Sound) (he : State.residual s v a =
    (r0, s')) : s'.Sound := by
  have k := State.residual_sound (s := s) (v := v) (a := a) hs
  rw [he] at k
  exact k

theorem execGradExchange_sound {r j : Nat} {v : HostView} {s s' : State} (hs : s.Sound)
    (he : execGradExchange r j v s = .next s') : s'.Sound := by
  refine next_sound ?_ he
  dsimp only
  repeat' first
    | with_reducible assumption
    | with_reducible refine State.onStepDesc_sound ?_ (fun _ _ _ _ _ => ?_)
    | with_reducible refine State.finish_sound ?_
    | refine State.twoTensors_eq ?_ (by assumption)
    | with_reducible refine State.complete_sound ?_
    | refine State.residual_eq ?_ (by assumption)
    | with_reducible refine State.queueColl_sound ?_
    | with_reducible refine ite_sound ?_ ?_
    | split

theorem State.startGrad_sound {s : State} {v : HostView} {c : Coll} (hs : s.Sound) : (State.startGrad s v c).Sound := by
  unfold State.startGrad
  dsimp only
  repeat' first
    | with_reducible assumption
    | with_reducible refine State.setColl_sound ?_

theorem State.partOf_sound {s : State} {c : Coll} {key : Nat} {t : Tensor} {off n : Nat} (hs : s.Sound) :
    (State.partOf s c key t off n).2.Sound := by
  unfold State.partOf
  dsimp only
  repeat' first
    | with_reducible assumption
    | with_reducible refine State.get_sound ?_
    | split

theorem State.encodeFor_sound {s : State} {c : Coll} {d : Desc} {g : Tensor} {pos : Nat} (hs : s.Sound) :
    (State.encodeFor s c d g pos).2.2.2.Sound := by
  unfold State.encodeFor
  dsimp only
  repeat' first
    | with_reducible assumption
    | with_reducible refine State.partOf_sound ?_
    | with_reducible refine State.policy_sound ?_
    | with_reducible refine State.put_sound ?_
    | split

theorem State.sendContribution_sound {s : State} {c : Coll} {pos : Nat} {lens : List Nat} {bs : List PByte} (hs : s.Sound) :
    (State.sendContribution s c pos lens bs).Sound := by
  unfold State.sendContribution
  dsimp only
  repeat' first
    | with_reducible assumption
    | with_reducible refine State.addTxn_sound ?_
    | with_reducible refine State.useTids_sound ?_
    | with_reducible refine State.sendPart_sound ?_
    | with_reducible refine each_sound (fun _ _ _ => ?_) ?_

theorem State.contribute_sound {s : State} {d : Desc} {empty : Bool} {acc : Coll} {pos : Nat} (hs : s.Sound) :
    (State.contribute s d empty acc pos).1.Sound := by
  unfold State.contribute
  dsimp only
  repeat' first
    | with_reducible assumption
    | with_reducible refine State.encodeFor_sound ?_
    | with_reducible refine State.sendContribution_sound ?_
    | split

theorem State.foldChunk_sound {s : State} {c : Coll} {d : Desc} {g u : Tensor} (hs : s.Sound) :
    (State.foldChunk s c d g u).Sound := by
  unfold State.foldChunk
  dsimp only
  repeat' first
    | with_reducible refine State.putResult_sound ?_
    | with_reducible refine State.endColl_sound ?_
    | (with_reducible refine State.Sound.mk_of ?_
       first
         | with_reducible assumption
         | with_reducible refine State.partOf_sound ?_)
    | split

theorem State.foldAll_sound {n : Nat} {s : State} (h : s.Sound) : (State.foldAll n s).Sound := by
  induction n generalizing s with
  | zero => exact h
  | succ n ih =>
    rw [State.foldAll]
    split
    · exact h
    · split
      · exact ih (State.foldChunk_sound h)
      · exact h

theorem execGradEncodeStart_sound {r j : Nat} {s s' : State} (hs : s.Sound)
    (he : execGradEncodeStart r j s = .next s') : s'.Sound := by
  refine next_sound ?_ he
  dsimp only
  repeat' first
    | with_reducible assumption
    | with_reducible refine State.logEvent_sound ?_
    | with_reducible refine State.contribute_sound ?_
    | with_reducible refine State.foldAll_sound ?_
    | with_reducible refine State.setColl_sound ?_
    | with_reducible refine ite_sound ?_ ?_
    | with_reducible refine fold_fst_sound (fun _ _ _ => ?_) ?_
    | split

theorem execContributionReceive_sound {l : Nat} {s s' : State} (hs : s.Sound)
    (he : execContributionReceive l s = .next s') : s'.Sound := by
  refine next_sound ?_ he
  dsimp only
  repeat' first
    | with_reducible assumption
    | with_reducible refine State.consume_sound ?_
    | with_reducible refine State.checkCrc_sound ?_
    | with_reducible refine State.foldAll_sound ?_
    | with_reducible refine State.setColl_sound ?_
    | split

theorem State.startColl_sound {s : State} {v : HostView} {c : Coll} {d : Desc} (hs : s.Sound) :
    (State.startColl s v c d).Sound := by
  unfold State.startColl
  repeat' first
    | with_reducible assumption
    | with_reducible refine State.startSync_sound ?_
    | with_reducible refine State.startGrad_sound ?_
    | with_reducible refine State.endColl_sound ?_
    | with_reducible refine State.startRing_sound ?_
    | with_reducible refine ite_sound ?_ ?_
    | split

theorem execQueueStart_sound {ch : Nat} {v : HostView} {s s' : State} (hs : s.Sound)
    (he : execQueueStart ch v s = .next s') : s'.Sound := by
  refine next_sound ?_ he
  dsimp only
  repeat' first
    | with_reducible assumption
    | with_reducible refine State.setChan_sound ?_
    | with_reducible refine State.startColl_sound ?_
    | with_reducible refine ite_sound ?_ ?_
    | split

/-! ### Parity -/

theorem State.notePartial_sound {s : State} {p : Packet} (hs : s.Sound) : (State.notePartial s p).Sound := by
  unfold State.notePartial
  dsimp only
  repeat (with_reducible refine State.Sound.mk_of ?_; with_reducible assumption)

theorem State.readPiece_sound {s : State} {side i : Nat} (hs : s.Sound) : (State.readPiece s side i).2.Sound := by
  unfold State.readPiece
  dsimp only
  repeat' first
    | with_reducible assumption
    | with_reducible refine State.stackRead_sound ?_
    | with_reducible refine fold_sound (fun _ _ _ => ?_) ?_
    | split

theorem State.readParity_sound {s : State} {g : PGroup} {side i : Nat} (hs : s.Sound) :
    (State.readParity s g side i).2.Sound := by
  unfold State.readParity
  repeat' first
    | with_reducible assumption
    | with_reducible refine State.stackRead_sound ?_

theorem State.writeParity_sound {s : State} {g : PGroup} {side i : Nat} {bs : List PByte} (hs : s.Sound) :
    (State.writeParity s g side i bs).Sound := by
  unfold State.writeParity
  repeat' first
    | with_reducible assumption
    | with_reducible refine State.stackWrite_sound ?_

theorem State.rolePiece_sound {s : State} {g : PGroup} {side i : Nat} (hs : s.Sound) : (State.rolePiece s g side i).2.Sound := by
  unfold State.rolePiece
  repeat' first
    | with_reducible assumption
    | with_reducible refine State.readPiece_sound ?_
    | with_reducible refine State.readParity_sound ?_
    | split

theorem State.noteWritten_sound {s : State} {entry piece kind : Nat} (hs : s.Sound) :
    (State.noteWritten s entry piece kind).Sound := by
  unfold State.noteWritten
  dsimp only
  repeat (with_reducible refine State.Sound.mk_of ?_; with_reducible assumption)

theorem State.passPartial_sound {s : State} {owner : Owner} {g : PGroup} {h : PartialHead} {bs : List PByte}
    (hs : s.Sound) : (State.passPartial s owner g h bs).Sound := by
  unfold State.passPartial
  dsimp only
  repeat' first
    | with_reducible assumption
    | with_reducible refine State.sendPartial_sound ?_
    | with_reducible refine ite_sound ?_ ?_
    | split

theorem State.change_sound {s : State} {i : Nat} (hs : s.Sound) : (State.change s i).2.Sound := by
  unfold State.change
  dsimp only
  repeat' first
    | with_reducible assumption
    | with_reducible refine State.readPiece_sound ?_
    | with_reducible refine State.cause_sound ?_
    | with_reducible refine ite_sound ?_ ?_

theorem State.updateOn_sound {s : State} {g : PGroup} {h : PartialHead} {bs : List PByte} (hs : s.Sound) :
    (State.updateOn s g h bs).Sound := by
  unfold State.updateOn
  dsimp only
  repeat' first
    | with_reducible assumption
    | with_reducible refine State.change_sound ?_
    | with_reducible refine State.passPartial_sound ?_
    | with_reducible refine State.noteWritten_sound ?_

theorem State.updateParity_sound {s : State} {k : Nat} {g : PGroup} {h : PartialHead} {bs : List PByte} (hs : s.Sound) :
    (State.updateParity s k g h bs).Sound := by
  unfold State.updateParity
  dsimp only
  repeat' first
    | with_reducible assumption
    | with_reducible refine State.readParity_sound ?_
    | with_reducible refine State.cause_sound ?_
    | with_reducible refine State.writeParity_sound ?_
    | with_reducible refine State.noteWritten_sound ?_
    | with_reducible refine ite_sound ?_ ?_

theorem State.takeUpdate_sound {s : State} {h : PartialHead} {bs : List PByte} (hs : s.Sound) :
    (State.takeUpdate s h bs).Sound := by
  unfold State.takeUpdate
  repeat' first
    | with_reducible assumption
    | with_reducible refine State.updateOn_sound ?_
    | with_reducible refine State.updateParity_sound ?_
    | split

theorem State.startUpdate_sound {s : State} (hs : s.Sound) : (State.startUpdate s).Sound := by
  unfold State.startUpdate
  dsimp only
  repeat' first
    | with_reducible assumption
    | with_reducible refine State.updateOn_sound ?_
    | with_reducible refine ite_sound ?_ ?_
    | with_reducible refine each_sound (fun _ _ _ => ?_) ?_

theorem State.initOn_sound {s : State} {g : PGroup} {h : PartialHead} {bs : List PByte} (hs : s.Sound) :
    (State.initOn s g h bs).Sound := by
  unfold State.initOn
  dsimp only
  repeat' first
    | with_reducible assumption
    | with_reducible refine State.readPiece_sound ?_
    | with_reducible refine State.passPartial_sound ?_
    | with_reducible refine State.noteWritten_sound ?_

theorem State.takeInit_sound {s : State} {h : PartialHead} {bs : List PByte} (hs : s.Sound) : (State.takeInit s h bs).Sound := by
  unfold State.takeInit
  repeat' first
    | with_reducible assumption
    | with_reducible refine State.initOn_sound ?_
    | with_reducible refine State.writeParity_sound ?_
    | with_reducible refine State.noteWritten_sound ?_
    | split

theorem State.fillOn_sound {s : State} {c : FillChain} {side piece : Nat} {bs : List PByte} (hs : s.Sound) :
    (State.fillOn s c side piece bs).Sound := by
  unfold State.fillOn
  dsimp only
  repeat' first
    | with_reducible assumption
    | with_reducible refine State.rolePiece_sound ?_
    | (with_reducible refine State.Sound.mk_of ?_; with_reducible refine State.sendPartial_sound ?_)

theorem State.fillPiece_sound {s : State} {c : FillChain} {side piece : Nat} {bs : List PByte} (hs : s.Sound) :
    (State.fillPiece s c side piece bs).Sound := by
  unfold State.fillPiece
  dsimp only
  repeat' first
    | with_reducible assumption
    | with_reducible refine State.putPiece_sound ?_
    | with_reducible refine State.writeParity_sound ?_
    | with_reducible refine State.addReg_sound ?_
    | (with_reducible refine State.Sound.mk_of ?_; with_reducible refine ite_sound ?_ ?_)

theorem State.takeFill_sound {s : State} {h : PartialHead} {bs : List PByte} (hs : s.Sound) : (State.takeFill s h bs).Sound := by
  unfold State.takeFill
  repeat' first
    | with_reducible assumption
    | with_reducible refine State.fillPiece_sound ?_
    | with_reducible refine State.fillOn_sound ?_
    | with_reducible refine ite_sound ?_ ?_
    | split

theorem State.startChain_sound {s : State} {c : FillChain} (hs : s.Sound) : (State.startChain s c).Sound := by
  unfold State.startChain
  dsimp only
  repeat' first
    | with_reducible assumption
    | with_reducible refine State.fillOn_sound ?_
    | with_reducible refine ite_sound ?_ ?_
    | with_reducible refine each_sound (fun _ _ _ => ?_) ?_

theorem State.noteFilling_sound {s : State} (hs : s.Sound) : (State.noteFilling s).Sound := by
  unfold State.noteFilling
  repeat' first
    | with_reducible assumption
    | with_reducible refine State.setFlag_sound ?_

theorem State.takeDecode_sound {s : State} {h : PartialHead} {bs : List PByte} (hs : s.Sound) :
    (State.takeDecode s h bs).Sound := by
  unfold State.takeDecode
  dsimp only
  repeat' first
    | with_reducible assumption
    | with_reducible refine State.rolePiece_sound ?_
    | with_reducible refine State.sendDecode_sound ?_
    | with_reducible refine State.supplyDue_sound ?_
    | with_reducible refine ite_sound ?_ ?_
    | with_reducible refine each_sound (fun _ _ _ => ?_) ?_
    | (with_reducible refine State.Sound.mk_of ?_; with_reducible refine State.rolePiece_sound ?_)
    | split

theorem State.drainPartials_sound {n : Nat} {s : State} (h : s.Sound) : (State.drainPartials n s).Sound := by
  induction n generalizing s with
  | zero => exact h
  | succ n ih =>
    rw [State.drainPartials]
    dsimp only
    split
    · exact h
    · refine ih ?_
      split
      · exact State.takeUpdate_sound (State.Sound.mk_of h)
      · split
        · exact State.noteFilling_sound (State.takeFill_sound (State.Sound.mk_of h))
        · split
          · exact State.takeInit_sound (State.Sound.mk_of h)
          · exact State.takeDecode_sound (State.Sound.mk_of h)

theorem State.drain_sound {s : State} (hs : s.Sound) : (State.drain s).Sound := by
  unfold State.drain
  repeat' first
    | with_reducible assumption
    | with_reducible refine State.drainPartials_sound ?_

theorem execParityPartialReceive_sound {l : Nat} {s s' : State} (hs : s.Sound)
    (he : execParityPartialReceive l s = .next s') : s'.Sound := by
  refine next_sound ?_ he
  dsimp only
  repeat' first
    | with_reducible assumption
    | with_reducible refine State.notePartial_sound ?_
    | with_reducible refine State.drain_sound ?_
    | with_reducible refine State.sendWack_sound ?_
    | with_reducible refine State.onPacket_sound ?_ (fun _ _ _ => ?_)
    | with_reducible refine ite_sound ?_ ?_

theorem execParityUpdateDone_sound {s s' : State} (hs : s.Sound) (he : execParityUpdateDone s = .next s') : s'.Sound := by
  refine next_sound ?_ he
  repeat' first
    | with_reducible assumption
    | with_reducible refine State.setReg_sound ?_
    | with_reducible refine State.tryGate_sound ?_
    | with_reducible refine ite_sound ?_ ?_

theorem State.clearUpdate_sound {s : State} (hs : s.Sound) : (State.clearUpdate s).Sound := by
  unfold State.clearUpdate
  dsimp only
  repeat (with_reducible refine State.Sound.mk_of ?_; with_reducible assumption)

theorem State.endExhaustion_sound {s : State} (hs : s.Sound) : (State.endExhaustion s).Sound := by
  unfold State.endExhaustion
  dsimp only
  repeat' first
    | with_reducible refine ite_sound ?_ ?_
    | (with_reducible refine State.Sound.mk_of ?_
       first
         | with_reducible assumption
         | with_reducible refine State.setFlag_sound ?_)

theorem execParityInit_sound {r j : Nat} {s s' : State} (hs : s.Sound) (he : execParityInit r j s = .next s') : s'.Sound := by
  refine next_sound ?_ he
  dsimp only
  repeat' first
    | with_reducible refine State.take_sound ?_
    | with_reducible refine State.finish_sound ?_
    | with_reducible refine State.onDesc_sound ?_ (fun _ _ _ => ?_)
    | with_reducible refine State.initOn_sound ?_
    | with_reducible refine State.drain_sound ?_
    | with_reducible refine State.endExhaustion_sound ?_
    | with_reducible refine each_sound (fun _ _ _ => ?_) ?_
    | (with_reducible refine State.Sound.mk_of ?_; with_reducible assumption)
    | split

theorem State.renewFills_sound {s : State} (hs : s.Sound) : (State.renewFills s).Sound := by
  unfold State.renewFills
  dsimp only
  repeat' first
    | with_reducible refine State.startChain_sound ?_
    | with_reducible refine State.drain_sound ?_
    | with_reducible refine State.noteFilling_sound ?_
    | with_reducible refine ite_sound ?_ ?_
    | with_reducible refine each_sound (fun _ _ _ => ?_) ?_
    | (with_reducible refine State.Sound.mk_of ?_
       first
         | with_reducible assumption
         | with_reducible refine State.addReg_sound ?_)

theorem State.childBack_sound {s : State} {r : Nat} (hs : s.Sound) : (State.childBack s r).Sound := by
  unfold State.childBack
  dsimp only
  repeat' first
    | with_reducible assumption
    | with_reducible refine State.setGate_sound ?_

theorem State.absentNowOn_sound {s : State} {a : AbsentRec} (hs : s.Sound) : (State.absentNowOn s a).Sound := by
  unfold State.absentNowOn
  dsimp only
  repeat' first
    | with_reducible refine State.finish_sound ?_
    | with_reducible refine State.childBack_sound ?_
    | with_reducible refine State.setReg_sound ?_
    | with_reducible refine ite_sound ?_ ?_
    | (with_reducible refine State.Sound.mk_of ?_
       first
         | with_reducible assumption
         | with_reducible refine State.setFlag_sound ?_)

theorem execAbsent_sound {r j : Nat} {s s' : State} (hs : s.Sound) (he : execAbsent r j s = .next s') : s'.Sound := by
  refine next_sound ?_ he
  dsimp only
  repeat' first
    | with_reducible refine State.take_sound ?_
    | with_reducible refine State.finish_sound ?_
    | with_reducible refine State.onDesc_sound ?_ (fun _ _ _ => ?_)
    | with_reducible refine State.renewFills_sound ?_
    | with_reducible refine State.absentNowOn_sound ?_
    | with_reducible refine ite_sound ?_ ?_
    | (with_reducible refine State.Sound.mk_of ?_; with_reducible assumption)

theorem State.releaseAbsent_sound {s : State} {n : Nat} (hs : s.Sound) : (State.releaseAbsent s n).Sound := by
  unfold State.releaseAbsent
  dsimp only
  repeat' first
    | with_reducible assumption
    | with_reducible refine State.absentNowOn_sound ?_
    | with_reducible refine State.renewFills_sound ?_
    | with_reducible refine ite_sound ?_ ?_
    | with_reducible refine each_sound (fun _ _ _ => ?_) ?_

theorem execSpareFillDone_sound {s s' : State} (hs : s.Sound) (he : execSpareFillDone s = .next s') : s'.Sound := by
  refine next_sound ?_ he
  dsimp only
  repeat' first
    | with_reducible assumption
    | with_reducible refine State.stackWrite_sound ?_
    | with_reducible refine State.noteFilling_sound ?_
    | with_reducible refine State.finish_sound ?_
    | with_reducible refine ite_sound ?_ ?_
    | (with_reducible refine State.Sound.mk_of ?_; with_reducible refine each_sound (fun _ _ _ => ?_) ?_)
    | split

theorem State.expandMarks_sound {s : State} (hs : s.Sound) : (State.expandMarks s).Sound := by
  unfold State.expandMarks
  dsimp only
  repeat' first
    | with_reducible assumption
    | with_reducible refine ite_sound ?_ ?_
    | (with_reducible refine State.Sound.mk_of ?_; with_reducible assumption)

theorem State.unmark_sound {s : State} {side i : Nat} (hs : s.Sound) : (State.unmark s side i).Sound := by
  unfold State.unmark
  dsimp only
  repeat (with_reducible refine State.Sound.mk_of ?_; with_reducible assumption)

theorem State.holdForRepair_sound {s : State} {b : Bool} (hs : s.Sound) : (State.holdForRepair s b).Sound := by
  unfold State.holdForRepair
  dsimp only
  repeat (with_reducible refine State.Sound.mk_of ?_; with_reducible assumption)

theorem execPieceRepair_sound {i side : Nat} {s s' : State} (hs : s.Sound)
    (he : execPieceRepair i side s = .next s') : s'.Sound := by
  refine next_sound ?_ he
  dsimp only
  repeat' first
    | with_reducible assumption
    | with_reducible refine State.expandMarks_sound ?_
    | with_reducible refine State.unmark_sound ?_
    | with_reducible refine State.holdForRepair_sound ?_
    | with_reducible refine State.event_sound ?_
    | with_reducible refine State.putPiece_sound ?_
    | with_reducible refine State.addReg_sound ?_
    | with_reducible refine State.askPiece_sound ?_
    | with_reducible refine ite_sound ?_ ?_
    | (with_reducible refine State.Sound.mk_of ?_; with_reducible refine State.holdForRepair_sound ?_)
    | split

/-! ### Steps -/

theorem State.replayRecord_sound {s : State} {v : HostView} {c : StepCfg} (hs : s.Sound) :
    (State.replayRecord s v c).2.Sound := by
  unfold State.replayRecord
  dsimp only
  repeat' first
    | with_reducible assumption
    | refine State.readStruct_eq ?_ (by assumption)
    | split

theorem State.replayRecord_eq {s : State} {v : HostView} {c : StepCfg} {s' : State} {r0} (hs : s.Sound)
    (he : State.replayRecord s v c = (r0, s')) : s'.Sound := by
  have k := State.replayRecord_sound (s := s) (v := v) (c := c) hs
  rw [he] at k
  exact k

theorem State.armStep_sound {s : State} {c : StepCfg} (hs : s.Sound) : (State.armStep s c).Sound := by
  unfold State.armStep
  dsimp only
  repeat' first
    | with_reducible assumption
    | with_reducible refine State.setReg_sound ?_
    | with_reducible refine ite_sound ?_ ?_
    | (with_reducible refine State.Sound.mk_of ?_; with_reducible refine State.take_sound ?_)

theorem execStepArm_sound {r j : Nat} {v : HostView} {s s' : State} (hs : s.Sound)
    (he : execStepArm r j v s = .next s') : s'.Sound := by
  refine next_sound ?_ he
  dsimp only
  repeat' first
    | with_reducible assumption
    | with_reducible refine State.finish_sound ?_
    | with_reducible refine State.armStep_sound ?_
    | refine State.replayRecord_eq ?_ (by assumption)
    | with_reducible refine State.complete_sound ?_
    | with_reducible refine ite_sound ?_ ?_
    | split

theorem execMbAdmit_sound {r j : Nat} {v : HostView} {s s' : State} (hs : s.Sound)
    (he : execMbAdmit r j v s = .next s') : s'.Sound := by
  refine next_sound ?_ he
  dsimp only
  repeat' first
    | with_reducible assumption
    | with_reducible refine State.onDesc_sound ?_ (fun _ _ _ => ?_)
    | with_reducible refine State.finish_sound ?_
    | refine State.tensor_eq ?_ (by assumption)
    | with_reducible refine State.complete_sound ?_
    | with_reducible refine State.get_sound ?_
    | with_reducible refine ite_sound ?_ ?_
    | (with_reducible refine State.Sound.mk_of ?_; with_reducible refine State.get_sound ?_)
    | split

theorem State.loadPairs_sound {s : State} (hs : s.Sound) : (State.loadPairs s).Sound := by
  unfold State.loadPairs
  repeat (with_reducible refine State.Sound.mk_of ?_; with_reducible assumption)

theorem State.applyEarly_sound {s : State} (hs : s.Sound) : (State.applyEarly s).Sound := by
  unfold State.applyEarly
  dsimp only
  repeat' first
    | with_reducible assumption
    | with_reducible refine State.applySignal_sound ?_
    | with_reducible refine each_sound (fun _ _ _ => ?_) ?_
    | (with_reducible refine State.Sound.mk_of ?_; with_reducible assumption)

theorem State.releaseDrops_sound {s : State} {c : StepCfg} {admitted : List Mb} {drops : List MbDrop} (hs : s.Sound) :
    (State.releaseDrops s c admitted drops).Sound := by
  unfold State.releaseDrops
  dsimp only
  repeat' first
    | with_reducible assumption
    | with_reducible refine State.dropBits_sound ?_
    | with_reducible refine each_sound (fun _ _ _ => ?_) ?_

theorem State.openStep_sound {s : State} {c : StepCfg} (h : s.Sound) : (State.openStep s c).Sound := by
  unfold State.openStep
  refine State.holdForRepair_sound (State.releaseDrops_sound ?_)
  refine each_sound (fun _ _ k => State.takeTile_sound k) ?_
  with_reducible refine State.applyEarly_sound ?_
  with_reducible refine State.loadPairs_sound ?_
  have k : (State.releaseAbsent (State.releaseLinks { s with step := { s.step with
      lastStep := c.step
      lastAttempt := c.attempt } } c.step) c.step).Sound :=
        State.releaseAbsent_sound (State.releaseLinks_sound (State.Sound.mk_of h))
  with_reducible exact State.Sound.mk_of (State.Sound.mk_of k)

theorem State.releaseStep_sound {s : State} {c : StepCfg} (hs : s.Sound) : (State.releaseStep s c).Sound := by
  unfold State.releaseStep
  dsimp only
  repeat' first
    | with_reducible assumption
    | with_reducible refine State.openStep_sound ?_
    | with_reducible refine State.cause_sound ?_
    | with_reducible refine ite_sound ?_ ?_

theorem execStepRelease_sound {_v : HostView} {s s' : State} (hs : s.Sound)
    (he : execStepRelease _v s = .next s') : s'.Sound := by
  refine next_sound ?_ he
  dsimp only
  repeat' first
    | with_reducible assumption
    | with_reducible refine State.releaseStep_sound ?_
    | with_reducible refine ite_sound ?_ ?_
    | (with_reducible refine State.Sound.mk_of ?_; with_reducible assumption)
    | split

theorem State.closeStep_sound {s : State} {r : RunSt} {flags status reason : Nat} {digest : List Byte} {result : Nat}
    (hs : s.Sound) : (State.closeStep s r flags status reason digest result).Sound := by
  unfold State.closeStep
  dsimp only
  repeat' first
    | with_reducible assumption
    | with_reducible refine State.put_sound ?_
    | with_reducible refine State.complete_sound ?_
    | with_reducible refine State.expandMarks_sound ?_
    | (with_reducible refine State.Sound.mk_of ?_; with_reducible refine State.clearUpdate_sound ?_)

theorem State.clearTable_sound {s : State} {t : Nat} (hs : s.Sound) : (State.clearTable s t).Sound := by
  unfold State.clearTable
  dsimp only
  repeat' first
    | with_reducible assumption
    | with_reducible refine State.poke_sound ?_

theorem State.commitTable_sound {s : State} {t : Nat} (hs : s.Sound) : (State.commitTable s t).Sound := by
  unfold State.commitTable
  dsimp only
  repeat' first
    | with_reducible refine State.clearTable_sound ?_
    | with_reducible refine State.poke_sound ?_
    | with_reducible refine State.touchStack_sound ?_
    | with_reducible refine ite_sound ?_ ?_
    | (with_reducible refine State.Sound.mk_of ?_
       first
         | with_reducible assumption
         | with_reducible refine State.addReg_sound ?_)

theorem execTableRebuildDone_sound {t : Nat} {s s' : State} (hs : s.Sound)
    (he : execTableRebuildDone t s = .next s') : s'.Sound := by
  refine next_sound ?_ he
  dsimp only
  repeat' first
    | with_reducible assumption
    | with_reducible refine ite_sound ?_ ?_
    | (with_reducible refine State.Sound.mk_of ?_; with_reducible assumption)

theorem commitRecord_wf {m : Mem} {a n margin fmt : Nat} (h : m.wf = true) : (commitRecord m a n margin fmt).wf = true := by
  unfold commitRecord
  dsimp only
  refine Mem.wf_writeRaw _ _ _ _ (Mem.wf_writeRaw _ _ _ _ (Mem.wf_writeRaw _ _ _ _ (Mem.wf_writeRaw _ _ _ _
    (Mem.wf_writeRaw _ _ _ _ ?_))))
  split
  · exact Mem.wf_writeRaw _ _ _ _ h
  · exact h

theorem abortRecord_wf {m : Mem} {a : Nat} (h : m.wf = true) : (abortRecord m a).wf = true := Mem.wf_writeRaw _ _ _ _ h

theorem State.records_sound {s : State} {f : Mem → Nat → Nat → Mem} (h : s.Sound)
    (k : ∀ m a b, Mem.wf m = true → (f m a b).wf = true) : (State.records s f).Sound :=
  State.Sound.mk_stack (State.touchStack_sound h)
    (foldl_keeps (P := fun m : Mem => m.wf = true) (fun m _ => k m _ _) _ (State.touchStack_sound h).wf)

theorem State.commitTiles_sound {s : State} {n : Nat} (hs : s.Sound) : (State.commitTiles s n).Sound := by
  unfold State.commitTiles
  repeat (with_reducible refine State.Sound.mk_of ?_; with_reducible assumption)

theorem State.writeTags_sound {s : State} {n : Nat} (hs : s.Sound) : (State.writeTags s n).Sound := by
  unfold State.writeTags
  repeat' first
    | with_reducible assumption
    | with_reducible refine State.stackWrite_sound ?_
    | with_reducible refine each_sound (fun _ _ _ => ?_) ?_

theorem State.startSnaps_sound {s : State} (hs : s.Sound) : (State.startSnaps s).Sound := by
  unfold State.startSnaps
  dsimp only
  repeat (with_reducible refine State.Sound.mk_of ?_; with_reducible assumption)

theorem State.dropRecords_sound {s : State} (hs : s.Sound) : (State.dropRecords s).Sound := by
  unfold State.dropRecords
  exact each_sound (fun _ _ k => State.clearTable_sound k) (State.records_sound hs fun _ _ _ h => abortRecord_wf h)

theorem State.endReplay_sound {s0 : State} {r : RunSt} (hs : s0.Sound) : (State.endReplay s0 r).Sound := by
  unfold State.endReplay
  dsimp only
  repeat' first
    | with_reducible assumption
    | with_reducible refine State.closeStep_sound ?_
    | with_reducible refine State.dropRecords_sound ?_
    | with_reducible refine State.event_sound ?_
    | with_reducible refine State.touchStack_sound ?_
    | with_reducible refine ite_sound ?_ ?_

theorem execStepCommitEnd_sound {s s' : State} (hs : s.Sound) (he : execStepCommitEnd s = .next s') : s'.Sound := by
  unfold execStepCommitEnd at he
  refine next_sound ?_ he
  split
  · exact hs
  · refine ite_sound hs (ite_sound (ite_sound (State.endReplay_sound hs) hs) (ite_sound hs (State.startSnaps_sound
    (State.closeStep_sound (State.setFlag_sound (State.setReg_sound
      (State.writeTags_sound (State.commitTiles_sound ?_))))))))
    exact each_sound (fun _ _ k => State.commitTable_sound k)
      (State.records_sound (State.touchStack_sound hs) fun _ _ _ h => commitRecord_wf h)

theorem State.abortRecords_sound {s : State} (hs : s.Sound) : (State.abortRecords s).Sound := by
  unfold State.abortRecords
  dsimp only
  repeat' first
    | with_reducible assumption
    | (with_reducible refine State.Sound.mk_of ?_; with_reducible refine State.dropRecords_sound ?_)

theorem State.endEval_sound {s0 : State} {r : RunSt} (hs : s0.Sound) : (State.endEval s0 r).Sound := by
  unfold State.endEval
  dsimp only
  repeat' first
    | with_reducible assumption
    | with_reducible refine State.closeStep_sound ?_
    | with_reducible refine State.dropRecords_sound ?_
    | with_reducible refine State.event_sound ?_
    | with_reducible refine State.touchStack_sound ?_
    | split

theorem execStepRunningEnd_sound {s s' : State} (hs : s.Sound) (he : execStepRunningEnd s = .next s') : s'.Sound := by
  refine next_sound ?_ he
  repeat' first
    | with_reducible assumption
    | with_reducible refine State.startUpdate_sound ?_
    | with_reducible refine State.drain_sound ?_
    | with_reducible refine State.endEval_sound ?_
    | with_reducible refine State.setReg_sound ?_
    | with_reducible refine State.touchStack_sound ?_
    | split

theorem execStepAbort_sound {r j : Nat} {s s' : State} (hs : s.Sound) (he : execStepAbort r j s = .next s') : s'.Sound := by
  refine next_sound ?_ he
  dsimp only
  repeat' first
    | with_reducible assumption
    | with_reducible refine State.onDesc_sound ?_ (fun _ _ _ => ?_)
    | with_reducible refine State.take_sound ?_
    | with_reducible refine State.abortStep_sound ?_
    | with_reducible refine State.finish_sound ?_
    | with_reducible refine ite_sound ?_ ?_
    | (with_reducible refine State.Sound.mk_of ?_; with_reducible assumption)
    | split

theorem State.disarm_sound {s : State} (hs : s.Sound) : (State.disarm s).Sound := by
  unfold State.disarm
  dsimp only
  repeat' first
    | with_reducible assumption
    | with_reducible refine State.finish_sound ?_
    | with_reducible refine ite_sound ?_ ?_
    | (with_reducible refine State.Sound.mk_of ?_; with_reducible assumption)
    | split

theorem execAbortEnd_sound {s s' : State} (hs : s.Sound) (he : execAbortEnd s = .next s') : s'.Sound := by
  refine next_sound ?_ he
  dsimp only
  repeat' first
    | with_reducible assumption
    | with_reducible refine State.abortRecords_sound ?_
    | with_reducible refine State.event_sound ?_
    | with_reducible refine State.closeStep_sound ?_
    | with_reducible refine State.finish_sound ?_
    | with_reducible refine State.disarm_sound ?_
    | with_reducible refine ite_sound ?_ ?_
    | with_reducible refine each_sound (fun _ _ _ => ?_) ?_
    | split

theorem execMbDrop_sound {r j : Nat} {s s' : State} (hs : s.Sound) (he : execMbDrop r j s = .next s') : s'.Sound := by
  refine next_sound ?_ he
  dsimp only
  repeat' first
    | with_reducible assumption
    | with_reducible refine State.onDesc_sound ?_ (fun _ _ _ => ?_)
    | with_reducible refine State.finish_sound ?_
    | with_reducible refine ite_sound ?_ ?_
    | (with_reducible refine State.Sound.mk_of ?_; with_reducible assumption)
    | split

end Sys2Proof.Machine
end

