-- ==== Sys2Proof/Laws/SoundBoot.lean ====
section
/-! SUPPORT. What keeps a state sound (`State.Sound`: R159, R253): resilience, boot, resets and power.
One lemma per operation and per command. -/

namespace Sys2Proof.Machine

/-! ### Resilience -/

theorem execSnapshot_sound {r j : Nat} {v : HostView} {s s' : State} (hs : s.Sound)
    (he : execSnapshot r j v s = .next s') : s'.Sound := by
  refine next_sound ?_ he
  dsimp only
  repeat' first
    | with_reducible assumption
    | with_reducible refine State.onDesc_sound ?_ (fun _ _ _ => ?_)
    | with_reducible refine State.finish_sound ?_
    | (with_reducible refine State.Sound.mk_of ?_; with_reducible refine State.take_sound ?_)
    | split

theorem State.snapEntry_sound {s : State} {h : Shard} {t : Tensor} (hs : s.Sound) : (State.snapEntry s h t).2.Sound := by
  unfold State.snapEntry
  dsimp only
  repeat' first
    | with_reducible assumption
    | with_reducible refine State.stackRead_sound ?_

theorem State.snapImage_sound {s0 : State} {parity : Bool} (hs : s0.Sound) : (State.snapImage s0 parity).2.Sound := by
  unfold State.snapImage
  dsimp only
  repeat' first
    | with_reducible assumption
    | with_reducible refine State.snapEntry_sound ?_
    | with_reducible refine State.stackRead_sound ?_
    | with_reducible refine State.touchStack_sound ?_
    | with_reducible refine fold_snd_sound (fun _ _ _ => ?_) ?_

theorem State.setSnap_sound {s : State} {x : Snap} (hs : s.Sound) : (State.setSnap s x).Sound := by
  unfold State.setSnap
  dsimp only
  repeat (with_reducible refine State.Sound.mk_of ?_; with_reducible assumption)

theorem State.dropSnap_sound {s : State} {r j : Nat} (hs : s.Sound) : (State.dropSnap s r j).Sound := by
  unfold State.dropSnap
  dsimp only
  repeat (with_reducible refine State.Sound.mk_of ?_; with_reducible assumption)

theorem State.sendSnap_sound {s : State} {x : Snap} (hs : s.Sound) : (State.sendSnap s x).Sound := by
  unfold State.sendSnap
  dsimp only
  repeat' first
    | with_reducible assumption
    | with_reducible refine State.snapImage_sound ?_
    | with_reducible refine State.setSnap_sound ?_
    | with_reducible refine State.useTids_sound ?_
    | with_reducible refine State.netWrite_sound ?_
    | with_reducible refine State.put_sound ?_
    | with_reducible refine ite_sound ?_ ?_

theorem State.endSnap_sound {s : State} {x : Snap} (hs : s.Sound) : (State.endSnap s x).Sound := by
  unfold State.endSnap
  dsimp only
  repeat' first
    | with_reducible assumption
    | with_reducible refine State.dropSnap_sound ?_
    | with_reducible refine State.finish_sound ?_
    | with_reducible refine State.complete_sound ?_
    | with_reducible refine ite_sound ?_ ?_

theorem execSnapshotDone_sound {r j : Nat} {s s' : State} (hs : s.Sound) (he : execSnapshotDone r j s = .next s') : s'.Sound := by
  refine next_sound ?_ he
  dsimp only
  repeat' first
    | with_reducible assumption
    | with_reducible refine State.sendSnap_sound ?_
    | with_reducible refine State.endSnap_sound ?_
    | with_reducible refine ite_sound ?_ ?_
    | split

theorem State.loadShards_sound {s : State} {b : List Byte} {a : Nat} {l : List (Shard × Nat)} (hs : s.Sound) :
    (State.loadShards s b a l).Sound := by
  unfold State.loadShards
  dsimp only
  repeat' first
    | with_reducible assumption
    | with_reducible refine State.stackWrite_sound ?_
    | with_reducible refine each_sound (fun _ _ _ => ?_) ?_

theorem State.loadParity_sound {s : State} {b : List Byte} (hs : s.Sound) : (State.loadParity s b).Sound := by
  unfold State.loadParity
  repeat' first
    | with_reducible assumption
    | with_reducible refine State.stackWrite_sound ?_
    | with_reducible refine fold_fst_sound (fun _ _ _ => ?_) ?_

theorem State.loadImage_sound {s : State} {v : HostView} {r j a : Nat} {head : List Byte} {places : List Nat}
    {parity : Bool} (hs : s.Sound) : (State.loadImage s v r j a head places parity).Sound := by
  unfold State.loadImage
  dsimp only
  repeat' first
    | with_reducible assumption
    | with_reducible refine State.finish_sound ?_
    | refine State.readStruct_eq ?_ (by assumption)
    | with_reducible refine State.complete_sound ?_
    | with_reducible refine State.loadShards_sound ?_
    | with_reducible refine State.loadParity_sound ?_
    | with_reducible refine State.setReg_sound ?_
    | with_reducible refine State.setFlag_sound ?_
    | with_reducible refine ite_sound ?_ ?_
    | (with_reducible refine State.Sound.mk_of ?_; with_reducible refine State.take_sound ?_)
    | split

theorem State.loadHeads_sound {v : HostView} : ∀ {l : List Shard} {s : State} {a : Nat}, s.Sound →
    (State.loadHeads s v l a).2.Sound := by
  intro l
  induction l with
  | nil => intro s a h; exact h
  | cons x l ih =>
    intro s a h
    unfold State.loadHeads
    split
    · exact h
    · split
      · exact State.readStruct_eq h (by assumption)
      · have k := State.readStruct_eq h (by assumption)
        dsimp only
        split
        · exact k
        · split
          · rename_i e
            exact congrArg Prod.snd e ▸ ih k
          · rename_i e
            exact congrArg Prod.snd e ▸ ih k

theorem State.loadHeads_eq {v : HostView} {l : List Shard} {s s' : State} {a : Nat} {r} (hs : s.Sound)
    (he : State.loadHeads s v l a = (r, s')) : s'.Sound := by
  have k := State.loadHeads_sound (v := v) (l := l) (a := a) hs
  rw [he] at k
  exact k

theorem execSnapshotLoad_sound {r j : Nat} {v : HostView} {s s' : State} (hs : s.Sound)
    (he : execSnapshotLoad r j v s = .next s') :
    s'.Sound := by
  unfold execSnapshotLoad at he
  refine next_sound (ite_sound hs (State.onDesc_sound hs fun s d k => ?_)) he
  refine ite_sound (State.finish_sound k) (ite_sound k ?_)
  split
  · exact State.finish_sound k
  · split
    · exact State.complete_sound (State.readStruct_eq k (by assumption))
    · have q := State.readStruct_eq k (by assumption)
      refine ite_sound (State.finish_sound q) ?_
      split
      · exact State.complete_sound (State.loadHeads_eq q (by assumption))
      · exact State.loadImage_sound (State.loadHeads_eq q (by assumption))

theorem execSnapshotLoadDone_sound {r j : Nat} {s s' : State} (hs : s.Sound)
    (he : execSnapshotLoadDone r j s = .next s') : s'.Sound := by
  refine next_sound ?_ he
  dsimp only
  repeat' first
    | with_reducible refine State.finish_sound ?_
    | with_reducible refine State.setReg_sound ?_
    | with_reducible refine State.setFlag_sound ?_
    | (with_reducible refine State.Sound.mk_of ?_
       first
         | with_reducible assumption
         | with_reducible refine State.touchStack_sound ?_)
    | split

theorem execHealthEvaluate_sound {s s' : State} (hs : s.Sound) (he : execHealthEvaluate s = .next s') : s'.Sound := by
  refine next_sound ?_ he
  dsimp only
  repeat' first
    | with_reducible refine State.event_sound ?_
    | with_reducible refine ite_sound ?_ ?_
    | (with_reducible refine State.Sound.mk_of ?_; with_reducible assumption)

/-! ### Boot -/

theorem State.writeHealth_sound {s : State} {ok : Bool} (hs : s.Sound) : (State.writeHealth s ok).Sound := by
  unfold State.writeHealth
  dsimp only
  repeat' first
    | with_reducible refine State.addReg_sound ?_
    | with_reducible refine State.event_sound ?_
    | with_reducible refine State.setReg_sound ?_
    | with_reducible refine ite_sound ?_ ?_
    | (with_reducible refine State.Sound.mk_of ?_; with_reducible assumption)

theorem execHealthRecordWrite_sound {ok : Bool} {s s' : State} (hs : s.Sound)
    (he : execHealthRecordWrite ok s = .next s') : s'.Sound := by
  refine next_sound ?_ he
  repeat' first
    | with_reducible assumption
    | with_reducible refine State.writeHealth_sound ?_
    | with_reducible refine ite_sound ?_ ?_

theorem State.loadHealth_sound {s : State} (hs : s.Sound) : (State.loadHealth s).Sound := by
  unfold State.loadHealth
  dsimp only
  repeat' first
    | with_reducible refine State.setMemCh_sound ?_
    | (with_reducible refine State.Sound.mk_of ?_
       first
         | with_reducible assumption
         | with_reducible refine each_sound (fun _ _ _ => ?_) ?_)
    | split

theorem State.eraseImage_sound {s : State} (hs : s.Sound) : (State.eraseImage s).Sound := by
  unfold State.eraseImage
  repeat (with_reducible refine State.Sound.mk_of ?_; with_reducible assumption)

theorem execFlashWrite_sound {r j : Nat} {v : HostView} {s s' : State} (hs : s.Sound)
    (he : execFlashWrite r j v s = .next s') : s'.Sound := by
  refine next_sound ?_ he
  dsimp only
  repeat' first
    | with_reducible assumption
    | with_reducible refine State.onDesc_sound ?_ (fun _ _ _ => ?_)
    | with_reducible refine State.finish_sound ?_
    | refine State.readStruct_eq ?_ (by assumption)
    | with_reducible refine State.complete_sound ?_
    | with_reducible refine State.eraseImage_sound ?_
    | with_reducible refine ite_sound ?_ ?_
    | (with_reducible refine State.Sound.mk_of ?_; with_reducible refine State.take_sound ?_)
    | split

theorem execFlashWriteDone_sound {ok : Bool} {s s' : State} (hs : s.Sound)
    (he : execFlashWriteDone ok s = .next s') : s'.Sound := by
  refine next_sound ?_ he
  dsimp only
  repeat' first
    | with_reducible assumption
    | with_reducible refine State.finish_sound ?_
    | with_reducible refine State.complete_sound ?_
    | with_reducible refine ite_sound ?_ ?_
    | (with_reducible refine State.Sound.mk_of ?_; with_reducible assumption)
    | split

/-! ### Resets -/

theorem State.clearObjects_sound {s : State} (hs : s.Sound) : (State.clearObjects s).Sound := by
  unfold State.clearObjects
  repeat' first
    | with_reducible assumption
    | with_reducible refine State.poke_sound ?_

theorem State.cutWrite_sound {s : State} (hs : s.Sound) : (State.cutWrite s).Sound := by
  unfold State.cutWrite
  dsimp only
  repeat' first
    | with_reducible assumption
    | (with_reducible refine State.Sound.mk_of ?_; with_reducible assumption)
    | split

theorem State.loseStack_sound {s : State} (hs : s.Sound) : (State.loseStack s).Sound := by
  unfold State.loseStack
  exact State.Sound.mk_stack hs Mem.wf_empty

theorem State.dropSources_sound {s : State} {k : Kind} (hs : s.Sound) : (State.dropSources s k).Sound := by
  unfold State.dropSources
  repeat' first
    | with_reducible assumption
    | with_reducible refine State.linkTimeDown_sound ?_
    | with_reducible refine ite_sound ?_ ?_
    | with_reducible refine each_sound (fun _ _ _ => ?_) ?_

theorem kvApart_nil : kvApart [] := by
  unfold kvApart
  simp

theorem State.Sound.mk_kvs {t : State} {k p r ti m ho ch tr n st g re tm b f d o} (h : t.Sound) (w : kvApart k) :
    State.Sound ⟨p, r, ti, t.stack, m, k, ho, ch, tr, n, st, g, re, tm, b, f, d, o⟩ := ⟨h.1, w⟩

theorem State.resetBy_sound {s0 : State} {k : Kind} {img : Field → Nat → Nat} (hs : s0.Sound) :
    (State.resetBy s0 k img).Sound := by
  unfold State.resetBy
  have q : ((if k.forgets then s0.cutWrite else s0).dropSources k).Sound :=
    State.dropSources_sound (ite_sound (State.cutWrite_sound hs) hs)
  have w := ite_sound (c := k.job = true ∨ k = .DP) (State.clearObjects_sound q) q
  refine State.Sound.mk_kv w ?_
  by_cases c : k.job = true ∨ k = .DP
  · simp only [if_pos c]
    exact kvApart_nil
  · simp only [if_neg c]
    exact q.apart

theorem State.noteKind_sound {s : State} {code : Nat} (hs : s.Sound) : (State.noteKind s code).Sound := by
  unfold State.noteKind
  repeat' first
    | with_reducible assumption
    | with_reducible refine State.setReg_sound ?_
    | with_reducible refine State.addReg_sound ?_

theorem State.bootLoad_sound {s : State} {k : Kind} {slot : Nat} {failA failB : Bool} (hs : s.Sound) :
    (State.bootLoad s k slot failA failB).Sound := by
  unfold State.bootLoad
  dsimp only
  repeat' first
    | with_reducible assumption
    | with_reducible refine State.loadHealth_sound ?_
    | (with_reducible refine State.Sound.mk_of ?_; with_reducible refine State.resetBy_sound ?_)

theorem State.trainLinks_sound {s : State} (hs : s.Sound) : (State.trainLinks s).Sound := by
  unfold State.trainLinks
  repeat' first
    | with_reducible assumption
    | with_reducible refine State.setRegAt_sound ?_
    | with_reducible refine each_sound (fun _ _ _ => ?_) ?_

theorem State.bootDies_sound {s : State} {lost : Bool} (hs : s.Sound) : (State.bootDies s lost).Sound := by
  unfold State.bootDies
  refine ite_sound hs ?_
  have k := State.trainLinks_sound hs
  dsimp only
  split
  · with_reducible refine State.poisonArea_sound ?_
    with_reducible exact State.Sound.mk_of k
  · with_reducible exact State.Sound.mk_of k

theorem State.deriveKey_sound {s : State} {puf : Nat} (hs : s.Sound) : (State.deriveKey s puf).Sound := by
  unfold State.deriveKey
  dsimp only
  repeat (with_reducible refine State.Sound.mk_of ?_; with_reducible assumption)

theorem State.startCheck_sound {s : State} (hs : s.Sound) : (State.startCheck s).Sound := by
  unfold State.startCheck
  repeat' first
    | with_reducible assumption
    | with_reducible refine State.setFlag_sound ?_
    | with_reducible refine State.setReg_sound ?_
    | with_reducible refine State.probe_sound ?_
    | with_reducible refine ite_sound ?_ ?_

theorem execEnable_sound {s s' : State} (hs : s.Sound) (he : execEnable s = .next s') : s'.Sound := by
  refine next_sound ?_ he
  repeat' first
    | with_reducible assumption
    | with_reducible refine State.startCheck_sound ?_

theorem State.atReady_sound {s : State} {early : Bool} (hs : s.Sound) : (State.atReady s early).Sound := by
  unfold State.atReady
  repeat' first
    | with_reducible assumption
    | with_reducible refine State.startCheck_sound ?_
    | with_reducible refine ite_sound ?_ ?_

theorem execPowerOn_sound {puf slot : Nat} {failA failB early : Bool} {s s' : State} (hs : s.Sound)
    (he : execPowerOn puf slot failA failB early s = .next s') : s'.Sound := by
  refine next_sound ?_ he
  dsimp only
  repeat' first
    | with_reducible refine State.loseStack_sound ?_
    | with_reducible refine State.bootLoad_sound ?_
    | with_reducible refine State.bootDies_sound ?_
    | with_reducible refine State.deriveKey_sound ?_
    | with_reducible refine State.atReady_sound ?_
    | with_reducible refine State.emit_sound ?_
    | (with_reducible refine State.Sound.mk_of ?_
       first
         | with_reducible assumption
         | with_reducible refine ite_sound ?_ ?_)

theorem execPerstAssert_sound {s s' : State} (hs : s.Sound) (he : execPerstAssert s = .next s') : s'.Sound := by
  refine next_sound ?_ he
  dsimp only
  repeat' first
    | with_reducible assumption
    | with_reducible refine ite_sound ?_ ?_
    | (with_reducible refine State.Sound.mk_of ?_; with_reducible assumption)

theorem execPerstDeassert_sound {slot : Nat} {failA failB early : Bool} {s s' : State} (hs : s.Sound)
    (he : execPerstDeassert slot failA failB early s = .next s') : s'.Sound := by
  refine next_sound ?_ he
  repeat' first
    | with_reducible assumption
    | with_reducible refine State.bootLoad_sound ?_
    | with_reducible refine State.bootDies_sound ?_
    | with_reducible refine State.noteKind_sound ?_
    | with_reducible refine State.atReady_sound ?_
    | with_reducible refine ite_sound ?_ ?_

theorem State.stacksOn_sound {s : State} (hs : s.Sound) : (State.stacksOn s).Sound := by
  unfold State.stacksOn
  dsimp only
  repeat' first
    | with_reducible assumption
    | with_reducible refine ite_sound ?_ ?_
    | (with_reducible refine State.Sound.mk_of ?_; with_reducible refine State.setFlag_sound ?_)

theorem State.unpark_sound {s : State} (hs : s.Sound) : (State.unpark s).Sound := by
  unfold State.unpark
  dsimp only
  repeat' first
    | with_reducible assumption
    | with_reducible refine State.stacksOn_sound ?_
    | with_reducible refine State.setFlag_sound ?_
    | with_reducible refine State.setRegAt_sound ?_
    | with_reducible refine ite_sound ?_ ?_
    | (with_reducible refine State.Sound.mk_of ?_; with_reducible refine each_sound (fun _ _ _ => ?_) ?_)

theorem State.resetKind_sound {s : State} {k : Kind} {code : Nat} (hs : s.Sound) : (State.resetKind s k code).Sound := by
  unfold State.resetKind
  repeat' first
    | with_reducible assumption
    | with_reducible refine State.unpark_sound ?_
    | with_reducible refine State.resetBy_sound ?_
    | with_reducible refine State.noteKind_sound ?_
    | with_reducible refine ite_sound ?_ ?_

theorem execHotReset_sound {s s' : State} (hs : s.Sound) (he : execHotReset s = .next s') : s'.Sound := by
  refine next_sound ?_ he
  repeat' first
    | with_reducible assumption
    | with_reducible refine State.resetKind_sound ?_

theorem execFunctionLevelReset_sound {s s' : State} (hs : s.Sound) (he : execFunctionLevelReset s = .next s') : s'.Sound := by
  refine next_sound ?_ he
  repeat' first
    | with_reducible assumption
    | with_reducible refine State.resetKind_sound ?_

theorem execWarmReset_sound {s s' : State} (hs : s.Sound) (he : execWarmReset s = .next s') : s'.Sound := by
  refine next_sound ?_ he
  repeat' first
    | with_reducible assumption
    | with_reducible refine State.resetKind_sound ?_

theorem State.staleObjects_sound {s : State} (hs : s.Sound) : (State.staleObjects s).Sound := by
  unfold State.staleObjects
  dsimp only
  repeat' first
    | with_reducible assumption
    | with_reducible refine State.setObj_sound ?_
    | with_reducible refine State.setMoves_sound ?_
    | with_reducible refine State.finish_sound ?_
    | with_reducible refine ite_sound ?_ ?_
    | with_reducible refine each_sound (fun _ _ _ => ?_) ?_

theorem State.fabricReset_sound {s : State} (hs : s.Sound) : (State.fabricReset s).Sound := by
  unfold State.fabricReset
  dsimp only
  repeat' first
    | with_reducible assumption
    | with_reducible refine State.abortRecords_sound ?_
    | with_reducible refine State.finish_sound ?_
    | with_reducible refine State.staleObjects_sound ?_
    | with_reducible refine State.resetBy_sound ?_
    | with_reducible refine State.noteKind_sound ?_
    | with_reducible refine ite_sound ?_ ?_
    | with_reducible refine each_sound (fun _ _ _ => ?_) ?_

theorem execFabricReset_sound {s s' : State} (hs : s.Sound) (he : execFabricReset s = .next s') : s'.Sound := by
  refine next_sound ?_ he
  repeat' first
    | with_reducible assumption
    | with_reducible refine State.fabricReset_sound ?_
    | with_reducible refine ite_sound ?_ ?_

theorem State.openBreaker_sound {s : State} (hs : s.Sound) : (State.openBreaker s).Sound := by
  unfold State.openBreaker
  dsimp only
  repeat' first
    | with_reducible assumption
    | with_reducible refine State.emit_sound ?_
    | with_reducible refine ite_sound ?_ ?_
    | (with_reducible refine State.Sound.mk_of ?_; with_reducible assumption)

theorem State.parkLinks_sound {s : State} (hs : s.Sound) : (State.parkLinks s).Sound := by
  unfold State.parkLinks
  repeat' first
    | with_reducible assumption
    | with_reducible refine State.putFlit_sound ?_
    | with_reducible refine each_sound (fun _ _ _ => ?_) ?_

theorem State.safeState_sound {s : State} {breaker railsHold pd0 : Bool} (hs : s.Sound) :
    (State.safeState s breaker railsHold pd0).Sound := by
  unfold State.safeState
  dsimp only
  repeat' first
    | with_reducible refine State.loseStack_sound ?_
    | with_reducible refine State.resetBy_sound ?_
    | with_reducible refine State.openBreaker_sound ?_
    | with_reducible refine State.draw_sound ?_
    | with_reducible refine State.writeHealth_sound ?_
    | (with_reducible refine State.Sound.mk_of ?_
       first
         | with_reducible assumption
         | with_reducible refine State.noteKind_sound ?_
         | with_reducible refine State.parkLinks_sound ?_
         | with_reducible refine ite_sound ?_ ?_)

theorem execSafeState_sound {railsHold pd0 : Bool} {s s' : State} (hs : s.Sound)
    (he : execSafeState railsHold pd0 s = .next s') : s'.Sound := by
  refine next_sound ?_ he
  repeat' first
    | with_reducible assumption
    | with_reducible refine State.safeState_sound ?_
    | split

/-! ### Power -/

theorem State.overcurrent_sound {s : State} {milliamps : Nat} (hs : s.Sound) : (State.overcurrent s milliamps).Sound := by
  unfold State.overcurrent
  repeat' first
    | with_reducible assumption
    | with_reducible refine State.openBreaker_sound ?_
    | with_reducible refine State.trip_sound ?_

theorem execInputOvercurrent_sound {milliamps ns : Nat} {s s' : State} (hs : s.Sound)
    (he : execInputOvercurrent milliamps ns s = .next s') : s'.Sound := by
  refine next_sound ?_ he
  repeat' first
    | with_reducible assumption
    | with_reducible refine State.overcurrent_sound ?_
    | with_reducible refine ite_sound ?_ ?_

theorem execRailWindow_sound {rail : RailKind} {millivolts setPoint ns : Nat} {s s' : State} (hs : s.Sound)
    (he : execRailWindow rail millivolts setPoint ns s = .next s') : s'.Sound := by
  refine next_sound ?_ he
  repeat' first
    | with_reducible assumption
    | with_reducible refine State.trip_sound ?_
    | with_reducible refine ite_sound ?_ ?_

theorem State.dieTemp_sound {s : State} {k reading : Nat} (hs : s.Sound) : (State.dieTemp s k reading).Sound := by
  unfold State.dieTemp
  dsimp only
  repeat' first
    | with_reducible refine State.setReg_sound ?_
    | with_reducible refine State.trip_sound ?_
    | with_reducible refine ite_sound ?_ ?_
    | (with_reducible refine State.Sound.mk_of ?_; with_reducible assumption)
    | split

theorem execDieTempSample_sound {temps : List Nat} {s s' : State} (hs : s.Sound)
    (he : execDieTempSample temps s = .next s') : s'.Sound := by
  refine next_sound ?_ he
  dsimp only
  repeat' first
    | with_reducible assumption
    | with_reducible refine State.dieTemp_sound ?_
    | with_reducible refine State.causeEnds_sound ?_
    | with_reducible refine ite_sound ?_ ?_
    | with_reducible refine fold_sound (fun _ _ _ => ?_) ?_

theorem execCoolantCheck_sound {before after : List Nat} {power lowest highest : Nat} {s s' : State} (hs : s.Sound)
    (he : execCoolantCheck before after power lowest highest s = .next s') : s'.Sound := by
  refine next_sound ?_ he
  repeat' first
    | with_reducible assumption
    | with_reducible refine State.trip_sound ?_
    | with_reducible refine State.causeEnds_sound ?_
    | with_reducible refine ite_sound ?_ ?_

theorem execLimiterAct_sound {milliamps : Nat} {s s' : State} (hs : s.Sound)
    (he : execLimiterAct milliamps s = .next s') : s'.Sound := by
  refine next_sound ?_ he
  dsimp only
  repeat' first
    | with_reducible assumption
    | with_reducible refine State.countLimit_sound ?_
    | with_reducible refine ite_sound ?_ ?_
    | (with_reducible refine State.Sound.mk_of ?_; with_reducible assumption)

theorem execLimiterSustained_sound {s s' : State} (hs : s.Sound) (he : execLimiterSustained s = .next s') : s'.Sound := by
  refine next_sound ?_ he
  dsimp only
  repeat' first
    | with_reducible assumption
    | with_reducible refine State.overcurrent_sound ?_
    | with_reducible refine ite_sound ?_ ?_
    | (with_reducible refine State.Sound.mk_of ?_; with_reducible refine State.countLimit_sound ?_)

theorem execLimiterRelease_sound {milliamps : Nat} {s s' : State} (hs : s.Sound)
    (he : execLimiterRelease milliamps s = .next s') : s'.Sound := by
  refine next_sound ?_ he
  dsimp only
  repeat' first
    | with_reducible assumption
    | with_reducible refine ite_sound ?_ ?_
    | (with_reducible refine State.Sound.mk_of ?_; with_reducible refine State.countLimit_sound ?_)

theorem execSafInputRefresh_sound {vin iin pin : Nat} {s s' : State} (hs : s.Sound)
    (he : execSafInputRefresh vin iin pin s = .next s') : s'.Sound := by
  refine next_sound ?_ he
  dsimp only
  repeat' first
    | with_reducible assumption
    | with_reducible refine State.causeEnds_sound ?_
    | with_reducible refine ite_sound ?_ ?_
    | (with_reducible refine State.Sound.mk_of ?_; with_reducible assumption)

theorem execRippleMeasure_sound {millivolts : Nat} {s s' : State} (hs : s.Sound)
    (he : execRippleMeasure millivolts s = .next s') : s'.Sound := by
  refine next_sound ?_ he
  dsimp only
  repeat' first
    | with_reducible assumption
    | with_reducible refine State.setReg_sound ?_
    | with_reducible refine State.event_sound ?_
    | with_reducible refine ite_sound ?_ ?_
    | (with_reducible refine State.Sound.mk_of ?_; with_reducible refine State.setReg_sound ?_)

theorem execMgmtAlertPulseEnd_sound {s s' : State} (hs : s.Sound) (he : execMgmtAlertPulseEnd s = .next s') : s'.Sound := by
  refine next_sound ?_ he
  dsimp only
  repeat' first
    | with_reducible assumption
    | with_reducible refine State.emit_sound ?_
    | with_reducible refine ite_sound ?_ ?_
    | (with_reducible refine State.Sound.mk_of ?_; with_reducible assumption)

theorem State.powerLost_sound {s : State} (hs : s.Sound) : (State.powerLost s).Sound := by
  unfold State.powerLost
  dsimp only
  repeat' first
    | with_reducible assumption
    | with_reducible refine State.cutWrite_sound ?_
    | (with_reducible refine State.Sound.mk_of ?_; with_reducible refine State.loseStack_sound ?_)

theorem execPresentMate_sound {s s' : State} (hs : s.Sound) (he : execPresentMate s = .next s') : s'.Sound := by
  refine next_sound ?_ he
  dsimp only
  repeat (with_reducible refine State.Sound.mk_of ?_; with_reducible assumption)

theorem execPresentPart_sound {s s' : State} (hs : s.Sound) (he : execPresentPart s = .next s') : s'.Sound := by
  refine next_sound ?_ he
  dsimp only
  repeat' first
    | with_reducible refine State.powerLost_sound ?_
    | (with_reducible refine State.Sound.mk_of ?_; with_reducible assumption)

theorem execBusBelow40v_sound {s s' : State} (hs : s.Sound) (he : execBusBelow40v s = .next s') : s'.Sound := by
  refine next_sound ?_ he
  dsimp only
  repeat' first
    | with_reducible assumption
    | with_reducible refine State.powerLost_sound ?_
    | with_reducible refine State.emit_sound ?_
    | with_reducible refine ite_sound ?_ ?_
    | (with_reducible refine State.Sound.mk_of ?_; with_reducible refine State.powerLost_sound ?_)

theorem State.setRail_sound {s : State} {k v : Nat} (hs : s.Sound) : (State.setRail s k v).Sound := by
  unfold State.setRail
  dsimp only
  repeat (with_reducible refine State.Sound.mk_of ?_; with_reducible assumption)

theorem State.noteShort_sound {s : State} {die region pace : Nat} (hs : s.Sound) : (State.noteShort s die region pace).Sound := by
  unfold State.noteShort
  dsimp only
  repeat' first
    | with_reducible assumption
    | with_reducible refine State.setRegAt_sound ?_
    | with_reducible refine State.addRegAt_sound ?_
    | with_reducible refine State.event_sound ?_
    | with_reducible refine ite_sound ?_ ?_

theorem State.notePace_sound {s : State} {k pace target : Nat} (hs : s.Sound) : (State.notePace s k pace target).Sound := by
  unfold State.notePace
  dsimp only
  repeat (with_reducible refine State.Sound.mk_of ?_; with_reducible assumption)

theorem State.regionPace_sound {s : State} {die region pace : Nat} (hs : s.Sound) :
    (State.regionPace s die region pace).Sound := by
  unfold State.regionPace
  dsimp only
  repeat' first
    | with_reducible assumption
    | with_reducible refine State.notePace_sound ?_
    | with_reducible refine State.setRail_sound ?_
    | with_reducible refine State.noteShort_sound ?_
    | with_reducible refine ite_sound ?_ ?_

theorem execPaceWindow_sound {die : Nat} {paces : List Nat} {s s' : State} (hs : s.Sound)
    (he : execPaceWindow die paces s = .next s') : s'.Sound := by
  refine next_sound ?_ he
  dsimp only
  repeat' first
    | with_reducible assumption
    | with_reducible refine State.regionPace_sound ?_
    | with_reducible refine State.setRegAt_sound ?_
    | with_reducible refine ite_sound ?_ ?_
    | with_reducible refine fold_sound (fun _ _ _ => ?_) ?_

theorem execPaceShortClear_sound {die region : Nat} {s s' : State} (hs : s.Sound)
    (he : execPaceShortClear die region s = .next s') : s'.Sound := by
  refine next_sound ?_ he
  dsimp only
  repeat' first
    | with_reducible assumption
    | with_reducible refine State.setRegAt_sound ?_
    | with_reducible refine ite_sound ?_ ?_
    | (with_reducible refine State.Sound.mk_of ?_; with_reducible assumption)

theorem execMarginReport_sound {margins : List Nat} {s s' : State} (hs : s.Sound)
    (he : execMarginReport margins s = .next s') : s'.Sound := by
  refine next_sound ?_ he
  dsimp only
  repeat (with_reducible refine State.Sound.mk_of ?_; with_reducible assumption)

theorem execPowerLimitWindow_sound {watts : Nat} {s s' : State} (hs : s.Sound)
    (he : execPowerLimitWindow watts s = .next s') : s'.Sound := by
  refine next_sound ?_ he
  dsimp only
  repeat' first
    | (with_reducible refine State.Sound.mk_of ?_
       first
         | with_reducible assumption
         | with_reducible refine State.setFlag_sound ?_)

theorem execTileRepair_sound {t : Nat} {s s' : State} (hs : s.Sound) (he : execTileRepair t s = .next s') : s'.Sound := by
  refine next_sound ?_ he
  dsimp only
  repeat' first
    | with_reducible assumption
    | with_reducible refine State.markColumn_sound ?_
    | with_reducible refine ite_sound ?_ ?_
    | (with_reducible refine State.Sound.mk_of ?_; with_reducible assumption)
    | split

theorem execTileRepairDone_sound {t : Nat} {s s' : State} (hs : s.Sound) (he : execTileRepairDone t s = .next s') : s'.Sound := by
  refine next_sound ?_ he
  dsimp only
  repeat' first
    | with_reducible assumption
    | with_reducible refine State.setTile_sound ?_
    | (with_reducible refine State.Sound.mk_of ?_; with_reducible assumption)
    | split

theorem State.stacksOff_sound {s : State} (hs : s.Sound) : (State.stacksOff s).Sound := by
  unfold State.stacksOff
  dsimp only
  repeat' first
    | with_reducible assumption
    | with_reducible refine State.resetBy_sound ?_
    | with_reducible refine State.loseStack_sound ?_
    | with_reducible refine ite_sound ?_ ?_
    | (with_reducible refine State.Sound.mk_of ?_; with_reducible refine State.setFlag_sound ?_)

theorem State.writePark_sound {s : State} {p : Nat} (hs : s.Sound) : (State.writePark s p).Sound := by
  unfold State.writePark
  dsimp only
  repeat' first
    | with_reducible assumption
    | with_reducible refine State.setReg_sound ?_
    | with_reducible refine State.stacksOff_sound ?_
    | with_reducible refine State.stacksOn_sound ?_
    | with_reducible refine ite_sound ?_ ?_

theorem execPark_sound {s s' : State} (hs : s.Sound) (he : execPark s = .next s') : s'.Sound := by
  refine next_sound ?_ he
  repeat' first
    | with_reducible assumption
    | with_reducible refine State.writePark_sound ?_

theorem execDeepPark_sound {s s' : State} (hs : s.Sound) (he : execDeepPark s = .next s') : s'.Sound := by
  refine next_sound ?_ he
  repeat' first
    | with_reducible assumption
    | with_reducible refine State.writePark_sound ?_

theorem State.linksParked_sound {s : State} (hs : s.Sound) : (State.linksParked s).Sound := by
  unfold State.linksParked
  dsimp only
  repeat' first
    | with_reducible assumption
    | with_reducible refine State.parkLinks_sound ?_
    | with_reducible refine State.setRegAt_sound ?_
    | with_reducible refine State.setLink_sound ?_
    | with_reducible refine State.linkTimeDown_sound ?_
    | with_reducible refine each_sound (fun _ _ _ => ?_) ?_

theorem execParkEntry_sound {s s' : State} (hs : s.Sound) (he : execParkEntry s = .next s') : s'.Sound := by
  refine next_sound ?_ he
  dsimp only
  repeat' first
    | with_reducible assumption
    | with_reducible refine State.linksParked_sound ?_
    | with_reducible refine State.resetBy_sound ?_
    | with_reducible refine State.stacksOff_sound ?_
    | with_reducible refine ite_sound ?_ ?_
    | (with_reducible refine State.Sound.mk_of ?_; with_reducible refine State.setFlag_sound ?_)

theorem State.parkExit_sound {s : State} (hs : s.Sound) : (State.parkExit s).Sound := by
  unfold State.parkExit
  dsimp only
  repeat' first
    | with_reducible assumption
    | with_reducible refine State.setReg_sound ?_
    | with_reducible refine State.stacksOn_sound ?_
    | with_reducible refine State.unpark_sound ?_
    | with_reducible refine ite_sound ?_ ?_

theorem execParkExit_sound {s s' : State} (hs : s.Sound) (he : execParkExit s = .next s') : s'.Sound := by
  refine next_sound ?_ he
  repeat' first
    | with_reducible assumption
    | with_reducible refine State.parkExit_sound ?_

theorem execD3hotEntry_sound {s s' : State} (hs : s.Sound) (he : execD3hotEntry s = .next s') : s'.Sound := by
  refine next_sound ?_ he
  dsimp only
  repeat' first
    | with_reducible refine State.resetBy_sound ?_
    | (with_reducible refine State.Sound.mk_of ?_; with_reducible assumption)

theorem execD0Return_sound {s s' : State} (hs : s.Sound) (he : execD0Return s = .next s') : s'.Sound := by
  refine next_sound ?_ he
  dsimp only
  repeat' first
    | with_reducible refine State.unpark_sound ?_
    | with_reducible refine ite_sound ?_ ?_
    | (with_reducible refine State.Sound.mk_of ?_; with_reducible assumption)

end Sys2Proof.Machine
end

