-- ==== Sys2Proof/Laws/SoundMgmt.lean ====
section
/-! SUPPORT. What keeps a state sound (`State.Sound`: R159, R253): enables, BAR0, management and the result tree.
One lemma per operation and per command. -/

namespace Sys2Proof.Machine

/-! ### Enable -/

theorem State.noteCheck_sound {s : State} {reason offset index : Nat} (hs : s.Sound) :
    (State.noteCheck s reason offset index).Sound := by
  unfold State.noteCheck
  repeat' first
    | with_reducible assumption
    | with_reducible refine State.setReg_sound ?_

theorem State.checkRefused_sound {s : State} {reason offset index : Nat} (hs : s.Sound) :
    (State.checkRefused s reason offset index).Sound := by
  unfold State.checkRefused
  repeat' first
    | with_reducible assumption
    | with_reducible refine State.noteCheck_sound ?_
    | with_reducible refine State.setFlag_sound ?_
    | with_reducible refine State.setReg_sound ?_

theorem State.raiseCounter_sound {s : State} {ok : Bool} (hs : s.Sound) : (State.raiseCounter s ok).Sound := by
  unfold State.raiseCounter
  dsimp only
  repeat' first
    | with_reducible assumption
    | with_reducible refine State.addReg_sound ?_
    | with_reducible refine State.event_sound ?_
    | with_reducible refine ite_sound ?_ ?_
    | (with_reducible refine State.Sound.mk_of ?_; with_reducible refine State.setFlag_sound ?_)

theorem State.postFallback_sound {s : State} (hs : s.Sound) : (State.postFallback s).Sound := by
  unfold State.postFallback
  dsimp only
  repeat' first
    | with_reducible assumption
    | with_reducible refine State.event_sound ?_
    | with_reducible refine ite_sound ?_ ?_
    | (with_reducible refine State.Sound.mk_of ?_; with_reducible assumption)

theorem State.checkPassed_sound {s : State} {counterOk : Bool} (hs : s.Sound) : (State.checkPassed s counterOk).Sound := by
  unfold State.checkPassed
  dsimp only
  repeat' first
    | with_reducible assumption
    | with_reducible refine State.noteCheck_sound ?_
    | with_reducible refine State.setReg_sound ?_
    | with_reducible refine State.postFallback_sound ?_
    | with_reducible refine State.raiseCounter_sound ?_
    | with_reducible refine ite_sound ?_ ?_
    | (with_reducible refine State.Sound.mk_of ?_
       first
         | with_reducible refine State.clearObjects_sound ?_
         | with_reducible refine State.setReg_sound ?_)

theorem execConsistencyCheckDone_sound {counterOk : Bool} {s s' : State} (hs : s.Sound)
    (he : execConsistencyCheckDone counterOk s = .next s') : s'.Sound := by
  refine next_sound ?_ he
  repeat' first
    | with_reducible assumption
    | with_reducible refine State.checkRefused_sound ?_
    | with_reducible refine State.checkPassed_sound ?_
    | with_reducible refine ite_sound ?_ ?_
    | split

/-! ### Bar0 -/

theorem State.writeDevCtl_sound {s : State} {mask v : Nat} (hs : s.Sound) : (State.writeDevCtl s mask v).Sound := by
  unfold State.writeDevCtl
  dsimp only
  repeat' first
    | with_reducible assumption
    | with_reducible refine State.parkExit_sound ?_
    | with_reducible refine State.writePark_sound ?_
    | with_reducible refine State.startCheck_sound ?_
    | with_reducible refine State.resetKind_sound ?_
    | with_reducible refine ite_sound ?_ ?_

theorem State.writeResetCtl_sound {s : State} {mask v : Nat} (hs : s.Sound) : (State.writeResetCtl s mask v).Sound := by
  unfold State.writeResetCtl
  dsimp only
  repeat' first
    | with_reducible assumption
    | with_reducible refine State.setReg_sound ?_
    | with_reducible refine State.fabricReset_sound ?_
    | with_reducible refine ite_sound ?_ ?_

theorem State.writeSpare_sound {s : State} {k mask v : Nat} (hs : s.Sound) : (State.writeSpare s k mask v).Sound := by
  unfold State.writeSpare
  dsimp only
  repeat' first
    | with_reducible assumption
    | with_reducible refine ite_sound ?_ ?_
    | with_reducible refine each_sound (fun _ _ _ => ?_) ?_
    | (with_reducible refine State.Sound.mk_of ?_; with_reducible refine State.mapColumn_sound ?_)

theorem State.writeRoute_sound {s : State} {mask v : Nat} (hs : s.Sound) : (State.writeRoute s mask v).Sound := by
  unfold State.writeRoute
  dsimp only
  repeat' first
    | with_reducible assumption
    | with_reducible refine ite_sound ?_ ?_
    | (with_reducible refine State.Sound.mk_of ?_; with_reducible assumption)

theorem State.writeChSem_sound {s : State} {mask v : Nat} (hs : s.Sound) : (State.writeChSem s mask v).Sound := by
  unfold State.writeChSem
  dsimp only
  repeat' first
    | with_reducible assumption
    | with_reducible refine State.setChan_sound ?_
    | with_reducible refine ite_sound ?_ ?_
    | split

theorem State.writeTgCtl_sound {s : State} {mask v : Nat} (hs : s.Sound) : (State.writeTgCtl s mask v).Sound := by
  unfold State.writeTgCtl
  dsimp only
  repeat' first
    | with_reducible assumption
    | with_reducible refine State.tgStart_sound ?_
    | with_reducible refine State.setMemCh_sound ?_
    | with_reducible refine ite_sound ?_ ?_
    | with_reducible refine each_sound (fun _ _ _ => ?_) ?_

theorem State.writeTgRange_sound {s : State} {mask v : Nat} (hs : s.Sound) : (State.writeTgRange s mask v).Sound := by
  unfold State.writeTgRange
  dsimp only
  repeat' first
    | with_reducible assumption
    | with_reducible refine State.setMemCh_sound ?_
    | with_reducible refine each_sound (fun _ _ _ => ?_) ?_

theorem State.writeTileData_sound {s : State} {mask v : Nat} (hs : s.Sound) : (State.writeTileData s mask v).Sound := by
  unfold State.writeTileData
  dsimp only
  repeat' first
    | with_reducible assumption
    | with_reducible refine State.setTile_sound ?_
    | with_reducible refine ite_sound ?_ ?_

theorem State.writeTimSet_sound {s : State} {mask v : Nat} (hs : s.Sound) : (State.writeTimSet s mask v).Sound := by
  unfold State.writeTimSet
  repeat' first
    | with_reducible assumption
    | with_reducible refine State.setTime_sound ?_

theorem State.writeMsix_sound {s : State} {i v : Nat} (hs : s.Sound) : (State.writeMsix s i v).Sound := by
  unfold State.writeMsix
  dsimp only
  repeat' first
    | with_reducible refine State.emit_sound ?_
    | with_reducible refine ite_sound ?_ ?_
    | (with_reducible refine State.Sound.mk_of ?_; with_reducible assumption)

theorem State.writeMsixWord_sound {s : State} {i mask v : Nat} (hs : s.Sound) : (State.writeMsixWord s i mask v).Sound := by
  unfold State.writeMsixWord
  dsimp only
  repeat' first
    | with_reducible assumption
    | with_reducible refine State.writeMsix_sound ?_
    | with_reducible refine ite_sound ?_ ?_

theorem State.writeInj_sound {s : State} {l mask v : Nat} (hs : s.Sound) : (State.writeInj s l mask v).Sound := by
  unfold State.writeInj
  repeat' first
    | with_reducible assumption
    | with_reducible refine State.injWrite_sound ?_

theorem State.noteQueued_sound {s : State} (hs : s.Sound) : (State.noteQueued s).Sound := by
  unfold State.noteQueued
  repeat' first
    | with_reducible assumption
    | with_reducible refine State.setReg_sound ?_

theorem State.writeWord_sound {s : State} {off mask v : Nat} (hs : s.Sound) : (State.writeWord s off mask v).Sound := by
  unfold State.writeWord
  repeat' first
    | with_reducible assumption
    | with_reducible refine State.writeDevCtl_sound ?_
    | with_reducible refine State.writeResetCtl_sound ?_
    | with_reducible refine State.writeSpare_sound ?_
    | with_reducible refine State.writeTgCtl_sound ?_
    | with_reducible refine State.writeTgRange_sound ?_
    | with_reducible refine State.writeChSem_sound ?_
    | with_reducible refine State.noteQueued_sound ?_
    | with_reducible refine State.writeTileData_sound ?_
    | with_reducible refine State.writeRoute_sound ?_
    | with_reducible refine State.writeTimSet_sound ?_
    | with_reducible refine State.writeInj_sound ?_
    | with_reducible refine State.writeMsixWord_sound ?_
    | with_reducible refine ite_sound ?_ ?_
    | (with_reducible refine State.Sound.mk_of ?_; with_reducible assumption)

theorem State.writeBar0_sound {s : State} {w : RegWrite} (hs : s.Sound) : (State.writeBar0 s w).Sound := by
  unfold State.writeBar0
  repeat' first
    | with_reducible assumption
    | with_reducible refine State.writeWord_sound ?_
    | with_reducible refine State.emit_sound ?_
    | with_reducible refine ite_sound ?_ ?_

theorem State.readBar0_sound {s : State} {off len : Nat} (hs : s.Sound) : (State.readBar0 s off len).Sound := by
  unfold State.readBar0
  repeat' first
    | with_reducible assumption
    | with_reducible refine State.emit_sound ?_
    | with_reducible refine ite_sound ?_ ?_

theorem execRegisterWrite_sound {w : RegWrite} {s s' : State} (hs : s.Sound)
    (he : execRegisterWrite w s = .next s') : s'.Sound := by
  refine next_sound ?_ he
  repeat' first
    | with_reducible assumption
    | with_reducible refine State.writeBar0_sound ?_
    | with_reducible refine ite_sound ?_ ?_

theorem execCmpTileDataRead_sound {off len : Nat} {s s' : State} (hs : s.Sound)
    (he : execCmpTileDataRead s off len = .next s') : s'.Sound := by
  refine next_sound ?_ he
  repeat' first
    | with_reducible assumption
    | with_reducible refine State.readBar0_sound ?_
    | with_reducible refine ite_sound ?_ ?_

theorem execCmpTileDataWrite_sound {w : RegWrite} {s s' : State} (hs : s.Sound)
    (he : execCmpTileDataWrite w s = .next s') : s'.Sound := by
  refine next_sound ?_ he
  repeat' first
    | with_reducible assumption
    | with_reducible refine State.writeBar0_sound ?_
    | with_reducible refine ite_sound ?_ ?_

theorem execTimNowRead_sound {off len : Nat} {s s' : State} (hs : s.Sound)
    (he : execTimNowRead s off len = .next s') : s'.Sound := by
  refine next_sound ?_ he
  dsimp only
  repeat' first
    | with_reducible assumption
    | with_reducible refine State.readBar0_sound ?_
    | with_reducible refine State.setReg_sound ?_
    | with_reducible refine ite_sound ?_ ?_

theorem execPcieLinkUp_sound {rate width : Nat} {flit msix ptm : Bool} {s s' : State} (hs : s.Sound)
    (he : execPcieLinkUp rate width flit msix ptm s = .next s') : s'.Sound := by
  refine next_sound ?_ he
  dsimp only
  repeat' first
    | with_reducible assumption
    | with_reducible refine State.setReg_sound ?_
    | with_reducible refine ite_sound ?_ ?_
    | (with_reducible refine State.Sound.mk_of ?_; with_reducible refine State.setFlag_sound ?_)

/-! ### Mgmt -/

theorem State.onSpdm_sound {s : State} {request : List Byte} {code len stage : Nat} {f : State → State} (hs : s.Sound)
    (kf : ∀ y0, State.Sound y0 → (f y0).Sound) : (State.onSpdm s request code len stage f).Sound := by
  unfold State.onSpdm
  repeat' first
    | with_reducible assumption
    | with_reducible refine kf _ ?_
    | with_reducible refine State.emit_sound ?_
    | with_reducible refine ite_sound ?_ ?_

theorem execGetVersion_sound {request : List Byte} {s s' : State} (hs : s.Sound)
    (he : execGetVersion request s = .next s') : s'.Sound := by
  refine next_sound ?_ he
  dsimp only
  repeat' first
    | with_reducible assumption
    | with_reducible refine State.emit_sound ?_
    | with_reducible refine ite_sound ?_ ?_
    | (with_reducible refine State.Sound.mk_of ?_; with_reducible assumption)

theorem State.connect_sound {s : State} {stage : Nat} {request response : List Byte} (hs : s.Sound) :
    (State.connect s stage request response).Sound := by
  unfold State.connect
  dsimp only
  repeat' first
    | with_reducible refine State.emit_sound ?_
    | (with_reducible refine State.Sound.mk_of ?_; with_reducible assumption)

theorem execGetCapabilities_sound {request : List Byte} {s s' : State} (hs : s.Sound)
    (he : execGetCapabilities request s = .next s') : s'.Sound := by
  refine next_sound ?_ he
  repeat' first
    | with_reducible assumption
    | with_reducible refine State.onSpdm_sound ?_ (fun _ _ => ?_)
    | with_reducible refine State.connect_sound ?_

theorem execNegotiateAlgorithms_sound {request : List Byte} {s s' : State} (hs : s.Sound)
    (he : execNegotiateAlgorithms request s = .next s') : s'.Sound := by
  refine next_sound ?_ he
  repeat' first
    | with_reducible assumption
    | with_reducible refine State.onSpdm_sound ?_ (fun _ _ => ?_)
    | with_reducible refine State.connect_sound ?_

theorem State.certExchange_sound {s : State} {request response : List Byte} (hs : s.Sound) :
    (State.certExchange s request response).Sound := by
  unfold State.certExchange
  dsimp only
  repeat' first
    | with_reducible refine State.emit_sound ?_
    | (with_reducible refine State.Sound.mk_of ?_; with_reducible assumption)

theorem execGetDigests_sound {request : List Byte} {s s' : State} (hs : s.Sound)
    (he : execGetDigests request s = .next s') : s'.Sound := by
  refine next_sound ?_ he
  repeat' first
    | with_reducible assumption
    | with_reducible refine State.onSpdm_sound ?_ (fun _ _ => ?_)
    | with_reducible refine State.certExchange_sound ?_

theorem execGetCertificate_sound {request : List Byte} {s s' : State} (hs : s.Sound)
    (he : execGetCertificate request s = .next s') : s'.Sound := by
  refine next_sound ?_ he
  repeat' first
    | with_reducible assumption
    | with_reducible refine State.onSpdm_sound ?_ (fun _ _ => ?_)
    | with_reducible refine State.emit_sound ?_
    | with_reducible refine State.certExchange_sound ?_
    | with_reducible refine ite_sound ?_ ?_

theorem State.nonce_sound {s : State} (hs : s.Sound) : (State.nonce s).2.Sound := by
  unfold State.nonce
  dsimp only
  repeat' first
    | with_reducible assumption
    | with_reducible refine State.draw_sound ?_

theorem State.challengeAuth_sound {s : State} {request : List Byte} (hs : s.Sound) : (State.challengeAuth s request).Sound := by
  unfold State.challengeAuth
  dsimp only
  repeat' first
    | with_reducible assumption
    | with_reducible refine State.nonce_sound ?_
    | with_reducible refine State.emit_sound ?_

theorem execChallenge_sound {request : List Byte} {s s' : State} (hs : s.Sound)
    (he : execChallenge request s = .next s') : s'.Sound := by
  refine next_sound ?_ he
  repeat' first
    | with_reducible assumption
    | with_reducible refine State.onSpdm_sound ?_ (fun _ _ => ?_)
    | with_reducible refine State.emit_sound ?_
    | with_reducible refine State.challengeAuth_sound ?_
    | with_reducible refine ite_sound ?_ ?_

theorem State.measResponse_sound {s : State} {request : List Byte} (hs : s.Sound) : (State.measResponse s request).Sound := by
  unfold State.measResponse
  dsimp only
  repeat' first
    | with_reducible assumption
    | with_reducible refine State.emit_sound ?_
    | with_reducible refine ite_sound ?_ ?_
    | (with_reducible refine State.Sound.mk_of ?_; with_reducible refine State.nonce_sound ?_)

theorem execGetMeasurements_sound {request : List Byte} {s s' : State} (hs : s.Sound)
    (he : execGetMeasurements request s = .next s') : s'.Sound := by
  refine next_sound ?_ he
  dsimp only
  repeat' first
    | with_reducible assumption
    | with_reducible refine State.onSpdm_sound ?_ (fun _ _ => ?_)
    | with_reducible refine State.emit_sound ?_
    | with_reducible refine State.measResponse_sound ?_
    | with_reducible refine ite_sound ?_ ?_

theorem State.mctpSend_sound {s : State} {data : List Byte} (hs : s.Sound) : (State.mctpSend s data).Sound := by
  unfold State.mctpSend
  repeat' first
    | with_reducible assumption
    | with_reducible refine State.emit_sound ?_

theorem execPldmFirmwareUpdate_sound {toB : Bool} {image : List Byte} {s s' : State} (hs : s.Sound)
    (he : execPldmFirmwareUpdate toB image s = .next s') : s'.Sound := by
  refine next_sound ?_ he
  dsimp only
  repeat' first
    | with_reducible assumption
    | with_reducible refine State.mctpSend_sound ?_
    | with_reducible refine ite_sound ?_ ?_
    | (with_reducible refine State.Sound.mk_of ?_; with_reducible assumption)

theorem execPldmPlatformMonitoring_sound {request : List Byte} {s s' : State} (hs : s.Sound)
    (he : execPldmPlatformMonitoring request s = .next s') : s'.Sound := by
  refine next_sound ?_ he
  repeat' first
    | with_reducible assumption
    | with_reducible refine State.mctpSend_sound ?_
    | with_reducible refine ite_sound ?_ ?_

/-! ### Tree -/

theorem State.toNode_sound {s : State} {channel level : Nat} {i : TreeIn} (hs : s.Sound) :
    (State.toNode s channel level i).Sound := by
  unfold State.toNode
  dsimp only
  repeat (with_reducible refine State.Sound.mk_of ?_; with_reducible assumption)

theorem execTree_sound {t : Nat} {f : TreeF} {s s' : State} (hs : s.Sound) (he : execTree t f s = .next s') : s'.Sound := by
  refine next_sound ?_ he
  dsimp only
  repeat' first
    | with_reducible assumption
    | with_reducible refine State.fetched_sound ?_
    | with_reducible refine State.takeTile_sound ?_
    | with_reducible refine State.setTile_sound ?_
    | with_reducible refine State.onTile_sound ?_
    | with_reducible refine State.toNode_sound ?_
    | with_reducible refine State.trace_sound ?_
    | with_reducible refine ite_sound ?_ ?_
    | split

theorem State.treeWrite_sound {s : State} {channel : Nat} {i : TreeIn} (hs : s.Sound) : (State.treeWrite s channel i).Sound := by
  unfold State.treeWrite
  dsimp only
  repeat' first
    | with_reducible assumption
    | with_reducible refine State.put_sound ?_
    | with_reducible refine State.onTile_sound ?_
    | with_reducible refine each_sound (fun _ _ _ => ?_) ?_

theorem State.treeMismatch_sound {s : State} {ins : List TreeIn} {low : TreeIn} (hs : s.Sound) :
    (State.treeMismatch s ins low).2.Sound := by
  unfold State.treeMismatch
  dsimp only
  repeat' first
    | with_reducible assumption
    | with_reducible refine State.onTile_sound ?_
    | with_reducible refine each_sound (fun _ _ _ => ?_) ?_
    | (with_reducible refine State.Sound.mk_of ?_; with_reducible assumption)

theorem execTreeNodeCombine_sound {channel level node : Nat} {s s' : State} (hs : s.Sound)
    (he : execTreeNodeCombine channel level node s = .next s') : s'.Sound := by
  refine next_sound ?_ he
  dsimp only
  repeat' first
    | with_reducible assumption
    | with_reducible refine State.treeMismatch_sound ?_
    | with_reducible refine State.treeWrite_sound ?_
    | with_reducible refine State.toNode_sound ?_
    | with_reducible refine ite_sound ?_ ?_
    | (with_reducible refine State.Sound.mk_of ?_; with_reducible assumption)
    | split

theorem State.reissue_sound {s : State} {t : Nat} {s' : State} (hs : s.Sound) (he : State.reissue s t = .next s') : s'.Sound := by
  unfold State.reissue at he
  split at he
  · exact execVop_sound hs he
  · exact execVred_sound hs he
  · exact execCvt_sound hs he
  · exact execMerge_sound hs he
  · exact execMma_sound hs he
  · split at he
    · exact execAttBackward_sound hs he
    · exact execAttForward_sound hs he
  · exact execHcsend_sound hs he
  · exact execTree_sound hs he
  · exact next_sound hs he

theorem execHazardClear_sound {t : Nat} {s s' : State} (hs : s.Sound) (he : execHazardClear t s = .next s') : s'.Sound := by
  unfold execHazardClear at he
  split at he
  · exact next_sound hs he
  · exact State.reissue_sound (State.setTile_sound hs) he

end Sys2Proof.Machine
end

