-- ==== Sys2Proof/Laws/Tile.lean ====
section
/-! SUPPORT. What the shared steps of a tile's sequencer do: counting loops down, moving past an instruction, issuing. -/

namespace Sys2Proof.Machine

/-! ### Registers -/

@[simp] theorem Tile.reg_zero (t : Tile) : t.reg 0 = 0 := rfl

@[simp] theorem Tile.setReg_zero (t : Tile) (v : Word) : t.setReg 0 v = t := rfl

theorem Tile.reg_setReg_self (t : Tile) (n : Nat) (v : Word) (h : n ≠ 0) : (t.setReg n v).reg n = v := by
  simp [Tile.setReg, Tile.reg, h]

theorem Tile.reg_setReg_other (t : Tile) {n k : Nat} (v : Word) (h : n ≠ k) : (t.setReg n v).reg k = t.reg k := by
  by_cases hn : n = 0
  · subst hn; rfl
  · simp [Tile.setReg, Tile.reg, hn, Tbl.get_put_other _ _ _ h]

/-- A register write changes the registers alone. -/
theorem Tile.setReg_eq (t : Tile) (n : Nat) (v : Word) : t.setReg n v = { t with g := (t.setReg n v).g } := by
  unfold Tile.setReg
  split <;> rfl

theorem Tile.setReg_g_congr (t u : Tile) (n : Nat) (v : Word) (h : t.g = u.g) : (t.setReg n v).g = (u.setReg n v).g := by
  unfold Tile.setReg
  split <;> simp [h]

/-! ### Loops -/

/-- Counting down changes the loop counters alone. -/
theorem countDown_eq (l : List Nat) (t : Tile) : (countDown t l).1 = { t with loops := (countDown t l).1.loops } := by
  induction l generalizing t with
  | nil => rfl
  | cons lc r ih =>
    simp only [countDown]
    split
    · rfl
    · rw [ih]

/-- Counting down depends on the loop counters alone. -/
theorem countDown_congr (l : List Nat) (t u : Tile) (h : t.loops = u.loops) :
    (countDown t l).1.loops = (countDown u l).1.loops ∧ (countDown t l).2 = (countDown u l).2 := by
  induction l generalizing t u with
  | nil => exact ⟨h, rfl⟩
  | cons lc r ih =>
    have hl : t.loopCtr lc = u.loopCtr lc := by simp [Tile.loopCtr, h]
    simp only [countDown, hl]
    split
    · simp [h]
    · exact ih _ _ (by simp [h])

theorem insertLoop_congr (l : List Nat) (t u : Tile) (lc : Nat) (h : t.loops = u.loops) :
    insertLoop t lc l = insertLoop u lc l := by
  induction l with
  | nil => rfl
  | cons k ks ih =>
    have hl : ∀ n, t.loopCtr n = u.loopCtr n := fun n => by simp [Tile.loopCtr, h]
    simp only [insertLoop, hl, ih]

theorem Tile.loopsEnding_congr (t u : Tile) (h : t.loops = u.loops) (hp : t.pc = u.pc) :
    t.loopsEnding = u.loopsEnding := by
  have e : insertLoop t = insertLoop u := by
    funext lc l
    exact insertLoop_congr l t u lc h
  simp only [Tile.loopsEnding, Tile.loopCtr, h, hp, e]

/-! ### Moving on -/

theorem Tile.advance_past (num : Nat) (t : Tile) (h : t.goesOn) : t.advance num = .ok t.past := by
  unfold Tile.goesOn at h
  simp only [Tile.advance, Tile.past, Tile.nextPc]
  generalize countDown t t.loopsEnding = c at *
  obtain ⟨a, o⟩ := c
  cases o with
  | some p => rfl
  | none =>
    have : ¬ t.pc + 1 ≥ t.progLen := by have := h rfl; omega
    simp only [this, if_false, Option.getD_none]

/-- What an instruction writes into fields other than loops, PC, LEN and stall state is there after it has moved on. -/
theorem Tile.past_of (t u : Tile) (hl : t.loops = u.loops) (hp : t.pc = u.pc) :
    t.past = { t with
      loops := u.past.loops
      pc := u.past.pc
      lockPending := false
      stall := .none } := by
  have e := Tile.loopsEnding_congr t u hl hp
  have c := countDown_congr u.loopsEnding t u hl
  unfold Tile.past Tile.nextPc
  rw [e, countDown_eq u.loopsEnding t]
  simp only [c.1, c.2, hp]

theorem Tile.goesOn_congr (t u : Tile) (hl : t.loops = u.loops) (hp : t.pc = u.pc) (hn : t.progLen = u.progLen) :
    t.goesOn ↔ u.goesOn := by
  unfold Tile.goesOn
  rw [Tile.loopsEnding_congr t u hl hp, (countDown_congr u.loopsEnding t u hl).2, hp, hn]

@[simp] theorem Tile.past_stall (t : Tile) : t.past.stall = .none := rfl

/-- A register write and the move past the instruction do not meet. -/
theorem Tile.setReg_past (t : Tile) (n : Nat) (v : Word) : (t.setReg n v).past = t.past.setReg n v := by
  have e := Tile.setReg_eq t n v
  have h1 : (t.setReg n v).loops = t.loops := by rw [e]
  have h2 : (t.setReg n v).pc = t.pc := by rw [e]
  rw [Tile.past_of (t.setReg n v) t h1 h2, Tile.setReg_eq t.past]
  have hg : t.past.g = t.g := by
    unfold Tile.past
    rw [countDown_eq]
  rw [Tile.setReg_g_congr t.past t n v hg, Tile.past_of t t rfl rfl]
  conv => lhs; rw [e]

theorem Tile.setReg_goesOn (t : Tile) (n : Nat) (v : Word) : (t.setReg n v).goesOn ↔ t.goesOn := by
  have e := Tile.setReg_eq t n v
  exact Tile.goesOn_congr _ _ (by rw [e]) (by rw [e]) (by rw [e])

/-! ### Issue -/

/-- An issue with no effect outside the tile: the fetch has met the program's bytes, the tile becomes `x`, and the issue is
traced. -/
theorem State.issue_plain (s : State) (t : Nat) (i : TInsn) (f : Tile → TileRes) (x : Tile) (h : s.issues t i = true)
    (hf : f ((s.fetched t).tile t) = .ok x) (hb : x.heldBack = false) : s.issue t i f = (s.fetched t).issued t x := by
  simp [State.issue, State.issued, State.issuedWith, h, hf, State.takeTile, TileRes.ok, hb]

/-- An instruction that is not about to issue does nothing. -/
theorem State.issue_not (s : State) (t : Nat) (i : TInsn) (f : Tile → TileRes) (h : s.issues t i = false) :
    s.issue t i f = s := by simp [State.issue, h]

theorem Tile.heldBack_none (t : Tile) (h : t.stall = .none) : t.heldBack = false := by simp [Tile.heldBack, h]

/-- An issue that writes one register and goes on. -/
theorem State.issue_setReg (s : State) (t : Nat) (i : TInsn) (n : Nat) (v : Word) (f : Tile → TileRes)
    (h : s.issues t i = true) (hg : ((s.fetched t).tile t).goesOn)
    (hf : f ((s.fetched t).tile t) = (((s.fetched t).tile t).setReg n v).advance t) :
    s.issue t i f = (s.fetched t).issued t (((s.fetched t).tile t).past.setReg n v) := by
  refine State.issue_plain s t i f _ h ?_ ?_
  · rw [hf, Tile.advance_past _ _ ((Tile.setReg_goesOn _ _ _).2 hg), Tile.setReg_past]
  · rw [← Tile.setReg_past]
    exact Tile.heldBack_none _ rfl

end Sys2Proof.Machine
end

