-- ==== Sys2Proof/Laws/Total.lean ====
section
/-! SUPPORT. No command stops the module. -/

namespace Sys2Proof.Machine

/-- Issuing again what a hazard held back answers a next state. -/
theorem State.reissue_next (s : State) (t : Nat) : ∃ s', s.reissue t = .next s' := by
  unfold State.reissue
  split
  case h_6 => split <;> exact ⟨_, rfl⟩
  all_goals exact ⟨_, rfl⟩

/-- Every command answers a next state. -/
theorem exec_next (i : Instr) (s : State) : ∃ s', exec i s = .next s' := by
  cases i
  case hazardClear t =>
    show ∃ s', execHazardClear t s = .next s'
    unfold execHazardClear
    split
    · exact ⟨_, rfl⟩
    · exact State.reissue_next _ _
  all_goals exact ⟨_, rfl⟩

/-- Every step answers a next state. -/
theorem step_next (s : State) : ∃ s', step s = .next s' := by
  unfold step
  split
  · exact exec_next _ _
  · exact ⟨_, rfl⟩

end Sys2Proof.Machine
end

