-- ==== Sys2Proof/Tests/Slice0.lean ====
section
/-! SUPPORT. Small tests: ill-formed commands are refused, words and values worked out from the spec, and for every statement
with hypotheses a state and operands that meet them. -/

open Sys2Proof Sys2Proof.Machine

namespace Sys2Proof.Tests

set_option Elab.async false

/-! ### Small states -/

/-- A module at rest, its registers all zero. -/
def blank : State := { State.reset with regs := [] }

/-- A register file of fields, each with its place in its array and its value. -/
def regsOf (fs : List (Field × Nat × Nat)) : RegFile := fs.foldl (fun r f => r.setAt f.1 f.2.1 f.2.2) []

/-- A tile of a program of four words that is about to issue `i`. -/
def tileAt (i : TInsn) : Tile :=
  { Tile.reset with
    state := .running
    progLen := 4
    mem := Mem.empty.writeRaw progBase (leBytes 8 i.encode) false }

/-- The module with tile 1 so, and register g3 of it holding `v`. -/
def tileReady (i : TInsn) (v : Word) : State := blank.setTile 1 ((tileAt i).setReg 3 v)

/-- The module with tile 1 as given. -/
def withTile (x : Tile) : State := blank.setTile 1 x

/-- Surroundings with nothing to show. -/
def noView : HostView := ⟨[], [], [], []⟩

/-- Tile 1 once the instruction at its PC has been fetched. -/
def atIssue (s : State) : Tile := (s.fetched 1).tile 1

/-! ### The tile sequencer -/

theorem test_tile_words :
    -- ATT: PARAM g0 + 0x5820, KVREG 5; LI g1, 5; END; JMP 3; WAIT pair 3, EMPTY, count 2
    TInsn.decode 0x6005_8200_5000_0000 = .att ⟨0x5820, false, false, false, 5, 0⟩ ∧
    TInsn.decode 0x1008_0000_0000_0005 = .li ⟨1, 5⟩ ∧ TInsn.decode 0x0100_0000_0000_0000 = .fin ∧
    TInsn.decode 0x1400_0000_0000_0003 = .jmp 3 ∧
    TInsn.decode 0x2100_E040_0000_0000 = .wait ⟨3, 1, 2⟩ ∧
    TInsn.decode 0x7700_0000_0000_0000 = .illegal 0x77 := by decide +kernel

theorem witness_ScalarRegisterWrites :
    ((atIssue (withTile (tileAt (.li ⟨1, 5⟩)))).goesOn ∧ (tileReady (.li ⟨1, 5⟩) 7).issues 1 (.li ⟨1, 5⟩) = true) ∧
    (tileReady (.addi ⟨1, 3, 2 ^ 32 - 1⟩) 7).issues 1 (.addi ⟨1, 3, 2 ^ 32 - 1⟩) = true ∧
    (∀ op < 10, (tileReady (.alu ⟨1, 3, 3, op⟩) 7).issues 1 (.alu ⟨1, 3, 3, op⟩) = true) ∧
    (tileReady (.rdreg ⟨1, 0⟩) 7).issues 1 (.rdreg ⟨1, 0⟩) = true ∧
    (tileReady (.wrreg ⟨3, 1⟩) 7).issues 1 (.wrreg ⟨3, 1⟩) = true ∧
    (tileReady (.wrreg ⟨3, 2⟩) 7).issues 1 (.wrreg ⟨3, 2⟩) = true := by
  unfold Tile.goesOn
  decide +kernel

/-- Tile 1 in the middle of loop 0, which goes round at PC 2. -/
def inLoop (count : Nat) : Tile :=
  { tileAt .nop with
    pc := 2
    loops := [(0, ⟨count, 1, 2, true⟩)] }

theorem witness_BranchesMoveThePc :
    ((withTile (tileAt .nop)).issues 1 .nop = true ∧ (atIssue (withTile (tileAt .nop))).goesOn) ∧
    ((withTile (tileAt .fence)).issues 1 .fence = true ∧ (atIssue (withTile (tileAt .fence))).goesOn) ∧
    ((withTile (tileAt (.jmp 3))).issues 1 (.jmp 3) = true ∧ 3 < (atIssue (withTile (tileAt (.jmp 3)))).progLen) ∧
    (∀ cond < 6, (tileReady (.br ⟨3, 3, cond, 3⟩) 7).issues 1 (.br ⟨3, 3, cond, 3⟩) = true) := by
  unfold Tile.goesOn
  decide +kernel

theorem witness_HardwareLoops :
    (let f : LoopF := ⟨0, 0, 5, 2⟩
     (withTile (tileAt (.loop f))).issues 1 (.loop f) = true ∧
       ((atIssue (withTile (tileAt (.loop f)))).loopCtr 0).active = false ∧
      (atIssue (withTile (tileAt (.loop f)))).pc < f.stop ∧ f.stop < (atIssue (withTile (tileAt (.loop f)))).progLen ∧
      ∀ k < 4, ((atIssue (withTile (tileAt (.loop f)))).loopCtr k).active = false) ∧
    (let f : LoopF := ⟨0, 0, 0, 2⟩
     (withTile (tileAt (.loop f))).issues 1 (.loop f) = true ∧ f.stop + 1 < (atIssue (withTile (tileAt (.loop f)))).progLen) ∧
    ((atIssue (withTile (inLoop 2))).loopsEnding = [0] ∧ ((atIssue (withTile (inLoop 2))).loopCtr 0).count > 1) ∧
    ((atIssue (withTile (inLoop 1))).loopsEnding = [0] ∧ ((atIssue (withTile (inLoop 1))).loopCtr 0).count ≤ 1) ∧
    (((inLoop 0).loopCtr 0).active = true ∧ ((inLoop 0).loopCtr 0).count = 0) := by decide +kernel

theorem witness_ProgramFaults :
    (atIssue (withTile (tileAt (.trap 9)))).fault.status = 0 ∧
    (withTile (tileAt (.trap 9))).issues 1 (.trap 9) = true ∧
    (withTile (tileAt (.illegal 0x77))).issues 1 (.illegal 0x77) = true ∧
    (withTile (tileAt (.alu ⟨1, 1, 1, 10⟩))).issues 1 (.alu ⟨1, 1, 1, 10⟩) = true ∧
    (withTile (tileAt (.br ⟨1, 1, 6, 1⟩))).issues 1 (.br ⟨1, 1, 6, 1⟩) = true ∧
    ((withTile (tileAt (.br ⟨1, 1, 5, 4⟩))).issues 1 (.br ⟨1, 1, 5, 4⟩) = true ∧
      (atIssue (withTile (tileAt (.br ⟨1, 1, 5, 4⟩)))).progLen ≤ 4) ∧
    ((withTile (tileAt (.jmp 4))).issues 1 (.jmp 4) = true ∧ (atIssue (withTile (tileAt (.jmp 4)))).progLen ≤ 4) ∧
    ((withTile (tileAt (.loop ⟨0, 0, 5, 4⟩))).issues 1 (.loop ⟨0, 0, 5, 4⟩) = true ∧
      (atIssue (withTile (tileAt (.loop ⟨0, 0, 5, 4⟩)))).progLen ≤ 4) := by decide +kernel

/-- Tile 1 with a stall, a semaphore pair 3 of FULL 2, and a held release. -/
def stalled (st : Stall) (held : Option Nat) : Tile :=
  { tileAt .nop with
    stall := st
    sems := [(3, { Sem.zero with full := 2 })]
    progValid := true
    held := held }

/-- Tile 1 about to issue `i`, pair 3 of FULL 2, one transfer on channel 1 of engine 1. -/
def waiter (i : TInsn) : Tile :=
  { tileAt i with
    sems := [(3, { Sem.zero with full := 2 })]
    streams := [(9, 1)] }

theorem witness_WaitsAndEnd :
    (∀ n ∈ [0, 2, 3],
      let s := withTile (waiter (.wait ⟨3, 0, n⟩))
      s.issues 1 (.wait ⟨3, 0, n⟩) = true ∧ (atIssue s).goesOn ∧ ((atIssue s).sem 3).ctr 0 = 2) ∧
    (∀ c ∈ [1, 2],
      let s := withTile (waiter (.stwait ⟨1, c⟩))
      s.issues 1 (.stwait ⟨1, c⟩) = true ∧ (atIssue s).goesOn ∧ ((atIssue s).outstanding 1 c = 0 ↔ c = 2)) ∧
    (2 ≤ ((stalled (.wait 3 0 2) none).sem 3).ctr 0 ∧ (withTile (stalled (.wait 3 0 2) none)).tilesRun = true) ∧
    (stalled (.stwait 1 1) none).outstanding 1 1 = 0 ∧
    ((stalled .fence none).stall = .fence ∧ (stalled .fence none).inflight = []) ∧
    (withTile (tileAt .fin)).issues 1 .fin = true ∧
    (∀ h ∈ [none, some 5], ∀ valid ∈ [false, true],
      let y := { stalled .ending h with progValid := valid }
      y.state = .running ∧ y.quiet = true ∧ (withTile y).tilesRun = true) := by
  unfold Tile.goesOn
  decide +kernel

/-! ### Signals, sends and the handcart path -/

/-- The module with link 0 up to rank 5, which has a route. -/
def linked : State :=
  { blank with
    regs := RegFile.setAt [] Reg.LNK_LINK_STATUS_STATE 0 2
    net := { NetSt.reset with active := [(5, 1 + 2 ^ 32)] } }

/-- An instruction in progress that writes a register file. -/
def writing : Inflight := ⟨0, 0, .vec, 0, 2 ^ 32, [], [], 0⟩

/-- Tile 1 about to issue `i`, g3 naming tile 2 of rank 5, with messages in its port and work in progress. -/
def sender (i : TInsn) (port : List PortMsg) (work : List Inflight) : Tile :=
  { (tileAt i).setReg 3 (BitVec.ofNat 64 (5 + 2 * 2 ^ 20)) with
    port := port
    inflight := work }

def someMsg (rank : Nat) (t : HcTarget) : HcMsg := ⟨rank, t, signalHeader 0 0 1, leBytes 16 7, false⟩

/-- Tile 1 about to send the message at byte 64 of its memory to tile 2 of its own module. -/
def hcSender : Tile :=
  let x := (tileAt (.hcsend ⟨4, 3, 0⟩)).setReg 3 (BitVec.ofNat 64 (3 * 2 ^ 40 + 2 * 2 ^ 20))
  { x with mem := x.mem.writeRaw 64 (signalHeader 0 0 1) false }

theorem witness_SignalsAndSends :
    (∀ n ∈ [0, 255],
      let s := withTile (tileAt (.sig ⟨0, 3, 0, n, 0⟩))
      s.issues 1 (.sig ⟨0, 3, 0, n, 0⟩) = true ∧ (atIssue s).goesOn ∧ (atIssue s).writers = [] ∧
        ((atIssue s).sem 3).ctr 0 + n ≤ 65535) ∧
    (let s := withTile (sender (.sig ⟨0, 3, 0, 1, 0⟩) [] [writing])
     s.issues 1 (.sig ⟨0, 3, 0, 1, 0⟩) = true ∧ (atIssue s).goesOn ∧ (atIssue s).writers ≠ []) ∧
    (∀ port ∈ [[], List.replicate 4 (⟨someMsg 5 (.tile 2), [], false⟩ : PortMsg)],
      let s := linked.setTile 1 (sender (.sig ⟨3, 3, 0, 1, 0⟩) port [])
      s.issues 1 (.sig ⟨3, 3, 0, 1, 0⟩) = true ∧ (atIssue s).goesOn ∧ (atIssue s).port.length = port.length ∧
        bitsOf ((atIssue s).reg 3).toNat 19 0 = 5 ∧ s.rank = 0 ∧ s.hasRoute 5 = true) ∧
    (let s := withTile hcSender
     let x := atIssue s
     s.issues 1 (.hcsend ⟨4, 3, 0⟩) = true ∧ x.goesOn ∧ x.hazard (maskOf (x.preReads (.hcsend ⟨4, 3, 0⟩))) 0 = false ∧
      (x.tileRef 4 16).isOk = true ∧ x.port.length < 4 ∧
      (hcJudge 0 0 blank.hasRoute (x.reg 3).toNat (x.mem.read 64 16) 0).isOk = true) := by
  unfold Tile.goesOn
  decide +kernel

/-- A message of tile 1 on the die network, with one link to go. -/
def meshMsg (t : HcTarget) : MeshMsg := ⟨some 1, someMsg 0 t, 0, [⟨0, 0, 1⟩, ⟨0, 0, 2⟩]⟩

def onMesh (t : HcTarget) : State := { blank with net := { NetSt.reset with mesh := [meshMsg t] } }

/-- The message to mailbox 3 with interrupts, vector 0 of which is enabled and vector 1 masked. -/
def boxVector (n : Nat) : State :=
  { onMesh (.mbox 3) with
    regs := regsOf [(Reg.HIF_MBOX_CTL_IRQ, 0, 1), (Reg.HIF_MBOX_CTL_VECTOR, 0, n)]
    host := { HostSt.reset with
      msixOn := true
      msixTable := [(3, 0)] } }

/-- An empty die network has room on every path. -/
theorem emptyMesh_room (n : NetSt) (path : List MeshNode) (h : n.mesh = []) : n.meshRoom path = true := by
  simp [NetSt.meshRoom, h]

theorem witness_HandcartOnTheModule :
    (let s := withTile (sender .nop [⟨someMsg 0 (.tile 2), [], false⟩] [])
     (s.tile 1).port = [⟨someMsg 0 (.tile 2), [], false⟩] ∧ (s.tile 1).idsBusy [] = false ∧
      s.net.meshRoom (s.onMesh (some 1) (s.tilePlace 1) (someMsg 0 (.tile 2))).path = true) ∧
    ((blank.setChan 0 { Chan.reset with outbox := [(2 * 2 ^ 20, none)] }).chan 0).outbox = [(2 * 2 ^ 20, none)] ∧
    (onMesh (.tile 2)).deliverable 0 = some (meshMsg (.tile 2)) ∧
    ((onMesh (.mbox 3)).deliverable 0 = some (meshMsg (.mbox 3)) ∧ (someMsg 0 (.mbox 3)).payload ≠ [] ∧
      (onMesh (.mbox 3)).regs.flag Reg.HIF_MBOX_CTL_IRQ = false) ∧
    (∀ n ∈ [0, 1], let s := boxVector n
      s.deliverable 0 = some (meshMsg (.mbox 3)) ∧ s.regs.flag Reg.HIF_MBOX_CTL_IRQ = true ∧ s.host.msixOn = true ∧
        bitOf (s.host.msixDword (4 * s.regs.get Reg.HIF_MBOX_CTL_VECTOR + 3)) 0 = decide (n = 1)) := by decide +kernel

/-! ### Stream channels -/

/-- A stream descriptor (Table 08.3) of a kind from SRC, with S_LINE and D_LINE, to byte 0x2000 of tile 0. -/
def strBytes (kind src sLine dLine : Nat) : List Byte :=
  leBytes 8 src ++ leBytes 8 0x2000 ++ leBytes 4 sLine ++ leBytes 4 64 ++ leBytes 4 1 ++ leBytes 4 dLine ++ leBytes 4 64 ++
    leBytes 4 1 ++ leBytes 4 0 ++ leBytes 4 kind ++ leBytes 16 0

/-- A tensor descriptor (Table 09.13) at BASE: format, element bits, mode and rate, one dimension of `n` elements. -/
def tensorBytes (base fmt bits cmp n : Nat) : List Byte :=
  leBytes 8 base ++ leBytes 1 fmt ++ leBytes 1 bits ++ leBytes 1 1 ++ leBytes 1 cmp ++ leBytes 12 0 ++ leBytes 4 n ++
    leBytes 16 0 ++ leBytes 4 1 ++ leBytes 16 0

/-- A stream instruction whose descriptor is at byte 64. -/
def strInsn : StreamF := ⟨4, 1, 2, 0, 0, true, 3, 0⟩

def streamer (b : List Byte) : Tile :=
  let x := tileAt (.stream strInsn)
  { x with mem := x.mem.writeRaw 64 b false }

/-- The module with tile 1 as given, and a lossy BF16 tensor of one block described at the start of stacked memory. -/
def streaming (x : Tile) : State :=
  { withTile x with stack := Mem.empty.writeRaw 0 (tensorBytes (2 ^ 40 + 4096) 1 16 2 256) false }

/-- One descriptor of each kind, with its row: COPY, COMPRESS, AREA_READ, LANDED. -/
def strKinds : List (Nat × List Byte) :=
  [(0, strBytes 0 0x1000 64 64), (1, strBytes 1 0x1000 64 4096), (2, strBytes 2 (2 ^ 40) 0 4096), (3, strBytes 3 0 0 0)]

/-- A descriptor of ring 1, count 0, that has started. -/
def ringDesc (op : Nat) (body : List Byte) : Desc := ⟨1, 0, op, 0, 9, body, true, false, none⟩

/-- The module with one descriptor. -/
def withDesc (d : Desc) (s : State) : State := { s with host := { s.host with descs := [d] } }

/-- A STREAM of ring 1 with the stream descriptor read at its fetch. -/
def ringStream (b : List Byte) : State :=
  withDesc { ringDesc 1 (leBytes 8 (2 ^ 40 + 128) ++ leBytes 1 0 ++ leBytes 1 1 ++ leBytes 1 2) with
    latched := some (St.ok, 0, b) } (streaming (tileAt .nop))

theorem witness_StreamsAreAccepted :
    (∀ k ∈ strKinds,
      let s := streaming (streamer k.2)
      let x := atIssue s
      let d := StrDesc.parse (x.mem.read 64 64) 0 0
      s.issues 1 (.stream strInsn) = true ∧ x.hazard (maskOf (x.preReads (.stream strInsn))) 0 = false ∧
        (x.tileRef 4 64).toOption = some 64 ∧ kindRow d.kind = k.1 ∧ (s.chan 18).full = false ∧
        (((s.fetched 1).takeTile 1 (x.touch 1 64 64)).judgeStream noView 0 1 2 d).1 = .accepted) ∧
    (∀ k ∈ strKinds,
      let s := ringStream k.2
      (s.ready 1 0 1).any (fun q => !q.eval && !s.host.stuck q.unit && q.latched == some (St.ok, 0, k.2)) = true ∧
        kindRow (StrDesc.parse k.2 0 0).kind = k.1 ∧ (s.chan 18).full = false ∧
        (s.judgeStream noView 0 1 2 (StrDesc.parse k.2 0 0)).1 = .accepted) := by
  decide +kernel

/-- A transfer of a channel. -/
def someXfer (by_ : Submitter) (d : StrDesc) (moved : Nat) (err : Option (Nat × Nat)) : Xfer :=
  ⟨0, by_, .stream d, moved, moved, 0, [], err, false, 0, 0, none, none, false, 0, 0, 0⟩

/-- A COPY of one slot, without a chain or with one on EMPTY, and a fence. -/
def copyDesc (wait : Bool) : StrDesc :=
  { StrDesc.parse (strBytes 0 0x1000 64 64) 0 0 with
    wait := wait
    waitCtr := 1 }

def fenceDesc : StrDesc := StrDesc.parse (strBytes 3 0 0 0) 0 0

/-- Channel 18 of the module with a queue, a transfer at work and slots that await their answers. -/
def channelWith (queue : List Xfer) (busy : Option Xfer) (acks : List SlotAck) : State :=
  blank.setChan 18 { Chan.reset with
    queue := queue
    busy := busy
    sem := { Sem.zero with empty := 1 }
    acks := acks }

theorem witness_StreamChannelsRun :
    (∀ w ∈ [true, false],
      let x := someXfer (.ring 1 0) (copyDesc w) 0 none
      let s := channelWith [x] none []
      (∀ k < (copyDesc w).slots, s.slotOpen x (copyDesc w) k = true) ∧ (s.chan 18).busy = none ∧ (s.chan 18).queue = [x] ∧
        s.channelFree 18 = true ∧ (copyDesc w).kind ≠ 3 ∧
        (copyDesc w).wait = w) ∧
    (let x := someXfer (.ring 1 0) (copyDesc true) 0 none
     let s := channelWith [] (some x) []
     x.granted < (copyDesc true).slots ∧ x.writeFailed = false ∧ 1 ≤ (s.chan 18).sem.ctr (copyDesc true).waitCtr ∧
      s.channelFree 18 = true ∧ s.slotOpen x (copyDesc true) x.granted = true) ∧
    (∀ b ∈ [Submitter.tile 1 none, .ring 1 0],
      let x := someXfer b (copyDesc false) 1 none
      x.allMoved (copyDesc false) = true ∧ x.err = none ∧ x.poison = false ∧ x.by_ = b) ∧
    (let a : SlotAck := ⟨0, 0, 0, false, false, some 5, none, none⟩
     ((channelWith [] none [a]).chan 18).acks.find? (fun a => a.target.isSome && a.waiting == 0) = some a) ∧
    (fenceDesc.kind = 3 ∧ fenceDesc.slotSig = false ∧
      ((channelWith [] (some (someXfer (.ring 1 0) fenceDesc 0 none)) []).chan 18).landedAll = true) ∧
    (let x := someXfer (.ring 1 0) (copyDesc false) 1 (some (St.strWriteErr, 0))
     let s := channelWith [] (some x) []
     (s.flush noView 18).setChan 18 (((s.flush noView 18).chan 18).ackReads noView) = s ∧
       x.writeFailed = true) := by decide +kernel

/-! ### Messages between modules -/

/-- A packet for this module that arrived whole on link 0, sealed with its CRC. -/
def packetIn (src kind addr len tid tseq poison : Nat) (last : Bool) (data : List Byte) : Packet :=
  (⟨0, 0, src, kind, false, last, addr, len, tid, tseq, poison, data, 0, 0⟩ : Packet).sealed

/-- The module with that packet in the receive slots of link 0. -/
def hasArrived (s : State) (p : Packet) : State := s.setLink 0 { LinkSt.reset with arrived := [⟨5, p, [0], 0⟩] }

/-- A message of rank 5 for tile 2, as number `order` of its sender. -/
def messageIn (order : Nat) : Packet :=
  packetIn 5 PK.message (3 * 2 ^ 40 + 2 * 2 ^ 20) 16 0 order 0 true (signalHeader 0 0 1 ++ leBytes 8 0)

/-- A message of this module to rank 5 that awaits its acknowledgement. -/
def stored (order : Nat) (held : Option Nat) : HcStored := ⟨5, order, messageIn order, held, none, none, 0⟩

def ctrlIn (data : List Byte) : Packet := packetIn 5 PK.ctrl 0 data.length 0 0 0 true data

theorem witness_HandcartBetweenModules :
    (∀ order ∈ [0, 1, 65535],
      let s := hasArrived linked (messageIn order)
      s.arrived 0 (fun p => p.kind == PK.message && p.dst == s.rank) = some ⟨5, messageIn order, [0], 0⟩ ∧
        (messageIn order).good = true) ∧
    (((hasArrived linked (messageIn 0)).consume 0 ⟨5, messageIn 0, [0], 0⟩).applyMessage 0 (messageIn 0)).any
      (fun s1 => s1.net.reorder.isEmpty) = true ∧
    (let p := ctrlIn (leBytes 1 CT.hcAck ++ leBytes 3 1 ++ leBytes 4 7)
     (hasArrived linked p).arrived 0 (fun q => q.isCtrl 0 CT.hcAck) = some ⟨5, p, [0], 0⟩ ∧ p.good = true) ∧
    (let p := ctrlIn (leBytes 1 CT.hold ++ leBytes 3 0 ++ leBytes 4 7 ++ leBytes 4 0)
     (hasArrived linked p).arrived 0 (fun q => q.isCtrl 0 CT.hold) = some ⟨5, p, [0], 0⟩ ∧ p.good = true ∧
      leNat ((p.data.drop 4).take 4) = 7 ∧ ∃ e ∈ [stored 6 none], e.rank = p.src ∧ e.order = (7 + 2 ^ 16 - 1) % 2 ^ 16) ∧
    ([stored 7 (some 0)].find? (fun e => e.rank == 5 && e.order == 7) = some (stored 7 (some 0)) ∧ 0 + 50000 ≤ 50000) := by
  decide +kernel

/-! ### Engines -/

/-- An MMA parameter block: BF16 operands in S0 and S1, FP32 out, one row, one column, N = 1, wide partial at 0x4000. -/
def mmaBlock : List Byte :=
  leBytes 4 0 ++ leBytes 4 (2 ^ 29) ++ leBytes 4 0x4000 ++ leBytes 4 1 ++ leBytes 1 0x11 ++ leBytes 1 0 ++ leBytes 1 1 ++
    leBytes 45 1

/-- An ATT parameter block: Q at 0x8000, the key/value block and dO there too, row state at 0x10000, outputs at 0x20000 and
0x30000, one head. -/
def attBlock : List Byte :=
  leBytes 4 0x8000 ++ leBytes 4 0x8000 ++ leBytes 4 0x10000 ++ leBytes 4 0x20000 ++ leBytes 16 0 ++ leBytes 2 0x101 ++
    leBytes 14 0 ++ leBytes 4 0x8000 ++ leBytes 4 0x30000 ++ leBytes 8 0

/-- A block header: one token, segment 0, BF16, d = 64. -/
def attHeader : List Byte := leBytes 4 0 ++ leBytes 2 1 ++ leBytes 6 0 ++ leBytes 1 0x11 ++ leBytes 51 0

/-- Tile 1 about to issue `i`, with a parameter block at byte 64, block headers at 0x8000 and g3 = 4. -/
def engineTile (i : TInsn) (b : List Byte) : Tile :=
  let x := (tileAt i).setReg 3 4
  { x with mem := (x.mem.writeRaw 64 b false).writeRaw 0x8000 attHeader false }

/-- One instruction of each row that an engine carries out. -/
def engineWork : List Tile :=
  [engineTile (.vop ⟨0, 64, 0, 0, 0, 3, false⟩) [], engineTile (.vred ⟨0, 64, 0, 3, false, 0⟩) [],
   engineTile (.cvt ⟨64, 0, 0, 1, 0, false, 0, 3, false⟩) [], engineTile (.merge ⟨128, 128, 128, 0, 1⟩) [],
   engineTile (.mma ⟨4, 0, false, false, 0, 0, 0⟩) mmaBlock, engineTile (.att ⟨4, false, true, true, 0, 0⟩) attBlock,
   engineTile (.att ⟨4, true, true, true, 0, 0⟩) attBlock]

/-- Its plan from the state in which it issues, after what it reads to be judged. -/
def planAt (s : State) (i : TInsn) : Except Nat Plan × Tile :=
  let q := ((atIssue s).touchAll 1 ((atIssue s).preReads i)).tile
  (s.planOf 1 i q, q)

/-- Does the instruction issue, accepted, held back by no hazard, with the program going on? -/
def workable (s : State) (i : TInsn) : Bool :=
  let x := atIssue s
  s.issues 1 i && decide (x.loops = [] ∧ x.pc + 1 < x.progLen) && !x.hazard (maskOf (x.preReads i)) 0 &&
    match planAt s i with
    | (.ok p, q) => decide ((p.rd ≠ 0 ∨ p.wr ≠ 0) ∧ q.hazard p.rd p.wr = false)
    | (.error _, _) => false

theorem witness_EnginesTakeInstructions :
    (∀ x ∈ engineWork, workable (withTile x) x.fetch = true) ∧
    (let s := withTile (engineTile (.vop ⟨63, 64, 0, 0, 0, 3, false⟩) [])
     let i := TInsn.vop ⟨63, 64, 0, 0, 0, 3, false⟩
     s.issues 1 i = true ∧ (atIssue s).fault.status = 0 ∧ (atIssue s).hazard (maskOf ((atIssue s).preReads i)) 0 = false ∧
      (planAt s i).1.toOption.isNone = true) ∧
    (∀ x ∈ engineWork, let s := withTile { x with stall := .hazard }
      (s.tile 1).stall = .hazard ∧ workable (s.setTile 1 { s.tile 1 with stall := .none }) x.fetch = true) := by decide +kernel

/-- The forward pass of that parameter block in progress. -/
def attRun : Option AttRun :=
  let s := withTile (engineTile (.att ⟨4, false, true, true, 0, 0⟩) attBlock)
  match planAt s (.att ⟨4, false, true, true, 0, 0⟩) with
  | (.ok p, q) => (match (p.run q).work with
    | .att r => some r
    | _ => none)
  | (.error _, _) => none

/-- An instruction in progress that is about to write four bytes of tile memory. -/
def finishing (w : Work) : Tile :=
  { tileAt .nop with inflight := [⟨0, 0, w, 0, 1, [⟨false, 64, leBytes 4 7, false, 0⟩], [], 0⟩] }

theorem witness_EnginesComplete :
    (((finishing .vec).firstOf .vector).isSome = true ∧ (finishing .vec).selfSigs = []) ∧
    attRun.any (fun r => ((finishing (.att { r with todo := [] })).firstOf .attention).isSome) = true := by decide +kernel

/-- A matrix instruction of one product 2 × 3 at segment `seg`. -/
def mmaRun (seg : Nat) (failed : Option Nat) : MmaRun :=
  ⟨false, 0, 1, 1, 1, false, false, false, false, 0, 0, 0, 0, 0, 0x4000, [[Val.num false 2 0]], [[Val.num false 3 0]], [[false]],
    [[false]], seg, failed, false⟩

/-- Does the segment pass its check, with the running sums as `corrupt` left them? -/
def segPasses (corrupt : List (Nat × Nat)) : Bool :=
  let g := (mmaRun 0 none).segment 0
  (g.verdict 256 ((g.sums 0 0 corrupt).map Prod.fst)).pass

/-- The digest of the failed attempt. -/
def badDigest : Nat :=
  let g := (mmaRun 0 none).segment 0
  g.digest ((g.sums 0 0 [(0, 2 ^ 30)]).map Prod.fst)

theorem witness_MatrixSegments :
    (∀ failed ∈ [none, some 5],
      (finishing (.mma (mmaRun 0 failed))).inflight.find? (fun f => f.work.segment.isSome) =
        (finishing (.mma (mmaRun 0 failed))).inflight.head? ∧ (Work.mma (mmaRun 0 failed)).failed = failed) ∧
    attRun.any (fun r => !r.todo.isEmpty) = true ∧ segPasses [] = true ∧ segPasses [(0, 2 ^ 30)] = false ∧ 5 ≠ badDigest ∧
    (let g := (mmaRun 0 none).segment 0
     let v := g.verdict 4 ((g.sums 0 0 [(0, 64)]).map Prod.fst)
     v.pass = false ∧ v.worst = true) ∧
    ((mmaRun 1 none).segs ≤ (mmaRun 1 none).seg ∧ ((finishing (.mma (mmaRun 1 none))).firstOf .matrix).isSome = true) := by
  decide +kernel

/-! ### Result tree -/

def treeInsn : TreeF := ⟨4, 3, 0, 1, 0, 0, 5⟩

def treeTile : Tile := (tileAt (.tree treeInsn)).setReg 3 1

/-- An input of a node from tile `t`, whose set ends at level `top`. -/
def treeIn (child t top : Nat) : TreeIn := ⟨child, 0, 0, 1, 0, top, [(0, 0, false)], 0, [(t, 0)]⟩

def treeWaiting (top : Nat) : State :=
  { blank with tree := [(treeKey 0 1 0, [treeIn 0 0 top, treeIn 1 1 top, treeIn 2 64 top, treeIn 3 65 top])] }

theorem witness_ResultTree :
    (let s := withTile treeTile
     let x := atIssue s
     s.issues 1 (.tree treeInsn) = true ∧ ((s.fetched 1).treeJudge x treeInsn).toOption = some 64 ∧ x.regNat 3 ≠ 0 ∧
      x.hazard (zoneMask 64 4) 0 = false ∧ (((s.fetched 1).takeTile 1 (x.touch 1 64 4)).tile 1).loops = [] ∧
      x.pc + 1 < x.progLen) ∧
    (∀ top ∈ [1, 2], Tbl.get (treeWaiting top).tree [] (treeKey 0 1 0) =
        [treeIn 0 0 top, treeIn 1 1 top, treeIn 2 64 top, treeIn 3 65 top] ∧
      (∀ i ∈ [treeIn 1 1 top, treeIn 2 64 top, treeIn 3 65 top], i.agrees (treeIn 0 0 top) = true ∧
        (treeIn 0 0 top).lowest < i.lowest)) ∧ (treeWaiting 1).localOpen 0 4 = true := by decide +kernel

theorem witness_TileWatches :
    ((tileAt .nop).free = true ∧ (tileAt .nop).solo = false ∧ (tileAt .nop).lockPending = false) ∧
    ({ tileAt .nop with lockPending := true } : Tile).free = true ∧ (tileAt .nop).liveDead = false ∧
    (tileAt .nop).scrubPos < 32768 ∧
    (let s : State := { blank with time := { TimeSt.reset with ns := 10000000 } }
     (∀ p ∈ [0, 32768], max ({ tileAt .nop with scrubPos := p } : Tile).scrubAt s.fab.scrubFrom + 10000000 ≤ s.now) ∧
      (tileAt .nop).scrubOver = false ∧ ({ tileAt .nop with scrubOver := true } : Tile).scrubOver = true) ∧
    (∀ n, n / 4096 = 0 → (blank.tile n).live ≠ (blank.tile n).liveSeen ∨ (blank.tile n).liveMs ≠ 9) ∧
    ({ tileAt .nop with liveMs := 9 } : Tile).live = ({ tileAt .nop with liveMs := 9 } : Tile).liveSeen := by
  have old : ∀ n, n / 4096 = 0 → (blank.tile n).live ≠ (blank.tile n).liveSeen ∨ (blank.tile n).liveMs ≠ 9 :=
    fun n _ => .inr (show (0 : Nat) ≠ 9 by decide)
  refine ⟨?_, ?_, ?_, ?_, ?_, old, ?_⟩ <;> decide +kernel

/-! ### Limits, power and resets -/

/-- A powered module at device time `ns`. -/
def poweredAt (ns : Nat) : State :=
  { blank with
    fab := { FabSt.reset with powered := true }
    time := { TimeSt.reset with ns := ns } }

/-- A powered module whose limiter acts since time 0. -/
def limiting (ns : Nat) : State :=
  { poweredAt ns with fab := { (poweredAt ns).fab with limiter := true } }

theorem witness_LimitsTrip :
    (poweredAt 0).fab.powered = true ∧ (poweredAt 0).fab.trip = none ∧ (poweredAt 0).host.events.length < 1024 ∧
    (poweredAt 0).fab.breakerOpen = false ∧ (poweredAt 0).liveCause = 0 ∧ (∀ d < 4, ([50, 50, 50, 50][d]?).getD 0 + 5 <
      ([56, 56, 56, 56][d]?).getD 0) ∧ 19 * 100 ≤ 20 * 95 ∧ 20 * 105 ≤ 21 * 100 ∧ 150000 < 150001 ∧ (95000 < 95001 ∧
        5000 ≤ 5000) ∧
    499 < 500 ∧ 47999 < 48000 ∧ 62000 ≤ 62000 ∧ 20 * 1051 > 21 * 1000 ∧
    (let q := regsOf [(Reg.SAF_SAFE_STATUS_ACTIVE, 0, 1), (Reg.SAF_SAFE_STATUS_CAUSE, 0, 2)]
     ({ poweredAt 0 with regs := q }).liveCause = 2) := by
  decide +kernel

theorem witness_CurrentLimiter :
    ((poweredAt 0).fab.limiter = false ∧ (poweredAt 0).fab.limitMs ≤ (poweredAt 0).now / 10 ^ 6) ∧
    ((limiting 10000000).fab.limitSince + 10000000 ≤ (limiting 10000000).now ∧ (limiting 10000000).fab.breakerOpen = false) ∧
    ((limiting 1).fab.limiter = true ∧ 94000 ≤ 94000) ∧
    (limiting 1).fab.limitSince = 0 ∧ (limiting 1).time.ns = 1 ∧ (limiting 1).fab.limitMs ≤ 0 / 10 ^ 6 := by decide +kernel

theorem witness_ResetsAndSafeState :
    (∀ b ∈ [true, false], let s := { poweredAt 0 with fab := { (poweredAt 0).fab with trip := some (2, b) } }
      s.fab.trip = some (2, b)) ∧
    (poweredAt 0).fab.powered = true ∧ (poweredAt 0).host.perst = false ∧
    (let s : State := { poweredAt 0 with regs := RegFile.set [] Reg.MEM_OBJ_COUNT_COUNT 1 }
     s.regs.get Reg.MEM_OBJ_COUNT_COUNT = 1 ∧ s.objAddr 0 = 0 ∧ ∀ c, c < 32 → s.regs.placed c / 64 ≠ 64 / 64) := by decide +kernel

theorem witness_PowerOnAndPerst :
    (State.reset.fab.hotSwap = true ∧ State.reset.fab.breakerOpen = false ∧ State.reset.boot.write = none) ∧
    (let s : State := { poweredAt 0 with host := { HostSt.reset with perst := true } }
     s.host.perst = true ∧ s.boot.write = none) := by decide +kernel

theorem witness_InputStage :
    (poweredAt 0).liveCause ≠ 2 ∧ (∀ t, (poweredAt 0).fab.ripplePost = some t → t + 60000000000 ≤ (poweredAt 0).now) ∧
    (let s : State := { poweredAt 5 with fab := { (poweredAt 5).fab with ripplePost := some 0, alertPulse := true } }
     s.fab.ripplePost = some 0 ∧ s.now < 0 + 60000000000 ∧ s.fab.alertPulse = true ∧ s.now < s.fab.alertSince + 10000000) ∧
    (poweredAt 10000000).fab.alertSince + 10000000 ≤ (poweredAt 10000000).now := by
  refine ⟨by decide +kernel, fun t h => ?_, by decide +kernel, by decide +kernel⟩
  cases h

/-- A powered module with a power limit and one short region. -/
def governed (limit : Nat) : State :=
  { poweredAt 1000000 with
    regs := regsOf [(Reg.SAF_POWER_CTL_LIMIT, 0, limit), (Reg.FAB_PACE_SHORT_SHORT, 3, 2 ^ 63)]
    fab := { (poweredAt 0).fab with paceHeld := [(255, 0)] } }

theorem witness_PaceGovernor :
    ((poweredAt 0).fab.parked = false ∧ (List.replicate 64 1200).length = 64) ∧
    bitOf ((governed 2000).regs.getAt Reg.FAB_PACE_SHORT_SHORT 3) 63 = true ∧
    Tbl.find (governed 2000).fab.paceHeld (64 * 3 + 63) = some 0 ∧ 0 + 1000000 ≤ (governed 2000).now ∧
    (200 * 1193 < 199 * 1200 ∧ 199 * 1200 ≤ 200 * 1194 ∧ 200 * 1206 ≤ 201 * 1200 ∧ 201 * 1200 < 200 * 1207) ∧
    (governed 2000).host.events.length + 64 ≤ 1024 ∧ (List.replicate 64 1193)[0]? = some 1193 ∧
    (∀ limit ∈ [2000, 4300], 2000 ≤ (governed limit).regs.get Reg.SAF_POWER_CTL_LIMIT ∧
      (governed limit).regs.get Reg.SAF_POWER_CTL_LIMIT ≤ 4300) := by decide +kernel

/-- A module with the repair of tile 70 scheduled, or under way. -/
def repairing (copying : Bool) : State :=
  { poweredAt 0 with fab := { (poweredAt 0).fab with repairs := [⟨70, 1, copying⟩] } }

theorem witness_TileRepairs :
    ((repairing false).fab.repairs.find? (fun r => r.tile == 70 && !r.copying) = some ⟨70, 1, false⟩ ∧
      (repairing false).stepState ≤ 1) ∧
    (repairing true).fab.repairs.find? (fun r => r.tile == 70 && r.copying) = some ⟨70, 1, true⟩ := by decide +kernel

/-- A STEP_ARM that waits for its release. -/
def awaitingRelease : Desc := ⟨1, 0, 0x10, 0, 9, [], true, true, none⟩

/-- A module that is parked, or asked to park. -/
def parking (parked : Bool) (park : Nat) : State :=
  { poweredAt 0 with
    regs := RegFile.set [] Reg.HIF_DEV_CTL_PARK park
    fab := { (poweredAt 0).fab with parked := parked } }

theorem witness_ParkAndD3 :
    (parking false 0).fab.parked = false ∧ ((parking true 1).fab.parked = true ∧ (parking true 1).mem.off = false) ∧
    (∀ park ∈ [1, 2], let s := withDesc awaitingRelease (parking false park)
      s.fab.powered = true ∧ s.parkDue = true ∧ (∀ d ∈ s.host.descs, d.awaitsRelease = true) ∧
        s.regs.get Reg.HIF_DEV_CTL_PARK = park ∧ s.mem.off = false) ∧
    (parking true 1).host.d3 = false ∧ (parking true 0).regs.get Reg.HIF_DEV_CTL_PARK = 0 ∧
    ∀ park ∈ [1, 2], (parking true park).regs.get Reg.HIF_DEV_CTL_PARK = park := by decide +kernel

/-! ### Registers and enabling -/

theorem witness_RegisterWrites : (poweredAt 0).reachable = true ∧ plainRegister 0x900020 ∧
    ¬ (((3 : Nat) = 4 ∨ (3 : Nat) = 8) ∧ 0x900020 % 3 = 0 ∧ 0x900020 < 2 ^ 26) ∧
    (let s := (poweredAt 0).setReg Reg.CMP_TILE_SEL_INDEX 0x20
     s.reachable = true ∧ s.regs.flag Reg.HIF_DEV_CTL_ENABLE = false ∧ 0x20 ≤ s.regs.get Reg.CMP_TILE_SEL_INDEX ∧
      s.regs.get Reg.CMP_TILE_SEL_INDEX ≤ 0x3F) := by
  unfold plainRegister
  decide +kernel

/-- A powered module that is checking a configuration that breaks no rule: the event ring and the PRODUCED page in their
places, regions side by side, a data position of a parity group, a seed, a time source. -/
def checking (due : Bool) : State :=
  { poweredAt 0 with
    regs := regsOf [(Reg.FAB_PACE_TARGET_TARGET, 0, 1200), (Reg.CMP_CTAB_CTL_THRESH, 0, 1), (Reg.HIF_EQ_CTL_VALID, 0, 1),
      (Reg.HIF_EQ_CTL_SIZE, 0, 64), (Reg.HIF_EQ_BASE_BASE, 0, 2), (Reg.HIF_DB_BASE_BASE, 0, 1), (Reg.TIM_STATUS_STATE, 0, 2),
      (Reg.TRN_JOB_SEED_SEED, 0, 1), (Reg.HIF_DEV_STATUS_STATE, 0, 1), (Reg.CMP_CTAB_BASE_BASE, 0, 2 ^ 15),
      (Reg.LNK_COLL_BASE_BASE, 0, 2 ^ 13), (Reg.SAF_PGROUP_BASE_BASE, 0, 2 ^ 22), (Reg.TRN_TAG_BASE_BASE, 0, 2 ^ 18)]
    host := { HostSt.reset with msixOn := true }
    mem := { State.reset.mem with clearDue := due }
    stack := Mem.empty.writeRaw (2 ^ 29) ([0, 1, 2 ^ 22, 0, 0, 2].flatMap (leBytes 4) ++
      (List.range 18).flatMap (leBytes 4)) false }

theorem no_route (self r : Nat) : routeEntry [] self r = 0 := by
  unfold routeEntry
  simp only [List.find?_nil, Tbl.get, Tbl.find]
  split <;> rfl

theorem no_loop (s : State) (self : Nat) (peers : List (Nat × List (Nat × Nat))) (rankOf : Nat → Nat) (n r : Nat) :
    s.firstLoop [] self peers rankOf n r = none := by
  rw [State.firstLoop_none]
  intro k _ _
  unfold State.hopsOk
  rw [no_route]
  by_cases e : k = self <;> simp [e, routeHops, bitsOf]

/-- With no routes the route check passes. -/
theorem no_route_cases (s : State) (h : s.net.active = []) : s.routeCases = [] := by
  simp only [State.routeCases, State.routeCheck, h, no_loop, no_route]
  rfl

theorem checking_passes (due : Bool) : ∀ x ∈ (checking due).checks, x.2 = [] := by
  have h : (checking due).routeCases = [] := no_route_cases (checking due) rfl
  have a : ∀ d, let s := checking d
      s.ringOverlaps = [] ∧ s.ringSizes = [] ∧ s.vectorCases = [] ∧ s.paceCases = [] ∧ s.timeCases = [] ∧ s.spareCases = [] ∧
      s.parityCases = [] ∧ s.regionCases = [] ∧ s.seedCases = [] ∧ s.injectCases = [] ∧ s.rankCases = [] ∧ s.attCases = [] ∧
      s.threshCases = [] ∧ s.ringLinkCases = [] := by decide +kernel
  obtain ⟨a1, a2, a3, a4, a5, a6, a7, a8, a9, a10, a11, a12, a13, a14⟩ := a due
  simp only [State.checks, a1, a2, a3, a4, a5, h, a6, a7, a8, a9, a10, a11, a12, a13, a14, List.forall_mem_cons]
  simp

theorem witness_EnableAndCheck :
    (let s := (poweredAt 0).setReg Reg.BOOT_STATUS_STAGE 3
     s.fab.powered = true ∧ s.host.perst = false ∧ s.regs.get Reg.BOOT_STATUS_STAGE = 3 ∧
      s.regs.flag Reg.HIF_DEV_CTL_ENABLE = false) ∧
    (∀ due, (checking due).regs.get Reg.HIF_DEV_STATUS_STATE = 1 ∧ (checking due).answered (checking due).net.peers = true ∧
      (checking due).mem.clearDue = due) ∧
    (∀ due, ∀ x ∈ (checking due).checks, x.2 = []) ∧
    (let s := { checking false with regs := (checking false).regs.set Reg.HIF_EQ_CTL_SIZE 63 }
     s.answered s.net.peers = true ∧ s.ringOverlaps = [] ∧ s.ringSizes = [(0x38, 0)]) := by
  refine ⟨?_, ?_, checking_passes, ?_⟩ <;> decide +kernel

/-! ### Rings in host memory -/

/-- A view of host memory that holds some bytes from an address. -/
def viewOf (a : Nat) (bs : List Byte) : HostView := ⟨bs.mapIdx fun i b => (a + i, b), [], [], []⟩

/-- A view in which one block of 64 bytes fails. -/
def failing (a : Nat) : HostView := ⟨[], [], [a / 64], []⟩

/-- A ready module with submission ring 1 and completion ring 0 of 64 entries, and the event ring, with interrupts. -/
def hosting : State :=
  { poweredAt 5000 with
    regs := regsOf [(Reg.HIF_DEV_STATUS_STATE, 0, 2), (Reg.HIF_DB_BASE_BASE, 0, 1), (Reg.HIF_SQ_CTL_SIZE, 1, 64),
      (Reg.HIF_SQ_CTL_VALID, 1, 1), (Reg.HIF_SQ_BASE_BASE, 1, 16), (Reg.HIF_CQ_BASE_BASE, 0, 32), (Reg.HIF_CQ_CTL_SIZE, 0, 64),
      (Reg.HIF_CQ_CTL_IRQ, 0, 1), (Reg.HIF_EQ_CTL_SIZE, 0, 64), (Reg.HIF_EQ_BASE_BASE, 0, 48), (Reg.HIF_EQ_CTL_IRQ, 0, 1)] }

/-- The same with three descriptors to fetch. -/
def toFetch3 : State := { hosting with host := { hosting.host with rings := [(1, ⟨3, 0, false, false⟩)] } }

/-- The same with a poll on its way. -/
def polling : State := { hosting with host := { hosting.host with pollBusy := true } }

theorem witness_PollAndFetch :
    (hosting.fetching = true ∧ hosting.host.pollBusy = false ∧ hosting.pollLen ≠ 0 ∧ hosting.onDemand = [] ∧
      hosting.ringValid 1 = true) ∧
    (polling.host.pollBusy = true ∧ polling.onDemand = [] ∧ viewFails noView polling.dbAddr polling.pollLen = false ∧
      viewFails (failing 4096) polling.dbAddr polling.pollLen = true ∧ polling.host.pollErr = false) ∧
    (let s := { hosting with host := { hosting.host with pollEmpty := 15 } }
     s.host.descs = [] ∧ s.host.pollEmpty = 15) ∧
    (toFetch3.fetching = true ∧ toFetch3.host.fetch = none ∧ toFetch3.nextRing = some 1 ∧ toFetch3.fetchCount 1 = 3) ∧
    (let s := { hosting with host := { hosting.host with fetch := some ⟨1, 0, 2⟩ } }
     s.host.fetch = some ⟨1, 0, 2⟩ ∧
      ∀ i < 2, viewFails noView (s.slotAddr 1 ((0 + i) % 2 ^ 32)) 64 = false) ∧
    (∀ g ∈ [0, 1],
      let d := Desc.parse 1 0 ((List.range 64).map fun i => (viewByte (viewOf 65537 [g]) (hosting.slotAddr 1 0 + i)).1)
      (d.flags % 2 = (0 / hosting.ringSize 1 + 1) % 2 ↔ g = 1)) ∧
    (let d := ringDesc 1 (leBytes 8 (2 ^ 40 + 128))
     d.opcode = 1 ∧ d.n 0 8 % 64 = 0 ∧ hosting.judge .local3 (d.n 0 8) 64 = none ∧
      (hosting.readStruct noView (d.n 0 8) 64).1.toOption = some (List.replicate 64 0)) := by decide +kernel

/-- An earlier descriptor of ring 1 and a later one, of an opcode. -/
def twoDescs (order : Nat) (op : Nat) (taken : Bool) : State :=
  { hosting with host := { hosting.host with descs := [
    ⟨1, 0, 1, 4 * (1 - order), 0, [], true, taken, none⟩, ⟨1, 1, op, 4 * order, 7, [], false, false, none⟩] } }

theorem witness_DescriptorsStartAndComplete :
    (let s := twoDescs 0 1 true
     ((s.host.desc 1 1).map fun d => (d.started, d.order)) = some (false, false) ∧ s.host.unwritten = [] ∧
      (∀ e ∈ s.host.descs, e.before 1 1 = true → e.taken = true)) ∧
    (let s : State := { twoDescs 1 1 true with host := { (twoDescs 1 1 true).host with
       descs := [⟨1, 1, 1, 4, 7, [], false, false, none⟩] } }
     ((s.host.desc 1 1).map fun d => (d.started, d.order)) = some (false, true) ∧ s.host.unwritten = [] ∧
      (∀ e ∈ s.host.descs, e.before 1 1 = false)) ∧
    (∀ op ∈ [0, 0x30], let s := withDesc (ringDesc op []) hosting
      s.host.desc 1 0 = some (ringDesc op []) ∧ (ringDesc op []).eval = false ∧ opcodeKnown op = (op == 0) ∧
        s.host.stuck (ringDesc op []).unit = false ∧
        s.host.room (s.regs.getAt Reg.HIF_SQ_CTL_CQ 1) = true) := by decide +kernel

/-- Completion records of ring 0 and an event that wait. -/
def recording : State :=
  { hosting with host := { hosting.host with
      msixOn := true
      queue := [⟨0, 0, 0, 0, 1, 0, 9, 0, 4000, false, 0⟩, ⟨0, 0, 0, 0, 1, 1, 9, 0, 4001, true, 0⟩]
      events := [⟨⟨0x3070, 0, 2, 0, 0⟩, 0, 4000⟩]
      cqs := [(0, ⟨0, 0, 1, 4000⟩)]
      eq := ⟨0, 0, 1, 4000⟩
      msixTable := [(3, 0)] } }

theorem witness_RecordsReachTheHost :
    (recording.enabled = true ∧ (recording.batch 0).length = 2) ∧
    (let s : State := { recording with host := { recording.host with queue := [⟨0, 0, 0, 0, 1, 0, 9, 0, 4000, true, 0⟩] } }
     s.enabled = true ∧ s.batch 0 = [⟨0, 0, 0, 0, 1, 0, 9, 0, 4000, true, 0⟩]) ∧
    (recording.eqRoom ≠ 0 ∧ recording.host.dropped = 0 ∧ recording.host.events.length = 1 ∧
      ({ recording with host := { recording.host with dropped := 3 } } : State).eqRoom ≠ 0) ∧
    ((recording.cq 0).pending ≠ 0 ∧
      (recording.cq 0).oldest + 1000 * recording.regs.getAt Reg.HIF_CQ_CTL_MOD_TIME 0 ≤ recording.now ∧
      recording.regs.getAt Reg.HIF_CQ_CTL_IRQ 0 = 1) ∧
    (recording.host.eq.pending ≠ 0 ∧
      recording.host.eq.oldest + 1000 * recording.regs.get Reg.HIF_EQ_CTL_MOD_TIME ≤ recording.now ∧
      recording.regs.flag Reg.HIF_EQ_CTL_IRQ = true) ∧
    (recording.host.msixOn = true ∧ bitOf (recording.host.msixDword (4 * 0 + 3)) 0 = false ∧
      bitOf (recording.host.msixDword (4 * 1 + 3)) 0 = true) := by decide +kernel

/-! ### Driver descriptors on memory -/

/-- A region of eight units of which reservation 1 holds units 2 and 3, and a reservation of ID 5 for sequences of `n` units. -/
def reserving (op id n : Nat) : State :=
  let s := withDesc (ringDesc op (leBytes 2 id ++ leBytes 1 0 ++ leBytes 1 0 ++ leBytes 4 n)) (poweredAt 0)
  { s with
    regs := RegFile.set [] Reg.CMP_KV_SIZE_UNITS 8
    kv := [⟨1, 0, 0, 2, 2⟩] }

theorem witness_KeyValueReservations :
    (∀ c ∈ [(2, some (0, 2)), (3, some (4, 4)), (5, none)], let s := reserving 3 5 c.1
      s.firstFetched 1 0 3 4 = true ∧ ((s.ready 1 0 3).map fun d => s.host.stuck d.unit) = some false ∧
        ((s.ready 1 0 3).map fun d => [d.n 0 2, d.n 2 1, d.n 3 1, d.n 4 4]) = some [5, 0, 0, c.1] ∧
        ((s.ready 1 0 3).map Desc.eval) = some false ∧ (s.kv.all fun k => k.id != 5 && k.kind == 0) = true ∧
        s.kvFree.find? (fun g => decide (c.1 ≤ g.2)) = c.2) ∧
    (∀ id ∈ [1, 5], let s := reserving 4 id 0
      s.firstFetched 1 0 3 4 = true ∧
        ((s.ready 1 0 4).map fun d => (s.host.stuck d.unit, d.eval, d.n 0 2)) = some (false, false, id)) ∧
    kvApart (reserving 3 5 2).kv := by
  refine ⟨by decide +kernel, by decide +kernel, ?_⟩
  unfold kvApart
  decide +kernel

/-- An object descriptor of object 3, for tiles 0 and 1 from byte 0x1000 on, 128 B in each; a DEFINE gives 256 B at byte 2^32. -/
def objDesc (op : Nat) : Desc :=
  ringDesc op (leBytes 4 3 ++ (if op = 5 then leBytes 12 0 ++ leBytes 8 (2 ^ 32) ++ leBytes 8 256
    else leBytes 2 0 ++ leBytes 2 2 ++ leBytes 4 0x1000 ++ leBytes 4 128 ++ leBytes 16 0))

/-- A table of sixteen objects at byte 4096, object 3 of which is as given. -/
def objects (d : Desc) (x : Obj) : State :=
  (withDesc d { poweredAt 0 with
    regs := regsOf [(Reg.MEM_OBJ_COUNT_COUNT, 0, 16), (Reg.MEM_OBJ_BASE_BASE, 0, 1)] }).setObj 3 x

def noObj : Obj := ⟨0, 0, 0, 0, 0, 0, 0, 0, 0⟩
def inStack : Obj := ⟨1, 0, 0, 0, 2 ^ 32, 256, 0, 0, 0⟩
def inTiles (pins : Nat) (offset : Nat) : Obj := ⟨2, 0, pins, 128, 2 ^ 32, 256, 0, 2, offset⟩

/-- What the operations need, each with an object that it takes and one that it refuses. -/
def objCases : List (Nat × Obj) :=
  [(5, noObj), (6, inStack), (6, inTiles 1 0x1000), (6, inTiles 1 0x2000), (7, inTiles 0 0x1000), (7, inTiles 1 0x1000),
    (8, inTiles 1 0x1000), (8, inTiles 0 0x1000), (9, inTiles 0 0x1000), (9, inTiles 1 0x1000)]

theorem witness_ObjectTable :
    ∀ c ∈ objCases, let s := objects (objDesc c.1) c.2
      s.firstFetched 1 0 5 9 = true ∧ s.memOpen (s.objAddr 3) 32 = true ∧ (objDesc c.1).eval = false ∧
        s.ready 1 0 c.1 = some (objDesc c.1) ∧
        s.host.stuck (objDesc c.1).unit = false ∧ ((s.stackRead (s.objAddr 3) 32).2.copyRoom (objDesc 6).placement = true) ∧
        ((s.stackRead (s.objAddr 3) 32).2.copyRoom (inTiles 0 0x1000).placement = true) ∧
        s.inRegion (2 ^ 32) 256 = false ∧ (2 ^ 32) % 64 = 0 ∧ (2 ^ 32 : Nat) + 256 ≤ 0xC000000000 ∧
        (objDesc c.1).object = 3 ∧ 3 < s.regs.get Reg.MEM_OBJ_COUNT_COUNT ∧ s.obj 3 = c.2 ∧
        (objDesc 5).n 16 8 % 64 = 0 ∧ (objDesc 5).n 16 8 + (objDesc 5).n 24 8 ≤ 0xC000000000 ∧
        s.inRegion ((objDesc 5).n 16 8) ((objDesc 5).n 24 8) = false ∧ (objDesc 6).placement.count ≠ 0 ∧
        (objDesc 6).placement.fits 256 = true ∧ (inTiles 1 0x1000).placement = (objDesc 6).placement ∧
        (inTiles 1 0x2000).placement ≠ (objDesc 6).placement := by
  decide +kernel

/-- A copy of object 3 on its way. -/
def copying (up : Bool) : State :=
  let s := objects (objDesc (if up then 6 else 7)) { inTiles (if up then 1 else 0) 0x1000 with flags := if up then 1 else 2 }
  let s := s.startMove 1 0
    ⟨0, s.obj 3, 3, up, false, if up then [(1, 0, some 3)] else [], if up then [] else [(1, 0)], false, false, [0, 1]⟩
  s.setChan 2039 { s.chan 2039 with queue := [], busy := (s.chan 2039).queue.head? }

theorem witness_ObjectCopies :
    (∀ up ∈ [true, false],
      let s := copying up
      ((s.mem.moves.find? (fun m => m.obj == 3)).map fun m => (m.cancelled, m.up, m.waiters.length, m.left)) =
        some (false, up, if up then 1 else 0, [0, 1]) ∧
      ∀ m ∈ s.mem.moves, ∀ i ∈ [0, 1], let x := m.entry
        s.copying m (2048 * ((x.first + i) / 4096) + 127 * 16 + 7) = true ∧ s.memOpen (s.objAddr 3) 32 = true ∧
        s.memOpen (x.home + x.slice * i) (x.sliceBytes i) = true ∧ [0, 1].erase i ≠ [] ∧
        (∀ k ∈ x.placement.channels, ∃ l ∈ [0, 1].erase i, (x.first + l) / 4096 = k / 2048)) ∧
    (let s := objects (objDesc 5) noObj
     s.stack.wf = true ∧ s.stack.uncorr = [] ∧ s.stack.single = []) ∧
    (∀ a, (objects (objDesc 5) noObj).objAddr 0 ≤ a → (objects (objDesc 5) noObj).regs.placed a = a) := by
  refine ⟨?_, ?_, fun a _ => ?_⟩
  · decide +kernel
  · decide +kernel
  · have h : (objects (objDesc 5) noObj).regs.get Reg.MEM_RETIRE_STATUS_USED = 0 := by decide +kernel
    simp [RegFile.placed, h]

/-- A PROG_LOAD of `n` instructions at stacked byte 2^20 into tiles 1 and 2. -/
def loading (op n : Nat) (busy : Bool) : State :=
  let d := ringDesc 2 (leBytes 8 (2 ^ 40 + 2 ^ 20) ++ leBytes 2 n ++ leBytes 2 0 ++ leBytes 2 1 ++ leBytes 2 2)
  withDesc { d with taken := op == 1 } ((poweredAt 0).setTile 1 { Tile.reset with state := if busy then .running else .parked })

theorem witness_ProgramLoads :
    (∀ n ∈ [0, 2, 2049], ((loading 0 n false).ready 1 0 2).map (fun d => [d.n 8 2, d.n 10 2, d.n 12 2, d.n 14 2, d.n 0 8 % 8]) =
      some [n, 0, 1, 2, 0]) ∧
    (∀ busy ∈ [false, true], let s := loading 0 2 busy
      s.judge .image (2 ^ 40 + 2 ^ 20) 16 = none ∧ s.loadable 1 = !busy ∧ s.loadable 2 = true ∧
        s.localOpen (2 ^ 40 + 2 ^ 20) 16 = true ∧ (s.get noView (2 ^ 40 + 2 ^ 20) 16).err = false ∧
          (s.get noView (2 ^ 40 + 2 ^ 20) 16).poison = false ∧
        ((s.ready 1 0 2).map fun d => (s.host.stuck d.unit, d.eval)) = some (false, false)) ∧
    (Tile.reset.mem.wf = true ∧ ([1, 2] : List Byte).length ≤ 16384) ∧
    (∀ h ∈ [none, some 9], let s := (loading 1 2 false).setTile 1 { Tile.reset with state := .loading, held := h }
      ((s.working 1 0 2).map fun d => (d.n 12 2, d.n 14 2)) = some (1, 2) ∧ (s.tile 1).held = h ∧
        (s.tile 1).state = .loading) := by
  and_intros <;> decide +kernel

/-- An image header with a SEQ and one zero beside it; its magic is wrong, so its REASON is 1. -/
def someImage : List Byte := leBytes 8 0 ++ leBytes 8 7

/-- A FLASH_WRITE of sixteen bytes at stacked byte 2^20. -/
def flashing (flags slot : Nat) (job : Option FlashJob) : State :=
  let d := ringDesc 0x0A (leBytes 8 (2 ^ 40 + 2 ^ 20) ++ leBytes 4 16 ++ leBytes 1 flags)
  let s := withDesc d { poweredAt 600000000000 with
    regs := RegFile.set [] Reg.BOOT_STATUS_SLOT slot
    stack := Mem.empty.writeRaw (2 ^ 20) someImage false }
  { s with boot := { s.boot with write := job } }

theorem witness_FlashUpdates :
    (∀ flags ∈ [0, 1], ∀ slot ∈ [0, 1], let s := flashing flags slot none
      s.boot.write = none ∧ s.firstFetched 1 0 0x0A 0x0A = true ∧
        (s.ready 1 0 0x0A).map (fun d => (s.host.stuck d.unit, d.eval, [d.n 0 8, d.n 8 4, d.n 12 1])) =
          some (false, false, [2 ^ 40 + 2 ^ 20, 16, flags]) ∧
        s.judge .image (2 ^ 40 + 2 ^ 20) 16 = none ∧ s.localOpen (2 ^ 40 + 2 ^ 20) 16 = true ∧
          (s.readStruct noView (2 ^ 40 + 2 ^ 20) 16).1.toOption = some someImage) ∧
    (∀ slot ∈ [0, 1], let s1 := ((flashing 0 slot none).readStruct noView (2 ^ 40 + 2 ^ 20) 16).2
      s1.regs.getAt Reg.BOOT_SEQ_SEQ slot < imgSeq someImage ∧ s1.regs.get Reg.BOOT_STATUS_SLOT = slot ∧
        (s1.eraseImage.readStruct noView (2 ^ 40 + 2 ^ 20 + 64) 0).1.toOption = some [] ∧
        (s1.readStruct noView (2 ^ 40 + 2 ^ 20 + 64) 0).1.toOption = some []) ∧
    ((flashing 0 0 (some ⟨1, 0, someImage⟩)).boot.write.isSome = true) ∧
    (let s := flashing 0 0 none
     s.fab.powered = true ∧ s.boot.healthAt + 600000000000 ≤ s.now ∧ s.boot.write = none ∧ s.boot.healthToB = false) := by
  and_intros <;> decide +kernel

/-! ### Stacked memory -/

theorem test_locate : locate 0x3123456780 = ⟨4, 34, 0xC22E, 2, 776, 2, 0x80⟩ := by decide +kernel

theorem witness_LocateIsOneToOne : (0xBFFFFFFFFF : Nat) < 0xC000000000 ∧ (locate 0).stack = (locate 1).stack ∧
    (locate 0).channel = (locate 1).channel ∧ (locate 0).bank = (locate 1).bank ∧ (locate 0).row = (locate 1).row ∧
    (locate 0).col = (locate 1).col := by decide +kernel

/-- A powered module one of whose granules waits with an uncorrectable error. -/
def faulty : State := { poweredAt 0 with stack := { Mem.empty with uncorr := [16] } }

/-- The same with a read and a write in channel 0's slots. -/
def waitingRead : State :=
  faulty.setMemCh 0 { MemCh.reset with slots := [⟨1, 1024, false, [(0, true)]⟩, ⟨2, 0, true, []⟩] }

/-- The same with all 64 slots of channel 0 held and these requests waiting behind them. -/
def fullOf (blocked : List (Nat × Nat × Bool)) : State :=
  faulty.setMemCh 0 { MemCh.reset with
    slots := List.replicate 64 ⟨1, 0, true, []⟩
    blocked := blocked }

theorem witness_MemoryRequests :
    (∀ w ∈ [true, false], let q : MemAccess := ⟨1, 1000, w, if w then 0 else 2, if w then [1, 2] else [], 0⟩
      inGranule q.addr (if w then q.data.length else q.len) = true ∧ faulty.memReady q.addr = true ∧
        (faulty.memCh (faulty.chanOf q.addr)).slots = [] ∧ faulty.stack.wf = true ∧
        (faulty.memCh (faulty.chanOf q.addr)).behind (q.source, q.addr, w) = false) ∧
    (∀ b ∈ [[], [(1, 64, true)], [(1, 128, true)]], let s := fullOf b
      let key : Nat × Nat × Bool := (1, 64, true)
      inGranule 64 2 = true ∧ s.chanOf 64 = 0 ∧ s.memAdmits 64 = false ∧
        ((s.memCh 0).behind key, (s.memCh 0).blocked.contains key) =
          (if b = [] then (false, false) else if b = [key] then (false, true) else (true, false))) ∧
    (blank.stack.wf = true ∧ blank.stack.uncorr = [] ∧ blank.stack.single = []) ∧
    ((waitingRead.memCh 0).slots.map fun q => q.write) = [false, true] ∧
    (faulty.beyondCode (faulty.regs.placed 1024 / 64) 1024 = true ∧ faulty.host.events.length < 1024) := by decide +kernel

/-- Channel 200 with a lane that met 64 errors within a second, marked or not, and retirement enabled or not. -/
def worn (mark : Option Nat) (enable : Nat) : State :=
  ({ poweredAt 4000 with regs := RegFile.set [] Reg.MEM_RETIRE_CTL_ENABLE enable }).setMemCh 200 { MemCh.reset with
    mark := mark
    due := [3] }

theorem witness_LanesAndChannels :
    ((worn none 0).memCh 200).mark = none ∧ NSet.has ((worn none 0).memCh 200).due 3 = true ∧
    (let e : List (Nat × Nat) := List.replicate 63 (5, 3)
     63 ≤ (e.filter fun x => decide (1000000004 < x.1 + 1000000000) && x.2 == 3).length ∧
      15 ≤ ((e.map Prod.fst).filter fun t => decide (1000000004 < t + 1000000000)).length) ∧
    (let s : State := { blank with regs := regsOf [(Reg.MEM_RETIRE_STATUS_USED, 0, 1), (Reg.MEM_RETIRE_STATUS_STACK, 0, 1),
      (Reg.MEM_RETIRE_STATUS_CHANNEL, 0, 72)] }
     s.chanRetired 200 = true) ∧
    (∀ e ∈ [0, 1], let s := worn (some 5) e
      let c := s.memCh 200
      s.chanRetired 200 = false ∧ c.mark = some 5 ∧ (∃ l ∈ c.due, l ≠ 5) ∧ s.regs.flag Reg.MEM_RETIRE_CTL_ENABLE = (e == 1) ∧
        s.regs.flag Reg.MEM_RETIRE_STATUS_USED = false) ∧
    (locate 0x1200).chan = 6 ∧
    (let s : State := { poweredAt 4000 with mem := { (poweredAt 0).mem with poisoning := true } }
     s.mem.poisoning = true ∧ s.mem.selfRefresh = false ∧ s.mem.off = false ∧
      Tbl.get s.mem.refreshed 0 (200 * 16 + 15) + 3900 ≤ s.now) := by decide +kernel

theorem witness_TemperatureAndScrub :
    (tempBounds[0]? = some 85 ∧ (85 : Nat) ≤ 85 ∧ (83 : Nat) + 2 ≤ 85 ∧ ((0 : Nat) < 1 ∧ (85 : Nat) < 84 + 2) ∧
      ((0 : Nat) ≤ 0 ∧ (84 : Nat) < 85)) ∧ (∀ k, Tbl.get (poweredAt 0).mem.lastTemp 0 k < 256) ∧
    (∀ t ∈ [50, 110], (List.replicate 12 t).length = 12 ∧ (∀ x ∈ List.replicate 12 t, x < 256)) ∧
    (poweredAt 0).now < (poweredAt 0).mem.scrubbed + (poweredAt 0).regs.scrubInterval ∧
    (let s := poweredAt 10000000
     s.mem.lastTemp = [] ∧ s.fab.trip = none ∧ s.regs.flag Reg.SAF_SAFE_STATUS_ACTIVE = false ∧ s.scrubMay = true ∧
      s.mem.scrubbed + s.regs.scrubInterval ≤ s.now ∧ s.mem.selfRefresh = false ∧ s.mem.off = false ∧
        s.regs.get Reg.MEM_SCRUB_STATUS_POSITION ≠ 2097151) ∧
    (∀ b ∈ [true, false], let s : State := { poweredAt 0 with stack :=
        if b then { Mem.empty with uncorr := [1] } else { Mem.empty with single := [1] } }
      s.inScrub (s.stack.uncorr ++ s.stack.single) = [1] ∧ s.beyondCode 1 64 = b ∧
        s.regs.get Reg.MEM_RETIRE_STATUS_USED = 0) := by
  refine ⟨?_, fun _ => show 0 < 256 from Nat.zero_lt_succ 255, ?_, ?_, ?_, ?_⟩ <;> decide +kernel

/-- A module whose generators of channel 5 are selected, locked or not, with a run of an operation under way or none. -/
def generating (lock : Bool) (op : Nat) (running : Bool) : State :=
  ({ poweredAt 0 with regs := (RegFile.set [] Reg.MEM_TG_SEL_CHANNEL 5).setFlag Reg.HIF_DEV_CTL_ENABLE lock }).setMemCh 5
    { MemCh.reset with gen := { Gen.reset with
        running := running
        last := 1
        ctl := 2 * op + 256 } }

theorem witness_TrafficGenerators :
    (∀ lock ∈ [true, false], let s := generating lock 0 false
      5 ∈ s.tgChannels ∧ (s.memCh 5).gen.running = false ∧ s.locked = lock ∧ s.chanRetired 5 = false) ∧ bitsOf 0x60 6 5 = 3 ∧
    bitsOf 0x101 6 5 ≠ 3 ∧
    (∀ op ∈ [0, 1, 2], ((generating false op true).memCh 5).gen.running = true ∧
      ((generating false op true).memCh 5).gen.op = op) := by
  decide +kernel

/-! ### Stelys links -/

/-- A data flit of a link, with a payload of zeros. -/
def dataFlit (seq ack : Nat) : List Byte := flitSeal (flitBody ⟨0, flitData, seq, ack, 0, 0, 0⟩ (List.replicate 242 0))

theorem witness_FlitsAndPacketsReadBack :
    ((⟨7, 3, 65535, 65535, 7, 31, 7⟩ : FlitHeader).vc < 8 ∧ (List.replicate 242 (0 : Byte)).length = 242) ∧
    (let p := packetIn 5 PK.write 4096 64 3 1 1 true (List.replicate 64 9)
     p.dst < 2 ^ 20 ∧ p.src < 2 ^ 20 ∧ p.hop < 32 ∧ p.kind < 16 ∧ p.addr < 2 ^ 44 ∧ p.len ≤ 4096 ∧
      p.data.length = dataLen p.kind p.len ∧ p.tid < 2 ^ 16 ∧ p.tseq < 2 ^ 32 ∧ p.poison < 2 ^ 64 ∧ p.crc < 2 ^ 64 ∧
        p.rsv < 2 ^ 33) ∧
    (let p := packetIn 5 PK.readReq 4096 4096 3 1 1 true []
     p.data.length = dataLen p.kind p.len) := by decide +kernel

/-- A flit of a small packet. -/
def aFlit : TxFlit := ⟨0, 1, leBytes 8 5, ctrlIn [], 0⟩

/-- Link 0 up to rank 5 with its record as given. -/
def linkOf (x : LinkSt) : State := linked.setLink 0 x

theorem witness_FlitSlots :
    (∀ x ∈ [{ LinkSt.reset with
          resend := [7]
          replay := [⟨7, 7, aFlit, 0, 0⟩] },
        { LinkSt.reset with injHold := [(⟨7, 7, aFlit, 0, 0⟩, true)] },
        { LinkSt.reset with lctrl := [leBytes 1 lcPark] },
        { LinkSt.reset with txq := [(3, [aFlit])] },
        LinkSt.reset],
      let d := (linkOf x).drainCtrl
      d.linkLive 0 = true ∧ (d.link 0).injStopped = false ∧ d.link 0 = x) ∧
    (∀ n ∈ [0, 6, 7], let e : Replay := ⟨7, 7, aFlit, 0, n⟩
      (if n = 7 then 8 ≤ e.resends + 1 else e.resends + 1 ≤ 7) ∧
        ({ LinkSt.reset with
          resend := [7]
          replay := [e] } : LinkSt).toResend = some e) ∧
    (let x : LinkSt := { LinkSt.reset with txq := [(3, [aFlit])] }
     x.toResend = none ∧ x.replay.length < 16384 ∧ x.vcOrder = [VC.time, VC.ctrl, VC.handcart, 1, 2] ++ 3 :: [4, 0] ∧
      (∀ w ∈ [VC.time, VC.ctrl, VC.handcart, 1, 2], Tbl.get x.txq [] w = []) ∧ x.creditPool 3 aFlit.hop = some 0) ∧
    LinkSt.reset.toResend = none ∧ LinkSt.reset.nextFlit = none ∧ linked.injMode 0 = 0 := by decide +kernel

theorem good_flit (h : FlitHeader) (p : List Byte) : flitGood (flitSeal (flitBody h p)) = true :=
  flitGood_seal _ (flitBody_length h p)

theorem witness_FlitsArrive :
    linked.linkLive 0 = true ∧ flitGood [] = false ∧ flitGood (dataFlit 0 0) = true ∧
    (headerOf (leNat ((dataFlit 9 4).take 6))).type = 1 ∧
    (∀ m ∈ [(lcPark, leBytes 1 lcPark), (lcLane, laneMessage 7), (lcRank, rankMessage 5), (lcTrain, trainMessage 1 15 5)],
      let f := flitSeal (flitBody ⟨0, flitLctrl, 0, 0, 0, 0, 0⟩ m.2)
      flitGood f = true ∧ (headerOf (leNat (f.take 6))).type = 2 ∧ leNat (((f.drop 6).take 242).take 1) = m.1) ∧
    (let f := flitSeal (flitBody ⟨0, flitIdle, 0, 0, 0, 0, 0⟩ [])
     flitGood f = true ∧ (headerOf (leNat (f.take 6))).type = 0) ∧
    ((0 : Nat) = LinkSt.reset.rxNext ∧ 2 ^ 15 ≤ seqAfter 65535 LinkSt.reset.rxNext ∧ seqAfter 3 LinkSt.reset.rxNext < 2 ^ 15 ∧
      (∀ seq ∈ [1, 16], seq ≠ LinkSt.reset.rxNext ∧ seqAfter seq LinkSt.reset.rxNext ≤ 16) ∧ LinkSt.reset.held = [] ∧
      LinkSt.reset.missing = []) ∧
    (let x : LinkSt := { LinkSt.reset with
        missing := [(4, 0)]
        replay := [⟨7, 7, aFlit, 0, 0⟩] }
     let s := { linkOf x with time := { TimeSt.reset with ns := 50000 } }
     ((s.link 0).missing.filter fun e => decide (e.2 + 25000 ≤ s.now)).map Prod.fst = [4] ∧
      (s.link 0).replay.head? = some ⟨7, 7, aFlit, 0, 0⟩ ∧ (s.link 0).ackSince + 50000 ≤ s.now ∧ 7 ∉ (s.link 0).resend) := by
  refine ⟨?_, ?_, good_flit _ _, ?_, fun m h => ⟨good_flit _ _, ?_⟩, ⟨good_flit _ _, ?_⟩, ?_, ?_⟩
  case refine_4 => revert m; decide +kernel
  all_goals decide +kernel

/-- A LINK_FINAL of rank 5 for a link, with SEQ 3. -/
def finalIn (n : Nat) : Packet := ctrlIn (linkFinalData n 3)

/-- Link 1 down since time 0, with a packet held; its neighbour is rank 5. -/
def downLink : State :=
  let s := { linked with regs := linked.regs.setAt Reg.LNK_LINK_STATUS_PEER_RANK 1 5 }
  s.setLink 1 { LinkSt.reset with
    downSince := some 0
    downHeld := [(4, 0, ctrlIn [])] }

theorem witness_LinksGoDownAndReturn :
    (let s := { linked with time := { TimeSt.reset with ns := 10000 } }
     s.linkLive 0 = true ∧ (s.link 0).goodSince + 10000 ≤ s.now) ∧ (linked.link 0).unsent = [] ∧
      (linked.link 0).early = none ∧
    (∀ n ∈ [0, 1], let p := finalIn n
     let s := (hasArrived downLink p).setRegAt Reg.LNK_LINK_STATUS_PEER_RANK 0 5
     (s.arrived 0 (fun p => p.isCtrl s.rank CT.linkFinal) = some ⟨5, p, [0], 0⟩ ∧ p.good = true) ∧
      leNat ((p.data.drop 1).take 1) = n ∧ leNat ((p.data.drop 2).take 2) = 3 ∧
      s.regs.getAt Reg.LNK_LINK_STATUS_PEER_RANK n = p.src ∧ s.linkLive n = (n == 0) ∧
      ((s.consume 0 ⟨5, p, [0], 0⟩).link 1).downSince = some 0 ∧ s.now ≤ 0 + 1000000) ∧
    (∀ src ∈ [0, 9], let p := { ctrlIn [] with
        dst := 5
        src := src }
      (p.src = linked.rank ∨ linked.routeUp p.dst ≠ []) ∧ (src = 9 → p.src ≠ blank.rank ∧ blank.routeUp p.dst = [])) ∧
    (let s := { downLink with time := { TimeSt.reset with ns := 1000000 } }
     (s.link 1).downSince = some 0 ∧ 0 + 1000000 ≤ s.now) ∧
    (let s := { linked with regs := linked.regs.setAt Reg.LNK_LINK_STATUS_LANES 0 15 }
     s.linkLive 0 = true ∧ ∀ lane < 4, bitOf (s.regs.getAt Reg.LNK_LINK_STATUS_LANES 0) lane = true) ∧
    (∀ st ∈ [0, 1], let s := (poweredAt 0).setRegAt Reg.LNK_LINK_STATUS_STATE 0 st
     s.linkState 0 = st ∧ s.host.descs = [] ∧ s.stepState < 2 ∧ s.fab.powered = true ∧ s.fab.parked = false ∧
       s.fab.trip = none ∧ (s.link 0).injStopped = false ∧
      (s.link 0).injLane = none ∧ (15 : Nat) < 16 ∧ 2 ≤ lanesOn 15) ∧
    (∀ st ∈ [0, 1], ((poweredAt 0).setReg Reg.HIF_DEV_STATUS_STATE st).regs.get Reg.HIF_DEV_STATUS_STATE = st) ∧
    (let s := { linked with
       regs := linked.regs.setAt Reg.LNK_LINK_ERR_RETRANS 0 65537
       time := { TimeSt.reset with ns := 1000000000 } }
     s.host.events.length + 32 ≤ 1024 ∧ linked.now < linked.net.rateAt + 1000000000 ∧ s.net.rateAt + 1000000000 ≤ s.now ∧
       65536 < s.regs.getAt Reg.LNK_LINK_ERR_RETRANS 0 - Tbl.get s.net.retrans 0 0) := by
  decide +kernel

/-- Link 0 up with injection of a mode on every DATA flit. -/
def injecting (mode stage : Nat) : State :=
  { linked with regs := regsOf [(Reg.LNK_LINK_STATUS_STATE, 0, 2), (Reg.LNK_INJ_PERMIT_LINKS, 0, 1), (Reg.LNK_INJ_CTL_MODE, 0,
    mode),
      (Reg.LNK_INJ_CTL_BY_PATTERN, 0, 1), (Reg.LNK_INJ_CTL_STAGE, 0, stage)] }

theorem witness_FaultInjection :
    (∀ m < 6, bitsOf (8 + m) 2 0 = m) ∧ linked.injArmed 0 = false ∧
    bitOf ((injecting 1 0).regs.get Reg.LNK_INJ_PERMIT_LINKS) 0 = true ∧
    (bitOf (linked.regs.get Reg.LNK_INJ_PERMIT_LINKS) 0 = false ∧ linked.locked = false ∧
      (linked.setFlag Reg.HIF_DEV_CTL_ENABLE true).locked = true ∧
      bitOf ((linked.setFlag Reg.HIF_DEV_CTL_ENABLE true).regs.get Reg.LNK_INJ_PERMIT_LINKS) 0 = false) ∧
    (∀ c ∈ [(1, 0), (2, 0), (2, 1)], let s := injecting c.1 c.2
      let a := (s.link 0).assign aFlit 0 [] s.now
      (s.select 0 a.2 aFlit.vc a.1.seq).1 = true ∧ s.injMode 0 = c.1 ∧ s.regs.getAt Reg.LNK_INJ_CTL_STAGE 0 = c.2) := by
  decide +kernel

/-- A write of 64 bytes of rank 5 to stacked byte 4096, one to no address, one of a reserved kind, and one whose CRC fails. -/
def writeIn (kind window : Nat) (good : Bool) : Packet :=
  let p := packetIn 5 kind (window * 2 ^ 40 + 4096) 64 3 0 0 true (List.replicate 64 9)
  if good then p else { p with crc := p.crc ^^^ 1 }

/-- A transaction of channel 18 with rank 5. -/
def awaiting (read : Bool) : State :=
  { linked with net := { linked.net with txns := [⟨3, 0, 1, 5, .xfer 18 0 0, read, 1, 0, 64⟩] } }

/-- A packet on its way to rank 5, with a hop class. -/
def transitIn (hop : Nat) : Packet := { packetIn 9 PK.write 4096 64 3 0 0 true (List.replicate 64 9) with
  dst := 5
  hop := hop }

theorem witness_PacketsArrive :
    (∀ p ∈ [writeIn 10 1 true, writeIn 0 1 true, writeIn 0 3 true, writeIn 0 1 false],
      let s := hasArrived linked p
      s.arrived 0 (fun p => p.dst == s.rank && (p.kind == PK.write || decide (10 ≤ p.kind))) = some ⟨5, p, [0], 0⟩) ∧
    ((writeIn 0 1 true).good = true ∧ (writeIn 0 1 false).good = false ∧
      linked.judge ⟨[0, 1], true⟩ (linked.rank * 2 ^ 44 + (writeIn 0 1 true).addr) 64 = none ∧
      linked.memOpen (addrOffset (linked.rank * 2 ^ 44 + (writeIn 0 1 true).addr)) 64 = true ∧
      linked.peerWaits (writeIn 0 1 false) = false ∧
      (hasArrived { linked with mem := { linked.mem with selfRefresh :=
        true } } (writeIn 0 1 true)).peerWaits (writeIn 0 1 true) = true ∧
      linked.judge ⟨[0, 1], true⟩ (linked.rank * 2 ^ 44 + (writeIn 0 3 true).addr) 64 ≠ none) ∧
    (∀ e ∈ [0, 1], let p := packetIn 5 PK.wack 0 1 3 0 0 true (leBytes 1 e)
      let s := hasArrived (awaiting false) p
      s.arrived 0 (fun q => q.kind == PK.wack && q.dst == s.rank) = some ⟨5, p, [0], 0⟩ ∧ p.good = true ∧
        ((s.txn p.tid p.tseq).map fun t => (t.read, t.rank, t.owner)) = some (false, p.src, .xfer 18 0 0) ∧
          leNat (p.data.take 1) = e) ∧
    (let p := packetIn 5 PK.readReq (2 ^ 40 + 4096) 64 3 0 0 true []
     let s := hasArrived linked p
     s.arrived 0 (fun q => q.kind == PK.readReq && q.dst == s.rank) = some ⟨5, p, [0], 0⟩ ∧ p.good = true ∧
      s.peerWaits p = false ∧ s.judge ⟨[0, 1], true⟩ (s.rank * 2 ^ 44 + p.addr) p.len = none) ∧
    (let p := packetIn 5 PK.readResp 0 64 3 0 0 true (List.replicate 64 9)
     let s := hasArrived (awaiting true) p
     s.arrived 0 (fun q => q.kind == PK.readResp && q.dst == s.rank) = some ⟨5, p, [0], 0⟩ ∧ p.good = true ∧
      ((s.txn p.tid p.tseq).map fun t => (t.read, t.rank, t.owner)) = some (true, p.src, .xfer 18 0 0) ∧ p.len ≠ 0 ∧
        s.respWaits p = false) ∧
    (let s := hasArrived blank (transitIn 0)
     s.arrived 0 (fun p => p.dst != s.rank) = some ⟨5, transitIn 0, [0], 0⟩ ∧ s.routeUp 5 = [] ∧ (transitIn 0).src ≠ s.rank) ∧
    (∀ hop ∈ [15, 16], let s := hasArrived linked (transitIn hop)
      s.arrived 0 (fun p => p.dst != s.rank) = some ⟨5, transitIn hop, [0], 0⟩ ∧ (transitIn hop).hop = hop ∧ s.routeUp 5 ≠ []) ∧
    (let p := packetIn 5 PK.unreachable 0 6 3 0 0 true (leBytes 1 0 ++ leBytes 4 5 ++ leBytes 1 9)
     let s := hasArrived linked p
     s.arrived 0 (fun q => q.kind == PK.unreachable && q.dst == s.rank) = some ⟨5, p, [0], 0⟩ ∧ p.good = true ∧
      leNat (p.data.take 1) ∈ [0, 1, 5, 6]) := by
  and_intros <;> decide +kernel

/-- A ROUTE_LOAD of stacked byte 2^20 without exceptions, or a ROUTE_ARM for step 9. -/
def routing (op : Nat) (taken : Bool) : State :=
  let d := ringDesc op (leBytes 8 (if op = 0x20 then 2 ^ 40 + 2 ^ 20 else 9) ++ leBytes 2 0)
  withDesc { d with taken := taken } (poweredAt 0)

/-- With no routes the route check passes. -/
theorem empty_bank_passes (s : State) (self : Nat) (peers : List (Nat × List (Nat × Nat))) (rankOf : Nat → Nat) :
    s.routeCheck [] self peers rankOf = none := by
  rw [State.routeCheck, no_loop]
  show (if routeLinks (routeEntry [] self self) = 0 then none else some (St.cfgDupRank, self)) = none
  rw [no_route, if_pos (by decide)]

theorem witness_RouteTables :
    (let s := routing 0x20 false
     s.net.loading = none ∧ (s.ready 1 0 0x20).map (fun d => [d.n 0 8, d.n 8 2]) = some [2 ^ 40 + 2 ^ 20, 0] ∧
      (s.ready 1 0 0x20).map (fun d => (d.eval, s.host.stuck d.unit)) = some (false, false) ∧
      s.judge .image (2 ^ 40 + 2 ^ 20) (8 * 2048) = none ∧ s.localOpen (2 ^ 40 + 2 ^ 20) (8 * 2048) = true) ∧
    (let g := ((routing 0x20 false).take 1 0).fetch noView (2 ^ 40 + 2 ^ 20) (8 * 2048)
     g.err = false ∧ g.poison = false) ∧
    (let d := ringDesc 0x20 (leBytes 8 (2 ^ 41 + 4096) ++ leBytes 2 0)
     let s := withDesc d { poweredAt 0 with
       regs := regsOf [(Reg.HIF_HWIN_SIZE_PAGES, 0, 100), (Reg.HIF_HWIN_SIZE_VALID, 0, 1)] }
     s.judge .image (d.n 0 8) (8 * 2048) = none ∧ s.localOpen (d.n 0 8) (8 * 2048) = true ∧
      ((s.take 1 0).fetch (failing 4096) (d.n 0 8) (8 * 2048)).err = true) ∧
    (let s := { routing 0x20 true with net := { NetSt.reset with loading := some (1, 0, 0x0000, []) } }
     s.net.loading = some (1, 0, 0x0000, [])) ∧
    (let s := routing 0x21 false
     s.working 1 0 0x21 = none ∧
       (s.ready 1 0 0x21).map (fun d => (s.host.stuck d.unit, d.eval, d.n 0 8)) = some (false, false, 9) ∧ s.stepNow = none) ∧
    (let s := routing 0x21 true
     ((s.working 1 0 0x21).map fun d => d.n 0 8) = some 9 ∧ s.answered s.net.peersNext = true) ∧
    (let p := ctrlIn (leBytes 1 CT.probe ++ leBytes 1 0 ++ leBytes 2 0)
     let s := hasArrived linked p
     (s.arrived 0 (fun q => q.isCtrl s.rank CT.probe) = some ⟨5, p, [0], 0⟩ ∧ p.good = true) ∧
       leNat ((p.data.drop 1).take 1) = 0) := by
  and_intros <;> decide +kernel

/-! ### Time -/

/-- Link 0 up, device time running, the time block in a state. -/
def timing (st : Nat) : State :=
  { linked with
    regs := linked.regs.set Reg.TIM_STATUS_STATE st
    time := { TimeSt.reset with
      ns := 2000000000
      wasLocked := true } }

/-- A SYNC of rank 5: it left at instant 3·2^32, and echoes stamps. -/
def syncIn : Packet :=
  packetIn 5 PK.time 0 64 0 0 0 true (leBytes 1 1 ++ leBytes 1 0 ++ leBytes 1 2 ++ leBytes 1 0 ++ leBytes 4 5 ++
    instantBytes (3 * 2 ^ 32) ++
    instantBytes (2 ^ 32) ++ instantBytes (2 * 2 ^ 32) ++ List.replicate 20 0)

theorem witness_TimeSources :
    (linked.linkLive 0 = true ∧ linked.timeState ≠ 4 ∧ (255 : Nat) < 256 ∧ (2 ^ 95 : Nat) + 255 % 256 * 2 ^ 24 < 2 ^ 96) ∧
    ((hasArrived linked syncIn).arrived 0 (fun q => q.kind == PK.time && q.dst == linked.rank) = some ⟨5, syncIn, [0], 0⟩ ∧
      syncIn.good = true ∧ instantOf (syncIn.data.drop 20) ≠ 0) ∧
    ((timing 1).locked = false ∧ (timing 1).time.frac < 2 ^ 32 ∧ ((timing 1).setFlag Reg.HIF_DEV_CTL_ENABLE true).locked = true ∧
      (timing 1).timeState = 1 ∧ ({ (timing 1).boot with ovenWarm := true } : BootSt).ovenWarm = true ∧
      ((-20 : Int) * 2 ^ 32).natAbs ≤ 20 * 2 ^ 32) ∧
    (∀ st ∈ [0, 2, 3], (timing st).timeState = st ∧ (timing st).isGm = false ∧ (timing st).time.parent ≠ some 0 ∧
      ((timing st).setFlag Reg.TIM_STATUS_GM true).isGm = true) ∧
    (∀ m ∈ [2, 3], let s := (timing 1).setLinkTime 0 ⟨true, 1, 0, 2, 5, 0, 0, 0, m⟩
      (s.linkTime 0).valid = true ∧ (s.linkTime 0).missed = m) ∧
    ({ (timing 1).time with parent := some 0 } : TimeSt).parent = some 0 ∧
    (∀ st ∈ [1, 2], let s := ((timing st).setFlag Reg.TIM_SRC_CTL_EXT_EN true).setFlag Reg.TIM_STATUS_EXT_LOCKED (st == 2)
      s.regs.flag Reg.TIM_SRC_CTL_EXT_EN = true ∧ s.timeState ≠ 4 ∧ s.time.pps + 1 < 16) ∧
    16 ≤ ({ (timing 1).time with pps := 15 } : TimeSt).pps + 1 ∧
    (let s := (((timing 2).setFlag Reg.TIM_SRC_CTL_EXT_EN true).setFlag Reg.TIM_STATUS_EXT_LOCKED true).setFlag Reg.TIM_STATUS_GM
      true
     s.regs.flag Reg.TIM_SRC_CTL_EXT_EN = true ∧ s.regs.flag Reg.TIM_STATUS_EXT_LOCKED = true ∧ s.isGm = true ∧
       s.timeState = 2) := by
  and_intros <;> decide +kernel

theorem witness_TimeService :
    (linked.locked = false ∧ (linked.setFlag Reg.HIF_DEV_CTL_ENABLE true).locked = true ∧
      (linked.setReg Reg.TIM_PAGE_VALID 1).regs.flag Reg.TIM_PAGE_VALID = true ∧ recording.host.msixOn = true) ∧
    ({ linked.host with ptmOn := true } : HostSt).ptmOn = true ∧
    ((timing 2).setReg Reg.TIM_SRC_CTL_PTP_ROLE 1).regs.get Reg.TIM_SRC_CTL_PTP_ROLE = 1 ∧
    ((timing 2).setReg Reg.TIM_SRC_CTL_PTP_ROLE 1).timeState = 2 ∧
    (∀ ext ∈ [true, false], let s := ((timing 1).setReg Reg.TIM_SRC_CTL_PTP_ROLE 2).setFlag Reg.TIM_SRC_CTL_EXT_EN ext
     let s := s.setLinkTime 0 ⟨true, 0, 0, 2, 5, 0, 0, 0, 0⟩
     s.regs.get Reg.TIM_SRC_CTL_PTP_ROLE = 2 ∧ s.locked = false ∧ s.regs.flag Reg.TIM_SRC_CTL_EXT_EN = ext ∧ s.timeState ≠ 0 ∧
       ((({ s.setReg Reg.TIM_SRC_CTL_TAI_UTC 37 with time := { s.time with ns := 0 } }).setFlag Reg.TIM_STATUS_SECONDS_SET
         true).leads) = false) ∧
    (let s := ((timing 2).setReg Reg.TIM_SRC_CTL_PTP_ROLE 2).setFlag Reg.HIF_DEV_CTL_ENABLE true
     s.regs.get Reg.TIM_SRC_CTL_PTP_ROLE = 2 ∧ s.locked = true ∧ s.regs.flag Reg.TIM_SRC_CTL_EXT_EN = false) ∧
    (blank.pending = [] ∧ blank.fab.powered = false) ∧ ((poweredAt 9).pending = [] ∧ (poweredAt 9).fab.powered = true ∧
      (poweredAt 9).fab.limiter = false ∧
      (poweredAt 9).time.frac < 2 ^ 32 ∧ (poweredAt 9).time.ns * 2 ^ 32 + (poweredAt 9).time.frac + 2 ^ 32 + 42949 < 2 ^ 96) := by
  decide +kernel

/-! ### Attestation and management -/

/-- A powered module whose link runs, with an SPDM connection at a stage, its identity confirmed or not. -/
def answering (stage : Nat) (ok : Bool) : State :=
  { poweredAt 0 with
    regs := (RegFile.set [] Reg.HIF_DEV_STATUS_RATE 5).setFlag Reg.BOOT_STATUS_IDENTITY_OK ok
    boot := { BootSt.reset with spdm := stage } }

/-- A request of SPDM 1.2 with a code, of `n` bytes. -/
def request (code n : Nat) : List Byte := spdmHead (if code = 0x84 then 0x10 else 0x12) code 0 0 ++ List.replicate (n - 4) 0

theorem witness_Attestation :
    (∀ c ∈ [(0x84, 4), (0xE1, 20), (0xE3, 32), (0x81, 4), (0x82, 8), (0x83, 36), (0xE0, 37)],
      let q := request c.1 c.2
      msgByte q 0 = (if c.1 = 0x84 then 0x10 else 0x12) ∧ msgByte q 1 = c.1 ∧ c.2 ≤ q.length ∧ msgByte q 2 % 16 = 0 ∧
        msgByte q 3 = 0) ∧
    (∀ k < 4, ∀ ok ∈ [true, false], (answering k ok).doeReady = true ∧ (answering k ok).boot.spdm = k ∧
      (answering k ok).regs.flag Reg.BOOT_STATUS_IDENTITY_OK = ok) ∧
    (let s := (poweredAt 0).setReg Reg.BOOT_STATUS_STAGE 4
     s.fab.powered = true ∧ s.regs.get Reg.BOOT_STATUS_STAGE = 4) ∧
    (let q := spdmHead 0x12 0xE0 1 0 ++ List.replicate 33 0
     msgByte q 0 = 0x12 ∧ msgByte q 1 = 0xE0 ∧ 37 ≤ q.length ∧ bitOf (msgByte q 2) 0 = true) := by
  refine ⟨?_, ?_, ?_, ?_⟩ <;> decide +kernel

/-! ### Steps -/

/-- A STEP_ARM body: step number, release time, micro-batches, flags and the ids admitted, its record at host window 0. -/
def armBody (n release mbs flags first count : Nat) : List Byte :=
  leBytes 8 n ++ leBytes 8 release ++ leBytes 16 0 ++ leBytes 8 (2 * 2 ^ 40) ++ leBytes 3 mbs ++ leBytes 1 flags ++
    leBytes 2 first ++ leBytes 2 count

/-- A module with host window 0 of 100 pages, token limits and bucket 2, at device time 50. -/
def stepReady : State :=
  { poweredAt 50 with
    regs := regsOf [(Reg.HIF_HWIN_SIZE_PAGES, 0, 100), (Reg.HIF_HWIN_SIZE_VALID, 0, 1), (Reg.TRN_LIMITS_MAX_TOKENS, 0, 64),
      (Reg.TRN_BUCKET_VALID, 2, 1), (Reg.TRN_BUCKET_LEN, 2, 48)] }

def arming (b : List Byte) : State := withDesc (ringDesc 0x10 b) stepReady

/-- A step that is armed, of number 9, for time 40, with ids 4 to 6. -/
def armedCfg : StepCfg := arming (armBody 9 40 3 0 4 3) |>.armCfg (ringDesc 0x10 (armBody 9 40 3 0 4 3))

/-- The module with a descriptor, that step armed, and an INT32 tensor of 64 elements described at stacked byte 0. -/
def armedState (op : Nat) (b : List Byte) : State :=
  let s := withDesc (ringDesc op b) stepReady
  { s with
    step := { StepSt.reset with armed := some armedCfg }
    stack := Mem.empty.writeRaw 0 (tensorBytes (2 ^ 40 + 4096) Fmt.int32.code 32 0 64) false }

/-- An MB_ADMIT of id 5 with its tokens, for the step `n`. -/
def admitBody (n tokens : Nat) : List Byte := leBytes 8 (2 ^ 40) ++ leBytes 8 n ++ leBytes 4 5 ++ leBytes 4 tokens ++ leBytes 1 2

/-- An MB_DROP of two ids from 5 on, for the step `n`. -/
def mbDropBody (n cause : Nat) : List Byte := leBytes 8 n ++ leBytes 4 5 ++ leBytes 4 2 ++ leBytes 1 cause

theorem any_view (v : HostView) (hd : v.poison = []) (hf : v.failRead = []) (a n : Nat) :
    viewFails v a n = false ∧ ((List.range n).map fun i => viewByte v (a + i)).any Prod.snd = false := by
  constructor
  · simp [viewFails, hf, NSet.has]
  · simp [viewByte, hd, NSet.has]

/-- A structure in a host window is read whole when nothing fails. -/
theorem readStruct_host (s : State) (v : HostView) (a n : Nat) (hd : v.poison = []) (hf : v.failRead = [])
    (hr : addrRank a = s.rank) (hw : addrWindow a = 2) :
    s.readStruct v a n = (.ok (((List.range n).map fun i => viewByte v (s.hostAddr (addrOffset a) + i)).map Prod.fst), s) := by
  have h := any_view v hd hf (s.hostAddr (addrOffset a)) n
  simp only [State.readStruct, State.fetch, State.get, hr, hw, if_true, Got.poison, Got.data, h.1, h.2, Bool.false_eq_true,
    if_false]

/-- A replay of step 0, whose original record reads as zeros. -/
def replaying : State :=
  let s := arming (armBody 0 40 3 2 4 3)
  { s with regs := s.regs.set Reg.TRN_REPLAY_REF_ADDR (2 * 2 ^ 40) }

theorem zeros_viewed (a n : Nat) : ((List.range n).map fun i => viewByte noView (a + i)).map Prod.fst =
  List.replicate n (0 : Byte) := by
  rw [List.map_map]
  exact (List.map_const' (l := List.range n) (b := (0 : Byte))).trans (by rw [List.length_range])

theorem zeros_read (n i : Nat) (h : i + 8 ≤ n) : leNat (((List.replicate n (0 : Byte)).drop i).take 8) = 0 := by
  rw [List.drop_replicate, List.take_replicate, Nat.min_eq_left (by omega)]
  rfl

/-- A replay of a step 0 of schedule 0 and data 0 reads its record where host memory reads as zeros. -/
theorem replay_ok (s : State) (c : StepCfg) (j : s.judge .hostOnly (s.regs.get Reg.TRN_REPLAY_REF_ADDR) recordBytes = none)
    (hr : addrRank (s.regs.get Reg.TRN_REPLAY_REF_ADDR) = s.rank) (hw : addrWindow (s.regs.get Reg.TRN_REPLAY_REF_ADDR) = 2)
    (c0 : c.step = 0) (c1 : c.schedule = 0) (c2 : c.dataSeed = 0) : (s.replayRecord noView c).1.isOk = true := by
  have r := readStruct_host s noView _ recordBytes rfl rfl hr hw
  rw [zeros_viewed] at r
  have z := zeros_read recordBytes
  obtain ⟨b, hb⟩ : ∃ b, b = List.replicate recordBytes (0 : Byte) := ⟨_, rfl⟩
  rw [← hb] at r z
  simp only [State.replayRecord, j, r, z 0 (by decide), z 8 (by decide), z 24 (by decide), c0, c1, c2, and_self, if_true]
  rfl

theorem witness_StepsAreArmedAndReleased_replay :
    (replaying.replayRecord noView (replaying.armCfg (ringDesc 0x10 (armBody 0 40 3 2 4 3)))).1.isOk = true := by
  apply replay_ok <;> decide +kernel

theorem witness_StepsAreArmedAndReleased :
    (∀ mbs ∈ [0, 3], ((arming (armBody 9 40 mbs 0 4 3)).ready 1 0 0x10).map
        (fun d => (d.n 40 3, (arming (armBody 9 40 mbs 0 4 3)).host.stuck d.unit)) = some (mbs, false)) ∧
    ((armedState 0x10 (armBody 9 40 3 0 4 3)).step.armed.isSome = true ∧
      ((armedState 0x10 (armBody 9 40 3 0 4 3)).ready 1 0 0x10).map (fun d => d.n 40 3) = some 3) ∧
    (∀ b ∈ [armBody 9 40 3 1 4 3, armBody 9 40 65537 0 4 3],
      (arming b).armRefusal ((arming b).armCfg (ringDesc 0x10 b)) = some 0x2053) ∧
    (let b := armBody 9 40 3 0 4 3
     (arming b).armRefusal ((arming b).armCfg (ringDesc 0x10 b)) = none ∧ ((arming b).armCfg (ringDesc 0x10 b)).replay = false ∧
      ((arming b).armCfg (ringDesc 0x10 b)).training = true ∧ (arming b).step.run = none) ∧
    (∀ flags ∈ [0, 1], let b := armBody (9 - flags) 40 3 flags 4 3
      let s := arming b
      let s := { s with regs := (s.regs.setFlag Reg.TRN_STEP_STATUS_COMMITTED_VALID true).set Reg.TRN_COMMITTED_STEP 8 }
      s.armRefusal (s.armCfg (ringDesc 0x10 b)) = none ∧ s.committed = some 8 ∧
        (s.armCfg (ringDesc 0x10 b)).training = (flags == 0)) ∧
    (let b := armBody 0 40 3 2 4 3
     replaying.armRefusal (replaying.armCfg (ringDesc 0x10 b)) = none ∧ (replaying.armCfg (ringDesc 0x10 b)).replay = true ∧
      ((arming b).replayRecord noView ((arming b).armCfg (ringDesc 0x10 b))).1.isOk = false) ∧
    (∀ tokens ∈ [0, 48, 49, 65], let s := armedState 0x11 (admitBody 9 tokens)
      ((s.ready 1 0 0x11).map fun d => [d.n 8 8, d.n 16 4, d.n 20 4, d.n 24 1 % 8]) = some [armedCfg.step, 5, tokens, 2] ∧
        ((s.ready 1 0 0x11).map fun d => (d.eval, s.host.stuck d.unit)) = some (armedCfg.eval, false) ∧ armedCfg.eval = false ∧
          s.step.armed = some armedCfg ∧ s.step.admitted = [] ∧
        armedCfg.admitFirst ≤ 5 ∧ 5 < armedCfg.admitFirst + armedCfg.admitCount ∧
        s.admitRefusal (ringDesc 0x11 (admitBody 9 tokens)) =
          (if tokens = 65 then some 0x20B0 else if tokens = 49 then some 0x2053 else none)) ∧
    (let s := armedState 0x11 (admitBody 9 48)
     ((s.tensor .local3 noView (2 ^ 40)).1.toOption.map fun t => (t.fmt, t.mode, t.elems, t.base)) =
        some (Fmt.int32.code, 0, 64, 2 ^ 40 + 4096) ∧
      s.localOpen (2 ^ 40) 64 = true ∧ s.localOpen (2 ^ 40 + 4096) (4 * 48) = true ∧
      ((s.tensor .local3 noView (2 ^ 40)).2.get noView (2 ^ 40 + 4096) (4 * 48)).err = false ∧
      ((s.tensor .local3 noView (2 ^ 40)).2.get noView (2 ^ 40 + 4096) (4 * 48)).poison = false) ∧
    (let s := { armedState 0x11 (admitBody 9 48) with stack := (armedState 0x11 (admitBody 9 48)).stack.writeRaw 4160 [1] true }
     let r := s.tensor .local3 noView (2 ^ 40)
     s.admitRefusal (ringDesc 0x11 (admitBody 9 48)) = none ∧ s.localOpen (2 ^ 40) 64 = true ∧
      s.localOpen (2 ^ 40 + 4096) (4 * 48) = true ∧ (r.1.toOption.map fun t => t.base) = some (2 ^ 40 + 4096) ∧
      (r.2.get noView (2 ^ 40 + 4096) (4 * 48)).err = false ∧ (r.2.get noView (2 ^ 40 + 4096) (4 * 48)).poison = true) ∧
    (∀ n ∈ [8, 9], let s := armedState 0x2C (mbDropBody n 3)
      ((s.ready 1 0 0x2C).map fun d => (d.eval, s.host.stuck d.unit, [d.n 0 8, d.n 16 1])) = some (false, false, [n, 3]) ∧
        s.step.armed = some armedCfg ∧ armedCfg.step = 9) ∧
    (∀ st ∈ [1, 2], let s := (armedState 0 []).setReg Reg.TRN_STEP_STATUS_STATE st
      armedCfg.release ≤ s.now ∧ s.stepState = st ∧ s.fab.parked = false ∧ s.parkDue = false ∧ s.step.held = none) ∧
    (∀ park ∈ [1, 2], let s := ((armedState 0 []).setReg Reg.TRN_STEP_STATUS_STATE 0).setReg Reg.HIF_DEV_CTL_PARK park
      s.step.armed = some armedCfg ∧ armedCfg.release ≤ s.now ∧ s.parkDue = true ∧ s.step.held = none) ∧
        armedCfg.step < 2 ^ 64 := by
  and_intros <;> decide +kernel

/-- The module with a step of number 9 in progress in a state, from rank 0's host window. -/
def inStep (st : Nat) (eval : Bool) (d : Desc) : State :=
  let s := withDesc d (stepReady.setReg Reg.TRN_STEP_STATUS_STATE st)
  { s with
    regs := (s.regs.set Reg.TRN_STEP_NUM_STEP 9).setFlag Reg.TRN_STEP_STATUS_EVAL eval
    step := { StepSt.reset with run := some ⟨{ armedCfg with eval := eval }, 40, 0, [], [], 4, false⟩ } }

/-- A STEP_ABORT of step `n`. -/
def aborting (st n : Nat) : State := inStep st false (ringDesc 0x15 (leBytes 8 n))

theorem witness_StepsEnd :
    (∀ eval ∈ [false, true], let s := inStep 2 eval (ringDesc 1 [])
      (s.step.run.map fun x => (x.cfg.training, x.cfg.eval, addrWindow x.cfg.record)) = some (!eval, eval, 2) ∧ s.stepState = 2 ∧
        s.spansOpen (s.pgroupSpan :: (s.listSpans 0 ++ s.listSpans 1)) = true ∧
          (s.step.run.map fun x => x.cfg.replay) = some false ∧
        s.runDone = true ∧ (s.setTile 1 { Tile.reset with state := .running }).runDone = false) ∧
    (let s := inStep 5 false (ringDesc 1 [])
     let s := { s with step := { s.step with run := some ⟨{ armedCfg with replay := true }, 40, 0, [], [], 4, false⟩ } }
     s.stepState = 5 ∧ (s.step.run.map fun x => (x.cfg.eval, x.cfg.replay, addrWindow x.cfg.record)) = some (false, true, 2) ∧
      s.spansOpen (s.listSpans 1) = true ∧
      (s.setReg Reg.TRN_STEP_STATUS_STATE 2).stepState = 2 ∧ (s.setReg Reg.TRN_STEP_STATUS_STATE 2).runDone = true) ∧
    (let s := inStep 5 false (ringDesc 1 [])
     (s.step.run.map fun x => x.cfg.replay) = some false ∧ s.stepState = 5 ∧ s.commitHeld = false ∧
       s.spansOpen (s.listSpans 1) = true ∧
       (s.step.run.map fun x => (x.cfg.step, addrWindow x.cfg.record)) = some (9, 2)) ∧
    (∀ st ∈ [2, 4, 6], ((aborting st 9).ready 1 0 0x15).map (fun d => (d.eval, (aborting st 9).host.stuck d.unit,
      d.n 0 8)) = some (false, false, 9) ∧
      (aborting st 9).stepNumber = 9 ∧ (aborting st 9).stepState = st ∧ (aborting st 9).abortable = (st != 6)) ∧
    (((aborting 2 8).ready 1 0 0x15).map (fun d => (d.eval, (aborting 2 8).host.stuck d.unit, d.n 0 8)) = some (false, false,
      8) ∧ (aborting 2 8).stepNumber = 9 ∧
      (aborting 2 8).step.armed = none) ∧
    (let s := { aborting 2 10 with step := { (aborting 2 10).step with armed := some { armedCfg with step := 10 } } }
     (s.step.armed.map StepCfg.step) = some 10 ∧ s.stepState = 2 ∧ s.stepNumber = 9 ∧
      ((s.ready 1 0 0x15).map fun d => (d.eval, d.n 0 8)) = some (false, 10)) ∧
    (let s := (aborting 6 9).setTile 1 { Tile.reset with state := .loading }
     let s := { s with step := { s.step with armed := some { armedCfg with step := 10 } } }
     s.stepState = 6 ∧ (∀ t ∈ s.tiles, t.2.state = .parked ∨ t.2.state = .loading) ∧ s.tiles.length = 1 ∧
      (s.step.armed.map StepCfg.training) = some true ∧ (s.step.run.map fun x => addrWindow x.cfg.record) = some 2) ∧
    (([7, 8, 3] : List Nat).filter fun x => x % 4 == 3 % 4).head? = some 7 := by
  and_intros <;> decide +kernel

/-! ### Collectives -/

/-- A group of this module and rank 5, in slot 0 at byte 32,768, and three FP32 tensors described at bytes 0, 64 and 128: of four
elements, of two, and of four. -/
def grouped (d : Desc) : State :=
  let s := withDesc d { linked with regs := linked.regs.set Reg.LNK_COLL_BASE_BASE 1 }
  let t := fun n => tensorBytes (2 ^ 40 + 4096) 0 32 0 n
  let slot := leBytes 2 2 ++ leBytes 62 0 ++ leBytes 4 0 ++ leBytes 4 5
  { s with stack := (Mem.empty.writeRaw 0 (t 4 ++ t 2 ++ t 4) false).writeRaw 32768 slot false }

/-- A COLL of slot `g` with an operation and rounding. -/
def collBody (g op rm : Nat) : List Byte :=
  leBytes 8 (2 ^ 40) ++ leBytes 8 (2 ^ 40 + 64) ++ leBytes 8 0 ++ leBytes 4 77 ++ leBytes 1 g ++ leBytes 1 op ++ leBytes 1 rm

/-- A GATHER into queue 0 with flags, carriage 5 and micro-batches 3 and 4. -/
def gatherBody (flags : Nat) : List Byte :=
  leBytes 8 (2 ^ 40 + 64) ++ leBytes 8 (2 ^ 40) ++ leBytes 4 77 ++ leBytes 1 0 ++ leBytes 1 flags ++ leBytes 2 5 ++ leBytes 4 8 ++
    leBytes 2 3 ++ leBytes 2 2 ++ leBytes 2 0

/-- An operation of the group, started, whose ring brings these packets. -/
def someColl (kind : CollKind) (op : Nat) (got : List Nat) : Coll :=
  { ring := 1, index := 0, kind := kind, chan := none, seq := 77, group := 0, op := op, ranks := [0, 5], self := 0, present :=
    [0, 1]
    unit := 8, total := 16, src := some (Tensor.parse (tensorBytes (2 ^ 40 + 4096) 0 32 0 4))
    dst := some (Tensor.parse (tensorBytes (2 ^ 40 + 4096) 0 32 0 2)), res := none, tid := 3, started := true, heard :=
      [], got := got
    parts := [⟨0, 0, clean (leBytes 16 0)⟩], sent := false, status := 0, flags := 0, poison := false, due := [] }

def withColl (c : Coll) (s : State) : State := { s with step := { s.step with colls := [c] } }

/-- A packet of rank 5 for the operation with a sequence number. -/
def collIn (seq op : Nat) : Packet :=
  packetIn 5 PK.coll (seq + op * 2 ^ 40) 8 3 0 0 true (leBytes 8 0)

/-- A carriage that has landed whole. -/
def landed (flags k : Nat) : State :=
  let d := ringDesc 0x12 (gatherBody flags)
  let c := someColl .gather 1 [0, 1]
  let s := withColl c (grouped { d with taken := true })
  { s with step := { s.step with carriages := [(5, leNat c.carriageTag + k)] } }

theorem carriage_kept (flags k : Nat) :
    Tbl.find (landed flags k).step.carriages 5 = some (leNat (someColl .gather 1 [0, 1]).carriageTag + k) := by
  simp [landed, Tbl.find]

theorem witness_RingCollectives :
    (∀ g ∈ [0, 1], ∀ op ∈ [0, 3], let s := grouped (ringDesc 0x22 (collBody g op 0))
      (s.ready 1 0 0x22).map (fun d => (d.eval, s.host.stuck d.unit, [d.n 29 1 % 4, d.n 30 1 % 4, d.n 28 1])) =
          some (false, false, [op, 0, g]) ∧
        (s.touchStack [s.groupSpan g]).groupRefusal g = (if g = 0 then none else some 0x20A1)) ∧
    (let d := ringDesc 0x22 (collBody 0 0 0)
     let s := (grouped d).touchStack [(grouped d).groupSpan 0]
     ((s.twoTensors noView (2 ^ 40) (2 ^ 40 + 64)).1.toOption.map fun x =>
        (collShape 0 (s.groupSlot 0).p (s.groupSlot 0).self x.1 x.2).toOption) = some (some (8, 16)) ∧
      (s.twoTensors noView (2 ^ 40) (2 ^ 40 + 64)).2.collOpen (someColl .reduceScatter 0 []) = true) ∧
    (∀ kind ∈ [CollKind.reduceScatter, .allToAll, .gather],
      let s := hasArrived (withColl (someColl kind 0 []) (grouped (ringDesc 0x22 []))) (collIn 77 0)
      s.collOpen (someColl kind 0 []) = true ∧
        s.arrived 0 (fun p => p.kind == PK.coll && p.dst == s.rank && ((s.collOf p true).isSome || (s.mismatched p).isSome)) =
          some ⟨5, collIn 77 0, [0], 0⟩ ∧ (collIn 77 0).good = true ∧ s.collOf (collIn 77 0) true = some (someColl kind 0 [])) ∧
    (let c := someColl .allGather 1 []
     let s := hasArrived (withColl c (grouped (ringDesc 0x22 []))) (collIn 78 1)
     s.arrived 0 (fun p => p.kind == PK.coll && p.dst == s.rank && ((s.collOf p true).isSome || (s.mismatched p).isSome)) =
          some ⟨5, collIn 78 1, [0], 0⟩ ∧ (collIn 78 1).good = true ∧ s.collOf (collIn 78 1) true = none ∧
        s.mismatched (collIn 78 1) = some c) ∧
    (∀ flags ∈ [0, 1], let s := grouped (ringDesc 0x12 (gatherBody flags))
      (s.ready 1 0 0x12).map (fun d => (d.eval, s.host.stuck d.unit, [d.n 32 2, d.n 20 1, d.n 16 4])) = some (false, false, [0,
        0, 77]) ∧
        queueChan 0 = some 0 ∧ (s.chan 0).full = false ∧
        let s := s.touchStack [s.groupSpan 0]
        s.groupRefusal 0 = none ∧ ((s.twoTensors noView (2 ^ 40 + 64) (2 ^ 40)).1.toOption.map fun x =>
          (gatherShape (s.groupSlot 0).p (s.groupSlot 0).self x.1 x.2).toOption) = some (some (8, 16))) ∧
    (∀ flags ∈ [0, 1], ∀ k ∈ [0, 1], (landed flags k).coll 1 0 = some (someColl .gather 1 [0, 1]) ∧
      ((landed flags k).working 1 0 0x12).map (fun d => (bitOf (d.n 21 1) 0, d.n 22 2 % 4096)) = some (flags == 1, 5) ∧
      (someColl .gather 1 [0, 1]).started = true ∧ (someColl .gather 1 [0, 1]).allIn = true ∧
        (someColl .gather 1 [0, 1]).due = [] ∧
      leNat (someColl .gather 1 [0, 1]).carriageTag + 1 ≠ leNat (someColl .gather 1 [0, 1]).carriageTag) := by
  refine ⟨?_, ?_, ?_, ?_, ?_, fun flags hf k _ => ⟨rfl, ?_, rfl, ?_, rfl, Nat.succ_ne_self _⟩⟩
  case refine_6 =>
    have h : ∀ flags ∈ [0, 1], ((grouped { ringDesc 0x12 (gatherBody flags) with taken := true }).working 1 0 0x12).map
        (fun d => (bitOf (d.n 21 1) 0, d.n 22 2 % 4096)) = some (flags == 1, 5) := by decide +kernel
    exact h flags hf
  all_goals decide +kernel

/-- A step running with an operation `c` of the group and its descriptor of `op`, at work; `n` drops in its mask. -/
def exchanging (op : Nat) (b : List Byte) (taken : Bool) (c : List Coll) (n : Nat) : State :=
  let d := ringDesc op b
  let s := grouped { d with taken := taken }
  let q := ((s.regs.set Reg.TRN_STEP_STATUS_STATE 2).set Reg.TRN_STEP_NUM_STEP 9).set Reg.TRN_LIMITS_DROP_SHARE 64
  { s with
    regs := q
    step := { StepSt.reset with
      colls := c
      mask := List.range n
      run := some ⟨armedCfg, 40, 0, [], [], 4, false⟩ } }

/-- A DROP_SYNC into queue 0, with LAST or not. -/
def syncBody (flags : Nat) : List Byte := leBytes 4 77 ++ leBytes 1 0 ++ leBytes 1 flags ++ leBytes 2 0

/-- A GRAD_EXCHANGE of `n` micro-batches from 8 on, into queue 0. -/
def gradBody (enc k n : Nat) : List Byte :=
  leBytes 8 (2 ^ 40) ++ leBytes 8 0 ++ leBytes 8 (2 ^ 40 + 128) ++ leBytes 4 77 ++ leBytes 1 0 ++ leBytes 1 enc ++ leBytes 2 k ++
    leBytes 2 8 ++ leBytes 2 n ++ leBytes 2 0

/-- The group's operation with channel 0 as its queue, before it starts. -/
def atHead (kind : CollKind) : Coll := { someColl kind 3 [] with chan := some 0, started := false }

/-- A step descriptor's entry in a channel's queue. -/
def stepEntry (wait : Bool) : Xfer := ⟨0, .ring 1 0, .step wait, 0, 0, 0, [], none, false, 0, 0, none, none, false, 0, 0, 0⟩

/-- A step descriptor at the head of channel 0, whose FULL is 1. -/
def headOf (kind : CollKind) (wait : Bool) : State :=
  let s := exchanging 0x13 (syncBody 0) true [atHead kind] 0
  s.setChan 0 { Chan.reset with
    queue := [stepEntry wait]
    sem := { Sem.zero with full := 1 } }

theorem witness_DropsAndGradients :
    (∀ w ∈ [true, false], let s := headOf .dropSync w
      (s.chan 0).busy = none ∧ ((s.chan 0).queue.map fun x => (x.job, x.by_)) = [(.step w, .ring 1 0)] ∧
        s.coll 1 0 = some (atHead .dropSync) ∧ (s.host.desc 1 0).map Desc.eval = some s.evalStep ∧ s.channelFree 0 = true ∧
        s.collOpen (atHead .dropSync) = true ∧ s.stepState = 2 ∧ (s.chan 0).sem.ctr 0 ≠ 0) ∧
    (∀ n ∈ [0, 16], let s := exchanging 0x13 (syncBody 0) false [] 0
      let s := s.setChan 0 { Chan.reset with queue := List.replicate n (stepEntry false) }
      (s.ready 1 0 0x13).map (fun d => (d.eval, s.host.stuck d.unit, d.n 6 2, d.n 4 1)) = some (false, false, 0, 0) ∧
        queueChan 0 = some 0 ∧
        (s.touchStack [s.groupSpan 0]).groupRefusal 0 = none ∧ (s.chan 0).full = (n == 16)) ∧
    (∀ flags ∈ [0, 1], let s := exchanging 0x13 (syncBody flags) true [{ atHead .dropSync with started := true, got := [0] }] 0
      (s.coll 1 0).map Coll.got = some [0] ∧ (s.working 1 0 0x13).map (fun d => bitOf (d.n 5 1) 0) = some (flags == 1) ∧
        (s.endColl { atHead .dropSync with started := true, got := [0] } 0 0).frozen = false) ∧
    (∀ n ∈ [0, 1], let s := exchanging 0x13 (syncBody 0) true [] n
      s.step.run.isSome = true ∧ (s.step.mask.length * 256 ≤ s.regs.get Reg.TRN_LIMITS_DROP_SHARE * armedCfg.mbTotal ↔ n = 0)) ∧
    ((∀ i ∈ [0, 65535], i < 65536) ∧ [0, 65535].Nodup) ∧
    (∀ b ∈ [gradBody 0 0 2, gradBody 3 16 2], let s := exchanging 0x14 b false [] 0
      (s.ready 1 0 0x14).map (fun d => (d.eval, s.host.stuck d.unit, [d.n 36 2, d.n 28 1, d.n 8 8])) = some (false, false, [0,
        0, 0]) ∧
        (s.ready 1 0 0x14).map (fun d => (decide (d.n 29 1 % 8 < 5), encTopk (d.n 29 1 % 8) == (d.n 30 2 == 16),
          bitOf (d.n 29 1) 3)) =
          some (true, true, false) ∧ (s.chan 0).full = false ∧
        let s := s.touchStack [s.groupSpan 0]
        s.groupRefusal 0 = none ∧ ((s.twoTensors noView (2 ^ 40) (2 ^ 40 + 128)).1.toOption.map fun x =>
          gradFits (s.groupSlot 0).p (s.groupSlot 0).self x.1 none x.2) = some true) ∧
    (let c := { atHead .gradExchange with started := true }
     let s := (exchanging 0x14 (gradBody 0 0 2) true [c] 1).setFlag Reg.TRN_STEP_STATUS_FROZEN true
     s.coll 1 0 = some c ∧ c.sent = false ∧ s.collOpen c = true ∧ s.frozen = true ∧
      (s.working 1 0 0x14).map (fun d => [d.n 34 2, d.n 32 2]) = some [2, 8] ∧ ∀ i < 2, NSet.has s.step.mask (8 + i) = false) ∧
    (let c := { atHead .gradExchange with started := true, op := 0 }
     let s := hasArrived (exchanging 0x14 (gradBody 0 0 2) true [c] 0) (collIn 77 0)
     s.arrived 0 (fun p => p.kind == PK.coll && p.dst == s.rank && (s.step.colls.find? fun c => c.started &&
        c.kind == .gradExchange && c.addr == p.addr).isSome) = some ⟨5, collIn 77 0, [0], 0⟩ ∧ (collIn 77 0).good = true ∧
      s.collOpen c = true ∧ (s.step.colls.find? fun c => c.started && c.kind == .gradExchange &&
        c.addr == (collIn 77 0).addr) = some c) := by
  and_intros <;> decide +kernel

/-! ### The commit gate -/

/-- An enabled module, the root or a child of rank 7, with rank 5 as its child, in step 9 in a state, at 20 ms. -/
def gating (root : Bool) (st : Nat) : State :=
  let q := ((linked.regs.set Reg.HIF_DEV_STATUS_STATE 2).set Reg.TRN_STEP_STATUS_STATE st).set Reg.TRN_STEP_NUM_STEP 9
  { linked with
    regs := (q.setFlag Reg.SAF_GATE_CTL_ROOT root).set Reg.SAF_GATE_CTL_PARENT 7
    time := { TimeSt.reset with ns := 20000000 }
    gate := { GateSt.reset with
      parentHeard := 12000000
      children := [⟨5, 12000000, false, 0, 0, false⟩] }
    step := { StepSt.reset with run := some ⟨armedCfg, 40, 0, [], [], 0, false⟩ } }

/-- A vote of rank 5 for step `n`: CLEAN for two modules, or NOT_CLEAN. -/
def voteIn (clean : Bool) (n : Nat) : Packet := ctrlIn (voteData (if clean then 1 else 2) 0 5 2 n 0)

def decisionIn (commit : Bool) (n : Nat) : Packet := ctrlIn (decisionData commit n)

theorem witness_CommitGate :
    (let s := { gating false 4 with gate := { (gating false 4).gate with children := [] } }
     s.enabled = true ∧ s.gateParent = some 7 ∧ s.gate.children = []) ∧
    ((gating false 4).enabled = true ∧ (gating false 4).gateParent = some 7 ∧ (gating false 4).gate.children ≠ []) ∧
    (∀ t ∈ [20000000, 19999999], let s := (gating false 4).setReg Reg.SAF_GATE_CTL_CHILDREN 2
      let s := { s with
        gate := { s.gate with since := 12000000 }
        time := { TimeSt.reset with ns := t } }
      s.enabled = true ∧ s.gateParent ≠ some 6 ∧ s.child 6 = none ∧ s.unheard = true ∧ 6 ≠ s.rank ∧ 6 ≠ s.parentRank ∧
        s.absentNow 6 = false ∧ (s.gate.since + 8000000 ≤ s.now ↔ t = 20000000)) ∧
    ((gating true 4).enabled = true ∧ (gating true 4).gateParent = none) ∧
    (∀ t ∈ [20000000, 19999999], let s := { gating true 4 with time := { TimeSt.reset with ns := t } }
      s.enabled = true ∧ s.gateParent ≠ some 5 ∧ (s.child 5).map (fun p => (p.heard, p.lost)) = some (12000000, false) ∧
        s.absentNow 5 = false ∧ (12000000 + 8000000 ≤ s.now ↔ t = 20000000)) ∧
    (∀ alt ∈ [true, false], let s := (gating false 4).setFlag Reg.SAF_GATE_CTL_ALT_ROOT alt
      s.enabled = true ∧ s.gateParent = some 7 ∧ s.gate.parentHeard + 8000000 ≤ s.now ∧ s.gate.parentLost = false ∧
        s.regs.flag Reg.SAF_GATE_CTL_ALT_ROOT = alt) ∧
    ((gating false 4).gated = true ∧ (gating false 4).regs.get Reg.SAF_STATUS_VOTE ≠ 2 ∧
      (gating false 4).regs.flag Reg.TRN_STEP_STATUS_REPLAY = false ∧ (gating false 4).isRoot = false ∧ (4 : Nat) < 8) ∧
    (∀ root ∈ [true, false], ∀ clean ∈ [true, false], ∀ n ∈ [8, 9],
      let p := voteIn clean n
      let s := hasArrived (gating root 4) p
      let s0 := (s.consume 0 ⟨5, p, [0], 0⟩).hear 5
      s.arrived 0 (fun q => q.isCtrl s.rank CT.vote) = some ⟨5, p, [0], 0⟩ ∧ p.good = true ∧
        s0.decidable (Vote.parse p.data).step = (n == 9) ∧
        s0.gate.decided = false ∧ (s0.child 5).isSome = true ∧ (Vote.parse p.data).clean = clean ∧ s0.isRoot = root ∧
        (Vote.parse p.data).sender = 5) ∧
    (∀ commit ∈ [true, false], ∀ n ∈ [8, 9],
      let p := decisionIn commit n
      let s := hasArrived (gating false 4) p
      let s0 := (s.consume 0 ⟨5, p, [0], 0⟩).hear 5
      s.arrived 0 (fun q => q.isCtrl s.rank CT.decision) = some ⟨5, p, [0], 0⟩ ∧ p.good = true ∧
        s0.decidable (leNat ((p.data.drop 8).take 8)) = (n == 9) ∧ s0.gate.decided = false) ∧
    ((gating false 4).stepState = 4 ∧ (gating false 3).stepState < 4) ∧
    (let s := { (gating true 4).setFlag Reg.TRN_STEP_STATUS_REPLAY true with gate := { (gating true 4).gate with decided :=
      true } }
     s.replaying = true ∧ s.stepState = 4 ∧ s.gate.decided = true) ∧
    (∀ t ∈ [10000000, 10000001], let s := { gating false 4 with gate := { (gating false 4).gate with isolatedSince := some t } }
      s.gate.isolatedSince = some t ∧ s.gate.decided = false ∧ s.abortable = true ∧ (t + 10000000 ≤ s.now ↔ t = 10000000)) := by
  and_intros <;> decide +kernel

/-! ### Resilience -/

theorem witness_ErasedStringsAreRebuilt :
    (0 : Byte) = (List.range 16).foldl (fun x _ => x ^^^ 0) 0 ∧
    (0 : Byte) = (List.range 16).foldl (fun x i => x ^^^ scaleByte (gfPow i) 0) 0 ∧
    [3, 16].length ≤ 2 ∧ [3, 16].Nodup ∧ (∀ i ∈ [3, 16], i < 18) ∧ 3 ∈ [3, 16] := by decide +kernel


/-- A module with host window 0, a step of number 9 in a state, and a descriptor. -/
def resting (st : Nat) (d : Desc) : State :=
  let s := withDesc d stepReady
  { s with regs := (s.regs.set Reg.TRN_STEP_STATUS_STATE st).set Reg.TRN_STEP_NUM_STEP 9 }

/-- An ABSENT that clears rank 5 at step 9. -/
def clearBody : List Byte := leBytes 4 (5 + 2 ^ 20) ++ leBytes 4 0xFFFFF ++ leBytes 8 9

/-- An ABSENT of rank 5 with a spare at step 9. -/
def absentBody (spare : Nat) : List Byte := leBytes 4 5 ++ leBytes 4 spare ++ leBytes 8 9

/-- A SNAPSHOT to byte 0 of host window 0, with room for `pages`. -/
def snapBody (pages : Nat) : List Byte := leBytes 8 (2 * 2 ^ 40) ++ leBytes 4 pages ++ leBytes 1 0

/-- A snapshot at work. -/
def snapping (ready refused poison : Bool) : State :=
  let s := resting 0 { ringDesc 0x28 (snapBody 4) with taken := true }
  { s with res := { s.res with snap := [⟨1, 0, ready, ready, refused, poison⟩] } }

/-- Entry 0 of the parity group array, at byte 128·64: group 6, data position 1, no strings, ranks 10 to 27. -/
def parityEntry (role : Nat) : List Byte :=
  leBytes 4 6 ++ leBytes 1 role ++ leBytes 1 1 ++ leBytes 2 0 ++ leBytes 8 0 ++ leBytes 8 0 ++
    (List.range 18).flatMap fun i => leBytes 4 (10 + i)

def inGroup (role : Nat) (s : State) : State :=
  { s with
    regs := s.regs.set Reg.SAF_PGROUP_BASE_BASE 64
    stack := s.stack.writeRaw 8192 (parityEntry role) false }

/-- A spare whose fill of rank 11 has a chain with no pieces. -/
def filling : State :=
  let s := inGroup 1 (resting 0 (ringDesc 0x2A clearBody))
  { s with res := { s.res with
      fill := some 11
      chains := [⟨0, 1, 0, [1], 0, 0⟩]
      absent := [⟨1, 0, 11, false, false, 0, 9, true, 9⟩] } }

/-- Piece 3 of the side of the committed step is marked, in the group of this module. -/
def marked : State :=
  let s := inGroup 1 (resting 1 (ringDesc 1 []))
  { s with res := { s.res with pieces := [3] } }

/-- The piece's decode, as the group passes it on. -/
def decodeHead : PartialHead := ⟨3, PT.decode 0, 1, 6, 0⟩

/-- The module of that group with the piece asked for, come, and more ranks absent. -/
def repairingPiece (asked : List Nat) (come : List (Nat × List PByte)) (gone : List Nat) : State :=
  { marked with res := { marked.res with
    asked := asked
    decoded := come
    absent := gone.map fun r => ⟨1, 0, r, false, false, 0xFFFFF, 9, true, 9⟩ } }

/-- A SNAPSHOT_LOAD from byte 0 of host window 0, or stacked byte 0. -/
def loadBody : List Byte := leBytes 8 (2 ^ 40) ++ leBytes 1 0

/-- A SNAPSHOT_LOAD whose image has been written, of a digest. -/
def loaded (digest : List Byte) : State :=
  let s := resting 0 { ringDesc 0x29 loadBody with taken := true }
  { s with res := { s.res with load := some (1, 0, digest, 8) } }

/-- A piece's zero marker of the update, from rank 5. -/
def partialIn : Packet := packetIn 5 PK.parity (6 * 2 ^ 29) 32 0 0 0 true (List.replicate 32 0)

theorem witness_SparesSnapshotsAndParity :
    (let s := resting 0 (ringDesc 0x2A clearBody)
     ((s.ready 1 0 0x2A).map fun d => (d.eval, s.host.stuck d.unit, bitOf (d.n 0 4) 20)) = some (false, false, true) ∧
       s.fillsItself 5 = false ∧ s.stepState = 0 ∧ s.step.armed = none ∧
      ({ s with res := { s.res with absent := [⟨1, 0, 5, false, true, 5, 9, true, 9⟩] } } : State).fillsItself 5 = true) ∧
    (∀ spare ∈ [0xFFFFF, 7], let s := resting 0 (ringDesc 0x2A (absentBody spare))
     ((s.ready 1 0 0x2A).map fun d => (d.eval, s.host.stuck d.unit, bitOf (d.n 0 4) 20, d.n 4 4 % 2 ^ 20)) =
       some (false, false, false, spare) ∧ s.res.absent = []) ∧
    (let s := resting 0 (ringDesc 0x2A (absentBody 7))
     let s := { s with res := { s.res with absent := [⟨1, 0, 9, false, false, 7, 9, true, 9⟩] } }
     ((s.ready 1 0 0x2A).map fun d => (d.n 0 4 % 2 ^ 20, d.n 4 4 % 2 ^ 20)) = some (5, 7) ∧
       ((s.res.absent.filter fun b => b.rank != 5).filter fun b => !b.clear).any (fun b => b.spare == 7) = true) ∧
    (filling.res.fill = some 11 ∧
      (filling.res.absent.find? fun a => a.active && a.rank == 11 && a.spare == filling.rank).isSome = true ∧
      filling.res.chains.filter filling.receives ≠ [] ∧
      ∀ c ∈ filling.res.chains, filling.receives c = true → filling.chainDone c = true) ∧
    (marked.stepState < 2 ∧ marked.stringsOpen = true ∧ marked.res.chanMarked = false ∧ marked.isMarked 0 3 = true) ∧
    (let s := { (marked.setReg Reg.TRN_STEP_STATUS_STATE 3) with res := { marked.res with repairing := true } }
     s.stepState = 3 ∧ s.res.repairing = true ∧ s.stringsOpen = true ∧ s.res.chanMarked = false ∧ s.isMarked 0 3 = true) ∧
    (∀ x ∈ [([], []), ([decodeHead.addr], []), ([], [(decodeHead.addr, [])])], let s := repairingPiece x.1 x.2 []
      s.isMarked 0 3 = true ∧ (s.lostFor (s.pgroup 0) (s.pgroup 0).position).length ≤ 2 ∧
        s.repaired (s.pgroup 0) 0 3 = x.2.head? ∧ s.repairAsked (s.pgroup 0) 0 3 = !x.1.isEmpty) ∧
    (let s := repairingPiece [] [] [12, 13]
     s.isMarked 0 3 = true ∧ 2 < (s.lostFor (s.pgroup 0) (s.pgroup 0).position).length) ∧
    (∀ w ∈ [1, 2], let s := repairingPiece [{ decodeHead with want := w }.addr] [] (if w = 1 then [] else [12])
      8 ≤ decodeHead.kind ∧
        (((List.range 3).map s.pgroup).find? fun g => g.role != 0 && g.group == decodeHead.group) = some (s.pgroup 0) ∧
        (s.pgroup 0).position = 1 ∧ (s.decodeGoal (s.pgroup 0) w = 1 ↔ w = 1) ∧
        NSet.has s.res.asked { decodeHead with want := w }.addr = true ∧
        NSet.has marked.res.asked { decodeHead with want := w }.addr = false ∧
        (s.rolePiece (s.pgroup 0) (decodeHead.kind - 8) decodeHead.piece).2.step.colls = []) ∧
    (∀ pages ∈ [0, 4], let s := resting 0 (ringDesc 0x28 (snapBody pages))
      ((s.ready 1 0 0x28).map fun d => (d.eval || s.host.stuck d.unit, [d.n 0 8, d.n 8 4, d.n 12 1])) = some (false,
        [2 * 2 ^ 40, pages, 0]) ∧
        s.snapshotRefusal (2 * 2 ^ 40) (s.snapBytes s.snapSide false) (4096 * pages) = (if pages =
          0 then some 0x2053 else none)) ∧
    (∀ x ∈ [(false, false, false), (true, false, false), (true, true, false), (true, false, true)],
      let s := snapping x.1 x.2.1 x.2.2
      s.res.snap.find? (fun x => x.ring == 1 && x.index == 0) = some ⟨1, 0, x.1, x.1, x.2.1, x.2.2⟩ ∧
        (s.net.txns.any fun t => t.owner == .snapshot 1 0) = false) ∧
    (∀ st ∈ [0, 1], let s := resting st (ringDesc 0x29 loadBody)
      ((s.ready 1 0 0x29).map fun d => (d.eval || s.host.stuck d.unit, d.n 0 8)) = some (false, 2 ^ 40) ∧ s.res.load = none ∧
        s.stepState = st ∧
        s.step.armed = none ∧ s.judge .image (2 ^ 40) 4096 = none) ∧
    (∀ st ∈ [0, 1], let s := inGroup 2 (resting st (ringDesc 0x2B (leBytes 4 6)))
      ((s.ready 1 0 0x2B).map fun d => (d.eval || s.host.stuck d.unit, d.n 0 4)) = some (false, 6) ∧ s.stepState = st ∧
        s.stringsOpen = true ∧
        ((((List.range 3).map fun k => (k,
          s.pgroup k)).find? fun x => x.2.role != 0 && x.2.group == 6).map fun x => x.2.role) = some 2) ∧
    ((hasArrived linked partialIn).arrived 0 (fun q => q.kind == PK.parity && q.dst == linked.rank) =
        some ⟨5, partialIn, [0], 0⟩ ∧
      partialIn.good = true ∧ (hasArrived linked partialIn).stringsOpen = true) ∧
    (∀ r ∈ [0, 1], let s := inGroup r (resting 3 (ringDesc 1 []))
      s.stepState = 3 ∧ s.updateDone = true) ∧
    (let s := resting 3 (ringDesc 1 [])
     ({ s with net := { s.net with txns := [⟨3, 0, 1, 5, .parity, false, 1, 0, 64⟩] } } : State).updateDone = false) ∧
    (let s := (resting 3 (ringDesc 1 [])).setFlag Reg.TRN_STEP_STATUS_REPLAY true
     s.stepState = 3 ∧ s.replaying = true) := by
  and_intros <;> decide +kernel

/-- A SNAPSHOT_LOAD from stacked byte 0, whose head names `n` shards. -/
def headed (n : Nat) : State :=
  { resting 0 (ringDesc 0x29 loadBody) with stack := Mem.empty.writeRaw 8 (leBytes 4 n) false }

/-- The same with its strings' spans met and no SNAPSHOT_LOAD at work. -/
def unloaded (digest : List Byte) : State :=
  let s := (loaded digest).touchStack ((loaded digest).listSpans 0)
  { s with res := { s.res with load := none } }

theorem witness_SparesSnapshotsAndParity_load :
    (∀ n ∈ [0, 4], let s := headed n
      s.listRefusal 0 = none ∧ s.listRefusal 1 = none ∧
      ((s.ready 1 0 0x29).map fun d => (d.eval || s.host.stuck d.unit, d.n 0 8)) = some (false, 2 ^ 40) ∧ s.res.load = none ∧
        s.stepState = 0 ∧
        s.step.armed = none ∧ s.judge .image (2 ^ 40) 4096 = none ∧ s.localOpen (2 ^ 40) 4096 = true ∧
        s.spansOpen (s.listSpans 0 ++ s.listSpans 1 ++ s.paritySpans) = true ∧
        ((s.readStruct noView (2 ^ 40) 4096).1.toOption.map fun b => decide (leNat ((b.drop 8).take 4) = s.shardCount)) =
          some (n == 0) ∧
        (s.loadHeads noView s.shards (2 ^ 40 + 4096)).1.toOption = some [2 ^ 40 + 4096]) ∧
    (let d := padTo 32 ((unloaded []).stateDigest 0)
     (loaded d).res.load = some (1, 0, d, 8) ∧ padTo 32 ((unloaded d).stateDigest (8 % 2)) = d) ∧
    padTo 32 ((unloaded []).stateDigest (8 % 2)) ≠ [] := by
  refine ⟨by decide +kernel, ⟨rfl, rfl⟩, fun h => ?_⟩
  have := congrArg List.length h
  simp [padTo] at this

/-! ### Worked examples of the spec -/

/-- Chapter 01: byte 0x100 of tile 5,381 on rank 0x01234. -/
theorem test_address : addrRank 0x01234000A8280100 = 0x1234 ∧ addrWindow 0x01234000A8280100 = 0 ∧
    addrOffset 0x01234000A8280100 / 2 ^ 19 = 5381 ∧ addrOffset 0x01234000A8280100 % 2 ^ 19 = 0x100 := by decide +kernel

/-- Chapter 02, worked calibration: 3.1 gives E = 7; 4.0 gives E = 6; 396.8 stores as 0x7C and 512 as 0x7E with OF and SAT. -/
theorem test_calibration : scaleExp Fmt.e4m3.code 0x40466666 0 = 7 ∧ scaleExp Fmt.e4m3.code 0x40800000 0 = 6 ∧
    (Fmt.e4m3.store .rne 0 false (val32 0x43C66666)).1 = 0x7C ∧
    Fmt.e4m3.store .rne 0 false (val32 0x44000000) = (0x7E, Flags.ovf ||| Flags.sat) := by decide +kernel

/-- Chapter 02, one overflow and one NaN: 2^127 times 4.0 enters as infinity with OF; −3.0 times 0.5 is −1.5. -/
theorem test_products :
    rne32 (Val.mul (Fmt.bf16.decode 0x7F00) (Fmt.bf16.decode 0x4080)).1 = (.inf false, Flags.ovf) ∧
    enc32 (rne32 (Val.mul (Fmt.bf16.decode 0xC040) (Fmt.bf16.decode 0x3F00)).1).1 = 0xBFC00000 ∧
    (Val.mul (Fmt.bf16.decode 0xFFC1) (Fmt.bf16.decode 0x3F80)) = (.nan, Flags.nv) := by decide +kernel

/-- Chapter 06: 3.09375, −0.625 and 0.0625 at rate 5 give X = 129 and the codes 12, −2 and 0; they decode as 3.0, −0.5 and +0. -/
theorem test_lossy :
    lossyEncode .bf16 5 [Fmt.bf16.decode 0x4046, Fmt.bf16.decode 0xBF20, Fmt.bf16.decode 0x3D80] = (129, [12, 30, 0], 0) ∧
    [12, 30, 0].map (fun q => enc32 (lossyVal 5 129 q)) = [0x40400000, 0xBF000000, 0] := by decide +kernel

/-- R483: D_3 = 0x57 and D_10 = 0x83 come back from P = 0xD4 and Q = 0x86. -/
theorem test_rebuild :
    (0x57 : Nat) ^^^ 0x83 = 0xD4 ∧ gfMul (gfPow 3) 0x57 ^^^ gfMul (gfPow 10) 0x83 = 0x86 ∧
    scaleByte (rebuildCoeff [3, 10] 3 16) 0xD4 ^^^ scaleByte (rebuildCoeff [3, 10] 3 17) 0x86 = 0x57 ∧
    scaleByte (rebuildCoeff [3, 10] 10 16) 0xD4 ^^^ scaleByte (rebuildCoeff [3, 10] 10 17) 0x86 = 0x83 := by decide +kernel

/-- R530: a limit of 1.43 ms touches two milliseconds of device time, and LIMIT_MS rises by 2. -/
theorem test_limit_ms :
    let s := (poweredAt 5000000).setReg Reg.SAF_INPUT_PEAK_LIMIT_MS 3
    (match exec (.limiterAct 96000) s with
      | .next t => (match exec (.limiterRelease 86000) { t with time := { t.time with ns := 6430000 } } with
        | .next u => some (u.regs.get Reg.SAF_INPUT_PEAK_LIMIT_MS, u.fab.limiter)
        | _ => none)
      | _ => none) = some (5, false) := by decide +kernel

/-! ### Ill-formed commands -/

/-- One tile instruction of each field structure with a number out of range. -/
def badFields : List Instr :=
  [.rdreg 1 ⟨32, 0⟩, .wrreg 1 ⟨0, 256⟩, .li 1 ⟨1, 2 ^ 40⟩, .addi 1 ⟨1, 3, 2 ^ 32⟩, .alu 1 ⟨1, 3, 3, 16⟩, .br 1 ⟨0, 0, 8, 0⟩,
    .loop 1 ⟨4, 0, 0, 0⟩, .sig 1 ⟨0, 3, 0, 256, 0⟩, .wait 1 ⟨32, 0, 0⟩, .copy (.tile 1 ⟨2 ^ 20, 0, 0, 0, 0, false, 0, 0⟩ noView),
    .stwait 1 ⟨128, 0⟩, .hcsend 1 ⟨4, 3, 16⟩, .tree 1 ⟨4, 3, 4, 1, 0, 0, 5⟩, .vop 1 ⟨64, 0, 0, 0, 0, 3, false⟩,
    .vred 1 ⟨0, 256, 0, 3, false, 0⟩, .cvt 1 ⟨0, 0, 16, 1, 0, false, 0, 3, false⟩, .merge 1 ⟨128, 128, 128, 4, 1⟩,
    .mma 1 ⟨2 ^ 20, 0, false, false, 0, 0, 0⟩, .attForward 1 ⟨4, false, true, true, 32, 0⟩, .trap 1 4096, .jmp 1 2048,
      .loopExit 1 4]

/-- One command of each other check with an operand out of range. -/
def badPlaces : List Instr :=
  [.nop 16384, .linkFinal 32, .kvReserve 256 0, .kvReserve 0 (2 ^ 32), .streamComplete 10240, .channelRetire 1536 false,
    .cmpTileDataRead (2 ^ 26) 8, .timNowRead (2 ^ 26) 8, .powerOn 0 8 false false false, .perstDeassert 8 false false false,
    .dieTempSample [40], .paceWindow 4 [], .paceShortClear 0 64, .marginReport [], .watchdogSample 4, .treeNodeCombine 0 8 0,
    .registerWrite ⟨0, 4, 2 ^ 32⟩, .memRequestEnter ⟨0, 252, false, 5, [], 0⟩, .memRequestEnter ⟨0, 0, true, 1, [0], 16⟩,
      .memReadDone 0 64, .laneMark 0 18 true,
    .bankRefresh 0 16, .stackTempSample [], .completionWrite 256, .modTimeExpiry (some 256), .tableRebuildDone 4096,
    .gatePartyLost (2 ^ 20), .pieceRepair 65536 0, .pieceRepair 0 2, .flitReceive 0 [], .nackReceive 0 [65536], .laneSpare 0 4,
    .linkTrainRetry 0 0 32 0, .holdResendTimeout 0 (2 ^ 32), .injectDrop 0 (2 ^ 64), .tgStart (2 ^ 64), .syncSend 0 256,
    .timSet (2 ^ 64), .ptmExchange (2 ^ 64), .stepRelease ⟨[(5, 1), (5, 2)], [], [], []⟩]

theorem test_ill_formed : (∀ i ∈ badFields, i.wf = false) ∧ (∀ i ∈ badPlaces, i.wf = false) := by decide +kernel

/-- Well-formed neighbours of some of them. -/
theorem test_well_formed : (Instr.li 1 ⟨1, 2 ^ 40 - 1⟩).wf = true ∧ (Instr.nop 16383).wf = true ∧ (Instr.linkFinal 31).wf = true ∧
    (Instr.registerWrite ⟨0, 4, 2 ^ 32 - 1⟩).wf = true ∧ (Instr.memRequestEnter ⟨0, 252, false, 4, [], 15⟩).wf = true := by
  decide +kernel

/-! ### The queue -/

theorem witness_StepRunsFrontCommand :
    ({ blank with pending := [.linkFinal 0, .hotReset] } : State).pending = .linkFinal 0 :: [.hotReset] := by decide +kernel

theorem witness_TileInstructionsReadBack : (TInsn.li ⟨1, 2 ^ 40 - 1⟩).wf = true ∧ (0x77 * 2 ^ 56 + 5) / 2 ^ 56 ∉ tileOpcodes := by
  decide +kernel

/-- Words spell no command: the table gives its rows no bits. -/
theorem test_no_words : decodeTableWord 0 0 = none ∧ State.reset.withFetchWord 0 0 = State.reset := ⟨rfl, rfl⟩

theorem witness_EveryStepKeepsSound : blank.Sound ∧ ∃ s', step blank = .next s' := by
  refine ⟨⟨by decide +kernel, .nil, fun k h => ?_⟩, _, rfl⟩
  cases h
end Sys2Proof.Tests
end

section
/-! SUPPORT. The words of tile instructions (R185): an instruction reads back from its word, and what a word decodes to spells
no bit that the word has not. -/

namespace Sys2Proof.Machine

/-! ### Reading back -/

theorem bitOf_eq_iff (w i : Nat) (b : Bool) : bitOf w i = b ↔ w / 2 ^ i % 2 = b.toNat := by
  cases b <;> simp [bitOf, Nat.testBit_eq_decide_div_mod_eq]

/-- The opcode of an instruction (Table 05.5). -/
def TInsn.opcode : TInsn → Nat
  | .nop => 0x00
  | .fin => 0x01
  | .rdreg _ => 0x02
  | .wrreg _ => 0x03
  | .fence => 0x04
  | .trap _ => 0x05
  | .li _ => 0x10
  | .addi _ => 0x11
  | .alu _ => 0x12
  | .br _ => 0x13
  | .jmp _ => 0x14
  | .loop _ => 0x15
  | .sig _ => 0x20
  | .wait _ => 0x21
  | .stream _ => 0x30
  | .stwait _ => 0x31
  | .hcsend _ => 0x32
  | .tree _ => 0x33
  | .vop _ => 0x40
  | .vred _ => 0x41
  | .cvt _ => 0x42
  | .merge _ => 0x43
  | .mma _ => 0x50
  | .att _ => 0x60
  | .illegal op => op

/-- An instruction whose fields are in range has its opcode in bits [63:56] of its word. -/
theorem TInsn.opcode_encode (i : TInsn) (h : i.wf = true) : i.encode / 2 ^ 56 = i.opcode ∧ i.encode < 2 ^ 64 := by
  cases i
  all_goals
    simp only [TInsn.wf, RdregF.wf, WrregF.wf, LiF.wf, AddiF.wf, AluF.wf, BrF.wf, LoopF.wf, SigF.wf, WaitF.wf, StreamF.wf,
      StwaitF.wf, HcsendF.wf, TreeF.wf, VopF.wf, VredF.wf, CvtF.wf, MergeF.wf, MmaF.wf, AttF.wf, decide_eq_true_eq,
      Bool.and_eq_true] at h
    simp only [TInsn.encode, TInsn.opcode]
  case stream f =>
    have := f.sig.toNat_lt
    omega
  case vop f | vred f =>
    have := f.wide.toNat_lt
    omega
  case cvt f =>
    have := f.nanmode.toNat_lt
    have := f.scaled.toNat_lt
    omega
  case mma f =>
    have := f.rowout.toNat_lt
    have := f.rowmag.toNat_lt
    omega
  case att f =>
    have := f.bwd.toNat_lt
    have := f.init.toNat_lt
    have := f.final.toNat_lt
    omega
  all_goals omega

/-- A word whose opcode the table does not list is illegal (R185). -/
theorem TInsn.decode_unlisted (w : Nat) (h : bitsOf w 63 56 ∉ tileOpcodes) :
    TInsn.decode w = .illegal (bitsOf w 63 56) := by
  simp only [TInsn.decode]
  split
  case h_25 => rfl
  all_goals next heq => simp [heq, tileOpcodes] at h

/-- An instruction whose fields are in range reads back from its word. -/
theorem TInsn.decode_encode (i : TInsn) (h : i.wf = true) : TInsn.decode i.encode = i := by
  have hop : bitsOf i.encode 63 56 = i.opcode := by
    obtain ⟨h1, h2⟩ := opcode_encode i h
    rw [bitsOf_eq, Nat.mod_eq_of_lt (by omega), h1]
  rcases i with _ | _ | ⟨gd, index⟩ | ⟨ga, index⟩ | _ | code | ⟨gd, imm⟩ | ⟨gd, ga, imm⟩ | ⟨gd, ga, gb, op⟩ |
    ⟨ga, gb, cond, target⟩ | target | ⟨lc, creg, imm, stop⟩ | ⟨treg, pair, ctr, count, scope⟩ | ⟨pair, ctr, count⟩ |
    ⟨ref, engine, channel, sreg, dreg, sig, pair, ctr⟩ | ⟨engine, channel⟩ | ⟨ref, areg, len⟩ |
    ⟨ref, lreg, op, level, channel, dstfmt, areg⟩ | ⟨func, dst, src1, src2, src3, lreg, wide⟩ |
    ⟨func, dst, src, lreg, wide, dstfmt⟩ | ⟨dst, src, srcfmt, dstfmt, rm, nanmode, ireg, lreg, scaled⟩ |
    ⟨dst, src1, src2, headDim, rows⟩ | ⟨param, dst, rowout, rowmag, areg, breg, kreg⟩ |
    ⟨param, bwd, init, final, kvreg, nreg⟩ | op
  case illegal =>
    simp only [TInsn.wf, Bool.and_eq_true, Bool.not_eq_true', decide_eq_true_eq] at h
    simp only [TInsn.opcode] at hop
    rw [decode_unlisted _ (by simpa [hop] using h.2), hop]
  case nop | fin | fence => simp only [TInsn.decode, hop, TInsn.opcode]
  all_goals
    simp only [TInsn.wf, RdregF.wf, WrregF.wf, LiF.wf, AddiF.wf, AluF.wf, BrF.wf, LoopF.wf, SigF.wf, WaitF.wf, StreamF.wf,
      StwaitF.wf, HcsendF.wf, TreeF.wf, VopF.wf, VredF.wf, CvtF.wf, MergeF.wf, MmaF.wf, AttF.wf, decide_eq_true_eq] at h
    simp only [TInsn.opcode] at hop
    simp only [TInsn.decode, hop]
    simp only [TInsn.encode, bitsOf_eq, bitOf_eq_iff, TInsn.rdreg.injEq, RdregF.mk.injEq, TInsn.wrreg.injEq, WrregF.mk.injEq,
      TInsn.trap.injEq, TInsn.li.injEq, LiF.mk.injEq, TInsn.addi.injEq, AddiF.mk.injEq, TInsn.alu.injEq, AluF.mk.injEq,
      TInsn.br.injEq, BrF.mk.injEq, TInsn.jmp.injEq, TInsn.loop.injEq, LoopF.mk.injEq, TInsn.sig.injEq, SigF.mk.injEq,
      TInsn.wait.injEq, WaitF.mk.injEq, TInsn.stream.injEq, StreamF.mk.injEq, TInsn.stwait.injEq, StwaitF.mk.injEq,
      TInsn.hcsend.injEq, HcsendF.mk.injEq, TInsn.tree.injEq, TreeF.mk.injEq, TInsn.vop.injEq, VopF.mk.injEq,
      TInsn.vred.injEq, VredF.mk.injEq, TInsn.cvt.injEq, CvtF.mk.injEq, TInsn.merge.injEq, MergeF.mk.injEq,
      TInsn.mma.injEq, MmaF.mk.injEq, TInsn.att.injEq, AttF.mk.injEq]
  case stream =>
    have := sig.toNat_lt
    omega
  case vop | vred =>
    have := wide.toNat_lt
    omega
  case cvt =>
    have := nanmode.toNat_lt
    have := scaled.toNat_lt
    omega
  case mma =>
    have := rowout.toNat_lt
    have := rowmag.toNat_lt
    omega
  case att =>
    have := bwd.toNat_lt
    have := init.toNat_lt
    have := final.toNat_lt
    omega
  all_goals omega

/-! ### Reserved bits -/

/-- `a` holds bits of `w` only, and none below bit `lo`. -/
def PartAbove (w lo a : Nat) : Prop := a &&& w = a ∧ 2 ^ lo ∣ a

/-- A field in its place holds bits of the word only. -/
theorem bitsOf_mul_and (w hi lo : Nat) : bitsOf w hi lo * 2 ^ lo &&& w = bitsOf w hi lo * 2 ^ lo := by
  apply Nat.eq_of_testBit_eq
  intro i
  rw [Nat.testBit_and, bitsOf, Nat.testBit_mul_two_pow, Nat.testBit_mod_two_pow, Nat.testBit_shiftRight]
  by_cases h : lo ≤ i
  · rw [Nat.add_sub_cancel' h]
    cases w.testBit i <;> simp
  · simp [h]

theorem PartAbove.opcode {w op : Nat} (h : bitsOf w 63 56 = op) : PartAbove w 56 (op * 2 ^ 56) :=
  ⟨h ▸ bitsOf_mul_and w 63 56, Dvd.intro_left _ rfl⟩

theorem PartAbove.field {w k a hi lo : Nat} (h : PartAbove w k a) (hk : hi < k := by decide)
    (hlo : lo ≤ hi + 1 := by decide) :
    PartAbove w lo (a + bitsOf w hi lo * 2 ^ lo) := by
  obtain ⟨ha, hd⟩ := h
  have hlt : bitsOf w hi lo * 2 ^ lo < 2 ^ k := by
    calc bitsOf w hi lo * 2 ^ lo < 2 ^ (hi + 1 - lo) * 2 ^ lo := by
          gcongr
          exact Nat.mod_lt _ (by positivity)
      _ = 2 ^ (hi + 1) := by rw [← pow_add, Nat.sub_add_cancel hlo]
      _ ≤ 2 ^ k := Nat.pow_le_pow_right (by decide) hk
  obtain ⟨q, rfl⟩ := hd
  refine ⟨?_, ?_⟩
  · rw [Nat.two_pow_add_eq_or_of_lt hlt, Nat.and_or_distrib_right, ha, bitsOf_mul_and]
  · exact Dvd.dvd.add (Dvd.dvd.mul_right (pow_dvd_pow 2 (by omega)) q) (Dvd.intro_left _ rfl)

theorem PartAbove.lowField {w k a hi : Nat} (h : PartAbove w k a) (hk : hi < k := by decide) :
    PartAbove w 0 (a + bitsOf w hi 0) := by
  simpa using h.field (lo := 0) hk (Nat.zero_le _)

theorem PartAbove.bit {w k a i : Nat} (h : PartAbove w k a) (hk : i < k := by decide) :
    PartAbove w i (a + (bitOf w i).toNat * 2 ^ i) := by
  have e : (bitOf w i).toNat = bitsOf w i i := by
    rw [bitsOf_eq, Nat.add_sub_cancel_left, pow_one, bitOf, Nat.toNat_testBit]
  exact e ▸ h.field hk (Nat.le_succ i)

/-- The word that the encoder gives for what a word decodes to holds bits of the word only: each field stands where it was
cut. -/
theorem TInsn.encode_decode_and (w : Nat) : (TInsn.decode w).encode &&& w = (TInsn.decode w).encode := by
  simp only [TInsn.decode]
  split
  case h_1 h | h_2 h | h_5 h => exact (PartAbove.opcode h).1
  case h_3 h | h_4 h | h_7 h => exact (PartAbove.opcode h).field.lowField.1
  case h_6 h | h_11 h => exact (PartAbove.opcode h).lowField.1
  case h_8 h => exact (PartAbove.opcode h).field.field.lowField.1
  case h_9 h | h_12 h => exact (PartAbove.opcode h).field.field.field.field.1
  case h_10 h => exact (PartAbove.opcode h).field.field.field.lowField.1
  case h_13 h | h_22 h => exact (PartAbove.opcode h).field.field.field.field.field.1
  case h_14 h | h_17 h => exact (PartAbove.opcode h).field.field.field.1
  case h_15 h => exact (PartAbove.opcode h).field.field.field.field.field.bit.field.field.1
  case h_16 h => exact (PartAbove.opcode h).field.field.1
  case h_18 h => exact (PartAbove.opcode h).field.field.field.field.field.field.field.1
  case h_19 h => exact (PartAbove.opcode h).field.field.field.field.field.field.bit.1
  case h_20 h => exact (PartAbove.opcode h).field.field.field.field.bit.field.1
  case h_21 h => exact (PartAbove.opcode h).field.field.field.field.field.bit.field.field.bit.1
  case h_23 h => exact (PartAbove.opcode h).field.field.bit.bit.field.field.field.1
  case h_24 h => exact (PartAbove.opcode h).field.bit.bit.bit.field.field.1
  case h_25 => exact (PartAbove.opcode rfl).1

/-- Settles O2: fields stand side by side below the opcode, so each is cut out again, and they hold no bit outside their
places. -/
theorem tileInstructionsReadBack : Obligations.TileInstructionsReadBack := by
  unfold Obligations.TileInstructionsReadBack
  refine ⟨fun i hi => ⟨(TInsn.opcode_encode i hi).2, TInsn.decode_encode i hi⟩, fun w hw hop => ?_,
    fun w _ => TInsn.encode_decode_and w⟩
  have hbits : bitsOf w 63 56 = w / 2 ^ 56 := by
    rw [bitsOf_eq]
    exact Nat.mod_eq_of_lt (by omega)
  rw [← hbits] at hop ⊢
  exact TInsn.decode_unlisted w hop

end Sys2Proof.Machine
end

section
/-! SUPPORT. Host writes to the register file (R8): fields of the table share no bit, so a write of a whole register does to
each field what the field's access code says. -/

namespace Sys2Proof.Machine

/-! ### The table of fields -/

/-- Two descriptions that cannot share a bit: other bits, other registers, or the other registers of two interleaved arrays. -/
def Field.separate (f g : Field) : Prop :=
  f.hi < g.lo ∨ g.hi < f.lo ∨
    f.offset + f.stride * (f.count - 1) < g.offset ∨ g.offset + g.stride * (g.count - 1) < f.offset ∨
    (f.stride = g.stride ∧ f.offset % f.stride ≠ g.offset % f.stride)

theorem Field.apart_of_separate {f g : Field} {i j : Nat} (h : f.separate g) (hi : i < f.count) (hj : j < g.count) :
    f.apart i g j := by
  have hf : f.stride * i ≤ f.stride * (f.count - 1) := Nat.mul_le_mul_left _ (by omega)
  have hg : g.stride * j ≤ g.stride * (g.count - 1) := Nat.mul_le_mul_left _ (by omega)
  rcases h with h | h | h | h | ⟨hs, hm⟩
  · exact .inr (.inl h)
  · exact .inr (.inr h)
  · exact .inl (by omega)
  · exact .inl (by omega)
  · refine .inl fun he => hm ?_
    rw [← Nat.add_mul_mod_self_left f.offset f.stride i, he, ← hs, Nat.add_mul_mod_self_left]

/-- No two fields of the table share a bit. -/
theorem Reg.fields_apart :
    Reg.fields.Pairwise fun f g => ∀ i j, i < f.count → j < g.count → f.apart i g j := by
  have h : Reg.fields.Pairwise Field.separate := by
    unfold Field.separate
    decide +kernel
  exact h.imp fun hc i j => Field.apart_of_separate hc

/-- A field has bits, within the 64 of its register, and its value at reset fits in them. -/
theorem Reg.fields_bits : ∀ f ∈ Reg.fields, 0 < f.width ∧ f.lo + f.width ≤ 64 ∧ f.reset < 2 ^ f.width := by
  decide +kernel

/-- A field that is not one of an array stands alone in its place. -/
theorem Reg.fields_single : ∀ f ∈ Reg.fields, f.stride = 0 → f.count = 1 := by decide +kernel

/-- Fields stand at aligned places of BAR0. -/
theorem Reg.fields_aligned {f : Field} (h : f ∈ Reg.fields) {i : Nat} (hi : i < f.count) :
    (f.offset + f.stride * i) % 8 = 0 ∧ f.offset + f.stride * i < 2 ^ 26 := by
  have ends : ∀ f ∈ Reg.fields, f.offset % 8 = 0 ∧ f.stride % 8 = 0 ∧ f.offset + f.stride * (f.count - 1) < 2 ^ 26 := by
    decide +kernel
  obtain ⟨h1, h2, h3⟩ := ends f h
  have hle : f.stride * i ≤ f.stride * (f.count - 1) := Nat.mul_le_mul_left _ (by omega)
  have hmul : f.stride * i % 8 = 0 := by rw [Nat.mul_mod, h2, Nat.zero_mul, Nat.zero_mod]
  omega

/-- The registers that window onto other state, as first and last place. -/
def Reg.windows : List (Nat × Nat) :=
  [(0x101000, 0x1010FF), (0x200408, 0x200408), (0x200410, 0x200410), (0x300010, 0x300010), (0x400908, 0x400908),
    (0x500308, 0x500308), (0x3F00000, 0x3F07FFF)]

/-- No field of the table lies in one of them. -/
theorem Reg.fields_outside_windows {f : Field} (h : f ∈ Reg.fields) {i : Nat} (hi : i < f.count) :
    ∀ w ∈ Reg.windows, f.offset + f.stride * i < w.1 ∨ w.2 < f.offset + f.stride * i := by
  have ends : ∀ f ∈ Reg.fields, ∀ w ∈ Reg.windows, f.offset + f.stride * (f.count - 1) < w.1 ∨ w.2 < f.offset := by
    decide +kernel
  have hle : f.stride * i ≤ f.stride * (f.count - 1) := Nat.mul_le_mul_left _ (by omega)
  intro w hw
  have := ends f h w hw
  omega

theorem Field.covers_iff {f : Field} (h : f ∈ Reg.fields) (off : Nat) :
    f.covers off = true ↔ ∃ i < f.count, off = f.offset + f.stride * i := by
  unfold Field.covers
  split
  · next h0 => simp [h0, Reg.fields_single f h h0]
  · next h0 =>
    have hpos : 0 < f.stride := Nat.pos_of_ne_zero h0
    simp only [Bool.and_eq_true, decide_eq_true_eq, beq_iff_eq]
    constructor
    · rintro ⟨⟨h1, h2⟩, h3⟩
      obtain ⟨i, hi⟩ := Nat.dvd_of_mod_eq_zero h3
      exact ⟨i, Nat.lt_of_mul_lt_mul_left (a := f.stride) (by omega), by omega⟩
    · rintro ⟨i, hi, rfl⟩
      have := Nat.mul_lt_mul_of_pos_left hi hpos
      exact ⟨⟨by omega, by omega⟩, by rw [Nat.add_sub_cancel_left, Nat.mul_mod_right]⟩

/-- The fields of a register, cut at one of them: the others share no bit with it. -/
theorem Reg.fieldsAt_split {f : Field} (h : f ∈ Reg.fields) {i : Nat} (hi : i < f.count) :
    ∃ before after, Reg.fieldsAt (f.offset + f.stride * i) = before ++ f :: after ∧
      ∀ g ∈ before ++ after, 0 < g.width ∧ (g.hi < f.lo ∨ f.hi < g.lo) := by
  obtain ⟨before, after, hsplit⟩ := List.append_of_mem h
  have hpair := Reg.fields_apart
  rw [hsplit, List.pairwise_append, List.pairwise_cons] at hpair
  obtain ⟨-, ⟨hafter, -⟩, hbefore⟩ := hpair
  have hcov := (Field.covers_iff h _).2 ⟨i, hi, rfl⟩
  refine ⟨before.filter (·.covers (f.offset + f.stride * i)), after.filter (·.covers (f.offset + f.stride * i)), ?_,
    fun g hg => ?_⟩
  · rw [Reg.fieldsAt, hsplit, List.filter_append, List.filter_cons_of_pos (by exact hcov)]
  rw [← List.filter_append, List.mem_filter] at hg
  obtain ⟨hg, hc⟩ := hg
  have hmem : g ∈ Reg.fields := by
    rw [hsplit]
    simp only [List.mem_append, List.mem_cons] at hg ⊢
    exact hg.imp_right .inr
  obtain ⟨j, hj, hplace⟩ := (Field.covers_iff hmem _).1 hc
  refine ⟨(Reg.fields_bits g hmem).1, ?_⟩
  rcases List.mem_append.1 hg with hg | hg
  · exact (hbefore g hg f List.mem_cons_self j i hj hi).resolve_left (Ne.symm · hplace)
  · exact ((hafter g hg i j hi hj).resolve_left (· hplace)).symm

/-! ### One field of a word -/

theorem Field.hi_succ_sub_lo {f : Field} (h : 0 < f.width) : f.hi + 1 - f.lo = f.width := by
  unfold Field.hi
  omega

/-- A write to a field sets that field or nothing. -/
theorem Field.write_cases (f : Field) (locked : Bool) (mask v w : Nat) :
    f.write locked mask v w = w ∨ ∃ x, f.write locked mask v w = setBits w f.hi f.lo x := by
  unfold Field.write
  cases f.access with
  | ro | ri => exact .inl rfl
  | rw => exact .inr ⟨_, rfl⟩
  | rwl =>
    cases locked with
    | true => exact .inl rfl
    | false => exact .inr ⟨_, rfl⟩
  | w1c => exact (ite_eq_or_eq _ _ _).imp id fun h => ⟨_, h⟩

/-- A write to a field leaves every other field of the word alone. -/
theorem Field.write_other (f g : Field) (locked : Bool) (mask v w : Nat) (hf : 0 < f.width)
    (h : f.hi < g.lo ∨ g.hi < f.lo) : bitsOf (f.write locked mask v w) g.hi g.lo = bitsOf w g.hi g.lo := by
  rcases f.write_cases locked mask v w with he | ⟨x, he⟩ <;> rw [he]
  rcases h with h | h
  · exact bitsOf_setBits_above _ _ _ _ _ _ (by unfold Field.hi; omega) h
  · exact bitsOf_setBits_below _ _ _ _ _ _ h

/-- What the access code makes of a field's value `old` when `new` is written to the whole field (R8). -/
def Field.written (f : Field) (locked : Bool) (old new : Nat) : Nat :=
  match f.access with
  | .rw => new
  | .rwl => if locked then old else new
  | .w1c => if new = 0 then old else f.reset
  | .ro => old
  | .ri => old

theorem bitsOf_ones {hi lo : Nat} (h : hi < 64) : bitsOf (2 ^ 64 - 1) hi lo = 2 ^ (hi + 1 - lo) - 1 := by
  apply Nat.eq_of_testBit_eq
  intro i
  rw [bitsOf, Nat.testBit_mod_two_pow, Nat.testBit_shiftRight, Nat.testBit_two_pow_sub_one, Nat.testBit_two_pow_sub_one]
  by_cases hlt : i < hi + 1 - lo
  · simp [hlt]
    omega
  · simp [hlt]

/-- A write of a whole register gives each field what its access code says. -/
theorem Field.write_all {f : Field} (h : f ∈ Reg.fields) (locked : Bool) (v w : Nat) :
    bitsOf (f.write locked (2 ^ 64 - 1) v w) f.hi f.lo = f.written locked (bitsOf w f.hi f.lo) (bitsOf v f.hi f.lo) := by
  obtain ⟨hw, h64, hr⟩ := Reg.fields_bits f h
  have hs := f.hi_succ_sub_lo hw
  have hm : bitsOf (2 ^ 64 - 1) f.hi f.lo = 2 ^ f.width - 1 := by
    rw [bitsOf_ones (by unfold Field.hi; omega), hs]
  have hlt : bitsOf v f.hi f.lo < 2 ^ f.width := by
    rw [bitsOf, hs]
    exact Nat.mod_lt _ (by positivity)
  have hand : bitsOf v f.hi f.lo &&& (2 ^ f.width - 1) = bitsOf v f.hi f.lo := by
    rw [Nat.and_two_pow_sub_one_eq_mod, Nat.mod_eq_of_lt hlt]
  have hset : ∀ x, x < 2 ^ f.width → bitsOf (setBits w f.hi f.lo x) f.hi f.lo = x := fun x hx => by
    rw [bitsOf_setBits_self, hs, Nat.mod_eq_of_lt hx]
  unfold Field.write Field.written
  simp only [hm, hand, Nat.xor_self, Nat.and_zero, Nat.zero_or]
  cases f.access with
  | ro | ri => rfl
  | rw => exact hset _ hlt
  | rwl =>
    cases locked with
    | true => rfl
    | false => exact hset _ hlt
  | w1c =>
    simp only [apply_ite (bitsOf · f.hi f.lo), hset _ hr]

/-! ### A whole register -/

/-- Writes to fields that stand apart from `g` leave `g` alone. -/
theorem foldl_write_other (l : List Field) (g : Field) (locked : Bool) (mask v w : Nat)
    (h : ∀ f ∈ l, 0 < f.width ∧ (f.hi < g.lo ∨ g.hi < f.lo)) :
    bitsOf (l.foldl (fun w f => f.write locked mask v w) w) g.hi g.lo = bitsOf w g.hi g.lo := by
  induction l generalizing w with
  | nil => rfl
  | cons f l ih =>
    obtain ⟨hw, ha⟩ := h f List.mem_cons_self
    rw [List.foldl_cons, ih _ fun k hk => h k (List.mem_cons_of_mem f hk), Field.write_other f g locked mask v w hw ha]

/-- A write of a whole register gives each field of it what the field's access code says (R8). -/
theorem RegFile.getAt_hostWrite {f : Field} (h : f ∈ Reg.fields) {i : Nat} (hi : i < f.count) (r : RegFile) (locked : Bool)
    (v : Nat) : (r.hostWrite locked (f.offset + f.stride * i) (2 ^ 64 - 1) v).getAt f i =
      f.written locked (r.getAt f i) (bitsOf v f.hi f.lo) := by
  obtain ⟨before, after, hsplit, hother⟩ := Reg.fieldsAt_split h hi
  unfold RegFile.hostWrite RegFile.getAt
  rw [RegFile.word_setWord_self, hsplit, List.foldl_append, List.foldl_cons,
    foldl_write_other after f _ _ _ _ fun g hg => hother g (List.mem_append_right _ hg), Field.write_all h,
    foldl_write_other before f _ _ _ _ fun g hg => hother g (List.mem_append_left _ hg)]

/-! ### Accesses -/

theorem accessOk_iff (off len : Nat) : accessOk off len = true ↔ (len = 4 ∨ len = 8) ∧ off % len = 0 ∧ off < 2 ^ 26 := by
  simp [accessOk, and_assoc]

/-- An 8 B write at an aligned place reaches all bits of its register. -/
theorem exec_registerWrite_aligned (s : State) (h : s.reachable = true) {off v : Nat} (ha : off % 8 = 0) (hb : off < 2 ^ 26)
    (hv : v < 2 ^ 64) : exec (.registerWrite ⟨off, 8, v⟩) s = .next (s.writeWord off (2 ^ 64 - 1) v) := by
  have hok := (accessOk_iff off 8).2 ⟨.inr rfl, ha, hb⟩
  have hm : accessMask off 8 = 2 ^ 64 - 1 := by simp [accessMask, ha]
  have hw : s.writeBar0 ⟨off, 8, v⟩ = s.writeWord off (2 ^ 64 - 1) v := by
    simp only [State.writeBar0, hok, if_true, hm, ha, Nat.sub_zero, Nat.mul_zero, pow_zero, Nat.mul_one, Nat.mod_eq_of_lt hv,
      Nat.reduceMul]
  show Host.Outcome.next (if s.reachable then s.writeBar0 ⟨off, 8, v⟩ else s) = _
  rw [if_pos h, hw]

/-- A write to a register that is neither an action nor a window goes to the register file. -/
theorem State.writeWord_plain (s : State) {off : Nat} (hp : plainRegister off)
    (hw : ∀ w ∈ Reg.windows, off < w.1 ∨ w.2 < off) (mask v : Nat) :
    s.writeWord off mask v = { s with regs := s.regs.hostWrite s.locked off mask v } := by
  obtain ⟨devCtl, cplStatus, resetCtl, timSet, injCtl⟩ := hp
  simp only [Reg.windows, List.forall_mem_cons] at hw
  obtain ⟨spareMap, tgCtl, tgRange, chSem, tileData, routeData, msix, -⟩ := hw
  unfold State.writeWord
  rw [if_neg devCtl, if_neg resetCtl, if_neg (by omega), if_neg (by omega), if_neg (by omega), if_neg (by omega),
    if_neg cplStatus, if_neg (by omega), if_neg (by omega), if_neg timSet, if_neg injCtl, if_neg (by omega)]

/-- A write of HIF_CPL_STATUS goes to the register file, and MAX_QUEUED follows the records queued (R356). -/
theorem State.writeWord_cplStatus (s : State) (mask v : Nat) : s.writeWord 0x58 mask v =
    ({ s with regs := s.regs.hostWrite s.locked 0x58 mask v } : State).noteQueued := rfl

theorem Reg.maxQueued_mem : Reg.HIF_CPL_STATUS_MAX_QUEUED ∈ Reg.fields := by decide +kernel

/-- Settles O26: a write of a whole register reaches the register file, whose fields share no bit, and does to each field what
its access code says. -/
theorem registerWritesObeyAccessCodes : Obligations.RegisterWritesObeyAccessCodes := by
  unfold Obligations.RegisterWritesObeyAccessCodes
  intro s hs
  refine ⟨fun f hf i v hi hv hp => ?_, fun v hv => ?_, fun w hw => ?_⟩
  · obtain ⟨ha, hb⟩ := Reg.fields_aligned hf hi
    refine ⟨_, exec_registerWrite_aligned s hs ha hb hv, ?_⟩
    rw [s.writeWord_plain hp (Reg.fields_outside_windows hf hi)]
    exact ⟨rfl, RegFile.getAt_hostWrite hf hi s.regs s.locked v⟩
  · refine ⟨_, exec_registerWrite_aligned s hs rfl (by decide) hv, ?_⟩
    rw [s.writeWord_cplStatus]
    refine ⟨rfl, ?_⟩
    have hget : (s.regs.hostWrite s.locked 0x58 (2 ^ 64 - 1) v).get Reg.HIF_CPL_STATUS_MAX_QUEUED = _ :=
      RegFile.getAt_hostWrite Reg.maxQueued_mem (i := 0) (by decide) s.regs s.locked v
    simp only [State.noteQueued, State.setReg, hget]
    rw [RegFile.get_set_self _ _ _ (by decide), Nat.max_comm]
    rfl
  · have hok : accessOk w.offset w.len = false := by
      rw [← Bool.not_eq_true, accessOk_iff]
      exact hw
    show Host.Outcome.next (if s.reachable then s.writeBar0 w else s) = _
    rw [if_pos hs, State.writeBar0, hok]
    rfl

end Sys2Proof.Machine
end

section
/-! SUPPORT. Kind B on the step state (R552): the collectives that no step and no compute-die channel carries run on. -/

namespace Sys2Proof.Machine

/-! ### What leaves the step state alone -/

/-- Work done item by item keeps the step state when each item does. -/
theorem State.each_step {α : Type} {f : State → α → State} (hf : ∀ s x, (f s x).step = s.step) (s : State) (l : List α) :
    (s.each l f).step = s.step :=
  foldl_keeps (P := fun t : State => t.step = s.step) (fun t x ht => (hf t x).trans ht) l rfl

@[simp] theorem State.post_step (s : State) (e : Ev) : (s.post e).step = s.step := by
  unfold State.post
  dsimp only
  split <;> rfl

@[simp] theorem State.memUncorr_step (s : State) (flags a : Nat) (lane : Option Nat) :
    (s.memUncorr flags a lane).step = s.step := by simp [State.memUncorr]

@[simp] theorem State.memFixed_step (s : State) (a lane : Nat) : (s.memFixed a lane).step = s.step := by
  simp [State.memFixed]

@[simp] theorem State.meetErrors_step (s : State) (flags a : Nat) : (s.meetErrors flags a).step = s.step := by
  unfold State.meetErrors
  dsimp only
  split
  · simp [State.draw]
  · split <;> simp

@[simp] theorem State.stackPut_step (s : State) (a : Nat) (bs : List Byte) (p : Bool) :
    (s.stackPut a bs p).step = s.step := by
  unfold State.stackPut
  dsimp only
  split
  · rfl
  · exact State.meetErrors_step s 0 a

@[simp] theorem State.setObj_step (s : State) (o : Nat) (x : Obj) : (s.setObj o x).step = s.step :=
  State.each_step (fun _ _ => State.stackPut_step _ _ _ _) s _

@[simp] theorem State.complete_step (s : State) (ring j status flags result : Nat) :
    (s.complete ring j status flags result).step = s.step := by
  unfold State.complete
  split
  · rfl
  · unfold State.pushCpl
    split <;> rfl

@[simp] theorem State.finish_step (s : State) (r j status : Nat) : (s.finish r j status).step = s.step :=
  State.complete_step s r j status 0 0

@[simp] theorem State.staleObjects_step (s : State) : s.staleObjects.step = s.step := by
  unfold State.staleObjects
  dsimp only
  refine (State.each_step (fun _ _ => State.finish_step _ _ _ _) _ _).trans ?_
  refine State.each_step (fun t o => ?_) s _
  split
  · exact State.setObj_step t o _
  · rfl

/-! ### Kind B -/

/-- Kind B outside a step in progress keeps the collectives that it does not cut off (R552). -/
theorem State.fabricReset_colls (s : State) (h : s.step.run = none) :
    s.fabricReset.step.colls = s.step.colls.filter fun c => !s.step.cuts c := by
  have hB : ∀ t : State, ((t.resetBy .B keepImage).noteKind 5).step.colls = t.step.colls.filter fun c => !t.step.cuts c :=
    fun _ => rfl
  unfold State.fabricReset
  simp only [h, Option.isSome_none, Bool.false_eq_true, if_false]
  rw [hB, State.each_step fun _ _ => State.finish_step _ _ _ _, State.staleObjects_step,
    State.each_step fun _ _ => State.finish_step _ _ _ _]

/-- An ALL_GATHER of two members, asked for by a COLL descriptor, in progress: it belongs to no step and holds no channel. -/
def allGatherRunning : Coll where
  ring := 0
  index := 0
  kind := .allGather
  chan := none
  seq := 0
  group := 0
  op := 0
  ranks := [0, 1]
  self := 0
  present := [0, 1]
  unit := 64
  total := 128
  src := none
  dst := none
  res := none
  tid := 0
  started := true
  heard := []
  got := []
  parts := []
  sent := false
  status := 0
  flags := 0
  poison := false
  due := []

/-- A powered module that carries this collective out for its driver, with no step armed or running. -/
def collecting : State :=
  { State.reset with
    fab := { FabSt.reset with powered := true }
    host := { HostSt.reset with descs := [⟨0, 0, 0x22, 0, 0, [], true, true, none⟩] }
    step := { StepSt.reset with colls := [allGatherRunning] } }

/-- Refutes O20: kind B need not leave the step state at its reset value. A collective that a COLL descriptor asked for is not cut
off and runs on (R552), so the list of collectives in progress, which the model keeps in the step state, is not empty after it. -/
theorem not_resetsAndSafeState : ¬ Obligations.ResetsAndSafeState := by
  unfold Obligations.ResetsAndSafeState
  intro ⟨_, h⟩
  obtain ⟨_, s', hnext, _, _, hreset, _⟩ := h collecting rfl rfl
  have hexec : exec .fabricReset collecting = .next collecting.fabricReset := rfl
  obtain rfl : collecting.fabricReset = s' := Host.Outcome.next.inj (hexec.symm.trans hnext)
  have hkept : collecting.fabricReset.step.colls = [allGatherRunning] := collecting.fabricReset_colls rfl
  rw [hreset] at hkept
  exact absurd hkept (List.cons_ne_nil _ _).symm

end Sys2Proof.Machine
end

section
/-! SUPPORT. The pace governor and its power limit (R23, R25, R529): one trim, what one region's measurement changes, and a window
on a die as the measurements of its regions one after another. -/

namespace Sys2Proof.Machine

/-! ### One trim -/

theorem trim_above (pace target rail : Nat) (held : Bool) : trim pace target rail held true = max 5500 (rail - 25) := if_pos rfl

/-- Under the limit a slow region's rail rises by a step where nothing holds it. -/
theorem trim_low {pace target : Nat} (rail : Nat) (h : 200 * pace < 199 * target) :
    trim pace target rail false false = min 8600 (rail + 25) := by
  simp [trim, paceLow, h]

/-- Under the limit a fast region's rail falls by a step. -/
theorem trim_high {pace target : Nat} (rail : Nat) (held : Bool) (h : 201 * target < 200 * pace) :
    trim pace target rail held false = max 5500 (rail - 25) := by
  have hlow : ¬ 200 * pace < 199 * target := by omega
  simp [trim, paceLow, paceHigh, h, hlow]

/-- Under the limit a rail stays where the pace is within 0.5 % of the target. -/
theorem trim_near {pace target : Nat} (rail : Nat) (held : Bool) (hl : 199 * target ≤ 200 * pace)
    (hh : 200 * pace ≤ 201 * target) : trim pace target rail held false = rail := by
  simp [trim, paceLow, paceHigh, Nat.not_lt.2 hl, Nat.not_lt.2 hh]

/-- A trim is a step up, which takes a slow region that nothing holds, a step down, or none. -/
theorem trim_cases (pace target rail : Nat) (held above : Bool) :
    (held = false ∧ trim pace target rail held above = min 8600 (rail + 25)) ∨
      trim pace target rail held above = max 5500 (rail - 25) ∨ trim pace target rail held above = rail := by
  unfold trim
  split
  · exact .inr (.inl rfl)
  · split
    · next h => exact .inl ⟨h.2, rfl⟩
    · split
      · exact .inr (.inl rfl)
      · exact .inr (.inr rfl)

/-- A trim keeps a rail between the bounds, and raises none that the limit holds. -/
theorem trim_bounds (pace target : Nat) {rail : Nat} (held above : Bool) (hlo : 5500 ≤ rail) (hhi : rail ≤ 8600) :
    5500 ≤ trim pace target rail held above ∧ trim pace target rail held above ≤ 8600 ∧
      (held = true → trim pace target rail held above ≤ rail) := by
  rcases trim_cases pace target rail held above with ⟨hfree, h⟩ | h | h
  · rw [h, hfree]
    exact ⟨by omega, by omega, nofun⟩
  · rw [h]
    omega
  · rw [h]
    omega

/-! ### Bits of a word -/

theorem bitOf_eq_bitsOf (w i : Nat) : bitOf w i = decide (bitsOf w i i = 1) := by
  rw [bitsOf_eq, Nat.add_sub_cancel_left, pow_one]
  exact Nat.testBit_eq_decide_div_mod_eq

/-- Taking away the weight of a bit that is set clears that bit and no other. -/
theorem bitOf_sub_two_pow {w i : Nat} (h : bitOf w i = true) (k : Nat) : bitOf (w - 2 ^ i) k = (bitOf w k && k != i) := by
  have hi : bitsOf w i i = 1 := of_decide_eq_true ((bitOf_eq_bitsOf w i).symm.trans h)
  have hset : w - 2 ^ i = setBits w i i 0 := by simp [setBits, hi]
  rw [hset, bitOf_eq_bitsOf, bitOf_eq_bitsOf]
  rcases Nat.lt_trichotomy k i with hk | rfl | hk
  · rw [bitsOf_setBits_below _ _ _ _ _ _ hk]
    simp [hk.ne]
  · simp
  · rw [bitsOf_setBits_above _ _ _ _ _ _ le_rfl hk]
    simp [hk.ne']

theorem bitOf_or_two_pow (w i k : Nat) : bitOf (w ||| 2 ^ i) k = (bitOf w k || k == i) := by
  rw [bitOf, bitOf, Nat.testBit_or, Nat.testBit_two_pow, Bool.beq_eq_decide_eq, decide_eq_decide.2 eq_comm]

/-! ### Fields beside the one written -/

theorem RegFile.getAt_lt (r : RegFile) (f : Field) (i : Nat) (h : f.width ≠ 0) : r.getAt f i < 2 ^ f.width := by
  have : f.hi + 1 - f.lo = f.width := by unfold Field.hi; omega
  rw [RegFile.getAt, bitsOf, this]
  exact Nat.mod_lt _ (by positivity)

theorem RegFile.getAt_setAt_separate (r : RegFile) {f g : Field} {i j : Nat} (v : Nat) (h : f.separate g) (hw : f.width ≠ 0)
    (hi : i < f.count) (hj : j < g.count) : (r.setAt f i v).getAt g j = r.getAt g j :=
  r.getAt_setAt_other f g i j v (Field.apart_of_separate h hi hj) hw

/-- A count that saturates at its width reads back as such. -/
theorem RegFile.getAt_addAt_self (r : RegFile) (f : Field) (i n : Nat) (h : f.width ≠ 0) :
    (r.addAt f i n).getAt f i = min (r.getAt f i + n) (2 ^ f.width - 1) := by
  have hpos : 0 < 2 ^ f.width := by positivity
  rw [RegFile.addAt, RegFile.getAt_setAt_self _ _ _ _ h, Nat.mod_eq_of_lt (by omega)]

/-! ### Posting an event -/

/-- A field that a full event queue does not show in. -/
def Field.outsideEventStatus (g : Field) : Prop :=
  Reg.HIF_EVENT_STATUS_DROPPED.separate g ∧ Reg.HIF_EVENT_STATUS_SEVERE.separate g

/-- A full event queue shows in HIF_EVENT_STATUS and in no other field (R343). -/
theorem eventStatus_getAt (q : HostSt) (e : Ev) (r : RegFile) {g : Field} {j : Nat} (hg : g.outsideEventStatus)
    (hj : j < g.count) : (eventStatus q e r).getAt g j = r.getAt g j := by
  have hdrop : (r.add Reg.HIF_EVENT_STATUS_DROPPED 1).getAt g j = r.getAt g j :=
    r.getAt_setAt_separate _ hg.1 (by decide) (by decide) hj
  unfold eventStatus
  split
  · rfl
  · dsimp only
    split
    · exact (RegFile.getAt_setAt_separate _ _ hg.2 (by decide) (by decide) hj).trans hdrop
    · exact hdrop

theorem HostSt.pushEv_events (q : HostSt) (e : EvRec) (h : q.events.length < 1024) :
    (q.pushEv e).events = q.events ++ [e] := by
  rw [HostSt.pushEv, if_pos h]

/-- An event goes to the queue, shows in the registers where the queue is full, and may pulse the alert. -/
theorem State.post_eq (s : State) (e : Ev) : s.post e = { s with
    regs := eventStatus s.host e s.regs
    host := s.host.pushEv ⟨e, s.regs.get Reg.TRN_STEP_NUM_STEP, s.now⟩
    fab := (s.post e).fab
    out := (s.post e).out } := by
  unfold State.post
  dsimp only
  split <;> rfl

@[simp] theorem State.post_regs (s : State) (e : Ev) : (s.post e).regs = eventStatus s.host e s.regs := by
  rw [State.post_eq]

@[simp] theorem State.post_tiles (s : State) (e : Ev) : (s.post e).tiles = s.tiles := by
  rw [State.post_eq]

@[simp] theorem State.post_stack (s : State) (e : Ev) : (s.post e).stack = s.stack := by
  rw [State.post_eq]

@[simp] theorem State.post_host (s : State) (e : Ev) :
    (s.post e).host = s.host.pushEv ⟨e, s.regs.get Reg.TRN_STEP_NUM_STEP, s.now⟩ := by
  rw [State.post_eq]

/-- Only an event of class 0x6 reaches the alert. -/
theorem State.post_fab (s : State) {e : Ev} (h : St.cls e.status ≠ 6) : (s.post e).fab = s.fab := by
  unfold State.post
  dsimp only
  rw [if_neg h]

/-- The events that the queue holds. -/
def State.queuedEvents (s : State) : List Ev := s.host.events.map fun r => r.ev

/-- An event goes to the end of a queue that has room. -/
theorem State.post_queuedEvents (s : State) (e : Ev) (h : s.host.events.length < 1024) :
    (s.post e).queuedEvents = s.queuedEvents ++ [e] := by
  rw [State.queuedEvents, State.post_host, HostSt.pushEv_events _ _ h, List.map_append]
  rfl

/-! ### One region's measurement

A measurement is a pair of a region and its pace. -/

/-- The target that the governor holds the paces to. -/
def State.paceTarget (s : State) : Nat := s.regs.get Reg.FAB_PACE_TARGET_TARGET

/-- A region's bit in FAB_PACE_SHORT. -/
def State.shortBit (s : State) (die region : Nat) : Bool := bitOf (s.regs.getAt Reg.FAB_PACE_SHORT_SHORT die) region

/-- Of a word written to it FAB_PACE_SHORT reads back each of the 64 bits. -/
theorem bitOf_getAt_setAt_short (r : RegFile) (die w : Nat) {k : Nat} (hk : k < 64) :
    bitOf ((r.setAt Reg.FAB_PACE_SHORT_SHORT die w).getAt Reg.FAB_PACE_SHORT_SHORT die) k = bitOf w k := by
  have hword : (r.setAt Reg.FAB_PACE_SHORT_SHORT die w).getAt Reg.FAB_PACE_SHORT_SHORT die = w % 2 ^ 64 :=
    RegFile.getAt_setAt_self _ _ _ _ (by decide)
  rw [hword, bitOf, Nat.testBit_mod_two_pow, decide_eq_true hk, Bool.true_and, bitOf]

/-- FAB_PACE_STATUS.SHORT_EVENTS of a die. -/
def State.shortEvents (s : State) (die : Nat) : Nat := s.regs.getAt Reg.FAB_PACE_STATUS_SHORT_EVENTS die

/-- A measurement below the target of a region whose rail cannot rise. -/
def State.missesPace (s : State) (die : Nat) (x : Nat × Nat) : Bool :=
  decide (200 * x.2 < 199 * s.paceTarget ∧ (8600 ≤ s.rail (64 * die + x.1) ∨ s.held = true ∨ s.fab.overLimit = true))

/-- A measurement that makes its region short (R25). -/
def State.newlyShort (s : State) (die : Nat) (x : Nat × Nat) : Bool := s.missesPace die x && !s.shortBit die x.1

/-- What a measurement trims its region's rail to. -/
def State.trimmed (s : State) (die : Nat) (x : Nat × Nat) : Nat :=
  trim x.2 s.paceTarget (s.rail (64 * die + x.1)) s.held s.fab.overLimit

/-- The event that a region has become short. -/
def shortEvent (die : Nat) (x : Nat × Nat) : Ev := ⟨St.paceShort, 0, 0, 64 * die + x.1, x.2⟩

/-- What a measurement does in any case. -/
def State.trimRegion (s : State) (die : Nat) (x : Nat × Nat) : State :=
  (s.notePace (64 * die + x.1) x.2 s.paceTarget).setRail (64 * die + x.1) (s.trimmed die x)

/-- The bit set, counted and posted. -/
def State.postShort (s : State) (die : Nat) (x : Nat × Nat) : State :=
  ((s.setRegAt Reg.FAB_PACE_SHORT_SHORT die (s.regs.getAt Reg.FAB_PACE_SHORT_SHORT die ||| 2 ^ x.1)).addRegAt
    Reg.FAB_PACE_STATUS_SHORT_EVENTS die 1).post (shortEvent die x)

theorem State.regionShort_eq (s : State) (die : Nat) {region : Nat} (h : region < 64) :
    s.regionShort (64 * die + region) = s.shortBit die region := by
  rw [State.regionShort, State.shortBit, show (64 * die + region) / 64 = die by omega,
    show (64 * die + region) % 64 = region by omega]

/-- A measurement trims the rail, and makes the region short where it misses the target and was not short. -/
theorem State.regionPace_eq (s : State) (die : Nat) (x : Nat × Nat) (h : x.1 < 64) :
    s.regionPace die x.1 x.2 = if s.newlyShort die x then (s.trimRegion die x).postShort die x else s.trimRegion die x := by
  have hmiss : (paceLow x.2 (s.regs.get Reg.FAB_PACE_TARGET_TARGET) = true ∧
      (8600 ≤ s.rail (64 * die + x.1) ∨ s.held = true ∨ s.fab.overLimit = true)) ↔ s.missesPace die x = true := by
    rw [paceLow, State.missesPace, State.paceTarget, decide_eq_true_iff, decide_eq_true_iff]
  show (if _ then (s.trimRegion die x).noteShort die x.1 x.2 else s.trimRegion die x) = _
  have hbit : (s.trimRegion die x).shortBit die x.1 = s.shortBit die x.1 := rfl
  rw [State.noteShort, State.regionShort_eq _ _ h, hbit, State.newlyShort]
  by_cases hm : s.missesPace die x = true
  · rw [if_pos (hmiss.2 hm), hm]
    cases s.shortBit die x.1 <;> rfl
  · rw [if_neg (mt hmiss.1 hm), Bool.eq_false_of_not_eq_true hm]
    rfl

/-! What a measurement leaves unchanged. -/

@[simp] theorem State.postShort_tiles (s : State) (die : Nat) (x : Nat × Nat) : (s.postShort die x).tiles = s.tiles := by
  rw [State.postShort, State.post_tiles, State.addRegAt_tiles, State.setRegAt_tiles]

@[simp] theorem State.postShort_stack (s : State) (die : Nat) (x : Nat × Nat) : (s.postShort die x).stack = s.stack := by
  rw [State.postShort, State.post_stack, State.addRegAt_stack, State.setRegAt_stack]

@[simp] theorem State.postShort_fab (s : State) (die : Nat) (x : Nat × Nat) : (s.postShort die x).fab = s.fab := by
  have hclass : St.cls (shortEvent die x).status ≠ 6 := by
    show St.cls 0x1010 ≠ 6
    decide
  rw [State.postShort, State.post_fab _ hclass, State.addRegAt_fab, State.setRegAt_fab]

/-- A field that no measurement writes. -/
def Field.outsidePace (g : Field) : Prop :=
  Reg.FAB_PACE_SHORT_SHORT.separate g ∧ Reg.FAB_PACE_STATUS_SHORT_EVENTS.separate g ∧ g.outsideEventStatus

theorem Reg.paceTarget_outsidePace : Reg.FAB_PACE_TARGET_TARGET.outsidePace := by
  unfold Field.outsidePace Field.outsideEventStatus Field.separate
  decide

theorem Reg.held_outsidePace : Reg.SAF_POWER_CTL_HELD.outsidePace := by
  unfold Field.outsidePace Field.outsideEventStatus Field.separate
  decide

theorem Reg.short_outsideEventStatus : Reg.FAB_PACE_SHORT_SHORT.outsideEventStatus := by
  unfold Field.outsideEventStatus Field.separate
  decide

theorem Reg.shortEvents_outsideEventStatus : Reg.FAB_PACE_STATUS_SHORT_EVENTS.outsideEventStatus := by
  unfold Field.outsideEventStatus Field.separate
  decide

theorem Reg.short_separate_shortEvents : Reg.FAB_PACE_SHORT_SHORT.separate Reg.FAB_PACE_STATUS_SHORT_EVENTS := by
  unfold Field.separate
  decide

theorem Reg.shortEvents_separate_short : Reg.FAB_PACE_STATUS_SHORT_EVENTS.separate Reg.FAB_PACE_SHORT_SHORT := by
  unfold Field.separate
  decide

theorem State.postShort_getAt (s : State) {die : Nat} (x : Nat × Nat) {g : Field} {j : Nat} (hdie : die < 4)
    (hg : g.outsidePace) (hj : j < g.count) : (s.postShort die x).regs.getAt g j = s.regs.getAt g j := by
  obtain ⟨hshort, hcount, hqueue⟩ := hg
  rw [State.postShort, State.post_regs, eventStatus_getAt _ _ _ hqueue hj]
  exact (RegFile.getAt_setAt_separate _ _ hcount (by decide) hdie hj).trans
    (RegFile.getAt_setAt_separate _ _ hshort (by decide) hdie hj)

/-- What the measurements read, and none of them changes, with the state that no measurement reaches. -/
structure State.PaceFrame (s t : State) : Prop where
  tiles : t.tiles = s.tiles
  stack : t.stack = s.stack
  target : t.paceTarget = s.paceTarget
  held : t.held = s.held
  overLimit : t.fab.overLimit = s.fab.overLimit

theorem State.PaceFrame.refl (s : State) : s.PaceFrame s := ⟨rfl, rfl, rfl, rfl, rfl⟩

theorem State.PaceFrame.trans {s t u : State} (h : s.PaceFrame t) (h' : t.PaceFrame u) : s.PaceFrame u :=
  ⟨h'.tiles.trans h.tiles, h'.stack.trans h.stack, h'.target.trans h.target, h'.held.trans h.held,
    h'.overLimit.trans h.overLimit⟩

theorem State.postShort_frame (s : State) {die : Nat} (x : Nat × Nat) (hdie : die < 4) : s.PaceFrame (s.postShort die x) where
  tiles := s.postShort_tiles die x
  stack := s.postShort_stack die x
  target := s.postShort_getAt x hdie Reg.paceTarget_outsidePace (by decide)
  held := congrArg (· == 1) (s.postShort_getAt x hdie Reg.held_outsidePace (by decide))
  overLimit := congrArg FabSt.overLimit (s.postShort_fab die x)

theorem State.regionPace_frame (s : State) {die : Nat} (x : Nat × Nat) (hdie : die < 4) (hx : x.1 < 64) :
    s.PaceFrame (s.regionPace die x.1 x.2) := by
  have htrim : s.PaceFrame (s.trimRegion die x) := ⟨rfl, rfl, rfl, rfl, rfl⟩
  rw [s.regionPace_eq die x hx]
  split
  · exact htrim.trans (State.postShort_frame _ x hdie)
  · exact htrim

/-! What a measurement changes. -/

theorem State.regionPace_rails (s : State) (die : Nat) (x : Nat × Nat) (hx : x.1 < 64) :
    (s.regionPace die x.1 x.2).fab.rails = Tbl.put s.fab.rails (64 * die + x.1) (s.trimmed die x) := by
  rw [s.regionPace_eq die x hx]
  split
  · rw [State.postShort_fab]
    rfl
  · rfl

theorem State.regionPace_rail_self (s : State) (die : Nat) (x : Nat × Nat) (hx : x.1 < 64) :
    (s.regionPace die x.1 x.2).rail (64 * die + x.1) = s.trimmed die x := by
  rw [State.rail, s.regionPace_rails die x hx, Tbl.get_put_self]

theorem State.regionPace_rail_other (s : State) (die : Nat) (x : Nat × Nat) (hx : x.1 < 64) {k : Nat}
    (h : 64 * die + x.1 ≠ k) : (s.regionPace die x.1 x.2).rail k = s.rail k := by
  rw [State.rail, s.regionPace_rails die x hx, Tbl.get_put_other _ _ _ h, State.rail]

theorem State.postShort_shortBit (s : State) {die region : Nat} (x : Nat × Nat) (hdie : die < 4) (hr : region < 64) :
    (s.postShort die x).shortBit die region = (s.shortBit die region || region == x.1) := by
  rw [State.shortBit, State.postShort, State.post_regs,
    eventStatus_getAt _ _ _ Reg.short_outsideEventStatus (by exact hdie)]
  refine (congrArg (bitOf · region)
    (RegFile.getAt_setAt_separate _ _ Reg.shortEvents_separate_short (by decide) hdie hdie)).trans ?_
  exact (bitOf_getAt_setAt_short _ die _ hr).trans (bitOf_or_two_pow _ _ _)

theorem State.regionPace_shortBit (s : State) {die region : Nat} (x : Nat × Nat) (hdie : die < 4) (hx : x.1 < 64)
    (hr : region < 64) : (s.regionPace die x.1 x.2).shortBit die region =
      (s.shortBit die region || (s.newlyShort die x && region == x.1)) := by
  have htrim : (s.trimRegion die x).shortBit die region = s.shortBit die region := rfl
  rw [s.regionPace_eq die x hx]
  cases s.newlyShort die x with
  | true => exact ((s.trimRegion die x).postShort_shortBit x hdie hr).trans (by rw [htrim, Bool.true_and])
  | false => simp [htrim]

theorem State.postShort_shortEvents (s : State) {die : Nat} (x : Nat × Nat) (hdie : die < 4) :
    (s.postShort die x).shortEvents die = min (s.shortEvents die + 1) 65535 := by
  rw [State.shortEvents, State.postShort, State.post_regs,
    eventStatus_getAt _ _ _ Reg.shortEvents_outsideEventStatus (by exact hdie)]
  refine (RegFile.getAt_addAt_self _ _ _ _ (by decide)).trans ?_
  have hold : (s.setRegAt Reg.FAB_PACE_SHORT_SHORT die (s.regs.getAt Reg.FAB_PACE_SHORT_SHORT die ||| 2 ^ x.1)).regs.getAt
      Reg.FAB_PACE_STATUS_SHORT_EVENTS die = s.shortEvents die :=
    RegFile.getAt_setAt_separate _ _ Reg.short_separate_shortEvents (by decide) hdie hdie
  rw [hold]
  rfl

theorem State.shortEvents_le (s : State) (die : Nat) : s.shortEvents die ≤ 65535 :=
  Nat.le_of_lt_succ (s.regs.getAt_lt Reg.FAB_PACE_STATUS_SHORT_EVENTS die (by decide))

theorem State.regionPace_shortEvents (s : State) {die : Nat} (x : Nat × Nat) (hdie : die < 4) (hx : x.1 < 64) :
    (s.regionPace die x.1 x.2).shortEvents die = min 65535 (s.shortEvents die + (s.newlyShort die x).toNat) := by
  have htrim : (s.trimRegion die x).shortEvents die = s.shortEvents die := rfl
  have hle := s.shortEvents_le die
  rw [s.regionPace_eq die x hx]
  cases s.newlyShort die x with
  | true => exact ((s.trimRegion die x).postShort_shortEvents x hdie).trans (by rw [htrim, min_comm]; rfl)
  | false => exact htrim.trans (min_eq_right hle).symm

theorem State.postShort_queuedEvents (s : State) {die : Nat} (x : Nat × Nat) (hroom : s.host.events.length < 1024) :
    (s.postShort die x).queuedEvents = s.queuedEvents ++ [shortEvent die x] := by
  have hhost : ∀ w, ((s.setRegAt Reg.FAB_PACE_SHORT_SHORT die w).addRegAt Reg.FAB_PACE_STATUS_SHORT_EVENTS die 1).host =
      s.host := fun w => by rw [State.addRegAt_host, State.setRegAt_host]
  rw [State.postShort, State.post_queuedEvents _ _ (by rw [hhost]; exact hroom), State.queuedEvents, hhost, State.queuedEvents]

theorem State.regionPace_queuedEvents (s : State) (die : Nat) (x : Nat × Nat) (hx : x.1 < 64)
    (hroom : s.queuedEvents.length < 1024) : (s.regionPace die x.1 x.2).queuedEvents =
      s.queuedEvents ++ if s.newlyShort die x then [shortEvent die x] else [] := by
  rw [State.queuedEvents, List.length_map] at hroom
  rw [s.regionPace_eq die x hx]
  cases s.newlyShort die x with
  | true => exact State.postShort_queuedEvents _ x hroom
  | false => exact (List.append_nil _).symm

/-- A measurement says nothing of the regions beside its own. -/
theorem State.newlyShort_regionPace (s : State) {die : Nat} (x y : Nat × Nat) (hdie : die < 4) (hx : x.1 < 64)
    (hy : y.1 < 64) (h : x.1 ≠ y.1) : (s.regionPace die x.1 x.2).newlyShort die y = s.newlyShort die y := by
  have hf := s.regionPace_frame x hdie hx
  rw [State.newlyShort, State.missesPace, hf.target, hf.held, hf.overLimit, s.regionPace_rail_other die x hx (by omega),
    s.regionPace_shortBit x hdie hx hy, beq_false_of_ne h.symm, Bool.and_false, Bool.or_false]
  rfl

theorem State.trimmed_regionPace (s : State) {die : Nat} (x y : Nat × Nat) (hdie : die < 4) (hx : x.1 < 64)
    (h : x.1 ≠ y.1) : (s.regionPace die x.1 x.2).trimmed die y = s.trimmed die y := by
  have hf := s.regionPace_frame x hdie hx
  rw [State.trimmed, hf.target, hf.held, hf.overLimit, s.regionPace_rail_other die x hx (by omega), State.trimmed]

/-! ### A window's measurements -/

/-- Measurements of a die's regions, none of them twice. -/
def DistinctRegions (l : List (Nat × Nat)) : Prop := (l.map Prod.fst).Nodup ∧ ∀ x ∈ l, x.1 < 64

theorem distinctRegions_cons {x : Nat × Nat} {l : List (Nat × Nat)} (h : DistinctRegions (x :: l)) :
    x.1 < 64 ∧ (∀ y ∈ l, y.1 < 64 ∧ x.1 ≠ y.1) ∧ DistinctRegions l := by
  obtain ⟨hnodup, hlt⟩ := h
  rw [List.map_cons, List.nodup_cons] at hnodup
  rw [List.forall_mem_cons] at hlt
  exact ⟨hlt.1, fun y hy => ⟨hlt.2 y hy, fun he => hnodup.1 (he ▸ List.mem_map_of_mem hy)⟩, hnodup.2, hlt.2⟩

theorem DistinctRegions.eq_of_fst_eq {l : List (Nat × Nat)} (h : DistinctRegions l) {x y : Nat × Nat} (hx : x ∈ l)
    (hy : y ∈ l) (he : x.1 = y.1) : x = y :=
  List.inj_on_of_nodup_map h.1 hx hy he

theorem distinctRegions_window {paces : List Nat} (h : paces.length = 64) : DistinctRegions ((List.range 64).zip paces) := by
  refine ⟨?_, fun x hx => List.mem_range.1 (List.of_mem_zip hx).1⟩
  rw [List.map_fst_zip (by rw [List.length_range, h])]
  exact List.nodup_range

/-- One measurement after another. -/
def State.measure (s : State) (die : Nat) (l : List (Nat × Nat)) : State := l.foldl (fun s x => s.regionPace die x.1 x.2) s

theorem State.measure_cons (s : State) (die : Nat) (x : Nat × Nat) (l : List (Nat × Nat)) :
    s.measure die (x :: l) = (s.regionPace die x.1 x.2).measure die l := rfl

section
variable {die : Nat} {l : List (Nat × Nat)}

theorem State.newlyShort_filter (s : State) {x : Nat × Nat} (hdie : die < 4) (hx : x.1 < 64)
    (hl : ∀ y ∈ l, y.1 < 64 ∧ x.1 ≠ y.1) :
    l.filter ((s.regionPace die x.1 x.2).newlyShort die) = l.filter (s.newlyShort die) :=
  List.filter_congr fun y hy => s.newlyShort_regionPace x y hdie hx (hl y hy).1 (hl y hy).2

theorem State.measure_frame (s : State) (hdie : die < 4) (hl : DistinctRegions l) : s.PaceFrame (s.measure die l) := by
  induction l generalizing s with
  | nil => exact State.PaceFrame.refl s
  | cons x l ih =>
    obtain ⟨hx, -, hl⟩ := distinctRegions_cons hl
    exact (s.regionPace_frame x hdie hx).trans (ih _ hl)

theorem State.measure_rail_other (s : State) {k : Nat} (hl : DistinctRegions l) (hk : ∀ y ∈ l, 64 * die + y.1 ≠ k) :
    (s.measure die l).rail k = s.rail k := by
  induction l generalizing s with
  | nil => rfl
  | cons x l ih =>
    obtain ⟨hx, -, hl⟩ := distinctRegions_cons hl
    rw [List.forall_mem_cons] at hk
    exact (ih _ hl hk.2).trans (s.regionPace_rail_other die x hx hk.1)

theorem State.measure_rail (s : State) (hdie : die < 4) (hl : DistinctRegions l) {x : Nat × Nat} (hx : x ∈ l) :
    (s.measure die l).rail (64 * die + x.1) = s.trimmed die x := by
  induction l generalizing s with
  | nil => cases hx
  | cons y l ih =>
    obtain ⟨hy, hothers, htail⟩ := distinctRegions_cons hl
    rw [State.measure_cons]
    rcases List.mem_cons.1 hx with rfl | hx
    · rw [State.measure_rail_other _ htail fun z hz he => (hothers z hz).2 (Nat.add_left_cancel he).symm,
        s.regionPace_rail_self die x hy]
    · rw [ih _ htail hx, s.trimmed_regionPace y x hdie hy (hothers x hx).2]

theorem State.measure_shortBit (s : State) {region : Nat} (hdie : die < 4) (hl : DistinctRegions l) (hr : region < 64) :
    (s.measure die l).shortBit die region =
      (s.shortBit die region || (l.filter (s.newlyShort die)).any fun x => region == x.1) := by
  induction l generalizing s with
  | nil => exact (Bool.or_false _).symm
  | cons x l ih =>
    obtain ⟨hx, hothers, hl⟩ := distinctRegions_cons hl
    rw [State.measure_cons, ih _ hl, s.newlyShort_filter hdie hx hothers, s.regionPace_shortBit x hdie hx hr]
    cases h : s.newlyShort die x <;> simp [h, Bool.or_assoc]

/-- The bit of a region after its measurement: it was set, or the measurement misses the target. -/
theorem State.measure_shortBit_iff (s : State) {x : Nat × Nat} (hdie : die < 4) (hl : DistinctRegions l) (hx : x ∈ l) :
    (s.measure die l).shortBit die x.1 = true ↔ s.shortBit die x.1 = true ∨ s.missesPace die x = true := by
  rw [s.measure_shortBit hdie hl (hl.2 x hx), Bool.or_eq_true, List.any_eq_true]
  constructor
  · rintro (hbit | ⟨y, hy, hxy⟩)
    · exact .inl hbit
    · obtain ⟨hyl, hnew⟩ := List.mem_filter.1 hy
      obtain rfl : y = x := hl.eq_of_fst_eq hyl hx (eq_of_beq hxy).symm
      exact .inr (Bool.and_eq_true_iff.1 hnew).1
  · rintro (hbit | hmiss)
    · exact .inl hbit
    · cases hbit : s.shortBit die x.1 with
      | true => exact .inl rfl
      | false =>
        exact .inr ⟨x, List.mem_filter.2 ⟨hx, by rw [State.newlyShort, hmiss, hbit]; rfl⟩, beq_self_eq_true x.1⟩

theorem State.measure_shortEvents (s : State) (hdie : die < 4) (hl : DistinctRegions l) :
    (s.measure die l).shortEvents die = min 65535 (s.shortEvents die + (l.filter (s.newlyShort die)).length) := by
  induction l generalizing s with
  | nil => exact (min_eq_right (s.shortEvents_le die)).symm
  | cons x l ih =>
    obtain ⟨hx, hothers, hl⟩ := distinctRegions_cons hl
    rw [State.measure_cons, ih _ hl, s.newlyShort_filter hdie hx hothers, s.regionPace_shortEvents x hdie hx]
    cases h : s.newlyShort die x <;> simp [h] <;> omega

theorem State.measure_queuedEvents (s : State) (hdie : die < 4) (hl : DistinctRegions l)
    (hroom : s.queuedEvents.length + l.length ≤ 1024) :
    (s.measure die l).queuedEvents = s.queuedEvents ++ (l.filter (s.newlyShort die)).map (shortEvent die) := by
  induction l generalizing s with
  | nil => exact (List.append_nil _).symm
  | cons x l ih =>
    obtain ⟨hx, hothers, hl⟩ := distinctRegions_cons hl
    rw [List.length_cons] at hroom
    have hstep := s.regionPace_queuedEvents die x hx (by omega)
    have hroom' : (s.regionPace die x.1 x.2).queuedEvents.length + l.length ≤ 1024 := by
      rw [hstep, List.length_append]
      split
      · rw [List.length_singleton]
        omega
      · rw [List.length_nil]
        omega
    rw [State.measure_cons, ih _ hl hroom', s.newlyShort_filter hdie hx hothers, hstep]
    cases h : s.newlyShort die x <;> simp [h]

end

/-! ### The window -/

theorem mem_window {paces : List Nat} {region pace : Nat} (hlen : paces.length = 64) (h : paces[region]? = some pace) :
    (region, pace) ∈ (List.range 64).zip paces := by
  obtain ⟨hlt, hget⟩ := List.getElem?_eq_some_iff.1 h
  exact List.mem_iff_getElem.2 ⟨region, by rw [List.length_zip, List.length_range]; omega, by simp [hget]⟩

/-- FAB_PACE_STATUS at the end of a window: the lowest pace, its region and the highest rail. -/
def State.showPace (s : State) (die pace region rail : Nat) : State :=
  ((s.setRegAt Reg.FAB_PACE_STATUS_MIN_PACE die pace).setRegAt Reg.FAB_PACE_STATUS_MIN_REGION die region).setRegAt
    Reg.FAB_PACE_STATUS_MAX_RAIL die rail

@[simp] theorem State.showPace_tiles (s : State) (die pace region rail : Nat) :
    (s.showPace die pace region rail).tiles = s.tiles := by
  rw [State.showPace, State.setRegAt_tiles, State.setRegAt_tiles, State.setRegAt_tiles]

@[simp] theorem State.showPace_stack (s : State) (die pace region rail : Nat) :
    (s.showPace die pace region rail).stack = s.stack := by
  rw [State.showPace, State.setRegAt_stack, State.setRegAt_stack, State.setRegAt_stack]

@[simp] theorem State.showPace_queuedEvents (s : State) (die pace region rail : Nat) :
    (s.showPace die pace region rail).queuedEvents = s.queuedEvents := by
  rw [State.queuedEvents, State.showPace, State.setRegAt_host, State.setRegAt_host, State.setRegAt_host, State.queuedEvents]

@[simp] theorem State.showPace_rail (s : State) (die pace region rail k : Nat) :
    (s.showPace die pace region rail).rail k = s.rail k := by
  rw [State.rail, State.showPace, State.setRegAt_fab, State.setRegAt_fab, State.setRegAt_fab, State.rail]

/-- A field that the end of a window does not write. -/
def Field.outsideWindowEnd (g : Field) : Prop :=
  Reg.FAB_PACE_STATUS_MIN_PACE.separate g ∧ Reg.FAB_PACE_STATUS_MIN_REGION.separate g ∧
    Reg.FAB_PACE_STATUS_MAX_RAIL.separate g

theorem Reg.short_outsideWindowEnd : Reg.FAB_PACE_SHORT_SHORT.outsideWindowEnd := by
  unfold Field.outsideWindowEnd Field.separate
  decide

theorem Reg.shortEvents_outsideWindowEnd : Reg.FAB_PACE_STATUS_SHORT_EVENTS.outsideWindowEnd := by
  unfold Field.outsideWindowEnd Field.separate
  decide

theorem State.showPace_getAt (s : State) {die : Nat} (pace region rail : Nat) {g : Field} {j : Nat} (hdie : die < 4)
    (hj : j < g.count) (hg : g.outsideWindowEnd) : (s.showPace die pace region rail).regs.getAt g j = s.regs.getAt g j := by
  obtain ⟨hpace, hregion, hrail⟩ := hg
  exact ((RegFile.getAt_setAt_separate _ _ hrail (by decide) hdie hj).trans
    (RegFile.getAt_setAt_separate _ _ hregion (by decide) hdie hj)).trans
    (RegFile.getAt_setAt_separate _ _ hpace (by decide) hdie hj)

theorem State.showPace_shortBit (s : State) {die : Nat} (pace region rail k : Nat) (hdie : die < 4) :
    (s.showPace die pace region rail).shortBit die k = s.shortBit die k :=
  congrArg (bitOf · k) (s.showPace_getAt pace region rail hdie hdie Reg.short_outsideWindowEnd)

theorem State.showPace_shortEvents (s : State) {die : Nat} (pace region rail : Nat) (hdie : die < 4) :
    (s.showPace die pace region rail).shortEvents die = s.shortEvents die :=
  s.showPace_getAt pace region rail hdie hdie Reg.shortEvents_outsideWindowEnd

/-- A window of a governed die is its measurements, and what FAB_PACE_STATUS then shows. -/
theorem exec_paceWindow (s : State) {die : Nat} {paces : List Nat} (hdie : die < 4) (hp : s.fab.powered = true)
    (hk : s.fab.parked = false) (hl : paces.length = 64) :
    ∃ pace region rail, exec (.paceWindow die paces) s =
      .next ((s.measure die ((List.range 64).zip paces)).showPace die pace region rail) := by
  have hgoes : ¬ (4 ≤ die ∨ s.fab.powered = false ∨ s.fab.parked = true ∨ paces.length ≠ 64) := by
    simp [hp, hk, hl, hdie]
  exact ⟨_, _, _, congrArg Host.Outcome.next (if_neg hgoes)⟩

/-! ### A short region at the target again -/

theorem exec_paceShortClear (s : State) {die region since : Nat} (hdie : die < 4) (hr : region < 64)
    (hbit : s.shortBit die region = true) (hfind : Tbl.find s.fab.paceHeld (64 * die + region) = some since)
    (hheld : since + 1000000 ≤ s.now) : exec (.paceShortClear die region) s =
      .next (({ s with fab := { s.fab with paceHeld := Tbl.del s.fab.paceHeld (64 * die + region) } } : State).setRegAt
        Reg.FAB_PACE_SHORT_SHORT die (s.regs.getAt Reg.FAB_PACE_SHORT_SHORT die - 2 ^ region)) := by
  have hback : s.paceBack (64 * die + region) = true := by
    rw [State.paceBack, hfind]
    exact decide_eq_true hheld
  have hgoes : ¬ (4 ≤ die ∨ 64 ≤ region ∨ s.shortBit die region = false ∨ s.paceBack (64 * die + region) = false) := by
    simp [hbit, hback, hdie, hr]
  exact congrArg Host.Outcome.next (if_neg hgoes)

/-! ### The power limit -/

theorem exec_powerLimitWindow (s : State) (watts : Nat) (hl : 2000 ≤ s.regs.get Reg.SAF_POWER_CTL_LIMIT)
    (hh : s.regs.get Reg.SAF_POWER_CTL_LIMIT ≤ 4300) : exec (.powerLimitWindow watts) s = .next { s with
      regs := s.regs.setFlag Reg.SAF_POWER_CTL_HELD (decide (s.regs.get Reg.SAF_POWER_CTL_LIMIT ≤ watts))
      fab := { s.fab with overLimit := decide (s.regs.get Reg.SAF_POWER_CTL_LIMIT < watts) } } := by
  have hlimit : s.powerLimit = s.regs.get Reg.SAF_POWER_CTL_LIMIT := if_pos ⟨hl, hh⟩
  rw [← hlimit]
  rfl

/-- Settles O23: a window is the measurements of the die's regions one after another, of which each changes its own region's rail
and bit and reads nothing of the others. -/
theorem paceGovernor : Obligations.PaceGovernor := by
  unfold Obligations.PaceGovernor
  intro s
  refine ⟨fun die paces hdie hp hk hlen => ?_, fun pace target rail held above hlo hhi => ?_,
    fun die region since hdie hr hbit hfind hheld => ?_, fun margins => rfl,
    fun watts hl hh => exec_powerLimitWindow s watts hl hh⟩
  · obtain ⟨low, slow, top, he⟩ := exec_paceWindow s hdie hp hk hlen
    have hl := distinctRegions_window hlen
    have hframe := s.measure_frame hdie hl
    refine ⟨_, he, ?_, ?_, fun region pace hx => ⟨?_, ?_⟩, ?_, fun hroom => ?_, fun k hk => ?_⟩
    · rw [State.showPace_tiles]
      exact hframe.tiles
    · rw [State.showPace_stack]
      exact hframe.stack
    · rw [State.showPace_rail]
      exact s.measure_rail hdie hl (mem_window hlen hx)
    · refine (Bool.coe_iff_coe.2 (State.showPace_shortBit _ low slow top region hdie)).trans ?_
      refine (s.measure_shortBit_iff hdie hl (mem_window hlen hx)).trans ?_
      exact or_congr_right decide_eq_true_iff
    · exact (State.showPace_shortEvents _ low slow top hdie).trans (s.measure_shortEvents hdie hl)
    · refine (State.showPace_queuedEvents _ die low slow top).trans (s.measure_queuedEvents hdie hl ?_)
      simpa [State.queuedEvents, hlen] using hroom
    · rw [State.showPace_rail]
      refine s.measure_rail_other hl fun x hx he => hk ?_
      have := hl.2 x hx
      omega
  · obtain ⟨hmin, hmax, hheld⟩ := trim_bounds pace target held above hlo hhi
    refine ⟨hmin, hmax, hheld, ?_, ?_, ?_, ?_⟩
    · rintro rfl
      exact trim_above pace target rail held
    · rintro rfl rfl
      exact trim_low rail
    · rintro rfl
      exact trim_high rail held
    · rintro rfl
      exact trim_near rail held
  · refine ⟨_, exec_paceShortClear s hdie hr hbit hfind hheld, rfl, fun k hk => ?_⟩
    exact (bitOf_getAt_setAt_short _ die _ hk).trans (bitOf_sub_two_pow hbit k)

end Sys2Proof.Machine
end

section
/-! SUPPORT. The repair of a column (R14, R16, R129): marking a column's tiles, and what starting a repair changes. -/

namespace Sys2Proof.Machine

/-! ### Marking a column -/

/-- Set or clear REPAIR_PENDING on one tile. -/
def State.markTile (b : Bool) (s : State) (t : Nat) : State := s.setTile t { s.tile t with repairPending := b }

theorem State.markTile_tile (s : State) (t u : Nat) (b : Bool) :
    (s.markTile b t).tile u = if u = t then { s.tile u with repairPending := b } else s.tile u := by
  unfold State.markTile
  split
  · next h => rw [h, State.tile_setTile_self]
  · next h => rw [State.tile_setTile_other s _ (Ne.symm h)]

/-- The logical tiles of a column, top row first. -/
def columnTiles (col : Nat) : List Nat := (List.range 64).map fun y => col / 64 * 4096 + 64 * y + col % 64

theorem mem_columnTiles (t : Nat) : t ∈ columnTiles (columnOf t) := by
  refine List.mem_map.2 ⟨t / 64 % 64, List.mem_range.2 (by omega), ?_⟩
  unfold columnOf
  omega

theorem State.markColumn_eq_foldl (s : State) (col : Nat) (b : Bool) :
    s.markColumn col b = (columnTiles col).foldl (State.markTile b) s := by
  rw [columnTiles, List.foldl_map]
  rfl

/-- Only tiles change. -/
theorem State.markColumn_eq (s : State) (col : Nat) (b : Bool) :
    s.markColumn col b = { s with tiles := (s.markColumn col b).tiles } := by
  rw [State.markColumn_eq_foldl]
  refine foldl_keeps (P := fun x : State => x = { s with tiles := x.tiles }) (fun x t hx => ?_) _ rfl
  rw [hx]
  rfl

@[simp] theorem State.markColumn_fab (s : State) (col : Nat) (b : Bool) : (s.markColumn col b).fab = s.fab := by
  rw [State.markColumn_eq]

@[simp] theorem State.markColumn_res (s : State) (col : Nat) (b : Bool) : (s.markColumn col b).res = s.res := by
  rw [State.markColumn_eq]

@[simp] theorem State.markColumn_firstRow (s : State) (col : Nat) (b : Bool) (k : Nat) :
    (s.markColumn col b).firstRow k = s.firstRow k := by
  rw [State.firstRow, State.markColumn_fab, State.firstRow]

@[simp] theorem State.markColumn_repairHold (s : State) (col : Nat) (b : Bool) (t : Nat) :
    (s.markColumn col b).repairHold t = s.repairHold t := by
  rw [State.repairHold, State.markColumn_res, State.markColumn_fab, State.repairHold]

/-- Of each tile only REPAIR_PENDING changes. -/
theorem State.markColumn_tile (s : State) (col : Nat) (b : Bool) (u : Nat) :
    (s.markColumn col b).tile u = { s.tile u with repairPending := ((s.markColumn col b).tile u).repairPending } := by
  rw [State.markColumn_eq_foldl]
  refine foldl_keeps (P := fun x : State => x.tile u = { s.tile u with repairPending := (x.tile u).repairPending })
    (fun x t hx => ?_) _ rfl
  rw [State.markTile_tile]
  split
  · rw [hx]
  · exact hx

/-- The marks stand on every tile of the column. -/
theorem State.markColumn_repairPending (s : State) (b : Bool) (t : Nat) :
    ((s.markColumn (columnOf t) b).tile t).repairPending = b := by
  obtain ⟨before, after, hsplit⟩ := List.append_of_mem (mem_columnTiles t)
  rw [State.markColumn_eq_foldl, hsplit, List.foldl_append, List.foldl_cons]
  refine foldl_keeps (P := fun x : State => (x.tile t).repairPending = b) (fun x u hx => ?_) _ ?_
  · rw [State.markTile_tile]
    split
    · rfl
    · exact hx
  · rw [State.markTile_tile, if_pos rfl]

/-! ### Starting a repair -/

/-- The repairs with that of tile `t` copying. -/
def startCopy (t : Nat) (l : List Repair) : List Repair := l.map fun x => if x.tile = t then { x with copying := true } else x

/-- The column's FIRST_ROW at its new row, the copy under way and the health area due. -/
def State.placeRepair (s : State) (t : Nat) (r : Repair) : State :=
  { s with
    fab := { s.fab with
      spareMap := Tbl.put s.fab.spareMap (columnOf t) r.row
      repairs := startCopy t s.fab.repairs }
    boot := { s.boot with healthDirty := true } }

theorem exec_tileRepair (s : State) {t : Nat} {r : Repair}
    (hr : s.fab.repairs.find? (fun r => r.tile == t && !r.copying) = some r) (hb : s.stepState ≤ 1) :
    exec (.tileRepair t) s = .next ((s.placeRepair t r).markColumn (columnOf t) false) := by
  have hboundary : s.boundary = true := decide_eq_true hb
  show execTileRepair t s = _
  rw [execTileRepair, hr]
  dsimp only
  rw [if_neg (by rw [hboundary]; exact Bool.noConfusion)]
  rfl

/-- The tile waits for its copy. -/
theorem State.repairHold_placeRepair (s : State) {t : Nat} {r : Repair} (hr : r ∈ s.fab.repairs) (ht : r.tile = t) :
    (s.placeRepair t r).repairHold t = true := by
  have hcopy : { r with copying := true } ∈ startCopy t s.fab.repairs :=
    List.mem_map.2 ⟨r, hr, if_pos ht⟩
  refine Bool.or_eq_true_iff.2 (.inr (List.any_eq_true.2 ⟨_, hcopy, ?_⟩))
  simp [ht]

/-- Settles O24: of the tiles a repair changes no more than the marks of its column, and it holds its own tile until the copy has
finished. -/
theorem tileRepairs : Obligations.TileRepairs := by
  unfold Obligations.TileRepairs
  intro s t r
  refine ⟨fun hr hb => ?_, fun hr => ?_⟩
  · have htile : r.tile = t := by
      have hpred := List.find?_some hr
      rw [Bool.and_eq_true] at hpred
      exact eq_of_beq hpred.1
    refine ⟨_, exec_tileRepair s hr hb, ?_, State.markColumn_tile _ _ _, State.markColumn_repairPending _ _ _,
      fun k hk => ?_, ?_, ?_⟩
    · rw [State.markColumn_firstRow]
      exact Tbl.get_put_self _ _ _ _
    · rw [State.markColumn_firstRow]
      exact Tbl.get_put_other _ _ _ (Ne.symm hk)
    · rw [State.markColumn_repairHold]
      exact s.repairHold_placeRepair (List.mem_of_find?_eq_some hr) htile
    · rw [State.markColumn_fab]
      exact (s.placeRepair t r).markColumn_eq (columnOf t) false
  · show execTileRepairDone t s = _
    rw [execTileRepairDone, hr]

end Sys2Proof.Machine
end

section
/-! SUPPORT. The completion of an engine's instruction (R80, R98, R174): which bytes its writes leave as they were, and what a
completion changes of its tile. -/

namespace Sys2Proof.Machine

/-! ### Writes that miss a byte -/

/-- The write does not reach the byte at place `p` of tile memory or of the register files. -/
def Write.Misses (w : Write) (p : Place) : Prop := w.file = p.file → p.addr < w.addr ∨ w.addr + w.data.length ≤ p.addr

theorem Mem.byte_write_outside (wsize : Nat) (m : Mem) (a c : Nat) (bs : List Byte) (p : Bool)
    (h : c < a ∨ a + bs.length ≤ c) : (m.write wsize a bs p).1.byte c = m.byte c :=
  Mem.byte_writeRaw_outside m a c bs p h

theorem Tile.applyWrite_byte (num : Nat) (x : Tile) {w : Write} {p : Place} (h : w.Misses p) :
    ((x.applyWrite num w).tile.memAt p).byte p.addr = (x.memAt p).byte p.addr := by
  obtain ⟨file, a⟩ := p
  unfold Tile.applyWrite
  split
  · cases file <;> rfl
  · split
    · next hf =>
      cases file
      · rfl
      · exact Mem.byte_writeRaw_outside _ _ _ _ _ (h hf)
    · next hf =>
      cases file
      · exact Mem.byte_write_outside _ _ _ _ _ _ (h (Bool.eq_false_of_not_eq_true hf))
      · rfl

theorem Tile.applyWrites_byte (num : Nat) (x : Tile) {ws : List Write} {p : Place} (h : ∀ w ∈ ws, w.Misses p) :
    ((x.applyWrites num ws).tile.memAt p).byte p.addr = (x.memAt p).byte p.addr := by
  induction ws generalizing x with
  | nil => rfl
  | cons w ws ih =>
    obtain ⟨hw, hws⟩ := List.forall_mem_cons.1 h
    exact (ih (x.applyWrite num w).tile hws).trans (x.applyWrite_byte num hw)

/-! ### What else writes leave -/

/-- Beside the two memories, `y` differs from `x` in no more than the counts of memory errors. -/
def Tile.WriteFrame (x y : Tile) : Prop :=
  y = { x with
    mem := y.mem
    files := y.files
    corrected := y.corrected
    uncorrected := y.uncorrected }

theorem Tile.WriteFrame.trans {x y z : Tile} (h : x.WriteFrame y) (h' : y.WriteFrame z) : x.WriteFrame z :=
  Eq.trans h' (by rw [h])

theorem Tile.applyWrite_frame (num : Nat) (x : Tile) (w : Write) : x.WriteFrame (x.applyWrite num w).tile := by
  unfold Tile.applyWrite
  split
  · rfl
  · split <;> rfl

theorem Tile.applyWrites_frame (num : Nat) (x : Tile) (ws : List Write) : x.WriteFrame (x.applyWrites num ws).tile := by
  induction ws generalizing x with
  | nil => rfl
  | cons w ws ih => exact (x.applyWrite_frame num w).trans (ih (x.applyWrite num w).tile)

/-! ### Completion -/

section
variable (num : Nat) (x : Tile) (f : Inflight) (ws : List Write) (fl : Flags)

/-- The tile with `f` out of progress. -/
def Tile.without : Tile := { x with inflight := x.inflight.filter fun g => g.id != f.id }

/-- The tile once `f` is out of progress and the writes `ws` and the flags `fl` are in. -/
def Tile.landed : Tile :=
  let y := ((x.without f).applyWrites num ws).tile
  { y with
    asw := y.asw ||| fl
    selfSigs := [] }

/-- With no signal held, that is all a completion does to its tile. -/
theorem Tile.complete_tile (folds : List CalFold) (h : x.selfSigs = []) :
    (x.complete num f ws folds fl).tile = x.landed num f ws fl := by
  have hfree : (x.complete num f ws folds fl).tile = (Tile.freeSelfSigs num (x.landed num f ws fl) x.selfSigs).tile := rfl
  rw [hfree, h]
  rfl

theorem Tile.landed_eq : x.landed num f ws fl = { x with
    inflight := x.inflight.filter fun g => g.id != f.id
    asw := x.asw ||| fl
    selfSigs := []
    mem := (x.landed num f ws fl).mem
    files := (x.landed num f ws fl).files
    corrected := (x.landed num f ws fl).corrected
    uncorrected := (x.landed num f ws fl).uncorrected } := by
  have hframe := (x.without f).applyWrites_frame num ws
  unfold Tile.landed
  generalize ((x.without f).applyWrites num ws).tile = y at hframe
  dsimp only
  rw [hframe]
  rfl

theorem Tile.landed_byte {p : Place} (h : ∀ w ∈ ws, w.Misses p) :
    ((x.landed num f ws fl).memAt p).byte p.addr = (x.memAt p).byte p.addr :=
  (x.without f).applyWrites_byte num h

end

/-- What an instruction in progress writes and the flags it raises; an attention pass knows them when it ends. -/
def Tile.outcome (x : Tile) (f : Inflight) : List Write × Flags :=
  match f.work with
  | .att r => ((r.finish x.mem x.retired).1, f.flags ||| (r.finish x.mem x.retired).2.2)
  | _ => (f.writes, f.flags)

/-- The first instruction of the engine completes with its outcome; an attention pass waits for its products. -/
theorem Tile.completeWork_eq (num : Nat) {x : Tile} {att : Bool} {f : Inflight}
    (hf : x.firstOf (if att then .attention else .vector) = some f) (hr : ∀ r, f.work = .att r → r.todo = []) :
    ∃ folds, x.completeWork num att = x.complete num f (x.outcome f).1 folds (x.outcome f).2 := by
  unfold Tile.completeWork Tile.outcome
  rw [hf]
  dsimp only
  cases hw : f.work with
  | att r => exact ⟨(r.finish x.mem x.retired).2.1, if_neg (not_not_intro (hr r hw))⟩
  | _ => exact ⟨f.folds, rfl⟩

/-- Settles O14: a completion is the writes and the flags of the instruction, and writes leave alone every byte they miss. -/
theorem enginesComplete : Obligations.EnginesComplete := by
  unfold Obligations.EnginesComplete
  intro s t att f x out hf hr hs
  obtain ⟨folds, he⟩ := Tile.completeWork_eq t hf hr
  refine ⟨x.complete t f out.1 folds out.2, ?_, ?_⟩
  · show Host.Outcome.next (s.takeTile t (x.completeWork t att)) = _
    rw [he]
    rfl
  · have hbyte (p : Place) (h : ∀ w ∈ out.1, w.Misses p) := x.landed_byte t f out.1 out.2 h
    rw [Tile.complete_tile t x f out.1 out.2 folds hs]
    refine ⟨by rw [Tile.landed_eq], by rw [Tile.landed_eq], fun a => hbyte ⟨false, a⟩, fun a => hbyte ⟨true, a⟩, ?_⟩
    rw [Tile.landed_eq]
    exact ⟨rfl, rfl, rfl, rfl, rfl⟩

end Sys2Proof.Machine
end

section
/-! SUPPORT. The verification of matrix segments and attention products (R97 to R102): what each verdict does to the tile. -/

namespace Sys2Proof.Machine

/-! ### One segment judged -/

/-- The instruction `f` whose segment or product `g` is the next one that the tile verifies (R98). -/
def Tile.nextSegment (x : Tile) (f : Inflight) (g : Seg) : Prop :=
  x.inflight.find? (fun f => f.work.segment.isSome) = some f ∧ f.work.segment = some g

section
variable (num seed : Nat) {x : Tile} (corrupt : List (Nat × Nat)) {f : Inflight} {g : Seg} {d : Nat}

/-- A first attempt is accepted where it passes; where it fails it is noted for the same operands to run again (R98, R100). -/
theorem Tile.segVerify_eq (hseg : x.nextSegment f g) (hfirst : f.work.failed = none) :
    let sums := g.sums seed x.stepNo corrupt
    let words := sums.map Prod.fst
    let v := g.verdict x.factor words
    let noted := x.noteVerdict v
    x.segVerify num seed corrupt = if v.pass then noted.accept num f sums false
      else .ok (({ noted with chkRetries := satAdd 16 noted.chkRetries 1 }).putInflight
        { f with work := f.work.retrying (g.digest words) }) := by
  obtain ⟨hnext, hg⟩ := hseg
  simp only [Tile.segVerify, hnext, hg, hfirst]

/-- A second attempt is accepted with ST_CHECKSUM_RETRY where it passes, with ST_CHECKSUM_TOL where both attempts agree within
the widest tolerance, and else under poison, which retires the tile (Table 03.4). -/
theorem Tile.segRetry_eq (hseg : x.nextSegment f g) (hagain : f.work.failed = some d) :
    let sums := g.sums seed x.stepNo corrupt
    let words := sums.map Prod.fst
    let v := g.verdict x.factor words
    let noted := x.noteVerdict v
    x.segRetry num seed corrupt =
      if v.pass then (⟨noted, [tileEv num St.checksumRetry 0]⟩ : TileRes).bind fun y => y.accept num f sums false
      else if d = g.digest words ∧ v.worst then
        (⟨{ noted with factor := 256, tolMisses := satAdd 16 noted.tolMisses 1 }, [tileEv num St.checksumTol 0]⟩ : TileRes).bind
          fun y => y.accept num f sums false
      else (noted.retire num St.tileRetired).bind fun y => y.accept num f sums true := by
  obtain ⟨hnext, hg⟩ := hseg
  simp only [Tile.segRetry, hnext, hg, hagain]

end

/-! ### The last spill -/

/-- After the last spill a matrix instruction reads its wide rows where it needs them and completes (R97). -/
theorem Tile.mmaComplete_eq (num : Nat) {x : Tile} {f : Inflight} {r : MmaRun} (hf : x.firstOf .matrix = some f)
    (hw : f.work = .mma r) (hdone : r.segs ≤ r.seg) :
    x.mmaComplete num = (if r.n = 0 ∨ r.more then .ok x else x.touchAll num r.wideRows).bind fun y =>
      let out := ({ r with tainted := r.tainted || y.retired }).final y.mem
      y.complete num f out.1 out.2.1 (f.flags ||| out.2.2) := by
  simp only [Tile.mmaComplete, hf, hw, if_neg (Nat.not_lt.2 hdone)]

/-! ### On the module -/

theorem exec_segmentVerify (s : State) (t : Nat) (corrupt : List (Nat × Nat)) :
    exec (.segmentVerify t corrupt) s = .next (s.takeTile t ((s.tile t).segVerify t s.seed corrupt)) := rfl

theorem exec_segmentRetryDone (s : State) (t : Nat) (corrupt : List (Nat × Nat)) :
    exec (.segmentRetryDone t corrupt) s = .next (s.takeTile t ((s.tile t).segRetry t s.seed corrupt)) := rfl

theorem exec_mmaComplete (s : State) (t : Nat) :
    exec (.mmaComplete t) s = .next (s.takeTile t ((s.tile t).mmaComplete t)) := rfl

/-- Settles O15: the attempt and its verdict decide which of the outcomes of Table 03.4 the tile takes. -/
theorem matrixSegments : Obligations.MatrixSegments := by
  unfold Obligations.MatrixSegments
  intro s t f
  refine ⟨fun corrupt g hnext hg => ?_, fun r hf hw hdone => ?_⟩
  · have hverify := Tile.segVerify_eq t s.seed corrupt ⟨hnext, hg⟩
    have hretry := fun d => Tile.segRetry_eq t s.seed (d := d) corrupt ⟨hnext, hg⟩
    dsimp only at hverify hretry ⊢
    refine ⟨fun hfirst hpass => ?_, fun hfirst hfail => ?_, fun d hagain hpass => ?_, fun d hagain hfail hsame hworst => ?_,
      fun d hagain hfail hbad => ?_⟩
    · rw [exec_segmentVerify, hverify hfirst, if_pos hpass]
    · rw [exec_segmentVerify, hverify hfirst, if_neg (Bool.eq_false_iff.1 hfail)]
      rfl
    · rw [exec_segmentRetryDone, hretry d hagain, if_pos hpass]
      rfl
    · rw [exec_segmentRetryDone, hretry d hagain, if_neg (Bool.eq_false_iff.1 hfail), if_pos ⟨hsame, hworst⟩]
      rfl
    · rw [exec_segmentRetryDone, hretry d hagain, if_neg (Bool.eq_false_iff.1 hfail),
        if_neg fun hboth => hbad.elim (· hboth.1) (Bool.eq_false_iff.1 · hboth.2)]
      rfl
  · rw [exec_mmaComplete, Tile.mmaComplete_eq t hf hw hdone]
    rfl

end Sys2Proof.Machine
end

section
/-! SUPPORT. Issue of a tile's instruction (R113, R173): the check codes that it meets, the tile that its fetch leaves, and what
an issue makes of the module. -/

namespace Sys2Proof.Machine

/-! ### What leaves all but the check codes alone -/

section
variable {x y : Tile} (h : x.WriteFrame y)
include h

theorem Tile.WriteFrame.state : y.state = x.state := by rw [h]

theorem Tile.WriteFrame.pc : y.pc = x.pc := by rw [h]

theorem Tile.WriteFrame.fault : y.fault = x.fault := by rw [h]

theorem Tile.WriteFrame.inflight : y.inflight = x.inflight := by rw [h]

theorem Tile.WriteFrame.nextId : y.nextId = x.nextId := by rw [h]

theorem Tile.WriteFrame.goesOn : y.goesOn ↔ x.goesOn :=
  Tile.goesOn_congr y x (by rw [h]) (by rw [h]) (by rw [h])

end

theorem Tile.touch_frame (num : Nat) (x : Tile) (a n : Nat) : x.WriteFrame (x.touch num a n).tile := rfl

/-- Meeting the check codes of tile memory changes no byte that it holds. -/
theorem Tile.touch_read (num : Nat) (x : Tile) (a n b k : Nat) : (x.touch num a n).tile.mem.read b k = x.mem.read b k := rfl

theorem Tile.touchAll_frame (num : Nat) (x : Tile) (l : List (Nat × Nat)) : x.WriteFrame (x.touchAll num l).tile := by
  induction l generalizing x with
  | nil => rfl
  | cons p l ih => exact (x.touch_frame num p.1 p.2).trans (ih (x.touch num p.1 p.2).tile)

/-! ### The fetch -/

/-- Effects that post events leave every tile as it is. -/
theorem foldl_events_tiles (s : State) {l : List Eff} (h : ∀ e ∈ l, ∃ v, e = .ev v) :
    (l.foldl State.effect s).tiles = s.tiles := by
  induction l generalizing s with
  | nil => rfl
  | cons e l ih =>
    obtain ⟨hev, hl⟩ := List.forall_mem_cons.1 h
    obtain ⟨v, rfl⟩ := hev
    exact (ih (s.post v) hl).trans (s.post_tiles v)

/-- Check codes that a read meets reach the rest of the module as events alone. -/
theorem Tile.touch_effs (num : Nat) (x : Tile) (a n : Nat) : ∀ e ∈ (x.touch num a n).effs, ∃ v, e = .ev v := by
  intro e he
  obtain ⟨w, -, rfl⟩ := List.mem_map.1 he
  exact ⟨_, rfl⟩

theorem State.takeTile_touch_tile (s : State) (t : Nat) (x : Tile) (a n : Nat) :
    (s.takeTile t (x.touch t a n)).tile t = (x.touch t a n).tile := by
  have htiles := foldl_events_tiles (s.setTile t (x.touch t a n).tile) (x.touch_effs t a n)
  rw [State.tile, State.takeTile, htiles]
  exact State.tile_setTile_self s t _

/-- The fetch changes no more of its tile than what the check codes of the word say. -/
theorem State.fetched_frame (s : State) (t : Nat) : (s.tile t).WriteFrame ((s.fetched t).tile t) := by
  rw [State.fetched, State.onTile, State.takeTile_touch_tile]
  exact Tile.touch_frame t _ _ _

theorem State.issues_iff (s : State) (t : Nat) (i : TInsn) :
    s.issues t i = true ↔ s.tilesRun = true ∧ s.repairHold t = false ∧ (s.tile t).free = true ∧ (s.tile t).fetch = i := by
  simp [State.issues, Tile.at_, and_assoc]

theorem Tile.free_running {x : Tile} (h : x.free = true) : x.state = .running := by
  rw [Tile.free, Bool.and_eq_true, Bool.and_eq_true, beq_iff_eq] at h
  exact h.1.1

/-- A tile whose instruction has been fetched to issue is running. -/
theorem State.fetched_running {s : State} {t : Nat} {i : TInsn} (h : s.issues t i = true) :
    ((s.fetched t).tile t).state = .running := by
  obtain ⟨-, -, hfree, -⟩ := (s.issues_iff t i).1 h
  exact (s.fetched_frame t).state.trans (Tile.free_running hfree)

/-! ### What an issue makes of the module -/

section
variable {s : State} {t : Nat} {i : TInsn} {f : Tile → TileRes} {r : TileRes}

/-- An instruction that issues takes its effects and is traced. -/
theorem State.issue_with (h : s.issues t i = true) (hf : f ((s.fetched t).tile t) = r) (hb : r.tile.heldBack = false) :
    s.issue t i f = (s.fetched t).issuedWith t r := by
  subst hf
  simp [State.issue, State.issuedWith, h, hb]

/-- An instruction held back or refused leaves no entry in the trace. -/
theorem State.issue_heldBack (h : s.issues t i = true) (hf : f ((s.fetched t).tile t) = r) (hb : r.tile.heldBack = true) :
    s.issue t i f = (s.fetched t).takeTile t r := by
  subst hf
  simp [State.issue, h, hb]

/-- An instruction that does nothing but move past itself. -/
theorem State.issue_past (h : s.issues t i = true) (hg : ((s.fetched t).tile t).goesOn)
    (hf : f ((s.fetched t).tile t) = ((s.fetched t).tile t).advance t) :
    s.issue t i f = (s.fetched t).issued t ((s.fetched t).tile t).past :=
  State.issue_with h (hf.trans (Tile.advance_past t _ hg)) (Tile.heldBack_none _ rfl)

end

end Sys2Proof.Machine
end

section
/-! SUPPORT. Issue to the engines (R107, R113, R174, R204, R208): an instruction that an engine takes up, one that is refused,
and one that a hazard has held back. -/

namespace Sys2Proof.Machine

/-! ### Naming tables -/

/-- Table slots change no more of their tile than the slots themselves and what the expander builds. -/
def Tile.SlotFrame (x y : Tile) : Prop := y = { x with slots := y.slots, building := y.building }

theorem Tile.SlotFrame.trans {x y z : Tile} (h : x.SlotFrame y) (h' : y.SlotFrame z) : x.SlotFrame z :=
  Eq.trans h' (by rw [h])

theorem Tile.useTables_frame (ns : Nat) (x : Tile) (l : List TableUse) : x.SlotFrame (x.useTables ns l).tile := by
  induction l generalizing x with
  | nil => rfl
  | cons u l ih =>
    unfold Tile.useTables
    dsimp only
    split
    · exact Tile.SlotFrame.trans (y := { x with slots := _ }) rfl (ih _)
    · exact Tile.SlotFrame.trans (y := { x with slots := _, building := _ }) rfl (ih _)

theorem Tile.SlotFrame.goesOn {x y : Tile} (h : x.SlotFrame y) : y.goesOn ↔ x.goesOn :=
  Tile.goesOn_congr y x (by rw [h]) (by rw [h]) (by rw [h])

/-! ### An instruction at an engine -/

section
variable {num ns : Nat} {x : Tile} {pre : List (Nat × Nat)} {judge : Tile → Judged} {p : Plan}

/-- The plan `p` in progress: the tile has met the check codes of what `p` reads and holds the writes that `p` will make. -/
def Tile.takeUp (num : Nat) (x : Tile) (p : Plan) : Tile :=
  let y := (x.touchAll num p.touch).tile
  { y with
    inflight := y.inflight ++ [⟨y.nextId, y.pc, (p.run y).work, p.rd, p.wr, (p.run y).writes, (p.run y).folds, (p.run y).flags⟩]
    nextId := y.nextId + 1 }

theorem Tile.takeUp_goesOn (num : Nat) (x : Tile) (p : Plan) : (x.takeUp num p).goesOn ↔ x.goesOn :=
  (Tile.goesOn_congr (x.takeUp num p) (x.touchAll num p.touch).tile rfl rfl rfl).trans (x.touchAll_frame num p.touch).goesOn

/-- An acceptable instruction that no hazard holds back is in progress, and the program goes on. -/
theorem Tile.issueWork_ok (hfree : x.hazard (maskOf pre) 0 = false) (hgo : x.goesOn)
    (hplan : judge (x.touchAll num pre).tile = .ok p) (hwork : p.rd ≠ 0 ∨ p.wr ≠ 0)
    (hclear : (x.touchAll num pre).tile.hazard p.rd p.wr = false) :
    let q := x.touchAll num pre
    let r := q.tile.touchAll num p.touch
    let u := (q.tile.takeUp num p).useTables ns (p.run r.tile).tables
    x.issueWork num ns pre judge = ⟨u.tile.past, q.effs ++ (r.effs ++ ((p.run r.tile).effs ++ u.effs))⟩ := by
  intro q r u
  have hsome : ¬ (p.rd = 0 ∧ p.wr = 0) := fun hnone => hwork.elim (· hnone.1) (· hnone.2)
  have hu : u.tile.goesOn :=
    (Tile.useTables_frame ns _ _).goesOn.2 ((Tile.takeUp_goesOn num _ p).2 ((x.touchAll_frame num pre).goesOn.2 hgo))
  have hwhole : x.issueWork num ns pre judge = q.bind fun _ => r.bind fun _ =>
      (⟨q.tile.takeUp num p, (p.run r.tile).effs⟩ : TileRes).bind fun _ => u.bind fun y => y.advance num := by
    unfold Tile.issueWork
    simp only [hfree, TileRes.bind, hplan, if_neg hsome, hclear]
    rfl
  rw [hwhole]
  simp only [TileRes.bind, Tile.advance_past num _ hu, TileRes.ok, List.append_nil]

/-- The first program fault of a running tile, at issue (R208). -/
theorem Tile.refuse_first (hrun : x.state = .running) (hfault : x.fault.status = 0) (status : Nat) :
    x.refuse num status =
      ⟨{ x.faultedAs status x.pc 0 with stall := .refused }, [tileEv num status x.pc, .notClean num status]⟩ := by
  simp [Tile.refuse, Tile.raise, Tile.faultedAs, hrun, hfault]

/-- An instruction judged unacceptable is refused once what it reads before that has met its check codes. -/
theorem Tile.issueWork_error (hrun : x.state = .running) (hfault : x.fault.status = 0)
    (hfree : x.hazard (maskOf pre) 0 = false) {e : Nat} (hplan : judge (x.touchAll num pre).tile = .error e) :
    let q := x.touchAll num pre
    x.issueWork num ns pre judge = ⟨{ q.tile.faultedAs e q.tile.pc 0 with stall := .refused },
      q.effs ++ [tileEv num e q.tile.pc, .notClean num e]⟩ := by
  intro q
  have hframe := x.touchAll_frame num pre
  have hwhole : x.issueWork num ns pre judge = q.bind fun _ => q.tile.refuse num e := by
    unfold Tile.issueWork
    simp only [hfree, TileRes.bind, hplan]
    rfl
  rw [hwhole, TileRes.bind, Tile.refuse_first (hframe.state.trans hrun) ((congrArg _ hframe.fault).trans hfault)]

end

/-! ### On the module -/

section
variable {s : State} {t : Nat} {i : TInsn}

theorem State.issueWork_works {p : Plan} (h : s.mayWork t i p) : s.issueWork t i = s.works t i p := by
  obtain ⟨hissues, hgo, hfree, hplan, hwork, hclear⟩ := h
  have hframe := (((s.fetched t).tile t).touchAll_frame t (((s.fetched t).tile t).preReads i)).trans
    (Tile.touchAll_frame t _ p.touch)
  unfold State.issueWork
  refine (State.issue_with hissues (Tile.issueWork_ok hfree hgo hplan hwork hclear) (Tile.heldBack_none _ rfl)).trans ?_
  simp only [State.works, Tile.takeUp, hframe.inflight, hframe.nextId, hframe.pc]

/-- A program fault at issue posts its event and stops the step from committing (R208, R470). -/
theorem State.takeTile_fault (s : State) (t : Nat) (x : Tile) (effs : List Eff) (status pc : Nat) :
    s.takeTile t ⟨x, effs ++ [tileEv t status pc, .notClean t status]⟩ = s.faultsAt t ⟨x, effs⟩ status pc := by
  rw [State.takeTile, List.foldl_append]
  rfl

theorem State.issueWork_refused {e : Nat} (h : s.issues t i = true)
    (hfault : ((s.fetched t).tile t).fault.status = 0)
    (hfree : ((s.fetched t).tile t).hazard (maskOf (((s.fetched t).tile t).preReads i)) 0 = false)
    (hplan : s.planOf t i (((s.fetched t).tile t).touchAll t (((s.fetched t).tile t).preReads i)).tile = .error e) :
    s.issueWork t i =
      (s.fetched t).refusingWith t (((s.fetched t).tile t).touchAll t (((s.fetched t).tile t).preReads i)) e := by
  unfold State.issueWork
  refine (State.issue_heldBack h (Tile.issueWork_error (State.fetched_running h) hfault hfree hplan) rfl).trans ?_
  exact State.takeTile_fault _ _ _ _ _ _

/-- The command of an engine's instruction issues it. -/
def TInsn.isWork (t : Nat) (i : TInsn) (c : Instr) : Prop :=
  (∃ f, i = .vop f ∧ c = .vop t f) ∨ (∃ f, i = .vred f ∧ c = .vred t f) ∨ (∃ f, i = .cvt f ∧ c = .cvt t f) ∨
    (∃ f, i = .merge f ∧ c = .merge t f) ∨ (∃ f, i = .mma f ∧ c = .mma t f) ∨
    (∃ f : AttF, i = .att f ∧ f.bwd = false ∧ c = .attForward t f) ∨
    (∃ f : AttF, i = .att f ∧ f.bwd = true ∧ c = .attBackward t f)

theorem exec_of_isWork {c : Instr} (h : i.isWork t c) (s : State) : exec c s = .next (s.issueWork t i) := by
  rcases h with ⟨f, rfl, rfl⟩ | ⟨f, rfl, rfl⟩ | ⟨f, rfl, rfl⟩ | ⟨f, rfl, rfl⟩ | ⟨f, rfl, rfl⟩ | ⟨f, rfl, hb, rfl⟩ |
    ⟨f, rfl, hb, rfl⟩
  iterate 5 rfl
  · show execAttForward t f s = _
    rw [execAttForward, hb]
    rfl
  · show execAttBackward t f s = _
    rw [execAttBackward, hb]
    rfl

/-- Once nothing holds it back, an engine's instruction at PC issues as its own command does. -/
theorem State.reissue_of_isWork {c : Instr} (h : i.isWork t c) {s : State} (hf : (s.tile t).fetch = i) :
    s.reissue t = exec c s := by
  rw [State.reissue, hf]
  rcases h with ⟨f, rfl, rfl⟩ | ⟨f, rfl, rfl⟩ | ⟨f, rfl, rfl⟩ | ⟨f, rfl, rfl⟩ | ⟨f, rfl, rfl⟩ | ⟨f, rfl, hb, rfl⟩ |
    ⟨f, rfl, hb, rfl⟩
  iterate 5 rfl
  · exact if_neg (Bool.eq_false_iff.1 hb)
  · exact if_pos hb

/-- HAZARD_CLEAR takes the stall from a tile that may issue and issues its instruction. -/
theorem exec_hazardClear (s : State) (t : Nat) (hstall : (s.tile t).stall = .hazard) (hrun : s.tilesRun = true)
    (hhold : s.repairHold t = false) :
    exec (.hazardClear t) s = (s.setTile t { s.tile t with stall := .none }).reissue t := by
  show execHazardClear t s = _
  rw [execHazardClear, if_neg (by simp [hstall, hrun, hhold])]

end

/-- Settles O13: an instruction of an engine issues as its plan says or is refused, at once or after its hazard has cleared. -/
theorem enginesTakeInstructions : Obligations.EnginesTakeInstructions := by
  unfold Obligations.EnginesTakeInstructions
  intro s t i c (hc : i.isWork t c)
  refine ⟨fun p hp => ?_, fun e hissues hfault hfree hplan => ?_, fun p hstall hp => ?_⟩
  · rw [exec_of_isWork hc, State.issueWork_works hp]
  · rw [exec_of_isWork hc, State.issueWork_refused hissues hfault hfree hplan]
  · obtain ⟨hrun, hhold, -, hfetch⟩ := (State.issues_iff _ t i).1 hp.1
    rw [exec_hazardClear s t hstall hrun hhold, State.reissue_of_isWork hc hfetch, exec_of_isWork hc, State.issueWork_works hp]

end Sys2Proof.Machine
end

section
/-! SUPPORT. The scalar instructions that write one register (R127, R187 to R190). -/

namespace Sys2Proof.Machine

/-! ### What each issue makes of its tile -/

section
variable (num : Nat) (x : Tile)

theorem Tile.issueLi_eq (f : LiF) :
    x.issueLi num f = (x.setReg f.gd (BitVec.ofInt 64 (signedOf 40 f.imm))).advance num := rfl

theorem Tile.issueAddi_eq (f : AddiF) :
    x.issueAddi num f = (x.setReg f.gd (x.reg f.ga + BitVec.ofInt 64 (signedOf 32 f.imm))).advance num := rfl

theorem Tile.issueAlu_of {f : AluF} {v : Word} (h : aluOp f.op (x.reg f.ga) (x.reg f.gb) = some v) :
    x.issueAlu num f = (x.setReg f.gd v).advance num := by
  rw [Tile.issueAlu, h]

theorem Tile.issueRdreg_eq (f : RdregF) :
    x.issueRdreg num f = (x.setReg f.gd (BitVec.ofNat 64 (x.readReg num f.index))).advance num := rfl

end

/-! ### The ALU -/

/-- The operations of Table 05.8 by their code; minimum and maximum compare without sign. -/
theorem aluOp_of_mem (a b : Word) : ∀ p ∈ [(0, a + b), (1, a - b), (2, a * b), (3, a &&& b), (4, a ||| b), (5, a ^^^ b),
    (6, a <<< (b.toNat % 64)), (7, a >>> (b.toNat % 64)), (8, if a.toNat ≤ b.toNat then a else b),
    (9, if a.toNat ≤ b.toNat then b else a)], aluOp p.1 a b = some p.2 := by
  simp only [List.forall_mem_cons, List.not_mem_nil, false_imp_iff, implies_true, and_true]
  exact ⟨rfl, rfl, rfl, rfl, rfl, rfl, rfl, rfl, rfl, rfl⟩

/-! ### WRREG -/

theorem Tile.writeReg_asw (x : Tile) (w : Nat) : x.writeReg 1 w = x.clearAsw w := rfl

theorem Tile.writeReg_other (x : Tile) {idx : Nat} (w : Nat) (h : idx ≠ 1) : x.writeReg idx w = x := if_neg h

theorem Tile.past_asw (x : Tile) : x.past.asw = x.asw := by rw [Tile.past_of x x rfl rfl]

theorem Tile.clearAsw_past (x : Tile) (w : Nat) : (x.clearAsw w).past = x.past.clearAsw w := by
  rw [Tile.past_of (x.clearAsw w) x rfl rfl, Tile.clearAsw, Tile.clearAsw, Tile.past_asw]
  conv => rhs; rw [Tile.past_of x x rfl rfl]

/-- Of the five flags of CMP_ASW those are cleared whose bits are 1 (R127). -/
theorem Tile.clearAsw_bit (x : Tile) (w : Word) {k : Nat} (hk : k < 16) :
    (x.clearAsw w.toNat).asw.getLsbD k = (x.asw.getLsbD k && !(decide (k < 5) && w.getLsbD k)) := by
  have hcut : (BitVec.ofNat 16 (w.toNat % 32)).getLsbD k = (decide (k < 5) && w.getLsbD k) := by
    rw [BitVec.getLsbD_ofNat, decide_eq_true hk, Bool.true_and, show 32 = 2 ^ 5 from rfl, Nat.testBit_mod_two_pow,
      BitVec.getLsbD]
  rw [Tile.clearAsw, BitVec.getLsbD_and, BitVec.getLsbD_not, hcut, decide_eq_true hk, Bool.true_and]

/-! ### On the module -/

section
variable {s : State} {t : Nat} (hg : ((s.fetched t).tile t).goesOn)
include hg

theorem exec_li {f : LiF} (h : s.issues t (.li f) = true) : exec (.li t f) s = .next ((s.fetched t).issued t
    (((s.fetched t).tile t).past.setReg f.gd (BitVec.ofInt 64 (signedOf 40 f.imm)))) :=
  congrArg _ (State.issue_setReg s t _ _ _ _ h hg (Tile.issueLi_eq t _ f))

theorem exec_addi {f : AddiF} (h : s.issues t (.addi f) = true) : exec (.addi t f) s = .next ((s.fetched t).issued t
    (((s.fetched t).tile t).past.setReg f.gd (((s.fetched t).tile t).reg f.ga + BitVec.ofInt 64 (signedOf 32 f.imm)))) :=
  congrArg _ (State.issue_setReg s t _ _ _ _ h hg (Tile.issueAddi_eq t _ f))

theorem exec_alu {f : AluF} (h : s.issues t (.alu f) = true) {v : Word}
    (hv : aluOp f.op (((s.fetched t).tile t).reg f.ga) (((s.fetched t).tile t).reg f.gb) = some v) :
    exec (.alu t f) s = .next ((s.fetched t).issued t (((s.fetched t).tile t).past.setReg f.gd v)) :=
  congrArg _ (State.issue_setReg s t _ _ _ _ h hg (Tile.issueAlu_of t _ hv))

theorem exec_rdreg {f : RdregF} (h : s.issues t (.rdreg f) = true) : exec (.rdreg t f) s = .next ((s.fetched t).issued t
    (((s.fetched t).tile t).past.setReg f.gd (BitVec.ofNat 64 (((s.fetched t).tile t).readReg t f.index)))) :=
  congrArg _ (State.issue_setReg s t _ _ _ _ h hg (Tile.issueRdreg_eq t _ f))

theorem exec_wrreg_asw {f : WrregF} (h : s.issues t (.wrreg f) = true) (hi : f.index = 1) :
    exec (.wrreg t f) s = .next ((s.fetched t).issued t
      (((s.fetched t).tile t).past.clearAsw (((s.fetched t).tile t).regNat f.ga))) := by
  have hcleared (w : Nat) : (((s.fetched t).tile t).clearAsw w).goesOn :=
    (Tile.goesOn_congr (Tile.clearAsw _ w) ((s.fetched t).tile t) rfl rfl rfl).2 hg
  refine congrArg _ (State.issue_with h ?_ (Tile.heldBack_none _ rfl))
  rw [Tile.issueWrreg, hi, Tile.writeReg_asw, Tile.advance_past t _ (hcleared _), Tile.clearAsw_past]

theorem exec_wrreg_other {f : WrregF} (h : s.issues t (.wrreg f) = true) (hi : f.index ≠ 1) :
    exec (.wrreg t f) s = .next ((s.fetched t).issued t ((s.fetched t).tile t).past) := by
  refine congrArg _ (State.issue_past h hg ?_)
  rw [Tile.issueWrreg, Tile.writeReg_other _ _ hi]

end

/-- Settles O3: each of these issues is one register write, or one clearing of CMP_ASW, and the move past the instruction. -/
theorem scalarRegisterWrites : Obligations.ScalarRegisterWrites := by
  unfold Obligations.ScalarRegisterWrites
  intro s t s0 x hg
  refine ⟨fun f h => exec_li hg h, fun f h => exec_addi hg h, fun f h => ?_, fun f h => exec_rdreg hg h,
    fun f h => ⟨fun hi => ?_, fun hi => exec_wrreg_other hg h hi⟩, fun y n k v => ?_⟩
  · intro a b p hp hop
    refine exec_alu hg h ?_
    rw [hop]
    exact aluOp_of_mem a b p hp
  · refine ⟨_, exec_wrreg_asw hg h hi, rfl, fun k hk => ?_⟩
    exact (x.past.clearAsw_bit (x.reg f.ga) hk).trans (by rw [Tile.past_asw])
  · exact ⟨y.reg_zero, y.setReg_zero v, y.reg_setReg_self n v, y.reg_setReg_other v⟩

end Sys2Proof.Machine
end

section
/-! SUPPORT. The end of a tile's program (R181, R183, R184): what the release that a tile at its END holds makes of the tile. -/

namespace Sys2Proof.Machine

/-! ### A release held at END -/

/-- A tile whose work has completed takes up the release it holds from the start state of its program (R181, R183). -/
theorem Tile.endDone_start (num : Nat) {x : Tile} {n : Nat} (hrun : x.state = .running) (hend : x.stall = .ending)
    (hquiet : x.quiet = true) (hheld : x.held = some n) (hvalid : x.progValid = true) :
    x.endDone num = .ok (x.start num n) := by
  rw [Tile.endDone, if_pos ⟨hrun, hend, hquiet⟩, hheld]
  exact congrArg TileRes.ok (if_pos hvalid)

theorem exec_tileEndDone (s : State) (t : Nat) (h : s.tilesRun = true) :
    exec (.tileEndDone t) s = .next (s.takeTile t ((s.tile t).endDone t)) := congrArg _ (if_pos h)

/-- A release starts both copies of the sequencer anew: no second attempt of an instruction is awaited (R175, R181). -/
theorem Tile.start_lockPending (num : Nat) (x : Tile) (n : Nat) : (x.start num n).lockPending = false := rfl

/-! ### A tile at its END that awaits a second attempt -/

/-- A tile at its END that holds the release of step 1 and still awaits the second attempt after a lockstep mismatch. -/
def endingAwaited : Tile :=
  { Tile.reset with
    state := .running
    stall := .ending
    progValid := true
    held := some 1
    lockPending := true }

/-- The module at reset, out of PERST#, with tile 0 so. -/
def releaseHeld : State :=
  ({ State.reset with host := { HostSt.reset with perst := false } }).setTile 0 endingAwaited

theorem releaseHeld_tilesRun : releaseHeld.tilesRun = true := by decide +kernel

theorem releaseHeld_starts : exec (.tileEndDone 0) releaseHeld = .next (releaseHeld.setTile 0 (endingAwaited.start 0 1)) := by
  rw [exec_tileEndDone _ _ releaseHeld_tilesRun]
  exact congrArg (fun r => Host.Outcome.next (releaseHeld.takeTile 0 r))
    (Tile.endDone_start (x := endingAwaited) 0 rfl rfl rfl rfl rfl)

/-- Refutes O7: the release that a tile at its END holds also clears the mark of a lockstep mismatch (`lockPending`), which the
statement's next state, an equation over every state, keeps as it was. The tile of the counterexample still has that mark. -/
theorem not_waitsAndEnd : ¬ Obligations.WaitsAndEnd := by
  unfold Obligations.WaitsAndEnd
  intro h
  obtain ⟨-, -, -, -, -, -, -, hstarts, -⟩ := h releaseHeld 0
  have hnext := hstarts 1 rfl rfl rfl releaseHeld_tilesRun rfl rfl
  rw [releaseHeld_starts] at hnext
  have htile := congrArg (fun s : State => (s.tile 0).lockPending) (Host.Outcome.next.inj hnext)
  simp only [State.tile_setTile_self, Tile.start_lockPending] at htile
  exact absurd htile (by decide)

end Sys2Proof.Machine
end

section
/-! SUPPORT. Signals and sends of a tile (R117, R191, R192, R315, R316): a counter raised, a signal held back, and a message
that enters the tile's stream port. -/

namespace Sys2Proof.Machine

/-! ### Parts of what was read -/

theorem Mem.take_read (m : Mem) (a : Nat) {k n : Nat} (h : k ≤ n) : (m.read a n).take k = m.read a k := by
  rw [Mem.read, Cells.read, ← List.map_take, List.take_range, Nat.min_eq_left h]
  rfl

theorem Mem.drop_read (m : Mem) (a k n : Nat) : (m.read a (k + n)).drop k = m.read (a + k) n := by
  simp only [Mem.read, Cells.read, List.range_add, List.map_append, List.map_map]
  rw [List.drop_left' (by simp)]
  exact List.map_congr_left fun i _ => congrArg _ (Nat.add_assoc a k i).symm

/-! ### Moving on from a changed tile -/

/-- A tile that runs the program as `x` does moves past the instruction where `x` does. -/
theorem Tile.advance_of (num : Nat) {x y : Tile} (hgo : x.goesOn) (hl : y.loops = x.loops) (hp : y.pc = x.pc)
    (hn : y.progLen = x.progLen) : y.advance num = .ok { y with
      loops := x.past.loops
      pc := x.past.pc
      lockPending := false
      stall := .none } := by
  rw [Tile.advance_past num y ((Tile.goesOn_congr y x hl hp hn).2 hgo), Tile.past_of y x hl hp]

section
variable (num : Nat) {x : Tile} (hgo : x.goesOn)
include hgo

theorem Tile.advance_semaphores (sems : List (Nat × Sem)) (raised : List (Nat × Raiser)) :
    ({ x with sems := sems, raised := raised } : Tile).advance num = .ok { x.past with sems := sems, raised := raised } := by
  rw [Tile.advance_of num (y := { x with sems := sems, raised := raised }) hgo rfl rfl rfl]
  conv => rhs; rw [Tile.past_of x x rfl rfl]

theorem Tile.advance_selfSigs (l : List SelfSig) :
    ({ x with selfSigs := l } : Tile).advance num = .ok { x.past with selfSigs := l } := by
  rw [Tile.advance_of num (y := { x with selfSigs := l }) hgo rfl rfl rfl]
  conv => rhs; rw [Tile.past_of x x rfl rfl]

theorem Tile.advance_port (l : List PortMsg) :
    ({ x with port := l, stall := .none } : Tile).advance num = .ok { x.past with port := l } := by
  rw [Tile.advance_of num (y := { x with port := l, stall := .none }) hgo rfl rfl rfl]
  conv => rhs; rw [Tile.past_of x x rfl rfl]

end

/-! ### The stream port -/

section
variable {num : Nat} {x : Tile}

/-- A port with room takes the message and the program goes on. -/
theorem Tile.queueMsg_room (m : PortMsg) (hgo : x.goesOn) (hroom : x.port.length < 4) :
    x.queueMsg num m = .ok { x.past with port := x.port ++ [m] } := by
  rw [Tile.queueMsg, if_pos hroom, Tile.advance_port num hgo]

/-- A full port holds the instruction back (R316). -/
theorem Tile.queueMsg_full (m : PortMsg) (hfull : 4 ≤ x.port.length) : x.queueMsg num m = .ok { x with stall := .port } :=
  if_neg (Nat.not_lt.2 hfull)

/-! ### SIG -/

/-- What a SIG of the scope must follow (R192). -/
def Tile.sigAfter (x : Tile) (scope : Nat) : List Nat := if scope = 0 then x.writers else []

theorem Tile.sigAfter_eq_nil {scope : Nat} (h : scope ≠ 0 ∨ x.writers = []) : x.sigAfter scope = [] := by
  unfold Tile.sigAfter
  split
  · next hs => exact h.resolve_left (not_not_intro hs)
  · rfl

/-- A signal that its counter has room for (R117). -/
theorem Tile.signal_room {pair ctr count : Nat} (by_ : Raiser) (pc : Nat) (hc : count ≠ 0)
    (hroom : (x.sem pair).ctr ctr + count ≤ 65535) :
    x.signal num pair ctr count by_ pc = .ok { x with
      sems := Tbl.put x.sems pair ((x.sem pair).add ctr count by_.remote)
      raised := Tbl.put x.raised (pair * 2 + ctr) by_ } := by
  rw [Tile.signal, if_neg hc, if_neg (Nat.not_lt.2 hroom)]

variable {self : Nat} {routed : Nat → Bool} {f : SigF}

theorem Tile.issueSig_zero (hc : f.count = 0) : x.issueSig num self routed f = x.advance num := if_pos hc

/-- SIG to a counter of the tile itself, with nothing to follow. -/
theorem Tile.issueSig_own (hrun : x.state = .running) (hgo : x.goesOn) (hc : f.count ≠ 0) (ht : f.treg = 0)
    (hafter : x.sigAfter f.scope = []) (hroom : (x.sem f.pair).ctr f.ctr + f.count ≤ 65535) :
    x.issueSig num self routed f = .ok { x.past with
      sems := Tbl.put x.sems f.pair ((x.sem f.pair).add f.ctr f.count false)
      raised := Tbl.put x.raised (f.pair * 2 + f.ctr) (.tile num) } := by
  rw [Tile.issueSig, if_neg hc]
  dsimp only
  rw [if_pos ht, if_pos (show ite _ _ _ = _ from hafter), Tile.signal_room (.tile num) x.pc hc hroom, TileRes.bind, TileRes.ok]
  dsimp only
  rw [if_pos hrun, Tile.advance_semaphores num hgo]
  rfl

/-- SIG to a counter of the tile itself that earlier writers hold back (R192). -/
theorem Tile.issueSig_held (hgo : x.goesOn) (hc : f.count ≠ 0) (ht : f.treg = 0) (hafter : x.sigAfter f.scope ≠ []) :
    x.issueSig num self routed f = .ok { x.past with
      selfSigs := x.selfSigs ++ [⟨x.sigAfter f.scope, x.pc, f.pair, f.ctr, f.count⟩] } := by
  rw [Tile.issueSig, if_neg hc]
  dsimp only
  rw [if_pos ht, if_neg (show ite _ _ _ ≠ _ from hafter), Tile.advance_selfSigs num hgo]
  rfl

/-- SIG to a tile of another module that has a route is a message. -/
theorem Tile.issueSig_remote (hc : f.count ≠ 0) (ht : f.treg ≠ 0) (hrank : bitsOf (x.regNat f.treg) 19 0 ≠ self)
    (hroute : routed (bitsOf (x.regNat f.treg) 19 0) = true) :
    x.issueSig num self routed f = x.queueMsg num
      ⟨⟨bitsOf (x.regNat f.treg) 19 0, .tile (bitsOf (x.regNat f.treg) 33 20), signalHeader f.pair f.ctr f.count, [], x.solo⟩,
        x.sigAfter f.scope, false⟩ := by
  rw [Tile.issueSig, if_neg hc]
  dsimp only
  rw [if_neg ht, if_neg fun h => hrank h.1, if_neg (by rw [hroute]; exact Bool.noConfusion)]
  rfl

end

/-! ### HCSEND -/

/-- The message of an HCSEND whose `16 * (len + 1)` bytes lie at `a`: the tile `x` before they were read, `y` after. -/
def Tile.hcMessage (x y : Tile) (f : HcsendF) (a : Nat) (tgt : HcTarget) : PortMsg :=
  ⟨⟨addrRank (x.regNat f.areg), tgt, x.mem.read a 8, x.mem.read (a + 16) (16 * f.len),
    y.mem.poisoned a (16 * (f.len + 1)) || x.solo⟩, [], false⟩

theorem TileRes.bind_congr {r : TileRes} {f g : Tile → TileRes} (h : f r.tile = g r.tile) : r.bind f = r.bind g := by
  rw [TileRes.bind, TileRes.bind, h]

/-- A message that passes its sender's checks enters a port with room, once its bytes have met their check codes (R315). -/
theorem Tile.issueHcsend_room {num self mboxes : Nat} {routed : Nat → Bool} {x : Tile} {f : HcsendF} {a : Nat} {tgt : HcTarget}
    (hgo : x.goesOn) (hfree : x.hazard (maskOf (x.preReads (.hcsend f))) 0 = false)
    (href : x.tileRef f.ref (16 * (f.len + 1)) = .ok a)
    (hjudge : hcJudge self mboxes routed (x.regNat f.areg) (x.mem.read a 16) (16 * f.len) = .ok tgt)
    (hroom : x.port.length < 4) :
    let r := x.touch num a (16 * (f.len + 1))
    x.issueHcsend num self mboxes routed f =
      ⟨{ r.tile.past with port := x.port ++ [x.hcMessage r.tile f a tgt] }, r.effs⟩ := by
  intro r
  have hgo' : r.tile.goesOn := (x.touch_frame num a _).goesOn.2 hgo
  have hbytes : r.tile.mem.read a (16 * (f.len + 1)) = x.mem.read a (16 * (f.len + 1)) :=
    x.touch_read num a _ a _
  have hfirst : (x.mem.read a (16 * (f.len + 1))).take 16 = x.mem.read a 16 := x.mem.take_read a (by omega)
  have hheader : (x.mem.read a (16 * (f.len + 1))).take 8 = x.mem.read a 8 := x.mem.take_read a (by omega)
  have hrest : (x.mem.read a (16 * (f.len + 1))).drop 16 = x.mem.read (a + 16) (16 * f.len) := by
    rw [Nat.mul_succ, Nat.add_comm, Mem.drop_read]
  have hjudge' : hcJudge self mboxes routed (r.tile.regNat f.areg) ((r.tile.mem.read a (16 * (f.len + 1))).take 16)
      (16 * (f.len + 1) - 16) = .ok tgt := by
    rw [hbytes, hfirst, Nat.mul_succ, Nat.add_sub_cancel]
    exact hjudge
  have hwhole : x.issueHcsend num self mboxes routed f = r.bind fun _ => r.tile.queueMsg num (x.hcMessage r.tile f a tgt) := by
    rw [Tile.issueHcsend, hfree, if_neg Bool.false_ne_true]
    dsimp only
    rw [href]
    refine TileRes.bind_congr ?_
    rw [hjudge', hbytes, hheader, hrest]
    rfl
  rw [hwhole, TileRes.bind, Tile.queueMsg_room _ hgo' hroom]
  exact congrArg (TileRes.mk _) (List.append_nil _)

/-! ### On the module -/

theorem exec_sig (s : State) (t : Nat) (f : SigF) :
    exec (.sig t f) s = .next (s.issue t (.sig f) fun x => x.issueSig t s.rank s.hasRoute f) := rfl

theorem exec_hcsend (s : State) (t : Nat) (f : HcsendF) : exec (.hcsend t f) s = .next (s.issue t (.hcsend f) fun x =>
    x.issueHcsend t s.rank (s.regs.get Reg.HIF_MBOX_CTL_COUNT) s.hasRoute f) := rfl

/-- Settles O8: a signal raises its counter, waits for earlier writers, or is a message as HCSEND's is, which the port takes or
holds back. -/
theorem signalsAndSends : Obligations.SignalsAndSends := by
  unfold Obligations.SignalsAndSends
  intro s t s0 x
  refine ⟨fun f h hgo => ⟨fun hc => ?_, fun hc ht hafter hroom => ?_, fun hc ht hscope hwriters => ?_,
    fun hc ht hrank hroute => ⟨fun hroom => ?_, fun hfull => ?_⟩⟩, fun f a tgt h hgo hfree href hjudge hroom => ?_⟩
  · exact congrArg _ (State.issue_past h hgo (Tile.issueSig_zero hc))
  · exact congrArg _ (State.issue_with h
      (Tile.issueSig_own (State.fetched_running h) hgo hc ht (Tile.sigAfter_eq_nil hafter) hroom) (Tile.heldBack_none _ rfl))
  · have hafter : x.sigAfter f.scope = x.writers := if_pos hscope
    rw [← hafter] at hwriters ⊢
    exact congrArg _ (State.issue_with h (Tile.issueSig_held hgo hc ht hwriters) (Tile.heldBack_none _ rfl))
  · exact congrArg _ (State.issue_with h ((Tile.issueSig_remote hc ht hrank hroute).trans (Tile.queueMsg_room _ hgo hroom))
      (Tile.heldBack_none _ rfl))
  · have hport := (Tile.issueSig_remote (num := t) hc ht hrank hroute).trans (Tile.queueMsg_full _ hfull)
    rw [exec_sig, State.issue_heldBack (f := fun x => x.issueSig t s.rank s.hasRoute f) h hport rfl]
    rfl
  · rw [exec_hcsend]
    exact congrArg _ (State.issue_with h (Tile.issueHcsend_room hgo hfree href hjudge hroom) (Tile.heldBack_none _ rfl))

end Sys2Proof.Machine
end

section
/-! SUPPORT. The result tree (R120 to R122, R197): a tile's input reaches the lowest node above it, and what a node makes of one
input of each child. -/

namespace Sys2Proof.Machine

/-! ### A tile's input -/

/-- TREE in progress, the program gone on: its source is read until it completes. -/
def Tile.treeIssued (y : Tile) (channel rd : Nat) : Tile :=
  { y with
    inflight := y.inflight ++ [⟨y.nextId, y.pc, .tree channel, rd, 0, [], [], 0⟩]
    nextId := y.nextId + 1 }

theorem Tile.treeIssued_advance (num : Nat) {y : Tile} (hgo : y.goesOn) (channel rd : Nat) :
    (y.treeIssued channel rd).advance num = .ok { y.past with
      inflight := y.inflight ++ [⟨y.nextId, y.pc, .tree channel, rd, 0, [], [], 0⟩]
      nextId := y.nextId + 1 } := by
  rw [Tile.advance_past num (y.treeIssued channel rd) ((Tile.goesOn_congr (y.treeIssued channel rd) y rfl rfl rfl).2 hgo),
    Tile.past_of (y.treeIssued channel rd) y rfl rfl]
  conv => rhs; rw [Tile.past_of y y rfl rfl]
  rfl

/-- A TREE judged acceptable and held back by no hazard is in progress, and its input is at the node above the tile. -/
theorem exec_tree {s : State} {t : Nat} {f : TreeF} {a : Nat} (h : s.issues t (.tree f) = true)
    (hjudge : (s.fetched t).treeJudge ((s.fetched t).tile t) f = .ok a) :
    let s0 := s.fetched t
    let x := s0.tile t
    let len := x.regNat f.lreg
    let n := len * treeInBytes f.op
    let rd := if len = 0 then 0 else zoneMask a n
    let s1 := s0.takeTile t (if len = 0 then .ok x else x.touch t a n)
    let y := s1.tile t
    x.hazard rd 0 = false → exec (.tree t f) s =
      .next (((s1.takeTile t ((y.treeIssued f.channel rd).advance t)).toNode f.channel 1 {
        child := 0, op := f.op, fmt := if f.op = 0 then f.dstfmt else 0, len := len
        dst := x.regNat f.areg, top := f.level
        vals := treeVals y f.op len a, flags := 0, tiles := [(t, y.pc)] }).trace t x.pc x.opcode) := by
  intro s0 x len n rd s1 y hfree
  show execTree t f s = _
  rw [execTree, if_neg (by rw [h]; exact Bool.noConfusion)]
  dsimp only
  rw [hjudge]
  dsimp only
  rw [if_neg (Bool.eq_false_iff.1 hfree)]
  rfl

/-! ### One input of each child -/

/-- Four inputs of the four children, in child order, are what a node takes, and nothing is left. -/
theorem takeChildren_four {a b c d : TreeIn} (ha : a.child = 0) (hb : b.child = 1) (hc : c.child = 2) (hd : d.child = 3) :
    takeChildren [a, b, c, d] = some ([a, b, c, d], []) := by
  simp [takeChildren, List.find?, ha, hb, hc, hd]

theorem mem_of_lowestIn {l : List TreeIn} {j : TreeIn} (h : lowestIn l = some j) : j ∈ l := by
  induction l with
  | nil => exact nomatch h
  | cons i l ih =>
    rw [lowestIn] at h
    split at h
    · exact Option.some.inj h ▸ List.mem_cons_self
    · next k hk =>
      split at h
      · exact List.mem_cons_of_mem i (ih (hk.trans h))
      · exact Option.some.inj h ▸ List.mem_cons_self

/-- The first input holds the lowest tile where it lies below each of the others. -/
theorem lowestIn_head {a : TreeIn} {l : List TreeIn} (h : ∀ i ∈ l, a.lowest < i.lowest) : lowestIn (a :: l) = some a := by
  rw [lowestIn]
  split
  · rfl
  · next j hj => rw [if_neg (Nat.lt_asymm (h j (mem_of_lowestIn hj)))]

theorem TreeIn.agrees_self (a : TreeIn) : a.agrees a = true := by simp [TreeIn.agrees]

/-- The inputs of the four children combined in child order, under the reduction that the first names. -/
def TreeIn.combined (a b c d : TreeIn) : TreeIn :=
  { a with
    vals := (treeFold a.op [a, b, c, d]).1
    flags := (treeFold a.op [a, b, c, d]).2.toNat
    tiles := a.tiles ++ b.tiles ++ c.tiles ++ d.tiles }

/-- A node with one input of each child, all of one reduction, writes the combined result at the top of the participant set once
memory has room for it, and passes it up below the top (R122). -/
theorem exec_treeNodeCombine {s : State} {channel level node : Nat} {a b c d : TreeIn}
    (hin : Tbl.get s.tree [] (treeKey channel level node) = [a, b, c, d])
    (htake : takeChildren [a, b, c, d] = some ([a, b, c, d], [])) (hlow : lowestIn [a, b, c, d] = some a)
    (hagree : ∀ i ∈ [a, b, c, d], i.agrees a = true) :
    let up := a.combined b c d
    let s1 := { s with tree := Tbl.del s.tree (treeKey channel level node) }
    exec (.treeNodeCombine channel level node) s = .next (
      if a.top ≤ level then (if s.localOpen up.dst (treeResult up).1.length then s1.treeWrite channel up else s)
      else s1.toNode channel (level + 1) up) := by
  have htiles : [a, b, c, d].flatMap TreeIn.tiles = a.tiles ++ b.tiles ++ c.tiles ++ d.tiles := by simp
  show execTreeNodeCombine channel level node s = _
  rw [execTreeNodeCombine]
  dsimp only
  rw [hin, htake]
  dsimp only
  rw [hlow]
  dsimp only
  rw [if_pos (List.all_eq_true.2 hagree), htiles]
  rfl

/-- Settles O16: a tile's input goes to the node above it, and a node passes the combination of its children's inputs up or
writes it. -/
theorem resultTree : Obligations.ResultTree := by
  unfold Obligations.ResultTree
  intro s
  refine ⟨fun t f a => ?_, fun channel level node a b c d hin ha hb hc hd hba hca hda hlow => ?_⟩
  · intro s0 x len n rd s1 y h hgo hjudge hfree
    rw [exec_tree h hjudge hfree, Tile.treeIssued_advance t hgo]
    rfl
  · have hagree : ∀ i ∈ [a, b, c, d], i.agrees a = true := by
      simp only [List.forall_mem_cons]
      exact ⟨a.agrees_self, hba, hca, hda, fun i hi => nomatch hi⟩
    have hnode := exec_treeNodeCombine hin (takeChildren_four ha hb hc hd) (lowestIn_head hlow) hagree
    refine ⟨fun htop hopen => ?_, fun hbelow => ?_⟩
    · exact hnode.trans (congrArg _ ((if_pos htop).trans (if_pos hopen)))
    · exact hnode.trans (congrArg _ (if_neg (Nat.not_le.2 hbelow)))

end Sys2Proof.Machine
end

section
/-! SUPPORT. What watches over a tile (R115, R175, R467): lockstep, the scrub of its memory, and the liveness count that the
watchdog of its die samples. -/

namespace Sys2Proof.Machine

/-! ### Lockstep -/

section
variable (num : Nat) {x : Tile} (hfree : x.free = true) (hboth : x.solo = false)
include hfree hboth

/-- Both copies reload and run the instruction again (R175). -/
theorem Tile.lockMismatch_first (h : x.lockPending = false) : x.lockMismatch num = ⟨{ x with
    lockPending := true
    lockRetries := min 65535 (x.lockRetries + 1) }, [tileEv num St.lockstepRetry x.pc]⟩ := by
  rw [Tile.lockMismatch, if_neg (by simp [hfree, hboth]), if_neg (Bool.eq_false_iff.1 h)]
  rfl

/-- The tile goes on with one copy, retired (R175). -/
theorem Tile.lockMismatch_second (h : x.lockPending = true) : x.lockMismatch num = ⟨{ x with
    solo := true
    lockPending := false
    retired := true }, [tileEv num St.lockstepFail 0, .retire num]⟩ := by
  rw [Tile.lockMismatch, if_neg (by simp [hfree, hboth]), if_pos h]
  rfl

end

theorem exec_lockstepMismatch (s : State) (t : Nat) :
    exec (.lockstepMismatch t) s = .next (s.takeTile t ((s.tile t).lockMismatch t)) := rfl

/-! ### The scrub -/

section
variable {x : Tile} {since now : Nat}

/-- A pass with a word left reads it, and is counted first where it is late (R115). -/
theorem Tile.scrubNext_eq (num since now : Nat) (h : x.scrubPos < 32768) :
    let r := (x.countOverrun since now).touch num (16 * x.scrubPos) 16
    x.scrubNext num since now = ⟨{ r.tile with scrubPos := x.scrubPos + 1 }, r.effs⟩ := by
  rw [Tile.scrubNext, if_neg (Nat.not_le.2 h)]
  exact congrArg (TileRes.mk _) (List.append_nil _)

/-- A pass that has read every word gives way to the next when its 10 ms are over. -/
theorem Tile.scrubEnd_whole (hread : 32768 ≤ x.scrubPos) (htime : max x.scrubAt since + 10000000 ≤ now) :
    x.scrubEnd false since now = { x with scrubPos := 0, scrubAt := now, scrubOver := false } := by
  rw [Tile.scrubEnd, if_neg Bool.false_ne_true, if_neg (by omega)]

/-- A pass that has not is counted as late, and goes on. -/
theorem Tile.scrubEnd_late (hread : x.scrubPos < 32768) (htime : max x.scrubAt since + 10000000 ≤ now)
    (hfirst : x.scrubOver = false) :
    x.scrubEnd true since now = { x with scrubOver := true, scrubLate := min 255 (x.scrubLate + 1) } := by
  have hover : x.scrubOverrun since now = true := decide_eq_true ⟨hread, htime⟩
  rw [Tile.scrubEnd, if_pos rfl, Tile.countOverrun, if_neg (by simp [hfirst, hover])]
  rfl

/-- A pass counts as late once. -/
theorem Tile.scrubEnd_counted (hcounted : x.scrubOver = true) : x.scrubEnd true since now = x := by
  rw [Tile.scrubEnd, if_pos rfl, Tile.countOverrun, if_pos (.inl hcounted)]

end

theorem exec_tmemScrub (s : State) (t : Nat) (upsets : List (Nat × Bool)) : exec (.tmemScrub t upsets) s =
    .next (s.takeTile t (((s.tile t).upset upsets).scrubNext t s.fab.scrubFrom s.now)) := rfl

theorem exec_tmemScrubPassEnd (s : State) (t : Nat) (late : Bool) : exec (.tmemScrubPassEnd t late) s =
    .next (s.setTile t ((s.tile t).scrubEnd late s.fab.scrubFrom s.now)) := rfl

/-! ### One sample of the liveness count -/

/-- The sample of a tile that has not stood still for 10 ms: a count that has moved starts the milliseconds again. -/
def Tile.sampled (x : Tile) : Tile :=
  if x.live ≠ x.liveSeen then { x with liveSeen := x.live, liveMs := 0, liveDead := false }
  else { x with liveMs := min 10 (x.liveMs + 1) }

theorem Tile.watch_sampled (num : Nat) {x : Tile} (h : x.live ≠ x.liveSeen ∨ x.liveMs ≠ 9) :
    x.watch num = .ok x.sampled := by
  unfold Tile.watch Tile.sampled
  split
  · rfl
  · next hstill => rw [if_neg fun hlast => h.elim hstill fun hms => hms (Nat.succ.inj hlast)]

/-- The tenth sample that shows the same count retires the tile (R467). -/
theorem Tile.watch_stalled (num : Nat) {x : Tile} (hstill : x.live = x.liveSeen) (hms : x.liveMs = 9) :
    x.watch num = ⟨{ x with liveMs := 10, retired := true },
      [.ev ⟨St.tileWatchdog, 0, 1, num, num⟩, .notClean num St.tileWatchdog, .retire num]⟩ := by
  rw [Tile.watch, if_neg (not_not_intro hstill), if_pos (by rw [hms])]

/-! ### The sample of a die -/

/-- One tile's sample, on the module. -/
def State.watchTile (s : State) (n : Nat) : State := s.onTile n fun x => x.watch n

/-- The logical tiles of a die. -/
def dieTiles (die : Nat) : List Nat := (List.range 4096).map (die % 4 * 4096 + ·)

theorem dieTiles_nodup (die : Nat) : (dieTiles die).Nodup :=
  List.Nodup.map (fun _ _ h => Nat.add_left_cancel h) List.nodup_range

theorem mem_dieTiles (die n : Nat) : n ∈ dieTiles die ↔ n / 4096 = die % 4 := by
  rw [dieTiles, List.mem_map]
  constructor
  · rintro ⟨i, hi, rfl⟩
    have := List.mem_range.1 hi
    omega
  · intro h
    exact ⟨n % 4096, List.mem_range.2 (Nat.mod_lt n (by decide)), by omega⟩

theorem exec_watchdogSample (s : State) (die : Nat) :
    exec (.watchdogSample die) s = .next ((dieTiles die).foldl State.watchTile s) := by
  rw [dieTiles, List.foldl_map]
  rfl

/-- Where no tile of the list has stood still for 10 ms, each takes its sample, and nothing else changes. -/
theorem foldl_watchTile {l : List Nat} (hl : l.Nodup) (s : State)
    (h : ∀ n ∈ l, (s.tile n).live ≠ (s.tile n).liveSeen ∨ (s.tile n).liveMs ≠ 9) :
    (l.foldl State.watchTile s).host = s.host ∧ (l.foldl State.watchTile s).fab = s.fab ∧
      (∀ n ∉ l, (l.foldl State.watchTile s).tile n = s.tile n) ∧
      ∀ n ∈ l, (l.foldl State.watchTile s).tile n = (s.tile n).sampled := by
  induction l generalizing s with
  | nil => exact ⟨rfl, rfl, fun _ _ => rfl, fun _ hn => nomatch hn⟩
  | cons m l ih =>
    obtain ⟨hm, hl'⟩ := List.nodup_cons.1 hl
    have hstep : s.watchTile m = s.setTile m (s.tile m).sampled := by
      rw [State.watchTile, State.onTile, Tile.watch_sampled m (h m List.mem_cons_self)]
      rfl
    have hother {n : Nat} (hn : n ≠ m) : (s.watchTile m).tile n = s.tile n := by
      rw [hstep, State.tile_setTile_other s _ (Ne.symm hn)]
    have hne {n : Nat} (hn : n ∈ l) : n ≠ m := fun he => hm (he ▸ hn)
    obtain ⟨hhost, hfab, hout, hin⟩ := ih hl' (s.watchTile m) fun n hn => by
      rw [hother (hne hn)]
      exact h n (List.mem_cons_of_mem m hn)
    refine ⟨hhost.trans (by rw [hstep]; rfl), hfab.trans (by rw [hstep]; rfl), fun n hn => ?_, fun n hn => ?_⟩
    · obtain ⟨hnm, hnl⟩ := not_or.1 (mt List.mem_cons.2 hn)
      exact (hout n hnl).trans (hother hnm)
    · rcases List.mem_cons.1 hn with rfl | hnl
      · exact (hout n hm).trans (by rw [hstep, State.tile_setTile_self])
      · exact (hin n hnl).trans (by rw [hother (hne hnl)])

/-- Settles O17: lockstep, the scrub and the watchdog each have one outcome per state of the tile. -/
theorem tileWatches : Obligations.TileWatches := by
  unfold Obligations.TileWatches
  intro s t x
  refine ⟨fun hfree hboth hfirst => ?_, fun hfree hboth hsecond => ?_, ?_,
    fun htime => ⟨fun hread => ?_, fun hread hover => ?_⟩, fun hcounted => ?_,
    fun halive => ?_, fun die hmoving => ?_, fun hstill hms => ?_⟩
  · rw [exec_lockstepMismatch, Tile.lockMismatch_first t hfree hboth hfirst]
    rfl
  · rw [exec_lockstepMismatch, Tile.lockMismatch_second t hfree hboth hsecond]
    rfl
  · intro upsets r hread
    rw [exec_tmemScrub, Tile.scrubNext_eq (x := x.upset upsets) t s.fab.scrubFrom s.now hread]
    rfl
  · rw [exec_tmemScrubPassEnd, Tile.scrubEnd_whole hread htime]
  · rw [exec_tmemScrubPassEnd, Tile.scrubEnd_late hread htime hover]
  · rw [exec_tmemScrubPassEnd, Tile.scrubEnd_counted hcounted]
  · exact congrArg (fun y => Host.Outcome.next (s.setTile t y)) (if_neg (Bool.eq_false_iff.1 halive))
  · obtain ⟨hhost, hfab, hout, hin⟩ :=
      foldl_watchTile (dieTiles_nodup die) s fun n hn => hmoving n ((mem_dieTiles die n).1 hn)
    refine ⟨_, exec_watchdogSample s die, hhost, hfab, fun n hn => hout n (mt (mem_dieTiles die n).1 hn),
      fun n hn hmoved => ?_, fun n hn hstill => ?_⟩
    · exact (hin n ((mem_dieTiles die n).2 hn)).trans (if_pos hmoved)
    · exact (hin n ((mem_dieTiles die n).2 hn)).trans (if_neg (not_not_intro hstill))
  · rw [Tile.watch_stalled t hstill hms]
    exact ⟨rfl, rfl⟩

end Sys2Proof.Machine
end

section
/-! SUPPORT. The registers that are windows (R124, R327, R355, R458): the tile register that CMP_TILE_SEL selects, device time,
and the state of the PCIe link. -/

namespace Sys2Proof.Machine

/-! ### Reads -/

/-- A whole register reads as its one untorn value (R327). -/
theorem State.readBar0_whole (s : State) {off : Nat} (ha : off % 8 = 0) (hb : off < 2 ^ 26) (hv : s.bar0 off < 2 ^ 64) :
    s.readBar0 off 8 = s.emit (.readData off (s.bar0 off)) := by
  rw [State.readBar0, if_pos ((accessOk_iff off 8).2 ⟨.inr rfl, ha, hb⟩), ha, Nat.sub_zero, Nat.mul_zero, pow_zero, Nat.div_one,
    Nat.mod_eq_of_lt hv]

/-- The low half of a register. -/
theorem State.readBar0_low (s : State) {off : Nat} (ha : off % 8 = 0) (hb : off < 2 ^ 26) :
    s.readBar0 off 4 = s.emit (.readData off (s.bar0 off % 2 ^ 32)) := by
  rw [State.readBar0, if_pos ((accessOk_iff off 4).2 ⟨.inl rfl, by omega, hb⟩), ha, Nat.sub_zero, Nat.mul_zero, pow_zero,
    Nat.div_one]

/-- The high half of a register. -/
theorem State.readBar0_high (s : State) {off : Nat} (ha : off % 8 = 0) (hb : off + 4 < 2 ^ 26) (hv : s.bar0 off < 2 ^ 64) :
    s.readBar0 (off + 4) 4 = s.emit (.readData (off + 4) (s.bar0 off / 2 ^ 32)) := by
  have hplace : (off + 4) % 8 = 4 := by omega
  have hhigh : s.bar0 off / 2 ^ 32 < 2 ^ 32 := Nat.div_lt_of_lt_mul hv
  rw [State.readBar0, if_pos ((accessOk_iff (off + 4) 4).2 ⟨.inl rfl, by omega, hb⟩), hplace, Nat.add_sub_cancel,
    Nat.mod_eq_of_lt hhigh]

/-! ### CMP_TILE_DATA -/

theorem State.bar0_tileData (s : State) : s.bar0 0x400908 = s.tileDataWord := rfl

theorem State.writeWord_tileData (s : State) (v : Nat) : s.writeWord 0x400908 (2 ^ 64 - 1) v =
    s.setTile (s.regs.get Reg.CMP_TILE_SEL_TILE) ((s.tile (s.regs.get Reg.CMP_TILE_SEL_TILE)).hostWriteReg s.locked
      (s.regs.get Reg.CMP_TILE_SEL_INDEX) v) := rfl

section
variable {s : State} (hs : s.reachable = true)
include hs

theorem exec_cmpTileDataRead {off len : Nat} (h : off - off % 8 = 0x400908) :
    exec (.cmpTileDataRead off len) s = .next (s.readBar0 off len) :=
  congrArg _ (if_pos (by simp [hs, readsAt, h]))

/-- An 8 B write of CMP_TILE_DATA is a host write to the register that CMP_TILE_SEL selects. -/
theorem exec_cmpTileDataWrite {v : Nat} (hv : v < 2 ^ 64) :
    exec (.cmpTileDataWrite ⟨0x400908, 8, v⟩) s = .next (s.writeWord 0x400908 (2 ^ 64 - 1) v) := by
  have hreg := exec_registerWrite_aligned s hs (off := 0x400908) rfl (by decide) hv
  have hwrite : exec (.registerWrite ⟨0x400908, 8, v⟩) s = .next (s.writeBar0 ⟨0x400908, 8, v⟩) := congrArg _ (if_pos hs)
  have hwindow : exec (.cmpTileDataWrite ⟨0x400908, 8, v⟩) s = .next (s.writeBar0 ⟨0x400908, 8, v⟩) :=
    congrArg _ (if_pos ⟨hs, show 0x400908 - 0x400908 % 8 = 0x400908 from rfl⟩)
  exact hwindow.trans (hwrite.symm.trans hreg)

end

/-! ### Semaphores through the window -/

/-- Before enable a host write gives a counter pair its two values (R124). -/
theorem Tile.hostWriteReg_sem (x : Tile) {k : Nat} (v : Nat) (hlo : 0x20 ≤ k) (hhi : k ≤ 0x3F) :
    ((x.hostWriteReg false k v).sem (k - 0x20)).full = v % 2 ^ 16 ∧
      ((x.hostWriteReg false k v).sem (k - 0x20)).empty = v / 2 ^ 16 % 2 ^ 16 := by
  rw [Tile.hostWriteReg, if_neg (by omega), if_pos ⟨hlo, hhi, rfl⟩]
  dsimp only
  rw [Tile.sem, Tbl.get_put_self]
  exact ⟨rfl, rfl⟩

/-- Once the module is enabled the pairs are locked against the host. -/
theorem Tile.hostWriteReg_locked (x : Tile) {k : Nat} (v : Nat) (hlo : 0x20 ≤ k) (hhi : k ≤ 0x3F) :
    x.hostWriteReg true k v = x := by
  rw [Tile.hostWriteReg, if_neg (by omega), if_neg (by simp), if_neg (by omega)]

/-! ### TIM_NOW -/

theorem State.bar0_timNow (s : State) : s.bar0 0x600000 = s.time.ns := rfl

section
variable {s : State} (hs : s.reachable = true)
include hs

/-- A read of the whole of TIM_NOW latches the fraction (R458). -/
theorem exec_timNowRead_whole : exec (.timNowRead 0x600000 8) s =
    .next ((s.readBar0 0x600000 8).setReg Reg.TIM_NOW_FRAC_FRAC s.time.frac) :=
  congrArg _ ((if_pos (by rw [hs]; rfl)).trans (if_pos ⟨rfl, rfl⟩))

theorem exec_timNowRead_half : exec (.timNowRead 0x600000 4) s = .next (s.readBar0 0x600000 4) :=
  congrArg _ ((if_pos (by rw [hs]; rfl)).trans (if_neg (by simp)))

end

/-! ### The PCIe link -/

/-- HIF_DEV_STATUS with a link up. -/
def RegFile.linkUp (r : RegFile) (rate width : Nat) (flit : Bool) : RegFile :=
  ((r.set Reg.HIF_DEV_STATUS_RATE rate).set Reg.HIF_DEV_STATUS_WIDTH width).setFlag Reg.HIF_DEV_STATUS_FLIT flit

section
variable (r : RegFile) {rate width : Nat} (flit : Bool)

theorem RegFile.linkUp_rate (h : rate < 4) : (r.linkUp rate width flit).get Reg.HIF_DEV_STATUS_RATE = rate := by
  rw [RegFile.linkUp, RegFile.setFlag, RegFile.get_set_other _ _ _ _ (.inr (by decide)) (by decide),
    RegFile.get_set_other _ _ _ _ (.inr (by decide)) (by decide), RegFile.get_set_self _ _ _ (by decide)]
  exact Nat.mod_eq_of_lt h

theorem RegFile.linkUp_width (h : width < 32) : (r.linkUp rate width flit).get Reg.HIF_DEV_STATUS_WIDTH = width := by
  rw [RegFile.linkUp, RegFile.setFlag, RegFile.get_set_other _ _ _ _ (.inr (by decide)) (by decide),
    RegFile.get_set_self _ _ _ (by decide)]
  exact Nat.mod_eq_of_lt h

theorem RegFile.linkUp_flit : (r.linkUp rate width flit).flag Reg.HIF_DEV_STATUS_FLIT = flit := by
  rw [RegFile.linkUp, RegFile.flag, RegFile.setFlag, RegFile.get_set_self _ _ _ (by decide)]
  cases flit <;> rfl

end

theorem exec_pcieLinkUp {s : State} (hs : s.reachable = true) {rate width : Nat} (flit msix ptm : Bool)
    (hrate : rate ≠ 0 ∧ rate ≤ 3) (hwidth : width = 8 ∨ width = 16) :
    exec (.pcieLinkUp rate width flit msix ptm) s = .next { s with
      regs := s.regs.linkUp rate width (flit || decide (2 ≤ rate))
      host := { s.host with
        msixOn := msix
        ptmOn := ptm } } := by
  refine congrArg _ (if_neg ?_)
  rintro (hdown | hzero | habove | ⟨hnarrow, hwide⟩)
  · exact Bool.eq_false_iff.1 hdown hs
  · exact hrate.1 hzero
  · exact Nat.not_lt.2 hrate.2 habove
  · exact hwidth.elim hnarrow hwide

/-- Settles O27: the windows show the selected tile register, device time and the link. -/
theorem registerWindows : Obligations.RegisterWindows := by
  unfold Obligations.RegisterWindows
  intro s hs t k data
  refine ⟨fun hdata => ⟨?_, ?_, ?_⟩, fun v hv => ?_, fun v hv hoff hlo hhi => ?_, fun hnow => ?_, ?_,
    fun rate width flit msix ptm hrate hwidth => ?_⟩
  · rw [exec_cmpTileDataRead hs rfl, s.readBar0_whole (off := 0x400908) rfl (by decide) hdata, s.bar0_tileData]
    rfl
  · rw [exec_cmpTileDataRead hs rfl, s.readBar0_low rfl (by decide), s.bar0_tileData]
    rfl
  · rw [exec_cmpTileDataRead hs rfl, s.readBar0_high (off := 0x400908) rfl (by decide) hdata, s.bar0_tileData]
    rfl
  · rw [exec_cmpTileDataWrite hs hv, s.writeWord_tileData]
    rfl
  · obtain ⟨hfull, hempty⟩ := (s.tile t).hostWriteReg_sem v hlo hhi
    exact ⟨hfull, hempty, (s.tile t).hostWriteReg_locked v hlo hhi⟩
  · rw [exec_timNowRead_whole hs, s.readBar0_whole (off := 0x600000) rfl (by decide) hnow, s.bar0_timNow]
  · rw [exec_timNowRead_half hs, s.readBar0_low rfl (by decide), s.bar0_timNow]
  · have hr : rate ≠ 0 ∧ rate ≤ 3 := by
      simp only [List.mem_cons, List.not_mem_nil, or_false] at hrate
      omega
    have hw : width = 8 ∨ width = 16 := by simpa using hwidth
    exact ⟨_, exec_pcieLinkUp hs flit msix ptm hr hw, RegFile.linkUp_rate _ _ (by omega), RegFile.linkUp_width _ _ (by omega),
      RegFile.linkUp_flit _ _, rfl⟩

end Sys2Proof.Machine
end

section
/-! SUPPORT. Soundness along the machine's steps (R159, R253): every command keeps it, and so does a step. -/

namespace Sys2Proof.Machine

/-- The case split over the commands: each has a lemma of its own under Laws. -/
theorem exec_sound {s s' : State} : ∀ {i : Instr}, s.Sound → exec i s = .next s' → s'.Sound
  | .powerOn .., hs, he => execPowerOn_sound hs he
  | .perstAssert, hs, he => execPerstAssert_sound hs he
  | .perstDeassert .., hs, he => execPerstDeassert_sound hs he
  | .hotReset, hs, he => execHotReset_sound hs he
  | .functionLevelReset, hs, he => execFunctionLevelReset_sound hs he
  | .warmReset, hs, he => execWarmReset_sound hs he
  | .fabricReset, hs, he => execFabricReset_sound hs he
  | .safeState .., hs, he => execSafeState_sound hs he
  | .inputOvercurrent .., hs, he => execInputOvercurrent_sound hs he
  | .railWindow .., hs, he => execRailWindow_sound hs he
  | .dieTempSample .., hs, he => execDieTempSample_sound hs he
  | .coolantCheck .., hs, he => execCoolantCheck_sound hs he
  | .limiterAct .., hs, he => execLimiterAct_sound hs he
  | .limiterSustained, hs, he => execLimiterSustained_sound hs he
  | .limiterRelease .., hs, he => execLimiterRelease_sound hs he
  | .powerLimitWindow .., hs, he => execPowerLimitWindow_sound hs he
  | .rippleMeasure .., hs, he => execRippleMeasure_sound hs he
  | .presentMate, hs, he => execPresentMate_sound hs he
  | .presentPart, hs, he => execPresentPart_sound hs he
  | .paceWindow .., hs, he => execPaceWindow_sound hs he
  | .paceShortClear .., hs, he => execPaceShortClear_sound hs he
  | .marginReport .., hs, he => execMarginReport_sound hs he
  | .tileRepair .., hs, he => execTileRepair_sound hs he
  | .tileRepairDone .., hs, he => execTileRepairDone_sound hs he
  | .nop .., hs, he => execNop_sound hs he
  | .end_ .., hs, he => execEnd_sound hs he
  | .tileEndDone .., hs, he => execTileEndDone_sound hs he
  | .rdreg .., hs, he => execRdreg_sound hs he
  | .wrreg .., hs, he => execWrreg_sound hs he
  | .fence .., hs, he => execFence_sound hs he
  | .fenceSatisfied .., hs, he => execFenceSatisfied_sound hs he
  | .trap .., hs, he => execTrap_sound hs he
  | .li .., hs, he => execLi_sound hs he
  | .addi .., hs, he => execAddi_sound hs he
  | .alu .., hs, he => execAlu_sound hs he
  | .br .., hs, he => execBr_sound hs he
  | .jmp .., hs, he => execJmp_sound hs he
  | .loop .., hs, he => execLoop_sound hs he
  | .loopExit .., hs, he => execLoopExit_sound hs he
  | .lockstepMismatch .., hs, he => execLockstepMismatch_sound hs he
  | .sig .., hs, he => execSig_sound hs he
  | .wait .., hs, he => execWait_sound hs he
  | .waitSatisfied .., hs, he => execWaitSatisfied_sound hs he
  | .copy .., hs, he => execCopy_sound hs he
  | .compress .., hs, he => execCompress_sound hs he
  | .areaRead .., hs, he => execAreaRead_sound hs he
  | .landed .., hs, he => execLanded_sound hs he
  | .streamDescriptorStart .., hs, he => execStreamDescriptorStart_sound hs he
  | .chainSlotGrant .., hs, he => execChainSlotGrant_sound hs he
  | .streamComplete .., hs, he => execStreamComplete_sound hs he
  | .slotSignal .., hs, he => execSlotSignal_sound hs he
  | .landedComplete .., hs, he => execLandedComplete_sound hs he
  | .busError .., hs, he => execBusError_sound hs he
  | .stwait .., hs, he => execStwait_sound hs he
  | .stwaitSatisfied .., hs, he => execStwaitSatisfied_sound hs he
  | .hcsend .., hs, he => execHcsend_sound hs he
  | .handcartLeave .., hs, he => execHandcartLeave_sound hs he
  | .handcartDeliver .., hs, he => execHandcartDeliver_sound hs he
  | .mailboxWrite .., hs, he => execMailboxWrite_sound hs he
  | .tree .., hs, he => execTree_sound hs he
  | .treeNodeCombine .., hs, he => execTreeNodeCombine_sound hs he
  | .vop .., hs, he => execVop_sound hs he
  | .vred .., hs, he => execVred_sound hs he
  | .cvt .., hs, he => execCvt_sound hs he
  | .merge .., hs, he => execMerge_sound hs he
  | .mma .., hs, he => execMma_sound hs he
  | .segmentVerify .., hs, he => execSegmentVerify_sound hs he
  | .segmentRetryDone .., hs, he => execSegmentRetryDone_sound hs he
  | .mmaComplete .., hs, he => execMmaComplete_sound hs he
  | .attForward .., hs, he => execAttForward_sound hs he
  | .attBackward .., hs, he => execAttBackward_sound hs he
  | .instructionComplete .., hs, he => execInstructionComplete_sound hs he
  | .hazardClear .., hs, he => execHazardClear_sound hs he
  | .tmemScrub .., hs, he => execTmemScrub_sound hs he
  | .tmemScrubPassEnd .., hs, he => execTmemScrubPassEnd_sound hs he
  | .livenessAdvance .., hs, he => execLivenessAdvance_sound hs he
  | .watchdogSample .., hs, he => execWatchdogSample_sound hs he
  | .cmpTileDataRead .., hs, he => execCmpTileDataRead_sound hs he
  | .cmpTileDataWrite .., hs, he => execCmpTileDataWrite_sound hs he
  | .timNowRead .., hs, he => execTimNowRead_sound hs he
  | .registerWrite .., hs, he => execRegisterWrite_sound hs he
  | .enable, hs, he => execEnable_sound hs he
  | .consistencyCheckDone .., hs, he => execConsistencyCheckDone_sound hs he
  | .park, hs, he => execPark_sound hs he
  | .deepPark, hs, he => execDeepPark_sound hs he
  | .parkExit, hs, he => execParkExit_sound hs he
  | .parkEntry, hs, he => execParkEntry_sound hs he
  | .d3hotEntry, hs, he => execD3hotEntry_sound hs he
  | .d0Return, hs, he => execD0Return_sound hs he
  | .doorbellPoll, hs, he => execDoorbellPoll_sound hs he
  | .doorbellPollResult .., hs, he => execDoorbellPollResult_sound hs he
  | .descriptorFetch, hs, he => execDescriptorFetch_sound hs he
  | .descriptorFetchResult .., hs, he => execDescriptorFetchResult_sound hs he
  | .descriptorStart .., hs, he => execDescriptorStart_sound hs he
  | .nopDescriptor .., hs, he => execNopDescriptor_sound hs he
  | .progLoad .., hs, he => execProgLoad_sound hs he
  | .progLoadDone .., hs, he => execProgLoadDone_sound hs he
  | .kvReserve .., hs, he => execKvReserve_sound hs he
  | .kvRelease .., hs, he => execKvRelease_sound hs he
  | .objDefine .., hs, he => execObjDefine_sound hs he
  | .objPromote .., hs, he => execObjPromote_sound hs he
  | .objEvict .., hs, he => execObjEvict_sound hs he
  | .objUnpin .., hs, he => execObjUnpin_sound hs he
  | .objFree .., hs, he => execObjFree_sound hs he
  | .objectCopyDone .., hs, he => execObjectCopyDone_sound hs he
  | .flashWrite .., hs, he => execFlashWrite_sound hs he
  | .flashWriteDone .., hs, he => execFlashWriteDone_sound hs he
  | .completionWrite .., hs, he => execCompletionWrite_sound hs he
  | .eventWrite, hs, he => execEventWrite_sound hs he
  | .modTimeExpiry .., hs, he => execModTimeExpiry_sound hs he
  | .stepArm .., hs, he => execStepArm_sound hs he
  | .mbAdmit .., hs, he => execMbAdmit_sound hs he
  | .stepRelease view, hs, he => execStepRelease_sound (_v := view) hs he
  | .queueStart .., hs, he => execQueueStart_sound hs he
  | .gather .., hs, he => execGather_sound hs he
  | .gatherLanded .., hs, he => execGatherLanded_sound hs he
  | .dropSync .., hs, he => execDropSync_sound hs he
  | .dropSyncComplete .., hs, he => execDropSyncComplete_sound hs he
  | .gradExchange .., hs, he => execGradExchange_sound hs he
  | .gradEncodeStart .., hs, he => execGradEncodeStart_sound hs he
  | .contributionReceive .., hs, he => execContributionReceive_sound hs he
  | .coll .., hs, he => execColl_sound hs he
  | .collPacketReceive .., hs, he => execCollPacketReceive_sound hs he
  | .stepAbort .., hs, he => execStepAbort_sound hs he
  | .stepRunningEnd, hs, he => execStepRunningEnd_sound hs he
  | .parityPartialReceive .., hs, he => execParityPartialReceive_sound hs he
  | .parityUpdateDone, hs, he => execParityUpdateDone_sound hs he
  | .voteReceive .., hs, he => execVoteReceive_sound hs he
  | .decisionReceive .., hs, he => execDecisionReceive_sound hs he
  | .tableRebuildDone .., hs, he => execTableRebuildDone_sound hs he
  | .abortEnd, hs, he => execAbortEnd_sound hs he
  | .heartbeatSend, hs, he => execHeartbeatSend_sound hs he
  | .gatePartyLost .., hs, he => execGatePartyLost_sound hs he
  | .isolationTimeout, hs, he => execIsolationTimeout_sound hs he
  | .healthEvaluate, hs, he => execHealthEvaluate_sound hs he
  | .absent .., hs, he => execAbsent_sound hs he
  | .spareFillDone, hs, he => execSpareFillDone_sound hs he
  | .pieceRepair .., hs, he => execPieceRepair_sound hs he
  | .mbDrop .., hs, he => execMbDrop_sound hs he
  | .snapshot .., hs, he => execSnapshot_sound hs he
  | .snapshotLoad .., hs, he => execSnapshotLoad_sound hs he
  | .parityInit .., hs, he => execParityInit_sound hs he
  | .routeLoad .., hs, he => execRouteLoad_sound hs he
  | .routeArm .., hs, he => execRouteArm_sound hs he
  | .routeProbe .., hs, he => execRouteProbe_sound hs he
  | .flitSend .., hs, he => execFlitSend_sound hs he
  | .flitReceive .., hs, he => execFlitReceive_sound hs he
  | .nackReceive .., hs, he => execNackReceive_sound hs he
  | .nackRepeat .., hs, he => execNackRepeat_sound hs he
  | .replayTimeout .., hs, he => execReplayTimeout_sound hs he
  | .linkSilenceTimeout .., hs, he => execLinkSilenceTimeout_sound hs he
  | .linkFinal .., hs, he => execLinkFinal_sound hs he
  | .linkFinalTimeout .., hs, he => execLinkFinalTimeout_sound hs he
  | .laneSpare .., hs, he => execLaneSpare_sound hs he
  | .linkTrainRetry .., hs, he => execLinkTrainRetry_sound hs he
  | .linkRetryRateCheck, hs, he => execLinkRetryRateCheck_sound hs he
  | .packetReceive .., hs, he => execPacketReceive_sound hs he
  | .packetForward .., hs, he => execPacketForward_sound hs he
  | .unreachable .., hs, he => execUnreachable_sound hs he
  | .message .., hs, he => execMessage_sound hs he
  | .hold .., hs, he => execHold_sound hs he
  | .holdResendTimeout .., hs, he => execHoldResendTimeout_sound hs he
  | .handcartAck .., hs, he => execHandcartAck_sound hs he
  | .readReq .., hs, he => execReadReq_sound hs he
  | .readResp .., hs, he => execReadResp_sound hs he
  | .wack .., hs, he => execWack_sound hs he
  | .injectDrop .., hs, he => execInjectDrop_sound hs he
  | .injectCorrupt .., hs, he => execInjectCorrupt_sound hs he
  | .injectReorder .., hs, he => execInjectReorder_sound hs he
  | .injectLaneFail .., hs, he => execInjectLaneFail_sound hs he
  | .injectLinkFail .., hs, he => execInjectLinkFail_sound hs he
  | .memRequestEnter .., hs, he => execMemRequestEnter_sound hs he
  | .memReadDone .., hs, he => execMemReadDone_sound hs he
  | .laneMark .., hs, he => execLaneMark_sound hs he
  | .channelRetire .., hs, he => execChannelRetire_sound hs he
  | .retireAreaPoisoned, hs, he => execRetireAreaPoisoned_sound hs he
  | .bankRefresh .., hs, he => execBankRefresh_sound hs he
  | .stackTempSample .., hs, he => execStackTempSample_sound hs he
  | .patrolScrubRead .., hs, he => execPatrolScrubRead_sound hs he
  | .tgStart .., hs, he => execTgStart_sound hs he
  | .tgRunDone .., hs, he => execTgRunDone_sound hs he
  | .healthRecordWrite .., hs, he => execHealthRecordWrite_sound hs he
  | .syncSend .., hs, he => execSyncSend_sound hs he
  | .syncReceive .., hs, he => execSyncReceive_sound hs he
  | .syncMissed .., hs, he => execSyncMissed_sound hs he
  | .ppsEdge .., hs, he => execPpsEdge_sound hs he
  | .ref10mLoss, hs, he => execRef10mLoss_sound hs he
  | .oscillatorFail, hs, he => execOscillatorFail_sound hs he
  | .timSet .., hs, he => execTimSet_sound hs he
  | .timePageWrite, hs, he => execTimePageWrite_sound hs he
  | .ptmExchange .., hs, he => execPtmExchange_sound hs he
  | .ptpMessage .., hs, he => execPtpMessage_sound hs he
  | .getVersion .., hs, he => execGetVersion_sound hs he
  | .getCapabilities .., hs, he => execGetCapabilities_sound hs he
  | .negotiateAlgorithms .., hs, he => execNegotiateAlgorithms_sound hs he
  | .getDigests .., hs, he => execGetDigests_sound hs he
  | .getCertificate .., hs, he => execGetCertificate_sound hs he
  | .challenge .., hs, he => execChallenge_sound hs he
  | .getMeasurements .., hs, he => execGetMeasurements_sound hs he
  | .pldmFirmwareUpdate .., hs, he => execPldmFirmwareUpdate_sound hs he
  | .pldmPlatformMonitoring .., hs, he => execPldmPlatformMonitoring_sound hs he
  | .ovenWarm, hs, he => execOvenWarm_sound hs he
  | .pcieLinkUp .., hs, he => execPcieLinkUp_sound hs he
  | .illegalOpcode .., hs, he => execIllegalOpcode_sound hs he
  | .stepCommitEnd, hs, he => execStepCommitEnd_sound hs he
  | .snapshotDone .., hs, he => execSnapshotDone_sound hs he
  | .snapshotLoadDone .., hs, he => execSnapshotLoadDone_sound hs he
  | .routeLoadDone, hs, he => execRouteLoadDone_sound hs he
  | .safInputRefresh .., hs, he => execSafInputRefresh_sound hs he
  | .mgmtAlertPulseEnd, hs, he => execMgmtAlertPulseEnd_sound hs he
  | .busBelow40v, hs, he => execBusBelow40v_sound hs he

theorem step_sound {s s' : State} (hs : s.Sound) (he : step s = .next s') : s'.Sound := by
  unfold step at he
  split at he
  · exact exec_sound (State.Sound.mk_of hs) he
  · exact next_sound (State.tick_sound hs) he

/-- Settles O60: a step is the front command on the rest of the queue or a tick, and both keep a state sound. -/
theorem everyStepKeepsSound : Obligations.EveryStepKeepsSound :=
  fun _ _ => step_sound

end Sys2Proof.Machine
end

section
/-! SUPPORT. Key/value reservations (R159, R160): what a KV_RESERVE of a new ID and a KV_RELEASE make of the reservations. -/

namespace Sys2Proof.Machine

/-! ### Inside a free range -/

/-- A new ID that takes its units from the start of a free range leaves the reservations apart. -/
theorem kvInsert_gap_apart {k : KvRes} {l : List KvRes} {units : Nat} {g : Nat × Nat} (h : kvApart l) (hg : g ∈ kvGaps units 0 l)
    (hfirst : k.first = g.1) (hfits : k.units ≤ g.2) (hpos : 0 < k.units) (hid : ∀ x ∈ l, x.id ≠ k.id) :
    kvApart (kvInsert k l) := by
  obtain ⟨-, hclear⟩ := kvGaps_clear h.1 (fun k _ => Nat.zero_le k.first) hg
  refine kvInsert_apart h hpos hid fun x hx => ?_
  have := hclear x hx
  omega

/-! ### The decision of a KV_RESERVE -/

section
variable {s : State} {d : Desc} (hid : d.n 0 2 < 4096) (hkind : d.n 2 1 = 0 ∧ d.n 3 1 = 0 ∨ d.n 2 1 = 1 ∧ d.n 3 1 < 16)
  (hunits : d.n 4 4 ≠ 0)
  (hnew : ∀ k ∈ s.kv, k.id ≠ d.n 0 2 ∧ ¬ (d.n 2 1 = 1 ∧ k.kind = 1 ∧ k.ring = d.n 3 1))
include hid hkind hunits hnew

/-- A reservation whose fields are in range and whose ID and ring are not in use is decided by the free ranges alone. -/
theorem State.kvReserve_of_new : s.kvReserve d =
    (s.kvFree.find? fun g => decide (d.n 4 4 ≤ g.2)).elim (St.kvCapacity, largest s.kvFree, s.kv) fun g =>
      (St.ok, (s.regs.get Reg.CMP_KV_BASE_BASE + g.1) * 65536,
        kvInsert ⟨d.n 0 2, d.n 2 1, d.n 3 1, g.1, d.n 4 4⟩ s.kv) := by
  have hrange : ¬ (4096 ≤ d.n 0 2 ∨ 2 ≤ d.n 2 1 ∨ (d.n 2 1 = 0 ∧ d.n 3 1 ≠ 0) ∨ (d.n 2 1 = 1 ∧ 16 ≤ d.n 3 1)) := by omega
  have hused : ¬ (s.kv.any fun k => k.id == d.n 0 2) = true := by
    simpa using fun k hk => (hnew k hk).1
  have hring : ¬ (d.n 2 1 = 1 ∧ s.kv.any (fun k => k.kind == 1 && k.ring == d.n 3 1) = true) := by
    rintro ⟨hone, hany⟩
    obtain ⟨k, hk, hsame⟩ := List.any_eq_true.1 hany
    simp only [Bool.and_eq_true, beq_iff_eq] at hsame
    exact (hnew k hk).2 ⟨hone, hsame⟩
  unfold State.kvReserve
  dsimp only
  rw [if_neg hrange, if_neg hunits, if_neg hused, if_neg hring]
  cases s.kvFree.find? _ <;> rfl

theorem State.kvReserve_of_room {g : Nat × Nat} (hg : s.kvFree.find? (fun g => decide (d.n 4 4 ≤ g.2)) = some g) :
    s.kvReserve d = (St.ok, (s.regs.get Reg.CMP_KV_BASE_BASE + g.1) * 65536,
      kvInsert ⟨d.n 0 2, d.n 2 1, d.n 3 1, g.1, d.n 4 4⟩ s.kv) := by
  rw [State.kvReserve_of_new hid hkind hunits hnew, hg, Option.elim_some]

theorem State.kvReserve_of_no_room (hg : ∀ g ∈ s.kvFree, g.2 < d.n 4 4) :
    s.kvReserve d = (St.kvCapacity, largest s.kvFree, s.kv) := by
  have hnone : s.kvFree.find? (fun g => decide (d.n 4 4 ≤ g.2)) = none :=
    List.find?_eq_none.2 fun g hmem => by simpa using hg g hmem
  rw [State.kvReserve_of_new hid hkind hunits hnew, hnone, Option.elim_none]

end

/-! ### On the module -/

theorem State.onDesc_of_ready {s : State} {r j op : Nat} {f : State → Desc → State} {d : Desc} (hd : s.ready r j op = some d)
    (hfree : s.host.stuck d.unit = false) (heval : d.eval = true → s.evalOn = true) : s.onDesc r j op f = f s d := by
  have hruns : ¬ (d.eval = true ∧ s.evalOn = false) := fun h => by simp [heval h.1] at h
  simp [State.onDesc, hd, hfree, hruns]

section
variable {s : State} {r j : Nat} {d : Desc} (hturn : s.firstFetched r j 3 4 = true) (hfree : s.host.stuck d.unit = false)
  (heval : d.eval = true → s.evalOn = true)
include hturn hfree heval

theorem exec_kvReserve (hd : s.ready r j 3 = some d) : exec (.kvReserve r j) s =
    .next (({ s with kv := (s.kvReserve d).2.2 }).complete r j (s.kvReserve d).1 0 (s.kvReserve d).2.1) := by
  show execKvReserve r j s = _
  rw [execKvReserve, if_neg (by simp [hturn]), State.onDesc_of_ready hd hfree heval]

theorem exec_kvRelease (hd : s.ready r j 4 = some d) (hid : d.n 0 2 < 4096) : exec (.kvRelease r j) s =
    .next (if s.kv.any fun k => k.id == d.n 0 2 then
        ({ s with kv := s.kv.filter fun k => k.id != d.n 0 2 }).complete r j St.ok 0 0
      else s.complete r j St.kvIdUnknown 0 0) := by
  show execKvRelease r j s = _
  rw [execKvRelease, if_neg (by simp [hturn]), State.onDesc_of_ready hd hfree heval]
  exact congrArg _ (if_neg (Nat.not_le.2 hid))

end

/-- Settles O32: free ranges are clear of the reservations, so the first that holds UNITS units takes the new one. -/
theorem keyValueReservations : Obligations.KeyValueReservations := by
  unfold Obligations.KeyValueReservations
  intro s r j d hturn hfree heval
  refine ⟨fun g hd hid hkind hunits hnew hg => ?_, fun hd hid hkind hunits hnew hg => ?_, fun hd hid hused => ?_,
    fun hd hid hunused => ?_, fun k g hg hk hapart => ?_⟩
  · have hfits : d.n 4 4 ≤ g.2 := by simpa using List.find?_some hg
    refine ⟨_, ?_, fun k => kvInsert_mem, fun hapart => kvInsert_gap_apart hapart (List.mem_of_find?_eq_some hg) rfl hfits
      (Nat.pos_of_ne_zero hunits) fun k hk => (hnew k hk).1⟩
    rw [exec_kvReserve hturn hfree heval hd, State.kvReserve_of_room hid hkind hunits hnew hg]
  · rw [exec_kvReserve hturn hfree heval hd, State.kvReserve_of_no_room hid hkind hunits hnew hg]
  · refine ⟨s.kv.filter fun k => k.id != d.n 0 2, ?_, fun k => by simp, kvApart_filter _⟩
    rw [exec_kvRelease hturn hfree heval hd hid, if_pos (by simpa using hused)]
  · rw [exec_kvRelease hturn hfree heval hd hid, if_neg (by simpa using hunused)]
  · exact (kvGaps_clear hapart.1 (fun k _ => Nat.zero_le k.first) hg).2 k hk

end Sys2Proof.Machine
end

section
/-! SUPPORT. Loops and branches of a tile's program (R187, R189, R190): counting down keeps every loop's place, and a jump leaves
active the loops whose body holds its target. -/

namespace Sys2Proof.Machine

/-! ### One loop counter -/

theorem Tile.loopCtr_put_self (x : Tile) (lc : Nat) (l : LoopCtr) :
    ({ x with loops := Tbl.put x.loops lc l } : Tile).loopCtr lc = l := Tbl.get_put_self _ _ _ _

theorem Tile.loopCtr_put_other (x : Tile) {lc k : Nat} (l : LoopCtr) (h : lc ≠ k) :
    ({ x with loops := Tbl.put x.loops lc l } : Tile).loopCtr k = x.loopCtr k := Tbl.get_put_other _ _ _ h

/-- The two counters are of one loop, active in both or in neither. -/
def LoopCtr.SameBody (l m : LoopCtr) : Prop := m.start = l.start ∧ m.stop = l.stop ∧ m.active = l.active

/-- Counting down changes no more of a loop than its count (R190). -/
theorem countDown_sameBody (l : List Nat) (x : Tile) (k : Nat) : (x.loopCtr k).SameBody ((countDown x l).1.loopCtr k) := by
  induction l generalizing x with
  | nil => exact ⟨rfl, rfl, rfl⟩
  | cons lc l ih =>
    have hstep (n : Nat) : (x.loopCtr k).SameBody
        (({ x with loops := Tbl.put x.loops lc { x.loopCtr lc with count := n } } : Tile).loopCtr k) := by
      by_cases h : lc = k
      · subst h
        rw [Tile.loopCtr_put_self]
        exact ⟨rfl, rfl, rfl⟩
      · rw [Tile.loopCtr_put_other x _ h]
        exact ⟨rfl, rfl, rfl⟩
    rw [countDown]
    split
    · exact hstep _
    · obtain ⟨hstart, hstop, hactive⟩ := ih { x with loops := Tbl.put x.loops lc _ }
      obtain ⟨hstart', hstop', hactive'⟩ := hstep ((x.loopCtr lc).count - 1)
      exact ⟨hstart.trans hstart', hstop.trans hstop', hactive.trans hactive'⟩

/-! ### Leaving loops -/

/-- The loop after a jump to the target: inactive where its body does not hold the target. -/
def LoopCtr.leftFor (l : LoopCtr) (target : Nat) : LoopCtr :=
  if l.active ∧ ¬ (l.start ≤ target ∧ target ≤ l.stop) then { l with active := false } else l

theorem LoopCtr.leftFor_active (l : LoopCtr) (target : Nat) :
    (l.leftFor target).active = true ↔ l.active = true ∧ l.start ≤ target ∧ target ≤ l.stop := by
  unfold LoopCtr.leftFor
  split
  · next h => exact ⟨fun hfalse => absurd hfalse Bool.false_ne_true, fun hall => absurd hall.2 h.2⟩
  · next h => exact ⟨fun hactive => ⟨hactive, not_not.1 fun hout => h ⟨hactive, hout⟩⟩, fun hall => hall.1⟩

/-- One loop counter of the tile after a jump to the target. -/
def Tile.leaveLoop (target : Nat) (x : Tile) (lc : Nat) : Tile :=
  if (x.loopCtr lc).active ∧ ¬ ((x.loopCtr lc).start ≤ target ∧ target ≤ (x.loopCtr lc).stop) then
    { x with loops := Tbl.put x.loops lc { x.loopCtr lc with active := false } }
  else x

theorem leaveLoops_eq_foldl (target : Nat) (x : Tile) :
    leaveLoops target x = (List.range 4).foldl (Tile.leaveLoop target) x := rfl

theorem Tile.leaveLoop_loopCtr_self (target : Nat) (x : Tile) (lc : Nat) :
    (x.leaveLoop target lc).loopCtr lc = (x.loopCtr lc).leftFor target := by
  unfold Tile.leaveLoop LoopCtr.leftFor
  split
  · exact x.loopCtr_put_self lc _
  · rfl

theorem Tile.leaveLoop_loopCtr_other (target : Nat) (x : Tile) {lc k : Nat} (h : lc ≠ k) :
    (x.leaveLoop target lc).loopCtr k = x.loopCtr k := by
  unfold Tile.leaveLoop
  split
  · exact x.loopCtr_put_other _ h
  · rfl

theorem foldl_leaveLoop_loopCtr_other (target : Nat) (x : Tile) {l : List Nat} {k : Nat} (h : k ∉ l) :
    (l.foldl (Tile.leaveLoop target) x).loopCtr k = x.loopCtr k := by
  induction l generalizing x with
  | nil => rfl
  | cons lc l ih =>
    obtain ⟨hk, hl⟩ := not_or.1 (mt List.mem_cons.2 h)
    exact (ih _ hl).trans (x.leaveLoop_loopCtr_other target (Ne.symm hk))

theorem foldl_leaveLoop_loopCtr (target : Nat) (x : Tile) {l : List Nat} (hl : l.Nodup) {k : Nat} (h : k ∈ l) :
    (l.foldl (Tile.leaveLoop target) x).loopCtr k = (x.loopCtr k).leftFor target := by
  induction l generalizing x with
  | nil => nomatch h
  | cons lc l ih =>
    obtain ⟨hlc, hl⟩ := List.nodup_cons.1 hl
    rcases List.mem_cons.1 h with rfl | hk
    · exact (foldl_leaveLoop_loopCtr_other target _ hlc).trans (x.leaveLoop_loopCtr_self target k)
    · have hne : lc ≠ k := fun he => hlc (he ▸ hk)
      rw [List.foldl_cons, ih _ hl hk, x.leaveLoop_loopCtr_other target hne]

theorem leaveLoops_loopCtr (target : Nat) (x : Tile) {lc : Nat} (h : lc < 4) :
    (leaveLoops target x).loopCtr lc = (x.loopCtr lc).leftFor target :=
  foldl_leaveLoop_loopCtr target x List.nodup_range (List.mem_range.2 h)

/-- Leaving loops changes the loop counters alone. -/
theorem leaveLoops_eq (target : Nat) (x : Tile) :
    leaveLoops target x = { x with loops := (leaveLoops target x).loops } := by
  rw [leaveLoops_eq_foldl]
  refine foldl_keeps (P := fun y : Tile => y = { x with loops := y.loops }) (fun y lc hy => ?_) _ rfl
  unfold Tile.leaveLoop
  split
  · rw [hy]
  · exact hy

/-! ### Jumps -/

theorem Tile.jumpTo_eq (x : Tile) (target : Nat) : x.jumpTo target = { x with
    loops := (x.jumpTo target).loops
    pc := target
    lockPending := false
    stall := .none } := by
  have hleft : leaveLoops target (countDown x x.loopsEnding).1 =
      { x with loops := (leaveLoops target (countDown x x.loopsEnding).1).loops } := by
    rw [leaveLoops_eq, countDown_eq]
  unfold Tile.jumpTo
  dsimp only
  generalize leaveLoops target (countDown x x.loopsEnding).1 = y at hleft
  rw [hleft]

/-- A jump leaves active the loops whose body holds its target, and no other (R189). -/
theorem Tile.jumpTo_active (x : Tile) (target : Nat) {lc : Nat} (h : lc < 4) :
    ((x.jumpTo target).loopCtr lc).active = true ↔
      (x.loopCtr lc).active = true ∧ (x.loopCtr lc).start ≤ target ∧ target ≤ (x.loopCtr lc).stop := by
  obtain ⟨hstart, hstop, hactive⟩ := countDown_sameBody x.loopsEnding x lc
  have hleft : (x.jumpTo target).loopCtr lc = ((countDown x x.loopsEnding).1.loopCtr lc).leftFor target :=
    leaveLoops_loopCtr target _ h
  rw [hleft, LoopCtr.leftFor_active, hstart, hstop, hactive]

/-! ### The tile's data -/

theorem Tile.sameData.trans {x y z : Tile} (h : y.sameData x) (h' : z.sameData y) : z.sameData x := Eq.trans h' (by rw [h])

theorem Tile.sameData_of_eq {x y : Tile} {loops : List (Nat × LoopCtr)} {pc : Nat} {lock : Bool} {stall : Stall}
    (h : y = { x with loops := loops, pc := pc, lockPending := lock, stall := stall }) : y.sameData x := by
  subst h
  rfl

theorem Tile.jumpTo_sameData (x : Tile) (target : Nat) : (x.jumpTo target).sameData x :=
  Tile.sameData_of_eq (x.jumpTo_eq target)

theorem Tile.predict_sameData (x : Tile) (taken : Bool) : (x.predict taken).sameData x := rfl

theorem Tile.past_sameData (x : Tile) : x.past.sameData x := Tile.sameData_of_eq (Tile.past_of x x rfl rfl)

/-! ### Branch conditions -/

/-- The conditions of Table 05.8 by their code. -/
theorem brCond_of_mem (a b : Word) : ∀ p ∈ [(0, decide (a = b)), (1, decide (a ≠ b)), (2, decide (a.toNat < b.toNat)),
    (3, decide (b.toNat ≤ a.toNat)), (4, decide (a.toInt < b.toInt)), (5, decide (b.toInt ≤ a.toInt))],
    brCond p.1 a b = some p.2 := by
  simp only [List.forall_mem_cons, List.not_mem_nil, false_imp_iff, implies_true, and_true]
  exact ⟨rfl, congrArg some (decide_not).symm, rfl, rfl, rfl, rfl⟩

section
variable {num : Nat} {x : Tile} {f : BrF} (htarget : f.target < x.progLen)
include htarget

theorem Tile.issueBr_taken (h : brCond f.cond (x.reg f.ga) (x.reg f.gb) = some true) :
    x.issueBr num f = .ok ((x.predict true).jumpTo f.target) := by
  rw [Tile.issueBr, h]
  exact if_neg (Nat.not_le.2 htarget)

theorem Tile.issueBr_notTaken (h : brCond f.cond (x.reg f.ga) (x.reg f.gb) = some false) :
    x.issueBr num f = (x.predict false).advance num := by
  rw [Tile.issueBr, h]
  exact if_neg (Nat.not_le.2 htarget)

end

theorem Tile.issueJmp_inside (num : Nat) {x : Tile} {target : Nat} (h : target < x.progLen) :
    x.issueJmp num target = .ok (x.jumpTo target) := if_neg (Nat.not_le.2 h)

/-! ### FENCE -/

/-- FENCE goes on where nothing is in progress, and else waits past itself (R187). -/
theorem Tile.issueFence_eq (num : Nat) {x : Tile} (h : x.goesOn) :
    x.issueFence num = .ok (if x.inflight = [] then x.past else { x.past with stall := .fence }) := by
  rw [Tile.issueFence, Tile.advance_past num x h]
  split <;> rfl

/-! ### On the module -/

/-- The command takes the tile to the target, with its data as they were and the loops around the target active. -/
def State.Jumps (s : State) (t target : Nat) (c : Instr) : Prop :=
  let x := (s.fetched t).tile t
  ∃ y : Tile, exec c s = .next ((s.fetched t).issued t y) ∧ y.pc = target ∧ y.stall = .none ∧ y.sameData x ∧
    ∀ lc, lc < 4 → ((y.loopCtr lc).active = true ↔
      (x.loopCtr lc).active = true ∧ (x.loopCtr lc).start ≤ target ∧ target ≤ (x.loopCtr lc).stop)

section
variable {s : State} {t : Nat}

theorem exec_fence (hgo : ((s.fetched t).tile t).goesOn) (h : s.issues t .fence = true) :
    exec (.fence t) s = .next ((s.fetched t).issued t (if ((s.fetched t).tile t).inflight = [] then
      ((s.fetched t).tile t).past else { ((s.fetched t).tile t).past with stall := .fence })) := by
  refine congrArg _ (State.issue_with h (Tile.issueFence_eq t hgo) ?_)
  rw [TileRes.ok]
  split <;> rfl

theorem exec_jmp {target : Nat} (h : s.issues t (.jmp target) = true) (htarget : target < ((s.fetched t).tile t).progLen) :
    s.Jumps t target (.jmp t target) :=
  ⟨_, congrArg _ (State.issue_with h (Tile.issueJmp_inside t htarget) (Tile.heldBack_none _ rfl)), rfl, rfl,
    Tile.jumpTo_sameData _ target, fun _ => Tile.jumpTo_active _ target⟩

section
variable {f : BrF} (h : s.issues t (.br f) = true) (htarget : f.target < ((s.fetched t).tile t).progLen)
include h htarget

theorem exec_br_taken
    (hcond : brCond f.cond (((s.fetched t).tile t).reg f.ga) (((s.fetched t).tile t).reg f.gb) = some true) :
    s.Jumps t f.target (.br t f) :=
  ⟨_, congrArg _ (State.issue_with h (Tile.issueBr_taken htarget hcond) (Tile.heldBack_none _ rfl)), rfl, rfl,
    (Tile.predict_sameData _ true).trans (Tile.jumpTo_sameData _ f.target), fun _ => Tile.jumpTo_active _ f.target⟩

theorem exec_br_notTaken (hgo : ((s.fetched t).tile t).goesOn)
    (hcond : brCond f.cond (((s.fetched t).tile t).reg f.ga) (((s.fetched t).tile t).reg f.gb) = some false) :
    exec (.br t f) s = .next ((s.fetched t).issued t (((s.fetched t).tile t).predict false).past) := by
  have hgo' : (((s.fetched t).tile t).predict false).goesOn :=
    (Tile.goesOn_congr (Tile.predict _ false) ((s.fetched t).tile t) rfl rfl rfl).2 hgo
  exact congrArg _ (State.issue_with h ((Tile.issueBr_notTaken htarget hcond).trans (Tile.advance_past t _ hgo'))
    (Tile.heldBack_none _ rfl))

end

end

/-- Settles O4: a jump counts the loops that end at it down, leaves those around its target active and keeps the tile's data; a
branch not taken is a move past the instruction. -/
theorem branchesMoveThePc : Obligations.BranchesMoveThePc := by
  unfold Obligations.BranchesMoveThePc
  intro s t
  refine ⟨fun h hgo => congrArg _ (State.issue_past h hgo rfl), fun h hgo => exec_fence hgo h, fun target => exec_jmp,
    fun f h htarget => ?_⟩
  intro a b p hp hcode
  have hcond : brCond f.cond a b = some p.2 := hcode ▸ brCond_of_mem a b p hp
  refine ⟨fun htaken => exec_br_taken h htarget (hcond.trans (congrArg some htaken)), fun hnot hgo => ?_⟩
  have hpast : (Tile.predict ((s.fetched t).tile t) false).past = _ := Tile.past_of _ ((s.fetched t).tile t) rfl rfl
  refine ⟨_, exec_br_notTaken h htarget hgo (hcond.trans (congrArg some hnot)), ?_, ?_, rfl,
    (Tile.predict_sameData _ false).trans (Tile.past_sameData _)⟩
  · rw [hpast]
    rfl
  · rw [hpast]

end Sys2Proof.Machine
end

section
/-! SUPPORT. Hardware loops of a tile's program (R190): which LOOP is refused, how one starts, and how a body ends. -/

namespace Sys2Proof.Machine

/-! ### LOOP -/

/-- R190 refuses the LOOP at PC: its counter is active, its body does not end within the program behind it, or a loop around it
ends before it. -/
def Tile.RefusesLoop (x : Tile) (f : LoopF) : Prop :=
  (x.loopCtr f.lc).active = true ∨ f.stop ≤ x.pc ∨ x.progLen ≤ f.stop ∨ ∃ k, k < 4 ∧ (x.loopCtr k).active = true ∧
    (x.loopCtr k).start ≤ x.pc ∧ x.pc ≤ (x.loopCtr k).stop ∧ (x.loopCtr k).stop < f.stop

theorem Tile.any_loop_iff (x : Tile) (stop : Nat) :
    ((List.range 4).any fun k => (x.loopCtr k).active && decide ((x.loopCtr k).start ≤ x.pc ∧ x.pc ≤ (x.loopCtr k).stop ∧
      (x.loopCtr k).stop < stop)) = true ↔
    ∃ k, k < 4 ∧ (x.loopCtr k).active = true ∧ (x.loopCtr k).start ≤ x.pc ∧ x.pc ≤ (x.loopCtr k).stop ∧
      (x.loopCtr k).stop < stop := by
  simp only [List.any_eq_true, List.mem_range, Bool.and_eq_true, decide_eq_true_eq]

/-- The count that a LOOP starts with. -/
def Tile.loopCount (x : Tile) (f : LoopF) : Nat := if f.creg = 0 then f.imm else (x.reg f.creg).toNat % 2 ^ 32

section
variable (num : Nat) {x : Tile} {f : LoopF}

theorem Tile.issueLoop_refused (h : x.RefusesLoop f) : x.issueLoop num f = x.refuse num St.loopDepth := by
  unfold Tile.RefusesLoop at h
  rw [← Tile.any_loop_iff] at h
  exact if_pos h

theorem Tile.issueLoop_accepted (h : ¬ x.RefusesLoop f) : x.issueLoop num f =
    let y := { x with lockPending := false, stall := .none }
    if x.loopCount f = 0 then
      (if f.stop + 1 ≥ x.progLen then y.raise num St.pcRange x.pc 0 else .ok { y with pc := f.stop + 1 })
    else .ok { y with loops := Tbl.put x.loops f.lc ⟨x.loopCount f, x.pc + 1, f.stop, true⟩, pc := x.pc + 1 } := by
  unfold Tile.RefusesLoop at h
  rw [← Tile.any_loop_iff] at h
  exact if_neg h

/-- A count above 0 starts the counter at the start of the body. -/
theorem Tile.issueLoop_starts (h : ¬ x.RefusesLoop f) (hn : x.loopCount f ≠ 0) : x.issueLoop num f = .ok { x with
    loops := Tbl.put x.loops f.lc ⟨x.loopCount f, x.pc + 1, f.stop, true⟩
    pc := x.pc + 1
    lockPending := false
    stall := .none } :=
  (Tile.issueLoop_accepted num h).trans (if_neg hn)

/-- A count of 0 skips the body. -/
theorem Tile.issueLoop_skips (h : ¬ x.RefusesLoop f) (hn : x.loopCount f = 0) (hpast : f.stop + 1 < x.progLen) :
    x.issueLoop num f = .ok { x with
      pc := f.stop + 1
      lockPending := false
      stall := .none } :=
  (Tile.issueLoop_accepted num h).trans ((if_pos hn).trans (if_neg (Nat.not_le.2 hpast)))

end

/-! ### The end of a body -/

section
variable {x : Tile} {lc : Nat} (hend : x.loopsEnding = [lc])
include hend

/-- Where one loop ends at PC, its counter alone counts down. -/
theorem Tile.past_loops : x.past.loops = Tbl.put x.loops lc { x.loopCtr lc with count := (x.loopCtr lc).count - 1 } := by
  have hpast : x.past.loops = (countDown x x.loopsEnding).1.loops := rfl
  rw [hpast, hend, countDown]
  dsimp only
  split <;> rfl

theorem Tile.past_loopCtr : x.past.loopCtr lc = { x.loopCtr lc with count := (x.loopCtr lc).count - 1 } := by
  rw [Tile.loopCtr, Tile.past_loops hend, Tbl.get_put_self]

theorem Tile.nextPc_goesRound (h : (x.loopCtr lc).count > 1) : x.nextPc = (x.loopCtr lc).start := by
  rw [Tile.nextPc, hend, countDown, if_pos h, Option.getD_some]

theorem Tile.nextPc_goesOut (h : (x.loopCtr lc).count ≤ 1) : x.nextPc = x.pc + 1 := by
  rw [Tile.nextPc, hend, countDown, if_neg (Nat.not_lt.2 h), countDown, Option.getD_none]

end

theorem Tile.loopExit_ended {x : Tile} {lc : Nat} (hactive : (x.loopCtr lc).active = true) (hzero : (x.loopCtr lc).count = 0) :
    x.loopExit lc = { x with loops := Tbl.put x.loops lc { x.loopCtr lc with active := false } } :=
  if_pos ⟨hactive, hzero⟩

/-! ### On the module -/

section
variable {s : State} {t : Nat} {f : LoopF} (h : s.issues t (.loop f) = true)
  (hok : ¬ ((s.fetched t).tile t).RefusesLoop f)
include h hok

theorem exec_loop_starts (hn : ((s.fetched t).tile t).loopCount f ≠ 0) :
    let x := (s.fetched t).tile t
    exec (.loop t f) s = .next ((s.fetched t).issued t { x with
      loops := Tbl.put x.loops f.lc ⟨x.loopCount f, x.pc + 1, f.stop, true⟩
      pc := x.pc + 1
      lockPending := false
      stall := .none }) :=
  congrArg _ (State.issue_with h (Tile.issueLoop_starts t hok hn) (Tile.heldBack_none _ rfl))

theorem exec_loop_skips (hn : ((s.fetched t).tile t).loopCount f = 0)
    (hpast : f.stop + 1 < ((s.fetched t).tile t).progLen) :
    exec (.loop t f) s = .next ((s.fetched t).issued t { (s.fetched t).tile t with
      pc := f.stop + 1
      lockPending := false
      stall := .none }) :=
  congrArg _ (State.issue_with h (Tile.issueLoop_skips t hok hn hpast) (Tile.heldBack_none _ rfl))

end

theorem exec_loopExit (s : State) (t lc : Nat) :
    exec (.loopExit t lc) s = .next (s.setTile t ((s.tile t).loopExit lc)) := rfl

/-- Settles O5: a LOOP that is not refused starts its counter or skips its body, and at the end of a body its counter decides
where the program goes on. -/
theorem hardwareLoops : Obligations.HardwareLoops := by
  unfold Obligations.HardwareLoops
  intro s t s0 x
  refine ⟨fun f h hidle hbehind hinside haround => ?_,
    fun lc hend hcount => ⟨Tile.nextPc_goesRound hend hcount, Tile.past_loopCtr hend⟩,
    fun lc hend hcount => ⟨Tile.nextPc_goesOut hend hcount, ?_⟩, fun lc hactive hzero => ?_⟩
  · have hok : ¬ x.RefusesLoop f := by
      rintro (hactive | hstop | hlen | ⟨k, hk, hactive, hstart, hpc, hstop⟩)
      · exact absurd (hidle.symm.trans hactive) Bool.false_ne_true
      · exact Nat.not_le.2 hbehind hstop
      · exact Nat.not_le.2 hinside hlen
      · exact Nat.not_le.2 hstop (haround k hk hactive hstart hpc)
    exact ⟨exec_loop_starts h hok, exec_loop_skips h hok⟩
  · rw [Tile.past_loopCtr hend]
    exact Nat.sub_eq_zero_of_le hcount
  · rw [exec_loopExit, Tile.loopExit_ended hactive hzero]

end Sys2Proof.Machine
end

section
/-! SUPPORT. Program faults of a tile's sequencer (R185, R188 to R190, R208): what a refusal at issue makes of the module, and
what a TRAP does. -/

namespace Sys2Proof.Machine

/-! ### The first fault -/

/-- The first program fault of a running tile that an instruction raises as its effect (R208). -/
theorem Tile.raise_first (num : Nat) {x : Tile} (hrun : x.state = .running) (hfault : x.fault.status = 0)
    (status pc detail : Nat) : ({ x with stall := .none } : Tile).raise num status pc detail =
      ⟨x.faultedAs status pc detail, [tileEv num status pc, .notClean num status]⟩ := by
  simp [Tile.raise, Tile.faultedAs, hrun, hfault]

section
variable {s : State} {t : Nat} {i : TInsn} {f : Tile → TileRes} (h : s.issues t i = true)
  (hfault : ((s.fetched t).tile t).fault.status = 0)
include h hfault

theorem State.issue_refused {status : Nat} (hf : f ((s.fetched t).tile t) = ((s.fetched t).tile t).refuse t status) :
    s.issue t i f = (s.fetched t).refusing t status := by
  rw [Tile.refuse_first (State.fetched_running h) hfault] at hf
  exact (State.issue_heldBack h hf rfl).trans (State.takeTile_fault _ t _ [] status _)

theorem State.issue_faulting {status detail : Nat} (hf : f ((s.fetched t).tile t) =
      ({ (s.fetched t).tile t with stall := .none } : Tile).raise t status ((s.fetched t).tile t).pc detail) :
    s.issue t i f = (s.fetched t).faulting t status detail := by
  rw [Tile.raise_first t (State.fetched_running h) hfault] at hf
  refine (State.issue_with h hf (Tile.heldBack_none _ rfl)).trans ?_
  exact congrArg (fun s' : State => s'.trace t _ _) (State.takeTile_fault _ t _ [] status _)

end

/-! ### Codes that are not listed -/

theorem aluOp_unlisted {op : Nat} (a b : Word) (h : 10 ≤ op) : aluOp op a b = none := by
  obtain ⟨k, rfl⟩ := Nat.exists_eq_add_of_le' h
  rfl

theorem brCond_unlisted {cond : Nat} (a b : Word) (h : 6 ≤ cond) : brCond cond a b = none := by
  obtain ⟨k, rfl⟩ := Nat.exists_eq_add_of_le' h
  rfl

theorem brCond_listed {cond : Nat} (a b : Word) (h : cond < 6) : ∃ taken, brCond cond a b = some taken := by
  interval_cases cond <;> exact ⟨_, rfl⟩

/-! ### What each issue refuses -/

section
variable (num : Nat) {x : Tile}

theorem Tile.issueAlu_unlisted {f : AluF} (h : 10 ≤ f.op) : x.issueAlu num f = x.refuse num St.illegalOp := by
  rw [Tile.issueAlu, aluOp_unlisted _ _ h]

theorem Tile.issueBr_unlisted {f : BrF} (h : 6 ≤ f.cond) : x.issueBr num f = x.refuse num St.illegalOp := by
  rw [Tile.issueBr, brCond_unlisted _ _ h]

theorem Tile.issueBr_outside {f : BrF} (h : f.cond < 6) (htarget : x.progLen ≤ f.target) :
    x.issueBr num f = x.refuse num St.pcRange := by
  obtain ⟨taken, hcond⟩ := brCond_listed (x.reg f.ga) (x.reg f.gb) h
  rw [Tile.issueBr, hcond]
  exact if_pos htarget

theorem Tile.issueJmp_outside {target : Nat} (h : x.progLen ≤ target) : x.issueJmp num target = x.refuse num St.pcRange :=
  if_pos h

end

/-! ### On the module -/

/-- A word at PC whose opcode is not listed is refused by its own command. -/
theorem exec_illegalOpcode {s : State} {t op : Nat} (h : s.issues t (.illegal op) = true) :
    exec (.illegalOpcode t) s = .next (s.issue t (.illegal op) fun x => x.refuse t St.illegalOp) := by
  obtain ⟨-, -, -, hfetch⟩ := (s.issues_iff t _).1 h
  show execIllegalOpcode t s = _
  rw [execIllegalOpcode, hfetch]

/-- Settles O6: each of these issues is the first fault of its tile, raised by a TRAP as its effect and by the others as a
refusal. -/
theorem programFaults : Obligations.ProgramFaults := by
  unfold Obligations.ProgramFaults
  intro s t s0 x hfault
  refine ⟨fun code h => congrArg _ (State.issue_faulting h hfault rfl), fun op h => ?_,
    fun f h hop => congrArg _ (State.issue_refused h hfault (Tile.issueAlu_unlisted t hop)),
    fun f h hcond => congrArg _ (State.issue_refused h hfault (Tile.issueBr_unlisted t hcond)),
    fun f h hcond htarget => congrArg _ (State.issue_refused h hfault (Tile.issueBr_outside t hcond htarget)),
    fun target h htarget => congrArg _ (State.issue_refused h hfault (Tile.issueJmp_outside t htarget)),
    fun f h hrefused => congrArg _ (State.issue_refused h hfault (Tile.issueLoop_refused t hrefused))⟩
  exact (exec_illegalOpcode h).trans (congrArg _ (State.issue_refused h hfault rfl))

end Sys2Proof.Machine
end

section
/-! SUPPORT. Acceptance of streams (R195, R291, R293, R299): a transfer judged acceptable joins the queue of its channel, for a
tile and for a ring. -/

namespace Sys2Proof.Machine

/-! ### The channel's queue -/

theorem State.enqueue_queue (s : State) (ch : Nat) (by_ : Submitter) (job : Job) (td : Option Tensor) (taint : Bool) :
    ((s.enqueue ch by_ job td taint).chan ch).queue.length = (s.chan ch).queue.length + 1 := by
  rw [State.enqueue, State.chan_setChan_self]
  exact List.length_append

theorem State.enqueue_other (s : State) {ch k : Nat} (by_ : Submitter) (job : Job) (td : Option Tensor) (taint : Bool)
    (h : k ≠ ch) : (s.enqueue ch by_ job td taint).chan k = s.chan k := s.chan_setChan_other _ (Ne.symm h)

/-! ### A tile's STREAM -/

section
variable {s : State} {row t : Nat} {f : StreamF} {v : HostView} {a : Nat} {td : Option Tensor} {s2 : State}

/-- A tile's STREAM held back by no hazard and no full queue, whose transfer of the command's kind is judged acceptable. -/
theorem State.acceptTile_accepted (h : s.issues t (.stream f) = true) :
    let s0 := s.fetched t
    let x := s0.tile t
    let s1 := s0.takeTile t (x.touch t a 64)
    let d := StrDesc.parse (x.mem.read a 64) (x.regNat f.sreg) (x.regNat f.dreg)
    let ch := t / 4096 * 2048 + f.engine * 16 + f.channel
    x.hazard (maskOf (x.preReads (.stream f))) 0 = false → x.tileRef f.ref 64 = .ok a → kindRow d.kind = row →
    (s.chan ch).full = false → s1.judgeStream v (t / 4096) f.engine f.channel d = (.accepted, td, s2) →
    s.acceptTile row t f v =
      ((s2.enqueue ch (.tile t (if f.sig then some (2 * f.pair + f.ctr, x.pc) else none)) (.stream d) td
        (x.solo || (s1.tile t).mem.poisoned a 64)).streamIssued t f true).trace t x.pc x.opcode := by
  intro s0 x s1 d ch hfree href hkind hroom hjudge
  have hqueue : ¬ (channelValid (t / 4096) f.engine f.channel = true ∧ (s.chan ch).full = true) :=
    fun hfull => absurd (hroom.symm.trans hfull.2) Bool.false_ne_true
  unfold State.acceptTile
  dsimp only
  rw [if_neg (by rw [h]; exact Bool.noConfusion), if_neg (Bool.eq_false_iff.1 hfree), href]
  dsimp only
  refine (if_neg (not_not_intro hkind)).trans ((if_neg hqueue).trans ?_)
  dsimp only [s1, x, s0, d] at hjudge
  rw [hjudge]

end

/-! ### A ring's STREAM -/

section
variable {s : State} {row r j : Nat} {v : HostView} {q : Desc} {b : List Byte} {td : Option Tensor} {s2 : State}

/-- A ring's STREAM whose descriptor was read whole, whose transfer of the command's kind is judged acceptable. -/
theorem State.acceptRing_accepted (hq : s.ready r j 1 = some q) (hfree : s.host.stuck q.unit = false)
    (heval : q.eval = false) (hread : q.latched = some (St.ok, 0, b)) :
    let u := q.n 8 1 % 8
    let e := q.n 9 1 % 128
    let k := q.n 10 1 % 16
    let ch := u * 2048 + e * 16 + k
    let d := StrDesc.parse b 0 0
    kindRow d.kind = row → (s.chan ch).full = false → s.judgeStream v u e k d = (.accepted, td, s2) →
    s.acceptRing row r j v = (s2.enqueue ch (.ring r j) (.stream d) td false).take r j := by
  intro u e k ch d hkind hroom hjudge
  have hheld : ¬ (kindRow d.kind ≠ row ∨ (channelValid u e k = true ∧ (s.chan ch).full = true)) := by
    rintro (hother | ⟨-, hfull⟩)
    · exact hother hkind
    · exact absurd (hroom.symm.trans hfull) Bool.false_ne_true
  unfold State.acceptRing
  rw [hq]
  dsimp only
  rw [if_neg (Bool.eq_false_iff.1 hfree), if_neg (by simp [heval]), hread]
  dsimp only
  refine (if_neg (not_not_intro rfl)).trans ((if_neg hheld).trans ?_)
  dsimp only [u, e, k, d] at hjudge
  rw [hjudge]
  exact if_neg (by simp [heval])

end

/-! ### On the module -/

/-- The four commands of the streams are one acceptance, each of its own kinds. -/
theorem exec_accept {row : Nat} {c : StreamFrom → Instr}
    (h : (row, c) ∈ [(0, Instr.copy), (1, Instr.compress), (2, Instr.areaRead), (3, Instr.landed)]) (b : StreamFrom) (s : State) :
    exec (c b) s = .next (s.accept row b) := by
  simp only [List.mem_cons, Prod.mk.injEq, List.not_mem_nil, or_false] at h
  rcases h with ⟨rfl, rfl⟩ | ⟨rfl, rfl⟩ | ⟨rfl, rfl⟩ | ⟨rfl, rfl⟩ <;> rfl

/-- Settles O10: the command of the transfer's kind accepts it for its submitter, and acceptance adds it to one queue. -/
theorem streamsAreAccepted : Obligations.StreamsAreAccepted := by
  unfold Obligations.StreamsAreAccepted
  intro s row c hc
  refine ⟨fun t f v a td s2 => ?_, fun r j v q b td s2 => ?_, fun ch by_ job td taint => ⟨s.enqueue_queue ch by_ job td taint,
    fun k hk => s.enqueue_other by_ job td taint hk⟩⟩
  · intro s0 x s1 d ch h hfree href hkind hroom hjudge
    rw [exec_accept hc]
    exact congrArg _ (State.acceptTile_accepted h hfree href hkind hroom hjudge)
  · intro u e k ch d hq hfree heval hread hkind hroom hjudge
    rw [exec_accept hc]
    exact congrArg _ (State.acceptRing_accepted hq hfree heval hread hkind hroom hjudge)

end Sys2Proof.Machine
end

section
/-! SUPPORT. Program loads (R176 to R179): how a PROG_LOAD is decided, the image in a tile's program region, and the end of a load
on every target. -/

namespace Sys2Proof.Machine

/-! ### The image in a tile -/

/-- The image with zeros after it, as long as the program region. -/
def padImage (image : List Byte) : List Byte := image ++ List.replicate (16384 - image.length) 0

theorem padImage_length {image : List Byte} (h : image.length ≤ 16384) : (padImage image).length = 16384 := by
  rw [padImage, List.length_append, List.length_replicate, Nat.add_sub_cancel' h]

theorem padImage_getElem {image : List Byte} {i : Nat} (hi : i < (padImage image).length) :
    (padImage image)[i] = (image[i]?).getD 0 := by
  simp only [padImage, List.getElem_append]
  split
  · next h => rw [List.getElem?_eq_getElem h, Option.getD_some]
  · next h => rw [List.getElem_replicate, List.getElem?_eq_none (Nat.not_lt.1 h), Option.getD_none]

theorem Tile.loadProgram_byte (x : Tile) (image : List Byte) (a : Nat) :
    (x.loadProgram image).mem.byte a = (x.mem.writeRaw progBase (padImage image) false).byte a := rfl

theorem Tile.loadProgram_byte_inside {x : Tile} {image : List Byte} {i : Nat} (hx : x.mem.wf = true)
    (himage : image.length ≤ 16384) (hi : i < 16384) :
    (x.loadProgram image).mem.byte (progBase + i) = (image[i]?).getD 0 := by
  have hlen : i < (padImage image).length := (padImage_length himage).symm ▸ hi
  rw [Tile.loadProgram_byte, Mem.byte_writeRaw_inside x.mem progBase i _ false hx hlen, padImage_getElem]

theorem Tile.loadProgram_byte_outside {x : Tile} {image : List Byte} {a : Nat} (himage : image.length ≤ 16384)
    (ha : a < progBase ∨ progBase + 16384 ≤ a) : (x.loadProgram image).mem.byte a = x.mem.byte a :=
  Mem.byte_writeRaw_outside x.mem progBase a _ false ((padImage_length himage).symm ▸ ha)

/-! ### The end of a load on one tile -/

theorem Tile.release_loading (num n : Nat) {x : Tile} (h : x.state = .loading) :
    x.release num n = .ok { x with held := some n } := by
  rw [Tile.release, h]

/-- The tile parked with its new program, before a release that it held (R177). -/
def Tile.loadParked (len entry : Nat) (x : Tile) : Tile :=
  { x with
    state := .parked
    progValid := true
    progLen := len
    progEntry := entry
    btb := []
    fault := ⟨0, false, 0, 0⟩
    stall := .none
    held := none }

/-- The tile once the load is done: parked, or at the start of the step whose release it held (R179). -/
def Tile.loaded (num len entry : Nat) (x : Tile) : Tile :=
  match x.held with
  | some n => (x.loadParked len entry).start num n
  | none => x.loadParked len entry

theorem Tile.loadDone_eq (num len entry : Nat) (x : Tile) : x.loadDone num len entry = .ok (x.loaded num len entry) := by
  unfold Tile.loadDone Tile.loaded
  cases x.held <;> rfl

theorem Tile.loaded_parked {num len entry : Nat} {x : Tile} (h : x.held = none) :
    x.loaded num len entry = x.loadParked len entry := by
  rw [Tile.loaded, h]

theorem Tile.loaded_started {num len entry n : Nat} {x : Tile} (h : x.held = some n) :
    x.loaded num len entry = (x.loadParked len entry).start num n := by
  rw [Tile.loaded, h]

/-! ### A change of several tiles -/

/-- Change each tile of the list by `g`. -/
def State.mapTiles (g : Nat → Tile → Tile) (s : State) (l : List Nat) : State :=
  l.foldl (fun s t => s.setTile t (g t (s.tile t))) s

theorem State.mapTiles_eq (g : Nat → Tile → Tile) (s : State) (l : List Nat) :
    s.mapTiles g l = { s with tiles := (s.mapTiles g l).tiles } := by
  refine foldl_keeps (P := fun x : State => x = { s with tiles := x.tiles }) (fun x t hx => ?_) l rfl
  rw [hx]
  rfl

theorem State.mapTiles_other (g : Nat → Tile → Tile) (s : State) {l : List Nat} {t : Nat} (h : t ∉ l) :
    (s.mapTiles g l).tile t = s.tile t := by
  induction l generalizing s with
  | nil => rfl
  | cons u l ih =>
    obtain ⟨htu, hl⟩ := not_or.1 (mt List.mem_cons.2 h)
    exact (ih _ hl).trans (s.tile_setTile_other _ (Ne.symm htu))

theorem State.mapTiles_self (g : Nat → Tile → Tile) (s : State) {l : List Nat} (hl : l.Nodup) {t : Nat} (h : t ∈ l) :
    (s.mapTiles g l).tile t = g t (s.tile t) := by
  induction l generalizing s with
  | nil => nomatch h
  | cons u l ih =>
    obtain ⟨hu, hl⟩ := List.nodup_cons.1 hl
    rcases List.mem_cons.1 h with rfl | ht
    · exact (State.mapTiles_other g _ hu).trans (s.tile_setTile_self t _)
    · have hne : u ≠ t := fun he => hu (he ▸ ht)
      exact (ih _ hl ht).trans (congrArg (g t) (s.tile_setTile_other _ hne))

/-! ### The targets -/

theorem Desc.progTiles_nodup (d : Desc) : d.progTiles.Nodup :=
  List.Nodup.map (fun _ _ h => Nat.add_right_cancel h) List.nodup_range

theorem Desc.mem_progTiles (d : Desc) (t : Nat) : t ∈ d.progTiles ↔ d.n 12 2 ≤ t ∧ t < d.n 12 2 + d.n 14 2 := by
  rw [Desc.progTiles, List.mem_map]
  constructor
  · rintro ⟨i, hi, rfl⟩
    have := List.mem_range.1 hi
    omega
  · rintro ⟨hlo, hhi⟩
    exact ⟨t - d.n 12 2, List.mem_range.2 (by omega), Nat.sub_add_cancel hlo⟩

/-! ### PROG_LOAD -/

theorem exec_progLoad (s : State) (r j : Nat) (v : HostView) : exec (.progLoad r j v) s = execProgLoad r j v s := rfl

section
variable {s : State} {r j : Nat} {v : HostView} {d : Desc} (hd : s.ready r j 2 = some d)
  (hfree : s.host.stuck d.unit = false) (heval : d.eval = true → s.evalOn = true)
include hd hfree heval

theorem exec_progLoad_empty (h : d.n 8 2 = 0 ∨ d.n 14 2 = 0) :
    exec (.progLoad r j v) s = .next (s.complete r j St.ok 0 0) := by
  rw [exec_progLoad, execProgLoad, State.onDesc_of_ready hd hfree heval]
  exact congrArg _ (if_pos h)

variable (hsome : ¬ (d.n 8 2 = 0 ∨ d.n 14 2 = 0))
include hsome

theorem exec_progLoad_range (h : 16384 < d.n 12 2 + d.n 14 2 ∨ 2048 < d.n 8 2 ∨ d.n 8 2 ≤ d.n 10 2) :
    exec (.progLoad r j v) s = .next (s.complete r j St.progRange 0 0) := by
  rw [exec_progLoad, execProgLoad, State.onDesc_of_ready hd hfree heval]
  exact congrArg _ ((if_neg hsome).trans (if_pos h))

variable (hrange : ¬ (16384 < d.n 12 2 + d.n 14 2 ∨ 2048 < d.n 8 2 ∨ d.n 8 2 ≤ d.n 10 2))
  (hjudge : s.judge .image (d.n 0 8) (8 * d.n 8 2) = none) (halign : d.n 0 8 % 8 = 0)
include hrange hjudge halign

/-- What is left to decide once the fields are acceptable: the targets, then what the read of the image brings. -/
theorem exec_progLoad_judged :
    exec (.progLoad r j v) s = .next (
      if d.progTiles.any (fun t => s.loadable t == false) then s.complete r j St.progBusy 0 0
      else if s.localOpen (d.n 0 8) (8 * d.n 8 2) = false then s
      else
        let g := s.get v (d.n 0 8) (8 * d.n 8 2)
        if g.err ∨ g.poison then
          (g.st.each d.progTiles fun s t => s.setTile t (s.tile t).loadFailed).complete r j
            (if g.err then St.strReadErr else St.progPoison) (if g.err then 0 else 16) 0
        else (g.st.each d.progTiles fun s t => s.setTile t ((s.tile t).loadProgram g.data)).take r j) := by
  rw [exec_progLoad, execProgLoad, State.onDesc_of_ready hd hfree heval]
  refine congrArg _ ((if_neg hsome).trans ((if_neg hrange).trans ?_))
  rw [Desc.progLen, hjudge]
  exact if_neg (not_not_intro halign)

theorem exec_progLoad_busy {t : Nat} (ht : t ∈ d.progTiles) (hbusy : s.loadable t = false) :
    exec (.progLoad r j v) s = .next (s.complete r j St.progBusy 0 0) := by
  rw [exec_progLoad_judged hd hfree heval hsome hrange hjudge halign]
  exact congrArg _ (if_pos (List.any_eq_true.2 ⟨t, ht, by rw [hbusy]; rfl⟩))

theorem exec_progLoad_loads (hfreeTiles : ∀ t ∈ d.progTiles, s.loadable t = true)
    (hopen : s.localOpen (d.n 0 8) (8 * d.n 8 2) = true) (herr : (s.get v (d.n 0 8) (8 * d.n 8 2)).err = false)
    (hpoison : (s.get v (d.n 0 8) (8 * d.n 8 2)).poison = false) :
    let g := s.get v (d.n 0 8) (8 * d.n 8 2)
    exec (.progLoad r j v) s =
      .next ((g.st.each d.progTiles fun s t => s.setTile t ((s.tile t).loadProgram g.data)).take r j) := by
  intro g
  have hnone : ¬ (d.progTiles.any fun t => s.loadable t == false) = true := by
    simpa using hfreeTiles
  have hread : ¬ (g.err = true ∨ g.poison = true) := by simp [g, herr, hpoison]
  rw [exec_progLoad_judged hd hfree heval hsome hrange hjudge halign]
  exact congrArg _ ((if_neg hnone).trans ((if_neg (by rw [hopen]; exact Bool.noConfusion)).trans (if_neg hread)))

end

/-! ### PROG_LOAD_DONE -/

theorem exec_progLoadDone {s : State} {r j : Nat} {d : Desc} (hd : s.working r j 2 = some d) :
    exec (.progLoadDone r j) s =
      .next ((s.mapTiles (fun t x => x.loaded t (d.n 8 2) (d.n 10 2)) d.progTiles).complete r j St.ok 0 0) := by
  have hstep : (fun (s : State) t => s.onTile t fun x => x.loadDone t d.progLen (d.n 10 2)) =
      fun s t => s.setTile t ((s.tile t).loaded t (d.n 8 2) (d.n 10 2)) := by
    funext s t
    rw [State.onTile, Tile.loadDone_eq]
    rfl
  show execProgLoadDone r j s = _
  rw [execProgLoadDone, hd]
  dsimp only
  rw [hstep]
  rfl

/-- Settles O35: each check of a PROG_LOAD answers in its turn, the image fills the program region, and the end of a load is the
same change of each of its targets. -/
theorem programLoads : Obligations.ProgramLoads := by
  unfold Obligations.ProgramLoads
  intro s r j v d
  refine ⟨fun hd hfree heval => ⟨exec_progLoad_empty hd hfree heval, fun hlen htiles hbad => ?_,
    fun hlen htiles hlast hmax hentry hjudge halign => ?_⟩, fun x image i hx himage hi =>
      ⟨rfl, Tile.loadProgram_byte_inside hx himage hi, fun a => Tile.loadProgram_byte_outside himage⟩,
    fun x t n => Tile.release_loading t n, fun hd => ?_⟩
  · exact exec_progLoad_range hd hfree heval (not_or.2 ⟨hlen, htiles⟩) hbad
  · have hsome := not_or.2 ⟨hlen, htiles⟩
    have hrange : ¬ (16384 < d.n 12 2 + d.n 14 2 ∨ 2048 < d.n 8 2 ∨ d.n 8 2 ≤ d.n 10 2) := by omega
    refine ⟨?_, fun hfreeTiles hopen herr hpoison => ?_⟩
    · rintro ⟨t, ht, hbusy⟩
      exact exec_progLoad_busy hd hfree heval hsome hrange hjudge halign ht hbusy
    · exact exec_progLoad_loads hd hfree heval hsome hrange hjudge halign hfreeTiles hopen herr hpoison
  · refine ⟨_, exec_progLoadDone hd, ?_, ?_, ?_, fun t => ⟨fun hother => ?_, fun hhere hheld => ?_, fun n hhere hheld => ?_⟩⟩
    · rw [State.mapTiles_eq]
    · rw [State.mapTiles_eq]
    · rw [State.mapTiles_eq]
    · exact State.mapTiles_other _ s (mt (d.mem_progTiles t).1 hother)
    · rw [State.mapTiles_self _ s d.progTiles_nodup ((d.mem_progTiles t).2 hhere), Tile.loaded_parked hheld]
      rfl
    · rw [State.mapTiles_self _ s d.progTiles_nodup ((d.mem_progTiles t).2 hhere), Tile.loaded_started hheld]
      rfl

end Sys2Proof.Machine
end

section
/-! SUPPORT. The place of a stacked-memory offset (R254): an offset is its die, its granule in the die and its byte, and a
granule is its place in the rotation over stacks and channels and its number in the channel, of which the low four bits are
hashed. -/

namespace Sys2Proof.Machine

/-! ### The bank -/

/-- A granule's bank is the low four bits of its number, each against the one twelve places above it. -/
theorem locate_bank_testBit (a : Nat) {k : Nat} (hk : k < 4) :
    (locate a).bank.testBit k = ((locate a).granule.testBit k ^^ (locate a).granule.testBit (12 + k)) := by
  have hlow (x : Nat) : (x % 16).testBit k = x.testBit k := by
    rw [show 16 = 2 ^ 4 from rfl, Nat.testBit_mod_two_pow, decide_eq_true hk, Bool.true_and]
  rw [locate, Nat.testBit_xor, hlow, hlow, show 4096 = 2 ^ 12 from rfl, Nat.testBit_div_two_pow, Nat.add_comm k 12]

theorem locate_bank_lt (a : Nat) : (locate a).bank < 16 :=
  Nat.xor_lt_two_pow (n := 4) (Nat.mod_lt _ (by decide)) (Nat.mod_lt _ (by decide))

/-! ### One place for one offset -/

theorem locate_granule_lt (a : Nat) : (locate a).granule < 2097152 := by
  dsimp only [locate]
  omega

/-- The number of a granule in its channel follows from its bank, row and column: row and column give all but the low four bits,
and with them the bank gives those. -/
theorem locate_granule_inj {a b : Nat} (hbank : (locate a).bank = (locate b).bank)
    (hrow : (locate a).row = (locate b).row) (hcol : (locate a).col = (locate b).col) :
    (locate a).granule = (locate b).granule := by
  have hx := locate_granule_lt a
  have hy := locate_granule_lt b
  dsimp only [locate] at hx hy hbank hrow hcol ⊢
  generalize (a - a / 0x3000000000 * 0x3000000000) / 256 / 384 = x at hx hbank hrow hcol ⊢
  generalize (b - b / 0x3000000000 * 0x3000000000) / 256 / 384 = y at hy hbank hrow hcol ⊢
  have hhigh : x / 16 = y / 16 := by omega
  have hhash : x / 4096 % 16 = y / 4096 % 16 := by omega
  rw [hhash, Nat.xor_left_inj] at hbank
  omega

/-- Settles O37: row and column give a granule's number but for its low four bits, and the bank hash, whose other side they
hold, gives those. -/
theorem locateIsOneToOne : Obligations.LocateIsOneToOne := by
  unfold Obligations.LocateIsOneToOne
  refine ⟨fun a ha => ?_, fun a ha => ?_, fun a b ha hb => ?_⟩
  · intro l
    refine ⟨?_, ?_, locate_granule_lt a, locate_bank_lt a, ?_, ?_, ?_, ?_⟩ <;> dsimp only [l, locate] <;> omega
  · exact ⟨rfl, rfl, rfl, fun k => locate_bank_testBit a, rfl, rfl, rfl⟩
  · intro l m hstack hchan hbank hrow hcol hbyte
    have hgranule : l.granule = m.granule := locate_granule_inj hbank hrow hcol
    dsimp only [l, m, locate] at hstack hchan hgranule hbyte
    omega

end Sys2Proof.Machine
end

section
/-! SUPPORT. Accesses to stacked memory (R256, R264, R265): what they leave alone whatever errors they meet, and what meeting
the errors of an access makes of the memory. -/

namespace Sys2Proof.Machine

/-! ### Events -/

@[simp] theorem State.post_kv (s : State) (e : Ev) : (s.post e).kv = s.kv := by rw [State.post_eq]
@[simp] theorem State.post_mem (s : State) (e : Ev) : (s.post e).mem = s.mem := by rw [State.post_eq]

@[simp] theorem State.memCh_post (s : State) (e : Ev) (k : Nat) : (s.post e).memCh k = s.memCh k := by
  rw [State.memCh, State.post_mem, State.memCh]

theorem State.memCh_setMemCh_other (s : State) {k l : Nat} (x : MemCh) (h : k ≠ l) : (s.setMemCh k x).memCh l = s.memCh l := by
  simp [State.memCh, State.setMemCh, Tbl.get_put_other _ _ _ h]

/-! ### Fields of chapter 07 beside HIF_EVENT_STATUS -/

theorem Reg.memory_outsideEventStatus : ∀ g ∈ [Reg.MEM_OBJ_BASE_BASE, Reg.MEM_RETIRE_STATUS_USED, Reg.MEM_RETIRE_STATUS_STACK,
    Reg.MEM_RETIRE_STATUS_CHANNEL, Reg.MEM_RETIRE_STATUS_AREA, Reg.MEM_SCRUB_STATUS_PASSES], g.outsideEventStatus := by
  unfold Field.outsideEventStatus Field.separate
  decide

/-! ### What an access leaves alone -/

/-- The parts of a channel that errors do not reach: its marked lane and its requests. -/
def MemCh.lasting (c : MemCh) : Option Nat × List MemReq × List (Nat × Nat × Bool) := (c.mark, c.slots, c.blocked)

/-- What accesses leave as it is, whatever errors they meet. -/
structure State.AccessFrame (s t : State) : Prop where
  fields : ∀ g : Field, g.outsideEventStatus → ∀ j < g.count, t.regs.getAt g j = s.regs.getAt g j
  tiles : t.tiles = s.tiles
  kv : t.kv = s.kv
  scrubbed : t.mem.scrubbed = s.mem.scrubbed
  lasting : ∀ k, (t.memCh k).lasting = (s.memCh k).lasting

theorem State.AccessFrame.refl (s : State) : s.AccessFrame s := ⟨fun _ _ _ _ => rfl, rfl, rfl, rfl, fun _ => rfl⟩

theorem State.AccessFrame.trans {s t u : State} (h : s.AccessFrame t) (h' : t.AccessFrame u) : s.AccessFrame u where
  fields g hg j hj := (h'.fields g hg j hj).trans (h.fields g hg j hj)
  tiles := h'.tiles.trans h.tiles
  kv := h'.kv.trans h.kv
  scrubbed := h'.scrubbed.trans h.scrubbed
  lasting k := (h'.lasting k).trans (h.lasting k)

theorem State.AccessFrame.foldl {α : Type} {f : State → α → State} (hf : ∀ (s : State) x, s.AccessFrame (f s x))
    (s : State) (l : List α) : s.AccessFrame (l.foldl f s) :=
  foldl_keeps (P := fun t => s.AccessFrame t) (fun t x ht => ht.trans (hf t x)) l (.refl s)

section
variable {s t : State} (h : s.AccessFrame t)
include h

theorem State.AccessFrame.slots (k : Nat) : (t.memCh k).slots = (s.memCh k).slots := congrArg (fun x => x.2.1) (h.lasting k)

theorem State.AccessFrame.blocked (k : Nat) : (t.memCh k).blocked = (s.memCh k).blocked :=
  congrArg (fun x => x.2.2) (h.lasting k)

theorem State.AccessFrame.mark (k : Nat) : (t.memCh k).mark = (s.memCh k).mark := congrArg Prod.fst (h.lasting k)

theorem State.AccessFrame.get {g : Field} (hg : g.outsideEventStatus) (hone : 0 < g.count := by decide) :
    t.regs.get g = s.regs.get g := h.fields g hg 0 hone

theorem State.AccessFrame.retireStatus : t.regs.get Reg.MEM_RETIRE_STATUS_USED = s.regs.get Reg.MEM_RETIRE_STATUS_USED ∧
    t.regs.get Reg.MEM_RETIRE_STATUS_STACK = s.regs.get Reg.MEM_RETIRE_STATUS_STACK ∧
    t.regs.get Reg.MEM_RETIRE_STATUS_CHANNEL = s.regs.get Reg.MEM_RETIRE_STATUS_CHANNEL ∧
    t.regs.get Reg.MEM_RETIRE_STATUS_AREA = s.regs.get Reg.MEM_RETIRE_STATUS_AREA := by
  refine ⟨h.get ?_, h.get ?_, h.get ?_, h.get ?_⟩ <;> exact Reg.memory_outsideEventStatus _ (by simp)

/-- Stacked memory lies where it lay. -/
theorem State.AccessFrame.placed (a : Nat) : t.regs.placed a = s.regs.placed a := by
  obtain ⟨hused, hstack, hchannel, harea⟩ := h.retireStatus
  simp only [RegFile.placed, hused, hstack, hchannel, harea]

theorem State.AccessFrame.chanOf (a : Nat) : t.chanOf a = s.chanOf a := by
  obtain ⟨hused, hstack, hchannel, harea⟩ := h.retireStatus
  simp only [State.chanOf, RegFile.home, hused, hstack, hchannel, harea]

end

theorem State.post_accessFrame (s : State) (e : Ev) : s.AccessFrame (s.post e) where
  fields g hg j hj := by rw [State.post_regs, eventStatus_getAt _ _ _ hg hj]
  tiles := s.post_tiles e
  kv := s.post_kv e
  scrubbed := by rw [State.post_mem]
  lasting k := by rw [State.memCh_post]

theorem State.setMemCh_accessFrame (s : State) {k : Nat} {x : MemCh} (h : x.lasting = (s.memCh k).lasting) :
    s.AccessFrame (s.setMemCh k x) where
  fields _ _ _ _ := rfl
  tiles := rfl
  kv := rfl
  scrubbed := rfl
  lasting l := by
    by_cases hl : k = l
    · rw [← hl, State.memCh_setMemCh_self, h]
    · rw [State.memCh_setMemCh_other _ _ hl]

/-- New contents of the memory, new damaged lanes, and the draws made for them. -/
def State.setStack (s : State) (m : Mem) (lanes : List (Nat × Nat)) (drawn : Nat) : State :=
  { s with
    stack := m
    mem := { s.mem with lanes := lanes }
    drawn := drawn }

section
variable (s : State) (m : Mem) (lanes : List (Nat × Nat)) (drawn : Nat)

@[simp] theorem State.setStack_stack : (s.setStack m lanes drawn).stack = m := rfl
@[simp] theorem State.setStack_lanes : (s.setStack m lanes drawn).mem.lanes = lanes := rfl
@[simp] theorem State.setStack_host : (s.setStack m lanes drawn).host = s.host := rfl
@[simp] theorem State.setStack_memCh (k : Nat) : (s.setStack m lanes drawn).memCh k = s.memCh k := rfl
@[simp] theorem State.setStack_chanOf (a : Nat) : (s.setStack m lanes drawn).chanOf a = s.chanOf a := rfl

theorem State.setStack_accessFrame : s.AccessFrame (s.setStack m lanes drawn) :=
  ⟨fun _ _ _ _ => rfl, rfl, rfl, rfl, fun _ => rfl⟩

end

/-- An uncorrectable error is counted in its channel and posted. -/
theorem State.memUncorr_eq (s : State) (flags a : Nat) (lane : Option Nat) : ∃ c : MemCh,
    c.lasting = (s.memCh (s.chanOf a)).lasting ∧ c.uncorrected = min 65535 ((s.memCh (s.chanOf a)).uncorrected + 1) ∧
      s.memUncorr flags a lane =
        (s.setMemCh (s.chanOf a) c).post ⟨St.memUncorr, flags, 2, memWhere (s.chanOf a), a⟩ := by
  refine ⟨_, ?_, ?_, rfl⟩
  · cases lane <;> rfl
  · rfl

theorem State.memUncorr_accessFrame (s : State) (flags a : Nat) (lane : Option Nat) :
    s.AccessFrame (s.memUncorr flags a lane) := by
  obtain ⟨c, hlasting, -, heq⟩ := s.memUncorr_eq flags a lane
  rw [heq]
  exact (s.setMemCh_accessFrame hlasting).trans (State.post_accessFrame _ _)

theorem State.memFixed_accessFrame (s : State) (a lane : Nat) : s.AccessFrame (s.memFixed a lane) := s.setMemCh_accessFrame rfl

theorem State.countPoisoned_accessFrame (s : State) (w : Nat) : s.AccessFrame (s.countPoisoned w) := s.setMemCh_accessFrame rfl

theorem State.markGranules_accessFrame (s : State) (gs : List Nat) : s.AccessFrame (s.markGranules gs) := by
  unfold State.markGranules
  split
  · exact ⟨fun _ _ _ _ => rfl, rfl, rfl, rfl, fun _ => rfl⟩
  · exact .refl s

theorem State.meetErrors_accessFrame (s : State) (flags a : Nat) : s.AccessFrame (s.meetErrors flags a) := by
  unfold State.meetErrors
  dsimp only
  split
  · exact (s.setStack_accessFrame _ _ (s.drawn + 1)).trans (State.memUncorr_accessFrame _ _ _ _)
  · split
    · exact (s.setStack_accessFrame _ _ s.drawn).trans (State.memFixed_accessFrame _ _ _)
    · exact .refl s

theorem State.stackPut_accessFrame (s : State) (a : Nat) (bs : List Byte) (p : Bool) : s.AccessFrame (s.stackPut a bs p) := by
  have hwrite (t : State) (m : Mem) : t.AccessFrame { t with stack := m } := t.setStack_accessFrame m t.mem.lanes t.drawn
  unfold State.stackPut
  dsimp only
  split
  · exact s.setStack_accessFrame _ _ s.drawn
  · exact (s.meetErrors_accessFrame 0 a).trans (hwrite _ _)

theorem State.stackWrite_accessFrame (s : State) (a : Nat) (bs : List PByte) : s.AccessFrame (s.stackWrite a bs) :=
  .foldl (fun t _ => t.stackPut_accessFrame _ _ _) s _

/-! ### Meeting the errors of an access -/

@[simp] theorem State.memUncorr_stack (s : State) (flags a : Nat) (lane : Option Nat) :
    (s.memUncorr flags a lane).stack = s.stack := by
  obtain ⟨c, -, -, heq⟩ := s.memUncorr_eq flags a lane
  rw [heq, State.post_stack, State.setMemCh_stack]

@[simp] theorem State.memUncorr_lanes (s : State) (flags a : Nat) (lane : Option Nat) :
    (s.memUncorr flags a lane).mem.lanes = s.mem.lanes := by
  obtain ⟨c, -, -, heq⟩ := s.memUncorr_eq flags a lane
  rw [heq, State.post_mem]
  rfl

@[simp] theorem State.memFixed_stack (s : State) (a lane : Nat) : (s.memFixed a lane).stack = s.stack := rfl

@[simp] theorem State.memFixed_lanes (s : State) (a lane : Nat) : (s.memFixed a lane).mem.lanes = s.mem.lanes := rfl

/-- An access whose errors no code corrects: its bytes as received, poisoned, with no error left to meet. -/
def Mem.receive (m : Mem) (w : Nat) (bs : List Byte) : Mem where
  cells := Cells.write m.cells (64 * w) bs
  uncorr := NSet.del m.uncorr w
  single := NSet.del m.single w
  poison := NSet.add m.poison w

theorem Mem.byte_receive_other (m : Mem) {w c : Nat} {bs : List Byte} (hlen : bs.length = 64) (hc : c / 64 ≠ w) :
    (m.receive w bs).byte c = m.byte c := Cells.get_write_outside bs m.cells (64 * w) c (by omega)

theorem Mem.wf_receive {m : Mem} (w : Nat) (bs : List Byte) (h : m.wf = true) : (m.receive w bs).wf = true :=
  Cells.wf_write bs m.cells (64 * w) h

/-- The 64 bytes of an access as they are received. -/
def State.received (s : State) (w : Nat) : List Byte := receivedBytes (s.hurtLanes w) s.draw.1 (s.stack.read (64 * w) 64)

theorem State.received_length (s : State) (w : Nat) : (s.received w).length = 64 := by
  simp [State.received, receivedBytes, Mem.read, Cells.read]

theorem NSet.del_of_not_has {ks : List Nat} {a : Nat} (h : NSet.has ks a = false) : NSet.del ks a = ks := by
  induction ks with
  | nil => rfl
  | cons k ks ih =>
    simp only [NSet.has, Bool.or_eq_false_iff, beq_eq_false_iff_ne] at h
    rw [NSet.del, if_neg h.1, ih h.2]

theorem NSet.has_del (ks : List Nat) (a b : Nat) : NSet.has (NSet.del ks a) b = (NSet.has ks b && b != a) := by
  by_cases h : a = b
  · simp [h]
  · simp [NSet.has_del_other ks h, Ne.symm h]

section
variable {s : State} {flags a w : Nat} (hw : s.regs.placed a / 64 = w)
include hw

theorem State.meetErrors_beyond (h : s.beyondCode w a = true) : s.meetErrors flags a =
    (s.setStack (s.stack.receive w (s.received w)) (Tbl.del s.mem.lanes w) (s.drawn + 1)).memUncorr flags a
      (oneLane (s.hurtLanes w)) := by
  subst hw
  exact if_pos h

theorem State.meetErrors_corrected (h : s.beyondCode w a = false) (hsingle : NSet.has s.stack.single w = true) :
    s.meetErrors flags a =
      (s.setStack { s.stack with single := NSet.del s.stack.single w } (Tbl.del s.mem.lanes w) s.drawn).memFixed a
        (Nat.log2 (s.hurtLanes w)) := by
  subst hw
  exact (if_neg (by simp [h])).trans (if_pos hsingle)

theorem State.meetErrors_none (h : s.beyondCode w a = false) (hsingle : NSet.has s.stack.single w = false) :
    s.meetErrors flags a = s := by
  subst hw
  exact (if_neg (by simp [h])).trans (if_neg (by simp [hsingle]))

/-- Within the code's reach an access only loses its correctable error. -/
theorem State.meetErrors_stack_within (h : s.beyondCode w a = false) :
    (s.meetErrors flags a).stack = { s.stack with single := NSet.del s.stack.single w } := by
  by_cases hsingle : NSet.has s.stack.single w = true
  · rw [State.meetErrors_corrected hw h hsingle, State.memFixed_stack, State.setStack_stack]
  · rw [Bool.not_eq_true] at hsingle
    rw [State.meetErrors_none hw h hsingle, NSet.del_of_not_has hsingle]

theorem State.meetErrors_stack_beyond (h : s.beyondCode w a = true) :
    (s.meetErrors flags a).stack = s.stack.receive w (s.received w) := by
  rw [State.meetErrors_beyond hw h, State.memUncorr_stack, State.setStack_stack]

theorem State.meetErrors_uncorr (v : Nat) :
    NSet.has (s.meetErrors flags a).stack.uncorr v = (NSet.has s.stack.uncorr v && v != w) := by
  by_cases h : s.beyondCode w a = true
  · rw [State.meetErrors_stack_beyond hw h]
    exact NSet.has_del _ _ _
  · rw [Bool.not_eq_true] at h
    rw [State.meetErrors_stack_within hw h]
    have hnone : NSet.has s.stack.uncorr w = false := (Bool.or_eq_false_iff.1 h).1
    by_cases hv : v = w
    · simp [hv, hnone]
    · simp [hv]

theorem State.meetErrors_single (v : Nat) :
    NSet.has (s.meetErrors flags a).stack.single v = (NSet.has s.stack.single v && v != w) := by
  rw [← NSet.has_del]
  by_cases h : s.beyondCode w a = true
  · rw [State.meetErrors_stack_beyond hw h]
    rfl
  · rw [Bool.not_eq_true] at h
    rw [State.meetErrors_stack_within hw h]

theorem State.meetErrors_poison (v : Nat) :
    NSet.has (s.meetErrors flags a).stack.poison v = ((w == v && s.beyondCode w a) || NSet.has s.stack.poison v) := by
  by_cases h : s.beyondCode w a = true
  · rw [State.meetErrors_stack_beyond hw h, h, Bool.and_true]
    exact NSet.has_add _ _ _
  · rw [Bool.not_eq_true] at h
    rw [State.meetErrors_stack_within hw h, h, Bool.and_false, Bool.false_or]

theorem State.meetErrors_byte_within (h : s.beyondCode w a = false) (c : Nat) :
    (s.meetErrors flags a).stack.byte c = s.stack.byte c := by
  rw [State.meetErrors_stack_within hw h]
  rfl

/-- The bytes of other accesses stay. -/
theorem State.meetErrors_byte_other {c : Nat} (hc : c / 64 ≠ w) : (s.meetErrors flags a).stack.byte c = s.stack.byte c := by
  by_cases h : s.beyondCode w a = true
  · rw [State.meetErrors_stack_beyond hw h]
    exact Mem.byte_receive_other _ (s.received_length w) hc
  · exact State.meetErrors_byte_within hw (by simpa using h) c

theorem State.meetErrors_lanes_other {v : Nat} (hv : v ≠ w) :
    Tbl.get (s.meetErrors flags a).mem.lanes 0 v = Tbl.get s.mem.lanes 0 v := by
  have hdel : Tbl.get (Tbl.del s.mem.lanes w) 0 v = Tbl.get s.mem.lanes 0 v := by
    rw [Tbl.get, Tbl.find_del_other _ (Ne.symm hv), Tbl.get]
  by_cases h : s.beyondCode w a = true
  · rwa [State.meetErrors_beyond hw h, State.memUncorr_lanes, State.setStack_lanes]
  · rw [Bool.not_eq_true] at h
    by_cases hsingle : NSet.has s.stack.single w = true
    · rwa [State.meetErrors_corrected hw h hsingle, State.memFixed_lanes, State.setStack_lanes]
    · rw [Bool.not_eq_true] at hsingle
      rw [State.meetErrors_none hw h hsingle]

end

theorem State.meetErrors_wf {s : State} (flags a : Nat) (h : s.stack.wf = true) : (s.meetErrors flags a).stack.wf = true := by
  by_cases hbeyond : s.beyondCode (s.regs.placed a / 64) a = true
  · rw [State.meetErrors_stack_beyond rfl hbeyond]
    exact Mem.wf_receive _ _ h
  · rw [State.meetErrors_stack_within rfl (by simpa using hbeyond)]
    exact h

/-- Where no error waits, accesses meet none. -/
theorem State.meetErrors_clean {s : State} (flags a : Nat) (huncorr : s.stack.uncorr = []) (hsingle : s.stack.single = []) :
    s.meetErrors flags a = s := by
  refine State.meetErrors_none rfl ?_ ?_ <;> simp [State.beyondCode, huncorr, hsingle, NSet.has]

end Sys2Proof.Machine
end

section
/-! SUPPORT. Writes to stacked memory within one granule of 256 B (R256): a write is one part for each 64 B access it touches,
and the parts lie side by side where the granule is placed. -/

namespace Sys2Proof.Machine

/-! ### Where a granule is placed -/

theorem RegFile.placed_mod (r : RegFile) (a : Nat) : r.placed a % 64 = a % 64 := by
  have harea : ∀ x y, (x * 0x3000000000 + 256 * y + a % 256) % 64 = a % 64 := fun x y => by omega
  unfold RegFile.placed
  dsimp only
  split
  · exact harea _ _
  · rfl

theorem areaBase_mod (area : Nat) : areaBase area % 256 = 0 ∧ (areaBase area + 0x20000000) % 256 = 0 := by
  unfold areaBase
  split <;> exact ⟨rfl, rfl⟩

/-- Within a granule, offsets are placed side by side. -/
theorem RegFile.placed_add (r : RegFile) {a i : Nat} (h : (a + i) / 256 = a / 256) : r.placed (a + i) = r.placed a + i := by
  obtain ⟨hlo, hhi⟩ := areaBase_mod (r.get Reg.MEM_RETIRE_STATUS_AREA)
  unfold RegFile.placed
  dsimp only
  generalize areaBase (r.get Reg.MEM_RETIRE_STATUS_AREA) = base at hlo hhi ⊢
  have harea : (base ≤ a + i ∧ a + i < base + 0x20000000) ↔ (base ≤ a ∧ a < base + 0x20000000) := by omega
  simp only [harea]
  split
  · have hgranule : (a + i - base) / 256 = (a - base) / 256 := by omega
    rw [hgranule]
    omega
  · rfl

/-! ### One part -/

section
variable {s : State} {a : Nat} {bs : List Byte} {p : Bool}

/-- A part of an access is written over what its errors leave; a whole access is written over them. -/
theorem State.stackPut_stack : (s.stackPut a bs p).stack = (if bs.length = 64 ∧ a % 64 = 0 then { s.stack with
      uncorr := NSet.del s.stack.uncorr (s.regs.placed a / 64)
      single := NSet.del s.stack.single (s.regs.placed a / 64) }
    else (s.meetErrors 0 a).stack).writeRaw (s.regs.placed a) bs p := by
  unfold State.stackPut
  dsimp only
  split <;> rfl

theorem State.stackPut_byte_inside {i : Nat} (hwf : s.stack.wf = true) (hi : i < bs.length) :
    (s.stackPut a bs p).stack.byte (s.regs.placed a + i) = bs[i] := by
  rw [State.stackPut_stack]
  refine Mem.byte_writeRaw_inside _ _ _ _ _ ?_ hi
  split
  · exact hwf
  · exact State.meetErrors_wf 0 a hwf

theorem State.stackPut_wf (hwf : s.stack.wf = true) : (s.stackPut a bs p).stack.wf = true := by
  rw [State.stackPut_stack]
  refine Mem.wf_writeRaw _ _ _ _ ?_
  split
  · exact hwf
  · exact State.meetErrors_wf 0 a hwf

theorem State.stackPut_byte_other {c : Nat} (hfits : a % 64 + bs.length ≤ 64) (hc : c / 64 ≠ s.regs.placed a / 64) :
    (s.stackPut a bs p).stack.byte c = s.stack.byte c := by
  have hmod := s.regs.placed_mod a
  rw [State.stackPut_stack, Mem.byte_writeRaw_outside _ _ _ _ _ (by omega)]
  split
  · rfl
  · exact State.meetErrors_byte_other rfl hc

/-- Where no error waits, a part is written and nothing else happens. -/
theorem State.stackPut_stack_clean (huncorr : s.stack.uncorr = []) (hsingle : s.stack.single = []) :
    (s.stackPut a bs p).stack = s.stack.writeRaw (s.regs.placed a) bs p := by
  rw [State.stackPut_stack, State.meetErrors_clean 0 a huncorr hsingle]
  have hsame : { s.stack with
      uncorr := NSet.del s.stack.uncorr (s.regs.placed a / 64)
      single := NSet.del s.stack.single (s.regs.placed a / 64) } = s.stack := by
    rw [NSet.del_of_not_has (by rw [huncorr]; rfl), NSet.del_of_not_has (by rw [hsingle]; rfl)]
  rw [hsame, ite_self]

end

/-! ### A write as its parts -/

theorem mem_blocksOf {a n g : Nat} : g ∈ blocksOf 64 a n ↔ n ≠ 0 ∧ a / 64 ≤ g ∧ g ≤ (a + n - 1) / 64 := by
  unfold blocksOf
  split
  · next h => simp [h]
  · next h =>
    rw [List.mem_map]
    constructor
    · rintro ⟨i, hi, rfl⟩
      rw [List.mem_range] at hi
      omega
    · intro hg
      exact ⟨g - a / 64, by rw [List.mem_range]; omega, by omega⟩

theorem blocksOf_nodup (a n : Nat) : (blocksOf 64 a n).Nodup := by
  unfold blocksOf
  split
  · exact List.nodup_nil
  · exact List.nodup_range.map fun _ _ h => Nat.add_right_cancel h

/-- The offset at which the part of a write in block `g` begins. -/
def blockStart (a g : Nat) : Nat := max a (64 * g)

/-- The bytes of a write at `a` that lie in block `g`. -/
def blockPart (a : Nat) (bs : List PByte) (g : Nat) : List PByte :=
  (bs.drop (blockStart a g - a)).take (min (a + bs.length) (64 * g + 64) - blockStart a g)

/-- The part of a write in block `g`. -/
def State.putBlock (a : Nat) (bs : List PByte) (s : State) (g : Nat) : State :=
  s.stackPut (blockStart a g) ((blockPart a bs g).map Prod.fst) ((blockPart a bs g).any Prod.snd)

theorem State.stackWrite_eq_foldl (s : State) (a : Nat) (bs : List PByte) :
    s.stackWrite a bs = (blocksOf 64 a bs.length).foldl (State.putBlock a bs) s := by
  rw [State.stackWrite, accessesOf, List.foldl_map]
  rfl

theorem blockPart_length (a : Nat) (bs : List PByte) (g : Nat) :
    (blockPart a bs g).length = min (a + bs.length) (64 * g + 64) - blockStart a g := by
  rw [blockPart, List.length_take, List.length_drop]
  unfold blockStart
  omega

theorem State.putBlock_accessFrame (a : Nat) (bs : List PByte) (s : State) (g : Nat) : s.AccessFrame (s.putBlock a bs g) :=
  s.stackPut_accessFrame _ _ _

/-- The place of a byte of the write, from the start of the part it lies in. -/
theorem placed_part (r : RegFile) {a i g : Nat} (hg : (a + i) / 64 = g) :
    r.placed (a + i) = r.placed (blockStart a g) + (a + i - blockStart a g) := by
  have hsame : blockStart a g ≤ a + i ∧ (a + i) / 256 = blockStart a g / 256 := by
    unfold blockStart
    omega
  rw [← r.placed_add (by rw [Nat.add_sub_cancel' hsame.1]; exact hsame.2), Nat.add_sub_cancel' hsame.1]

section
variable {a : Nat} {bs : List PByte}

theorem State.putBlock_byte_self {s : State} {i g : Nat} (hwf : s.stack.wf = true) (hi : i < bs.length)
    (hg : (a + i) / 64 = g) : (s.putBlock a bs g).stack.byte (s.regs.placed (a + i)) = bs[i].1 := by
  have hlen : a + i - blockStart a g < ((blockPart a bs g).map Prod.fst).length := by
    rw [List.length_map, blockPart_length]
    unfold blockStart
    omega
  rw [placed_part s.regs hg, State.putBlock, State.stackPut_byte_inside hwf hlen]
  simp only [blockPart, List.getElem_map, List.getElem_take, List.getElem_drop]
  congr 2
  unfold blockStart
  omega

/-- Where no error waits, a part changes no byte outside the write and leaves no error to wait. -/
theorem State.putBlock_byte_outside {s : State} {c : Nat} (g : Nat) (huncorr : s.stack.uncorr = [])
    (hsingle : s.stack.single = []) (hc : ∀ i, i < bs.length → c ≠ s.regs.placed (a + i)) :
    (s.putBlock a bs g).stack.byte c = s.stack.byte c ∧ (s.putBlock a bs g).stack.uncorr = [] ∧
      (s.putBlock a bs g).stack.single = [] := by
  have hstack : (s.putBlock a bs g).stack = _ := State.stackPut_stack_clean huncorr hsingle
  rw [hstack]
  refine ⟨Mem.byte_writeRaw_outside _ _ _ _ _ ?_, huncorr, hsingle⟩
  by_contra hin
  rw [List.length_map, blockPart_length, not_or, Nat.not_lt, Nat.not_le] at hin
  obtain ⟨hlo, hhi⟩ := hin
  have hi : blockStart a g + (c - s.regs.placed (blockStart a g)) - a < bs.length := by
    unfold blockStart at *
    omega
  refine hc _ hi ?_
  rw [placed_part s.regs (g := g) (by unfold blockStart at *; omega)]
  unfold blockStart at *
  omega

/-- Where no error waits, a write changes no other byte. -/
theorem State.stackWrite_byte_outside {s : State} {c : Nat} (huncorr : s.stack.uncorr = []) (hsingle : s.stack.single = [])
    (hc : ∀ i, i < bs.length → c ≠ s.regs.placed (a + i)) : (s.stackWrite a bs).stack.byte c = s.stack.byte c := by
  rw [State.stackWrite_eq_foldl]
  induction blocksOf 64 a bs.length generalizing s with
  | nil => rfl
  | cons g l ih =>
    obtain ⟨hbyte, hu, hs⟩ := State.putBlock_byte_outside g huncorr hsingle hc
    rw [List.foldl_cons, ih hu hs fun i hi => by rw [(s.putBlock_accessFrame a bs g).placed]; exact hc i hi, hbyte]

end

section
variable {a : Nat} {bs : List PByte} (hgranule : a / 256 = (a + bs.length - 1) / 256)
include hgranule

/-- The part in one block leaves the bytes of the write's other blocks. -/
theorem State.putBlock_byte_other {s : State} {i g : Nat} (hi : i < bs.length) (hg : g ∈ blocksOf 64 a bs.length)
    (hne : (a + i) / 64 ≠ g) :
    (s.putBlock a bs g).stack.byte (s.regs.placed (a + i)) = s.stack.byte (s.regs.placed (a + i)) := by
  obtain ⟨hsome, hlo, hhi⟩ := mem_blocksOf.1 hg
  have hbegin : blockStart a g / 64 = g := by
    unfold blockStart
    omega
  refine State.stackPut_byte_other ?_ ?_
  · rw [List.length_map, blockPart_length]
    omega
  · have hmod := s.regs.placed_mod (blockStart a g)
    have hmod' := s.regs.placed_mod (a + i)
    rcases Nat.le_total (a + i) (blockStart a g) with hle | hle
    · have hplace := s.regs.placed_add (a := a + i) (i := blockStart a g - (a + i)) (by unfold blockStart at *; omega)
      rw [Nat.add_sub_cancel' hle] at hplace
      omega
    · have hplace := s.regs.placed_add (a := blockStart a g) (i := a + i - blockStart a g) (by unfold blockStart at *; omega)
      rw [Nat.add_sub_cancel' hle] at hplace
      omega

theorem State.foldl_putBlock_byte_other {s : State} {i : Nat} (hi : i < bs.length) {l : List Nat}
    (hl : ∀ g ∈ l, g ∈ blocksOf 64 a bs.length ∧ (a + i) / 64 ≠ g) :
    (l.foldl (State.putBlock a bs) s).stack.byte (s.regs.placed (a + i)) = s.stack.byte (s.regs.placed (a + i)) := by
  induction l generalizing s with
  | nil => rfl
  | cons g l ih =>
    obtain ⟨hg, hne⟩ := hl g List.mem_cons_self
    have hplaced := (s.putBlock_accessFrame a bs g).placed (a + i)
    rw [List.foldl_cons, ← hplaced, ih fun x hx => hl x (List.mem_cons_of_mem _ hx), hplaced,
      State.putBlock_byte_other hgranule hi hg hne]

theorem State.foldl_putBlock_byte_self {s : State} {i : Nat} (hwf : s.stack.wf = true) (hi : i < bs.length) {l : List Nat}
    (hl : ∀ g ∈ l, g ∈ blocksOf 64 a bs.length) (hnodup : l.Nodup) (hmem : (a + i) / 64 ∈ l) :
    (l.foldl (State.putBlock a bs) s).stack.byte (s.regs.placed (a + i)) = bs[i].1 := by
  induction l generalizing s with
  | nil => simp at hmem
  | cons g l ih =>
    obtain ⟨hnot, hnodup⟩ := List.nodup_cons.1 hnodup
    have hrest : ∀ x ∈ l, x ∈ blocksOf 64 a bs.length := fun x hx => hl x (List.mem_cons_of_mem _ hx)
    rw [List.foldl_cons, ← (s.putBlock_accessFrame a bs g).placed (a + i)]
    by_cases hg : (a + i) / 64 = g
    · rw [State.foldl_putBlock_byte_other hgranule hi fun x hx => ⟨hrest x hx, fun h => hnot (by rwa [← hg, h])⟩,
        (s.putBlock_accessFrame a bs g).placed, State.putBlock_byte_self hwf hi hg]
    · exact ih (State.stackPut_wf hwf) hrest hnodup ((List.mem_cons.1 hmem).resolve_left hg)

/-- A write's bytes are there once it has been made. -/
theorem State.stackWrite_byte_inside {s : State} {i : Nat} (hwf : s.stack.wf = true) (hi : i < bs.length) :
    (s.stackWrite a bs).stack.byte (s.regs.placed (a + i)) = bs[i].1 := by
  rw [State.stackWrite_eq_foldl]
  refine State.foldl_putBlock_byte_self hgranule hwf hi (fun g hg => hg) (blocksOf_nodup _ _) (mem_blocksOf.2 ?_)
  omega

end

end Sys2Proof.Machine
end

section
/-! SUPPORT. Memory requests (R256, R259, R264, R265): a request that its channel admits takes effect at once and holds a slot,
another waits, and a done one leaves its slot. -/

namespace Sys2Proof.Machine

/-! ### Reads where no error waits -/

theorem State.stackRead_data_clean {s : State} (a n : Nat) (huncorr : s.stack.uncorr = []) (hsingle : s.stack.single = []) :
    (s.stackRead a n).1 =
      (List.range n).map fun i => (s.stack.byte (s.regs.placed (a + i)), s.stack.tag (s.regs.placed (a + i))) := by
  have hmet : (accessesOf a n).foldl (fun t p => t.meetErrors 0 p.1) s = s :=
    List.foldl_fixed' (fun p => State.meetErrors_clean 0 p.1 huncorr hsingle) _
  rw [State.stackRead, hmet]

/-! ### Slots -/

theorem State.memAdmits_of_free {s : State} {a : Nat} (hready : s.memReady a = true)
    (hslots : (s.memCh (s.chanOf a)).slots.length < 64)
    (hbank : ∀ bank,
      ((s.memCh (s.chanOf a)).slots.filter fun p => (locate (s.regs.home p.addr)).bank == bank).length < 12) :
    s.memAdmits a = true := by
  rw [State.memAdmits, MemCh.slotFree, hready]
  simp only [Bool.true_and, Bool.and_eq_true, decide_eq_true_eq]
  exact ⟨hslots, hbank _⟩

theorem State.memCh_holdSlot (s : State) (k : Nat) (q : MemReq) :
    (s.holdSlot k q).memCh k = { s.memCh k with slots := (s.memCh k).slots ++ [q] } := State.memCh_setMemCh_self _ _ _

/-! ### MEM_REQUEST_ENTER -/

/-- The bytes of a write, each with the tag of its 64 B access. -/
def taggedBytes (q : MemAccess) : List PByte := q.data.mapIdx fun i b => (b, bitOf q.poison ((q.addr + i) / 64 % 4))

/-- A request as its source has it wait. -/
def requestKey (q : MemAccess) : Nat × Nat × Bool := (q.source, q.addr, q.write)

/-- The state in which an admitted request takes effect: its source no longer waits with it. -/
def State.admitted (s : State) (q : MemAccess) : State :=
  s.setMemCh (s.chanOf q.addr) { s.memCh (s.chanOf q.addr) with
    blocked := (s.memCh (s.chanOf q.addr)).blocked.erase (requestKey q) }

theorem exec_memRequestEnter_behind {s : State} {q : MemAccess}
    (hbehind : (s.memCh (s.chanOf q.addr)).behind (requestKey q) = true) :
    exec (.memRequestEnter q) s = .next s := congrArg Host.Outcome.next (if_pos (.inr hbehind))

section
variable {s : State} {q : MemAccess} (hin : inGranule q.addr (if q.write then q.data.length else q.len) = true)
  (hfront : (s.memCh (s.chanOf q.addr)).behind (requestKey q) = false)
include hin hfront

theorem exec_memRequestEnter_waits (hfull : s.memAdmits q.addr = false) : exec (.memRequestEnter q) s =
    .next (if (s.memCh (s.chanOf q.addr)).blocked.contains (requestKey q) then s
      else s.setMemCh (s.chanOf q.addr)
        { s.memCh (s.chanOf q.addr) with blocked := (s.memCh (s.chanOf q.addr)).blocked ++ [requestKey q] }) :=
  congrArg Host.Outcome.next ((if_neg (by rw [hin, ← requestKey, hfront]; simp)).trans (if_pos hfull))

theorem exec_memRequestEnter_admitted (hadmits : s.memAdmits q.addr = true) : exec (.memRequestEnter q) s =
    .next (if q.write then
        ((s.admitted q).stackWrite q.addr (taggedBytes q)).holdSlot (s.chanOf q.addr) ⟨q.source, q.addr, true, []⟩
      else ((s.admitted q).stackRead q.addr (if q.write then q.data.length else q.len)).2.holdSlot (s.chanOf q.addr)
        ⟨q.source, q.addr, false, ((s.admitted q).stackRead q.addr (if q.write then q.data.length else q.len)).1⟩) :=
  congrArg Host.Outcome.next ((if_neg (by rw [hin, ← requestKey, hfront]; simp)).trans (if_neg (by rw [hadmits]; simp)))

end

/-- What an admitted write leaves: its bytes at their places, its slot, and all else but the errors it met. -/
theorem State.admitted_write_effect {s : State} {q : MemAccess} (hin : inGranule q.addr q.data.length = true)
    (hwf : s.stack.wf = true) (q' : MemReq) : let k := s.chanOf q.addr
    let s' := ((s.admitted q).stackWrite q.addr (taggedBytes q)).holdSlot k q'
    (∀ i b, q.data[i]? = some b → s'.stack.byte (s.regs.placed (q.addr + i)) = b) ∧
      (s.stack.uncorr = [] → s.stack.single = [] →
        ∀ c, (∀ i, i < q.data.length → c ≠ s.regs.placed (q.addr + i)) → s'.stack.byte c = s.stack.byte c) ∧
      (s'.memCh k).slots = (s.memCh k).slots ++ [q'] ∧ (s'.memCh k).blocked = (s.memCh k).blocked.erase (requestKey q) ∧
      s'.tiles = s.tiles ∧ s'.kv = s.kv := by
  intro k s'
  have hlen : (taggedBytes q).length = q.data.length := List.length_mapIdx
  have hgranule : q.addr / 256 = (q.addr + (taggedBytes q).length - 1) / 256 := by
    simp only [inGranule, Bool.and_eq_true, beq_iff_eq] at hin
    rw [hlen, hin.1.2]
  have hframe := (s.admitted q).stackWrite_accessFrame q.addr (taggedBytes q)
  refine ⟨fun i b hb => ?_, fun huncorr hsingle c hc => ?_, ?_, ?_, hframe.tiles, hframe.kv⟩
  · obtain ⟨hi, rfl⟩ := List.getElem?_eq_some_iff.1 hb
    have hbyte := State.stackWrite_byte_inside (s := s.admitted q) hgranule hwf (i := i) (by rwa [hlen])
    exact hbyte.trans (by simp [taggedBytes])
  · exact State.stackWrite_byte_outside (s := s.admitted q) huncorr hsingle fun i hi => hc i (hlen ▸ hi)
  · rw [State.memCh_holdSlot, hframe.slots, State.admitted, State.memCh_setMemCh_self]
  · rw [State.memCh_holdSlot, hframe.blocked, State.admitted, State.memCh_setMemCh_self]

/-! ### Errors beyond the code -/

/-- An access beyond the code is counted and posted, and leaves its granule poisoned and clear of errors. -/
theorem State.meetErrors_posts {s : State} (flags : Nat) {a w : Nat} (hw : s.regs.placed a / 64 = w)
    (hbeyond : s.beyondCode w a = true) (hroom : s.host.events.length < 1024) : let s' := s.meetErrors flags a
    NSet.has s'.stack.poison w = true ∧ NSet.has s'.stack.uncorr w = false ∧ NSet.has s'.stack.single w = false ∧
      (s'.memCh (s.chanOf a)).uncorrected = min 65535 ((s.memCh (s.chanOf a)).uncorrected + 1) ∧
      (∃ e, s'.host.events = s.host.events ++ [e] ∧ e.ev = ⟨St.memUncorr, flags, 2, memWhere (s.chanOf a), a⟩) ∧
      ∀ c, c / 64 ≠ w → s'.stack.byte c = s.stack.byte c := by
  obtain ⟨c, -, hcount, heq⟩ :=
    (s.setStack (s.stack.receive w (s.received w)) (Tbl.del s.mem.lanes w) (s.drawn + 1)).memUncorr_eq flags a
      (oneLane (s.hurtLanes w))
  rw [← State.meetErrors_beyond hw hbeyond, State.setStack_chanOf] at heq
  rw [State.setStack_chanOf, State.setStack_memCh] at hcount
  refine ⟨?_, ?_, ?_, ?_, ?_, fun c => State.meetErrors_byte_other hw⟩
  · rw [State.meetErrors_poison hw, hbeyond]
    simp
  · simp [State.meetErrors_uncorr hw]
  · simp [State.meetErrors_single hw]
  · rw [heq, State.memCh_post, State.memCh_setMemCh_self, hcount]
  · rw [heq, State.post_host, HostSt.pushEv_events _ _ (by simpa using hroom)]
    exact ⟨_, rfl, rfl⟩

/-- Settles O38: an admitted request is written or read at once and holds a slot, and one that is not admitted waits. -/
theorem memoryRequests : Obligations.MemoryRequests := by
  unfold Obligations.MemoryRequests
  intro s
  refine ⟨fun q hwrite hin hready => ?_, fun q hread hin hready => ?_, fun a n => State.stackRead_data_clean a n,
    fun q hin => ⟨exec_memRequestEnter_behind, fun hfront hfull hnew => ?_, fun hfront hfull hold => ?_⟩,
    fun channel slot q hq => ⟨fun hwrite => ?_, fun hread => ?_⟩, fun flags a => State.meetErrors_posts flags rfl⟩
  · intro k hfront hslots hbank hwf
    have hin' : inGranule q.addr (if q.write then q.data.length else q.len) = true := by rwa [hwrite]
    have hkey : requestKey q = (q.source, q.addr, true) := by rw [requestKey, hwrite]
    have heffect := State.admitted_write_effect hin hwf ⟨q.source, q.addr, true, []⟩
    rw [hkey] at heffect
    refine ⟨_, ?_, heffect⟩
    rw [exec_memRequestEnter_admitted hin' (by rw [hkey]; exact hfront) (State.memAdmits_of_free hready hslots hbank),
      if_pos hwrite]
  · intro k c hfront hslots hbank
    have hin' : inGranule q.addr (if q.write then q.data.length else q.len) = true := by rwa [hread]
    have hkey : requestKey q = (q.source, q.addr, false) := by rw [requestKey, hread]
    rw [exec_memRequestEnter_admitted hin' (by rw [hkey]; exact hfront) (State.memAdmits_of_free hready hslots hbank),
      State.admitted, hkey, hread]
    rfl
  · rw [exec_memRequestEnter_waits hin hfront hfull, if_neg (by simpa [requestKey] using hnew)]
    rfl
  · rw [exec_memRequestEnter_waits hin hfront hfull, if_pos (by simpa [requestKey] using hold)]
  · show execMemReadDone channel slot s = _
    simp only [execMemReadDone, hq, hwrite, if_true]
  · show execMemReadDone channel slot s = _
    simp only [execMemReadDone, hq, hread, Bool.false_eq_true, if_false]

end Sys2Proof.Machine
end

section
/-! SUPPORT. The object table (R276, R277): a descriptor of an object whose entry can be read is carried out on that entry, by
the line of Table 07.7 for its state. -/

namespace Sys2Proof.Machine

/-! ### An object's descriptor -/

/-- The state once an object's entry has been read. -/
def State.objRead (s : State) (o : Nat) : State := (s.stackRead (s.objAddr o) 32).2

theorem State.homeFits_of {s : State} {home size : Nat}
    (h : home % 64 = 0 ∧ home + size ≤ 0xC000000000 ∧ s.inRegion home size = false) : s.homeFits home size = true := by
  obtain ⟨halign, hinside, hclear⟩ := h
  simp [State.homeFits, halign, hinside, hclear]

section
variable {s s1 : State} {r j op : Nat} {d : Desc} {x : Obj} (hturn : s.firstFetched r j 5 9 = true)
  (hfree : s.host.stuck d.unit = false) (heval : d.eval = true → s.evalOn = true)
  (hinside : d.object < s.regs.get Reg.MEM_OBJ_COUNT_COUNT) (hopen : s.memOpen (s.objAddr d.object) 32 = true)
  (hs1 : s.objRead d.object = s1) (hx : s1.obj d.object = x)
include hturn hfree heval hinside hopen hs1 hx

theorem State.onObj_of_ready (hd : s.ready r j op = some d) (f : State → Desc → Nat → Obj → State) :
    s.onObj r j op f = f s1 d d.object x := by
  subst hs1 hx
  rw [State.onObj, if_neg (by simp [hturn]), State.onDesc_of_ready hd hfree heval]
  exact (if_neg (Nat.not_le.2 hinside)).trans (if_neg (ne_false_of_eq_true hopen))

theorem exec_objDefine (hd : s.ready r j 5 = some d) (htier : x.tier = 0)
    (hhome : s1.homeFits (d.n 16 8 % 2 ^ 40) (d.n 24 8) = true) :
    exec (.objDefine r j) s = .next ((s1.setObj d.object { x with
      tier := 1
      flags := 0
      pins := 0
      home := d.n 16 8 % 2 ^ 40
      size := d.n 24 8 }).objDone d.object r j St.ok 0) := by
  show execObjDefine r j s = _
  rw [execObjDefine, State.onObj_of_ready hturn hfree heval hinside hopen hs1 hx hd]
  exact congrArg _ ((if_neg (not_not.2 htier)).trans (if_neg (ne_false_of_eq_true hhome)))

/-! ### PROMOTE -/

section
variable (hd : s.ready r j 6 = some d) (hsome : d.placement.count ≠ 0) (hfits : d.placement.fits x.size = true)
  (hhome : s1.homeFits x.home x.size = true)
include hd hsome hfits hhome

/-- A PROMOTE of a defined object whose placement and home are accepted goes by the object's tier. -/
theorem exec_objPromote (htier : x.tier ≠ 0) : exec (.objPromote r j) s = .next (
    if x.tier = 1 then (if s1.copyRoom d.placement then s1.promoteUp r j d.object x d.placement d.objSig else s1)
    else if x.placement ≠ d.placement then s1.objDone d.object r j St.objPlacement 0
    else s1.promoteHere r j d.object x d.objSig) := by
  have haccepted : ¬ (d.placement.fits x.size = false ∨ s1.homeFits x.home x.size = false) := by simp [hfits, hhome]
  show execObjPromote r j s = _
  rw [execObjPromote, State.onObj_of_ready hturn hfree heval hinside hopen hs1 hx hd]
  exact congrArg _ ((if_neg htier).trans ((if_neg hsome).trans (if_neg haccepted)))

theorem exec_objPromote_up (htier : x.tier = 1) (hroom : s1.copyRoom d.placement = true) :
    exec (.objPromote r j) s = .next (s1.promoteUp r j d.object x d.placement d.objSig) := by
  rw [exec_objPromote hturn hfree heval hinside hopen hs1 hx hd hsome hfits hhome (by rw [htier]; decide), if_pos htier,
    if_pos hroom]

theorem exec_objPromote_here (htier : x.tier = 2) (hplace : x.placement = d.placement) :
    exec (.objPromote r j) s = .next (s1.promoteHere r j d.object x d.objSig) := by
  rw [exec_objPromote hturn hfree heval hinside hopen hs1 hx hd hsome hfits hhome (by rw [htier]; decide),
    if_neg (by rw [htier]; decide), if_neg (not_not.2 hplace)]

theorem exec_objPromote_elsewhere (htier : x.tier = 2) (hplace : x.placement ≠ d.placement) :
    exec (.objPromote r j) s = .next (s1.objDone d.object r j St.objPlacement 0) := by
  rw [exec_objPromote hturn hfree heval hinside hopen hs1 hx hd hsome hfits hhome (by rw [htier]; decide),
    if_neg (by rw [htier]; decide), if_pos hplace]

end

/-! ### EVICT, UNPIN and FREE -/

/-- An EVICT of an object in the tile tier goes by its pins and moves. -/
theorem exec_objEvict (hd : s.ready r j 7 = some d) (htier : x.tier = 2) : exec (.objEvict r j) s = .next (
    if x.pins ≠ 0 ∨ x.movingUp = true then s1.objDone d.object r j St.pinned 0
    else if x.evicting then (s1.setMoves (s1.mem.moves.map fun m =>
      if m.live d.object false then { m with evicts := m.evicts ++ [(r, j)] } else m)).take r j
    else if s1.copyRoom x.placement then (s1.setObj d.object { x with flags := x.flags ||| 2 }).startMove r j
      ⟨s1.nextMove, x, d.object, false, false, [], [(r, j)], false, false, List.range x.count⟩
    else s1) := by
  show execObjEvict r j s = _
  rw [execObjEvict, State.onObj_of_ready hturn hfree heval hinside hopen hs1 hx hd]
  exact congrArg _ ((if_neg (by rw [htier]; decide)).trans (if_neg (by rw [htier]; decide)))

theorem exec_objUnpin (hd : s.ready r j 8 = some d) (htier : x.tier ≠ 0) : exec (.objUnpin r j) s = .next (
    if x.pins = 0 then s1.objDone d.object r j St.objNotPinned 0
    else (s1.setObj d.object { x with pins := x.pins - 1 }).objDone d.object r j St.ok 0) := by
  show execObjUnpin r j s = _
  rw [execObjUnpin, State.onObj_of_ready hturn hfree heval hinside hopen hs1 hx hd]
  exact congrArg _ (if_neg htier)

theorem exec_objFree (hd : s.ready r j 9 = some d) (htier : x.tier ≠ 0) : exec (.objFree r j) s = .next (
    if x.pins ≠ 0 ∨ x.movingUp = true ∨ x.evicting = true then s1.objDone d.object r j St.pinned 0
    else (s1.setObj d.object ⟨0, 0, 0, 0, 0, 0, 0, 0, 0⟩).objDone d.object r j St.ok 0) := by
  show execObjFree r j s = _
  rw [execObjFree, State.onObj_of_ready hturn hfree heval hinside hopen hs1 hx hd]
  exact congrArg _ (if_neg htier)

end

/-- Promoting a resident object at its own placement pins it once more and signals its tiles at once. -/
theorem State.promoteHere_resident (s : State) (r j o : Nat) {x : Obj} (sig : Option Nat) (hpins : x.pins < 65535)
    (hkept : x.evicting = false) (hstill : x.movingUp = false) : s.promoteHere r j o x sig =
      ((s.setObj o { x with pins := x.pins + 1 }).objSignal x sig).objDone o r j St.ok 0 :=
  (if_neg hpins.ne).trans ((if_neg (ne_true_of_eq_false hkept)).trans (if_neg (ne_true_of_eq_false hstill)))

/-- Settles O33: each descriptor reads its object's entry and does what the entry's tier, pins and moves have it do. -/
theorem objectTable : Obligations.ObjectTable := by
  unfold Obligations.ObjectTable
  intro s r j d hturn hfree heval o s1 x p homeOk hinside hopen
  refine ⟨fun hd htier hhome => ?_, fun hd hsome hfits hhome => ⟨fun htier hroom => ?_,
      fun htier hplace hpins hkept hstill => ?_, fun htier hplace => ?_⟩,
    fun hd htier hstill => ?_, fun hd htier => ?_, fun hd htier hstill hkept => ?_⟩
  · exact exec_objDefine hturn hfree heval hinside hopen rfl rfl hd htier (State.homeFits_of hhome)
  · exact exec_objPromote_up hturn hfree heval hinside hopen rfl rfl hd hsome hfits (State.homeFits_of hhome) htier hroom
  · rw [exec_objPromote_here hturn hfree heval hinside hopen rfl rfl hd hsome hfits (State.homeFits_of hhome) htier hplace]
    exact congrArg _ (State.promoteHere_resident s1 r j o d.objSig hpins hkept hstill)
  · exact exec_objPromote_elsewhere hturn hfree heval hinside hopen rfl rfl hd hsome hfits (State.homeFits_of hhome) htier
      hplace
  · rw [exec_objEvict hturn hfree heval hinside hopen rfl rfl hd htier]
    refine ⟨fun hpins hkept hroom => congrArg _ ?_, fun hpins => congrArg _ (if_pos (.inl hpins))⟩
    exact (if_neg (not_or.2 ⟨not_not.2 hpins, ne_true_of_eq_false hstill⟩)).trans
      ((if_neg (ne_true_of_eq_false hkept)).trans (if_pos hroom))
  · rw [exec_objUnpin hturn hfree heval hinside hopen rfl rfl hd htier]
    exact ⟨fun hpins => congrArg _ (if_neg hpins), fun hpins => congrArg _ (if_pos hpins)⟩
  · rw [exec_objFree hturn hfree heval hinside hopen rfl rfl hd htier]
    have hquiet : ¬ (x.movingUp = true ∨ x.evicting = true) :=
      not_or.2 ⟨ne_true_of_eq_false hstill, ne_true_of_eq_false hkept⟩
    exact ⟨fun hpins => congrArg _ (if_neg (not_or.2 ⟨not_not.2 hpins, hquiet⟩)),
      fun hpins => congrArg _ (if_pos (.inl hpins))⟩

end Sys2Proof.Machine
end

section
/-! SUPPORT. Object copies (R276, R278, R279): a slice and what follows it, the end of a copy, and the object table read
back. -/

namespace Sys2Proof.Machine

/-! ### One slice -/

theorem exec_objectCopyDone {s : State} {o i : Nat} {m : ObjMove} (hm : s.mem.moves.find? (fun m => m.obj == o) = some m)
    (hlive : m.cancelled = false) (hi : i ∈ m.left)
    (hbusy : s.copying m (2048 * ((m.entry.first + i) / 4096) + 127 * 16 + 7) = true)
    (hhome : s.memOpen (m.entry.home + m.entry.slice * i) (m.entry.sliceBytes i) = true)
    (htable : s.memOpen (s.objAddr o) 32 = true) :
    exec (.objectCopyDone ⟨o, i⟩) s = .next ((s.stackRead (s.objAddr o) 32).2.moveSlice m i) := by
  have hobj : m.obj = o := by simpa using List.find?_some hm
  subst hobj
  show execObjectCopyDone ⟨m.obj, i⟩ s = _
  simp only [execObjectCopyDone, hm, hlive, Bool.false_eq_true, if_false]
  refine congrArg _ (if_neg ?_)
  simp [hi, hbusy, hhome, htable]

/-- A copy that still has slices on each of its channels keeps them all. -/
theorem ObjMove.no_channel_done {m : ObjMove} {left : List Nat}
    (h : ∀ k ∈ m.entry.placement.channels, ∃ l ∈ left, (m.entry.first + l) / 4096 = k / 2048) :
    (m.entry.placement.channels.filter fun k => !(left.any fun l => (m.entry.first + l) / 4096 == k / 2048)) = [] := by
  rw [List.filter_eq_nil_iff]
  intro k hk
  obtain ⟨l, hl, heq⟩ := h k hk
  simp only [Bool.not_eq_true', Bool.not_eq_false, List.any_eq_true, beq_iff_eq]
  exact ⟨l, hl, heq⟩

theorem State.moveSlice_up (s : State) {m : ObjMove} {i p : Nat} {w : Nat × Nat × Option Nat} (hup : m.up = true)
    (hw : m.waiters = [w]) (hp : w.2.2 = some p) (hleft : m.left.erase i ≠ [])
    (hchans : ∀ k ∈ m.entry.placement.channels, ∃ l ∈ m.left.erase i, (m.entry.first + l) / 4096 = k / 2048) :
    let c := s.copySlice m.entry true i m.entry.slice
    s.moveSlice m i = (c.2.signalTile (m.entry.first + i) (p / 2) (p % 2) 1 .chan none).putMove { m with
      left := m.left.erase i
      poison := m.poison || c.1 } := by
  intro c
  simp only [State.moveSlice, hup, hw, ObjMove.no_channel_done hchans, State.objSignalAt, hp]
  exact if_neg hleft

/-! ### The end of a copy -/

theorem State.settleMove_down (s : State) (x : Obj) {m : ObjMove} (hup : m.up = false) :
    s.settleMove x m = ((s.dropMove m).setObj m.obj { x with
      tier := 1
      flags := 0 }).each m.evicts fun s e =>
        s.objDone m.obj e.1 e.2 (moveStatus m.poison m.stale) (if m.poison then 16 else 0) := by
  simp only [State.settleMove, hup, Bool.false_eq_true, if_false]

theorem State.settleMove_up (s : State) (x : Obj) {m : ObjMove} {w : Nat × Nat × Option Nat} (hup : m.up = true)
    (hw : m.waiters = [w]) : s.settleMove x m = ((s.dropMove m).setObj m.obj { x with flags := x.flags &&& 0xFE }).objDone m.obj
      w.1 w.2.1 (moveStatus m.poison m.stale) (if m.poison then 16 else 0) := by
  simp only [State.settleMove, hup, hw, if_true]
  rfl

/-! ### The table -/

/-- The 32 bytes of an entry (Table 07.5). -/
def Obj.bytes (x : Obj) : List Byte :=
  leBytes 1 x.tier ++ leBytes 1 x.flags ++ leBytes 2 x.pins ++ leBytes 4 x.slice ++ leBytes 8 x.home ++ leBytes 8 x.size ++
    leBytes 2 x.first ++ leBytes 2 x.count ++ leBytes 4 x.offset

theorem Obj.bytes_length (x : Obj) : x.bytes.length = 32 := by simp [Obj.bytes]

/-- The number in bytes `k` to `k + n - 1` of an entry. -/
def entryWord (b : List Byte) (k n : Nat) : Nat := leNat ((b.drop k).take n)

/-- The entry in 32 bytes. -/
def entryOf (b : List Byte) : Obj :=
  ⟨entryWord b 0 1, entryWord b 1 1, entryWord b 2 2, entryWord b 4 4, entryWord b 8 8 % 2 ^ 40, entryWord b 16 8,
    entryWord b 24 2, entryWord b 26 2, entryWord b 28 4 % 2 ^ 19⟩

theorem Mem.read_drop_take (m : Mem) (a k n : Nat) {len : Nat} (h : k + n ≤ len) :
    ((m.read a len).drop k).take n = m.read (a + k) n := by
  refine List.ext_getElem ?_ fun i hi hi' => ?_
  · simp [Mem.read, Cells.read]
    omega
  · simp [Mem.read, Cells.read, Nat.add_assoc]

theorem State.obj_eq_entryOf (s : State) (o : Nat) : s.obj o = entryOf (s.stack.read (s.objAddr o) 32) := by
  have hword {k n : Nat} (h : k + n ≤ 32) : entryWord (s.stack.read (s.objAddr o) 32) k n = s.word (s.objAddr o + k) n :=
    congrArg leNat (Mem.read_drop_take _ _ _ _ h)
  simp only [entryOf, hword, Nat.reduceAdd, Nat.reduceLeDiff, Nat.add_zero, State.obj]

/-- The ranges of an entry's fields. -/
structure Obj.InRange (x : Obj) : Prop where
  tier : x.tier < 2 ^ 8
  flags : x.flags < 2 ^ 8
  pins : x.pins < 2 ^ 16
  slice : x.slice < 2 ^ 32
  home : x.home < 2 ^ 40
  size : x.size < 2 ^ 64
  first : x.first < 2 ^ 16
  count : x.count < 2 ^ 16
  offset : x.offset < 2 ^ 19

theorem entryOf_bytes {x : Obj} (h : x.InRange) : entryOf x.bytes = x := by
  obtain ⟨htier, hflags, hpins, hslice, hhome, hsize, hfirst, hcount, hoffset⟩ := h
  have hwords : entryOf x.bytes = ⟨x.tier % 256 ^ 1, x.flags % 256 ^ 1, x.pins % 256 ^ 2, x.slice % 256 ^ 4,
      x.home % 256 ^ 8 % 2 ^ 40, x.size % 256 ^ 8, x.first % 256 ^ 2, x.count % 256 ^ 2, x.offset % 256 ^ 4 % 2 ^ 19⟩ := by
    simp only [← leNat_leBytes]
    simp [entryOf, entryWord, Obj.bytes, List.drop_append, List.drop_of_length_le, List.take_of_length_le]
  rw [hwords]
  cases x
  dsimp only at *
  simp only [Obj.mk.injEq]
  omega

theorem State.setObj_eq (s : State) (o : Nat) (x : Obj) : s.setObj o x = s.stackWrite (s.objAddr o) (clean x.bytes) := rfl

theorem clean_bytes_length (x : Obj) : (clean x.bytes).length = 32 := by rw [clean, List.length_map, Obj.bytes_length]

theorem map_fst_clean (bs : List Byte) : (clean bs).map Prod.fst = bs := by
  rw [clean, List.map_map]
  exact List.map_id bs

/-- An entry lies within one granule. -/
theorem State.objAddr_granule (s : State) (o : Nat) : s.objAddr o / 256 = (s.objAddr o + 32 - 1) / 256 := by
  unfold State.objAddr
  omega

theorem State.setObj_objAddr (s : State) (o k : Nat) (x : Obj) : (s.setObj o x).objAddr k = s.objAddr k := by
  rw [State.objAddr, State.setObj_eq, (s.stackWrite_accessFrame _ _).get (Reg.memory_outsideEventStatus _ (by simp)),
    State.objAddr]

/-- A write whose bytes are kept under their own offsets reads back. -/
theorem State.stackWrite_read_self {s : State} {a : Nat} {bs : List PByte} (hgranule : a / 256 = (a + bs.length - 1) / 256)
    (hplaced : ∀ i, s.regs.placed (a + i) = a + i) (hwf : s.stack.wf = true) :
    (s.stackWrite a bs).stack.read a bs.length = bs.map Prod.fst := by
  refine List.ext_getElem (by simp [Mem.read, Cells.read]) fun i hi hi' => ?_
  have hbyte := State.stackWrite_byte_inside hgranule hwf (i := i) (by simpa using hi')
  rw [hplaced] at hbyte
  simpa [Mem.read, Cells.read, Mem.byte] using hbyte

/-- Where no error waits, a range beside a write reads as before. -/
theorem State.stackWrite_read_other {s : State} {a b n : Nat} {bs : List PByte} (hplaced : ∀ i, s.regs.placed (a + i) = a + i)
    (huncorr : s.stack.uncorr = []) (hsingle : s.stack.single = []) (hapart : b + n ≤ a ∨ a + bs.length ≤ b) :
    (s.stackWrite a bs).stack.read b n = s.stack.read b n := by
  refine List.map_congr_left fun i hi => State.stackWrite_byte_outside huncorr hsingle fun l hl => ?_
  rw [hplaced]
  rw [List.mem_range] at hi
  omega

section
variable {s : State} {o : Nat} {x : Obj} (hplaced : ∀ a, s.objAddr 0 ≤ a → s.regs.placed a = a)
include hplaced

theorem State.placed_entry (k i : Nat) : s.regs.placed (s.objAddr k + i) = s.objAddr k + i :=
  hplaced _ (by unfold State.objAddr; omega)

theorem State.setObj_read_self (hwf : s.stack.wf = true) : (s.setObj o x).stack.read (s.objAddr o) 32 = x.bytes := by
  have hread := State.stackWrite_read_self (bs := clean x.bytes) (by rw [clean_bytes_length]; exact s.objAddr_granule o)
    (State.placed_entry hplaced o) hwf
  rwa [map_fst_clean, clean_bytes_length, ← State.setObj_eq] at hread

theorem State.setObj_read_other (huncorr : s.stack.uncorr = []) (hsingle : s.stack.single = []) {k : Nat} (hk : k ≠ o) :
    (s.setObj o x).stack.read (s.objAddr k) 32 = s.stack.read (s.objAddr k) 32 := by
  rw [State.setObj_eq]
  refine State.stackWrite_read_other (State.placed_entry hplaced o) huncorr hsingle ?_
  rw [clean_bytes_length]
  unfold State.objAddr
  omega

/-- An entry of the table reads back as it was written. -/
theorem State.setObj_obj_self (hwf : s.stack.wf = true) (hrange : x.InRange) : (s.setObj o x).obj o = x := by
  rw [State.obj_eq_entryOf, State.setObj_objAddr, State.setObj_read_self hplaced hwf, entryOf_bytes hrange]

/-- A write of an entry leaves the others alone. -/
theorem State.setObj_obj_other (huncorr : s.stack.uncorr = []) (hsingle : s.stack.single = []) {k : Nat} (hk : k ≠ o) :
    (s.setObj o x).obj k = s.obj k := by
  rw [State.obj_eq_entryOf, State.setObj_objAddr, State.setObj_read_other hplaced huncorr hsingle hk, ← State.obj_eq_entryOf]

end

/-- Settles O34: a slice is copied and its tile signalled, the last one settles the entry, and an entry's bytes are its own. -/
theorem objectCopies : Obligations.ObjectCopies := by
  unfold Obligations.ObjectCopies
  intro s o
  refine ⟨fun m i hm hlive hi hbusy hhome htable => exec_objectCopyDone hm hlive hi hbusy hhome htable,
    fun m i w p hup hw hp hleft hchans => s.moveSlice_up hup hw hp hleft hchans,
    fun m x => ⟨fun hup => s.settleMove_down x hup, fun w hup hw => s.settleMove_up x hup hw⟩,
    fun y hwf huncorr hsingle hplaced htier hflags hpins hslice hhome hsize hfirst hcount hoffset =>
      ⟨State.setObj_obj_self hplaced hwf ⟨htier, hflags, hpins, hslice, hhome, hsize, hfirst, hcount, hoffset⟩,
        fun k hk => State.setObj_obj_other hplaced huncorr hsingle hk⟩⟩

end Sys2Proof.Machine
end

section
/-! SUPPORT. Lanes and channels (R261, R266 to R268): marked lanes, failing and retired channels, and refresh. -/

namespace Sys2Proof.Machine

/-! ### Lanes -/

theorem exec_laneMark {s : State} {ch lane : Nat} {training : Bool} (hch : ch < 1536) (hlane : lane < 18)
    (hmark : (s.memCh ch).mark = none) (hdue : training = true ∨ NSet.has (s.memCh ch).due lane = true) :
    exec (.laneMark ch lane training) s = .next
      (((s.setMemCh ch { s.memCh ch with mark := some lane }).event 2 St.memLaneMarked (memWhere ch) 0).repairChanged) := by
  refine congrArg _ (if_neg ?_)
  rintro (hplace | hwide | hmarked | ⟨htraining, hfew⟩)
  · exact Nat.not_lt.2 hplace hch
  · exact Nat.not_lt.2 hwide hlane
  · simp [hmark] at hmarked
  · simp [htraining, hfew] at hdue

/-- The 64th error of a lane within a second makes it due. -/
theorem MemCh.noteLane_due {c : MemCh} {now lane : Nat}
    (h : 63 ≤ (c.laneErrs.filter fun x => decide (now < x.1 + 1000000000) && x.2 == lane).length) :
    NSet.has (c.noteLane now lane).due lane = true := by
  have hcount : 64 ≤ (((now, lane) :: (c.fresh now).laneErrs).filter fun x => x.2 == lane).length := by
    rw [List.filter_cons_of_pos (by simp), MemCh.fresh, List.filter_filter, List.length_cons]
    simpa [Bool.and_comm] using h
  simp only [MemCh.noteLane, hcount, if_true, NSet.has_add, beq_self_eq_true, Bool.true_or]

/-- The 16th uncorrectable error within a second fails the channel. -/
theorem MemCh.noteUncorr_failed {c : MemCh} {now : Nat}
    (h : 15 ≤ (c.uncorrAt.filter fun t => decide (now < t + 1000000000)).length) : (c.noteUncorr now).failed = true := by
  have hcount : 16 ≤ (now :: (c.fresh now).uncorrAt).length := Nat.succ_le_succ h
  simp only [MemCh.noteUncorr, hcount, decide_true, Bool.or_true]

/-! ### Which channels are retired -/

theorem MemCh.failing_of {c : MemCh} {training : Bool}
    (h : training = true ∨ c.failed = true ∨ ∃ m, c.mark = some m ∧ ∃ l ∈ c.due, l ≠ m) : c.failing training = true := by
  rcases h with h | h | ⟨m, hm, l, hl, hne⟩
  · simp [MemCh.failing, h]
  · simp [MemCh.failing, h]
  · simp only [MemCh.failing, hm, Bool.or_eq_true, List.any_eq_true]
    exact .inr ⟨l, hl, by simpa using hne⟩

theorem exec_channelRetire_retired {s : State} {ch : Nat} (training : Bool) (h : s.chanRetired ch = true) :
    exec (.channelRetire ch training) s = .next s := congrArg Host.Outcome.next (if_pos (.inr (.inr h)))

/-- The state of a module that cannot retire a channel that must be: the channel's count begins anew, and the module cannot hold
its memory. -/
def State.exhaust (s : State) (ch : Nat) : State :=
  let s1 := s.setMemCh ch { s.memCh ch with
    uncorrAt := []
    failed := false }
  { s1 with mem := { s1.mem with exhausted := true } }

theorem State.exhaust_memCh (s : State) (ch k : Nat) :
    (s.exhaust ch).memCh k = (s.setMemCh ch { s.memCh ch with
      uncorrAt := []
      failed := false }).memCh k := rfl

section
variable {s : State} {ch : Nat} {training : Bool} (hch : ch < 1536) (hfailing : (s.memCh ch).failing training = true)
  (hnew : s.chanRetired ch = false)
include hch hfailing hnew

/-- A channel that must be retired is, where the module can. -/
theorem exec_channelRetire : exec (.channelRetire ch training) s = .next (
    if s.regs.flag Reg.MEM_RETIRE_CTL_ENABLE = false ∨ s.regs.flag Reg.MEM_RETIRE_STATUS_USED = true then
      ((s.exhaust ch).event 2 St.memRetireExhausted (memWhere ch) 0).cause 5
    else ((s.retireChannel ch).event 2 St.memChannelRetired (memWhere ch) 0).repairChanged) := by
  refine congrArg _ (if_neg ?_)
  rintro (hplace | hsound | hretired)
  · exact Nat.not_lt.2 hplace hch
  · exact ne_false_of_eq_true hfailing hsound
  · exact ne_true_of_eq_false hnew hretired

theorem exec_channelRetire_exhausted
    (h : s.regs.flag Reg.MEM_RETIRE_CTL_ENABLE = false ∨ s.regs.flag Reg.MEM_RETIRE_STATUS_USED = true) :
    exec (.channelRetire ch training) s = .next (((s.exhaust ch).event 2 St.memRetireExhausted (memWhere ch) 0).cause 5) := by
  rw [exec_channelRetire hch hfailing hnew, if_pos h]

theorem exec_channelRetire_retires (henable : s.regs.flag Reg.MEM_RETIRE_CTL_ENABLE = true)
    (hunused : s.regs.flag Reg.MEM_RETIRE_STATUS_USED = false) : exec (.channelRetire ch training) s =
      .next ((s.retireChannel ch).event 2 St.memChannelRetired (memWhere ch) 0).repairChanged := by
  rw [exec_channelRetire hch hfailing hnew,
    if_neg (not_or.2 ⟨ne_false_of_eq_true henable, ne_true_of_eq_false hunused⟩)]

end

/-! ### The retirement -/

/-- The area that takes a channel's granules: one of another die. -/
def retireArea (ch : Nat) : Nat := if ch / 128 / 3 = 0 ∨ ch / 128 / 3 = 3 then 1 else 0

/-- MEM_RETIRE_STATUS once a channel has been retired. -/
def RegFile.retire (r : RegFile) (ch : Nat) : RegFile :=
  (((r.set Reg.MEM_RETIRE_STATUS_USED 1).set Reg.MEM_RETIRE_STATUS_STACK (ch / 128)).set Reg.MEM_RETIRE_STATUS_CHANNEL
    (ch % 128)).set Reg.MEM_RETIRE_STATUS_AREA (retireArea ch)

section
variable (r : RegFile) (ch : Nat)

theorem RegFile.retire_used : (r.retire ch).get Reg.MEM_RETIRE_STATUS_USED = 1 := by
  rw [RegFile.retire, RegFile.get_set_other _ _ _ _ (.inr (by decide)) (by decide),
    RegFile.get_set_other _ _ _ _ (.inr (by decide)) (by decide),
    RegFile.get_set_other _ _ _ _ (.inr (by decide)) (by decide), RegFile.get_set_self _ _ _ (by decide)]
  rfl

theorem RegFile.retire_stack (h : ch < 1536) : (r.retire ch).get Reg.MEM_RETIRE_STATUS_STACK = ch / 128 := by
  rw [RegFile.retire, RegFile.get_set_other _ _ _ _ (.inr (by decide)) (by decide),
    RegFile.get_set_other _ _ _ _ (.inr (by decide)) (by decide), RegFile.get_set_self _ _ _ (by decide)]
  exact Nat.mod_eq_of_lt (show ch / 128 < 16 by omega)

theorem RegFile.retire_channel : (r.retire ch).get Reg.MEM_RETIRE_STATUS_CHANNEL = ch % 128 := by
  rw [RegFile.retire, RegFile.get_set_other _ _ _ _ (.inr (by decide)) (by decide), RegFile.get_set_self _ _ _ (by decide)]
  exact Nat.mod_mod _ _

theorem RegFile.retire_area : (r.retire ch).get Reg.MEM_RETIRE_STATUS_AREA = retireArea ch := by
  rw [RegFile.retire, RegFile.get_set_self _ _ _ (by decide)]
  unfold retireArea
  split <;> rfl

end

theorem State.each_emit (s : State) (l : List Output) : s.each l State.emit = { s with out := l.reverse ++ s.out } := by
  induction l generalizing s with
  | nil => rfl
  | cons o l ih =>
    refine (ih (s.emit o)).trans ?_
    rw [List.reverse_cons, List.append_assoc]
    rfl

section
variable (s : State) (ch : Nat)

theorem State.retireChannel_regs : (s.retireChannel ch).regs = s.regs.retire ch := by
  unfold State.retireChannel
  rw [State.each_emit]
  rfl

theorem State.retireChannel_tiles : (s.retireChannel ch).tiles = s.tiles := by
  unfold State.retireChannel
  rw [State.each_emit]
  rfl

theorem State.retireChannel_poisoning : (s.retireChannel ch).mem.poisoning = true := by
  unfold State.retireChannel
  rw [State.each_emit]

theorem State.retireChannel_slots : ((s.retireChannel ch).memCh ch).slots = [] := by
  unfold State.retireChannel
  rw [State.each_emit]
  exact congrArg MemCh.slots (Tbl.get_put_self _ _ _ _)

end

/-- A granule of the retired channel lies in the area. -/
theorem RegFile.home_of_retired {r : RegFile} {a : Nat} (hused : r.get Reg.MEM_RETIRE_STATUS_USED = 1)
    (hstack : (locate a).stack = r.get Reg.MEM_RETIRE_STATUS_STACK)
    (hchannel : (locate a).channel = r.get Reg.MEM_RETIRE_STATUS_CHANNEL) :
    r.home a = areaBase (r.get Reg.MEM_RETIRE_STATUS_AREA) + 256 * (locate a).granule + a % 256 :=
  if_pos ⟨hused, hstack, hchannel⟩

/-! ### Refresh -/

theorem refreshInterval_le (code : Nat) : refreshInterval code ≤ 3900 := by
  unfold refreshInterval
  split <;> decide

theorem exec_bankRefresh {s : State} {ch bank : Nat} (hch : ch < 1536) (hbank : bank < 16) (hself : s.mem.selfRefresh = false)
    (hoff : s.mem.off = false) (hdue : Tbl.get s.mem.refreshed 0 (ch * 16 + bank) + 3900 ≤ s.now) :
    exec (.bankRefresh ch bank) s =
      .next { s with mem := { s.mem with refreshed := Tbl.put s.mem.refreshed (ch * 16 + bank) s.now } } := by
  refine congrArg _ (if_neg ?_)
  have hinterval := refreshInterval_le (s.regs.getAt Reg.MEM_STACK_STATUS_REFRESH (ch / 128))
  rintro (hplace | hplace | hrefresh | hdark | hearly)
  · omega
  · omega
  · exact ne_true_of_eq_false hself hrefresh
  · exact ne_true_of_eq_false hoff hdark
  · omega

/-- Settles O39: a lane or channel is judged by its errors of the last second, and a retirement sets the fields that move the
channel's granules. -/
theorem lanesAndChannels : Obligations.LanesAndChannels := by
  unfold Obligations.LanesAndChannels
  intro s ch hch c
  refine ⟨fun lane training hlane hmark hdue => exec_laneMark hch hlane hmark hdue, fun now lane => MemCh.noteLane_due,
    fun now => MemCh.noteUncorr_failed, fun training => exec_channelRetire_retired training,
    fun training hnew hmust => ⟨fun hcannot => ?_, fun henable hunused => ?_⟩, fun hpoisoning => congrArg _ (if_pos hpoisoning),
    fun bank hbank hself hoff hdue => exec_bankRefresh hch hbank hself hoff hdue⟩
  · refine ⟨s.exhaust ch, exec_channelRetire_exhausted hch (MemCh.failing_of hmust) hnew hcannot, rfl, rfl, ?_, fun k hk => ?_⟩
    · rw [State.exhaust_memCh, State.memCh_setMemCh_self]
    · rw [State.exhaust_memCh, State.memCh_setMemCh_other _ _ (Ne.symm hk)]
  · refine ⟨_, exec_channelRetire_retires hch (MemCh.failing_of hmust) hnew henable hunused, ?_⟩
    have hframe := (s.retireChannel ch).post_accessFrame ⟨St.memChannelRetired, 0, 2, memWhere ch, 0⟩
    obtain ⟨hused, hstack, hchannel, harea⟩ := hframe.retireStatus
    rw [State.retireChannel_regs, RegFile.retire_used] at hused
    rw [State.retireChannel_regs, RegFile.retire_stack _ _ hch] at hstack
    rw [State.retireChannel_regs, RegFile.retire_channel] at hchannel
    rw [State.retireChannel_regs, RegFile.retire_area] at harea
    have hdie : retireArea ch = if ch / 384 = 0 ∨ ch / 384 = 3 then 1 else 0 := by
      rw [retireArea, Nat.div_div_eq_div_mul]
    refine ⟨beq_iff_eq.2 hused, hstack, hchannel, harea.trans hdie, ?_, ?_, rfl, ?_, fun a ha hlow => ?_⟩
    · exact (congrArg MemSt.poisoning (State.post_mem _ _)).trans (s.retireChannel_poisoning ch)
    · exact (hframe.slots ch).trans (s.retireChannel_slots ch)
    · exact hframe.tiles.trans (s.retireChannel_tiles ch)
    · unfold Loc.chan at ha
      refine (RegFile.home_of_retired hused (by rw [hstack]; omega) (by rw [hchannel]; omega)).trans ?_
      rw [harea, hdie]
      split <;> rfl

end Sys2Proof.Machine
end

section
/-! SUPPORT. Traffic generators (R271 to R273, R289): a start on each selected channel, one pass, and a check that finds
nothing. -/

namespace Sys2Proof.Machine

/-! ### The control word -/

/-- A field of a control word that START and the fields beside it do not touch. -/
theorem bitsOf_tgFields (v : Nat) {hi lo : Nat} (hlo : 0 < lo) (hhi : hi < 24) :
    bitsOf (tgFields v) hi lo = bitsOf v hi lo := by
  rw [tgFields, bitsOf_setBits_below _ _ _ _ _ _ (by omega), bitsOf_setBits_below _ _ _ _ _ _ hhi,
    bitsOf_setBits_above _ _ _ _ _ _ le_rfl hlo]

/-! ### Starting -/

/-- A generator once a start has been tried: refused, or begun unless it is to make no pass. -/
def Gen.started (g : Gen) (v : Nat) (refused : Bool) : Gen :=
  if refused then { g with
    ctl := tgFields v
    code := St.tgLive }
  else { g with
    ctl := tgFields v
    code := St.ok
    lanes := 0
    errors := 0
    corrections := 0
    running := decide (bitsOf v 23 8 ≠ 0) }

/-- Is a start on the channel refused: live traffic, or ORDER 3? -/
def State.tgRefuses (s : State) (v c : Nat) : Bool := (s.locked && !s.chanRetired c) || bitsOf v 6 5 == 3

theorem State.tgRefuses_iff (s : State) (v c : Nat) :
    s.tgRefuses v c = true ↔ (s.locked = true ∧ s.chanRetired c = false ∨ bitsOf v 6 5 = 3) := by
  simp [State.tgRefuses]

/-- A start changes one channel's generator, where it is not running. -/
theorem State.tgStart_eq (s : State) (v c : Nat) : s.tgStart v c =
    if (s.memCh c).gen.running then s
    else s.setMemCh c { s.memCh c with gen := (s.memCh c).gen.started v (s.tgRefuses v c) } := by
  have horder : bitsOf (tgFields v) 6 5 = bitsOf v 6 5 := bitsOf_tgFields v (by decide) (by decide)
  have hpasses : bitsOf (tgFields v) 23 8 = bitsOf v 23 8 := bitsOf_tgFields v (by decide) (by decide)
  simp only [State.tgStart, Gen.order, Gen.passes, horder, hpasses, ← State.tgRefuses_iff]
  refine if_congr Iff.rfl rfl ?_
  unfold Gen.started
  split <;> rfl

/-- What a start leaves alone: the memory, the registers and the other channels. -/
theorem State.tgStart_frame (s : State) (v c : Nat) : (s.tgStart v c).stack = s.stack ∧ (s.tgStart v c).regs = s.regs ∧
    ∀ k, k ≠ c → (s.tgStart v c).memCh k = s.memCh k := by
  rw [State.tgStart_eq]
  split
  · exact ⟨rfl, rfl, fun _ _ => rfl⟩
  · exact ⟨rfl, rfl, fun k hk => State.memCh_setMemCh_other _ _ (Ne.symm hk)⟩

theorem State.tgStart_self {s : State} (v : Nat) {c : Nat} (h : (s.memCh c).gen.running = false) :
    (s.tgStart v c).memCh c = { s.memCh c with gen := (s.memCh c).gen.started v (s.tgRefuses v c) } := by
  rw [State.tgStart_eq, if_neg (ne_true_of_eq_false h), State.memCh_setMemCh_self]

theorem State.tgRefuses_congr {s t : State} (h : t.regs = s.regs) (v c : Nat) : t.tgRefuses v c = s.tgRefuses v c := by
  simp only [State.tgRefuses, State.locked, State.chanRetired, h]

section
variable (v : Nat) (s : State) {l : List Nat}

/-- Starts on several channels leave all else alone. -/
theorem State.tgStarts_frame (l : List Nat) :
    (s.each l fun s c => s.tgStart v c).stack = s.stack ∧ (s.each l fun s c => s.tgStart v c).regs = s.regs ∧
      ∀ k, k ∉ l → (s.each l fun s c => s.tgStart v c).memCh k = s.memCh k := by
  induction l generalizing s with
  | nil => exact ⟨rfl, rfl, fun _ _ => rfl⟩
  | cons c l ih =>
    obtain ⟨hstack, hregs, hother⟩ := ih (s.tgStart v c)
    obtain ⟨hstack', hregs', hother'⟩ := s.tgStart_frame v c
    refine ⟨hstack.trans hstack', hregs.trans hregs', fun k hk => ?_⟩
    rw [List.mem_cons, not_or] at hk
    exact (hother k hk.2).trans (hother' k hk.1)

/-- Each channel of several takes its own start. -/
theorem State.tgStarts_self (hl : l.Nodup) {c : Nat} (hc : c ∈ l) (h : (s.memCh c).gen.running = false) :
    (s.each l fun s c => s.tgStart v c).memCh c =
      { s.memCh c with gen := (s.memCh c).gen.started v (s.tgRefuses v c) } := by
  induction l generalizing s with
  | nil => simp at hc
  | cons k l ih =>
    obtain ⟨hnot, hl⟩ := List.nodup_cons.1 hl
    rcases List.mem_cons.1 hc with rfl | hc
    · exact ((State.tgStarts_frame v (s.tgStart v c) l).2.2 c hnot).trans (State.tgStart_self v h)
    · obtain ⟨-, hregs, hother⟩ := s.tgStart_frame v k
      have hkept := hother c fun hck => hnot (hck ▸ hc)
      have hrest := ih (s.tgStart v k) hl hc (by rw [hkept]; exact h)
      rw [hkept, State.tgRefuses_congr hregs] at hrest
      exact hrest

end

theorem State.tgChannels_nodup (s : State) : s.tgChannels.Nodup := by
  unfold State.tgChannels
  dsimp only
  split
  · exact List.nodup_nil
  · split
    · exact List.nodup_range.map fun _ _ h => Nat.add_left_cancel h
    · exact List.nodup_singleton _

theorem exec_tgStart (s : State) (v : Nat) : exec (.tgStart v) s = .next (s.each s.tgChannels fun s c => s.tgStart v c) := rfl

/-! ### Running -/

theorem exec_tgRunDone {s : State} {channel : Nat} (wrong : List (Nat × Nat)) (h : (s.memCh channel).gen.running = true) :
    let g := (s.memCh channel).gen
    let acc := g.accesses channel
    let r := (List.range g.passes).foldl (fun (r : Gen × State) i => r.2.tgPass channel acc wrong r.1 (i * acc.length)) (g, s)
    exec (.tgRunDone channel wrong) s =
      .next (r.2.setMemCh channel { r.2.memCh channel with gen := { r.1 with running := false } }) :=
  congrArg Host.Outcome.next (if_neg (ne_false_of_eq_true h))

section
variable (s : State) (channel : Nat) (acc : List (Nat × List Byte)) (wrong : List (Nat × Nat)) {g : Gen} (from_ : Nat)

theorem State.tgPass_write (h : g.op = 0) : s.tgPass channel acc wrong g from_ = (g, s.tgWrite channel acc) := by
  simp [State.tgPass, h]

theorem State.tgPass_check (h : g.op = 1) : s.tgPass channel acc wrong g from_ = (s.tgCheck g channel acc wrong from_, s) := by
  simp [State.tgPass, h]

theorem State.tgPass_both (h : g.op = 2) : s.tgPass channel acc wrong g from_ =
    ((s.tgWrite channel acc).tgCheck g channel acc wrong from_, s.tgWrite channel acc) := by
  simp [State.tgPass, h]

end

/-! ### A check that finds nothing -/

/-- An access differs from itself on no lane. -/
theorem diffLanes_self (b : List Byte) : diffLanes b b = 0 := by
  have hbeats (l : List Nat) : ((l.zip l).foldl (fun m p => m ||| (p.1 ^^^ p.2)) 0) = 0 := by
    induction l with
    | nil => rfl
    | cons x l ih =>
      rw [List.zip_cons_cons, List.foldl_cons, Nat.xor_self, Nat.or_zero]
      exact ih
  simp only [diffLanes, hbeats]

theorem Gen.check_clean {g : Gen} (mark : Option Nat) {cell : GenCell} {want : List Byte} (f : Nat) (hraw : g.raw = false)
    (hhurt : cell.hurt = 0) (hbytes : cell.bytes = want) : g.check mark cell want 0 f = g := by
  have hnone : oneLane 0 = none := rfl
  have hsame : diffLanes cell.bytes want = 0 := by rw [hbytes, diffLanes_self]
  unfold Gen.check
  simp only [hraw, hhurt, hsame, hnone, Nat.zero_mod, Nat.zero_or, Nat.or_zero, Bool.not_false, Bool.and_false,
    Bool.false_eq_true, if_false, if_true]

/-- Settles O41: a start changes each selected generator by itself, and a pass does its writes before its checks. -/
theorem trafficGenerators : Obligations.TrafficGenerators := by
  unfold Obligations.TrafficGenerators
  intro s
  refine ⟨fun v => ?_, fun channel wrong => exec_tgRunDone wrong, fun channel acc wrong g from_ =>
      ⟨s.tgPass_write channel acc wrong from_, s.tgPass_check channel acc wrong from_, s.tgPass_both channel acc wrong from_⟩,
    fun g mark cell want f => Gen.check_clean mark f⟩
  obtain ⟨hstack, hregs, hother⟩ := State.tgStarts_frame v s s.tgChannels
  refine ⟨_, exec_tgStart s v, hstack, hregs, hother, fun c hc hidle => ?_⟩
  rw [State.tgStarts_self v s s.tgChannels_nodup hc hidle, ← State.tgRefuses_iff]
  exact ⟨fun h => by rw [h]; rfl, fun h => by rw [Bool.eq_false_iff.2 h]; rfl⟩

end Sys2Proof.Machine
end

section
/-! SUPPORT. Stack temperatures (R261, R262): the state that a temperature puts a stack in, what one reading shows of its stack,
and a sample as its readings one after another, of which each changes its own stack and the first at 110 °C begins the safe
state. -/

namespace Sys2Proof.Machine

/-! ### The state of a stack -/

theorem foldl_max_succ_le {l : List Nat} {a m : Nat} :
    l.foldl (fun m k => max m (k + 1)) a ≤ m ↔ a ≤ m ∧ ∀ k ∈ l, k + 1 ≤ m := by
  induction l generalizing a with
  | nil => simp
  | cons x l ih => rw [List.foldl_cons, ih, Nat.max_le, List.forall_mem_cons, and_assoc]

/-- A stack is in a state or above it, or below: by the bounds that its temperature reaches, or stays within 2 °C of. -/
theorem tempState_le_iff {old t m : Nat} : tempState old t ≤ m ↔
    ∀ k b, tempBounds[k]? = some b → (b ≤ t ∨ (k < old ∧ b < t + 2)) → k + 1 ≤ m := by
  rw [tempState, foldl_max_succ_le]
  simp only [Nat.zero_le, true_and, List.mem_filter, List.mem_range, Bool.or_eq_true, Bool.and_eq_true, decide_eq_true_eq]
  constructor
  · intro h k b hb hreached
    obtain ⟨hk, -⟩ := List.getElem?_eq_some_iff.1 hb
    exact h k ⟨hk, by rwa [hb]⟩
  · rintro h k ⟨hk, hreached⟩
    have hb : tempBounds[k]? = some tempBounds[k] := List.getElem?_eq_getElem hk
    exact h k _ hb (by rwa [hb] at hreached)

theorem tempBounds_mono {j k b c : Nat} (hb : tempBounds[j]? = some b) (hc : tempBounds[k]? = some c) (h : j ≤ k) : b ≤ c := by
  have hsorted : tempBounds.Pairwise (· ≤ ·) := by decide
  obtain ⟨hj, rfl⟩ := List.getElem?_eq_some_iff.1 hb
  obtain ⟨hk, rfl⟩ := List.getElem?_eq_some_iff.1 hc
  exact hsorted.rel_get_of_le (a := ⟨j, hj⟩) (b := ⟨k, hk⟩) h

theorem tempState_reaches {old t k b : Nat} (hb : tempBounds[k]? = some b) (h : b ≤ t ∨ (k < old ∧ b < t + 2)) :
    k + 1 ≤ tempState old t := tempState_le_iff.1 le_rfl k b hb h

/-- A bound that is not reached, and was not or has been left by 2 °C, keeps a stack below its state. -/
theorem tempState_stays_below {old t k b : Nat} (hb : tempBounds[k]? = some b) (h : t + 2 ≤ b ∨ (old ≤ k ∧ t < b)) :
    tempState old t ≤ k := by
  rw [tempState_le_iff]
  intro j c hc hreached
  by_contra hle
  have hbc := tempBounds_mono hb hc (Nat.le_of_lt_succ (Nat.not_le.1 hle))
  omega

theorem tempState_le_four (old t : Nat) : tempState old t ≤ 4 := by
  rw [tempState_le_iff]
  intro k b hb _
  obtain ⟨hk, -⟩ := List.getElem?_eq_some_iff.1 hb
  exact hk

/-! ### What a stack shows -/

/-- What the registers and the controller hold of a stack's temperature. -/
structure StackView where
  temp : Nat
  refresh : Nat
  throttle : Nat
  last : Option Nat
  level : Option Nat

def State.view (s : State) (k : Nat) : StackView where
  temp := s.regs.getAt Reg.MEM_STACK_STATUS_TEMP k
  refresh := s.regs.getAt Reg.MEM_STACK_STATUS_REFRESH k
  throttle := s.regs.getAt Reg.MEM_STACK_STATUS_THROTTLE k
  last := Tbl.find s.mem.lastTemp k
  level := Tbl.find s.mem.tempLevel k

/-- The filtered temperature: the mean of a reading and the one before it. -/
def StackView.mean (v : StackView) (reading : Nat) : Nat := (v.last.getD reading + reading) / 2

/-- The state that a reading puts the stack in. -/
def StackView.next (v : StackView) (reading : Nat) : Nat := tempState (v.level.getD 0) (v.mean reading)

/-- What the stack shows after a reading. -/
def StackView.after (v : StackView) (reading : Nat) : StackView where
  temp := v.mean reading
  refresh := min (v.next reading) 2
  throttle := if 3 ≤ v.next reading then 1 else 0
  last := some reading
  level := some (v.next reading)

theorem RegFile.getAt_setAt_row (r : RegFile) {f g : Field} {i j : Nat} (v : Nat) (hplace : f.offset = g.offset)
    (hstride : f.stride = g.stride) (hpos : 0 < g.stride) (hw : f.width ≠ 0) (h : i ≠ j) :
    (r.setAt f i v).getAt g j = r.getAt g j := by
  refine r.getAt_setAt_other f g i j v (.inl fun he => h ?_) hw
  rw [hplace, hstride] at he
  exact Nat.eq_of_mul_eq_mul_left hpos (Nat.add_left_cancel he)

/-- MEM_STACK_STATUS of a stack at a temperature in a state. -/
def RegFile.showTemp (r : RegFile) (k temp new : Nat) : RegFile :=
  (((r.setAt Reg.MEM_STACK_STATUS_TEMP k temp).setAt Reg.MEM_STACK_STATUS_REFRESH k (min new 2)).setAt
    Reg.MEM_STACK_STATUS_THROTTLE k (if 3 ≤ new then 1 else 0)).setAt Reg.MEM_STACK_STATUS_MAX_TEMP k
      (max temp (r.getAt Reg.MEM_STACK_STATUS_MAX_TEMP k))

section
variable (r : RegFile) {k temp new : Nat}

theorem RegFile.showTemp_temp (h : temp < 256) : (r.showTemp k temp new).getAt Reg.MEM_STACK_STATUS_TEMP k = temp := by
  rw [RegFile.showTemp, RegFile.getAt_setAt_other _ _ _ _ _ _ (.inr (by decide)) (by decide),
    RegFile.getAt_setAt_other _ _ _ _ _ _ (.inr (by decide)) (by decide),
    RegFile.getAt_setAt_other _ _ _ _ _ _ (.inr (by decide)) (by decide), RegFile.getAt_setAt_self _ _ _ _ (by decide)]
  exact Nat.mod_eq_of_lt h

theorem RegFile.showTemp_refresh : (r.showTemp k temp new).getAt Reg.MEM_STACK_STATUS_REFRESH k = min new 2 := by
  rw [RegFile.showTemp, RegFile.getAt_setAt_other _ _ _ _ _ _ (.inr (by decide)) (by decide),
    RegFile.getAt_setAt_other _ _ _ _ _ _ (.inr (by decide)) (by decide), RegFile.getAt_setAt_self _ _ _ _ (by decide)]
  exact Nat.mod_eq_of_lt (show min new 2 < 4 by omega)

theorem RegFile.showTemp_throttle :
    (r.showTemp k temp new).getAt Reg.MEM_STACK_STATUS_THROTTLE k = if 3 ≤ new then 1 else 0 := by
  rw [RegFile.showTemp, RegFile.getAt_setAt_other _ _ _ _ _ _ (.inr (by decide)) (by decide),
    RegFile.getAt_setAt_self _ _ _ _ (by decide)]
  split <;> rfl

theorem RegFile.showTemp_other {g : Field} {j : Nat} (hplace : g.offset = 0x200100) (hstride : g.stride = 8) (h : k ≠ j) :
    (r.showTemp k temp new).getAt g j = r.getAt g j := by
  have hrow (r : RegFile) {f : Field} (v : Nat) (hf : f.offset = 0x200100 ∧ f.stride = 8 ∧ f.width ≠ 0) :
      (r.setAt f k v).getAt g j = r.getAt g j :=
    r.getAt_setAt_row v (hf.1.trans hplace.symm) (hf.2.1.trans hstride.symm) (by omega) hf.2.2 h
  rw [RegFile.showTemp, hrow _ _ (by decide), hrow _ _ (by decide), hrow _ _ (by decide), hrow _ _ (by decide)]

end

/-! ### One reading -/

/-- The state with a reading shown, before any event. -/
def State.showTemp (s : State) (k reading : Nat) : State :=
  { s with
    regs := s.regs.showTemp k ((s.view k).mean reading) ((s.view k).next reading)
    mem := { s.mem with
      lastTemp := Tbl.put s.mem.lastTemp k reading
      tempLevel := Tbl.put s.mem.tempLevel k ((s.view k).next reading) } }

theorem State.showTemp_view_self (s : State) {k reading : Nat} (h : (s.view k).mean reading < 256) :
    (s.showTemp k reading).view k = (s.view k).after reading := by
  rw [State.view, State.showTemp]
  simp only [RegFile.showTemp_temp _ h, RegFile.showTemp_refresh, RegFile.showTemp_throttle, Tbl.find_put_self]
  rfl

theorem State.showTemp_view_other (s : State) {k j : Nat} (reading : Nat) (h : k ≠ j) :
    (s.showTemp k reading).view j = s.view j := by
  rw [State.view, State.showTemp]
  simp only [RegFile.showTemp_other (g := Reg.MEM_STACK_STATUS_TEMP) _ rfl rfl h,
    RegFile.showTemp_other (g := Reg.MEM_STACK_STATUS_REFRESH) _ rfl rfl h,
    RegFile.showTemp_other (g := Reg.MEM_STACK_STATUS_THROTTLE) _ rfl rfl h, Tbl.find_put_other _ _ h]
  rfl

/-- The throttle event of a stack that becomes hot. -/
def State.throttle (s : State) (k : Nat) : State :=
  (s.addRegAt Reg.MEM_STACK_STATUS_THROTTLE_EVENTS k 1).event 2 St.memThrottle k 0

/-- The state with a reading shown and its throttle event posted. -/
def State.warned (s : State) (k reading : Nat) : State :=
  if 3 ≤ (s.view k).next reading ∧ Tbl.get s.mem.tempLevel 0 k < 3 then (s.showTemp k reading).throttle k
  else s.showTemp k reading

theorem State.stackTemp_eq (s : State) (k reading : Nat) : s.stackTemp k reading =
    if 4 ≤ (s.view k).next reading ∧ (s.warned k reading).fab.trip = none ∧
        (s.warned k reading).regs.flag Reg.SAF_SAFE_STATUS_ACTIVE = false then
      (s.warned k reading).trip St.memOvertemp 4 false k 0
    else s.warned k reading := by
  have hmean : (Tbl.get s.mem.lastTemp reading k + reading) / 2 = (s.view k).mean reading := rfl
  have hnext : tempState (Tbl.get s.mem.tempLevel 0 k) ((s.view k).mean reading) = (s.view k).next reading := rfl
  unfold State.stackTemp State.warned State.throttle
  dsimp only
  rw [hmean, hnext]
  rfl

/-! ### What alarms leave alone -/

/-- The fields of MEM_STACK_STATUS that a view holds. -/
def Reg.viewFields : List Field := [Reg.MEM_STACK_STATUS_TEMP, Reg.MEM_STACK_STATUS_REFRESH, Reg.MEM_STACK_STATUS_THROTTLE]

theorem Reg.viewFields_outside : ∀ g ∈ Reg.viewFields, g.count = 12 ∧ g.outsideEventStatus := by
  unfold Field.outsideEventStatus Field.separate
  decide

/-- The fields of SAF_SAFE_STATUS. -/
def Reg.safeFields : List Field := [Reg.SAF_SAFE_STATUS_ACTIVE, Reg.SAF_SAFE_STATUS_CAUSE]

theorem Reg.safeFields_outside : ∀ g ∈ Reg.safeFields, g.count = 1 ∧ g.outsideEventStatus := by
  unfold Field.outsideEventStatus Field.separate
  decide

/-- The fields that alarms write share no bit with a view. -/
theorem Reg.alarms_separate_view : ∀ f ∈ Reg.MEM_STACK_STATUS_THROTTLE_EVENTS :: Reg.safeFields, ∀ g ∈ Reg.viewFields,
    f.separate g ∧ f.width ≠ 0 := by
  unfold Field.separate
  decide

/-- The fields of a stack share no bit with SAF_SAFE_STATUS. -/
theorem Reg.stack_separate_safe : ∀ f ∈ [Reg.MEM_STACK_STATUS_THROTTLE_EVENTS, Reg.MEM_STACK_STATUS_MAX_TEMP] ++ Reg.viewFields,
    f.count = 12 ∧ f.width ≠ 0 ∧ ∀ g ∈ Reg.safeFields, f.separate g := by
  unfold Field.separate
  decide

/-- What the alarms of a reading leave alone. -/
structure State.AlarmFrame (s t : State) : Prop where
  tiles : t.tiles = s.tiles
  stack : t.stack = s.stack
  view : ∀ k < 12, t.view k = s.view k

theorem State.AlarmFrame.refl (s : State) : s.AlarmFrame s := ⟨rfl, rfl, fun _ _ => rfl⟩

theorem State.AlarmFrame.trans {s t u : State} (h : s.AlarmFrame t) (h' : t.AlarmFrame u) : s.AlarmFrame u :=
  ⟨h'.tiles.trans h.tiles, h'.stack.trans h.stack, fun k hk => (h'.view k hk).trans (h.view k hk)⟩

theorem State.view_congr {s t : State} {k : Nat} (hlast : t.mem.lastTemp = s.mem.lastTemp)
    (hlevel : t.mem.tempLevel = s.mem.tempLevel) (hregs : ∀ g ∈ Reg.viewFields, t.regs.getAt g k = s.regs.getAt g k) :
    t.view k = s.view k := by
  rw [State.view, hlast, hlevel, hregs _ (by simp [Reg.viewFields]), hregs _ (by simp [Reg.viewFields]),
    hregs _ (by simp [Reg.viewFields])]
  rfl

theorem State.setRegAt_alarmFrame (s : State) {f : Field} {i : Nat} (v : Nat)
    (hf : f ∈ Reg.MEM_STACK_STATUS_THROTTLE_EVENTS :: Reg.safeFields) (hi : i < f.count) : s.AlarmFrame (s.setRegAt f i v) where
  tiles := rfl
  stack := rfl
  view k hk := State.view_congr rfl rfl fun g hg => by
    obtain ⟨hsep, hw⟩ := Reg.alarms_separate_view f hf g hg
    exact RegFile.getAt_setAt_separate _ _ hsep hw hi (by rwa [(Reg.viewFields_outside g hg).1])

theorem State.post_alarmFrame (s : State) (e : Ev) : s.AlarmFrame (s.post e) where
  tiles := s.post_tiles e
  stack := s.post_stack e
  view k hk := State.view_congr (by rw [State.post_mem]) (by rw [State.post_mem]) fun g hg => by
    obtain ⟨hcount, houtside⟩ := Reg.viewFields_outside g hg
    exact (s.post_accessFrame e).fields g houtside k (by rwa [hcount])

/-- What shows of a safe state: the trip that has begun it, ACTIVE and CAUSE. -/
def State.safety (s : State) : Option (Nat × Bool) × Bool × Nat :=
  (s.fab.trip, s.regs.flag Reg.SAF_SAFE_STATUS_ACTIVE, s.regs.get Reg.SAF_SAFE_STATUS_CAUSE)

theorem State.safety_congr {s t : State} (htrip : t.fab.trip = s.fab.trip)
    (hregs : ∀ g ∈ Reg.safeFields, t.regs.get g = s.regs.get g) : t.safety = s.safety := by
  rw [State.safety, htrip, RegFile.flag, hregs _ (by simp [Reg.safeFields]), hregs _ (by simp [Reg.safeFields])]
  rfl

theorem RegFile.get_setAt_stack (r : RegFile) {f g : Field} {i : Nat} (v : Nat)
    (hf : f ∈ [Reg.MEM_STACK_STATUS_THROTTLE_EVENTS, Reg.MEM_STACK_STATUS_MAX_TEMP] ++ Reg.viewFields) (hi : i < 12)
    (hg : g ∈ Reg.safeFields) : (r.setAt f i v).get g = r.get g := by
  obtain ⟨hcount, hw, hsep⟩ := Reg.stack_separate_safe f hf
  exact r.getAt_setAt_separate v (hsep g hg) hw (by rwa [hcount]) (by rw [(Reg.safeFields_outside g hg).1]; decide)

theorem RegFile.get_showTemp_safe (r : RegFile) {k temp new : Nat} {g : Field} (hk : k < 12) (hg : g ∈ Reg.safeFields) :
    (r.showTemp k temp new).get g = r.get g := by
  rw [RegFile.showTemp, RegFile.get_setAt_stack _ _ (by simp) hk hg,
    RegFile.get_setAt_stack _ _ (by simp [Reg.viewFields]) hk hg, RegFile.get_setAt_stack _ _ (by simp [Reg.viewFields]) hk hg,
    RegFile.get_setAt_stack _ _ (by simp [Reg.viewFields]) hk hg]

theorem State.showTemp_regs (s : State) (k reading : Nat) :
    (s.showTemp k reading).regs = s.regs.showTemp k ((s.view k).mean reading) ((s.view k).next reading) := rfl

@[simp] theorem State.showTemp_fab (s : State) (k reading : Nat) : (s.showTemp k reading).fab = s.fab := by
  rw [State.showTemp]
@[simp] theorem State.showTemp_tiles (s : State) (k reading : Nat) : (s.showTemp k reading).tiles = s.tiles := by
  rw [State.showTemp]
@[simp] theorem State.showTemp_stack (s : State) (k reading : Nat) : (s.showTemp k reading).stack = s.stack := by
  rw [State.showTemp]

theorem State.showTemp_safety (s : State) {k : Nat} (reading : Nat) (hk : k < 12) :
    (s.showTemp k reading).safety = s.safety := by
  refine State.safety_congr (by rw [State.showTemp_fab]) fun g hg => ?_
  rw [State.showTemp_regs, RegFile.get_showTemp_safe _ hk hg]

@[simp] theorem State.post_trip (s : State) (e : Ev) : (s.post e).fab.trip = s.fab.trip := by
  unfold State.post
  dsimp only
  split <;> rfl

theorem State.post_safety (s : State) (e : Ev) : (s.post e).safety = s.safety :=
  State.safety_congr (s.post_trip e) fun g hg => by
    obtain ⟨hcount, houtside⟩ := Reg.safeFields_outside g hg
    exact (s.post_accessFrame e).fields g houtside 0 (by rw [hcount]; decide)

/-! ### Alarms -/

theorem State.warned_alarmFrame (s : State) {k : Nat} (reading : Nat) (hk : k < 12) :
    (s.showTemp k reading).AlarmFrame (s.warned k reading) := by
  unfold State.warned
  split
  · exact (State.setRegAt_alarmFrame _ _ (by simp) hk).trans (State.post_alarmFrame _ _)
  · exact .refl _

theorem State.throttle_safety (s : State) {k : Nat} (hk : k < 12) : (s.throttle k).safety = s.safety :=
  (State.post_safety _ _).trans (State.safety_congr (by rw [State.addRegAt_fab]) fun _ hg =>
    RegFile.get_setAt_stack _ _ (by simp) hk hg)

theorem State.warned_safety (s : State) {k : Nat} (reading : Nat) (hk : k < 12) : (s.warned k reading).safety = s.safety := by
  unfold State.warned
  split
  · rw [State.throttle_safety _ hk, s.showTemp_safety reading hk]
  · exact s.showTemp_safety reading hk

/-- The safe state has begun on a stack's temperature. -/
def State.overheat (s : State) (k : Nat) : State :=
  let s1 := s.post ⟨St.memOvertemp, 0, 2, k, 0⟩
  ((({ s1 with fab := { s1.fab with trip := some (4, false) } }).setReg Reg.SAF_SAFE_STATUS_CAUSE 4).setFlag
    Reg.SAF_SAFE_STATUS_ACTIVE true).emit (.alert true)

theorem State.trip_eq_overheat {s : State} (k : Nat) (h : s.fab.trip = none) :
    s.trip St.memOvertemp 4 false k 0 = s.overheat k := by
  simp only [State.trip, State.event, if_true, State.post_trip, h, State.overheat]

theorem State.overheat_alarmFrame (s : State) (k : Nat) : s.AlarmFrame (s.overheat k) := by
  have hpost := s.post_alarmFrame ⟨St.memOvertemp, 0, 2, k, 0⟩
  have htrip : s.AlarmFrame { s.post ⟨St.memOvertemp, 0, 2, k, 0⟩ with
    fab := { (s.post ⟨St.memOvertemp, 0, 2, k, 0⟩).fab with trip := some (4, false) } } :=
    ⟨hpost.tiles, hpost.stack, hpost.view⟩
  have hcause := htrip.trans (State.setRegAt_alarmFrame _ (f := Reg.SAF_SAFE_STATUS_CAUSE) (i := 0) 4 (by simp [Reg.safeFields])
    (by decide))
  have hactive := hcause.trans (State.setRegAt_alarmFrame _ (f := Reg.SAF_SAFE_STATUS_ACTIVE) (i := 0) 1
    (by simp [Reg.safeFields]) (by decide))
  exact ⟨hactive.tiles, hactive.stack, hactive.view⟩

theorem State.overheat_safety (s : State) (k : Nat) : (s.overheat k).safety = (some (4, false), true, 4) := by
  have hactive (r : RegFile) : ((r.set Reg.SAF_SAFE_STATUS_CAUSE 4).setFlag Reg.SAF_SAFE_STATUS_ACTIVE true).flag
      Reg.SAF_SAFE_STATUS_ACTIVE = true := by
    rw [RegFile.flag, RegFile.setFlag, RegFile.get_set_self _ _ _ (by decide)]
    rfl
  have hcause (r : RegFile) : ((r.set Reg.SAF_SAFE_STATUS_CAUSE 4).setFlag Reg.SAF_SAFE_STATUS_ACTIVE true).get
      Reg.SAF_SAFE_STATUS_CAUSE = 4 := by
    rw [RegFile.setFlag, RegFile.get_set_other _ _ _ _ (.inr (by decide)) (by decide), RegFile.get_set_self _ _ _ (by decide)]
    rfl
  exact Prod.ext rfl (Prod.ext (hactive _) (hcause _))

/-! ### One reading and its alarms -/

/-- A reading shows in its stack, and begins the safe state where the stack is too hot and no safe state has begun. -/
theorem State.stackTemp_cases (s : State) (k reading : Nat) :
    (4 ≤ (s.view k).next reading ∧ (s.warned k reading).fab.trip = none ∧
        s.stackTemp k reading = (s.warned k reading).overheat k) ∨
      (¬ (4 ≤ (s.view k).next reading ∧ (s.warned k reading).fab.trip = none ∧
          (s.warned k reading).regs.flag Reg.SAF_SAFE_STATUS_ACTIVE = false) ∧
        s.stackTemp k reading = s.warned k reading) := by
  rw [State.stackTemp_eq]
  split
  · next h => exact .inl ⟨h.1, h.2.1, State.trip_eq_overheat k h.2.1⟩
  · next h => exact .inr ⟨h, rfl⟩

section
variable (s : State) {k : Nat} (reading : Nat) (hk : k < 12)
include hk

theorem State.stackTemp_alarmFrame : (s.showTemp k reading).AlarmFrame (s.stackTemp k reading) := by
  have hwarned := s.warned_alarmFrame reading hk
  rcases s.stackTemp_cases k reading with ⟨-, -, heq⟩ | ⟨-, heq⟩
  · rw [heq]
    exact hwarned.trans (State.overheat_alarmFrame _ k)
  · rwa [heq]

/-- A reading shows in its own stack. -/
theorem State.stackTemp_view_self (h : (s.view k).mean reading < 256) :
    (s.stackTemp k reading).view k = (s.view k).after reading := by
  rw [(s.stackTemp_alarmFrame reading hk).view k hk, State.showTemp_view_self _ h]

/-- A reading shows in no other stack. -/
theorem State.stackTemp_view_other {j : Nat} (hj : j < 12) (hne : k ≠ j) : (s.stackTemp k reading).view j = s.view j := by
  rw [(s.stackTemp_alarmFrame reading hk).view j hj, State.showTemp_view_other _ _ hne]

theorem State.warned_trip : (s.warned k reading).fab.trip = s.fab.trip := congrArg Prod.fst (s.warned_safety reading hk)

theorem State.warned_active :
    (s.warned k reading).regs.flag Reg.SAF_SAFE_STATUS_ACTIVE = s.regs.flag Reg.SAF_SAFE_STATUS_ACTIVE :=
  congrArg (fun x => x.2.1) (s.warned_safety reading hk)

/-- The first cause of a safe state stays. -/
theorem State.stackTemp_safety_begun (h : s.fab.trip ≠ none) : (s.stackTemp k reading).safety = s.safety := by
  rcases s.stackTemp_cases k reading with ⟨-, hnone, -⟩ | ⟨-, heq⟩
  · exact absurd ((s.warned_trip reading hk).symm.trans hnone) h
  · rw [heq, s.warned_safety reading hk]

theorem State.stackTemp_safety_cool (h : ¬ 4 ≤ (s.view k).next reading) : (s.stackTemp k reading).safety = s.safety := by
  rcases s.stackTemp_cases k reading with ⟨hhot, -, -⟩ | ⟨-, heq⟩
  · exact absurd hhot h
  · rw [heq, s.warned_safety reading hk]

/-- A stack at 110 °C begins the safe state. -/
theorem State.stackTemp_safety_hot (h : 4 ≤ (s.view k).next reading) (htrip : s.fab.trip = none)
    (hactive : s.regs.flag Reg.SAF_SAFE_STATUS_ACTIVE = false) :
    (s.stackTemp k reading).safety = (some (4, false), true, 4) := by
  rcases s.stackTemp_cases k reading with ⟨-, -, heq⟩ | ⟨hnot, -⟩
  · rw [heq, State.overheat_safety]
  · exact absurd ⟨h, (s.warned_trip reading hk).trans htrip, (s.warned_active reading hk).trans hactive⟩ hnot

end

/-! ### A sample

Readings are pairs of a stack and what its sensor reads. -/

/-- Readings of different stacks. -/
def DistinctStacks (l : List (Nat × Nat)) : Prop := (l.map Prod.fst).Nodup ∧ ∀ x ∈ l, x.1 < 12

theorem distinctStacks_cons {x : Nat × Nat} {l : List (Nat × Nat)} (h : DistinctStacks (x :: l)) :
    x.1 < 12 ∧ DistinctStacks l ∧ ∀ y ∈ l, x.1 ≠ y.1 := by
  obtain ⟨hnodup, hlt⟩ := h
  rw [List.map_cons, List.nodup_cons] at hnodup
  exact ⟨hlt x List.mem_cons_self, ⟨hnodup.2, fun y hy => hlt y (List.mem_cons_of_mem _ hy)⟩,
    fun y hy he => hnodup.1 (he ▸ List.mem_map_of_mem hy)⟩

/-- Several readings one after another. -/
def State.readTemps (s : State) (l : List (Nat × Nat)) : State := l.foldl (fun s x => s.stackTemp x.1 x.2) s

section
variable {l : List (Nat × Nat)}

theorem State.readTemps_frame (s : State) (hl : DistinctStacks l) :
    (s.readTemps l).tiles = s.tiles ∧ (s.readTemps l).stack = s.stack := by
  induction l generalizing s with
  | nil => exact ⟨rfl, rfl⟩
  | cons x l ih =>
    obtain ⟨hx, hl, -⟩ := distinctStacks_cons hl
    obtain ⟨htiles, hstack⟩ := ih (s.stackTemp x.1 x.2) hl
    have hframe := s.stackTemp_alarmFrame x.2 hx
    exact ⟨htiles.trans (hframe.tiles.trans (s.showTemp_tiles _ _)), hstack.trans (hframe.stack.trans (s.showTemp_stack _ _))⟩

theorem State.readTemps_view_other (s : State) (hl : DistinctStacks l) {k : Nat} (hk : k < 12) (hne : ∀ y ∈ l, k ≠ y.1) :
    (s.readTemps l).view k = s.view k := by
  induction l generalizing s with
  | nil => rfl
  | cons x l ih =>
    obtain ⟨hx, hl, -⟩ := distinctStacks_cons hl
    exact (ih (s.stackTemp x.1 x.2) hl fun y hy => hne y (List.mem_cons_of_mem _ hy)).trans
      (s.stackTemp_view_other x.2 hx hk (Ne.symm (hne x List.mem_cons_self)))

/-- Each reading of a sample shows in its own stack as it would alone. -/
theorem State.readTemps_view (s : State) (hl : DistinctStacks l) {x : Nat × Nat} (hx : x ∈ l)
    (hmean : (s.view x.1).mean x.2 < 256) : (s.readTemps l).view x.1 = (s.view x.1).after x.2 := by
  induction l generalizing s with
  | nil => simp at hx
  | cons y l ih =>
    obtain ⟨hy, hl', hne⟩ := distinctStacks_cons hl
    rcases List.mem_cons.1 hx with rfl | hx
    · exact (State.readTemps_view_other _ hl' hy hne).trans (s.stackTemp_view_self x.2 hy hmean)
    · have hkept := s.stackTemp_view_other y.2 hy (hl'.2 x hx) (hne x hx)
      have hrest := ih (s.stackTemp y.1 y.2) hl' hx (by rwa [hkept])
      rwa [hkept] at hrest

theorem State.readTemps_safety_begun (s : State) (hl : DistinctStacks l) (h : s.fab.trip ≠ none) :
    (s.readTemps l).safety = s.safety := by
  induction l generalizing s with
  | nil => rfl
  | cons x l ih =>
    obtain ⟨hx, hl, -⟩ := distinctStacks_cons hl
    have hstep := s.stackTemp_safety_begun x.2 hx h
    have htrip : (s.stackTemp x.1 x.2).fab.trip = s.fab.trip := congrArg Prod.fst hstep
    exact (ih (s.stackTemp x.1 x.2) hl (by rwa [htrip])).trans hstep

/-- The first stack of a sample that is too hot begins the safe state. -/
theorem State.readTemps_safety_hot (s : State) (hl : DistinctStacks l) (htrip : s.fab.trip = none)
    (hactive : s.regs.flag Reg.SAF_SAFE_STATUS_ACTIVE = false) {x : Nat × Nat} (hx : x ∈ l)
    (hhot : 4 ≤ (s.view x.1).next x.2) : (s.readTemps l).safety = (some (4, false), true, 4) := by
  induction l generalizing s with
  | nil => simp at hx
  | cons y l ih =>
    obtain ⟨hy, hl', hne⟩ := distinctStacks_cons hl
    by_cases hfirst : 4 ≤ (s.view y.1).next y.2
    · have hstep := s.stackTemp_safety_hot y.2 hy hfirst htrip hactive
      have hbegun : (s.stackTemp y.1 y.2).fab.trip = some (4, false) := congrArg Prod.fst hstep
      exact (State.readTemps_safety_begun _ hl' (by rw [hbegun]; nofun)).trans hstep
    · have hstep := s.stackTemp_safety_cool y.2 hy hfirst
      have hmem : x ∈ l := (List.mem_cons.1 hx).resolve_left fun he => hfirst (he ▸ hhot)
      have hkept := s.stackTemp_view_other y.2 hy (hl'.2 x hmem) (hne x hmem)
      exact ih (s.stackTemp y.1 y.2) hl' ((congrArg Prod.fst hstep).trans htrip)
        ((congrArg (fun z => z.2.1) hstep).trans hactive) hmem (by rwa [hkept])

end

/-! ### STACK_TEMP_SAMPLE -/

/-- A stack's reading in a sample. -/
def readingOf (temps : List Nat) (k : Nat) : Nat := (temps[k]?).getD 0

/-- The readings of a sample, each with its stack. -/
def sampleOf (temps : List Nat) : List (Nat × Nat) := (List.range 12).zip temps

section
variable {temps : List Nat} (hlen : temps.length = 12)
include hlen

theorem distinctStacks_sample : DistinctStacks (sampleOf temps) := by
  constructor
  · rw [sampleOf, List.map_fst_zip (by simp [hlen])]
    exact List.nodup_range
  · intro x hx
    exact List.mem_range.1 (List.of_mem_zip hx).1

theorem mem_sampleOf {k : Nat} (hk : k < 12) : (k, readingOf temps k) ∈ sampleOf temps := by
  have hk' : k < temps.length := by omega
  refine List.mem_iff_getElem.2 ⟨k, by simp [sampleOf, hlen, hk], ?_⟩
  simp [sampleOf, readingOf, hk']

theorem readingOf_lt (h : ∀ t ∈ temps, t < 256) {k : Nat} (hk : k < 12) : readingOf temps k < 256 := by
  rw [readingOf, List.getElem?_eq_getElem (by omega)]
  exact h _ (List.getElem_mem _)

end

theorem State.view_mean_lt {s : State} {k reading : Nat} (hlast : Tbl.get s.mem.lastTemp 0 k < 256) (h : reading < 256) :
    (s.view k).mean reading < 256 := by
  have hbefore : (s.view k).last.getD reading < 256 := by
    rw [State.view]
    unfold Tbl.get at hlast
    cases hfind : Tbl.find s.mem.lastTemp k with
    | none => exact h
    | some v => rwa [hfind] at hlast
  unfold StackView.mean
  omega

/-- A sample is its readings, and where they end a safe state on stack temperature, its end. -/
theorem exec_stackTempSample (s : State) (temps : List Nat) : ∃ s', exec (.stackTempSample temps) s = .next s' ∧
    (s' = s.readTemps (sampleOf temps) ∨
      ((s.readTemps (sampleOf temps)).fab.trip = none ∧ s' = (s.readTemps (sampleOf temps)).causeEnds)) := by
  generalize hs1 : s.readTemps (sampleOf temps) = s1
  have hexec : exec (.stackTempSample temps) s = .next (
      if s1.regs.flag Reg.SAF_SAFE_STATUS_ACTIVE ∧ s1.regs.get Reg.SAF_SAFE_STATUS_CAUSE = 4 ∧ s1.fab.trip = none ∧
        s1.stackStillHot = false then s1.causeEnds else s1) := by
    subst hs1
    rfl
  refine ⟨_, hexec, ?_⟩
  split
  · next h => exact .inr ⟨h.2.2.1, rfl⟩
  · exact .inl rfl

theorem State.causeEnds_alarmFrame (s : State) : s.AlarmFrame s.causeEnds := by
  have hactive := s.setRegAt_alarmFrame (f := Reg.SAF_SAFE_STATUS_ACTIVE) (i := 0) 0 (by simp [Reg.safeFields]) (by decide)
  exact ⟨rfl, rfl, fun k hk => hactive.view k hk⟩

/-- A sample shows each reading in its stack, and begins the safe state where one is too hot. -/
theorem stackTempSample_effect {s : State} {temps : List Nat} (hlen : temps.length = 12) (hreadings : ∀ t ∈ temps, t < 256)
    (hlast : ∀ k, Tbl.get s.mem.lastTemp 0 k < 256) :
    ∃ s', exec (.stackTempSample temps) s = .next s' ∧ s'.tiles = s.tiles ∧ s'.stack = s.stack ∧
      (∀ k < 12, s'.view k = (s.view k).after (readingOf temps k)) ∧
      (s.fab.trip = none → s.regs.flag Reg.SAF_SAFE_STATUS_ACTIVE = false →
        ∀ k < 12, 4 ≤ (s.view k).next (readingOf temps k) → s'.safety = (some (4, false), true, 4)) := by
  have hdistinct := distinctStacks_sample hlen
  obtain ⟨s', hexec, hs'⟩ := exec_stackTempSample s temps
  have hframe : (s.readTemps (sampleOf temps)).AlarmFrame s' := by
    rcases hs' with rfl | ⟨-, rfl⟩
    · exact .refl _
    · exact State.causeEnds_alarmFrame _
  obtain ⟨htiles, hstack⟩ := State.readTemps_frame s hdistinct
  refine ⟨s', hexec, hframe.tiles.trans htiles, hframe.stack.trans hstack, fun k hk => (hframe.view k hk).trans ?_,
    fun htrip hactive k hk hhot => ?_⟩
  · exact State.readTemps_view s hdistinct (mem_sampleOf hlen hk)
      (State.view_mean_lt (hlast k) (readingOf_lt hlen hreadings hk))
  · have hsafety := State.readTemps_safety_hot s hdistinct htrip hactive (mem_sampleOf hlen hk) hhot
    rcases hs' with rfl | ⟨hnone, -⟩
    · exact hsafety
    · have hbegun : (s.readTemps (sampleOf temps)).fab.trip = some (4, false) := congrArg Prod.fst hsafety
      rw [hbegun] at hnone
      exact absurd hnone nofun

end Sys2Proof.Machine
end

section
/-! SUPPORT. The patrol scrub (R269, R270): damage that reaches the memory, the accesses of one granule of each channel met one
after another, and the scrub's place. -/

namespace Sys2Proof.Machine

/-! ### Damage -/

theorem State.upsetAccess_frame (s : State) (w mask : Nat) : s.AccessFrame (s.upsetAccess w mask) ∧
    (s.upsetAccess w mask).stack.cells = s.stack.cells ∧ (s.upsetAccess w mask).stack.poison = s.stack.poison := by
  unfold State.upsetAccess
  split
  · exact ⟨.refl s, rfl, rfl⟩
  · exact ⟨s.setStack_accessFrame _ _ s.drawn, rfl, rfl⟩

/-- Damage leaves bytes and poison tags: it shows when it is met. -/
theorem State.upsetStack_frame (s : State) (l : List (Nat × List Nat)) : s.AccessFrame (s.upsetStack l) ∧
    (s.upsetStack l).stack.cells = s.stack.cells ∧ (s.upsetStack l).stack.poison = s.stack.poison := by
  refine foldl_keeps (P := fun t => s.AccessFrame t ∧ t.stack.cells = s.stack.cells ∧ t.stack.poison = s.stack.poison) ?_ l
    ⟨.refl s, rfl, rfl⟩
  rintro t x ⟨hframe, hcells, hpoison⟩
  obtain ⟨hframe', hcells', hpoison'⟩ := t.upsetAccess_frame (t.regs.placed (64 * x.1) / 64) (laneMask x.2)
  exact ⟨hframe.trans hframe', hcells'.trans hcells, hpoison'.trans hpoison⟩

/-! ### What is not poisoned stays -/

/-- Tags stay, and a byte that has changed is poisoned. -/
def Mem.KeptOrPoisoned (m m' : Mem) : Prop :=
  (∀ v, NSet.has m.poison v = true → NSet.has m'.poison v = true) ∧ ∀ a, m'.byte a ≠ m.byte a → m'.tag a = true

theorem Mem.KeptOrPoisoned.refl (m : Mem) : m.KeptOrPoisoned m := ⟨fun _ h => h, fun _ h => absurd rfl h⟩

theorem Mem.KeptOrPoisoned.trans {m m' m'' : Mem} (h : m.KeptOrPoisoned m') (h' : m'.KeptOrPoisoned m'') :
    m.KeptOrPoisoned m'' := by
  refine ⟨fun v hv => h'.1 v (h.1 v hv), fun a ha => ?_⟩
  by_cases hstep : m''.byte a = m'.byte a
  · exact h'.1 _ (h.2 a (by rwa [← hstep]))
  · exact h'.2 a hstep

theorem State.meetErrors_keptOrPoisoned (s : State) (flags a : Nat) :
    s.stack.KeptOrPoisoned (s.meetErrors flags a).stack := by
  refine ⟨fun v hv => ?_, fun c hc => ?_⟩
  · rw [State.meetErrors_poison rfl, hv, Bool.or_true]
  · have hplace : c / 64 = s.regs.placed a / 64 := by
      by_contra hne
      exact hc (State.meetErrors_byte_other rfl hne)
    have hbeyond : s.beyondCode (s.regs.placed a / 64) a = true := by
      by_contra hwithin
      exact hc (State.meetErrors_byte_within rfl (by simpa using hwithin) c)
    rw [Mem.tag, State.meetErrors_poison rfl, hbeyond, hplace]
    simp

/-! ### Meeting the errors of several accesses -/

/-- The accesses of a scrub read, met one after another. -/
def State.scrubAccesses (s : State) (l : List Nat) : State := l.foldl (fun s w => s.meetErrors 1 (64 * w)) s

theorem State.scrubAccesses_accessFrame (s : State) (l : List Nat) : s.AccessFrame (s.scrubAccesses l) :=
  .foldl (fun t _ => t.meetErrors_accessFrame _ _) s l

theorem State.scrubAccesses_keptOrPoisoned (s : State) (l : List Nat) :
    s.stack.KeptOrPoisoned (s.scrubAccesses l).stack :=
  foldl_keeps (P := fun t : State => s.stack.KeptOrPoisoned t.stack)
    (fun t _ ht => ht.trans (t.meetErrors_keptOrPoisoned _ _)) l (.refl _)

/-- Whether an access is beyond the code depends on its errors, its damaged lanes and its channel's mark. -/
theorem State.beyondCode_congr {s t : State} {w a : Nat} (hframe : s.AccessFrame t)
    (huncorr : NSet.has t.stack.uncorr w = NSet.has s.stack.uncorr w)
    (hsingle : NSet.has t.stack.single w = NSet.has s.stack.single w)
    (hlanes : Tbl.get t.mem.lanes 0 w = Tbl.get s.mem.lanes 0 w) : t.beyondCode w a = s.beyondCode w a := by
  simp only [State.beyondCode, State.hurtLanes, huncorr, hsingle, hlanes, hframe.chanOf, hframe.mark]

section
variable {s : State} (hplaced : ∀ a, s.regs.placed a = a)
include hplaced

theorem State.placed_access (v : Nat) : s.regs.placed (64 * v) / 64 = v := by
  rw [hplaced]
  omega

theorem State.meetErrors_placed (flags a c : Nat) : (s.meetErrors flags a).regs.placed c = c :=
  ((s.meetErrors_accessFrame flags a).placed c).trans (hplaced c)

theorem State.meetErrors_beyondCode_other {v w : Nat} (h : w ≠ v) (a : Nat) :
    (s.meetErrors 1 (64 * v)).beyondCode w a = s.beyondCode w a := by
  have hplace := State.placed_access hplaced v
  refine State.beyondCode_congr (s.meetErrors_accessFrame 1 (64 * v)) ?_ ?_ (State.meetErrors_lanes_other hplace h)
  · simp [State.meetErrors_uncorr hplace, h]
  · simp [State.meetErrors_single hplace, h]

theorem State.meetErrors_beyondCode_self (v a : Nat) : (s.meetErrors 1 (64 * v)).beyondCode v a = false := by
  have hplace := State.placed_access hplaced v
  simp [State.beyondCode, State.meetErrors_uncorr hplace, State.meetErrors_single hplace]

theorem State.scrubAccesses_errors (l : List Nat) (w : Nat) :
    NSet.has (s.scrubAccesses l).stack.uncorr w = (NSet.has s.stack.uncorr w && !l.contains w) ∧
      NSet.has (s.scrubAccesses l).stack.single w = (NSet.has s.stack.single w && !l.contains w) := by
  induction l generalizing s with
  | nil => simp [State.scrubAccesses]
  | cons v l ih =>
    have hplace := State.placed_access hplaced v
    obtain ⟨huncorr, hsingle⟩ := ih (s := s.meetErrors 1 (64 * v)) (State.meetErrors_placed hplaced 1 (64 * v))
    rw [State.meetErrors_uncorr hplace] at huncorr
    rw [State.meetErrors_single hplace] at hsingle
    rw [List.contains_cons, Bool.not_or, ← Bool.and_assoc, ← Bool.and_assoc]
    exact ⟨huncorr, hsingle⟩

/-- An access within the code's reach keeps its bytes. -/
theorem State.scrubAccesses_within {l : List Nat} {w : Nat} (h : s.beyondCode w (64 * w) = false) {a : Nat} (ha : a / 64 = w) :
    (s.scrubAccesses l).stack.byte a = s.stack.byte a := by
  induction l generalizing s with
  | nil => rfl
  | cons v l ih =>
    have hplace := State.placed_access hplaced v
    have hrest := ih (s := s.meetErrors 1 (64 * v)) (State.meetErrors_placed hplaced 1 (64 * v))
    by_cases hv : w = v
    · subst hv
      exact (hrest (State.meetErrors_beyondCode_self hplaced w _)).trans (State.meetErrors_byte_within hplace h a)
    · exact (hrest ((State.meetErrors_beyondCode_other hplaced hv _).trans h)).trans
        (State.meetErrors_byte_other hplace (by rwa [ha]))

/-- An access beyond the code is poisoned. -/
theorem State.scrubAccesses_beyond {l : List Nat} {w : Nat} (h : s.beyondCode w (64 * w) = true) (hw : w ∈ l) :
    NSet.has (s.scrubAccesses l).stack.poison w = true := by
  induction l generalizing s with
  | nil => simp at hw
  | cons v l ih =>
    have hplace := State.placed_access hplaced v
    by_cases hv : w = v
    · subst hv
      refine (State.scrubAccesses_keptOrPoisoned (s.meetErrors 1 (64 * w)) l).1 w ?_
      rw [State.meetErrors_poison hplace, h]
      simp
    · exact ih (State.meetErrors_placed hplaced 1 (64 * v)) ((State.meetErrors_beyondCode_other hplaced hv _).trans h)
        ((List.mem_cons.1 hw).resolve_left hv)

end

/-! ### One granule -/

/-- The next granule of every channel, read: the poisoned accesses are counted, and the errors of the others met. -/
def State.scrubGranule (s : State) : State :=
  ((s.inScrub s.stack.poison).foldl State.countPoisoned s).scrubAccesses (s.inScrub (s.stack.uncorr ++ s.stack.single))

theorem State.countPoisoned_foldl (s : State) (l : List Nat) : s.AccessFrame (l.foldl State.countPoisoned s) ∧
    (l.foldl State.countPoisoned s).stack = s.stack ∧ (l.foldl State.countPoisoned s).mem.lanes = s.mem.lanes :=
  foldl_keeps (P := fun t : State => s.AccessFrame t ∧ t.stack = s.stack ∧ t.mem.lanes = s.mem.lanes)
    (fun t w ht => ⟨ht.1.trans (t.countPoisoned_accessFrame w), ht.2⟩) l ⟨.refl s, rfl, rfl⟩

theorem State.scrubGranule_accessFrame (s : State) : s.AccessFrame s.scrubGranule :=
  (s.countPoisoned_foldl _).1.trans (State.scrubAccesses_accessFrame _ _)

theorem State.scrubGranule_keptOrPoisoned (s : State) : s.stack.KeptOrPoisoned s.scrubGranule.stack := by
  have hkept := State.scrubAccesses_keptOrPoisoned ((s.inScrub s.stack.poison).foldl State.countPoisoned s)
    (s.inScrub (s.stack.uncorr ++ s.stack.single))
  rwa [(s.countPoisoned_foldl _).2.1] at hkept

/-- An access of the granule that waits with errors is corrected, or poisoned where it is beyond the code. -/
theorem State.scrubGranule_hit {s : State} (hplaced : ∀ a, s.regs.placed a = a) {w : Nat}
    (hw : w ∈ s.inScrub (s.stack.uncorr ++ s.stack.single)) :
    NSet.has s.scrubGranule.stack.uncorr w = false ∧ NSet.has s.scrubGranule.stack.single w = false ∧
      (s.beyondCode w (64 * w) = true → NSet.has s.scrubGranule.stack.poison w = true) ∧
      (s.beyondCode w (64 * w) = false → ∀ a, a / 64 = w → s.scrubGranule.stack.byte a = s.stack.byte a) := by
  obtain ⟨hframe, hstack, hlanes⟩ := s.countPoisoned_foldl (s.inScrub s.stack.poison)
  unfold State.scrubGranule
  generalize (s.inScrub s.stack.poison).foldl State.countPoisoned s = t at hframe hstack hlanes ⊢
  have hplaced' : ∀ a, t.regs.placed a = a := fun a => (hframe.placed a).trans (hplaced a)
  have hbeyond : t.beyondCode w (64 * w) = s.beyondCode w (64 * w) :=
    State.beyondCode_congr hframe (by rw [hstack]) (by rw [hstack]) (by rw [hlanes])
  have hmet : (s.inScrub (s.stack.uncorr ++ s.stack.single)).contains w = true := List.contains_iff_mem.2 hw
  obtain ⟨huncorr, hsingle⟩ := State.scrubAccesses_errors hplaced' (s.inScrub (s.stack.uncorr ++ s.stack.single)) w
  rw [hmet, Bool.not_true, Bool.and_false] at huncorr hsingle
  refine ⟨huncorr, hsingle, fun h => State.scrubAccesses_beyond hplaced' (hbeyond.trans h) hw, fun h a ha => ?_⟩
  rw [State.scrubAccesses_within hplaced' (hbeyond.trans h) ha, hstack]

/-! ### PATROL_SCRUB_READ -/

/-- The scrub moves on from granule `l`. -/
def State.scrubMoves (s : State) (l : Nat) : State :=
  if l + 1 < 2097152 then s.setReg Reg.MEM_SCRUB_STATUS_POSITION (l + 1)
  else (s.setReg Reg.MEM_SCRUB_STATUS_POSITION 0).addReg Reg.MEM_SCRUB_STATUS_PASSES 1

/-- The time of a scrub's read is noted. -/
def State.scrubTimed (s : State) : State := { s with mem := { s.mem with scrubbed := s.now } }

section
variable (s : State)

@[simp] theorem State.scrubTimed_regs : s.scrubTimed.regs = s.regs := rfl
@[simp] theorem State.scrubTimed_stack : s.scrubTimed.stack = s.stack := rfl
@[simp] theorem State.scrubTimed_tiles : s.scrubTimed.tiles = s.tiles := rfl
@[simp] theorem State.scrubTimed_scrubbed : s.scrubTimed.mem.scrubbed = s.now := rfl
@[simp] theorem State.scrubTimed_inScrub (l : List Nat) : s.scrubTimed.inScrub l = s.inScrub l := rfl
@[simp] theorem State.scrubTimed_beyondCode (w a : Nat) : s.scrubTimed.beyondCode w a = s.beyondCode w a := rfl

end

theorem exec_patrolScrubRead_early {s : State} (upsets : List (Nat × List Nat))
    (h : s.now < s.mem.scrubbed + s.regs.scrubInterval) : exec (.patrolScrubRead upsets) s = .next s :=
  congrArg Host.Outcome.next (if_pos (.inr (.inr (.inr h))))

theorem exec_patrolScrubRead {s : State} (upsets : List (Nat × List Nat)) (hmay : s.scrubMay = true)
    (hself : s.mem.selfRefresh = false) (hoff : s.mem.off = false) (hdue : s.mem.scrubbed + s.regs.scrubInterval ≤ s.now) :
    let s3 := (s.scrubTimed.upsetStack upsets).scrubGranule
    exec (.patrolScrubRead upsets) s =
      .next ((s3.markGranules (s3.inScrub s3.stack.poison)).scrubMoves (s.regs.get Reg.MEM_SCRUB_STATUS_POSITION)) := by
  refine congrArg Host.Outcome.next (if_neg ?_)
  rintro (hbusy | hrefresh | hdark | hearly)
  · exact ne_false_of_eq_true hmay hbusy
  · exact ne_true_of_eq_false hself hrefresh
  · exact ne_true_of_eq_false hoff hdark
  · exact Nat.not_lt.2 hdue hearly

/-! ### The scrub's place -/

@[simp] theorem State.markGranules_stack (s : State) (gs : List Nat) : (s.markGranules gs).stack = s.stack := by
  unfold State.markGranules
  split <;> rfl

theorem State.scrubMoves_frame (s : State) (l : Nat) : (s.scrubMoves l).stack = s.stack ∧ (s.scrubMoves l).tiles = s.tiles ∧
    (s.scrubMoves l).mem = s.mem := by
  unfold State.scrubMoves
  split
  · exact ⟨State.setReg_stack _ _ _, State.setReg_tiles _ _ _, State.setReg_mem _ _ _⟩
  · rw [State.addReg_stack, State.addReg_tiles, State.addReg_mem]
    exact ⟨State.setReg_stack _ _ _, State.setReg_tiles _ _ _, State.setReg_mem _ _ _⟩

/-- From the last granule the scrub goes back to the first. -/
theorem State.scrubMoves_position (s : State) {l : Nat} (h : l < 2097152) :
    (s.scrubMoves l).regs.get Reg.MEM_SCRUB_STATUS_POSITION = if l = 2097151 then 0 else l + 1 := by
  have hset (r : RegFile) {v : Nat} (hv : v < 2097152) :
      (r.set Reg.MEM_SCRUB_STATUS_POSITION v).get Reg.MEM_SCRUB_STATUS_POSITION = v :=
    (r.get_set_self _ _ (by decide)).trans (Nat.mod_eq_of_lt hv)
  unfold State.scrubMoves
  split
  · next hnext =>
    rw [if_neg (by omega)]
    exact hset _ hnext
  · next hlast =>
    rw [if_pos (by omega)]
    exact (RegFile.getAt_setAt_other _ _ _ _ _ _ (.inr (by decide)) (by decide)).trans (hset _ (by decide))

theorem State.scrubMoves_passes (s : State) {l : Nat} (h : l + 1 < 2097152) :
    (s.scrubMoves l).regs.get Reg.MEM_SCRUB_STATUS_PASSES = s.regs.get Reg.MEM_SCRUB_STATUS_PASSES := by
  rw [State.scrubMoves, if_pos h]
  exact RegFile.get_set_other _ _ _ _ (.inr (by decide)) (by decide)

theorem RegFile.placed_of_unused {r : RegFile} (h : r.get Reg.MEM_RETIRE_STATUS_USED = 0) (a : Nat) : r.placed a = a :=
  if_neg fun hused => by simp [h] at hused

theorem RegFile.scrubInterval_eq (r : RegFile) : r.scrubInterval =
    if 10 ≤ r.get Reg.MEM_SCRUB_CTL_INTERVAL ∧ r.get Reg.MEM_SCRUB_CTL_INTERVAL ≤ 10000 then
      1000 * r.get Reg.MEM_SCRUB_CTL_INTERVAL else 10000000 := by
  unfold RegFile.scrubInterval
  dsimp only
  split <;> rfl

/-- What the scrub's read of one granule leaves. -/
theorem State.patrolScrub_effect {s : State} (upsets : List (Nat × List Nat)) :
    let l := s.regs.get Reg.MEM_SCRUB_STATUS_POSITION
    let s3 := (s.scrubTimed.upsetStack upsets).scrubGranule
    let s' := (s3.markGranules (s3.inScrub s3.stack.poison)).scrubMoves l
    s'.mem.scrubbed = s.now ∧
      (upsets = [] → s.regs.get Reg.MEM_RETIRE_STATUS_USED = 0 → ∀ w ∈ s.inScrub (s.stack.uncorr ++ s.stack.single),
        NSet.has s'.stack.uncorr w = false ∧ NSet.has s'.stack.single w = false ∧
        (s.beyondCode w (64 * w) = true → NSet.has s'.stack.poison w = true) ∧
        (s.beyondCode w (64 * w) = false → ∀ a, a / 64 = w → s'.stack.byte a = s.stack.byte a)) ∧
      (∀ a, s'.stack.byte a ≠ s.stack.byte a → s'.stack.tag a = true) ∧ s'.tiles = s.tiles ∧
      s'.regs.get Reg.MEM_SCRUB_STATUS_POSITION = (if l = 2097151 then 0 else l + 1) ∧
      (l ≠ 2097151 → s'.regs.get Reg.MEM_SCRUB_STATUS_PASSES = s.regs.get Reg.MEM_SCRUB_STATUS_PASSES) := by
  intro l s3 s'
  have hl : l < 2097152 := s.regs.getAt_lt Reg.MEM_SCRUB_STATUS_POSITION 0 (by decide)
  obtain ⟨hbegins, hcells, -⟩ := s.scrubTimed.upsetStack_frame upsets
  have hframe := (hbegins.trans (State.scrubGranule_accessFrame _)).trans
    (s3.markGranules_accessFrame (s3.inScrub s3.stack.poison))
  obtain ⟨hstack, htiles, hmem⟩ := (s3.markGranules (s3.inScrub s3.stack.poison)).scrubMoves_frame l
  rw [State.markGranules_stack] at hstack
  refine ⟨?_, fun hupsets hunused w hw => ?_, fun a ha => ?_, ?_, State.scrubMoves_position _ hl, fun hne => ?_⟩
  · rw [hmem, hframe.scrubbed, State.scrubTimed_scrubbed]
  · subst hupsets
    have hhit := State.scrubGranule_hit (s := s.scrubTimed) (w := w)
      (fun a => by rw [State.scrubTimed_regs, RegFile.placed_of_unused hunused])
      (by rwa [State.scrubTimed_inScrub, State.scrubTimed_stack])
    have hread : s3 = s.scrubTimed.scrubGranule := rfl
    rwa [State.scrubTimed_beyondCode, State.scrubTimed_stack, ← hread, ← hstack] at hhit
  · rw [hstack] at ha ⊢
    refine (State.scrubGranule_keptOrPoisoned _).2 a fun hsame => ha (hsame.trans ?_)
    rw [Mem.byte, hcells, State.scrubTimed_stack, Mem.byte]
  · rw [htiles, hframe.tiles, State.scrubTimed_tiles]
  · rw [State.scrubMoves_passes _ (by omega), hframe.get (Reg.memory_outsideEventStatus _ (by simp)), State.scrubTimed_regs]

/-- Settles O40: a stack's state follows from the bounds that its temperature reaches, each reading of a sample shows in its own
stack, and the scrub meets the errors of one granule of each channel. -/
theorem temperatureAndScrub : Obligations.TemperatureAndScrub := by
  unfold Obligations.TemperatureAndScrub
  refine ⟨fun old t hold => ?_, fun s temps hlen hreadings hlast => ?_, fun s => s.regs.scrubInterval_eq,
    fun s upsets hearly => exec_patrolScrubRead_early upsets hearly, fun s upsets hmay hself hoff hdue =>
      ⟨_, exec_patrolScrubRead upsets hmay hself hoff hdue, State.patrolScrub_effect upsets⟩⟩
  · refine ⟨fun k b hb => ⟨fun h => tempState_reaches hb (.inl h), fun h => tempState_stays_below hb (.inl h),
      fun hk h => tempState_reaches hb (.inr ⟨hk, h⟩), fun hk h => tempState_stays_below hb (.inr ⟨hk, h⟩)⟩, ?_⟩
    exact tempState_le_four old t
  · intro mean now
    obtain ⟨s', hexec, htiles, hstack, hview, hhot⟩ := stackTempSample_effect hlen hreadings hlast
    refine ⟨s', hexec, htiles, hstack, fun k hk => ?_, fun htrip hactive hmean => ?_⟩
    · have hthrottle : s'.regs.getAt Reg.MEM_STACK_STATUS_THROTTLE k = if 3 ≤ now k then 1 else 0 :=
        congrArg StackView.throttle (hview k hk)
      have hlevel : Tbl.find s'.mem.tempLevel k = some (now k) := congrArg StackView.level (hview k hk)
      refine ⟨congrArg StackView.temp (hview k hk), by rw [Tbl.get, hlevel, Option.getD_some],
        congrArg StackView.refresh (hview k hk), ?_⟩
      rw [hthrottle]
      by_cases h : 3 ≤ now k <;> simp [h]
    · obtain ⟨k, hk, hmean⟩ := hmean
      have hsafety := hhot htrip hactive k hk (tempState_reaches (k := 3) rfl (.inl hmean))
      exact ⟨congrArg Prod.fst hsafety, congrArg (fun x => x.2.2) hsafety⟩

end Sys2Proof.Machine
end

section
/-! SUPPORT. Polls of the doorbell page and fetches of descriptors (R331 to R333): what a poll makes of each ring, which ring a
fetch serves, and what becomes of each descriptor that it brings. -/

namespace Sys2Proof.Machine

/-! ### Tables -/

theorem Tbl.find_mapVals {α : Type} (f : Nat → α → α) (t : List (Nat × α)) (a : Nat) :
    Tbl.find (Tbl.mapVals f t) a = (Tbl.find t a).map (f a) := by
  induction t with
  | nil => rfl
  | cons e t ih =>
    simp only [Tbl.mapVals, Tbl.find]
    split
    · next h => rw [h, Option.map_some]
    · exact ih

/-- A map of the values that keeps the default is a map of every entry. -/
theorem Tbl.get_mapVals {α : Type} {f : Nat → α → α} {d : α} {a : Nat} (hd : f a d = d) (t : List (Nat × α)) :
    Tbl.get (Tbl.mapVals f t) d a = f a (Tbl.get t d a) := by
  rw [Tbl.get, Tbl.find_mapVals, Tbl.get]
  cases Tbl.find t a with
  | none => exact hd.symm
  | some x => rfl

/-! ### The rings after a poll -/

/-- The PRODUCED word of a ring as a view of the host has it. -/
def State.producedWord (s : State) (v : HostView) (r : Nat) : Nat :=
  leNat ((List.range 4).map fun i => (viewByte v (s.dbAddr + 4 * r + i)).1)

/-- A table of rings once one ring's word has been taken. -/
def takeWord (word : Nat → Nat) (t : List (Nat × RingSt)) (r : Nat) : List (Nat × RingSt) :=
  if word r = (Tbl.get t RingSt.zero r).produced then t
  else Tbl.put t r { Tbl.get t RingSt.zero r with produced := word r }

theorem get_takeWord (word : Nat → Nat) (t : List (Nat × RingSt)) (r q : Nat) : Tbl.get (takeWord word t r) RingSt.zero q =
    if r = q then { Tbl.get t RingSt.zero q with produced := word q } else Tbl.get t RingSt.zero q := by
  unfold takeWord
  by_cases hrq : r = q
  · subst hrq
    rw [if_pos rfl]
    split
    · next hsame => rw [hsame]
    · exact Tbl.get_put_self t _ r _
  · rw [if_neg hrq]
    split
    · rfl
    · exact Tbl.get_put_other t _ _ hrq

theorem get_foldl_takeWord (word : Nat → Nat) (l : List Nat) (t : List (Nat × RingSt)) (q : Nat) :
    Tbl.get (l.foldl (takeWord word) t) RingSt.zero q =
      if q ∈ l then { Tbl.get t RingSt.zero q with produced := word q } else Tbl.get t RingSt.zero q := by
  induction l generalizing t with
  | nil => rfl
  | cons r l ih =>
    rw [List.foldl_cons, ih, get_takeWord]
    by_cases hrq : r = q
    · simp [hrq]
    · simp [hrq, Ne.symm hrq]

theorem State.takeProduced_eq (s : State) (v : HostView) : s.takeProduced v = { s with host := { s.host with
    rings := s.validRings.foldl (takeWord (s.producedWord v)) s.host.rings } } := rfl

theorem State.mem_validRings (s : State) (r : Nat) : r ∈ s.validRings ↔ r < 256 ∧ s.ringValid r = true := by
  rw [State.validRings, List.mem_filter, List.mem_range]

theorem State.onDemand_eq_nil {s : State} (h : s.onDemand = []) : s.fullCqs = [] ∧ s.fullMboxes = [] ∧ s.fullEq = false := by
  obtain ⟨hfull, heq⟩ := List.append_eq_nil_iff.1 h
  obtain ⟨hcqs, hboxes⟩ := List.append_eq_nil_iff.1 hfull
  exact ⟨List.map_eq_nil_iff.1 hcqs, List.map_eq_nil_iff.1 hboxes, by simpa using heq⟩

/-- With no ring and no mailbox full, a poll takes no CONSUMED word. -/
theorem State.takeConsumed_of_room {s : State} (v : HostView) (h : s.onDemand = []) : s.takeConsumed v = s := by
  obtain ⟨hcqs, hboxes, heq⟩ := State.onDemand_eq_nil h
  simp [State.takeConsumed, hcqs, hboxes, heq]

/-- Which words are read again depends neither on how the poll stands nor on what is known of the submission rings. -/
theorem State.onDemand_congr (s : State) (busy err : Bool) (rings : List (Nat × RingSt)) :
    ({ s with host := { s.host with pollBusy := busy, pollErr := err, rings := rings } } : State).onDemand = s.onDemand := rfl

/-- A poll that succeeded and took what the PRODUCED words say, before the interval is set. -/
def State.polled (s : State) (v : HostView) : State :=
  ({ s.freeRings with host := { s.freeRings.host with pollErr := false } }).takeProduced v

theorem State.freeRings_ring (s : State) (r : Nat) :
    Tbl.get s.freeRings.host.rings RingSt.zero r = { Tbl.get s.host.rings RingSt.zero r with hold := false } :=
  Tbl.get_mapVals (f := fun _ (x : RingSt) => { x with hold := false }) (a := r) (d := RingSt.zero) rfl s.host.rings

theorem State.polled_ring (s : State) (v : HostView) {r : Nat} (hr : r < 256) (hvalid : s.ringValid r = true) :
    Tbl.get (s.polled v).host.rings RingSt.zero r = { Tbl.get s.host.rings RingSt.zero r with
      produced := s.producedWord v r
      hold := false } := by
  rw [State.polled, State.takeProduced_eq]
  refine (get_foldl_takeWord _ _ _ r).trans ((if_pos ((State.mem_validRings _ r).2 ⟨hr, hvalid⟩)).trans ?_)
  exact congrArg (fun x : RingSt => { x with produced := s.producedWord v r }) (s.freeRings_ring r)

/-! ### The interval -/

/-- Of the host's side, setting the interval changes the count of empty polls alone. -/
theorem State.pollLevel_host (s : State) (found : Bool) :
    (s.pollLevel found).host = { s.host with pollEmpty := (s.pollLevel found).host.pollEmpty } := by
  unfold State.pollLevel
  repeat' split
  all_goals rfl

/-- The sixteenth empty poll in a row, with no descriptor in progress, takes the interval one level up (R332). -/
theorem State.pollLevel_sixteenth {s : State} (hidle : s.host.descs = []) (hempty : s.host.pollEmpty = 15) :
    (s.pollLevel false).regs.get Reg.HIF_POLL_STATUS_LEVEL = min 8 (s.regs.get Reg.HIF_POLL_STATUS_LEVEL + 1) := by
  rw [State.pollLevel, if_neg (by simp [hidle]), if_neg (by rw [hempty]; decide)]
  refine (RegFile.get_set_self _ _ _ (by decide)).trans (Nat.mod_eq_of_lt ?_)
  exact (Nat.min_le_left _ _).trans_lt (by decide)

/-! ### The polls -/

theorem exec_doorbellPoll {s : State} (hon : s.fetching = true) (hidle : s.host.pollBusy = false) (hlen : s.pollLen ≠ 0)
    (hroom : s.onDemand = []) : exec .doorbellPoll s = .next ((({ s with host := { s.host with pollBusy := true } }).addReg
      Reg.HIF_POLL_STATUS_POLLS 1).emit (.hostRead s.dbAddr s.pollLen)) := by
  refine congrArg Host.Outcome.next ((if_neg (by simp [hon, hidle])).trans ?_)
  dsimp only
  rw [if_neg hlen, hroom]
  rfl

theorem exec_doorbellPollResult {s : State} {v : HostView} (hbusy : s.host.pollBusy = true) (hroom : s.onDemand = [])
    (hread : viewFails v s.dbAddr s.pollLen = false) :
    ∃ found, exec (.doorbellPollResult v) s = .next ((s.polled v).pollLevel found) := by
  have htaken : ({ s.freeRings with host := { s.freeRings.host with pollErr := false } } : State).takeConsumed v =
      { s.freeRings with host := { s.freeRings.host with pollErr := false } } :=
    State.takeConsumed_of_room v ((s.onDemand_congr _ _ _).trans hroom)
  refine ⟨decide ((s.polled v).host.rings ≠ s.freeRings.host.rings), congrArg Host.Outcome.next
    ((if_neg (by simp [hbusy])).trans ((if_neg (by simp [hread, hroom])).trans ?_))⟩
  dsimp only
  rw [htaken]
  rfl

theorem exec_doorbellPollResult_failed {s : State} {v : HostView} (hbusy : s.host.pollBusy = true)
    (hfails : viewFails v s.dbAddr s.pollLen = true) (hfirst : s.host.pollErr = false) :
    exec (.doorbellPollResult v) s = .next ((({ s.freeRings with host := { s.freeRings.host with pollErr := true } }).post
      ⟨St.descFetchErr, 2, 7, 0, s.dbAddr⟩).pollLevel false) := by
  refine congrArg Host.Outcome.next ((if_neg (by simp [hbusy])).trans ((if_pos (.inl hfails)).trans ?_))
  exact congrArg (State.pollLevel · false) (if_neg (Bool.eq_false_iff.1 hfirst))

/-! ### The ring that a fetch serves -/

theorem le_foldl_max {l : List Nat} {k : Nat} (a : Nat) (h : k ∈ l) : k ≤ l.foldl max a := by
  have hstart : ∀ (l : List Nat) (a : Nat), a ≤ l.foldl max a := fun l a =>
    List.foldlRecOn (motive := fun m => a ≤ m) l max le_rfl fun m hm x _ => hm.trans (Nat.le_max_left m x)
  induction l generalizing a with
  | nil => exact absurd h List.not_mem_nil
  | cons x l ih =>
    rcases List.mem_cons.1 h with rfl | hl
    · exact (Nat.le_max_right a k).trans (hstart l _)
    · exact ih _ hl

/-- Rings from which a fetch would read now. -/
def State.readyRings (s : State) : List Nat := s.validRings.filter fun r => s.fetchCount r != 0

theorem State.mem_readyRings (s : State) (r : Nat) :
    r ∈ s.readyRings ↔ (r < 256 ∧ s.ringValid r = true) ∧ s.fetchCount r ≠ 0 := by
  rw [State.readyRings, List.mem_filter, State.mem_validRings, bne_iff_ne]

/-- The highest priority of those rings. -/
def State.topPrio (s : State) : Nat := (s.readyRings.map fun r => s.regs.getAt Reg.HIF_SQ_CTL_PRIO r).foldl max 0

/-- The ring served is one of the ready rings of the highest priority. -/
theorem State.nextRing_some {s : State} {r : Nat} (h : s.nextRing = some r) :
    r ∈ s.readyRings ∧ ∀ q ∈ s.readyRings, s.regs.getAt Reg.HIF_SQ_CTL_PRIO q ≤ s.regs.getAt Reg.HIF_SQ_CTL_PRIO r := by
  have hr : r ∈ s.readyRings.filter fun r => s.regs.getAt Reg.HIF_SQ_CTL_PRIO r == s.topPrio := by
    unfold State.nextRing at h
    dsimp only at h
    split at h
    · next hafter => exact (List.mem_filter.1 (List.mem_of_head? ((congrArg List.head? hafter).trans h))).1
    · exact List.mem_of_head? h
  obtain ⟨hready, htop⟩ := List.mem_filter.1 hr
  refine ⟨hready, fun q hq => ?_⟩
  rw [beq_iff_eq.1 htop]
  exact le_foldl_max 0 (List.mem_map_of_mem hq)

theorem State.freeRun_le (s : State) (r n j : Nat) : s.freeRun r n j ≤ n := by
  induction n generalizing j with
  | zero => exact le_rfl
  | succ n ih =>
    rw [State.freeRun]
    split
    · exact Nat.zero_le _
    · have := ih ((j + 1) % 2 ^ 32)
      omega

theorem State.fetchCount_le (s : State) (r : Nat) : s.fetchCount r ≤ 16 := by
  unfold State.fetchCount
  dsimp only
  split
  · exact Nat.zero_le _
  · exact (s.freeRun_le _ _ _).trans (Nat.min_le_left _ _)

/-! ### The fetch -/

/-- The reads of descriptors go out in order: reading changes no ring's place. -/
theorem State.each_slotRead (s : State) (r : Nat) (count : Nat → Nat) (l : List Nat) :
    (s.each l fun s i => s.emit (.hostRead (s.slotAddr r (count i)) 64)) =
      s.each (l.map fun i => Output.hostRead (s.slotAddr r (count i)) 64) State.emit := by
  induction l generalizing s with
  | nil => rfl
  | cons i l ih => exact ih (s.emit (.hostRead (s.slotAddr r (count i)) 64))

theorem exec_descriptorFetch {s : State} {r : Nat} (hon : s.fetching = true) (hfree : s.host.fetch = none)
    (hnext : s.nextRing = some r) :
    let next := (Tbl.get s.host.rings RingSt.zero r).next
    exec .descriptorFetch s = .next { s with
      host := { s.host with
        fetch := some ⟨r, next, s.fetchCount r⟩
        served := Tbl.put s.host.served (s.regs.getAt Reg.HIF_SQ_CTL_PRIO r) r }
      out := ((List.range (s.fetchCount r)).map fun i =>
        Output.hostRead (s.slotAddr r ((next + i) % 2 ^ 32)) 64).reverse ++ s.out } := by
  intro next
  refine congrArg Host.Outcome.next ((if_neg (by simp [hon, hfree])).trans ?_)
  rw [hnext]
  exact (State.each_slotRead _ r (fun i => (next + i) % 2 ^ 32) _).trans (State.each_emit _ _)

theorem exec_descriptorFetchResult {s : State} {v : HostView} {f : Fetch} (hfetch : s.host.fetch = some f)
    (hread : ∀ i, i < f.count → viewFails v (s.slotAddr f.ring ((f.first + i) % 2 ^ 32)) 64 = false) :
    exec (.descriptorFetchResult v) s = .next (({ s with host := { s.host with
      fetch := none
      rings := Tbl.put s.host.rings f.ring { Tbl.get s.host.rings RingSt.zero f.ring with fetchErr := false } } }).acceptDescs
        v f.ring f.count f.first) := by
  have hall : ¬ ((List.range f.count).any fun i =>
      viewFails v (s.slotAddr f.ring ((f.first + i) % 2 ^ 32)) 64) = true := by
    rw [Bool.not_eq_true, List.any_eq_false]
    exact fun i hi => Bool.eq_false_iff.1 (hread i (List.mem_range.1 hi))
  refine congrArg Host.Outcome.next ?_
  rw [hfetch]
  exact if_neg hall

/-! ### The descriptors that it brings -/

/-- The descriptor in a slot of a ring as a view of the host has it. -/
def State.slotDesc (s : State) (v : HostView) (r j : Nat) : Desc :=
  Desc.parse r j ((List.range 64).map fun i => (viewByte v (s.slotAddr r j + i)).1)

section
variable {s : State} {v : HostView} {r j : Nat}

theorem State.acceptDescs_match (n : Nat) (h : (s.slotDesc v r j).flags % 2 = genOf j (s.ringSize r)) :
    let l := s.latchStream v (s.slotDesc v r j)
    s.acceptDescs v r (n + 1) j = ({ l.2.setReg Reg.HIF_POLL_STATUS_LEVEL 0 with host := { l.2.host with
      descs := l.2.host.descs ++ [{ s.slotDesc v r j with latched := l.1 }]
      pollEmpty := 0
      rings := Tbl.put l.2.host.rings r { Tbl.get s.host.rings RingSt.zero r with
        next := (j + 1) % 2 ^ 32 } } }).acceptDescs v r n ((j + 1) % 2 ^ 32) := if_pos h

theorem State.acceptDescs_mismatch (n : Nat) (h : (s.slotDesc v r j).flags % 2 ≠ genOf j (s.ringSize r)) :
    s.acceptDescs v r (n + 1) j = { s with host := { s.host with
      rings := Tbl.put s.host.rings r { Tbl.get s.host.rings RingSt.zero r with hold := true } } } := if_neg h

theorem State.latchStream_other {d : Desc} (h : d.opcode ≠ 1) : s.latchStream v d = (none, s) := if_pos h

/-- A STREAM whose stream descriptor lies at a permitted, aligned address and is read whole (R293). -/
theorem State.latchStream_read {d : Desc} {b : List Byte} {s1 : State} (hstream : d.opcode = 1)
    (hjudge : s.judge .local3 (d.n 0 8) 64 = none) (haligned : d.n 0 8 % 64 = 0)
    (hread : s.readStruct v (d.n 0 8) 64 = (.ok b, s1)) : s.latchStream v d = (some (St.ok, 0, b), s1) := by
  rw [State.latchStream, if_neg (not_not_intro hstream), hjudge]
  refine (if_neg (not_not_intro haligned)).trans ?_
  rw [hread]

end

/-- Settles O29: a poll takes its words ring by ring, the ring served is a ready one of the highest priority, and acceptance goes
descriptor by descriptor until a GEN does not match. -/
theorem pollAndFetch : Obligations.PollAndFetch := by
  unfold Obligations.PollAndFetch
  intro s
  refine ⟨exec_doorbellPoll, fun v hbusy hroom hread => ?_, fun v => exec_doorbellPollResult_failed,
    State.pollLevel_sixteenth, fun r hon hfree hnext => ?_, fun v f => exec_descriptorFetchResult, fun v r n j => ?_⟩
  · obtain ⟨found, hexec⟩ := exec_doorbellPollResult hbusy hroom hread
    refine ⟨_, hexec, ?_⟩
    rw [State.pollLevel_host]
    refine ⟨rfl, rfl, rfl, rfl, fun r hr hvalid => ?_⟩
    dsimp only
    rw [State.polled_ring s v hr hvalid]
    exact ⟨rfl, rfl, rfl⟩
  · intro x n
    obtain ⟨hready, htop⟩ := State.nextRing_some hnext
    obtain ⟨⟨-, hvalid⟩, hcount⟩ := (s.mem_readyRings r).1 hready
    refine ⟨Nat.one_le_iff_ne_zero.2 hcount, s.fetchCount_le r, hvalid, fun q hq hqvalid hqcount => ?_,
      _, exec_descriptorFetch hon hfree hnext, rfl, rfl, rfl⟩
    exact htop q ((s.mem_readyRings q).2 ⟨⟨hq, hqvalid⟩, hqcount⟩)
  · intro d x l host
    exact ⟨State.acceptDescs_match n, State.latchStream_other,
      fun b s1 => State.latchStream_read, State.acceptDescs_mismatch n⟩

end Sys2Proof.Machine
end

section
/-! SUPPORT. The handcart path on the module (R311, R316 to R319, R344, R345): a message that leaves its port or its channel, one
that reaches a tile or a channel, and one that is written to a host mailbox. -/

namespace Sys2Proof.Machine

/-! ### Leaving the sender -/

theorem State.tileLeaves_onModule {s : State} {t : Nat} {m : PortMsg} {rest : List PortMsg} (hport : (s.tile t).port = m :: rest)
    (hdone : (s.tile t).idsBusy m.after = false) (hrank : m.msg.rank = s.rank) (htarget : ∀ b, m.msg.target ≠ .mbox b)
    (hroom : s.net.meshRoom (s.onMesh (some t) (s.tilePlace t) m.msg).path = true) :
    s.tileLeaves t = ((s.setTile t { s.tile t with port := rest }).addReg Reg.STR_HC_STATUS_SENT 1).enterMesh
      (s.onMesh (some t) (s.tilePlace t) m.msg) := by
  unfold State.tileLeaves
  dsimp only
  rw [hport]
  dsimp only
  rw [if_neg (by simp [hdone, hroom])]
  split
  · next b hbox => exact absurd hbox (htarget b)
  · exact if_pos hrank

theorem State.chanLeaves_onModule {s : State} {ch w : Nat} {tile : Option Nat} {rest : List (Nat × Option Nat)}
    (houtbox : (s.chan ch).outbox = (w, tile) :: rest) (hrank : w % 2 ^ 20 = s.rank)
    (hroom : s.net.meshRoom (s.onMesh none (enginePlace (ch / 2048) (ch / 16 % 128)) (targetMsg w)).path = true) :
    s.chanLeaves ch = (s.setChan ch { s.chan ch with outbox := rest }).enterMesh
      (s.onMesh none (enginePlace (ch / 2048) (ch / 16 % 128)) (targetMsg w)) := by
  unfold State.chanLeaves
  dsimp only
  rw [houtbox]
  dsimp only
  rw [if_neg (by simp [hroom])]
  exact if_pos hrank

/-! ### Delivery -/

theorem exec_handcartDeliver {s : State} {n : Nat} {e : MeshMsg} (he : s.deliverable n = some e)
    (htarget : ∀ b, e.msg.target ≠ .mbox b) : exec (.handcartDeliver n) s =
      .next (((s.dropMesh n).writePayload e.msg e.msg.poison).applySignal e.msg e.raiser) := by
  refine congrArg Host.Outcome.next ?_
  rw [he]
  dsimp only
  split
  · next b hbox => exact absurd hbox (htarget b)
  · rfl

/-! ### Host mailboxes -/

theorem State.sendVector_unmasked {s : State} {v : Nat} (hon : s.host.msixOn = true)
    (hmask : bitOf (s.host.msixDword (4 * v + 3)) 0 = false) : s.sendVector v = s.emit (.msix v) := by
  rw [State.sendVector, if_neg (by simp [hon]), if_neg (Bool.eq_false_iff.1 hmask)]

theorem State.sendVector_masked {s : State} {v : Nat} (hon : s.host.msixOn = true)
    (hmask : bitOf (s.host.msixDword (4 * v + 3)) 0 = true) : s.sendVector v =
      { s with host := { s.host with msixPending := NSet.add s.host.msixPending v } } := by
  rw [State.sendVector, if_neg (by simp [hon]), if_pos hmask]

/-- Where the next message to a mailbox is written: its slot of 256 B (R344). -/
def State.mboxSlot (s : State) (b : Nat) : Nat :=
  s.regs.get Reg.HIF_MBOX_BASE_BASE * 4096 + 4096 * b + 256 * ((Tbl.get s.host.mboxes ⟨0, 0⟩ b).sent % 16)

/-- A message with a payload has been written to its mailbox, IDENT last, and its vector is still to be sent. -/
def State.mailed (s : State) (n b : Nat) (e : MeshMsg) : State :=
  let box := Tbl.get s.host.mboxes ⟨0, 0⟩ b
  { s with
    out := .hostWrite (s.mboxSlot b + 8) (leBytes 8 (e.ident + box.sent % 2 ^ 16 * 2 ^ 48)) false ::
      .hostWrite (s.mboxSlot b) e.msg.header false :: .hostWrite (s.mboxSlot b + 16) e.msg.payload false :: s.out
    host := { s.host with mboxes := Tbl.put s.host.mboxes b { box with sent := (box.sent + 1) % 2 ^ 16 } }
    net := { s.net with mesh := ldel s.net.mesh n } }

theorem exec_mailboxWrite {s : State} {n b : Nat} {e : MeshMsg} (he : s.deliverable n = some e) (hbox : e.msg.target = .mbox b)
    (hpayload : e.msg.payload ≠ []) : exec (.mailboxWrite n) s = .next (if s.regs.flag Reg.HIF_MBOX_CTL_IRQ then
      (s.mailed n b e).sendVector (s.regs.get Reg.HIF_MBOX_CTL_VECTOR) else s.mailed n b e) := by
  refine congrArg Host.Outcome.next ?_
  rw [he]
  dsimp only
  rw [hbox]
  dsimp only
  rw [if_neg hpayload]
  rfl

/-- Settles O9: each step of the path is decided by what stands at its front, and a mailbox's vector by its mask. -/
theorem handcartOnTheModule : Obligations.HandcartOnTheModule := by
  unfold Obligations.HandcartOnTheModule
  intro s
  refine ⟨fun t m rest hport hdone hrank htarget => ?_, fun ch w tile rest houtbox hrank => ?_,
    fun n e => exec_handcartDeliver, fun n b e he hbox hpayload => ?_⟩
  · intro e hroom
    refine ⟨_, congrArg Host.Outcome.next (State.tileLeaves_onModule hport hdone hrank htarget hroom), ?_⟩
    have htile := s.tile_setTile_self t { s.tile t with port := rest }
    exact ⟨htile, rfl, congrArg (Tbl.put s.tiles t) htile.symm, rfl, rfl, rfl⟩
  · exact fun hroom => congrArg _ (State.chanLeaves_onModule houtbox hrank hroom)
  · have hwrite := exec_mailboxWrite he hbox hpayload
    refine ⟨fun hirq => ?_, fun hirq hon hmask => ?_, fun hirq hon hmask => ?_⟩
    · exact hwrite.trans (congrArg _ (if_neg (Bool.eq_false_iff.1 hirq)))
    · exact hwrite.trans (congrArg _ ((if_pos hirq).trans (State.sendVector_unmasked hon hmask)))
    · exact hwrite.trans (congrArg _ ((if_pos hirq).trans (State.sendVector_masked hon hmask)))

end Sys2Proof.Machine
end

section
/-! SUPPORT. The work of a stream channel (R291, R303 to R306, R311): how a transfer starts, takes its slots and ends, and how the
signals of its slots, a fence and a bus error go. -/

namespace Sys2Proof.Machine

/-! ### Writing an entry twice -/

theorem Tbl.put_put_self {α : Type} (t : List (Nat × α)) (a : Nat) (v w : α) : Tbl.put (Tbl.put t a v) a w = Tbl.put t a w := by
  induction t with
  | nil => simp [Tbl.put]
  | cons e t ih =>
    simp only [Tbl.put]
    split
    · simp [Tbl.put]
    · split
      · simp [Tbl.put]
      · next hlow hne => simp [Tbl.put, hlow, hne, ih]

@[simp] theorem State.setChan_setChan_self (s : State) (ch : Nat) (x y : Chan) :
    (s.setChan ch x).setChan ch y = s.setChan ch y := by
  simp [State.setChan, Tbl.put_put_self]

/-! ### The end of a transfer -/

theorem State.endTransfer_ring {x : Xfer} {r j : Nat} (h : x.by_ = .ring r j) (s : State) (ch status flags result : Nat) :
    s.endTransfer ch x status flags result = (s.setChan ch { s.chan ch with
      busy := none
      lastStatus := status }).complete r j status flags result := by
  rw [State.endTransfer, h]

/-- The transfer of a tile that asked for no signal: STWAIT counts one fewer (R195). -/
theorem State.endTransfer_tile {x : Xfer} {t : Nat} (h : x.by_ = .tile t none) (s : State) (ch status flags result : Nat) :
    let k := ch / 16 % 128 * 8 + ch % 16
    s.endTransfer ch x status flags result = (s.setChan ch { s.chan ch with
      busy := none
      lastStatus := status }).setTile t { s.tile t with
        streams := Tbl.put (s.tile t).streams k (Tbl.get (s.tile t).streams 0 k - 1) } := by
  intro k
  rw [State.endTransfer, h]
  rfl

/-! ### The commands of a channel at work -/

/-- The head of the channel's queue, taken up as its work. -/
def State.takenUp (s : State) (ch : Nat) (x : Xfer) (rest : List Xfer) : State :=
  (s.openXfer x).2.setChan ch { s.chan ch with
    queue := rest
    busy := some (s.openXfer x).1 }

/-- Does a fence that ends report an error: did a write before it, or the read of a last host address, meet an error (R304)? -/
def Chan.fenceFails (c : Chan) (ok : Bool) : Bool := c.fenceErr || (!c.hostLast.isEmpty && !ok)

section
variable {s : State} {ch : Nat} {v : HostView} {x : Xfer} {d : StrDesc} (hjob : x.job = .stream d)
include hjob

/-! ### Starting -/

theorem exec_streamDescriptorStart {rest : List Xfer} (hidle : (s.chan ch).busy = none) (hqueue : (s.chan ch).queue = x :: rest)
    (hfree : s.channelFree ch = true) (htable : d.kind = 1 → d.cmp % 4 = 1 → s.step.rebuilding.contains d.table = false)
    (hkind : d.kind ≠ 3) : exec (.streamDescriptorStart ch v) s = .next (if d.wait then s.takenUp ch x rest
      else if ((List.range d.slots).all fun k => s.slotOpen x d k) = false then s
      else (s.takenUp ch x rest).each (List.range d.slots) fun s k => s.startSlot v ch k) := by
  have hbuilt : ¬ (d.kind = 1 ∧ d.cmp % 4 = 1 ∧ s.step.rebuilding.contains d.table = true) :=
    fun ⟨hcompress, hmode, hrebuilt⟩ => Bool.eq_false_iff.1 (htable hcompress hmode) hrebuilt
  refine congrArg Host.Outcome.next ?_
  dsimp only
  rw [hidle, hqueue]
  dsimp only
  rw [if_neg (by simp [hfree]), hjob]
  exact (if_neg hbuilt).trans (if_neg hkind)

theorem exec_chainSlotGrant (hbusy : (s.chan ch).busy = some x) (hkind : d.kind ≠ 3) (hwait : d.wait = true)
    (hleft : x.granted < d.slots) (hwrites : x.writeFailed = false) (hctr : 1 ≤ (s.chan ch).sem.ctr d.waitCtr)
    (hfree : s.channelFree ch = true) (hopen : s.slotOpen x d x.granted = true) : exec (.chainSlotGrant ch v) s =
      .next ((s.setChan ch { s.chan ch with sem := (s.chan ch).sem.sub d.waitCtr 1 }).startSlot v ch x.granted) := by
  refine congrArg Host.Outcome.next ?_
  dsimp only
  rw [hbusy]
  dsimp only
  rw [hjob]
  exact if_neg (by simp [hwait, hkind, hwrites, hfree, hopen]; omega)

/-! ### Ending -/

theorem exec_streamComplete (hbusy : (s.chan ch).busy = some x) (hkind : d.kind ≠ 3) (hmoved : x.allMoved d = true)
    (herr : x.err = none) : exec (.streamComplete ch) s =
      .next (s.endTransfer ch x (if x.poison then St.poisonConsumed else St.ok) x.flagWord (x.result d)) := by
  refine congrArg Host.Outcome.next ?_
  rw [hbusy]
  dsimp only
  rw [hjob]
  exact if_neg (by simp [hkind, hmoved, herr])

theorem exec_landedComplete {ok : Bool} (hbusy : (s.chan ch).busy = some x) (hkind : d.kind = 3)
    (hlanded : (s.chan ch).landedAll = true) (hsig : d.slotSig = false) : exec (.landedComplete ch ok) s =
      .next ((s.setChan ch { s.chan ch with
        fenceErr := false
        hostLast := []
        acks := (s.chan ch).acks.filter fun a => a.target.isSome || a.onReads }).endTransfer ch x
          (if (s.chan ch).fenceFails ok then St.strFenceErr else St.ok) 0 0) := by
  refine congrArg Host.Outcome.next ?_
  dsimp only
  rw [hbusy]
  dsimp only
  rw [hjob]
  refine (if_neg (by simp [hkind, hlanded])).trans ?_
  rw [hsig]
  rfl

/-- A ring's transfer whose writes failed ends with its error, once the channel has taken in what its reads answered; a coach that
was too large is no bus error (R163, R306). -/
theorem exec_busError_ring {status off r j : Nat}
    (hread : (s.flush v ch).setChan ch (((s.flush v ch).chan ch).ackReads v) = s) (hbusy : (s.chan ch).busy = some x)
    (herr : x.err = some (status, off)) (hwrites : x.writeFailed = true)
    (hby : x.by_ = .ring r j) : exec (.busError ch v) s = .next ((if status = St.coachSize then s
      else s.setChan ch { s.chan ch with errors := min 65535 ((s.chan ch).errors + 1) }).endTransfer ch x status x.flagWord
        off) := by
  have hring : x.tile = none := by rw [Xfer.tile, hby]
  refine congrArg Host.Outcome.next ?_
  dsimp only
  rw [hread, hbusy]
  dsimp only
  rw [hjob, herr]
  refine (if_neg (by simp [hwrites])).trans ?_
  rw [hring]
  exact congrArg (State.endTransfer · ch x status x.flagWord off) (if_neg (by simp))

end

/-! ### The signals of slots -/

theorem exec_slotSignal {s : State} {ch w : Nat} {a : SlotAck}
    (hfirst : (s.chan ch).acks.find? (fun a => a.target.isSome && a.waiting == 0) = some a) (htarget : a.target = some w)
    (herr : a.err = false) : exec (.slotSignal ch) s = .next ((s.setChan ch { s.chan ch with
      acks := (s.chan ch).acks.map fun b => if b = a then { b with target := none } else b }).channelSignal ch w a.tile) := by
  refine congrArg Host.Outcome.next ?_
  dsimp only
  rw [hfirst]
  dsimp only
  rw [htarget]
  exact if_neg (Bool.eq_false_iff.1 herr)

/-- Settles O11: each command acts on the channel's work under the conditions of its row, and what ends a transfer writes the
channel once. -/
theorem streamChannelsRun : Obligations.StreamChannelsRun := by
  unfold Obligations.StreamChannelsRun
  intro s ch v x d hjob
  refine ⟨fun rest hidle hqueue hfree htable => ⟨fun hkind hwait => ?_, fun hkind hwait hopen => ?_⟩,
    exec_chainSlotGrant hjob, fun t hbusy hkind hmoved herr hpoison hby => ?_, fun r j hbusy hkind hmoved herr hby => ?_,
    fun a w hfirst htarget herr => ?_, fun ok r j hbusy hkind hlanded hsig hby => ?_,
    fun st off r j hread hbusy herr hwrites hby => ?_⟩
  · rw [exec_streamDescriptorStart hjob hidle hqueue hfree htable hkind]
    exact congrArg _ (if_pos hwait)
  · have hall : ¬ ((List.range d.slots).all fun k => s.slotOpen x d k) = false := by
      simpa using hopen
    rw [exec_streamDescriptorStart hjob hidle hqueue hfree htable hkind]
    exact congrArg _ ((if_neg (by simp [hwait])).trans (if_neg hall))
  · rw [exec_streamComplete hjob hbusy hkind hmoved herr, hpoison]
    exact congrArg _ (State.endTransfer_tile hby s ch _ _ _)
  · rw [exec_streamComplete hjob hbusy hkind hmoved herr]
    exact congrArg _ (State.endTransfer_ring hby s ch _ _ _)
  · refine ⟨_, exec_slotSignal hfirst htarget herr, ?_⟩
    simp [State.channelSignal]
  · rw [exec_landedComplete hjob hbusy hkind hlanded hsig, State.endTransfer_ring hby, State.chan_setChan_self,
      State.setChan_setChan_self]
    rfl
  · rw [exec_busError_ring hjob hread hbusy herr hwrites hby, State.endTransfer_ring hby]
    split
    · rfl
    · rw [State.chan_setChan_self, State.setChan_setChan_self]

end Sys2Proof.Machine
end

section
/-! SUPPORT. Records on their way to the host (R334, R338, R340, R342, R343, R345): what one write of the coalescer carries, what
a record does to the moderation of its ring, and how the vector that announces it goes out. -/

namespace Sys2Proof.Machine

/-! ### Sending a vector, once or more -/

/-- Whatever the state of MSI-X, sending a vector adds its messages to what goes out and may set pending bits. -/
theorem State.sendVector_eq (s : State) (v : Nat) : ∃ n pending, s.sendVector v = { s with
    host := { s.host with msixPending := pending }
    out := List.replicate n (.msix v) ++ s.out } := by
  unfold State.sendVector
  split
  · exact ⟨0, s.host.msixPending, rfl⟩
  · split
    · exact ⟨0, NSet.add s.host.msixPending v, rfl⟩
    · exact ⟨1, s.host.msixPending, rfl⟩

/-- Send the vector of a completion ring `n` times. -/
def State.announce (s : State) (m n : Nat) : State :=
  s.each (List.range n) fun t _ => t.sendVector (t.regs.getAt Reg.HIF_CQ_CTL_VECTOR m)

theorem State.announce_succ (s : State) (m n : Nat) :
    s.announce m (n + 1) = (s.announce m n).sendVector ((s.announce m n).regs.getAt Reg.HIF_CQ_CTL_VECTOR m) := by
  simp [State.announce, State.each, List.range_succ]

/-- Sent once or not at all. -/
theorem State.announce_if (s : State) (m : Nat) (b : Bool) : s.announce m (0 + if b then 1 else 0) =
    if b then s.sendVector (s.regs.getAt Reg.HIF_CQ_CTL_VECTOR m) else s := by
  cases b <;> rfl

theorem State.announce_eq (s : State) (m n : Nat) : ∃ k pending, s.announce m n = { s with
    host := { s.host with msixPending := pending }
    out := List.replicate k (.msix (s.regs.getAt Reg.HIF_CQ_CTL_VECTOR m)) ++ s.out } := by
  induction n with
  | zero => exact ⟨0, s.host.msixPending, rfl⟩
  | succ n ih =>
    obtain ⟨k, pending, hbefore⟩ := ih
    obtain ⟨j, pending', hlast⟩ := (s.announce m n).sendVector_eq ((s.announce m n).regs.getAt Reg.HIF_CQ_CTL_VECTOR m)
    refine ⟨j + k, pending', ?_⟩
    rw [State.announce_succ, hlast, hbefore, ← List.replicate_append_replicate, List.append_assoc]

/-! ### Moderation -/

section
variable {c : CqSt} {now modCount modTime : Nat} {atOnce : Bool}

/-- A record takes the next number of its ring, and a message announces it with what is pending where it is due (R345). -/
theorem CqSt.wrote_eq {due : Prop} [Decidable due] (h : (atOnce = true ∨ modCount ≤ c.pending + 1 ∨ modTime = 0) ↔ due) :
    c.wrote now modCount modTime atOnce = ({ c with
      written := (c.written + 1) % 2 ^ 32
      oldest := if c.pending = 0 then now else c.oldest
      pending := if due then 0 else c.pending + 1 }, decide due) := by
  have hmax : (atOnce = true ∨ max 1 modCount ≤ c.pending + 1 ∨ modTime = 0) ↔ due := by
    rwa [max_le_iff, and_iff_right (Nat.le_add_left 1 c.pending)]
  by_cases hdue : due
  · rw [if_pos hdue, decide_eq_true hdue]
    exact if_pos (hmax.2 hdue)
  · rw [if_neg hdue, decide_eq_false hdue]
    exact if_neg (mt hmax.1 hdue)

theorem CqSt.wrote_written : (c.wrote now modCount modTime atOnce).1.written = (c.written + 1) % 2 ^ 32 := by
  unfold CqSt.wrote
  dsimp only
  split <;> rfl

end

/-! ### A write of the coalescer -/

/-- What one record of a write does to its ring, and to the number of messages that go out after it. -/
def State.wroteOne (s : State) (m : Nat) (acc : CqSt × Nat) (r : CplRec) : CqSt × Nat :=
  let x := acc.1.wrote s.now (s.regs.getAt Reg.HIF_CQ_CTL_MOD_COUNT m) (s.regs.getAt Reg.HIF_CQ_CTL_MOD_TIME m) r.notify
  (x.1, acc.2 + if x.2 then 1 else 0)

theorem State.wroteAll_eq (s : State) (m : Nat) (recs : List CplRec) :
    s.wroteAll m recs = recs.foldl (s.wroteOne m) (s.cq m, 0) := rfl

theorem State.foldl_wroteOne_written (s : State) (m : Nat) {recs : List CplRec} (hsome : recs ≠ []) (acc : CqSt × Nat) :
    (recs.foldl (s.wroteOne m) acc).1.written = (acc.1.written + recs.length) % 2 ^ 32 := by
  induction recs generalizing acc with
  | nil => exact absurd rfl hsome
  | cons r recs ih =>
    have hone : (s.wroteOne m acc r).1.written = (acc.1.written + 1) % 2 ^ 32 := CqSt.wrote_written
    rcases eq_or_ne recs [] with rfl | hrest
    · exact hone
    · rw [List.foldl_cons, ih hrest, hone, List.length_cons, Nat.mod_add_mod, Nat.add_assoc, Nat.add_comm 1]

theorem State.wroteAll_written (s : State) (m : Nat) {recs : List CplRec} (hsome : recs ≠ []) :
    (s.wroteAll m recs).1.written = ((s.cq m).written + recs.length) % 2 ^ 32 := by
  rw [State.wroteAll_eq, State.foldl_wroteOne_written s m hsome]

/-- Records that are let in move from those that wait to the queue. -/
theorem HostSt.letIn_eq (h : HostSt) (n : Nat) : h.letIn n = { h with
    queue := (h.letIn n).queue
    waiting := (h.letIn n).waiting } := by
  induction n generalizing h with
  | zero => rfl
  | succ n ih =>
    unfold HostSt.letIn
    split
    · rfl
    · rw [ih]

theorem HostSt.letIn_descs (h : HostSt) (n : Nat) : (h.letIn n).descs = h.descs := by rw [HostSt.letIn_eq]

theorem HostSt.letIn_cqs (h : HostSt) (n : Nat) : (h.letIn n).cqs = h.cqs := by rw [HostSt.letIn_eq]

theorem State.batch_length_le (s : State) (m : Nat) : (s.batch m).length ≤ 16 :=
  (List.length_take_le _ _).trans (Nat.min_le_left _ _)

theorem State.batch_isPrefix (s : State) (m : Nat) : s.batch m <+: s.host.queue.filter (fun r => r.cq == m) :=
  List.take_prefix _ _

/-- Records have left the coalescer for a ring, and none has taken their places yet. -/
def HostSt.gone (h : HostSt) (m : Nat) (recs : List CplRec) (c : CqSt) : HostSt :=
  { h with
    queue := recs.foldl List.erase h.queue
    cqs := Tbl.put h.cqs m c }

theorem HostSt.gone_descs (h : HostSt) (m : Nat) (recs : List CplRec) (c : CqSt) : (h.gone m recs c).descs = h.descs := rfl

theorem HostSt.gone_cqs (h : HostSt) (m : Nat) (recs : List CplRec) (c : CqSt) :
    (h.gone m recs c).cqs = Tbl.put h.cqs m c := rfl

/-- The bytes of a batch, each record with its number in the ring and with what an early re-arm makes of it. -/
def State.batchBytes (s : State) (m : Nat) : List Byte :=
  ((s.batch m).mapIdx fun i (r : CplRec) => (r.rearm (s.rearmed r.ring r.index)).bytes (((s.cq m).written + i) % 2 ^ 32)
    (s.regs.getAt Reg.HIF_CQ_CTL_SIZE m)).flatten

/-- A batch has been written to its ring, and its vector is still to be sent. -/
def State.batchWritten (s : State) (m : Nat) : State :=
  ({ s with host := (s.host.gone m (s.batch m) (s.wroteAll m (s.batch m)).1).letIn s.host.waiting.length }).emit
    (.hostWrite (s.regs.getAt Reg.HIF_CQ_BASE_BASE m * 4096 + 32 * ((s.cq m).written % s.regs.getAt Reg.HIF_CQ_CTL_SIZE m))
      (s.batchBytes m) false)

theorem exec_completionWrite {s : State} {m : Nat} (hon : s.enabled = true) (hsome : s.batch m ≠ []) :
    exec (.completionWrite m) s = .next (if s.regs.getAt Reg.HIF_CQ_CTL_IRQ m = 1 then
      (s.batchWritten m).announce m (s.wroteAll m (s.batch m)).2 else s.batchWritten m) := by
  have hruns : ¬ (s.enabled = false ∨ s.batch m = []) := by simp [hon, hsome]
  refine congrArg Host.Outcome.next ?_
  dsimp only
  exact if_neg hruns

theorem State.batchWritten_host (s : State) (m : Nat) : (s.batchWritten m).host =
    (s.host.gone m (s.batch m) (s.wroteAll m (s.batch m)).1).letIn s.host.waiting.length := rfl

theorem State.batchWritten_descs (s : State) (m : Nat) : (s.batchWritten m).host.descs = s.host.descs := by
  rw [State.batchWritten_host, HostSt.letIn_descs, HostSt.gone_descs]

theorem State.batchWritten_cq (s : State) (m : Nat) : (s.batchWritten m).cq m = (s.wroteAll m (s.batch m)).1 := by
  rw [State.cq, State.batchWritten_host, HostSt.letIn_cqs, HostSt.gone_cqs, Tbl.get_put_self]

/-- What a write of the coalescer sends: the batch, and after it nothing but messages of the ring's vector. -/
theorem completionWrite_effect {s : State} {m : Nat} (hon : s.enabled = true) (hsome : s.batch m ≠ []) :
    ∃ k pending, exec (.completionWrite m) s = .next { s.batchWritten m with
      host := { (s.batchWritten m).host with msixPending := pending }
      out := List.replicate k (.msix (s.regs.getAt Reg.HIF_CQ_CTL_VECTOR m)) ++ (s.batchWritten m).out } ∧
      (s.regs.getAt Reg.HIF_CQ_CTL_IRQ m = 0 → k = 0) := by
  rw [exec_completionWrite hon hsome]
  split
  · next hirq =>
    obtain ⟨k, pending, hsent⟩ := (s.batchWritten m).announce_eq m (s.wroteAll m (s.batch m)).2
    exact ⟨k, pending, congrArg _ hsent, fun hoff => absurd (hirq.symm.trans hoff) (by decide)⟩
  · exact ⟨0, (s.batchWritten m).host.msixPending, rfl, fun _ => rfl⟩

/-- A write of one record: what its ring's moderation makes of it says whether the vector follows (R345). -/
theorem exec_completionWrite_single {s : State} {m : Nat} {r : CplRec} (hon : s.enabled = true) (hbatch : s.batch m = [r]) :
    let x := (s.cq m).wrote s.now (s.regs.getAt Reg.HIF_CQ_CTL_MOD_COUNT m) (s.regs.getAt Reg.HIF_CQ_CTL_MOD_TIME m) r.notify
    (s.batchWritten m).cq m = x.1 ∧ exec (.completionWrite m) s = .next (if s.regs.getAt Reg.HIF_CQ_CTL_IRQ m = 1 then
      if x.2 then (s.batchWritten m).sendVector (s.regs.getAt Reg.HIF_CQ_CTL_VECTOR m) else s.batchWritten m
      else s.batchWritten m) := by
  intro x
  have hall : s.wroteAll m (s.batch m) = (x.1, 0 + if x.2 then 1 else 0) := congrArg (s.wroteAll m) hbatch
  rw [State.batchWritten_cq, exec_completionWrite hon (by simp [hbatch]), hall, State.announce_if]
  exact ⟨rfl, rfl⟩

/-! ### Events -/

/-- The two ways in which a record for the event ring comes about: the oldest event, or an overflow before it (R343). -/
theorem State.nextEvent_eq {s : State} {e : EvRec} {h : HostSt}
    (he : s.host.dropped = 0 ∧ s.host.events = e :: h.events ∧ h = { s.host with events := h.events } ∨
      s.host.dropped ≠ 0 ∧ e = ⟨⟨St.eventOverflow, 0, 7, 0, s.host.dropped⟩, s.regs.get Reg.TRN_STEP_NUM_STEP, s.now⟩ ∧
        h = { s.host with dropped := 0 }) : s.nextEvent = some (e, h) ∧ h.eq = s.host.eq := by
  unfold State.nextEvent
  rcases he with ⟨hnone, hevents, hh⟩ | ⟨hdropped, rfl, rfl⟩
  · rw [if_neg (not_not_intro hnone), hevents]
    exact ⟨congrArg (fun h => some (e, h)) hh.symm, by rw [hh]⟩
  · exact ⟨if_pos hdropped, rfl⟩

/-- The record of an event has been written, the event ring stands at `q`, and its vector is still to be sent. -/
def State.eventWritten (s : State) (e : EvRec) (h : HostSt) (q : CqSt) : State :=
  { s with
    host := { h with eq := q }
    out := .hostWrite (s.regs.get Reg.HIF_EQ_BASE_BASE * 4096 + 32 * (s.host.eq.written % s.regs.get Reg.HIF_EQ_CTL_SIZE))
      (e.bytes s.host.eq.written (s.regs.get Reg.HIF_EQ_CTL_SIZE)) false :: s.out }

theorem exec_eventWrite {s : State} {e : EvRec} {h : HostSt} (hon : s.enabled = true) (hroom : s.eqRoom ≠ 0)
    (hnext : s.nextEvent = some (e, h)) (hq : h.eq = s.host.eq) :
    let x := s.host.eq.wrote s.now (s.regs.get Reg.HIF_EQ_CTL_MOD_COUNT) (s.regs.get Reg.HIF_EQ_CTL_MOD_TIME)
      (St.cls e.ev.status == 3 || St.cls e.ev.status == 6)
    exec .eventWrite s = .next (if x.2 ∧ s.regs.flag Reg.HIF_EQ_CTL_IRQ then
      (s.eventWritten e h x.1).sendVector (s.regs.get Reg.HIF_EQ_CTL_VECTOR) else s.eventWritten e h x.1) := by
  refine congrArg Host.Outcome.next ((if_neg (by simp [hon, hroom])).trans ?_)
  rw [hnext]
  dsimp only
  rw [hq]
  rfl

/-! ### Moderation time -/

theorem exec_modTimeExpiry_completionRing {s : State} {m : Nat} (hpending : (s.cq m).pending ≠ 0)
    (htime : (s.cq m).oldest + 1000 * s.regs.getAt Reg.HIF_CQ_CTL_MOD_TIME m ≤ s.now)
    (hirq : s.regs.getAt Reg.HIF_CQ_CTL_IRQ m = 1) : exec (.modTimeExpiry (some m)) s =
      .next (({ s with host := { s.host with
        cqs := Tbl.put s.host.cqs m { s.cq m with pending := 0 } } }).sendVector (s.regs.getAt Reg.HIF_CQ_CTL_VECTOR m)) :=
  congrArg Host.Outcome.next ((if_neg (not_or_intro hpending (Nat.not_lt.2 htime))).trans (if_pos hirq))

theorem exec_modTimeExpiry_eventRing {s : State} (hpending : s.host.eq.pending ≠ 0)
    (htime : s.host.eq.oldest + 1000 * s.regs.get Reg.HIF_EQ_CTL_MOD_TIME ≤ s.now)
    (hirq : s.regs.flag Reg.HIF_EQ_CTL_IRQ = true) : exec (.modTimeExpiry none) s =
      .next (({ s with host := { s.host with eq := { s.host.eq with pending := 0 } } }).sendVector
        (s.regs.get Reg.HIF_EQ_CTL_VECTOR)) :=
  congrArg Host.Outcome.next ((if_neg (not_or_intro hpending (Nat.not_lt.2 htime))).trans (if_pos hirq))

/-- Settles O31: one write carries the ring's oldest records in order, and a vector goes out after what it announces and only when
the moderation of the ring says that it is due. -/
theorem recordsReachTheHost : Obligations.RecordsReachTheHost := by
  unfold Obligations.RecordsReachTheHost
  intro s
  refine ⟨fun c => ⟨rfl, rfl, rfl⟩, fun m hon hsome => ?_, fun m r hon hbatch => ?_, fun e h hon hroom he => ?_,
    fun m => exec_modTimeExpiry_completionRing, exec_modTimeExpiry_eventRing,
    fun v hmsix => ⟨State.sendVector_unmasked hmsix, State.sendVector_masked hmsix⟩⟩
  · obtain ⟨k, pending, hexec, hoff⟩ := completionWrite_effect hon hsome
    refine ⟨s.batch_length_le m, s.batch_isPrefix m, _, _, hexec, rfl, fun o ho => List.eq_of_mem_replicate ho,
      fun hirq => by rw [hoff hirq, List.replicate_zero], s.batchWritten_descs m, ?_⟩
    exact (congrArg CqSt.written (s.batchWritten_cq m)).trans (s.wroteAll_written m hsome)
  · intro due
    obtain ⟨hcq, hexec⟩ := exec_completionWrite_single hon hbatch
    rw [CqSt.wrote_eq (due := due) Iff.rfl] at hcq hexec
    refine ⟨s.batchWritten m, rfl, rfl, rfl, hcq, fun hirq hdue => ?_, fun hirq hdue => ?_, fun hirq => ?_⟩
    · rw [hexec, if_pos hirq, if_pos (decide_eq_true hdue)]
    · rw [hexec, if_pos hirq, if_neg (by simpa using hdue)]
    · rw [hexec, if_neg hirq]
  · intro size q due s1
    obtain ⟨hnext, hq⟩ := State.nextEvent_eq he
    have hwhen : ((St.cls e.ev.status == 3 || St.cls e.ev.status == 6) = true ∨
        s.regs.get Reg.HIF_EQ_CTL_MOD_COUNT ≤ q.pending + 1 ∨ s.regs.get Reg.HIF_EQ_CTL_MOD_TIME = 0) ↔ due := by
      rw [Bool.or_eq_true, beq_iff_eq, beq_iff_eq, or_assoc]
    have hexec := exec_eventWrite hon hroom hnext hq
    rw [CqSt.wrote_eq hwhen] at hexec
    have hmay : exec .eventWrite s = .next (if decide due = true ∧ s.regs.flag Reg.HIF_EQ_CTL_IRQ = true then
      s1.sendVector (s.regs.get Reg.HIF_EQ_CTL_VECTOR) else s1) := hexec
    refine ⟨fun hirq hdue => ?_, fun hirq hdue => ?_, fun hirq => ?_⟩
    · rw [hmay, if_pos ⟨decide_eq_true hdue, hirq⟩]
    · rw [hmay, if_neg fun h => hdue (of_decide_eq_true h.1)]
    · rw [hmay, if_neg fun h => Bool.eq_false_iff.1 hirq h.2]

end Sys2Proof.Machine
end

section
/-! SUPPORT. The life of a descriptor (R336 to R338, R340): when it may start, what NOP and a reserved opcode do, and the record
that a completion leaves. -/

namespace Sys2Proof.Machine

/-! ### Descriptors on the module -/

theorem HostSt.desc_place {h : HostSt} {r j : Nat} {d : Desc} (hd : h.desc r j = some d) : d.ring = r ∧ d.index = j := by
  simpa using List.find?_some hd

theorem HostSt.desc_dropDesc_self (h : HostSt) (r j : Nat) : (h.dropDesc r j).desc r j = none :=
  List.find?_eq_none.2 fun d hd => by simpa [imp_iff_not_or] using (List.mem_filter.1 hd).2

theorem HostSt.desc_dropDesc_other (h : HostSt) {r j r' j' : Nat} (hne : (r', j') ≠ (r, j)) :
    (h.dropDesc r j).desc r' j' = h.desc r' j' := by
  rw [HostSt.desc, HostSt.dropDesc, List.find?_filter]
  refine List.find?_congr fun d _ => ?_
  by_cases hd : d.ring = r' ∧ d.index = j'
  · obtain ⟨rfl, rfl⟩ := hd
    simpa [imp_iff_not_or] using hne
  · rw [show (d.ring == r' && d.index == j') = false by simpa using hd]
    simp

section
variable {s : State} {r j : Nat} {d : Desc} (hd : s.host.desc r j = some d)
include hd

/-! ### Starting -/

theorem State.startable_of (hbefore : ∀ e ∈ s.host.descs, e.before r j = true →
      d.order = false ∧ (e.taken = true ∨ (e.order = true ∧ e.queues = false)))
    (hwritten : d.order = true → ∀ c ∈ s.host.unwritten, c.ring = r → earlier c.index j = false) : s.startable d = true := by
  obtain ⟨rfl, rfl⟩ := HostSt.desc_place hd
  rw [State.startable, Bool.and_eq_true]
  constructor
  · rw [List.all_eq_true]
    intro e he
    cases hearlier : e.before d.ring d.index
    · rfl
    · obtain ⟨horder, htaken⟩ := hbefore e he hearlier
      simpa [horder] using htaken
  · cases horder : d.order
    · rfl
    · simpa [imp_iff_not_or] using hwritten horder

theorem exec_descriptorStart (hnew : d.started = false) (hmay : s.startable d = true) : exec (.descriptorStart r j) s =
    .next { s with host := { s.host with
      descs := s.host.descs.map fun e => if e.ring = r ∧ e.index = j then { e with started := true } else e } } := by
  refine congrArg Host.Outcome.next ?_
  rw [hd]
  exact if_neg (by simp [hnew, hmay])

/-! ### NOP and reserved opcodes -/

theorem exec_nopDescriptor_nop (hstarted : d.started = true) (htaken : d.taken = false) (hop : d.opcode = 0)
    (hfree : s.host.stuck d.unit = false) (heval : d.eval = true → s.evalOn = true) :
    exec (.nopDescriptor r j) s = .next (s.complete r j St.ok 0 0) := by
  have hready : s.ready r j 0 = some d := by
    rw [State.ready, hd]
    exact if_pos ⟨hstarted, htaken, hop⟩
  refine congrArg Host.Outcome.next ?_
  rw [hd]
  refine (if_neg (by simp [hstarted, hfree])).trans ((if_neg (by simp [hop, opcodeKnown])).trans ?_)
  exact State.onDesc_of_ready hready hfree heval

theorem exec_nopDescriptor_reserved (hstarted : d.started = true) (hop : opcodeKnown d.opcode = false)
    (hfree : s.host.stuck d.unit = false) : exec (.nopDescriptor r j) s = .next (s.complete r j St.descOpcode 0 0) := by
  refine congrArg Host.Outcome.next ?_
  rw [hd]
  exact (if_neg (by simp [hstarted, hfree])).trans (if_pos hop)

/-! ### Completing -/

/-- A completion whose record finds a place at once: the descriptor leaves the module and its record enters the coalescer. -/
theorem State.complete_of_room (status flags result : Nat) (hroom : s.host.room (s.regs.getAt Reg.HIF_SQ_CTL_CQ r) = true) :
    s.complete r j status flags result = { s with
      host := { s.host.dropDesc r j with queue := s.host.queue ++ [{
        cq := s.regs.getAt Reg.HIF_SQ_CTL_CQ r
        status := status
        flags := flags
        opcode := d.opcode
        ring := r
        index := j
        tag := d.tag
        result := result
        time := s.time.ns
        notify := d.flags.testBit 1
        unit := d.unit }] }
      regs := s.regs.set Reg.HIF_CPL_STATUS_MAX_QUEUED
        (max (s.regs.get Reg.HIF_CPL_STATUS_MAX_QUEUED) (s.host.queue.length + 1)) } := by
  rw [State.complete, hd]
  exact if_pos hroom

end

/-- Settles O30: the two conditions of R337 are those of the model's check of a start, and a completion with room puts its record
at the end of the coalescer's queue. -/
theorem descriptorsStartAndComplete : Obligations.DescriptorsStartAndComplete := by
  unfold Obligations.DescriptorsStartAndComplete
  intro s r j d hd
  refine ⟨fun hnew hbefore hwritten => exec_descriptorStart hd hnew (State.startable_of hd hbefore hwritten),
    exec_nopDescriptor_nop hd, exec_nopDescriptor_reserved hd, fun status flags result hroom => ?_⟩
  intro s'
  have hs' : s' = _ := State.complete_of_room hd status flags result hroom
  rw [hs']
  exact ⟨rfl, s.host.desc_dropDesc_self r j, fun r' j' hne => s.host.desc_dropDesc_other hne, rfl, rfl, rfl⟩

end Sys2Proof.Machine
end

section
/-! SUPPORT. The probes that a write of ENABLE sends and the consistency check that follows (R351, R352, R381): which reason a
refusal names, and what a pass sets up and leaves alone. -/

namespace Sys2Proof.Machine

/-! ### Probes -/

/-- The flits of a route probe over a link. -/
def State.probeFlits (s : State) (bank l : Nat) : List TxFlit :=
  (s.packet (s.peerRank l) PK.ctrl 0 0 0 (clean (leBytes 1 CT.probe ++ leBytes 1 bank ++ leBytes 2 0)) false true).flits VC.ctrl

theorem State.probeLink_eq (s : State) (bank l : Nat) :
    s.probeLink bank l = s.setLink l ((s.link l).enqueue VC.ctrl (s.probeFlits bank l)) := rfl

/-- A probe depends on the own rank and the neighbour's alone. -/
theorem State.probeFlits_congr {s t : State} {l : Nat} (hrank : t.rank = s.rank) (hpeer : t.peerRank l = s.peerRank l)
    (bank : Nat) : t.probeFlits bank l = s.probeFlits bank l := by
  rw [State.probeFlits, State.packet, hrank, hpeer, State.probeFlits, State.packet]

/-- Probes leave everything but the queues of links. -/
theorem State.each_probeLink_eq (s : State) (bank : Nat) (l : List Nat) : (s.each l fun s k => s.probeLink bank k) =
    { s with net := { s.net with links := (s.each l fun s k => s.probeLink bank k).net.links } } := by
  refine foldl_keeps (P := fun t : State => t = { s with net := { s.net with links := t.net.links } }) (fun t k ht => ?_) l rfl
  rw [State.probeLink_eq, State.setLink, ht]

/-- Each link of the list takes one probe. -/
theorem State.each_probeLink_link (s : State) (bank : Nat) {l : List Nat} (hl : l.Nodup) {k : Nat} (hk : k ∈ l) :
    (s.each l fun s k => s.probeLink bank k).link k = (s.link k).enqueue VC.ctrl (s.probeFlits bank k) := by
  have hother : ∀ (l : List Nat) (t : State), k ∉ l → (t.each l fun s k => s.probeLink bank k).link k = t.link k := by
    intro l
    induction l with
    | nil => exact fun _ _ => rfl
    | cons a l ih =>
      intro t hmem
      exact (ih (t.probeLink bank a) (List.not_mem_of_not_mem_cons hmem)).trans
        (t.link_setLink_other _ (List.ne_of_not_mem_cons hmem).symm)
  induction l generalizing s with
  | nil => exact absurd hk List.not_mem_nil
  | cons a l ih =>
    obtain ⟨ha, hl⟩ := List.nodup_cons.1 hl
    rcases List.mem_cons.1 hk with rfl | hmem
    · exact (hother l _ ha).trans (s.link_setLink_self k _)
    · have hne : a ≠ k := fun h => ha (h ▸ hmem)
      refine (ih (s.probeLink bank a) hl hmem).trans ?_
      rw [State.probeLink_eq, State.link_setLink_other _ _ hne]
      rfl

/-! ### Enabling -/

/-- ENABLE is set and STATE shows CHECKING. -/
def RegFile.checking (r : RegFile) : RegFile := (r.setFlag Reg.HIF_DEV_CTL_ENABLE true).set Reg.HIF_DEV_STATUS_STATE 1

theorem RegFile.checking_enable (r : RegFile) : r.checking.flag Reg.HIF_DEV_CTL_ENABLE = true := by
  rw [RegFile.flag, RegFile.checking, RegFile.get_set_other _ _ _ _ (.inl (by decide)) (by decide), RegFile.setFlag,
    RegFile.get_set_self _ _ _ (by decide)]
  rfl

theorem RegFile.checking_state (r : RegFile) : r.checking.get Reg.HIF_DEV_STATUS_STATE = 1 :=
  RegFile.get_set_self _ _ _ (by decide)

/-- The fields from which probes are made. -/
def Reg.probeFields : List Field := [Reg.FAB_SELF_RANK_RANK, Reg.LNK_LINK_STATUS_STATE, Reg.LNK_LINK_STATUS_PEER_RANK]

theorem Reg.enable_separate_probe : ∀ g ∈ Reg.probeFields,
    Reg.HIF_DEV_CTL_ENABLE.separate g ∧ Reg.HIF_DEV_STATUS_STATE.separate g := by
  unfold Field.separate
  decide

theorem RegFile.checking_probe (r : RegFile) {g : Field} (hg : g ∈ Reg.probeFields) {j : Nat} (hj : j < g.count) :
    r.checking.getAt g j = r.getAt g j := by
  obtain ⟨henable, hstate⟩ := Reg.enable_separate_probe g hg
  rw [RegFile.checking, RegFile.set, RegFile.getAt_setAt_separate _ _ hstate (by decide) (by decide) hj, RegFile.setFlag,
    RegFile.set, RegFile.getAt_setAt_separate _ _ henable (by decide) (by decide) hj]

/-- The module is checking, and no neighbour has been asked yet. -/
def State.asking (s : State) : State :=
  { s with
    regs := s.regs.checking
    net := { s.net with peers := [] } }

theorem State.asking_linkLive (s : State) {l : Nat} (hl : l < 32) : s.asking.linkLive l = s.linkLive l := by
  have hstate := s.regs.checking_probe (g := Reg.LNK_LINK_STATUS_STATE) (by simp [Reg.probeFields]) hl
  exact congrArg (fun x => x == 2 || x == 3) hstate

theorem State.asking_probeFlits (s : State) (bank : Nat) {l : Nat} (hl : l < 32) :
    s.asking.probeFlits bank l = s.probeFlits bank l := by
  have hrank : s.asking.rank = s.rank :=
    s.regs.checking_probe (g := Reg.FAB_SELF_RANK_RANK) (j := 0) (by simp [Reg.probeFields]) (by decide)
  have hpeer : s.asking.peerRank l = s.peerRank l :=
    s.regs.checking_probe (g := Reg.LNK_LINK_STATUS_PEER_RANK) (by simp [Reg.probeFields]) hl
  exact State.probeFlits_congr hrank hpeer bank

/-- The links that run. -/
def State.liveLinks (s : State) : List Nat := (List.range 32).filter s.linkLive

theorem State.liveLinks_nodup (s : State) : s.liveLinks.Nodup := List.nodup_range.filter _

theorem exec_enable {s : State} (hpower : s.fab.powered = true) (hperst : s.host.perst = false)
    (hready : s.regs.get Reg.BOOT_STATUS_STAGE = 3) (hoff : s.regs.flag Reg.HIF_DEV_CTL_ENABLE = false) :
    exec .enable s = .next (s.asking.each s.asking.liveLinks fun s l => s.probeLink 0 l) := by
  have hlocked : s.locked = false := hoff
  exact congrArg Host.Outcome.next (if_neg (by simp [hpower, hperst, hready, hlocked]))

/-! ### The case that a refusal names -/

/-- Does a case stand no higher than another: at a lower offset, or at the same one with an index no higher? -/
def caseLe (c d : Nat × Nat) : Prop := c.1 < d.1 ∨ (c.1 = d.1 ∧ c.2 ≤ d.2)

theorem caseLe_antisymm {c d : Nat × Nat} (h : caseLe c d) (h' : caseLe d c) : c = d := by
  unfold caseLe at h h'
  exact Prod.ext (by omega) (by omega)

theorem lowestCase_concat (l : List (Nat × Nat)) (c : Nat × Nat) : lowestCase (l ++ [c]) = (lowestCase l).elim (some c)
    fun a => if c.1 < a.1 ∨ (c.1 = a.1 ∧ c.2 < a.2) then some c else some a := by
  rw [lowestCase, List.foldl_append]
  unfold lowestCase
  cases l.foldl _ none <;> rfl

theorem lowestCase_least {l : List (Nat × Nat)} (h : l ≠ []) :
    ∃ a, lowestCase l = some a ∧ a ∈ l ∧ ∀ d ∈ l, caseLe a d := by
  induction l using List.reverseRecOn with
  | nil => exact absurd rfl h
  | append_singleton l c ih =>
    rw [lowestCase_concat]
    rcases eq_or_ne l [] with rfl | hl
    · exact ⟨c, rfl, by simp [caseLe]⟩
    · obtain ⟨a, ha, hmem, hle⟩ := ih hl
      rw [ha, Option.elim_some]
      by_cases hlow : c.1 < a.1 ∨ (c.1 = a.1 ∧ c.2 < a.2)
      · refine ⟨c, if_pos hlow, by simp, fun d hd => ?_⟩
        rcases List.mem_append.1 hd with hd | hd
        · have := hle d hd
          unfold caseLe at this ⊢
          omega
        · simp [List.mem_singleton.1 hd, caseLe]
      · refine ⟨a, if_neg hlow, by simp [hmem], fun d hd => ?_⟩
        rcases List.mem_append.1 hd with hd | hd
        · exact hle d hd
        · rw [List.mem_singleton.1 hd]
          unfold caseLe
          omega

theorem lowestCase_eq {l : List (Nat × Nat)} {c : Nat × Nat} (hc : c ∈ l) (hle : ∀ d ∈ l, caseLe c d) :
    lowestCase l = some c := by
  obtain ⟨a, ha, hmem, hleast⟩ := lowestCase_least (List.ne_nil_of_mem hc)
  rw [ha, caseLe_antisymm (hleast c hc) (hle a hmem)]

/-! ### The reason of a refusal -/

theorem firstReason_append {pre : List (Nat × List (Nat × Nat))} (hpre : ∀ x ∈ pre, x.2 = [])
    (l : List (Nat × List (Nat × Nat))) : firstReason (pre ++ l) = firstReason l := by
  induction pre with
  | nil => rfl
  | cons x pre ih =>
    obtain ⟨hx, hpre⟩ := List.forall_mem_cons.1 hpre
    rw [List.cons_append, firstReason, hx]
    exact ih hpre

theorem firstReason_none {l : List (Nat × List (Nat × Nat))} (h : ∀ x ∈ l, x.2 = []) : firstReason l = none := by
  rw [← List.append_nil l, firstReason_append h, firstReason]

theorem firstReason_found {pre post : List (Nat × List (Nat × Nat))} {reason : Nat} {broken : List (Nat × Nat)} {c : Nat × Nat}
    (hpre : ∀ x ∈ pre, x.2 = []) (hc : c ∈ broken) (hle : ∀ d ∈ broken, caseLe c d) :
    firstReason (pre ++ (reason, broken) :: post) = some (reason, c.1, c.2) := by
  rw [firstReason_append hpre, firstReason, lowestCase_eq hc hle]

section
variable {s : State} (ok : Bool) (hchecking : s.regs.get Reg.HIF_DEV_STATUS_STATE = 1) (hanswered : s.answered s.net.peers = true)
include hchecking hanswered

theorem exec_consistencyCheckDone_refused {reason offset index : Nat}
    (hreason : firstReason s.checks = some (reason, offset, index)) :
    exec (.consistencyCheckDone ok) s = .next (s.checkRefused reason offset index) := by
  refine congrArg Host.Outcome.next ((if_neg (by simp [hchecking, hanswered])).trans ?_)
  rw [hreason]

theorem exec_consistencyCheckDone_passed (hnone : firstReason s.checks = none) :
    exec (.consistencyCheckDone ok) s = .next (s.checkPassed ok) := by
  refine congrArg Host.Outcome.next ((if_neg (by simp [hchecking, hanswered])).trans ?_)
  rw [hnone]

end

/-! ### Registers written one after another -/

/-- The module with other registers. -/
def State.setRegs (s : State) (r : RegFile) : State := { s with regs := r }

section
variable (s : State) (r : RegFile)

theorem State.setRegs_regs : (s.setRegs r).regs = r := rfl
theorem State.setRegs_net : (s.setRegs r).net = s.net := rfl
theorem State.setRegs_tiles : (s.setRegs r).tiles = s.tiles := rfl
theorem State.setRegs_stack : (s.setRegs r).stack = s.stack := rfl

theorem State.setReg_eq (f : Field) (v : Nat) : s.setReg f v = s.setRegs (s.regs.set f v) := rfl

theorem State.setRegs_setReg (f : Field) (v : Nat) : (s.setRegs r).setReg f v = s.setRegs (r.set f v) := rfl

theorem State.setRegs_setFlag (f : Field) (b : Bool) : (s.setRegs r).setFlag f b = s.setRegs (r.setFlag f b) := rfl

end

/-- A refusal writes registers alone. -/
theorem State.checkRefused_eq (s : State) (reason offset index : Nat) : s.checkRefused reason offset index =
    s.setRegs (((((s.regs.set Reg.HIF_CFG_STATUS_REASON reason).set Reg.HIF_CFG_STATUS_OFFSET offset).set
      Reg.HIF_CFG_STATUS_INDEX index).setFlag Reg.HIF_DEV_CTL_ENABLE false).set Reg.HIF_DEV_STATUS_STATE 0) := by
  rw [State.checkRefused, State.noteCheck, s.setReg_eq, State.setRegs_setReg, State.setRegs_setReg, State.setRegs_setFlag,
    State.setRegs_setReg]

/-! ### What clearing the object table leaves alone -/

@[simp] theorem State.post_net (s : State) (e : Ev) : (s.post e).net = s.net := by rw [State.post_eq]

theorem State.memUncorr_net (s : State) (flags a : Nat) (lane : Option Nat) : (s.memUncorr flags a lane).net = s.net := by
  obtain ⟨c, -, -, heq⟩ := s.memUncorr_eq flags a lane
  rw [heq, State.post_net, State.setMemCh_net]

theorem State.meetErrors_net (s : State) (flags a : Nat) : (s.meetErrors flags a).net = s.net := by
  unfold State.meetErrors
  dsimp only
  split
  · exact State.memUncorr_net _ _ _ _
  · split <;> rfl

theorem State.stackPut_net (s : State) (a : Nat) (bs : List Byte) (p : Bool) : (s.stackPut a bs p).net = s.net := by
  unfold State.stackPut
  dsimp only
  split
  · rfl
  · exact s.meetErrors_net 0 a

theorem State.clearObjects_net (s : State) : s.clearObjects.net = s.net :=
  foldl_keeps (P := fun t : State => t.net = s.net) (fun t _ ht => (t.stackPut_net _ _ _).trans ht) _ rfl

/-- The state in which a pass finds stacked memory: an object table that is due is cleared first (R279). -/
def State.cleared (s : State) : State :=
  if s.mem.clearDue then { s.clearObjects with mem := { s.clearObjects.mem with clearDue := false } } else s

theorem State.cleared_net (s : State) : s.cleared.net = s.net := by
  unfold State.cleared
  split
  · exact s.clearObjects_net
  · rfl

theorem State.cleared_tiles (s : State) : s.cleared.tiles = s.tiles := by
  unfold State.cleared
  split
  · exact (s.stackWrite_accessFrame _ _).tiles
  · rfl

theorem State.cleared_stack (s : State) : s.cleared.stack = if s.mem.clearDue then s.clearObjects.stack else s.stack := by
  unfold State.cleared
  split <;> rfl

/-! ### What a pass sets up -/

/-- The registers of a pass. -/
def RegFile.passed (r : RegFile) : RegFile :=
  ((((r.set Reg.HIF_CFG_STATUS_REASON 0).set Reg.HIF_CFG_STATUS_OFFSET 0).set Reg.HIF_CFG_STATUS_INDEX 0).set
    Reg.HIF_DEV_STATUS_STATE 2).set Reg.HIF_POLL_STATUS_LEVEL 0

theorem RegFile.passed_state (r : RegFile) : r.passed.get Reg.HIF_DEV_STATUS_STATE = 2 := by
  rw [RegFile.passed, RegFile.get_set_other _ _ _ _ (.inl (by decide)) (by decide), RegFile.get_set_self _ _ _ (by decide)]
  rfl

theorem RegFile.passed_reason (r : RegFile) : r.passed.get Reg.HIF_CFG_STATUS_REASON = 0 := by
  rw [RegFile.passed, RegFile.get_set_other _ _ _ _ (.inl (by decide)) (by decide),
    RegFile.get_set_other _ _ _ _ (.inl (by decide)) (by decide), RegFile.get_set_other _ _ _ _ (.inr (by decide)) (by decide),
    RegFile.get_set_other _ _ _ _ (.inr (by decide)) (by decide), RegFile.get_set_self _ _ _ (by decide)]
  rfl

/-- The registers say that the check has passed. -/
def State.passing (s : State) : State :=
  ((s.noteCheck 0 0 0).setReg Reg.HIF_DEV_STATUS_STATE 2).setReg Reg.HIF_POLL_STATUS_LEVEL 0

theorem State.passing_eq (s : State) : s.passing = s.setRegs s.regs.passed := by
  rw [State.passing, State.noteCheck, s.setReg_eq, State.setRegs_setReg, State.setRegs_setReg, State.setRegs_setReg,
    State.setRegs_setReg, RegFile.passed]

/-- The rings stand at count 0, the banks are equal, and the gate tree starts anew. -/
def State.startAnew (s : State) : State :=
  { s with
    host := s.host.startRings
    net := { s.net with
      standby := s.net.active
      sendOrder := []
      recvOrder := [] }
    gate := { GateSt.reset with
      since := s.now
      parentHeard := s.now } }

theorem State.startAnew_regs (s : State) : s.startAnew.regs = s.regs := rfl
theorem State.startAnew_tiles (s : State) : s.startAnew.tiles = s.tiles := rfl
theorem State.startAnew_stack (s : State) : s.startAnew.stack = s.stack := rfl

theorem State.startAnew_net (s : State) : s.startAnew.net = { s.net with
    standby := s.net.active
    sendOrder := []
    recvOrder := [] } := rfl

theorem State.startAnew_host (s : State) :
    s.startAnew.host.descs = [] ∧ s.startAnew.host.rings = [] ∧ s.startAnew.host.cqs = [] := ⟨rfl, rfl, rfl⟩

theorem State.checkPassed_eq (s : State) (ok : Bool) :
    s.checkPassed ok = s.cleared.passing.startAnew.postFallback.raiseCounter ok := rfl

/-! ### What the reports of a pass leave alone -/

/-- The fields that show the verdict of the check. -/
def Reg.verdictFields : List Field := [Reg.HIF_DEV_STATUS_STATE, Reg.HIF_CFG_STATUS_REASON]

theorem Reg.verdictFields_outside : ∀ g ∈ Reg.verdictFields, g.count = 1 ∧ g.outsideEventStatus := by
  unfold Field.outsideEventStatus Field.separate
  decide

theorem Reg.reports_separate_verdict : ∀ f ∈ [Reg.BOOT_HEALTH_ERRORS, Reg.BOOT_STATUS_COUNTER_PENDING],
    f.width ≠ 0 ∧ f.count = 1 ∧ ∀ g ∈ Reg.verdictFields, f.separate g := by
  unfold Field.separate
  decide

/-- What a pass has set up, and what it must not touch. -/
structure State.ReportFrame (s t : State) : Prop where
  verdict : ∀ g ∈ Reg.verdictFields, t.regs.get g = s.regs.get g
  descs : t.host.descs = s.host.descs
  rings : t.host.rings = s.host.rings
  cqs : t.host.cqs = s.host.cqs
  net : t.net = s.net
  tiles : t.tiles = s.tiles
  stack : t.stack = s.stack

theorem State.ReportFrame.refl (s : State) : s.ReportFrame s := ⟨fun _ _ => rfl, rfl, rfl, rfl, rfl, rfl, rfl⟩

theorem State.ReportFrame.trans {s t u : State} (h : s.ReportFrame t) (h' : t.ReportFrame u) : s.ReportFrame u where
  verdict g hg := (h'.verdict g hg).trans (h.verdict g hg)
  descs := h'.descs.trans h.descs
  rings := h'.rings.trans h.rings
  cqs := h'.cqs.trans h.cqs
  net := h'.net.trans h.net
  tiles := h'.tiles.trans h.tiles
  stack := h'.stack.trans h.stack

/-- An event changes what is queued and what is counted as dropped. -/
theorem HostSt.pushEv_eq (h : HostSt) (e : EvRec) : h.pushEv e = { h with
    events := (h.pushEv e).events
    dropped := (h.pushEv e).dropped } := by
  unfold HostSt.pushEv
  dsimp only
  repeat' split
  all_goals rfl

theorem State.post_reportFrame (s : State) (e : Ev) : s.ReportFrame (s.post e) where
  verdict g hg := by
    obtain ⟨hcount, houtside⟩ := Reg.verdictFields_outside g hg
    rw [State.post_regs]
    exact eventStatus_getAt _ _ _ houtside (by omega)
  descs := by rw [State.post_host, HostSt.pushEv_eq]
  rings := by rw [State.post_host, HostSt.pushEv_eq]
  cqs := by rw [State.post_host, HostSt.pushEv_eq]
  net := s.post_net e
  tiles := s.post_tiles e
  stack := s.post_stack e

theorem State.event_reportFrame (s : State) (source status loc detail : Nat) :
    s.ReportFrame (s.event source status loc detail) := s.post_reportFrame _

theorem State.setReg_reportFrame (s : State) {f : Field} (v : Nat)
    (hf : f ∈ [Reg.BOOT_HEALTH_ERRORS, Reg.BOOT_STATUS_COUNTER_PENDING]) : s.ReportFrame (s.setReg f v) where
  verdict g hg := by
    obtain ⟨hwidth, hcount, hseparate⟩ := Reg.reports_separate_verdict f hf
    have hone := (Reg.verdictFields_outside g hg).1
    exact RegFile.getAt_setAt_separate (i := 0) _ _ (hseparate g hg) hwidth (by omega) (by omega)
  descs := rfl
  rings := rfl
  cqs := rfl
  net := rfl
  tiles := rfl
  stack := rfl

/-- Boot's own state is no part of the frame. -/
theorem State.setBoot_reportFrame (s : State) (b : BootSt) : s.ReportFrame { s with boot := b } :=
  ⟨fun _ _ => rfl, rfl, rfl, rfl, rfl, rfl, rfl⟩

theorem State.postFallback_reportFrame (s : State) : s.ReportFrame s.postFallback := by
  unfold State.postFallback
  split
  · exact (s.setBoot_reportFrame _).trans (State.event_reportFrame _ 8 St.imageFallback 0 0)
  · exact .refl s

theorem State.raiseCounter_reportFrame (s : State) (ok : Bool) : s.ReportFrame (s.raiseCounter ok) := by
  have herrors : s.ReportFrame (s.addReg Reg.BOOT_HEALTH_ERRORS 1) := s.setReg_reportFrame _ (by simp)
  have hraised : s.ReportFrame (s.setFlag Reg.BOOT_STATUS_COUNTER_PENDING false) := s.setReg_reportFrame _ (by simp)
  unfold State.raiseCounter
  split
  · exact .refl s
  · split
    · exact herrors.trans (State.event_reportFrame _ 8 St.flashErr 0 0)
    · exact hraised.trans (State.setBoot_reportFrame _ _)

theorem State.checkPassed_reportFrame (s : State) (ok : Bool) : s.cleared.passing.startAnew.ReportFrame (s.checkPassed ok) := by
  rw [State.checkPassed_eq]
  exact (State.postFallback_reportFrame _).trans (State.raiseCounter_reportFrame _ ok)

/-- A pass: the verdict, empty rings and equal banks; of the rest, stacked memory where its object table was due to be cleared. -/
theorem State.checkPassed_effect (s : State) (ok : Bool) :
    (∀ g ∈ Reg.verdictFields, (s.checkPassed ok).regs.get g = s.cleared.regs.passed.get g) ∧
    (s.checkPassed ok).host.descs = [] ∧ (s.checkPassed ok).host.rings = [] ∧ (s.checkPassed ok).host.cqs = [] ∧
    (s.checkPassed ok).net = { s.net with
      standby := s.net.active
      sendOrder := []
      recvOrder := [] } ∧
    (s.checkPassed ok).tiles = s.tiles ∧
    (s.checkPassed ok).stack = if s.mem.clearDue then s.clearObjects.stack else s.stack := by
  have hframe := s.checkPassed_reportFrame ok
  rw [s.cleared.passing_eq] at hframe
  obtain ⟨hdescs, hrings, hcqs⟩ := (s.cleared.setRegs s.cleared.regs.passed).startAnew_host
  refine ⟨fun g hg => ?_, hframe.descs.trans hdescs, hframe.rings.trans hrings, hframe.cqs.trans hcqs, ?_, ?_, ?_⟩
  · rw [hframe.verdict g hg, State.startAnew_regs, State.setRegs_regs]
  · rw [hframe.net, State.startAnew_net, State.setRegs_net, s.cleared_net]
  · rw [hframe.tiles, State.startAnew_tiles, State.setRegs_tiles, s.cleared_tiles]
  · rw [hframe.stack, State.startAnew_stack, State.setRegs_stack, s.cleared_stack]

/-- Settles O28: the check goes down its list to the first reason with a case and names the lowest, and what a pass reports leaves
what it has set up. -/
theorem enableAndCheck : Obligations.EnableAndCheck := by
  unfold Obligations.EnableAndCheck
  intro s
  refine ⟨fun hpower hperst hready hoff => ?_, fun ok pre reason broken post c hchecking hanswered hchecks hpre hc hle => ?_,
    fun hchecking hanswered hnone ok => ?_⟩
  · have hprobed := s.asking.each_probeLink_eq 0 s.asking.liveLinks
    refine ⟨_, (exec_enable hpower hperst hready hoff).trans (congrArg _ hprobed), s.regs.checking_enable, s.regs.checking_state,
      rfl, rfl, rfl, fun l hl hlive => ?_⟩
    have hmem : l ∈ s.asking.liveLinks := List.mem_filter.2 ⟨List.mem_range.2 hl, (s.asking_linkLive hl).trans hlive⟩
    rw [← hprobed, s.asking.each_probeLink_link 0 s.asking.liveLinks_nodup hmem]
    exact congrArg ((s.link l).enqueue VC.ctrl) (s.asking_probeFlits 0 hl)
  · have hreason : firstReason s.checks = some (reason, c.1, c.2) := hchecks ▸ firstReason_found hpre hc hle
    refine ⟨_, exec_consistencyCheckDone_refused ok hchecking hanswered hreason, ?_⟩
    rw [State.checkRefused_eq, State.setRegs_regs]
    exact ⟨rfl, rfl⟩
  · obtain ⟨hverdict, hdescs, hrings, hcqs, hnet, htiles, hstack⟩ := s.checkPassed_effect ok
    refine ⟨_, exec_consistencyCheckDone_passed ok hchecking hanswered (firstReason_none hnone),
      (hverdict _ (by simp [Reg.verdictFields])).trans (RegFile.passed_state _),
      (hverdict _ (by simp [Reg.verdictFields])).trans (RegFile.passed_reason _), hdescs, hrings, hcqs,
      by rw [hnet], by rw [hnet], by rw [hnet], by rw [hnet], htiles, fun hdue => ?_, fun hdue => ?_⟩
    · rw [hstack, if_neg (Bool.eq_false_iff.1 hdue)]
    · rw [hstack, if_pos hdue]

end Sys2Proof.Machine
end

section
/-! SUPPORT. Flits and packets as bytes (R359 to R361, R370, R371): their fields, payloads and data read back as they were written. -/

namespace Sys2Proof.Machine

/-! ### Flits -/

/-- The ranges of a flit header's fields (Table 10.2). -/
structure FlitHeader.InRange (h : FlitHeader) : Prop where
  vc : h.vc < 8
  type : h.type < 4
  seq : h.seq < 2 ^ 16
  ack : h.ack < 2 ^ 16
  cvc : h.cvc < 8
  pool : h.pool < 32
  credits : h.credits < 8

theorem headerWord_lt (h : FlitHeader) : headerWord h < 256 ^ 6 := by
  unfold headerWord
  omega

theorem headerOf_headerWord {h : FlitHeader} (hr : h.InRange) : headerOf (headerWord h) = h := by
  obtain ⟨hvc, htype, hseq, hack, hcvc, hpool, hcredits⟩ := hr
  obtain ⟨vc, type, seq, ack, cvc, pool, credits⟩ := h
  simp only [headerOf, headerWord, bitsOf_eq, FlitHeader.mk.injEq] at *
  omega

theorem flitSeal_length (h : FlitHeader) (payload : List Byte) : (flitSeal (flitBody h payload)).length = 256 := by
  rw [flitSeal, List.length_append, flitBody_length, leBytes_length]

/-- A sealed flit's first six bytes are its header. -/
theorem flitSeal_header {h : FlitHeader} (hr : h.InRange) (payload : List Byte) :
    headerOf (leNat ((flitSeal (flitBody h payload)).take 6)) = h := by
  have htake : (flitSeal (flitBody h payload)).take 6 = leBytes 6 (headerWord h) := by
    rw [flitSeal, flitBody, List.append_assoc, List.take_left' (leBytes_length 6 _)]
  rw [htake, leNat_leBytes, Nat.mod_eq_of_lt (headerWord_lt h), headerOf_headerWord hr]

/-- The 242 bytes after them are its payload. -/
theorem flitSeal_payload (h : FlitHeader) {payload : List Byte} (hlen : payload.length = 242) :
    ((flitSeal (flitBody h payload)).drop 6).take 242 = payload := by
  rw [flitSeal, flitBody, hlen, List.append_assoc, List.drop_left' (leBytes_length 6 _), List.take_of_length_le hlen.le,
    Nat.sub_self, List.replicate_zero, List.append_nil, List.take_left' hlen]

/-! ### Packets -/

/-- The ranges of a packet's fields (Table 10.6, Table 10.7). -/
structure Packet.InRange (p : Packet) : Prop where
  dst : p.dst < 2 ^ 20
  src : p.src < 2 ^ 20
  hop : p.hop < 32
  kind : p.kind < 16
  addr : p.addr < 2 ^ 44
  len : p.len ≤ 4096
  data : p.data.length = dataLen p.kind p.len
  tid : p.tid < 2 ^ 16
  tseq : p.tseq < 2 ^ 32
  poison : p.poison < 2 ^ 64
  crc : p.crc < 2 ^ 64
  rsv : p.rsv < 2 ^ 33

/-- The words of the header's first 14 bytes. -/
def Packet.dstWord (p : Packet) : Nat := p.dst % 2 ^ 20 + p.hop % 32 * 2 ^ 20 + bitsOf p.rsv 6 0 * 2 ^ 25
def Packet.srcWord (p : Packet) : Nat :=
  p.src % 2 ^ 20 + p.kind % 16 * 2 ^ 20 + (if p.ordered then 2 ^ 24 else 0) + (if p.last then 2 ^ 25 else 0) +
    bitsOf p.rsv 12 7 * 2 ^ 26
def Packet.addrWord (p : Packet) : Nat := p.addr + bitsOf p.rsv 16 13 * 2 ^ 44

theorem Packet.header_length (p : Packet) (hop : Nat) : (p.header hop).length = 32 := by simp [Packet.header]

theorem Packet.bytes_length (p : Packet) : p.bytes.length = 40 + p.data.length := by
  simp only [Packet.bytes, List.length_append, Packet.header_length, leBytes_length]
  omega

theorem leNat_leBytes_of_lt {n w : Nat} (h : w < 256 ^ n) : leNat (leBytes n w) = w := by
  rw [leNat_leBytes, Nat.mod_eq_of_lt h]

/-- Numbers laid out in the fields of a packet's header read back, whatever follows them. -/
theorem entryWord_fields {a b c d e f g h : Nat} (ha : a < 256 ^ 4) (hb : b < 256 ^ 4) (hc : c < 256 ^ 6) (hd : d < 256 ^ 2)
    (he : e < 256 ^ 2) (hf : f < 256 ^ 2) (hg : g < 256 ^ 4) (hh : h < 256 ^ 8) (rest : List Byte) :
    let w := leBytes 4 a ++ leBytes 4 b ++ leBytes 6 c ++ leBytes 2 d ++ leBytes 2 e ++ leBytes 2 f ++ leBytes 4 g ++ leBytes 8 h ++
      rest
    entryWord w 0 4 = a ∧ entryWord w 4 4 = b ∧ entryWord w 8 6 = c ∧ entryWord w 14 2 = d ∧ entryWord w 16 2 = e ∧
      entryWord w 18 2 = f ∧ entryWord w 20 4 = g ∧ entryWord w 24 8 = h := by
  intro w
  have hread {n i v : Nat} (hv : v < 256 ^ n) (hw : (w.drop i).take n = leBytes n v) : entryWord w i n = v :=
    (congrArg leNat hw).trans (leNat_leBytes_of_lt hv)
  refine ⟨hread ha ?_, hread hb ?_, hread hc ?_, hread hd ?_, hread he ?_, hread hf ?_, hread hg ?_, hread hh ?_⟩ <;>
    simp [w, List.drop_append, List.drop_of_length_le]

/-- A packet as its header's words, its data and its CRC. -/
def Packet.ofWords (d w a len tid low tseq poison : Nat) (data : List Byte) (crc : Nat) : Packet where
  dst := d % 2 ^ 20
  hop := d / 2 ^ 20 % 32
  src := w % 2 ^ 20
  kind := w / 2 ^ 20 % 16
  ordered := w.testBit 24
  last := w.testBit 25
  addr := a % 2 ^ 44
  len := len
  tid := tid
  tseq := tseq
  poison := poison
  data := data
  crc := crc
  rsv := bitsOf d 31 25 + bitsOf w 31 26 * 2 ^ 7 + bitsOf a 47 44 * 2 ^ 13 + low * 2 ^ 17

theorem Packet.parse_eq_ofWords (b : List Byte) :
    let k := dataLen (entryWord b 4 4 / 2 ^ 20 % 16) (entryWord b 14 2)
    Packet.parse b = .ofWords (entryWord b 0 4) (entryWord b 4 4) (entryWord b 8 6) (entryWord b 14 2) (entryWord b 16 2)
      (entryWord b 18 2) (entryWord b 20 4) (entryWord b 24 8) ((b.drop 32).take k) (entryWord b (32 + k) 8) := rfl

theorem Packet.dstWord_lt (p : Packet) : p.dstWord < 256 ^ 4 := by
  unfold Packet.dstWord
  rw [bitsOf_eq]
  omega

theorem Packet.srcWord_lt (p : Packet) : p.srcWord < 256 ^ 4 := by
  unfold Packet.srcWord
  rw [bitsOf_eq]
  split <;> split <;> omega

theorem Packet.srcWord_flags (p : Packet) : p.srcWord.testBit 24 = p.ordered ∧ p.srcWord.testBit 25 = p.last := by
  have hbit : ∀ k b, p.srcWord / 2 ^ k % 2 = b.toNat → p.srcWord.testBit k = b := fun k b => (bitOf_eq_iff _ k b).2
  unfold Packet.srcWord at *
  rw [bitsOf_eq] at *
  refine ⟨hbit 24 _ ?_, hbit 25 _ ?_⟩ <;> cases p.ordered <;> cases p.last <;> simp <;> omega

section
variable {p : Packet} (hr : p.InRange)
include hr

theorem Packet.addrWord_lt : p.addrWord < 256 ^ 6 := by
  have := hr.addr
  unfold Packet.addrWord
  rw [bitsOf_eq]
  omega

theorem Packet.srcWord_kind : p.srcWord / 2 ^ 20 % 16 = p.kind := by
  have := hr.kind
  unfold Packet.srcWord
  rw [bitsOf_eq]
  split <;> split <;> omega

theorem Packet.ofWords_words :
    .ofWords p.dstWord p.srcWord p.addrWord p.len p.tid (bitsOf p.rsv 32 17) p.tseq p.poison p.data p.crc = p := by
  obtain ⟨hordered, hlast⟩ := p.srcWord_flags
  have hkind := Packet.srcWord_kind hr
  obtain ⟨hdst, hsrc, hhop, -, haddr, -, -, -, -, -, -, hrsv⟩ := hr
  have hd : p.dstWord % 2 ^ 20 = p.dst ∧ p.dstWord / 2 ^ 20 % 32 = p.hop ∧ bitsOf p.dstWord 31 25 = p.rsv % 2 ^ 7 := by
    simp only [Packet.dstWord, bitsOf_eq]
    omega
  have hw : p.srcWord % 2 ^ 20 = p.src ∧ bitsOf p.srcWord 31 26 = p.rsv / 2 ^ 7 % 2 ^ 6 := by
    simp only [Packet.srcWord, bitsOf_eq]
    split <;> split <;> omega
  have ha : p.addrWord % 2 ^ 44 = p.addr ∧ bitsOf p.addrWord 47 44 = p.rsv / 2 ^ 13 % 2 ^ 4 := by
    simp only [Packet.addrWord, bitsOf_eq]
    omega
  have hl : p.rsv % 2 ^ 7 + p.rsv / 2 ^ 7 % 2 ^ 6 * 2 ^ 7 + p.rsv / 2 ^ 13 % 2 ^ 4 * 2 ^ 13 + bitsOf p.rsv 32 17 * 2 ^ 17 = p.rsv := by
    rw [bitsOf_eq]
    omega
  simp only [Packet.ofWords, hd, hw, ha, hkind, hordered, hlast, hl]

theorem Packet.entryWord_header (rest : List Byte) :
    let b := p.header p.hop ++ rest
    entryWord b 0 4 = p.dstWord ∧ entryWord b 4 4 = p.srcWord ∧ entryWord b 8 6 = p.addrWord ∧ entryWord b 14 2 = p.len ∧
      entryWord b 16 2 = p.tid ∧ entryWord b 18 2 = bitsOf p.rsv 32 17 ∧ entryWord b 20 4 = p.tseq ∧
      entryWord b 24 8 = p.poison := by
  have hlow : bitsOf p.rsv 32 17 < 256 ^ 2 := by
    rw [bitsOf_eq]
    exact Nat.mod_lt _ (by decide)
  exact entryWord_fields p.dstWord_lt p.srcWord_lt (Packet.addrWord_lt hr) (hr.len.trans_lt (by decide)) hr.tid hlow hr.tseq
    hr.poison rest

/-- What a receiver takes for the number of data bytes is that number. -/
theorem Packet.dataLen_header (rest : List Byte) :
    let b := p.header p.hop ++ rest
    dataLen (entryWord b 4 4 / 2 ^ 20 % 16) (entryWord b 14 2) = p.data.length := by
  obtain ⟨-, hw, -, hlen, -⟩ := Packet.entryWord_header hr rest
  intro b
  rw [hw, hlen, Packet.srcWord_kind hr, hr.data]

/-- A packet reads back from its bytes, whatever follows them: the words of its header, then its data, then its CRC. -/
theorem Packet.parse_bytes_append (rest : List Byte) : Packet.parse (p.bytes ++ rest) = p := by
  have hb : p.bytes ++ rest = p.header p.hop ++ (p.data ++ (leBytes 8 p.crc ++ rest)) := by simp [Packet.bytes]
  rw [hb]
  generalize hafter : p.data ++ (leBytes 8 p.crc ++ rest) = after
  have hdrop : (p.header p.hop ++ after).drop 32 = after := List.drop_left' (p.header_length _)
  have hdata : after.take p.data.length = p.data := by rw [← hafter, List.take_left]
  have hcrc : entryWord (p.header p.hop ++ after) (32 + p.data.length) 8 = p.crc := by
    rw [entryWord, ← List.drop_drop, hdrop, ← hafter, List.drop_left, List.take_left' (leBytes_length 8 _),
      leNat_leBytes_of_lt hr.crc]
  obtain ⟨hd, hw, ha, hlen, htid, hlow, htseq, hpoison⟩ := Packet.entryWord_header hr after
  rw [Packet.parse_eq_ofWords, Packet.dataLen_header hr, hdrop, hdata, hcrc, hd, hw, ha, hlen, htid, hlow, htseq, hpoison,
    Packet.ofWords_words hr]

end

/-! ### Packets in flits -/

/-- The payloads of a packet's flits are its bytes with padding after them. -/
theorem cutFlits_flatten {n : Nat} {b : List Byte} (h : b.length ≤ 242 * n) : ∃ pad, (cutFlits n b).flatten = b ++ pad := by
  induction n generalizing b with
  | zero => exact ⟨[], by simp [cutFlits, List.length_eq_zero_iff.1 (Nat.le_zero.1 h)]⟩
  | succ n ih =>
    rcases b with _ | ⟨x, b⟩
    · exact ⟨[], rfl⟩
    · obtain ⟨pad, hpad⟩ := ih (b := (x :: b).drop 242) (by rw [List.length_drop]; omega)
      rw [cutFlits, List.flatten_cons, hpad]
      · by_cases hlong : 242 ≤ (x :: b).length
        · exact ⟨pad, by rw [Nat.sub_eq_zero_of_le hlong, List.replicate_zero, List.append_nil, ← List.append_assoc,
            List.take_append_drop]⟩
        · have hshort := (Nat.lt_of_not_le hlong).le
          exact ⟨List.replicate (242 - (x :: b).length) 0 ++ pad, by
            rw [List.take_of_length_le hshort, List.drop_of_length_le hshort, List.nil_append, List.append_assoc]⟩
      · exact List.cons_ne_nil x b

theorem cutFlits_length {n : Nat} {b : List Byte} (h : b.length ≤ 242 * n) : (cutFlits n b).length = (b.length + 241) / 242 := by
  induction n generalizing b with
  | zero => simp [cutFlits, List.length_eq_zero_iff.1 (Nat.le_zero.1 h)]
  | succ n ih =>
    rcases b with _ | ⟨x, b⟩
    · rfl
    · have hdrop := List.length_drop (l := x :: b) (i := 242)
      rw [cutFlits, List.length_cons, ih (by omega), hdrop]
      · simp only [List.length_cons]
        omega
      · exact List.cons_ne_nil x b

/-- A packet's flits as its receiver keeps them. -/
def Packet.received (p : Packet) (vc : Nat) : List RxFlit := (p.flits vc).map fun f => ⟨f.idx, f.vc, 0, f.payload, 0⟩

theorem Packet.received_payloads (p : Packet) (vc : Nat) : (p.received vc).map RxFlit.payload = cutFlits 18 p.bytes := by
  rw [Packet.received, Packet.flits, List.map_map]
  exact List.ext_getElem (by simp) fun i h h' => by simp

theorem wholePacket_received {p : Packet} (hr : p.InRange) (vc : Nat) : wholePacket (p.received vc) = some p := by
  have hdata : p.data.length ≤ 4096 := by
    rw [hr.data, dataLen]
    split
    · exact Nat.zero_le _
    · exact hr.len
  have hfits : p.bytes.length ≤ 242 * 18 := by
    rw [p.bytes_length]
    omega
  obtain ⟨pad, hpad⟩ := cutFlits_flatten hfits
  have hbytes : ((p.received vc).flatMap fun f => f.payload) = p.bytes ++ pad := by
    rw [List.flatMap_def, p.received_payloads, hpad]
  have hcount : (p.received vc).length = flitsOf p.data.length := by
    rw [← List.length_map, p.received_payloads, cutFlits_length hfits, p.bytes_length, flitsOf]
  have hsome : p.received vc ≠ [] := List.length_pos_iff.1 (by rw [hcount, flitsOf]; omega)
  have hlen : dataLen (bitsOf (entryWord (p.bytes ++ pad) 4 4) 23 20) (entryWord (p.bytes ++ pad) 14 2) = p.data.length := by
    rw [bitsOf_eq, Packet.bytes, List.append_assoc, List.append_assoc]
    exact Packet.dataLen_header hr _
  have hall : flitsOf (dataLen (bitsOf (entryWord (p.bytes ++ pad) 4 4) 23 20) (entryWord (p.bytes ++ pad) 14 2)) ≤
      (p.received vc).length := by rw [hlen, hcount]
  rw [wholePacket, hbytes]
  exact (if_pos ⟨hsome, hall⟩).trans (congrArg some (Packet.parse_bytes_append hr pad))

/-- Settles O42. -/
theorem flitsAndPacketsReadBack : Obligations.FlitsAndPacketsReadBack := by
  unfold Obligations.FlitsAndPacketsReadBack
  refine ⟨fun h payload hvc htype hseq hack hcvc hpool hcredits hlen => ?_,
    fun p hdst hsrc hhop hkind haddr hlen hdata htid htseq hpoison hcrc hrsv => ?_⟩
  · exact ⟨flitSeal_length h payload, flitGood_seal _ (flitBody_length h payload),
      flitSeal_header ⟨hvc, htype, hseq, hack, hcvc, hpool, hcredits⟩ payload, flitSeal_payload h hlen⟩
  · have hr : p.InRange := ⟨hdst, hsrc, hhop, hkind, haddr, hlen, hdata, htid, htseq, hpoison, hcrc, hrsv⟩
    refine ⟨?_, wholePacket_received hr⟩
    rw [← p.bytes.append_nil, Packet.parse_bytes_append hr]

end Sys2Proof.Machine
end

section
/-! SUPPORT. The arms of `exec` for the instructions of links, and packets that have arrived whole on a link (R371, R372): one
whose end-to-end CRC is correct leaves its receive slots and is acted on. -/

namespace Sys2Proof.Machine

/-! ### The arms of `exec`

One equation per instruction, so that no proof asks for the equations of `exec` as a whole. -/

theorem exec_replayTimeout_arm (l : Nat) (s : State) : exec (.replayTimeout l) s = execReplayTimeout l s := rfl
theorem exec_routeLoadDone_arm (s : State) : exec .routeLoadDone s = execRouteLoadDone s := rfl
theorem exec_routeArm_arm (r j : Nat) (s : State) : exec (.routeArm r j) s = execRouteArm r j s := rfl
theorem exec_routeProbe_arm (l : Nat) (s : State) : exec (.routeProbe l) s = execRouteProbe l s := rfl
theorem exec_coll_arm (r j : Nat) (v : HostView) (s : State) : exec (.coll r j v) s = execColl r j v s := rfl
theorem exec_collPacketReceive_arm (l : Nat) (s : State) :
    exec (.collPacketReceive l) s = execCollPacketReceive l s := rfl
theorem exec_gather_arm (r j : Nat) (v : HostView) (s : State) : exec (.gather r j v) s = execGather r j v s := rfl
theorem exec_gatherLanded_arm (r j : Nat) (s : State) : exec (.gatherLanded r j) s = execGatherLanded r j s := rfl
theorem exec_flitSend_arm (l : Nat) (s : State) : exec (.flitSend l) s = execFlitSend l s := rfl
theorem exec_message_arm (link : Nat) (s : State) : exec (.message link) s = execMessage link s := rfl
theorem exec_handcartAck_arm (link : Nat) (s : State) : exec (.handcartAck link) s = execHandcartAck link s := rfl
theorem exec_hold_arm (link : Nat) (s : State) : exec (.hold link) s = execHold link s := rfl
theorem exec_holdResendTimeout_arm (rank order : Nat) (s : State) :
    exec (.holdResendTimeout rank order) s = execHoldResendTimeout rank order s := rfl
theorem exec_wack_arm (l : Nat) (s : State) : exec (.wack l) s = execWack l s := rfl
theorem exec_readResp_arm (l : Nat) (v : HostView) (s : State) : exec (.readResp l v) s = execReadResp l v s := rfl
theorem exec_packetForward_arm (l : Nat) (s : State) : exec (.packetForward l) s = execPacketForward l s := rfl
theorem exec_unreachable_arm (l : Nat) (s : State) : exec (.unreachable l) s = execUnreachable l s := rfl
theorem exec_linkFinal_arm (l : Nat) (s : State) : exec (.linkFinal l) s = execLinkFinal l s := rfl
theorem exec_linkFinalTimeout_arm (l : Nat) (s : State) : exec (.linkFinalTimeout l) s = execLinkFinalTimeout l s := rfl
theorem exec_linkTrainRetry_arm (l peerRank peerLink lanes : Nat) (s : State) :
    exec (.linkTrainRetry l peerRank peerLink lanes) s = execLinkTrainRetry l peerRank peerLink lanes s := rfl

/-! ### Arrival -/

theorem State.checkCrc_good (s : State) (l : Nat) {p : Packet} (h : p.good = true) : s.checkCrc l p = s := if_pos h

/-- A control message with a good CRC is taken out of its slots and acted on. -/
theorem State.onCtrl_of {s : State} {l code : Nat} {a : Arrived} (h : s.hasCtrl l code a) (f : State → Packet → State) :
    s.onCtrl l code f = f (s.consume l a) a.pkt := by
  obtain ⟨harrived, hgood⟩ := h
  rw [State.onCtrl, harrived]
  dsimp only
  rw [State.checkCrc_good _ _ hgood, if_pos hgood]

/-- So is a packet of any other kind. -/
theorem State.onPacket_of {s : State} {l kind : Nat} {a : Arrived} (h : s.hasPacket l kind a) (f : State → Packet → State) :
    s.onPacket l kind f = f (s.consume l a) a.pkt := by
  obtain ⟨harrived, hgood⟩ := h
  rw [State.onPacket, harrived]
  dsimp only
  rw [State.checkCrc_good _ _ hgood]

end Sys2Proof.Machine
end

section
/-! SUPPORT. Flits that arrive (R361, R362, R368): what each flit makes of its link, gaps and the NACKs that name them, and the
timers that send flits again. -/

namespace Sys2Proof.Machine

/-! ### A flit -/

/-- The link's record once it has taken from a good flit its ACK and the credits that it returns. -/
def State.heardOn (s : State) (l : Nat) (h : FlitHeader) : LinkSt :=
  { ((s.link l).acked h.ack s.now).earn h with goodSince := s.now }

section
variable {s : State} {l : Nat} {flit : List Byte} (hlive : s.linkLive l = true)
include hlive

theorem exec_flitReceive_bad (hbad : flitGood flit = false) :
    exec (.flitReceive l flit) s = .next (s.addRegAt Reg.LNK_LINK_ERR_CRC_FAIL l 1) := by
  refine congrArg Host.Outcome.next ((if_neg ?_).trans (if_pos hbad))
  rw [hlive]
  exact Bool.true_eq_false_eq_False.elim

variable (hgood : flitGood flit = true)
include hgood

/-- What a good flit does turns on its type and, for a message, on the first byte of its payload. -/
theorem exec_flitReceive_good {h : FlitHeader} {payload : List Byte} {y : LinkSt} (hh : headerOf (leNat (flit.take 6)) = h)
    (hpayload : (flit.drop 6).take 242 = payload) (hy : s.heardOn l h = y) :
    exec (.flitReceive l flit) s = .next (
      if h.type = flitData then (s.setLink l (y.data ⟨h.seq, h.vc, h.paidBy, payload, s.instant⟩ s.now)).absorb l
      else if h.type = flitLctrl ∧ leNat (payload.take 1) = lcPark then (s.setLink l y).linkDown l 4
      else if h.type = flitLctrl ∧ leNat (payload.take 1) = lcRank then
        (s.setLink l y).setRegAt Reg.LNK_LINK_STATUS_PEER_RANK l (leNat ((payload.drop 4).take 4))
      else if h.type = flitLctrl ∧ leNat (payload.take 1) = lcTrain then
        ((s.setLink l y).setRegAt Reg.LNK_LINK_STATUS_PEER_RANK l (leNat ((payload.drop 4).take 4))).setRegAt
          Reg.LNK_LINK_STATUS_PEER_LINK l (leNat ((payload.drop 1).take 1))
      else if h.type = flitLctrl ∧ leNat (payload.take 1) = lcLane then
        (s.setLink l y).spareLanes l (leNat ((payload.drop 1).take 1))
      else s.setLink l y) := by
  subst hh hpayload hy
  exact congrArg Host.Outcome.next ((if_neg (by simp [hlive])).trans (if_neg (by simp [hgood])))

end

/-! ### ACK -/

theorem LinkSt.mem_acked_replay (x : LinkSt) (ack now : Nat) (e : Replay) :
    e ∈ (x.acked ack now).replay ↔ e ∈ x.replay ∧ (seqAfter ack e.seq = 0 ∨ 2 ^ 15 < seqAfter ack e.seq) := by
  have hmem : e ∈ x.replay.filter (fun e => seqAfter ack e.seq == 0 || decide (2 ^ 15 < seqAfter ack e.seq)) ↔
      e ∈ x.replay ∧ (seqAfter ack e.seq = 0 ∨ 2 ^ 15 < seqAfter ack e.seq) := by simp
  rw [← hmem, LinkSt.acked]
  split
  case isTrue hall => rw [List.filter_eq_self.2 (List.length_filter_eq_length_iff.1 hall)]
  case isFalse => rfl

/-! ### Lanes -/

theorem State.spareLanes_one (s : State) {l lane : Nat} (hlane : lane < 4)
    (hused : bitOf (s.regs.getAt Reg.LNK_LINK_STATUS_LANES l) lane = true) :
    let m := s.regs.getAt Reg.LNK_LINK_STATUS_LANES l - 2 ^ lane
    let s1 := ((s.addRegAt Reg.LNK_LINK_ERR_SPARES l 1).event 4 0x10A0 l lane).setRegAt Reg.LNK_LINK_STATUS_LANES l m
    s.spareLanes l m = if lanesOn m < 2 then s1.linkDown l 3 else s1 := by
  intro m s1
  have hbit (k : Nat) : bitOf m k = (bitOf (s.regs.getAt Reg.LNK_LINK_STATUS_LANES l) k && k != lane) := bitOf_sub_two_pow hused k
  have hand : s.regs.getAt Reg.LNK_LINK_STATUS_LANES l &&& m = m := Nat.eq_of_testBit_eq fun k => by
    have hk : m.testBit k = _ := hbit k
    rw [Nat.testBit_and, hk, bitOf, Bool.and_self_left]
  have hspared : ((List.range 4).filter fun k => bitOf (s.regs.getAt Reg.LNK_LINK_STATUS_LANES l) k && !bitOf m k) = [lane] := by
    have hone : ∀ k < 4, (List.range 4).filter (· == k) = [k] := by decide
    rw [← hone lane hlane]
    refine List.filter_congr fun k _ => ?_
    rw [hbit]
    by_cases hk : k = lane
    · simp [hk, hused]
    · rw [bne_iff_ne.2 hk, Bool.and_true, Bool.and_not_self, beq_false_of_ne hk]
  rw [State.spareLanes, hspared, hand]
  rfl

/-! ### Flits in order, after a gap, and twice -/

section
variable {y : LinkSt} {f : RxFlit}

theorem LinkSt.data_next (h : f.seq = y.rxNext) (now : Nat) :
    y.data f now = (({ y with missing := Tbl.del y.missing f.seq }).deliver f).deliverHeld y.held.length := if_pos h

theorem LinkSt.data_twice (hne : f.seq ≠ y.rxNext) (hold : 2 ^ 15 ≤ seqAfter f.seq y.rxNext) (now : Nat) : y.data f now = y :=
  (if_neg hne).trans (if_pos (.inl hold))

theorem LinkSt.nack_nil (y : LinkSt) (now : Nat) : y.nack [] now = y := by
  rw [LinkSt.nack, List.length_nil, nackFlits, List.append_nil, List.foldl_nil]

/-- The gap before a flit, as its NACK names it. -/
def LinkSt.gapsBefore (y : LinkSt) (f : RxFlit) : List Nat := ({ y with missing := Tbl.del y.missing f.seq }).newGaps f.seq

theorem LinkSt.data_early (hne : f.seq ≠ y.rxNext) (hahead : seqAfter f.seq y.rxNext < 2 ^ 15) (hnew : ∀ g ∈ y.held, g.seq ≠ f.seq)
    (now : Nat) : y.data f now = ({ y with
      missing := Tbl.del y.missing f.seq
      held := y.held ++ [f] }).nack (y.gapsBefore f) now := by
  have hkeep : ¬(2 ^ 15 ≤ seqAfter f.seq y.rxNext ∨ (y.held.any fun g => g.seq == f.seq) = true) := by
    simp only [List.any_eq_true, beq_iff_eq, not_or, not_exists, not_and]
    exact ⟨Nat.not_le_of_lt hahead, hnew⟩
  refine ((if_neg hne).trans (if_neg hkeep)).trans ?_
  change (if y.gapsBefore f = [] then _ else _) = _
  split
  case isTrue hnone => rw [hnone, LinkSt.nack_nil]
  case isFalse => rfl

theorem Tbl.find_foldl_put (now : Nat) (q : List Nat) (t : List (Nat × Nat)) {k : Nat} (hk : k ∈ q) :
    Tbl.find (q.foldl (fun t k => Tbl.put t k now) t) k = some now := by
  induction q using List.reverseRecOn with
  | nil => exact absurd hk List.not_mem_nil
  | append_singleton q a ih =>
    rw [List.foldl_append, List.foldl_cons, List.foldl_nil]
    by_cases ha : a = k
    · rw [ha, Tbl.find_put_self]
    · rw [Tbl.find_put_other _ _ ha]
      exact ih (by simpa [Ne.symm ha] using hk)

/-- With nothing held and nothing known to be missing, the gap is every SEQ before the flit. -/
theorem LinkSt.gapsBefore_all (hheld : y.held = []) (hmissing : y.missing = []) :
    y.gapsBefore f = (List.range (seqAfter f.seq y.rxNext)).map fun i => (y.rxNext + i) % 2 ^ 16 := by
  rw [LinkSt.gapsBefore, LinkSt.newGaps]
  simp [hheld, hmissing, Tbl.del, Tbl.find]

theorem nackFlits_one {q : List Nat} (hsome : q ≠ []) (hfits : q.length ≤ 16) :
    nackFlits q.length q = [leBytes 1 lcNack ++ leBytes 1 q.length ++ q.flatMap (leBytes 2)] := by
  obtain ⟨a, q, rfl⟩ := List.exists_cons_of_ne_nil hsome
  have hrest : ∀ n, nackFlits n [] = [] := fun n => by cases n <;> rfl
  rw [List.length_cons, nackFlits, ← List.length_cons, List.drop_of_length_le hfits, List.take_of_length_le hfits, hrest,
    Nat.min_eq_right hfits]
  exact List.cons_ne_nil a q

theorem seqAfter_pos {a b : Nat} (ha : a < 2 ^ 16) (hb : b < 2 ^ 16) (hne : a ≠ b) : 0 < seqAfter a b := by
  unfold seqAfter
  omega

end

/-! ### Resends -/

section
variable {s : State} {l : Nat} (hlive : s.linkLive l = true)
include hlive

theorem exec_nackReceive (seqs : List Nat) : exec (.nackReceive l seqs) s = .next (s.setLink l { s.link l with
    resend := (s.link l).resend ++ (seqs.take 16).filter fun k =>
      ((s.link l).replay.any fun e => e.seq == k) && !(s.link l).resend.contains k }) :=
  congrArg Host.Outcome.next (if_neg (by simp [hlive]))

theorem exec_nackRepeat {late : List Nat}
    (hlate : late = ((s.link l).missing.filter fun e => decide (e.2 + 25000 ≤ s.now)).map Prod.fst) (hsome : late ≠ []) :
    exec (.nackRepeat l) s = .next (s.setLink l ((s.link l).nack late s.now)) := by
  subst hlate
  exact congrArg Host.Outcome.next (if_neg (by simp [hlive, hsome]))

theorem exec_replayTimeout {e : Replay} (holdest : (s.link l).replay.head? = some e) (hstill : (s.link l).ackSince + 50000 ≤ s.now)
    (hnew : e.seq ∉ (s.link l).resend) : exec (.replayTimeout l) s = .next (s.setLink l { s.link l with
      resend := e.seq :: (s.link l).resend
      ackSince := s.now }) := by
  have hresend : (if (s.link l).resend.contains e.seq then (s.link l).resend else e.seq :: (s.link l).resend) =
      e.seq :: (s.link l).resend := if_neg (by simpa using hnew)
  have hdue : ¬(s.linkLive l = false ∨ s.now < (s.link l).ackSince + 50000) := by simp [hlive, hstill]
  simp only [exec_replayTimeout_arm, execReplayTimeout, holdest, if_neg hdue, hresend]

end

/-- Settles O44. -/
theorem flitsArrive : Obligations.FlitsArrive := by
  unfold Obligations.FlitsArrive
  intro s l hlive x
  refine ⟨fun flit => exec_flitReceive_bad hlive, fun flit hgood => ?_, fun lane => s.spareLanes_one, fun y f now => ?_,
    x.mem_acked_replay, exec_nackReceive hlive, fun late => exec_nackRepeat hlive, fun e => exec_replayTimeout hlive⟩
  · intro h y payload
    have hexec := exec_flitReceive_good hlive hgood (h := h) (y := y) rfl rfl rfl
    refine ⟨fun ht => ?_, fun ht => ?_, fun ht hm => ?_, fun ht hm => ?_, fun ht hm => ?_, fun ht hm => ?_⟩
    · simp [hexec, ht, flitData, flitLctrl]
    · simp [hexec, ht, flitData, payload]
    all_goals simp [hexec, ht, payload, hm, flitData, flitLctrl, lcPark, lcRank, lcTrain, lcLane]
  · refine ⟨fun h => LinkSt.data_next h now, fun hne hold => LinkSt.data_twice hne hold now, fun hne hahead hnew => ?_,
      fun hne hseq hnext hnear hheld hmissing => ?_⟩
    · rw [LinkSt.data_early hne hahead hnew]
      exact ⟨rfl, rfl, rfl, fun k => Tbl.find_foldl_put now _ _⟩
    · have hlen : (y.gapsBefore f).length = seqAfter f.seq y.rxNext := by simp [LinkSt.gapsBefore_all hheld hmissing]
      have hsome : y.gapsBefore f ≠ [] := List.length_pos_iff.1 (hlen ▸ seqAfter_pos hseq hnext hne)
      rw [LinkSt.data_early hne (hnear.trans_lt (by decide)) (by simp [hheld])]
      refine congrArg (y.lctrl ++ ·) ((nackFlits_one hsome (hlen ▸ hnear)).trans ?_)
      rw [hlen, LinkSt.gapsBefore_all hheld hmissing, List.flatMap_map]

end Sys2Proof.Machine
end

section
/-! SUPPORT. Route tables (R380 to R382): the image that a ROUTE_LOAD reads, what the route check asks of every rank, a swap that is
armed, and the answer to a probe. -/

namespace Sys2Proof.Machine

/-! ### The standby bank -/

/-- A table that lists a function's values where they are not 0 reads as the function, on the numbers it was made from. -/
theorem Tbl.get_listed (f : Nat → Nat) {l : List Nat} {a : Nat} (ha : a ∈ l) :
    Tbl.get ((l.map fun i => (i, f i)).filter fun x => x.2 != 0) 0 a = f a := by
  have hfind (l : List Nat) : Tbl.find ((l.map fun i => (i, f i)).filter fun x => x.2 != 0) a =
      if a ∈ l ∧ f a ≠ 0 then some (f a) else none := by
    induction l with
    | nil => simp [Tbl.find]
    | cons i l ih =>
      rw [List.map_cons, List.filter_cons]
      by_cases hi : i = a
      · subst hi
        by_cases hf : f i = 0
        · simpa [hf] using ih
        · simp [hf, Tbl.find]
      · by_cases hf : f i = 0
        · simpa [hf, Ne.symm hi] using ih
        · simpa [hf, Tbl.find, hi, Ne.symm hi] using ih
  rw [Tbl.get, hfind]
  by_cases hf : f a = 0
  · simp [hf]
  · simp [ha, hf]

theorem bankOf_get (b : List Byte) {n i : Nat} (hi : i < n) :
    Tbl.get (bankOf b n) 0 i = leNat ((b.drop (8 * i)).take 8) &&& routeBits :=
  Tbl.get_listed (fun i => leNat ((b.drop (8 * i)).take 8) &&& routeBits) (List.mem_range.2 hi)

/-! ### ROUTE_LOAD -/

/-- A read that meets a bus error leaves the module alone: only host windows and peers answer with one. -/
theorem State.fetch_st_of_err {s : State} {v : HostView} {a n : Nat} (h : (s.fetch v a n).err = true) : (s.fetch v a n).st = s := by
  unfold State.fetch at *
  split at h
  case isTrue hown =>
    rw [if_pos hown]
    unfold State.get at *
    split at h
    · exact nomatch h
    · exact nomatch h
    · rfl
  case isFalse hpeer => rw [if_neg hpeer]

section
variable {s : State} {r j : Nat} {v : HostView} {d : Desc} (hidle : s.net.loading = none) (hd : s.ready r j 0x20 = some d)
  (heval : d.eval = true → s.evalOn = true) (hfree : s.host.stuck d.unit = false)
  (hjudge : s.judge .image (d.n 0 8) (8 * (2048 + d.n 8 2)) = none) (halign : d.n 0 8 % 64 = 0) (hcount : d.n 8 2 ≤ 4096)
  (hopen : s.localOpen (d.n 0 8) (8 * (2048 + d.n 8 2)) = true)
include hidle hd heval hfree hjudge halign hcount hopen

/-- The state after the image of an acceptable ROUTE_LOAD has been read, as far as the read itself goes. -/
theorem exec_routeLoad_judged :
    let g := (s.take r j).fetch v (d.n 0 8) (8 * (2048 + d.n 8 2))
    let out : Nat × List (Nat × Nat) :=
      if g.err then (St.strReadErr, s.net.standby)
      else if g.poison then (St.poisonConsumed, s.net.active)
      else (St.ok, bankOf g.data (2048 + d.n 8 2))
    let s1 := if g.err then g.st else (g.st.setReg Reg.LNK_ROUTE_STATUS_ARMED 0).setReg Reg.LNK_ROUTE_ARMED_STEP 0
    exec (.routeLoad r j v) s = .next { s1 with net := { s1.net with loading := some (r, j, out.1, out.2) } } := by
  have hfields : ¬(d.n 0 8 % 64 ≠ 0 ∨ 4096 < d.n 8 2) := by omega
  refine congrArg Host.Outcome.next ((if_neg (by simp [hidle])).trans ?_)
  rw [State.onDesc_of_ready hd hfree heval]
  dsimp only
  rw [hjudge]
  exact (if_neg hfields).trans (if_neg (by simp [hopen]))

theorem exec_routeLoad_read (herr : ((s.take r j).fetch v (d.n 0 8) (8 * (2048 + d.n 8 2))).err = false)
    (hpoison : ((s.take r j).fetch v (d.n 0 8) (8 * (2048 + d.n 8 2))).poison = false) :
    let g := (s.take r j).fetch v (d.n 0 8) (8 * (2048 + d.n 8 2))
    let s1 := (g.st.setReg Reg.LNK_ROUTE_STATUS_ARMED 0).setReg Reg.LNK_ROUTE_ARMED_STEP 0
    exec (.routeLoad r j v) s =
      .next { s1 with net := { s1.net with loading := some (r, j, St.ok, bankOf g.data (2048 + d.n 8 2)) } } := by
  have hexec := exec_routeLoad_judged (v := v) hidle hd heval hfree hjudge halign hcount hopen
  simpa only [herr, hpoison, Bool.false_eq_true, if_false] using hexec

theorem exec_routeLoad_busError (herr : ((s.take r j).fetch v (d.n 0 8) (8 * (2048 + d.n 8 2))).err = true) :
    let g := (s.take r j).fetch v (d.n 0 8) (8 * (2048 + d.n 8 2))
    exec (.routeLoad r j v) s =
      .next { g.st with net := { g.st.net with loading := some (r, j, St.strReadErr, g.st.net.standby) } } := by
  have hexec := exec_routeLoad_judged (v := v) hidle hd heval hfree hjudge halign hcount hopen
  have hstandby : (s.take r j).net.standby = s.net.standby := rfl
  simpa only [herr, if_true, State.fetch_st_of_err herr, hstandby] using hexec

end

theorem exec_routeLoadDone {s : State} {r j st : Nat} {bank : List (Nat × Nat)} (hloading : s.net.loading = some (r, j, st, bank))
    (hclean : st ≠ St.poisonConsumed) : exec .routeLoadDone s = .next (({ s with net := { s.net with
      standby := bank
      loading := none } }).complete r j st 0 0) := by
  simp only [exec_routeLoadDone_arm, execRouteLoadDone, hloading, if_neg hclean]

/-! ### ROUTE_ARM -/

theorem exec_routeArm_asks {s : State} {r j : Nat} {d : Desc} (hnew : s.working r j 0x21 = none) (hd : s.ready r j 0x21 = some d)
    (hfree : s.host.stuck d.unit = false) (heval : d.eval = true → s.evalOn = true)
    (hlater : ∀ n, s.stepNow = some n → n < d.n 0 8) : exec (.routeArm r j) s = .next ((s.take r j).probe 1) := by
  simp only [exec_routeArm_arm, execRouteArm, hnew, State.onDesc_of_ready hd hfree heval]
  cases hstep : s.stepNow with
  | none => rfl
  | some n => exact congrArg _ (if_neg (by simpa using hlater n hstep))

/-- The neighbour's rank under its standby bank, as it has answered. -/
def State.nextPeerRank (s : State) (l : Nat) : Nat := Tbl.get (Tbl.get s.net.peersNext [] l) (s.peerRank l) (2 ^ 20 + 1)

section
variable {s : State} {r j : Nat} {d : Desc} (hd : s.working r j 0x21 = some d) (hall : s.answered s.net.peersNext = true)
include hd hall

theorem exec_routeArm_arms (hpass : s.routeCheck s.net.standby s.nextRank s.net.peersNext s.nextPeerRank = none) :
    exec (.routeArm r j) s = .next (
      ((s.setReg Reg.LNK_ROUTE_STATUS_ARMED 1).setReg Reg.LNK_ROUTE_ARMED_STEP (d.n 0 8)).complete r j St.ok 0 0) := by
  unfold State.nextPeerRank at hpass
  simp only [exec_routeArm_arm, execRouteArm, hd, hall, Bool.true_eq_false, if_false, hpass]
  rfl

theorem exec_routeArm_refused {st rank : Nat}
    (hfail : s.routeCheck s.net.standby s.nextRank s.net.peersNext s.nextPeerRank = some (st, rank)) :
    exec (.routeArm r j) s = .next (s.complete r j st 0 rank) := by
  unfold State.nextPeerRank at hfail
  simp only [exec_routeArm_arm, execRouteArm, hd, hall, Bool.true_eq_false, if_false, hfail]

end

/-! ### The route check -/

theorem State.routeCheck_none {s : State} {bank : List (Nat × Nat)} {self : Nat} {peers : List (Nat × List (Nat × Nat))}
    {rankOf : Nat → Nat} (h : s.routeCheck bank self peers rankOf = none) :
    routeLinks (routeEntry bank self self) = 0 ∧ ∀ r < 2 ^ 20, s.hopsOk bank self peers rankOf r = true := by
  unfold State.routeCheck at h
  split at h
  case h_1 => exact nomatch h
  case h_2 hloop =>
    have hranks := (s.firstLoop_none bank self peers rankOf _ _).1 hloop
    split at h
    case isTrue hown => exact ⟨hown, fun r hr => hranks r (Nat.zero_le r) (by omega)⟩
    case isFalse => exact nomatch h

/-- What the check asks of the links that a rank's entry names. -/
theorem State.hopsOk_named {s : State} {bank : List (Nat × Nat)} {self r l : Nat} {peers : List (Nat × List (Nat × Nat))}
    {rankOf : Nat → Nat} (h : s.hopsOk bank self peers rankOf r = true) (hr : r ≠ self)
    (hl : l ∈ s.named (routeEntry bank self r)) :
    (routeHops (routeEntry bank self r) = 1 → rankOf l = r) ∧
      (2 ≤ routeHops (routeEntry bank self r) →
        Tbl.get (Tbl.get peers [] l) 0 r + 1 = routeHops (routeEntry bank self r)) := by
  rw [State.hopsOk] at h
  constructor
  · intro hone
    rw [if_neg (by omega), if_pos hone, List.all_eq_true] at h
    exact beq_iff_eq.1 (h l hl)
  · intro hmore
    rw [if_neg (by omega), if_neg (by omega), List.all_eq_true] at h
    exact beq_iff_eq.1 (h l hl)

/-! ### Probes -/

theorem exec_routeProbe {s : State} {l : Nat} {a : Arrived} (h : s.hasCtrl l CT.probe a)
    (hbank : leNat ((a.pkt.data.drop 1).take 1) = 0) :
    exec (.routeProbe l) s = .next ((s.consume l a).each (List.range 161) fun s1 i => s1.sendOver l a.pkt.src
      (leBytes 1 CT.answer ++ leBytes 1 0 ++ leBytes 2 0 ++ leBytes 4 (i * 4080) ++ leBytes 4 s.rank ++
        packHops s.net.active s.rank (i * 6528) (min 6528 (2 ^ 20 - i * 6528)))) := by
  have hplace (i : Nat) : i * 6528 * 5 / 8 = i * 4080 := by omega
  have hcount : (2 ^ 20 + 6528 - 1) / 6528 = 161 := by decide
  simp only [exec_routeProbe_arm, execRouteProbe, State.onCtrl_of h, hbank, if_true, ranksPerAnswer, hplace, hcount]
  rfl

/-- Settles O48. -/
theorem routeTables : Obligations.RouteTables := by
  unfold Obligations.RouteTables
  intro s
  refine ⟨fun r j v d hidle hd heval hfree hjudge halign hcount hopen => ?_, fun r j st bank => exec_routeLoadDone,
    fun b n i => bankOf_get b, fun r j d => exec_routeArm_asks, fun r j d hd hall => ?_,
    fun bank self peers rankOf hpass => ?_, fun l a => exec_routeProbe, fun l dst data => rfl⟩
  · exact ⟨exec_routeLoad_read hidle hd heval hfree hjudge halign hcount hopen,
      exec_routeLoad_busError hidle hd heval hfree hjudge halign hcount hopen⟩
  · exact ⟨exec_routeArm_arms hd hall, fun st rank => exec_routeArm_refused hd hall⟩
  · obtain ⟨hown, hranks⟩ := State.routeCheck_none hpass
    exact ⟨hown, fun r l hr hne hl => State.hopsOk_named (hranks r hr) hne hl⟩

end Sys2Proof.Machine
end

section
/-! SUPPORT. Collective operations on a ring (R385, R386, R389, R404, R417, R418): how a chunk is cut into packets, one addition, COLL
and GATHER accepted, the packets that come, and a carriage that has landed. -/

namespace Sys2Proof.Machine

/-! ### Packets of a chunk -/

/-- Parts of 4 KiB cover the first bytes of a chunk, up to its end. -/
theorem sum_parts (m k : Nat) : ((List.range k).map fun i => min 4096 (m - 4096 * i)).sum = min m (4096 * k) := by
  induction k with
  | zero => simp
  | succ k ih =>
    rw [List.range_succ, List.map_append, List.sum_append, ih, List.map_singleton, List.sum_singleton]
    omega

/-- The bytes of the first packet, which ends at the source's next granule. -/
def headLen (start n : Nat) : Nat := min n ((64 - start % 64) % 64)

theorem cutChunk_eq (seg o q start n : Nat) : cutChunk seg o q start n =
    (if headLen start n = 0 then [] else [⟨seg, o, q, 0, headLen start n⟩]) ++
      (List.range ((n - headLen start n + 4095) / 4096)).map fun i =>
        ⟨seg, o, q, headLen start n + 4096 * i, min 4096 (n - headLen start n - 4096 * i)⟩ := rfl

theorem cutChunk_sum (seg o q start n : Nat) : ((cutChunk seg o q start n).map CollPkt.len).sum = n := by
  have hhead : ((if headLen start n = 0 then [] else [(⟨seg, o, q, 0, headLen start n⟩ : CollPkt)]).map CollPkt.len).sum =
      headLen start n := by
    split
    case isTrue h => rw [h]; rfl
    case isFalse => simp
  have hle : headLen start n ≤ n := Nat.min_le_left _ _
  rw [cutChunk_eq, List.map_append, List.sum_append, hhead, List.map_map]
  refine (congrArg (headLen start n + ·) (sum_parts _ _)).trans ?_
  omega

theorem mem_cutChunk {seg o q start n : Nat} {p : CollPkt} (h : p ∈ cutChunk seg o q start n) :
    p.len ≤ 4096 ∧ p.off + p.len ≤ n ∧ (p.off ≠ 0 → (start + p.off) % 64 = 0) := by
  rw [cutChunk_eq, List.mem_append, List.mem_map] at h
  have hhead : headLen start n ≤ n ∧ headLen start n < 64 ∧ (headLen start n < n → (start + headLen start n) % 64 = 0) := by
    unfold headLen
    omega
  obtain ⟨hle, hshort, halign⟩ := hhead
  rcases h with h | ⟨i, hi, rfl⟩
  · split at h
    · exact absurd h List.not_mem_nil
    · obtain rfl := List.mem_singleton.1 h
      exact ⟨by dsimp only; omega, by dsimp only; omega, fun hoff => absurd rfl hoff⟩
  · have hi := List.mem_range.1 hi
    dsimp only
    exact ⟨by omega, by omega, fun _ => by omega⟩

/-! ### One addition -/

theorem clean_any_snd (b : List Byte) : (clean b).any Prod.snd = false := by simp [clean]

theorem addTerm_one {m : SumMode} (x0 k : Nat) {x y : Nat} (hm : m.sr = false) (hx : x < 2 ^ 32) (hy : y < 2 ^ 32) :
    (addTerm m x0 k (clean (leBytes 4 x)) (clean (leBytes 4 y))).1 =
      clean (leBytes 4 (enc32 (rne32 (Val.add (val32 x) (val32 y)).1).1)) := by
  have hone (w : Nat) : ((clean (leBytes 4 w)).drop (4 * 0)).take 4 = clean (leBytes 4 w) :=
    List.take_of_length_le (by simp [clean])
  have hval {w : Nat} (hw : w < 2 ^ 32) : leNat ((clean (leBytes 4 w)).map Prod.fst) = w := by
    rw [map_fst_clean, leNat_leBytes]
    exact Nat.mod_eq_of_lt hw
  have hcount : (clean (leBytes 4 x)).length / 4 = 1 := by simp [clean]
  have hbytes (b : List Byte) : (b.map fun z => (z, false)) = clean b := rfl
  simp only [addTerm, hcount, List.range_one, List.map_singleton, List.flatMap_singleton, hone, hval hx, hval hy, hm,
    clean_any_snd, Bool.false_eq_true, if_false, Bool.or_self, hbytes]

/-! ### COLL -/

section
variable {s : State} {r j : Nat} {v : HostView} {d : Desc} (hd : s.ready r j 0x22 = some d) (hfree : s.host.stuck d.unit = false)
  (heval : d.eval = true → s.evalOn = true)
include hd hfree heval

theorem exec_coll_group {e : Nat} (hgroup : (s.touchStack [s.groupSpan (d.n 28 1)]).groupRefusal (d.n 28 1) = some e) :
    exec (.coll r j v) s = .next ((s.touchStack [s.groupSpan (d.n 28 1)]).complete r j e 0 0) := by
  simp only [exec_coll_arm, execColl, State.onDesc_of_ready hd hfree heval, hgroup]
  rfl

variable (hgroup : (s.touchStack [s.groupSpan (d.n 28 1)]).groupRefusal (d.n 28 1) = none)
include hgroup

theorem exec_coll_field (hbad : d.n 29 1 % 4 = 3 ∨ d.n 30 1 % 4 = 1 ∨ d.n 30 1 % 4 = 2) :
    exec (.coll r j v) s = .next ((s.touchStack [s.groupSpan (d.n 28 1)]).complete r j St.paramCode 0 0) := by
  simp only [exec_coll_arm, execColl, State.onDesc_of_ready hd hfree heval, hgroup, if_pos hbad]
  rfl

theorem exec_coll_starts {t u : Tensor} {s1 : State} {x : Nat × Nat} (hop : d.n 29 1 % 4 < 3)
    (hrm : d.n 30 1 % 4 = 0 ∨ d.n 30 1 % 4 = 3)
    (htensors : (s.touchStack [s.groupSpan (d.n 28 1)]).twoTensors v (d.n 0 8) (d.n 8 8) = (.ok (t, u), s1))
    (hshape : collShape (d.n 29 1 % 4) ((s.touchStack [s.groupSpan (d.n 28 1)]).groupSlot (d.n 28 1)).p
      ((s.touchStack [s.groupSpan (d.n 28 1)]).groupSlot (d.n 28 1)).self t u = .ok x)
    (hpoison : d.eval = true → u.poison ≠ 1) :
    let c := s1.newColl d (collKind (d.n 29 1 % 4)) none (d.n 24 4) (d.n 28 1) (d.n 29 1 % 4) x.1 x.2 (some t) (some u) none
    (s.touchStack [s.groupSpan (d.n 28 1)]).collOpen c = true →
      exec (.coll r j v) s = .next (((s1.take r j).addColl c).startRing v c) := by
  intro c hopen
  have hfields : ¬(d.n 29 1 % 4 = 3 ∨ d.n 30 1 % 4 = 1 ∨ d.n 30 1 % 4 = 2) := by omega
  have hwrites : ¬(d.eval = true ∧ u.poison = 1) := fun h => hpoison h.1 h.2
  simp only [exec_coll_arm, execColl, State.onDesc_of_ready hd hfree heval, hgroup, if_neg hfields, htensors, hshape, if_neg hwrites]
  exact congrArg _ (if_neg (by simp [c, hopen]))

end

/-! ### Packets of the ring -/

section
variable {s : State} {l : Nat} {a : Arrived} {c : Coll}
  (ha : s.arrived l (fun p => p.kind == PK.coll && p.dst == s.rank && ((s.collOf p true).isSome || (s.mismatched p).isSome)) =
    some a) (hgood : a.pkt.good = true)
include ha hgood

theorem exec_collPacketReceive_ring (hc : s.collOf a.pkt true = some c) (hkind : c.kind ≠ .dropSync)
    (hopen : s.collOpen c = true) :
    let c1 := { c with heard := NSet.add c.heard (c.ranks.idxOf a.pkt.src) }
    exec (.collPacketReceive l) s = .next (((s.consume l a).setColl c1).ringPacket c1 a.pkt.tseq a.pkt.pbytes) := by
  simp only [exec_collPacketReceive_arm, execCollPacketReceive, ha, State.checkCrc_good _ _ hgood, hc, hopen, Bool.true_eq_false, if_false]

theorem exec_collPacketReceive_mismatch (hnone : s.collOf a.pkt true = none) (hc : s.mismatched a.pkt = some c) :
    exec (.collPacketReceive l) s = .next ((s.consume l a).stopColl c St.collMismatch) := by
  simp only [exec_collPacketReceive_arm, execCollPacketReceive, ha, State.checkCrc_good _ _ hgood, hnone, hc]

end

/-! ### GATHER -/

theorem State.opcode_of_ready {s : State} {r j op : Nat} {d : Desc} (hd : s.ready r j op = some d) : d.opcode = op := by
  rw [State.ready] at hd
  split at hd
  · split at hd
    case isTrue h => exact Option.some.inj hd ▸ h.2.2
    case isFalse => exact nomatch hd
  · exact nomatch hd

theorem exec_gather_queued {s : State} {r j : Nat} {v : HostView} {d : Desc} (hd : s.ready r j 0x12 = some d)
    (hfree : s.host.stuck d.unit = false) (heval : d.eval = true → s.evalOn = true)
    (hforward : d.eval = true → bitOf (d.n 21 1) 0 = false) {ch : Nat} {t u : Tensor} {s1 : State} {x : Nat × Nat}
    (hqueue : queueChan (d.n 32 2) = some ch) (hroom : (s.chan ch).full = false)
    (hgroup : (s.touchStack [s.groupSpan (d.n 20 1)]).groupRefusal (d.n 20 1) = none)
    (htensors : (s.touchStack [s.groupSpan (d.n 20 1)]).twoTensors v (d.n 0 8) (d.n 8 8) = (.ok (t, u), s1))
    (hshape : gatherShape ((s.touchStack [s.groupSpan (d.n 20 1)]).groupSlot (d.n 20 1)).p
      ((s.touchStack [s.groupSpan (d.n 20 1)]).groupSlot (d.n 20 1)).self t u = .ok x)
    (hpoison : d.eval = true → u.poison ≠ 1) :
    exec (.gather r j v) s = .next (s1.queueColl d (d.n 32 2) ch
      (s1.newColl d .gather (some ch) (d.n 16 4) (d.n 20 1) 1 x.1 x.2 (some t) (some u) none)) := by
  have hbackward : ¬(d.eval = true ∧ bitOf (d.n 21 1) 0 = true) := fun h => by simp [hforward h.1] at h
  have hwrites : ¬(d.eval = true ∧ u.poison = 1) := fun h => hpoison h.1 h.2
  have hstep : d.stepGroup = d.n 20 1 := if_pos (State.opcode_of_ready hd)
  simp only [exec_gather_arm, execGather, State.onStepDesc, State.onDesc_of_ready hd hfree heval, hqueue, hroom, Bool.false_eq_true, if_false,
    hstep, if_neg hbackward, hgroup, htensors, hshape, if_neg hwrites]

/-! ### A carriage -/

section
variable {s : State} {r j : Nat} {c : Coll} {d : Desc} (hc : s.coll r j = some c) (hd : s.working r j 0x12 = some d)
  (hstarted : c.started = true) (hall : c.allIn = true) (hdue : c.due = [])
include hc hd hstarted hall hdue

theorem exec_gatherLanded_forward (hforward : bitOf (d.n 21 1) 0 = false) :
    exec (.gatherLanded r j) s = .next ({ s with step := { s.step with
      carriages := Tbl.put s.step.carriages (d.n 22 2 % 4096) (leNat c.carriageTag) } }.endColl c c.status 0) := by
  simp [exec_gatherLanded_arm, execGatherLanded, hc, hd, hstarted, hall, hdue, hforward]

variable (hbackward : bitOf (d.n 21 1) 0 = true) {x : Nat} (hx : Tbl.find s.step.carriages (d.n 22 2 % 4096) = some x)
include hbackward hx

theorem exec_gatherLanded_same (hsame : x = leNat c.carriageTag) :
    exec (.gatherLanded r j) s = .next (s.endColl c c.status 0) := by
  simp [exec_gatherLanded_arm, execGatherLanded, hc, hd, hstarted, hall, hdue, hbackward, hx, hsame]

theorem exec_gatherLanded_differs (hdiffers : x ≠ leNat c.carriageTag) : exec (.gatherLanded r j) s =
    .next (((((s.event 9 St.shardVersionMismatch 0 (d.n 22 2 % 4096)).logEvent ⟨2, 0, d.n 22 2 % 4096, d.n 24 4 % 2 ^ 20⟩).endColl
      c St.shardVersionMismatch 0).dropBits 2 ((List.range (d.n 30 2)).map (d.n 28 2 + ·)))) := by
  simp [exec_gatherLanded_arm, execGatherLanded, hc, hd, hstarted, hall, hdue, hbackward, hx, hdiffers]

end

/-- Settles O54. -/
theorem ringCollectives : Obligations.RingCollectives := by
  unfold Obligations.RingCollectives
  intro s r j v d
  refine ⟨fun hd hfree heval => ?_, fun seg o q start n => ⟨cutChunk_sum seg o q start n, fun p => mem_cutChunk⟩,
    fun m x0 k x y => addTerm_one x0 k, fun l a c ha hgood => ?_, fun hd hfree heval hforward ch t u s1 x => ?_,
    fun c hc hd hstarted hall hdue => ?_⟩
  · exact ⟨fun e => exec_coll_group hd hfree heval, fun hgroup => exec_coll_field hd hfree heval hgroup,
      fun t u s1 x hgroup => exec_coll_starts hd hfree heval hgroup⟩
  · exact ⟨exec_collPacketReceive_ring ha hgood, exec_collPacketReceive_mismatch ha hgood⟩
  · exact exec_gather_queued hd hfree heval hforward
  · exact ⟨exec_gatherLanded_forward hc hd hstarted hall hdue,
      fun hback hx => exec_gatherLanded_same hc hd hstarted hall hdue hback hx rfl,
      fun x hback hx => exec_gatherLanded_differs hc hd hstarted hall hdue hback hx⟩

end Sys2Proof.Machine
end

section
/-! SUPPORT. Sending flits (R361 to R363, R365 to R367): what a slot of a link sends, the SEQ that a new flit takes, and what rides on
every flit. -/

namespace Sys2Proof.Machine

/-! ### Flits on the link -/

theorem State.sendData_plain (s : State) (l : Nat) (e : Replay) :
    let s1 := s.putFlit l e.flit.vc 1 e.seq e.pool (e.flit.egress s.instant) id id
    s.sendData l e id id = s1.setLink l (s1.link l).passed := rfl

/-- A flit that no hop pool pays for returns credits. -/
theorem State.putFlit_shared (s : State) (l vc type seq : Nat) (payload : List Byte) :
    let g := (s.link l).returns
    s.putFlit l vc type seq 0 payload id id = (s.setLink l g.2).emit (.flit l (flitSeal (flitBody
      ⟨vc, type, seq, (s.link l).rxNext, g.1.1, g.1.2.1, g.1.2.2⟩ payload))) := by
  simp only [State.putFlit, if_true, id]

/-- One that a hop pool pays for names the pool. -/
theorem State.putFlit_hop (s : State) (l vc seq : Nat) {pool : Nat} (payload : List Byte) (hpool : pool ≠ 0) :
    s.putFlit l vc 1 seq pool payload id id = (s.setLink l (s.link l)).emit (.flit l (flitSeal (flitBody
      ⟨vc, 1, seq, (s.link l).rxNext, vc, pool, 0⟩ payload))) := by
  simp only [State.putFlit, if_neg hpool, id]

/-! ### New flits -/

theorem LinkSt.assign_seq (x : LinkSt) (f : TxFlit) (pool : Nat) (rest : List TxFlit) (now : Nat) :
    let r := x.assign f pool rest now
    r.1.seq = x.txSeq ∧ r.2.txSeq = (x.txSeq + 1) % 2 ^ 16 ∧ r.2.replay = x.replay ++ [r.1] ∧ r.1.flit = f := ⟨rfl, rfl, rfl, rfl⟩

/-- Injection that is not armed selects no flit. -/
theorem State.select_unarmed {s : State} {l : Nat} (h : s.injArmed l = false) (x : LinkSt) (vc seq : Nat) :
    s.select l x vc seq = (false, x) := if_pos (.inl h)

theorem State.injArmed_of_off {s : State} {l : Nat} (h : s.injMode l = 0) : s.injArmed l = false := by
  simp [State.injArmed, h]

theorem State.sendNew_plain {s : State} {l : Nat} (hoff : s.injMode l = 0) (f : TxFlit) (pool : Nat) (rest : List TxFlit) :
    let r := (s.link l).assign f pool rest s.now
    s.sendNew l f pool rest = (s.setLink l r.2).sendData l r.1 id id := by
  simp only [State.sendNew, State.select_unarmed (State.injArmed_of_off hoff), if_true]

/-- The flit that a channel has to send, if it has a credit for it, with the pool that pays and the rest of its queue. -/
def LinkSt.offer (x : LinkSt) (vc : Nat) : Option (TxFlit × Nat × List TxFlit) :=
  match Tbl.get x.txq [] vc with
  | [] => none
  | f :: rest => (x.creditPool vc f.hop).map fun k => (f, k, rest)

theorem LinkSt.nextFlit_of_room {x : LinkSt} (hroom : x.replay.length < 16384) : x.nextFlit = x.vcOrder.findSome? x.offer :=
  (if_neg (Nat.not_le.2 hroom)).trans List.head?_filterMap

theorem LinkSt.offer_eq_none {x : LinkSt} {vc : Nat} (h : ∀ g r, Tbl.get x.txq [] vc = g :: r → x.creditPool vc g.hop = none) :
    x.offer vc = none := by
  rw [LinkSt.offer]
  cases hq : Tbl.get x.txq [] vc with
  | nil => rfl
  | cons g r => simp only [h g r hq, Option.map_none]

/-- The next new flit is that of the first channel in the order that has one to send. -/
theorem LinkSt.nextFlit_first {x : LinkSt} {pre post : List Nat} {vc k : Nat} {f : TxFlit} {rest : List TxFlit}
    (hroom : x.replay.length < 16384) (horder : x.vcOrder = pre ++ vc :: post)
    (hbefore : ∀ w ∈ pre, ∀ g r, Tbl.get x.txq [] w = g :: r → x.creditPool w g.hop = none)
    (hqueue : Tbl.get x.txq [] vc = f :: rest) (hcredit : x.creditPool vc f.hop = some k) : x.nextFlit = some (f, k, rest) := by
  have hoffer : x.offer vc = some (f, k, rest) := by simp only [LinkSt.offer, hqueue, hcredit, Option.map_some]
  have hpre : pre.findSome? x.offer = none := List.findSome?_eq_none_iff.2 fun w hw => LinkSt.offer_eq_none (hbefore w hw)
  rw [LinkSt.nextFlit_of_room hroom, horder, List.findSome?_append, hpre, List.findSome?_cons_of_isSome (by rw [hoffer]; rfl),
    hoffer]
  rfl

/-! ### One slot -/

section
variable {s : State} {l : Nat} (hlive : s.drainCtrl.linkLive l = true) (hruns : (s.drainCtrl.link l).injStopped = false)
include hlive hruns

theorem not_down_or_stopped : ¬(s.drainCtrl.linkLive l = false ∨ (s.drainCtrl.link l).injStopped = true) := by simp [hlive, hruns]

theorem exec_flitSend_resend {e : Replay} (he : (s.drainCtrl.link l).toResend = some e) :
    exec (.flitSend l) s = .next (s.drainCtrl.resendFlit l e) := by
  simp only [exec_flitSend_arm, execFlitSend, if_neg (not_down_or_stopped hlive hruns), he]

variable (hnone : (s.drainCtrl.link l).toResend = none)
include hnone

theorem exec_flitSend_heldBack {e : Replay} {t : List (Replay × Bool)} (hheld : (s.drainCtrl.link l).injHold = (e, true) :: t) :
    exec (.flitSend l) s =
      .next ((s.drainCtrl.setLink l { s.drainCtrl.link l with injHold := t }).sendData l e id id) := by
  simp only [exec_flitSend_arm, execFlitSend, if_neg (not_down_or_stopped hlive hruns), hnone, hheld]

variable (hnoHold : ∀ e t, (s.drainCtrl.link l).injHold ≠ (e, true) :: t)
include hnoHold

theorem exec_flitSend_lctrl {m : List Byte} {r : List (List Byte)} (hlctrl : (s.drainCtrl.link l).lctrl = m :: r) :
    exec (.flitSend l) s =
      .next ((s.drainCtrl.setLink l { s.drainCtrl.link l with lctrl := r }).putFlit l 0 flitLctrl 0 0 m id id) := by
  simp only [exec_flitSend_arm, execFlitSend, if_neg (not_down_or_stopped hlive hruns), hnone, hlctrl]

variable (hlctrl : (s.drainCtrl.link l).lctrl = [])
include hlctrl

theorem exec_flitSend_new {f : TxFlit} {k : Nat} {rest : List TxFlit}
    (hnext : (s.drainCtrl.link l).nextFlit = some (f, k, rest)) :
    exec (.flitSend l) s = .next (s.drainCtrl.sendNew l f k rest) := by
  simp only [exec_flitSend_arm, execFlitSend, if_neg (not_down_or_stopped hlive hruns), hnone, hlctrl, hnext]

theorem exec_flitSend_idle (hnext : (s.drainCtrl.link l).nextFlit = none) :
    exec (.flitSend l) s = .next (s.drainCtrl.putFlit l 0 flitIdle 0 0 [] id id) := by
  simp only [exec_flitSend_arm, execFlitSend, if_neg (not_down_or_stopped hlive hruns), hnone, hlctrl, hnext]

end

theorem State.resendFlit_low {s : State} {l : Nat} {e : Replay} (h : e.resends + 1 ≤ 7) :
    let e1 := { e with resends := e.resends + 1 }
    s.resendFlit l e = ((s.setLink l { s.link l with
      resend := (s.link l).resend.filter fun q => q != e.seq
      replay := (s.link l).replay.map fun y => if y.seq = e.seq then e1 else y }).addRegAt Reg.LNK_LINK_ERR_RETRANS l 1).sendData l
        e1 id id := if_neg (by dsimp only; omega)

theorem State.resendFlit_eighth {s : State} {l : Nat} {e : Replay} (h : 8 ≤ e.resends + 1) :
    let e1 := { e with resends := e.resends + 1 }
    s.resendFlit l e = (((s.setLink l { s.link l with
      resend := (s.link l).resend.filter fun q => q != e.seq
      replay := (s.link l).replay.map fun y => if y.seq = e.seq then e1 else y }).addRegAt Reg.LNK_LINK_ERR_RETRANS l 1).sendData l
        e1 id id).linkDown l 1 := if_pos h

/-- Settles O43. -/
theorem flitSlots : Obligations.FlitSlots := by
  unfold Obligations.FlitSlots
  intro s l d x held hlive hruns
  refine ⟨fun e he => ⟨fun hlow => ?_, fun hhigh => ?_⟩, fun e t hnone hback => exec_flitSend_heldBack hlive hruns hnone hback,
    fun m r hnone hheld => exec_flitSend_lctrl hlive hruns hnone hheld,
    fun pre vc post f rest k hnone hheld hlctrl hroom horder hbefore hqueue hcredit => ?_,
    fun hnone hheld => exec_flitSend_idle hlive hruns hnone hheld, x.assign_seq, fun f k rest hoff => State.sendNew_plain hoff f k rest,
    d.sendData_plain l, d.putFlit_shared l, fun vc seq pool payload => d.putFlit_hop l vc seq payload⟩
  · exact (exec_flitSend_resend hlive hruns he).trans (congrArg _ (State.resendFlit_low hlow))
  · exact (exec_flitSend_resend hlive hruns he).trans (congrArg _ (State.resendFlit_eighth hhigh))
  · exact exec_flitSend_new hlive hruns hnone hheld hlctrl (LinkSt.nextFlit_first hroom horder hbefore hqueue hcredit)

end Sys2Proof.Machine
end

section
/-! SUPPORT. Handcart messages between modules (R373): a message in its sender's order, its acknowledgement, and one that was held. -/

namespace Sys2Proof.Machine

/-! ### MESSAGE -/

section
variable {s : State} {link : Nat} {a : Arrived} (ha : s.hasPacket link PK.message a)
include ha

/-- The message is the next of its sender: it is applied and acknowledged. -/
theorem exec_message_next {s1 : State} (hnext : a.pkt.tseq % 2 ^ 16 = Tbl.get s.net.recvOrder 0 a.pkt.src)
    (happly : (s.consume link a).applyMessage link a.pkt = some s1) (hnone : s1.net.reorder = []) :
    exec (.message link) s = .next (({ s1 with net := { s1.net with
      recvOrder := Tbl.put s1.net.recvOrder a.pkt.src ((Tbl.get s.net.recvOrder 0 a.pkt.src + 1) % 2 ^ 16) } }).ackMessage
        a.pkt.src (a.pkt.tseq % 2 ^ 16)) := by
  have hwant : Tbl.get (s.consume link a).net.recvOrder 0 a.pkt.src = Tbl.get s.net.recvOrder 0 a.pkt.src := rfl
  simp only [exec_message_arm, execMessage, State.onPacket_of ha, hwant, if_pos hnext, happly, hnone, List.length_nil, State.applyHeld]

variable (hother : a.pkt.tseq % 2 ^ 16 ≠ Tbl.get s.net.recvOrder 0 a.pkt.src)
include hother

/-- It comes early: it is kept. -/
theorem exec_message_early
    (hahead : (a.pkt.tseq % 2 ^ 16 + 2 ^ 16 - Tbl.get s.net.recvOrder 0 a.pkt.src) % 2 ^ 16 < 2 ^ 15)
    (hroom : s.net.reorder.length < 1024) :
    exec (.message link) s = .next { s.consume link a with net := { (s.consume link a).net with
      reorder := (s.consume link a).net.reorder ++ [⟨a.pkt.src, a.pkt.tseq % 2 ^ 16, a.pkt, none, none, none, link⟩] } } := by
  have hwant : Tbl.get (s.consume link a).net.recvOrder 0 a.pkt.src = Tbl.get s.net.recvOrder 0 a.pkt.src := rfl
  have hroom' : (s.consume link a).net.reorder.length < 1024 := hroom
  simp only [exec_message_arm, execMessage, State.onPacket_of ha, hwant, if_neg hother, if_pos hahead, if_pos hroom']

/-- It was applied before: it is acknowledged again. -/
theorem exec_message_again
    (hbehind : 2 ^ 15 ≤ (a.pkt.tseq % 2 ^ 16 + 2 ^ 16 - Tbl.get s.net.recvOrder 0 a.pkt.src) % 2 ^ 16) :
    exec (.message link) s = .next ((s.consume link a).ackMessage a.pkt.src (a.pkt.tseq % 2 ^ 16)) := by
  have hwant : Tbl.get (s.consume link a).net.recvOrder 0 a.pkt.src = Tbl.get s.net.recvOrder 0 a.pkt.src := rfl
  simp only [exec_message_arm, execMessage, State.onPacket_of ha, hwant, if_neg hother, if_neg (Nat.not_lt.2 hbehind)]

end

/-! ### The replay store -/

/-- An acknowledgement of message `o` frees its entry of the replay store. -/
def State.freed (s : State) (rank o : Nat) : State :=
  { s with net := { s.net with replay := s.net.replay.filter fun e => !(e.rank == rank && e.order == o) } }

theorem State.mem_freed_replay (s : State) (rank o : Nat) (e : HcStored) :
    e ∈ (s.freed rank o).net.replay ↔ e ∈ s.net.replay ∧ ¬(e.rank = rank ∧ e.order = o) := by
  simp [State.freed, not_and_or, -not_and]

theorem exec_handcartAck_one {s : State} {link o : Nat} {a : Arrived} (ha : s.hasCtrl link CT.hcAck a)
    (hdata : a.pkt.data = leBytes 1 CT.hcAck ++ leBytes 3 1 ++ leBytes 4 o) (ho : o < 2 ^ 16)
    (hheld : ∀ e ∈ s.net.replay, e.rank = a.pkt.src → e.held = none) :
    exec (.handcartAck link) s = .next ((s.consume link a).freed a.pkt.src o) := by
  have hcount : leNat ((a.pkt.data.drop 1).take 1) = 1 := by rw [hdata]; rfl
  have horder : leNat ((a.pkt.data.drop (4 + 4 * 0)).take 4) = o := by
    rw [hdata, List.drop_left' (by simp), List.take_of_length_le (by simp), leNat_leBytes]
    exact Nat.mod_eq_of_lt (ho.trans (by decide))
  have hnone : ¬ (((s.consume link a).freed a.pkt.src o).net.replay.any fun e =>
      e.rank == a.pkt.src && e.order == (o + 1) % 2 ^ 16 && e.held.isSome) = true := by
    simp only [List.any_eq_true, not_exists, not_and, State.mem_freed_replay, Bool.and_eq_true, beq_iff_eq]
    rintro e ⟨hmem, -⟩ ⟨hrank, -⟩
    rw [hheld e hmem hrank]
    exact Bool.false_ne_true
  simp only [exec_handcartAck_arm, execHandcartAck, State.onCtrl_of ha, hcount, List.range_one, List.foldl_cons, List.foldl_nil, horder]
  exact congrArg _ (if_neg hnone)

/-- A HOLD of message `o` is noted with its time. -/
def HcStored.heldFor (e : HcStored) (rank o now : Nat) : HcStored :=
  if e.rank = rank ∧ e.order = o then { e with held := some now } else e

theorem HcStored.heldFor_key (e : HcStored) (rank o now : Nat) :
    (e.heldFor rank o now).rank = e.rank ∧ (e.heldFor rank o now).order = e.order := by
  unfold HcStored.heldFor
  split <;> exact ⟨rfl, rfl⟩

theorem HcStored.heldFor_held {e : HcStored} {rank o : Nat} (now : Nat) (hrank : (e.heldFor rank o now).rank = rank)
    (horder : (e.heldFor rank o now).order = o) : (e.heldFor rank o now).held = some now := by
  obtain ⟨hr, ho⟩ := e.heldFor_key rank o now
  rw [HcStored.heldFor, if_pos ⟨hr.symm.trans hrank, ho.symm.trans horder⟩]

/-- While the message before it is not acknowledged, a held message only waits. -/
theorem exec_hold_waits {s : State} {link : Nat} {a : Arrived} (ha : s.hasCtrl link CT.hold a) {e : HcStored} {o : Nat}
    (ho : leNat ((a.pkt.data.drop 4).take 4) = o) (he : e ∈ s.net.replay) (hrank : e.rank = a.pkt.src)
    (horder : e.order = (o + 2 ^ 16 - 1) % 2 ^ 16) :
    exec (.hold link) s = .next { s.consume link a with net := { (s.consume link a).net with
      replay := s.net.replay.map fun e => e.heldFor a.pkt.src o s.now } } := by
  have hbefore : ((s.net.replay.map fun e => e.heldFor a.pkt.src o s.now).any fun e =>
      e.rank == a.pkt.src && e.order == (o + 2 ^ 16 - 1) % 2 ^ 16) = true := by
    obtain ⟨hr, hq⟩ := e.heldFor_key a.pkt.src o s.now
    exact List.any_eq_true.2 ⟨_, List.mem_map_of_mem he, by rw [hr, hq, hrank, horder, beq_self_eq_true, beq_self_eq_true]; rfl⟩
  simp only [exec_hold_arm, execHold, State.onCtrl_of ha, ho]
  exact congrArg _ (if_pos hbefore)

theorem exec_holdResendTimeout_due {s : State} {rank order since : Nat} {e : HcStored}
    (he : s.net.replay.find? (fun e => e.rank == rank && e.order == order) = some e) (hheld : e.held = some since)
    (hdue : since + 50000 ≤ s.now) : exec (.holdResendTimeout rank order) s = .next (({ s with net := { s.net with
      replay := s.net.replay.map fun x => if x = e then { e with held := none } else x } }).sendPacket VC.handcart e.pkt) := by
  simp only [exec_holdResendTimeout_arm, execHoldResendTimeout, he, hheld, if_pos hdue, State.resend]

/-- Settles O12. -/
theorem handcartBetweenModules : Obligations.HandcartBetweenModules := by
  unfold Obligations.HandcartBetweenModules
  intro s link a
  refine ⟨fun ha => ?_, fun o ha hdata ho hheld => ?_, fun o ha ho hbefore => ?_,
    fun rank order since e => exec_holdResendTimeout_due⟩
  · exact ⟨fun s1 => exec_message_next ha, exec_message_early ha, exec_message_again ha⟩
  · exact ⟨_, exec_handcartAck_one ha hdata ho hheld, fun e => State.mem_freed_replay _ _ _ e, rfl, rfl⟩
  · obtain ⟨e, he, hrank, horder⟩ := hbefore
    refine ⟨_, exec_hold_waits ha ho he hrank horder, fun x hx hxrank hxorder => ?_, List.length_map _, rfl, rfl⟩
    obtain ⟨y, -, rfl⟩ := List.mem_map.1 hx
    exact HcStored.heldFor_held _ hxrank hxorder

end Sys2Proof.Machine
end

section
/-! SUPPORT. Packets that arrive for this module and on their way to others (R371, R374, R375, R377): writes and their
acknowledgements, reads and their answers, transit, and UNREACHABLE. -/

namespace Sys2Proof.Machine

/-! ### The place that a packet names -/

/-- A full address, where a peer may reach a run of bytes from it: tile and stacked memory of this module. -/
def State.targetAt (s : State) (x n : Nat) : Option Nat :=
  match s.judge ⟨[0, 1], true⟩ x n with
  | none => some x
  | some _ => none

/-- The place is taken from the model as it stands there, and only then written out: a comparison of two written-out places under
`judge` is one that the kernel would work out by counting. -/
theorem State.peerTarget_at (s : State) (p : Packet) :
    ∃ x, s.peerTarget p = s.targetAt x p.len ∧ x = s.rank * 2 ^ 44 + p.addr := ⟨_, rfl, rfl⟩

theorem State.peerTarget_eq (s : State) (p : Packet) : s.peerTarget p = s.targetAt (s.rank * 2 ^ 44 + p.addr) p.len := by
  obtain ⟨x, htarget, rfl⟩ := s.peerTarget_at p
  exact htarget

theorem State.targetAt_of {s : State} {x n : Nat} (h : s.judge ⟨[0, 1], true⟩ x n = none) : s.targetAt x n = some x := by
  rw [State.targetAt, h]

theorem State.targetAt_refused {s : State} {x n : Nat} (h : s.judge ⟨[0, 1], true⟩ x n ≠ none) : s.targetAt x n = none := by
  obtain ⟨e, he⟩ := Option.ne_none_iff_exists'.1 h
  rw [State.targetAt, he]

/-- A peer's access depends on the registers only by the own rank. -/
theorem State.judge_peer_congr {s t : State} (h : t.rank = s.rank) (a n : Nat) :
    t.judge ⟨[0, 1], true⟩ a n = s.judge ⟨[0, 1], true⟩ a n := by
  unfold State.judge State.judgeSpan
  by_cases h0 : addrWindow a = 0
  · simp [h0, h, State.offsetOk]
  · by_cases h1 : addrWindow a = 1
    · simp [h1, h, State.offsetOk]
    · simp [h0, h1]

theorem State.peerTarget_congr {s t : State} (h : t.rank = s.rank) (p : Packet) : t.peerTarget p = s.peerTarget p := by
  rw [State.peerTarget_eq, State.peerTarget_eq, State.targetAt, State.targetAt, h, State.judge_peer_congr h]

theorem State.peerTarget_consume (s : State) (l : Nat) (a : Arrived) (p : Packet) :
    (s.consume l a).peerTarget p = s.peerTarget p := State.peerTarget_congr (s := s) (t := s.consume l a) rfl p

theorem State.event_rank (s : State) (source status loc detail : Nat) : (s.event source status loc detail).rank = s.rank := by
  rw [State.event, State.rank, State.post_regs]
  exact eventStatus_getAt s.host _ s.regs (by unfold Field.outsideEventStatus Field.separate; decide) (by decide)

/-- Does an access of a peer that may reach its place wait? -/
def State.waitsAt (s : State) (n : Nat) : Option Nat → Bool
  | some x => !s.localOpen x n
  | none => false

theorem State.peerWaits_eq (s : State) (p : Packet) : s.peerWaits p = s.waitsAt p.len (s.peerTarget p) := rfl

theorem State.peerWaits_of_open {s : State} {p : Packet} {x : Nat} (htarget : s.peerTarget p = some x)
    (hopen : addrWindow x = 1 → s.memOpen (addrOffset x) p.len = true) : s.peerWaits p = false := by
  rw [State.peerWaits_eq, htarget, State.waitsAt, State.localOpen]
  by_cases hw : addrWindow x = 1
  · simp [hopen hw]
  · simp [hw]

theorem State.peerWaits_of_refused {s : State} {p : Packet} (htarget : s.peerTarget p = none) : s.peerWaits p = false := by
  rw [State.peerWaits_eq, htarget, State.waitsAt]

/-- A packet whose CRC fails brings poison. -/
theorem Packet.pbytes_bad {p : Packet} (h : p.good = false) : p.pbytes = p.data.map fun b => (b, true) := by
  rw [Packet.pbytes, h]
  exact List.ext_getElem (by simp) fun i hi hi' => by
    have : i < p.data.length := by simpa using hi'
    simp [this]

/-! ### WRITE -/

section
variable {s : State} {l : Nat} {a : Arrived}
  (ha : s.arrived l (fun p => p.dst == s.rank && (p.kind == PK.write || decide (10 ≤ p.kind))) = some a)
include ha

theorem exec_packetReceive_reserved (hkind : 10 ≤ a.pkt.kind) :
    exec (.packetReceive l) s = .next ((s.consume l a).addRegAt Reg.LNK_LINK_ERR_CRC_FAIL l 1) := by
  show execPacketReceive l s = _
  rw [execPacketReceive, ha]
  exact congrArg _ (if_pos hkind)

variable (hkind : a.pkt.kind < 10)
include hkind

theorem exec_packetReceive_waits (hwaits : s.peerWaits a.pkt = true) : exec (.packetReceive l) s = .next s := by
  show execPacketReceive l s = _
  rw [execPacketReceive, ha]
  dsimp only
  rw [if_neg (Nat.not_le.2 hkind), if_pos hwaits]

variable (hnow : s.peerWaits a.pkt = false)
include hnow

theorem exec_packetReceive_refused (hgood : a.pkt.good = true) (htarget : s.peerTarget a.pkt = none) :
    exec (.packetReceive l) s = .next ((s.consume l a).sendWack a.pkt.src a.pkt.tid a.pkt.tseq true) := by
  have htarget : (s.consume l a).peerTarget a.pkt = none := (s.peerTarget_consume l a _).trans htarget
  show execPacketReceive l s = _
  rw [execPacketReceive, ha]
  dsimp only
  rw [if_neg (Nat.not_le.2 hkind), hnow, if_neg Bool.false_ne_true, State.checkCrc_good _ _ hgood, htarget]

variable {x : Nat} (htarget : s.peerTarget a.pkt = some x)
include htarget

theorem exec_packetReceive_applied (hgood : a.pkt.good = true) : exec (.packetReceive l) s =
    .next (((s.consume l a).put x a.pkt.pbytes).sendWack a.pkt.src a.pkt.tid a.pkt.tseq false) := by
  have htarget : (s.consume l a).peerTarget a.pkt = some x := (s.peerTarget_consume l a _).trans htarget
  show execPacketReceive l s = _
  rw [execPacketReceive, ha]
  dsimp only
  rw [if_neg (Nat.not_le.2 hkind), hnow, if_neg Bool.false_ne_true, State.checkCrc_good _ _ hgood, htarget, hgood, Bool.not_true]

theorem exec_packetReceive_damaged (hbad : a.pkt.good = false) : exec (.packetReceive l) s =
    .next ((((s.consume l a).event 4 St.lnkE2eCrc l a.pkt.src).put x
      (a.pkt.data.map fun b => (b, true))).sendWack a.pkt.src a.pkt.tid a.pkt.tseq true) := by
  have hcrc : (s.consume l a).checkCrc l a.pkt = (s.consume l a).event 4 St.lnkE2eCrc l a.pkt.src := if_neg (by simp [hbad])
  have htarget : ((s.consume l a).event 4 St.lnkE2eCrc l a.pkt.src).peerTarget a.pkt = some x :=
    (State.peerTarget_congr ((s.consume l a).event_rank 4 St.lnkE2eCrc l a.pkt.src) a.pkt).trans
      ((s.peerTarget_consume l a _).trans htarget)
  show execPacketReceive l s = _
  rw [execPacketReceive, ha]
  dsimp only
  rw [if_neg (Nat.not_le.2 hkind), hnow, if_neg Bool.false_ne_true, hcrc, htarget, Packet.pbytes_bad hbad, hbad, Bool.not_false]

end

/-! ### WACK -/

section
variable {s : State} {l : Nat} {a : Arrived} {t : Txn} (ha : s.hasPacket l PK.wack a)
  (ht : s.txn a.pkt.tid a.pkt.tseq = some t) (hread : t.read = false) (hrank : t.rank = a.pkt.src)
include ha ht hread hrank

theorem exec_wack_fails (herr : leNat (a.pkt.data.take 1) ≠ 0) : exec (.wack l) s =
    .next ((s.consume l a).failTxn a.pkt.tid a.pkt.tseq) := by
  have ht' : (s.consume l a).txn a.pkt.tid a.pkt.tseq = some t := ht
  simp [exec_wack_arm, execWack, State.onPacket_of ha, ht', hread, hrank, ha.2, herr]

theorem exec_wack_counts {ch id slot : Nat} (howner : t.owner = .xfer ch id slot) (hok : leNat (a.pkt.data.take 1) = 0) :
    exec (.wack l) s =
      .next (((s.consume l a).answerTxn t).setChan ch ((((s.consume l a).answerTxn t).chan ch).ack id slot false)) := by
  have ht' : (s.consume l a).txn a.pkt.tid a.pkt.tseq = some t := ht
  simp [exec_wack_arm, execWack, State.onPacket_of ha, ht', hread, hrank, ha.2, hok, howner]

end

/-! ### READ_REQ and READ_RESP -/

theorem exec_readReq_answered {s : State} {l : Nat} {a : Arrived} (ha : s.hasPacket l PK.readReq a) {x : Nat}
    (htarget : s.peerTarget a.pkt = some x) (hnow : s.peerWaits a.pkt = false) :
    let g := (s.consume l a).get ⟨[], [], [], []⟩ x a.pkt.len
    exec (.readReq l) s = .next (g.st.sendPacket a.pkt.answerVc
      (g.st.packet a.pkt.src PK.readResp a.pkt.addr a.pkt.tid a.pkt.tseq g.bytes false a.pkt.last)) := by
  have htarget : (s.consume l a).peerTarget a.pkt = some x := (s.peerTarget_consume l a _).trans htarget
  show execReadReq l s = _
  rw [execReadReq, ha.1, Option.any_some, hnow, if_neg Bool.false_ne_true, State.onPacket_of ha, htarget]
  exact congrArg _ (if_neg (by simp [ha.2]))

theorem exec_readResp_taken {s : State} {l : Nat} (v : HostView) {a : Arrived} {t : Txn} {ch id slot : Nat}
    (ha : s.hasPacket l PK.readResp a) (ht : s.txn a.pkt.tid a.pkt.tseq = some t) (hread : t.read = true)
    (hrank : t.rank = a.pkt.src) (howner : t.owner = .xfer ch id slot) (hsome : a.pkt.len ≠ 0) (hnow : s.respWaits a.pkt = false) :
    let s1 := (s.consume l a).answerTxn t
    let c := (s1.chan ch).readDone id slot
    exec (.readResp l v) s = .next ((s1.setChan ch { c with
      busy := c.busy.map fun x => if x.id = id then x.take (t.off + 4096 * (a.pkt.tseq - t.first)) a.pkt.pbytes else x }).flush v
        ch) := by
  have ht' : (s.consume l a).txn a.pkt.tid a.pkt.tseq = some t := ht
  have hours : ¬(t.read = false ∨ t.rank ≠ a.pkt.src) := by simp [hread, hrank]
  simp only [exec_readResp_arm, execReadResp, ha.1, Option.any_some, hnow, Bool.false_eq_true, if_false, State.onPacket_of ha, ht', if_neg hours,
    howner, if_neg hsome, Txn.place]

/-! ### Transit -/

section
variable {s : State} {l : Nat} {a : Arrived} (ha : s.arrived l (fun p => p.dst != s.rank) = some a)
include ha

theorem exec_packetForward_old (hhop : 16 ≤ a.pkt.hop) :
    exec (.packetForward l) s = .next ((s.consume l a).sendUnreachable a.pkt) := by
  simp only [exec_packetForward_arm, execPacketForward, ha, if_pos hhop]

theorem exec_packetForward_on (hhop : a.pkt.hop < 16) (hroute : s.routeUp a.pkt.dst ≠ []) :
    exec (.packetForward l) s = .next ((s.consume l a).sendPacket a.vc { a.pkt with hop := a.pkt.hop + 1 }) := by
  have hup : ¬(a.pkt.src ≠ (s.consume l a).rank ∧ (s.consume l a).routeUp a.pkt.dst = []) := fun h => hroute h.2
  simp only [exec_packetForward_arm, execPacketForward, ha, if_neg (Nat.not_le.2 hhop), State.passOn, if_neg hup]

theorem exec_packetForward_lost (hroute : s.routeUp a.pkt.dst = []) (hsrc : a.pkt.src ≠ s.rank) :
    exec (.packetForward l) s = .next ((s.consume l a).sendUnreachable a.pkt) := by
  have hdown : a.pkt.src ≠ (s.consume l a).rank ∧ (s.consume l a).routeUp a.pkt.dst = [] := ⟨hsrc, hroute⟩
  rcases Nat.lt_or_ge a.pkt.hop 16 with hhop | hhop
  · simp only [exec_packetForward_arm, execPacketForward, ha, if_neg (Nat.not_le.2 hhop), State.passOn, if_pos hdown]
    rfl
  · exact exec_packetForward_old ha hhop

end

theorem exec_unreachable_transfer {s : State} {l : Nat} {a : Arrived} (ha : s.hasPacket l PK.unreachable a)
    (hkind : leNat (a.pkt.data.take 1) ∈ [0, 1, 5, 6]) : exec (.unreachable l) s =
      .next (((s.consume l a).event 4 St.lnkUnreachable 0 (leNat ((a.pkt.data.drop 1).take 4))).failTxn a.pkt.tid a.pkt.tseq) := by
  have hfails : leNat (a.pkt.data.take 1) = 0 ∨ leNat (a.pkt.data.take 1) = 1 ∨ leNat (a.pkt.data.take 1) = 5 ∨
      leNat (a.pkt.data.take 1) = 6 := by simpa using hkind
  have hnot : leNat (a.pkt.data.take 1) ≠ PK.message := by
    unfold PK.message
    omega
  simp only [exec_unreachable_arm, execUnreachable, State.onPacket_of ha, ha.2, Bool.true_eq_false, if_false, if_neg hnot, if_pos hfails]

/-- Settles O47. -/
theorem packetsArrive : Obligations.PacketsArrive := by
  unfold Obligations.PacketsArrive
  intro s l a p s0
  have htarget (h : s.judge ⟨[0, 1], true⟩ (s.rank * 2 ^ 44 + p.addr) p.len = none) :
      s.peerTarget p = some (s.rank * 2 ^ 44 + p.addr) := (s.peerTarget_eq p).trans (State.targetAt_of h)
  have hrefused (h : s.judge ⟨[0, 1], true⟩ (s.rank * 2 ^ 44 + p.addr) p.len ≠ none) : s.peerTarget p = none :=
    (s.peerTarget_eq p).trans (State.targetAt_refused h)
  refine ⟨fun ha => ⟨exec_packetReceive_reserved ha, fun x hkind hgood hjudge hx hopen => ?_, exec_packetReceive_waits ha,
      fun hkind hgood hjudge => ?_, fun hkind hbad hjudge hnow => ?_⟩,
    fun t ch id slot ha ht hread hrank howner => ⟨exec_wack_counts ha ht hread hrank howner, exec_wack_fails ha ht hread hrank⟩,
    fun ha hjudge hnow => exec_readReq_answered ha (htarget hjudge) hnow, fun v t ch id slot => exec_readResp_taken v,
    fun ha => ⟨exec_packetForward_on ha, exec_packetForward_old ha, exec_packetForward_lost ha⟩, exec_unreachable_transfer⟩
  · subst hx
    have htarget := htarget hjudge
    exact exec_packetReceive_applied ha hkind (State.peerWaits_of_open htarget hopen) htarget hgood
  · exact exec_packetReceive_refused ha hkind (State.peerWaits_of_refused (hrefused hjudge)) hgood (hrefused hjudge)
  · exact exec_packetReceive_damaged ha hkind hnow (htarget hjudge) hbad

end Sys2Proof.Machine
end

section
/-! SUPPORT. Fault injection (R391 to R394): what a write of LNK_INJ_CTL does with and without permission, and what becomes of a flit
that injection selects. -/

namespace Sys2Proof.Machine

theorem Reg.injMode_mem : Reg.LNK_INJ_CTL_MODE ∈ Reg.fields := by decide +kernel

/-- What an injection instruction of mode `mode` does with a control word that names the mode. -/
theorem State.arm_of_mode {mode l ctl : Nat} (h : bitsOf ctl 2 0 = mode) (s : State) : s.arm mode l ctl = s.injWrite l ctl := if_pos h

/-! ### The write of LNK_INJ_CTL -/

section
variable {l : Nat} (hl : l < 32)
include hl

/-- After enable, a write that LNK_INJ_PERMIT does not allow is posted and ignored. -/
theorem State.injWrite_denied {s : State} {ctl : Nat} (hmode : bitsOf ctl 2 0 ≠ 0)
    (hperm : bitOf (s.regs.get Reg.LNK_INJ_PERMIT_LINKS) l = false) (hlock : s.locked = true) :
    s.injWrite l ctl = s.event 4 0x20A2 l 0 := by
  rw [State.injWrite, if_neg (Nat.not_le.2 hl), if_pos ⟨hmode, hperm, hlock⟩]

/-- Where the write is allowed, or comes before enable, the control word is kept and the generator starts from its seed. -/
theorem State.injWrite_kept {s : State} {ctl : Nat}
    (hok : bitOf (s.regs.get Reg.LNK_INJ_PERMIT_LINKS) l = true ∨ s.locked = false) :
    s.injWrite l ctl = ({ s with regs := s.regs.hostWrite s.locked (0x501000 + 32 * l) (2 ^ 64 - 1) ctl }).setLink l { s.link l with
      injState := if bitsOf ctl 57 27 = 0 then 1 else bitsOf ctl 57 27
      injLeft := 0 } := by
  have hfree : ¬(bitsOf ctl 2 0 ≠ 0 ∧ bitOf (s.regs.get Reg.LNK_INJ_PERMIT_LINKS) l = false ∧ s.locked = true) := by
    rintro ⟨-, hperm, hlock⟩
    rcases hok with hok | hok
    · exact absurd (hok.symm.trans hperm) (by decide)
    · exact absurd (hok.symm.trans hlock) (by decide)
  rw [State.injWrite, if_neg (Nat.not_le.2 hl), if_neg hfree]

/-- A kept control word sets the mode and the generator of its link, and touches no other link. -/
theorem State.injWrite_arms {s : State} {ctl : Nat}
    (hok : bitOf (s.regs.get Reg.LNK_INJ_PERMIT_LINKS) l = true ∨ s.locked = false) :
    let s' := s.injWrite l ctl
    s'.injMode l = bitsOf ctl 2 0 ∧ (s'.link l).injState = (if bitsOf ctl 57 27 = 0 then 1 else bitsOf ctl 57 27) ∧
      (s'.link l).injLeft = 0 ∧ s'.host = s.host ∧ s'.tiles = s.tiles ∧ ∀ k, k ≠ l → s'.link k = s.link k := by
  have hmode : (s.regs.hostWrite s.locked (0x501000 + 32 * l) (2 ^ 64 - 1) ctl).getAt Reg.LNK_INJ_CTL_MODE l = bitsOf ctl 2 0 :=
    RegFile.getAt_hostWrite Reg.injMode_mem hl s.regs s.locked ctl
  rw [State.injWrite_kept hl hok]
  refine ⟨hmode, ?_, ?_, rfl, rfl, fun k hk => State.link_setLink_other _ _ hk.symm⟩ <;> rw [State.link_setLink_self]

/-- What an injection instruction that names its own mode does, with permission and without it. -/
theorem injection_cases {s : State} {i : Instr} {mode ctl : Nat} (hexec : exec i s = .next (s.arm mode l ctl)) (hne : mode ≠ 0)
    (hmode : bitsOf ctl 2 0 = mode) :
    ((bitOf (s.regs.get Reg.LNK_INJ_PERMIT_LINKS) l = true ∨ s.locked = false) →
      ∃ s', exec i s = .next s' ∧ s'.injMode l = mode ∧
        (s'.link l).injState = (if bitsOf ctl 57 27 = 0 then 1 else bitsOf ctl 57 27) ∧ (s'.link l).injLeft = 0 ∧
        s'.host = s.host ∧ s'.tiles = s.tiles ∧ ∀ k, k ≠ l → s'.link k = s.link k) ∧
      (bitOf (s.regs.get Reg.LNK_INJ_PERMIT_LINKS) l = false → s.locked = true → exec i s = .next (s.event 4 0x20A2 l 0)) := by
  rw [hexec, State.arm_of_mode hmode]
  constructor
  · intro hok
    have harms := State.injWrite_arms hl hok (ctl := ctl)
    rw [hmode] at harms
    exact ⟨_, rfl, harms⟩
  · intro hperm hlock
    rw [State.injWrite_denied hl (hmode ▸ hne) hperm hlock]

end

/-! ### A flit that injection selects -/

/-- Only armed injection selects a flit. -/
theorem State.injArmed_of_select {s : State} {l vc seq : Nat} {x y : LinkSt} (h : s.select l x vc seq = (true, y)) :
    s.injArmed l = true := by
  cases harmed : s.injArmed l with
  | true => rfl
  | false => simp [State.select_unarmed harmed] at h

theorem State.injArmed_iff (s : State) (l : Nat) : s.injArmed l = true ↔
    (1 ≤ s.injMode l ∧ s.injMode l ≤ 5) ∧ bitOf (s.regs.get Reg.LNK_INJ_PERMIT_LINKS) l = true := by
  rw [State.injArmed, Bool.and_eq_true, decide_eq_true_iff]

section
variable {s : State} {l key : Nat} {f : TxFlit} {rest : List TxFlit} {y : LinkSt}
  (hsel : s.select l ((s.link l).assign f key rest s.now).2 f.vc ((s.link l).assign f key rest s.now).1.seq = (true, y))
include hsel

/-- A dropped flit leaves its slot IDLE: SEQ 0, no payload. -/
theorem State.sendNew_dropped (hmode : s.injMode l = 1) : s.sendNew l f key rest =
    ((s.setLink l y).noteInjection l ((s.link l).assign f key rest s.now).1.seq).putFlit l 0 0 0 0 [] id id := by
  simp only [State.sendNew, hsel, hmode, Bool.true_eq_false, if_false, flitIdle]

/-- A corrupted flit goes out with bit BIT flipped, after the CRC is formed or before it. -/
theorem State.sendNew_corrupted (hmode : s.injMode l = 2) : s.sendNew l f key rest =
    let a := (s.link l).assign f key rest s.now
    let s1 := (s.setLink l y).noteInjection l a.1.seq
    let flip := fun b => flipBit b (s.regs.getAt Reg.LNK_INJ_CTL_BIT l)
    if s.regs.getAt Reg.LNK_INJ_CTL_STAGE l = 0 then s1.sendData l a.1 id flip else s1.sendData l a.1 flip id := by
  simp only [State.sendNew, hsel, hmode, Bool.true_eq_false, if_false]

end

/-- Settles O46: the five injection instructions share one write of LNK_INJ_CTL, and a new flit asks `select` once. -/
theorem faultInjection : Obligations.FaultInjection := by
  unfold Obligations.FaultInjection
  intro s l ctl hl
  refine ⟨?_, ?_, fun x vc seq h => State.select_unarmed h x vc seq, ?_, fun q => ⟨rfl, rfl⟩⟩
  · intro c hc hmode
    simp only [List.mem_cons, List.not_mem_nil, or_false] at hc
    rcases hc with rfl | rfl | rfl | rfl | rfl <;> exact injection_cases hl rfl (Nat.succ_ne_zero _) hmode
  · intro f key rest y a hsel s1
    refine ⟨State.sendNew_dropped hsel, fun hmode hstage => ?_, fun hmode hstage => ?_⟩
    · exact (State.sendNew_corrupted hsel hmode).trans (if_pos hstage)
    · exact (State.sendNew_corrupted hsel hmode).trans (if_neg hstage)
  · intro x vc seq y hsel
    obtain ⟨⟨hlo, hhi⟩, hperm⟩ := (State.injArmed_iff s l).1 (State.injArmed_of_select hsel)
    exact ⟨hperm, hlo, hhi⟩

end Sys2Proof.Machine
end

section
/-! SUPPORT. Links that go down, are trained and return (R363, R364, R368, R369): what a link that goes down leaves behind, what the
time block does about it, training, and the check of the retransmission rate. -/

namespace Sys2Proof.Machine

/-! ### What the time block leaves alone when a link goes down -/

/-- The registers that a change of source writes. -/
def Reg.sourceFields : List Field :=
  [Reg.TIM_STATUS_STATE, Reg.TIM_STATUS_GM, Reg.TIM_STATUS_GM_RANK, Reg.TIM_STATUS_HOPS, Reg.TIM_STATUS_ERR_PS,
    Reg.TIM_EVENTS_GM_CHANGES, Reg.TIM_EVENTS_HOLDOVERS]

/-- The fields that say that a link is down and why. -/
def Reg.downFields : List Field := [Reg.LNK_LINK_STATUS_STATE, Reg.LNK_LINK_STATUS_DOWN_REASON]

theorem Reg.downFields_outside : ∀ g ∈ Reg.downFields, g.count = 32 ∧ g.outsideEventStatus ∧ Reg.LNK_LINK_ERR_DOWNS.separate g := by
  unfold Field.outsideEventStatus Field.separate
  decide

theorem Reg.source_separate_down : ∀ f ∈ Reg.sourceFields, 0 < f.count ∧ f.width ≠ 0 ∧ ∀ g ∈ Reg.downFields, f.separate g := by
  unfold Field.separate
  decide

/-- The fabric's state and what shows of links that are down. -/
structure State.LinkFrame (s t : State) : Prop where
  net : t.net = s.net
  fields : ∀ g ∈ Reg.downFields, ∀ j < 32, t.regs.getAt g j = s.regs.getAt g j

namespace State.LinkFrame

variable {s t u : State}

theorem refl (s : State) : s.LinkFrame s := ⟨rfl, fun _ _ _ _ => rfl⟩

theorem trans (h : s.LinkFrame t) (h' : t.LinkFrame u) : s.LinkFrame u :=
  ⟨h'.net.trans h.net, fun g hg j hj => (h'.fields g hg j hj).trans (h.fields g hg j hj)⟩

/-- What the time block keeps for itself is no part of the frame. -/
theorem time (h : s.LinkFrame t) (x : TimeSt) : s.LinkFrame { t with time := x } := ⟨h.net, h.fields⟩

theorem setReg (h : s.LinkFrame t) {f : Field} (hf : f ∈ Reg.sourceFields) (v : Nat) : s.LinkFrame (t.setReg f v) :=
  h.trans ⟨rfl, fun g hg j hj => by
    obtain ⟨hcount, hwidth, hsep⟩ := Reg.source_separate_down f hf
    exact t.regs.getAt_setAt_separate v (hsep g hg) hwidth hcount (by rwa [(Reg.downFields_outside g hg).1])⟩

theorem setFlag (h : s.LinkFrame t) {f : Field} (hf : f ∈ Reg.sourceFields) (b : Bool) : s.LinkFrame (t.setFlag f b) :=
  h.setReg hf _

theorem addReg (h : s.LinkFrame t) {f : Field} (hf : f ∈ Reg.sourceFields) (n : Nat) : s.LinkFrame (t.addReg f n) :=
  h.setReg hf _

theorem event (h : s.LinkFrame t) (source status loc detail : Nat) : s.LinkFrame (t.event source status loc detail) :=
  h.trans ⟨t.post_net _, fun g hg j hj => by
    obtain ⟨hcount, houtside, -⟩ := Reg.downFields_outside g hg
    exact (congrArg (RegFile.getAt · g j) (t.post_regs _)).trans (eventStatus_getAt _ _ _ houtside (by rwa [hcount]))⟩

theorem ite {c : Prop} [Decidable c] (ht : s.LinkFrame t) (hu : s.LinkFrame u) : s.LinkFrame (if c then t else u) := by
  split
  · exact ht
  · exact hu

end State.LinkFrame

theorem State.setTimeState_linkFrame (s : State) (n : Nat) : s.LinkFrame (s.setTimeState n) := (LinkFrame.refl s).setReg (by decide) n

theorem State.setGm_linkFrame (s : State) (gm : Bool) (rank hops : Nat) : s.LinkFrame (s.setGm gm rank hops) := by
  have hshown : s.LinkFrame (((s.setFlag Reg.TIM_STATUS_GM gm).setReg Reg.TIM_STATUS_GM_RANK rank).setReg Reg.TIM_STATUS_HOPS hops) :=
    (((LinkFrame.refl s).setFlag (by decide) gm).setReg (by decide) rank).setReg (by decide) hops
  exact ((hshown.addReg (by decide) 1).event 5 _ 0 rank).ite hshown

theorem State.unlockTime_linkFrame (s : State) : s.LinkFrame s.unlockTime := by
  unfold State.unlockTime
  split
  · exact (LinkFrame.refl s).time _
  · exact LinkFrame.refl s

theorem State.keepErr_linkFrame (s : State) : s.LinkFrame s.keepErr := by
  unfold State.keepErr
  split
  · exact LinkFrame.refl s
  · exact (LinkFrame.refl s).time _

theorem State.lockTime_linkFrame (s : State) : s.LinkFrame s.lockTime :=
  (LinkFrame.refl s).ite ((((LinkFrame.refl s).time _).trans (State.setTimeState_linkFrame _ 2)).setReg (by decide) _)

theorem State.holdover_linkFrame (s : State) : s.LinkFrame s.holdover :=
  LinkFrame.ite ((((s.unlockTime_linkFrame.time _).trans (State.setTimeState_linkFrame _ 3)).addReg (by decide) 1).event 5 _ 0 0)
    (LinkFrame.refl s)

theorem State.becomeGm_linkFrame (s : State) : s.LinkFrame s.becomeGm := by
  have hgm := s.keepErr_linkFrame.trans (s.keepErr.setGm_linkFrame true s.rank 0)
  have hacquiring := (hgm.trans (State.setTimeState_linkFrame _ 1)).ite (c := (s.keepErr.setGm true s.rank 0).timeState = 0) hgm
  exact hacquiring.ite (hacquiring.trans (State.lockTime_linkFrame _))

theorem State.follow_linkFrame (s : State) (l : Nat) (lost : Bool) : s.LinkFrame (s.follow l lost) := by
  have hacquiring := (s.unlockTime_linkFrame.trans (State.setTimeState_linkFrame _ 1)).ite (c := s.acquires l lost = true)
    (LinkFrame.refl s)
  exact ((hacquiring.time _).trans (State.setGm_linkFrame _ false _ _)).setReg (by decide) _

theorem State.chooseSource_linkFrame (s : State) (lost : Bool) : s.LinkFrame (s.chooseSource lost) := by
  unfold State.chooseSource
  split
  · exact s.becomeGm_linkFrame
  · split
    · exact s.follow_linkFrame _ lost
    · exact (s.keepErr_linkFrame.setFlag (by decide) false).trans (State.holdover_linkFrame _)

theorem State.sourceLost_linkFrame (s : State) : s.LinkFrame s.sourceLost :=
  (s.keepErr_linkFrame.trans (State.holdover_linkFrame _)).ite (s.chooseSource_linkFrame true)

theorem State.linkTimeDown_linkFrame (s : State) (l : Nat) : s.LinkFrame (s.linkTimeDown l) :=
  (((LinkFrame.refl s).time _).trans (State.sourceLost_linkFrame _)).ite ((LinkFrame.refl s).time _)

/-! ### A link goes down -/

/-- The registers of a link that goes down: DOWN, the reason, and one more in DOWNS. -/
def RegFile.down (r : RegFile) (l reason : Nat) : RegFile :=
  ((r.setAt Reg.LNK_LINK_STATUS_STATE l 0).setAt Reg.LNK_LINK_STATUS_DOWN_REASON l reason).addAt Reg.LNK_LINK_ERR_DOWNS l 1

theorem Reg.linkState_separate_reason : Reg.LNK_LINK_STATUS_DOWN_REASON.separate Reg.LNK_LINK_STATUS_STATE := .inr (.inl (by decide))

theorem RegFile.down_shows (r : RegFile) {l reason : Nat} (hl : l < 32) (hreason : reason < 8) :
    (r.down l reason).getAt Reg.LNK_LINK_STATUS_STATE l = 0 ∧
      (r.down l reason).getAt Reg.LNK_LINK_STATUS_DOWN_REASON l = reason := by
  have hcounted (q : RegFile) {g : Field} (hg : g ∈ Reg.downFields) :
      (q.addAt Reg.LNK_LINK_ERR_DOWNS l 1).getAt g l = q.getAt g l := by
    obtain ⟨hcount, -, hsep⟩ := Reg.downFields_outside g hg
    exact q.getAt_setAt_separate _ hsep (by decide) hl (by rwa [hcount])
  constructor
  · rw [RegFile.down, hcounted _ (by decide),
      RegFile.getAt_setAt_separate _ _ Reg.linkState_separate_reason (by decide) hl hl, RegFile.getAt_setAt_self _ _ _ _ (by decide),
      Nat.zero_mod]
  · rw [RegFile.down, hcounted _ (by decide), RegFile.getAt_setAt_self _ _ _ _ (by decide)]
    exact Nat.mod_eq_of_lt hreason

/-- What a link that goes down keeps: the packets that it held and those that it had sent in part. -/
def State.shutLink (s : State) (l : Nat) : LinkSt :=
  { (s.link l).fresh with
    downHeld := (s.link l).downHeld ++ (s.link l).sentPackets
    downSince := some s.now }

/-- The state of a link that has gone down, before anyone hears of it. -/
def State.shut (s : State) (l reason : Nat) : State :=
  (((s.setRegAt Reg.LNK_LINK_STATUS_STATE l 0).setRegAt Reg.LNK_LINK_STATUS_DOWN_REASON l reason).addRegAt
    Reg.LNK_LINK_ERR_DOWNS l 1).setLink l (s.shutLink l)

/-- The event is posted and LINK_FINAL queued for the neighbour; the time block has still to hear of it. -/
def State.fallen (s : State) (l reason : Nat) : State :=
  ((s.shut l reason).event 4 St.lnkDown l reason).ctrl (s.regs.getAt Reg.LNK_LINK_STATUS_PEER_RANK l)
    (linkFinalData (s.regs.getAt Reg.LNK_LINK_STATUS_PEER_LINK l) (s.link l).firstPartial)

theorem State.linkDown_eq (s : State) (l reason : Nat) : s.linkDown l reason =
    if s.linkLive l = false then s
    else
      let s5 := ((s.fallen l reason).each (s.link l).unsent fun s p => s.passOn p.1 p.2).linkTimeDown l
      match (s.link l).early with
      | some seq => s5.releaseHeld l seq
      | none => s5 := rfl

theorem State.linkDown_of_live {s : State} {l : Nat} (hlive : s.linkLive l = true) (hunsent : (s.link l).unsent = [])
    (hearly : (s.link l).early = none) (reason : Nat) : s.linkDown l reason = (s.fallen l reason).linkTimeDown l := by
  have hup : ¬s.linkLive l = false := by simp [hlive]
  rw [State.linkDown_eq, if_neg hup, hunsent, hearly]
  rfl

theorem State.fallen_net (s : State) (l reason : Nat) :
    ((s.fallen l reason).link l).downHeld = (s.link l).downHeld ++ (s.link l).sentPackets ∧
      (s.fallen l reason).net.ctrl = s.net.ctrl ++ [(s.regs.getAt Reg.LNK_LINK_STATUS_PEER_RANK l,
        linkFinalData (s.regs.getAt Reg.LNK_LINK_STATUS_PEER_LINK l) (s.link l).firstPartial)] := by
  have hnet : ((s.shut l reason).event 4 St.lnkDown l reason).net = (s.shut l reason).net := State.post_net _ _
  have hlink : ((s.shut l reason).event 4 St.lnkDown l reason).link l = (s.shut l reason).link l :=
    congrArg (fun n : NetSt => Tbl.get n.links LinkSt.reset l) hnet
  have hctrl : ((s.shut l reason).event 4 St.lnkDown l reason).net.ctrl = (s.shut l reason).net.ctrl := congrArg NetSt.ctrl hnet
  exact ⟨congrArg LinkSt.downHeld (hlink.trans (State.link_setLink_self _ _ _)), congrArg (· ++ [_]) hctrl⟩

theorem State.fallen_shows (s : State) {l reason : Nat} (hl : l < 32) (hreason : reason < 8) :
    (s.fallen l reason).linkState l = 0 ∧ (s.fallen l reason).regs.getAt Reg.LNK_LINK_STATUS_DOWN_REASON l = reason := by
  obtain ⟨hstate, hwhy⟩ := s.regs.down_shows hl hreason
  have hposted {g : Field} (hg : g ∈ Reg.downFields) :
      (s.fallen l reason).regs.getAt g l = (s.regs.down l reason).getAt g l :=
    ((LinkFrame.refl _).event 4 St.lnkDown l reason).fields g hg l hl
  exact ⟨(hposted (by decide)).trans hstate, (hposted (by decide)).trans hwhy⟩

theorem State.linkDown_shows {s : State} {l reason : Nat} (hl : l < 32) (hlive : s.linkLive l = true) (hreason : reason < 8)
    (hunsent : (s.link l).unsent = []) (hearly : (s.link l).early = none) :
    let s' := s.linkDown l reason
    s'.linkState l = 0 ∧ s'.regs.getAt Reg.LNK_LINK_STATUS_DOWN_REASON l = reason ∧
      (s'.link l).downHeld = (s.link l).downHeld ++ (s.link l).sentPackets ∧
      s'.net.ctrl = s.net.ctrl ++ [(s.regs.getAt Reg.LNK_LINK_STATUS_PEER_RANK l,
        linkFinalData (s.regs.getAt Reg.LNK_LINK_STATUS_PEER_LINK l) (s.link l).firstPartial)] := by
  have hframe := (s.fallen l reason).linkTimeDown_linkFrame l
  obtain ⟨hstate, hwhy⟩ := s.fallen_shows hl hreason
  obtain ⟨hheld, hctrl⟩ := s.fallen_net l reason
  have hlink : ((s.fallen l reason).linkTimeDown l).link l = (s.fallen l reason).link l :=
    congrArg (fun n : NetSt => Tbl.get n.links LinkSt.reset l) hframe.net
  rw [State.linkDown_of_live hlive hunsent hearly]
  exact ⟨(hframe.fields _ (by decide) l hl).trans hstate, (hframe.fields _ (by decide) l hl).trans hwhy,
    (congrArg LinkSt.downHeld hlink).trans hheld, (congrArg NetSt.ctrl hframe.net).trans hctrl⟩

/-! ### LINK_FINAL -/

/-- A LINK_FINAL names the link by which it is meant, which goes to its sender. -/
theorem exec_linkFinal {s : State} {l n q : Nat} {a : Arrived} (ha : s.hasCtrl l CT.linkFinal a) (hn : n < 32)
    (hlink : leNat ((a.pkt.data.drop 1).take 1) = n) (hseq : leNat ((a.pkt.data.drop 2).take 2) = q)
    (hpeer : s.regs.getAt Reg.LNK_LINK_STATUS_PEER_RANK n = a.pkt.src) :
    exec (.linkFinal l) s = .next ((s.consume l a).takeFinal n q) := by
  simp only [exec_linkFinal_arm, execLinkFinal, State.onCtrl_of ha, hlink, hseq, Nat.mod_eq_of_lt hn]
  exact congrArg Host.Outcome.next (if_pos hpeer)

theorem State.takeFinal_up {s : State} {n : Nat} (hlive : s.linkLive n = true) (q : Nat) :
    s.takeFinal n q = s.setLink n { s.link n with early := some q } := if_pos hlive

theorem State.takeFinal_down {s : State} {n t : Nat} (hlive : s.linkLive n = false) (hsince : (s.link n).downSince = some t)
    (htime : s.now ≤ t + 1000000) (q : Nat) : s.takeFinal n q = s.releaseHeld n q := by
  simp only [State.takeFinal, hlive, hsince, Bool.false_eq_true, if_false, if_neg (Nat.not_lt.2 htime)]

theorem State.passOn_sent {s : State} {p : Packet} (h : p.src = s.rank ∨ s.routeUp p.dst ≠ []) (vc : Nat) :
    s.passOn vc p = s.sendPacket vc p := if_neg fun hno => h.elim hno.1 fun hroute => hroute hno.2

/-- After 1 ms without LINK_FINAL what a link holds is lost. -/
theorem exec_linkFinalTimeout {s : State} {l t : Nat} (hsince : (s.link l).downSince = some t) (htime : t + 1000000 ≤ s.now) :
    exec (.linkFinalTimeout l) s = .next ((s.setLink l { s.link l with
      downHeld := []
      downSince := none }).each (s.link l).downHeld fun s p => s.loseTransit p.2.2) := by
  simp only [exec_linkFinalTimeout_arm, execLinkFinalTimeout, hsince, if_neg (Nat.not_lt.2 htime)]

/-! ### Lanes -/

theorem exec_laneSpare {s : State} {l lane : Nat} (hlive : s.linkLive l = true) (hlane : lane < 4)
    (hused : bitOf (s.regs.getAt Reg.LNK_LINK_STATUS_LANES l) lane = true) :
    let m := s.regs.getAt Reg.LNK_LINK_STATUS_LANES l - 2 ^ lane
    exec (.laneSpare l lane) s = .next ((s.setLink l { s.link l with
      lctrl := (s.link l).lctrl ++ [leBytes 1 lcLane ++ leBytes 1 m] }).spareLanes l m) := by
  have hok : ¬(s.linkLive l = false ∨ 4 ≤ lane ∨ bitOf (s.regs.getAt Reg.LNK_LINK_STATUS_LANES l) lane = false) := by
    simp [hlive, hlane, hused]
  exact congrArg Host.Outcome.next (if_neg hok)

/-! ### Training -/

/-- The registers of a link that has been trained. -/
def RegFile.trained (r : RegFile) (l st lanes peerRank peerLink : Nat) : RegFile :=
  (((r.setAt Reg.LNK_LINK_STATUS_STATE l st).setAt Reg.LNK_LINK_STATUS_LANES l lanes).setAt Reg.LNK_LINK_STATUS_PEER_RANK l
    peerRank).setAt Reg.LNK_LINK_STATUS_PEER_LINK l peerLink

/-- The fields that training writes, and those that a probe and its question read. -/
def Reg.trainFields : List Field :=
  [Reg.LNK_LINK_STATUS_STATE, Reg.LNK_LINK_STATUS_LANES, Reg.LNK_LINK_STATUS_PEER_RANK, Reg.LNK_LINK_STATUS_PEER_LINK]

def Reg.askFields : List Field := [Reg.HIF_DEV_STATUS_STATE, Reg.FAB_SELF_RANK_RANK]

theorem Reg.trainFields_separate : Reg.trainFields.Pairwise fun f g => g.separate f := by
  unfold Field.separate
  decide

theorem Reg.train_separate_ask : ∀ g ∈ Reg.askFields, 0 < g.count ∧ ∀ f ∈ Reg.trainFields, f.separate g ∧ f.width ≠ 0 ∧
    f.count = 32 := by
  unfold Field.separate
  decide

section
variable (r : RegFile) {l st lanes peerRank : Nat} (peerLink : Nat) (hl : l < 32)
include hl

theorem RegFile.trained_shows (hst : st < 8) (hlanes : lanes < 16) (hrank : peerRank < 2 ^ 20) :
    let r' := r.trained l st lanes peerRank peerLink
    r'.getAt Reg.LNK_LINK_STATUS_STATE l = st ∧ r'.getAt Reg.LNK_LINK_STATUS_LANES l = lanes ∧
      r'.getAt Reg.LNK_LINK_STATUS_PEER_RANK l = peerRank := by
  have hsep := Reg.trainFields_separate
  simp only [Reg.trainFields, List.pairwise_cons, List.mem_cons, List.not_mem_nil, or_false, forall_eq_or_imp, forall_eq] at hsep
  obtain ⟨⟨hLS, hRS, hKS⟩, ⟨hRL, hKL⟩, hKR, -⟩ := hsep
  dsimp only [RegFile.trained]
  refine ⟨?_, ?_, ?_⟩
  · rw [RegFile.getAt_setAt_separate _ _ hKS (by decide) hl hl, RegFile.getAt_setAt_separate _ _ hRS (by decide) hl hl,
      RegFile.getAt_setAt_separate _ _ hLS (by decide) hl hl, RegFile.getAt_setAt_self _ _ _ _ (by decide)]
    exact Nat.mod_eq_of_lt hst
  · rw [RegFile.getAt_setAt_separate _ _ hKL (by decide) hl hl, RegFile.getAt_setAt_separate _ _ hRL (by decide) hl hl,
      RegFile.getAt_setAt_self _ _ _ _ (by decide)]
    exact Nat.mod_eq_of_lt hlanes
  · rw [RegFile.getAt_setAt_separate _ _ hKR (by decide) hl hl, RegFile.getAt_setAt_self _ _ _ _ (by decide)]
    exact Nat.mod_eq_of_lt hrank

theorem RegFile.trained_ask {g : Field} (hg : g ∈ Reg.askFields) : (r.trained l st lanes peerRank peerLink).get g = r.get g := by
  obtain ⟨hcount, hsep⟩ := Reg.train_separate_ask g hg
  have hset (q : RegFile) (v : Nat) {f : Field} (hf : f ∈ Reg.trainFields) : (q.setAt f l v).get g = q.get g := by
    obtain ⟨hs, hw, hc⟩ := hsep f hf
    exact q.getAt_setAt_separate v hs hw (by rwa [hc]) hcount
  rw [RegFile.trained, hset _ _ (by decide), hset _ _ (by decide), hset _ _ (by decide), hset _ _ (by decide)]

end

/-- A question to a neighbour changes the fabric's state alone. -/
theorem State.askNeighbour_eq (s : State) (l : Nat) : s.askNeighbour l = { s with net := (s.askNeighbour l).net } := by
  unfold State.askNeighbour
  dsimp only
  split <;> split <;> rfl

/-- Nothing is known of the neighbour's routes. -/
def State.unasked (s : State) (l : Nat) : State := { s with net := { s.net with
  peers := Tbl.del s.net.peers l
  peersNext := Tbl.del s.net.peersNext l } }

theorem State.askNeighbour_unasked (s : State) (l : Nat) : s.askNeighbour l =
    let s2 := if s.regs.get Reg.HIF_DEV_STATUS_STATE = 1 then (s.unasked l).probeLink 0 l else s.unasked l
    if s2.host.descs.any fun d => d.taken && d.opcode == 0x21 then s2.probeLink 1 l else s2 := rfl

/-- Where no ROUTE_ARM waits, a neighbour is asked while the module is checking. -/
theorem State.askNeighbour_link {s : State} (hdescs : ∀ d ∈ s.host.descs, ¬(d.taken = true ∧ d.opcode = 0x21)) (l : Nat) :
    (s.askNeighbour l).link l = if s.regs.get Reg.HIF_DEV_STATUS_STATE = 1 then (s.link l).enqueue VC.ctrl (s.probeFlits 0 l)
      else s.link l := by
  have hnone : ((s.unasked l).host.descs.any fun d => d.taken && d.opcode == 0x21) = false := by simpa [State.unasked] using hdescs
  by_cases hchecking : s.regs.get Reg.HIF_DEV_STATUS_STATE = 1
  · have hprobes : s.askNeighbour l = (s.unasked l).probeLink 0 l := by
      rw [State.askNeighbour_unasked, if_pos hchecking]
      exact if_neg (ne_true_of_eq_false hnone)
    rw [hprobes, if_pos hchecking, State.probeLink_eq, State.link_setLink_self]
    rfl
  · have hsilent : s.askNeighbour l = s.unasked l := by
      rw [State.askNeighbour_unasked, if_neg hchecking]
      exact if_neg (ne_true_of_eq_false hnone)
    rw [hsilent, if_neg hchecking]
    rfl

/-- The link as training leaves it: empty, and heard from now. -/
def State.freshLink (s : State) (l : Nat) : LinkSt := { (s.link l).fresh with goodSince := s.now }

/-- The state of a trained link before its neighbour is asked: the training message has gone out. -/
def State.trained (s : State) (l st lanes peerRank peerLink : Nat) : State :=
  { (s.setLink l (s.freshLink l)).putFlit l 0 2 0 0 (trainMessage l lanes s.rank) id id with
    regs := s.regs.trained l st lanes peerRank peerLink }

/-- The first flit of a trained link acknowledges nothing and returns no credits. -/
theorem State.trained_eq (s : State) (l st lanes peerRank peerLink : Nat) : s.trained l st lanes peerRank peerLink =
    { (s.setLink l (s.freshLink l)).setLink l (s.freshLink l) with
      regs := s.regs.trained l st lanes peerRank peerLink
      out := .flit l (flitSeal (flitBody ⟨0, 2, 0, 0, 0, 0, 0⟩ (trainMessage l lanes s.rank))) :: s.out } := by
  have hreturns : (s.freshLink l).returns = ((0, 0, 0), s.freshLink l) := rfl
  rw [State.trained, State.putFlit_shared]
  simp only [State.link_setLink_self, hreturns]
  rfl

/-- The state that a link comes up in: UP at P or F while no step runs, else STANDBY. -/
def State.comesUp (s : State) (l : Nat) : Nat := if s.linkState l = 1 ∧ s.stepState < 2 then 2 else 3

theorem State.comesUp_lt (s : State) (l : Nat) : s.comesUp l < 8 := by
  unfold State.comesUp
  split <;> decide

section
variable {s : State} {l lanes : Nat} (hl : l < 32) (hdown : s.linkState l ≤ 1) (hpower : s.fab.powered = true)
  (hparked : s.fab.parked = false) (htrip : s.fab.trip = none) (hruns : (s.link l).injStopped = false)
  (hlane : (s.link l).injLane = none) (hlanes : lanes < 16) (hwide : 2 ≤ lanesOn lanes)
include hl hdown hpower hparked htrip hruns hlane hlanes hwide

theorem exec_linkTrainRetry (peerRank peerLink : Nat) : exec (.linkTrainRetry l peerRank peerLink lanes) s =
    .next ((s.trained l (s.comesUp l) lanes peerRank peerLink).askNeighbour l) := by
  have hmay : ¬(32 ≤ l ∨ 1 < s.linkState l ∨ s.fab.powered = false ∨ s.fab.parked = true ∨ s.fab.trip.isSome = true ∨
      (s.link l).injStopped = true) := by
    simp [hl, hdown, hpower, hparked, htrip, hruns]
  simp only [exec_linkTrainRetry_arm, execLinkTrainRetry, if_neg hmay, hlane, Nat.mod_eq_of_lt hlanes, if_neg (Nat.not_lt.2 hwide)]
  rfl

end

section
variable (s : State) {l st lanes peerRank : Nat} (peerLink : Nat)

theorem State.trained_link : (s.trained l st lanes peerRank peerLink).link l = s.freshLink l := by
  have hnet : (s.trained l st lanes peerRank peerLink).net = ((s.setLink l (s.freshLink l)).setLink l (s.freshLink l)).net := by
    rw [State.trained_eq]
  have hlink : (s.trained l st lanes peerRank peerLink).link l =
      ((s.setLink l (s.freshLink l)).setLink l (s.freshLink l)).link l :=
    congrArg (fun n : NetSt => Tbl.get n.links LinkSt.reset l) hnet
  rw [hlink, State.link_setLink_self]

theorem State.trained_descs : (s.trained l st lanes peerRank peerLink).host.descs = s.host.descs := by
  rw [State.trained_eq]
  rfl

theorem State.trained_regs : (s.trained l st lanes peerRank peerLink).regs = s.regs.trained l st lanes peerRank peerLink := rfl

theorem State.trained_asked_eq :
    let s' := (s.trained l st lanes peerRank peerLink).askNeighbour l
    s' = { s with
      regs := s.regs.trained l st lanes peerRank peerLink
      net := s'.net
      out := .flit l (flitSeal (flitBody ⟨0, 2, 0, 0, 0, 0, 0⟩ (trainMessage l lanes s.rank))) :: s.out } := by
  intro s'
  have hask : s' = { s.trained l st lanes peerRank peerLink with net := s'.net } := State.askNeighbour_eq _ l
  rw [State.trained_eq] at hask
  exact hask

end

/-- The question to the neighbour of a link that has been trained. -/
theorem State.trained_probeFlits (s : State) {l st lanes peerRank : Nat} (peerLink : Nat) (hl : l < 32) (hst : st < 8)
    (hlanes : lanes < 16) (hrank : peerRank < 2 ^ 20) : (s.trained l st lanes peerRank peerLink).probeFlits 0 l =
      (s.packet peerRank PK.ctrl 0 0 0 (clean (leBytes 1 CT.probe ++ leBytes 1 0 ++ leBytes 2 0)) false true).flits VC.ctrl := by
  have hown : (s.trained l st lanes peerRank peerLink).rank = s.rank := s.regs.trained_ask peerLink hl (by decide)
  have hto : (s.trained l st lanes peerRank peerLink).peerRank l = peerRank :=
    (s.regs.trained_shows peerLink hl hst hlanes hrank).2.2
  rw [State.probeFlits, hto, State.packet, hown, State.packet]

/-- The link once its neighbour has been asked. -/
theorem State.trained_asked_link {s : State} {l st lanes peerRank : Nat} (peerLink : Nat) (hl : l < 32) (hst : st < 8)
    (hlanes : lanes < 16) (hrank : peerRank < 2 ^ 20) (hdescs : ∀ d ∈ s.host.descs, ¬(d.taken = true ∧ d.opcode = 0x21)) :
    ((s.trained l st lanes peerRank peerLink).askNeighbour l).link l =
      if s.regs.get Reg.HIF_DEV_STATUS_STATE = 1 then (s.freshLink l).enqueue VC.ctrl ((s.packet peerRank PK.ctrl 0 0 0
        (clean (leBytes 1 CT.probe ++ leBytes 1 0 ++ leBytes 2 0)) false true).flits VC.ctrl)
      else s.freshLink l := by
  have hchecking : (s.trained l st lanes peerRank peerLink).regs.get Reg.HIF_DEV_STATUS_STATE = s.regs.get Reg.HIF_DEV_STATUS_STATE :=
    s.regs.trained_ask peerLink hl (by decide)
  rw [← s.trained_descs (l := l) (st := st) (lanes := lanes) (peerRank := peerRank) peerLink] at hdescs
  rw [State.askNeighbour_link hdescs, hchecking, s.trained_link, s.trained_probeFlits peerLink hl hst hlanes hrank]

/-- What a link's training shows, and what it leaves alone. -/
theorem State.trained_asked {s : State} {l st lanes peerRank : Nat} (peerLink : Nat) (hl : l < 32) (hst : st < 8)
    (hlanes : lanes < 16) (hrank : peerRank < 2 ^ 20) :
    let s' := (s.trained l st lanes peerRank peerLink).askNeighbour l
    s'.linkState l = st ∧ s'.regs.getAt Reg.LNK_LINK_STATUS_LANES l = lanes ∧ s'.peerRank l = peerRank ∧
      s' = { s with
        regs := s'.regs
        net := s'.net
        out := .flit l (flitSeal (flitBody ⟨0, 2, 0, 0, 0, 0, 0⟩ (trainMessage l lanes s.rank))) :: s.out } := by
  intro s'
  have hasked : s' = _ := s.trained_asked_eq peerLink
  have hregs : s'.regs = s.regs.trained l st lanes peerRank peerLink := congrArg State.regs hasked
  obtain ⟨hstate, hmask, hpeer⟩ := s.regs.trained_shows peerLink hl hst hlanes hrank
  refine ⟨?_, ?_, ?_, ?_⟩
  · rw [State.linkState, hregs, hstate]
  · rw [hregs, hmask]
  · rw [State.peerRank, hregs, hpeer]
  · rw [hregs]
    exact hasked

/-! ### The retransmission rate -/

/-- The check's verdict on one link: the count of its retransmissions now against the one seen a second ago. -/
def State.judgeRate (seen : List (Nat × Nat)) (s : State) (x : Nat × Nat) : State :=
  if 65536 < x.2 - Tbl.get seen 0 x.1 then s.event 4 0x10A1 x.1 (x.2 - Tbl.get seen 0 x.1) else s

/-- The state in which the counts have been taken down. -/
def State.rateTaken (s : State) : State := { s with net := { s.net with
  retrans := s.retransNow
  rateAt := s.now } }

theorem exec_rateCheck_due {s : State} (h : s.net.rateAt + 1000000000 ≤ s.now) :
    exec .linkRetryRateCheck s = .next (s.rateTaken.each s.retransNow (State.judgeRate s.net.retrans)) :=
  congrArg Host.Outcome.next (if_neg (Nat.not_lt.2 h))

theorem State.judgeRate_frame (seen : List (Nat × Nat)) (s : State) (x : Nat × Nat) :
    (s.judgeRate seen x).tiles = s.tiles ∧ (s.judgeRate seen x).net = s.net := by
  unfold State.judgeRate
  split
  · exact ⟨s.post_tiles _, s.post_net _⟩
  · exact ⟨rfl, rfl⟩

theorem State.each_judgeRate_frame (seen : List (Nat × Nat)) (s : State) (l : List (Nat × Nat)) :
    (s.each l (State.judgeRate seen)).tiles = s.tiles ∧ (s.each l (State.judgeRate seen)).net = s.net :=
  foldl_keeps (P := fun t : State => t.tiles = s.tiles ∧ t.net = s.net) (fun t x ht =>
    ⟨(t.judgeRate_frame seen x).1.trans ht.1, (t.judgeRate_frame seen x).2.trans ht.2⟩) l ⟨rfl, rfl⟩

/-- A verdict queues at most one event, behind those queued. -/
theorem State.judgeRate_events (seen : List (Nat × Nat)) {s : State} (x : Nat × Nat) (hroom : s.host.events.length < 1024) :
    ∃ new, (s.judgeRate seen x).host.events = s.host.events ++ new ∧ new.length ≤ 1 ∧
      (65536 < x.2 - Tbl.get seen 0 x.1 → ∃ e ∈ new, e.ev = ⟨0x10A1, 0, 4, x.1, x.2 - Tbl.get seen 0 x.1⟩) := by
  unfold State.judgeRate
  split
  case isTrue hmany =>
    refine ⟨[_], (congrArg HostSt.events (s.post_host _)).trans (HostSt.pushEv_events _ _ hroom), le_rfl, fun _ => ?_⟩
    exact ⟨_, List.mem_singleton_self _, rfl⟩
  case isFalse hfew => exact ⟨[], (List.append_nil _).symm, Nat.zero_le 1, fun hmany => absurd hmany hfew⟩

/-- While the queue has room, each link with too many retransmissions is posted, and what was queued stays. -/
theorem State.each_judgeRate_events (seen : List (Nat × Nat)) (l : List (Nat × Nat)) (s : State)
    (hroom : s.host.events.length + l.length ≤ 1024) :
    s.host.events ⊆ (s.each l (State.judgeRate seen)).host.events ∧
      ∀ x ∈ l, 65536 < x.2 - Tbl.get seen 0 x.1 →
        ∃ e ∈ (s.each l (State.judgeRate seen)).host.events, e.ev = ⟨0x10A1, 0, 4, x.1, x.2 - Tbl.get seen 0 x.1⟩ := by
  induction l generalizing s with
  | nil => exact ⟨List.Subset.refl _, fun x hx => absurd hx List.not_mem_nil⟩
  | cons y l ih =>
    rw [List.length_cons] at hroom
    obtain ⟨new, hevents, hone, hposted⟩ := State.judgeRate_events seen y (s := s) (by omega)
    obtain ⟨hstay, hothers⟩ := ih (s.judgeRate seen y) (by rw [hevents, List.length_append]; omega)
    rw [hevents] at hstay
    refine ⟨fun e he => hstay (List.mem_append_left _ he), fun x hx hmany => ?_⟩
    rcases List.mem_cons.1 hx with rfl | hmem
    · obtain ⟨e, he, hev⟩ := hposted hmany
      exact ⟨e, hstay (List.mem_append_right _ he), hev⟩
    · exact hothers x hmem hmany

theorem State.retransNow_length (s : State) : s.retransNow.length ≤ 32 :=
  (List.length_filter_le _ _).trans (by rw [List.length_map, List.length_range])

theorem State.mem_retransNow {s : State} {l : Nat} (hl : l < 32) (h : s.regs.getAt Reg.LNK_LINK_ERR_RETRANS l ≠ 0) :
    (l, s.regs.getAt Reg.LNK_LINK_ERR_RETRANS l) ∈ s.retransNow :=
  List.mem_filter.2 ⟨List.mem_map.2 ⟨l, List.mem_range.2 hl, rfl⟩, by simpa using h⟩

theorem exec_rateCheck (s : State) {l : Nat} (hl : l < 32) :
    ∃ s', exec .linkRetryRateCheck s = .next s' ∧ s'.tiles = s.tiles ∧ (s.now < s.net.rateAt + 1000000000 → s' = s) ∧
      (s.net.rateAt + 1000000000 ≤ s.now →
        let more := s.regs.getAt Reg.LNK_LINK_ERR_RETRANS l - Tbl.get s.net.retrans 0 l
        s'.net.rateAt = s.now ∧ Tbl.get s'.net.retrans 0 l = s.regs.getAt Reg.LNK_LINK_ERR_RETRANS l ∧
        (s.host.events.length + 32 ≤ 1024 → 65536 < more → ∃ e ∈ s'.host.events, e.ev = ⟨0x10A1, 0, 4, l, more⟩)) := by
  rcases Nat.lt_or_ge s.now (s.net.rateAt + 1000000000) with hearly | hdue
  · exact ⟨s, congrArg Host.Outcome.next (if_pos hearly), rfl, fun _ => rfl, fun hdue => absurd hearly (Nat.not_lt.2 hdue)⟩
  · obtain ⟨htiles, hnet⟩ := State.each_judgeRate_frame s.net.retrans s.rateTaken s.retransNow
    refine ⟨_, exec_rateCheck_due hdue, htiles, fun hearly => absurd hearly (Nat.not_lt.2 hdue), fun _ => ?_⟩
    intro more
    refine ⟨congrArg NetSt.rateAt hnet, (congrArg (fun n : NetSt => Tbl.get n.retrans 0 l) hnet).trans ?_, fun hroom hmany => ?_⟩
    · exact Tbl.get_listed (fun k => s.regs.getAt Reg.LNK_LINK_ERR_RETRANS k) (List.mem_range.2 hl)
    · have hlen := s.retransNow_length
      obtain ⟨-, hposted⟩ := State.each_judgeRate_events s.net.retrans s.retransNow s.rateTaken
        (show s.host.events.length + s.retransNow.length ≤ 1024 by omega)
      exact hposted _ (State.mem_retransNow hl (by omega)) hmany

/-- Settles O45: the time block that hears of a lost link leaves the fabric alone, a trained link is empty, and the check of the
rate is a fold over the counts of the links. -/
theorem linksGoDownAndReturn : Obligations.LinksGoDownAndReturn := by
  unfold Obligations.LinksGoDownAndReturn
  intro s l hl x
  refine ⟨fun hlive hsilent => ?_, fun reason hlive hreason hunsent hearly => State.linkDown_shows hl hlive hreason hunsent hearly,
    fun a n q t ha hn hlink hseq hpeer => ?_, fun vc p => ⟨fun h => State.passOn_sent h vc, fun hsrc hroute => if_pos ⟨hsrc, hroute⟩⟩,
    fun t => exec_linkFinalTimeout, fun lane hlive hlane hused => ?_,
    fun peerRank peerLink lanes hdown hpower hparked htrip hruns hlane hlanes hwide hrank _ => ?_, exec_rateCheck s hl⟩
  · exact congrArg Host.Outcome.next (if_pos ⟨hlive, hsilent⟩)
  · rw [exec_linkFinal ha hn hlink hseq hpeer]
    refine ⟨fun hlive => ?_, fun hlive hsince htime => ?_⟩
    · exact congrArg Host.Outcome.next (State.takeFinal_up (s := s.consume l a) hlive q)
    · exact congrArg Host.Outcome.next (State.takeFinal_down (s := s.consume l a) hlive hsince htime q)
  · rw [exec_laneSpare hlive hlane hused]
    exact congrArg Host.Outcome.next (State.spareLanes_one _ hlane hused)
  · obtain ⟨hstate, hmask, hpeer, hframe⟩ := State.trained_asked (s := s) peerLink hl (s.comesUp_lt l) hlanes hrank
    refine ⟨_, exec_linkTrainRetry hl hdown hpower hparked htrip hruns hlane hlanes hwide peerRank peerLink, hstate, hmask, hpeer,
      fun hdescs => ?_, hframe⟩
    have hlink := State.trained_asked_link peerLink hl (s.comesUp_lt l) hlanes hrank hdescs
    exact ⟨fun hno => hlink.trans (if_neg hno), fun hyes => hlink.trans (if_pos hyes)⟩

end Sys2Proof.Machine
end

section
/-! SUPPORT. The module at reset (R440, R523): the registers of the step machinery and the lock read zero. -/

namespace Sys2Proof.Machine

theorem RegFile.get_of_word_zero {r : RegFile} {f : Field} (h : r.word f.offset = 0) : r.get f = 0 := by
  rw [RegFile.get, RegFile.getAt, Nat.mul_zero, Nat.add_zero, h, bitsOf_eq, Nat.zero_div, Nat.zero_mod]

theorem RegFile.flag_of_word_zero {r : RegFile} {f : Field} (h : r.word f.offset = 0) : r.flag f = false := by
  rw [RegFile.flag, RegFile.get_of_word_zero h]
  rfl

/-- No default of R505 lies in the registers of the lock, of TRN_STEP_STATUS and of TRN_COMMITTED. -/
theorem State.reset_word_zero : ∀ f ∈ [Reg.HIF_DEV_CTL_ENABLE, Reg.TRN_STEP_STATUS_STATE, Reg.TRN_STEP_STATUS_COMMITTED_VALID,
    Reg.TRN_COMMITTED_STEP], State.reset.regs.word f.offset = 0 := by decide +kernel

theorem State.reset_sound : State.reset.Sound := ⟨Mem.wf_empty, List.Pairwise.nil, fun _ h => nomatch h⟩

/-- Settles O59: a register whose word is zero reads zero in every field, and the rest is how the model starts. -/
theorem resetIsSound : Obligations.ResetIsSound := by
  unfold Obligations.ResetIsSound
  refine ⟨State.reset_sound, rfl, rfl, rfl, RegFile.flag_of_word_zero ?_, RegFile.get_of_word_zero ?_,
    RegFile.get_of_word_zero ?_, RegFile.flag_of_word_zero ?_, rfl, rfl⟩ <;>
  exact State.reset_word_zero _ (by simp)

end Sys2Proof.Machine
end

section
/-! SUPPORT. Arming and releasing a step (R405 to R410, R491): what STEP_ARM, MB_ADMIT and MB_DROP answer and change, the release,
and what the registers and the semaphores read after it. -/

namespace Sys2Proof.Machine

/-! ### Registers of the step -/

/-- A write of the field leaves `g` alone, as it lies in another register or has other bits: a check that `decide` runs. -/
def Field.misses (f g : Field) : Bool :=
  decide (f.width ≠ 0 ∧ (f.offset ≠ g.offset ∨ f.hi < g.lo ∨ g.hi < f.lo))

theorem RegFile.get_set_misses (r : RegFile) {f g : Field} (v : Nat) (h : f.misses g = true) : (r.set f v).get g = r.get g := by
  obtain ⟨hwidth, hapart⟩ := of_decide_eq_true h
  exact r.get_set_other f g v (by simpa [Field.apart] using hapart) hwidth

theorem RegFile.get_setFlag_misses (r : RegFile) {f g : Field} (b : Bool) (h : f.misses g = true) :
    (r.setFlag f b).get g = r.get g := r.get_set_misses _ h

theorem RegFile.flag_setFlag_self (r : RegFile) (f : Field) (b : Bool) (h : f.width ≠ 0) : (r.setFlag f b).flag f = b := by
  have hone : 1 < 2 ^ f.width := Nat.one_lt_two_pow h
  rw [RegFile.flag, RegFile.setFlag, RegFile.get_set_self _ _ _ h]
  cases b <;> simp [Nat.mod_eq_of_lt hone]

/-- The registers of a release, but for the counts of a trace. -/
def RegFile.opened (r : RegFile) (c : StepCfg) : RegFile :=
  ((((((r.set Reg.TRN_STEP_NUM_STEP c.step).set Reg.TRN_STEP_STATUS_STATE 2).setFlag Reg.TRN_STEP_STATUS_EVAL c.eval).setFlag
    Reg.TRN_STEP_STATUS_REPLAY c.replay).setFlag Reg.TRN_STEP_STATUS_FROZEN false).set Reg.SAF_STATUS_VOTE 0).set
      Reg.SAF_STATUS_REASON 0

section
variable (r : RegFile) (c : StepCfg)

theorem RegFile.release_get {g : Field} (hentries : Reg.TRN_TRACE_STATUS_ENTRIES.misses g = true)
    (hlost : Reg.TRN_TRACE_STATUS_LOST.misses g = true) : (r.release c).get g = (r.opened c).get g := by
  unfold RegFile.release
  split
  · exact (RegFile.get_set_misses _ _ hlost).trans (RegFile.get_set_misses _ _ hentries)
  · rfl

theorem RegFile.release_step (h : c.step < 2 ^ 64) : (r.release c).get Reg.TRN_STEP_NUM_STEP = c.step := by
  rw [RegFile.release_get _ _ (by decide) (by decide)]
  simp (disch := decide) only [RegFile.opened, RegFile.get_set_misses, RegFile.get_setFlag_misses, RegFile.get_set_self]
  exact Nat.mod_eq_of_lt h

theorem RegFile.release_state : (r.release c).get Reg.TRN_STEP_STATUS_STATE = 2 := by
  rw [RegFile.release_get _ _ (by decide) (by decide)]
  simp (disch := decide) only [RegFile.opened, RegFile.get_set_misses, RegFile.get_setFlag_misses, RegFile.get_set_self]
  rfl

theorem RegFile.release_frozen : (r.release c).flag Reg.TRN_STEP_STATUS_FROZEN = false := by
  rw [RegFile.flag, RegFile.release_get _ _ (by decide) (by decide)]
  simp (disch := decide) only [RegFile.opened, RegFile.get_set_misses]
  exact RegFile.flag_setFlag_self _ _ _ (by decide)

end

/-! ### Semaphores -/

theorem State.loadPairs_sem (s : State) (t k : Nat) : (s.loadPairs.tile t).sem k = ((s.tile t).sem k).loaded := by
  have htile : s.loadPairs.tile t = _ := Tbl.get_mapVals (d := Tile.reset) (a := t) rfl s.tiles
  rw [htile]
  exact Tbl.get_mapVals (f := fun _ (x : Sem) => x.loaded) (d := Sem.zero) (a := k) rfl _

/-! ### STEP_ARM -/

/-- What a step passes that no row of Table 11.5 refuses. -/
structure State.MayArm (s : State) (c : StepCfg) : Prop where
  unarmed : s.step.armed = none
  notHeld : (s.res.absent.any fun a => a.active && a.hold) = false
  joined : s.regs.flag Reg.SAF_STATUS_ISOLATED = false
  parityLeft : c.training = true → s.res.exhausted = []
  oneKind : ¬(c.eval = true ∧ c.replay = true)
  total : c.mbTotal ≤ 65536
  ids : c.admitFirst + c.admitCount ≤ 65536
  follows : c.training = true → s.step.run = none → ∀ n, s.committed = some n → c.step = (n + 1) % 2 ^ 64
  evaluates : c.eval = true → s.committed = some c.step
  recordFits : s.judge .hostOnly c.record recordBytes = none
  recordAligned : c.record % 4096 = 0

theorem State.mayArm_of {s : State} {c : StepCfg} (h : s.armRefusal c = none) : s.MayArm c := by
  rw [State.armRefusal] at h
  split at h; · exact nomatch h
  next harmed =>
  split at h; · exact nomatch h
  next hfields =>
  split at h; · exact nomatch h
  next hblocked =>
  split at h; · exact nomatch h
  next hfollows =>
  split at h; · exact nomatch h
  next heval =>
  split at h; · exact nomatch h
  split at h; · exact nomatch h
  next hrecord =>
  simp only [not_or, Bool.not_eq_true, Option.isSome_eq_false_iff, Option.isNone_iff_eq_none, not_lt, not_not]
    at harmed hfields hblocked hrecord
  obtain ⟨hkind, htotal, hids⟩ := hfields
  obtain ⟨hheld, hjoined, hparity⟩ := hblocked
  obtain ⟨hfits, haligned⟩ := hrecord
  refine ⟨harmed, hheld, hjoined, fun ht => ?_, hkind, htotal, hids, fun ht hrun n hn => ?_, fun he => ?_, hfits, haligned⟩
  · exact not_not.1 fun hne => hparity ⟨ht, hne⟩
  · have hnext : s.nextStep n = (n + 1) % 2 ^ 64 := by rw [State.nextStep, hrun]
    rw [hn] at hfollows
    exact (not_not.1 fun hne => hfollows ⟨ht, rfl, hne⟩).trans hnext
  · exact not_not.1 fun hne => heval ⟨he, hne⟩

section
variable {s : State} {r j : Nat} {d : Desc} (hd : s.ready r j 0x10 = some d) (hfree : s.host.stuck d.unit = false) (v : HostView)
include hd hfree

/-- STEP_ARM by the rows of Table 11.5. -/
theorem exec_stepArm : exec (.stepArm r j v) s = .next (
    if d.n 40 3 = 0 then s.complete r j St.ok 0 0
    else match s.armRefusal (s.armCfg d) with
      | some e => s.complete r j e 0 0
      | none =>
        if (s.armCfg d).replay = false then s.armStep (s.armCfg d)
        else match s.replayRecord v (s.armCfg d) with
          | (.error e, s1) => s1.complete r j e.1 e.2 0
          | (.ok b, s1) => s1.armStep { s.armCfg d with original := b }) := by
  refine congrArg Host.Outcome.next ?_
  rw [hd]
  dsimp only
  rw [hfree]
  rfl

theorem exec_stepArm_empty (hnone : d.n 40 3 = 0) : exec (.stepArm r j v) s = .next (s.complete r j St.ok 0 0) := by
  rw [exec_stepArm hd hfree, if_pos hnone]

variable (hsome : d.n 40 3 ≠ 0)
include hsome

theorem exec_stepArm_refused {e : Nat} (h : s.armRefusal (s.armCfg d) = some e) :
    exec (.stepArm r j v) s = .next (s.complete r j e 0 0) := by
  rw [exec_stepArm hd hfree, if_neg hsome, h]

theorem exec_stepArm_taken (h : s.armRefusal (s.armCfg d) = none) (hreplay : (s.armCfg d).replay = false) :
    exec (.stepArm r j v) s = .next (s.armStep (s.armCfg d)) := by
  rw [exec_stepArm hd hfree, if_neg hsome, h]
  exact congrArg _ (if_pos hreplay)

theorem exec_stepArm_replay (h : s.armRefusal (s.armCfg d) = none) (hreplay : (s.armCfg d).replay = true) :
    exec (.stepArm r j v) s = .next (match s.replayRecord v (s.armCfg d) with
      | (.error e, s1) => s1.complete r j e.1 e.2 0
      | (.ok b, s1) => s1.armStep { s.armCfg d with original := b }) := by
  rw [exec_stepArm hd hfree, if_neg hsome, h]
  exact congrArg _ (if_neg (by simp [hreplay]))

end

theorem State.armRefusal_of_armed {s : State} (h : s.step.armed.isSome = true) (c : StepCfg) :
    s.armRefusal c = some St.paramCode := if_pos h

/-- An armed step shows in the step state and in TRN_STEP_STATUS, and its descriptor is taken. -/
theorem State.armStep_frame (s : State) (c : StepCfg) :
    (s.armStep c).step = { s.step with armed := some c, admitted := [], drops := [], held := none } ∧
      (s.armStep c).regs = (if s.stepState = 0 then s.regs.set Reg.TRN_STEP_STATUS_STATE 1 else s.regs) ∧
      (s.armStep c).tiles = s.tiles ∧ (s.armStep c).stack = s.stack ∧ (s.armStep c).out = s.out ∧
      (s.armStep c).host.queue = s.host.queue := by
  have hstate (t : State) : t.regs = s.regs → t.stepState = s.stepState := fun h => congrArg (RegFile.get · _) h
  by_cases h : s.stepState = 0
  · have harm : s.armStep c = _ := if_pos ((hstate _ rfl).trans h)
    rw [harm, if_pos h]
    exact ⟨rfl, rfl, rfl, rfl, rfl, rfl⟩
  · have harm : s.armStep c = _ := if_neg (mt (hstate _ rfl).symm.trans h)
    rw [harm, if_neg h]
    exact ⟨rfl, rfl, rfl, rfl, rfl, rfl⟩

/-! ### MB_ADMIT -/

/-- For an id that the armed step admits and has not admitted yet, the tokens decide. -/
theorem State.admitRefusal_of {s : State} {d : Desc} {c : StepCfg} (hc : s.step.armed = some c) (hstep : c.step = d.n 8 8)
    (heval : c.eval = d.eval) (hlo : c.admitFirst ≤ d.n 16 4) (hhi : d.n 16 4 < c.admitFirst + c.admitCount)
    (hnew : ∀ m ∈ s.step.admitted, m.id ≠ d.n 16 4) : s.admitRefusal d =
      if min 4194304 (s.regs.get Reg.TRN_LIMITS_MAX_TOKENS) < d.n 20 4 then some St.mbTooLong
      else if s.regs.getAt Reg.TRN_BUCKET_VALID (d.n 24 1 % 8) = 0 ∨
        s.regs.getAt Reg.TRN_BUCKET_LEN (d.n 24 1 % 8) < d.n 20 4 then some St.paramCode
      else none := by
  have hsame : ¬(c.step ≠ d.n 8 8 ∨ c.eval ≠ d.eval) := by simp [hstep, heval]
  have hid : ¬(d.n 16 4 < c.admitFirst ∨ c.admitFirst + c.admitCount ≤ d.n 16 4 ∨
      s.step.admitted.any (fun m => m.id == d.n 16 4) = true) := by
    simp only [List.any_eq_true, beq_iff_eq]
    rintro (h | h | ⟨m, hm, hid⟩)
    · omega
    · omega
    · exact hnew m hm hid
  rw [State.admitRefusal, hc]
  dsimp only
  rw [if_neg hsame, if_neg hid]

/-- An admitted micro-batch joins those of the armed step. -/
def State.addMb (s : State) (m : Mb) : State := { s with step := { s.step with admitted := s.step.admitted ++ [m] } }

section
variable {s : State} {r j : Nat} {v : HostView} {d : Desc} (hd : s.ready r j 0x11 = some d) (hfree : s.host.stuck d.unit = false)
  (heval : d.eval = true → s.evalOn = true)
include hd hfree heval

theorem exec_mbAdmit : exec (.mbAdmit r j v) s = .next (
    if d.n 20 4 = 0 then s.complete r j St.ok 0 0
    else match s.admitRefusal d with
      | some e => s.complete r j e 0 0
      | none =>
        match s.tensor .local3 v (d.n 0 8) with
        | (.error e, s1) => s1.complete r j e.1 e.2 0
        | (.ok t, s1) =>
          if s.localOpen (d.n 0 8) 64 = false ∨ s.localOpen t.base (4 * d.n 20 4) = false then s
          else if t.fmt ≠ Fmt.int32.code ∨ t.mode ≠ 0 ∨ t.elems < d.n 20 4 then s1.complete r j St.tdInvalid 0 0
          else
            let g := s1.get v t.base (4 * d.n 20 4)
            if g.err then g.st.complete r j St.strReadErr 0 0
            else if g.poison then g.st.complete r j St.poisonConsumed 16 0
            else (g.st.addMb ⟨d.n 16 4, d.n 20 4, g.data⟩).complete r j St.ok 0 (d.n 24 1 % 8)) :=
  congrArg Host.Outcome.next (State.onDesc_of_ready hd hfree heval)

theorem exec_mbAdmit_empty (hnone : d.n 20 4 = 0) : exec (.mbAdmit r j v) s = .next (s.complete r j St.ok 0 0) := by
  rw [exec_mbAdmit hd hfree heval, if_pos hnone]

variable (hsome : d.n 20 4 ≠ 0)
include hsome

theorem exec_mbAdmit_refused {e : Nat} (h : s.admitRefusal d = some e) :
    exec (.mbAdmit r j v) s = .next (s.complete r j e 0 0) := by
  rw [exec_mbAdmit hd hfree heval, if_neg hsome, h]

/-- A tensor that MB_ADMIT can use is read; poison in it refuses it, and otherwise its bytes are the micro-batch's. -/
theorem exec_mbAdmit_read {t : Tensor} {s1 : State} (hok : s.admitRefusal d = none)
    (ht : s.tensor .local3 v (d.n 0 8) = (.ok t, s1)) (hfmt : t.fmt = Fmt.int32.code) (hmode : t.mode = 0)
    (hroom : d.n 20 4 ≤ t.elems) (hopen : s.localOpen (d.n 0 8) 64 = true) (hdata : s.localOpen t.base (4 * d.n 20 4) = true)
    (hread : (s1.get v t.base (4 * d.n 20 4)).err = false) :
    let g := s1.get v t.base (4 * d.n 20 4)
    exec (.mbAdmit r j v) s = .next (if g.poison then g.st.complete r j St.poisonConsumed 16 0
      else (g.st.addMb ⟨d.n 16 4, d.n 20 4, g.data⟩).complete r j St.ok 0 (d.n 24 1 % 8)) := by
  have hblocked : ¬(s.localOpen (d.n 0 8) 64 = false ∨ s.localOpen t.base (4 * d.n 20 4) = false) := by simp [hopen, hdata]
  have hform : ¬(t.fmt ≠ Fmt.int32.code ∨ t.mode ≠ 0 ∨ t.elems < d.n 20 4) := by simp [hfmt, hmode, hroom]
  rw [exec_mbAdmit hd hfree heval, if_neg hsome, hok, ht]
  dsimp only
  rw [if_neg hblocked, if_neg hform, hread]
  rfl

end

/-! ### MB_DROP -/

section
variable {s : State} {r j : Nat} {d : Desc} (hd : s.ready r j 0x2C = some d) (hfree : s.host.stuck d.unit = false)
  (heval : d.eval = true → s.evalOn = true)
include hd hfree heval

theorem exec_mbDrop : exec (.mbDrop r j) s = .next (match s.step.armed with
    | some c =>
      if c.step ≠ d.n 0 8 ∨ (d.n 16 1 ≠ 3 ∧ d.n 16 1 ≠ 4) then s.complete r j St.paramCode 0 0
      else ({ s with step := { s.step with
        drops := s.step.drops ++ [(⟨d.n 8 4, d.n 12 4, d.n 16 1⟩ : MbDrop)] } }).complete r j St.ok 0 0
    | none => s.complete r j St.paramCode 0 0) :=
  congrArg Host.Outcome.next (State.onDesc_of_ready hd hfree heval)

theorem exec_mbDrop_noted {c : StepCfg} (hc : s.step.armed = some c) (hstep : c.step = d.n 0 8)
    (hcause : d.n 16 1 = 3 ∨ d.n 16 1 = 4) : exec (.mbDrop r j) s = .next (({ s with step := { s.step with
      drops := s.step.drops ++ [(⟨d.n 8 4, d.n 12 4, d.n 16 1⟩ : MbDrop)] } }).complete r j St.ok 0 0) := by
  rw [exec_mbDrop hd hfree heval, hc]
  exact congrArg _ (if_neg (by omega))

theorem exec_mbDrop_other (hother : ∀ c, s.step.armed = some c → c.step ≠ d.n 0 8) :
    exec (.mbDrop r j) s = .next (s.complete r j St.paramCode 0 0) := by
  rw [exec_mbDrop hd hfree heval]
  cases hc : s.step.armed with
  | none => rfl
  | some c => exact congrArg _ (if_pos (.inl (hother c hc)))

end

/-! ### The release -/

section
variable {s : State} {c : StepCfg} (hc : s.step.armed = some c) (hdue : c.release ≤ s.now) (v : HostView)
include hc hdue

theorem exec_stepRelease : exec (.stepRelease v) s = .next (
    if s.stepState ≤ 1 ∧ s.fab.parked = false ∧ s.parkDue = false then s.releaseStep c
    else if s.step.held.isSome then s
    else { s with step := { s.step with held := some s.now } }) := by
  refine congrArg Host.Outcome.next ?_
  rw [hc]
  exact if_neg (Nat.not_lt.2 hdue)

theorem exec_stepRelease_starts (hidle : s.stepState ≤ 1) (hawake : s.fab.parked = false) (hnopark : s.parkDue = false) :
    exec (.stepRelease v) s = .next (s.releaseStep c) := by
  rw [exec_stepRelease hc hdue, if_pos ⟨hidle, hawake, hnopark⟩]

theorem exec_stepRelease_held (hbusy : 2 ≤ s.stepState ∨ s.parkDue = true) (hnew : s.step.held = none) :
    exec (.stepRelease v) s = .next { s with step := { s.step with held := some s.now } } := by
  have hwaits : ¬(s.stepState ≤ 1 ∧ s.fab.parked = false ∧ s.parkDue = false) := by
    rintro ⟨hidle, -, hnopark⟩
    rcases hbusy with h | h
    · omega
    · simp [h] at hnopark
  rw [exec_stepRelease hc hdue, if_neg hwaits, hnew]
  rfl

end

/-- Settles O52: STEP_ARM, MB_ADMIT and MB_DROP answer by the first row that applies, and the release starts the step or notes
since when it has been held. -/
theorem stepsAreArmedAndReleased : Obligations.StepsAreArmedAndReleased := by
  unfold Obligations.StepsAreArmedAndReleased
  intro s r j v d
  refine ⟨fun hd hfree => ?_, fun hd hfree heval => ?_, fun hd hfree heval => ?_, fun c hc hdue => ?_, fun c hstep => ?_,
    fun t k => ?_⟩
  · refine ⟨exec_stepArm_empty hd hfree v, fun hsome harmed => ?_, fun e hsome => exec_stepArm_refused hd hfree v hsome,
      fun hsome hok => ?_, fun hsome hok hreplay => ⟨fun b s1 hb => ?_, fun e s1 he => ?_⟩⟩
    · exact exec_stepArm_refused hd hfree v hsome (State.armRefusal_of_armed harmed _)
    · have h := State.mayArm_of hok
      exact ⟨h.unarmed, h.notHeld, h.joined, h.parityLeft, h.oneKind, h.total, h.ids, h.follows, h.evaluates, h.recordFits,
        h.recordAligned, fun hreplay => ⟨_, exec_stepArm_taken hd hfree v hsome hok hreplay, s.armStep_frame _⟩⟩
    · rw [exec_stepArm_replay hd hfree v hsome hok hreplay, hb]
    · rw [exec_stepArm_replay hd hfree v hsome hok hreplay, he]
  · refine ⟨exec_mbAdmit_empty hd hfree heval, fun e hsome => exec_mbAdmit_refused hd hfree heval hsome,
      fun c hc hstep hkind hlo hhi hnew => ?_, fun t s1 hsome hok ht hfmt hmode hroom hopen hdata => ?_⟩
    · rw [State.admitRefusal_of hc hstep hkind hlo hhi hnew]
      refine ⟨fun hlong => if_pos hlong, fun hshort hvalid hlen => ?_⟩
      rw [if_neg (by omega), if_neg (by omega)]
    · have hexec := exec_mbAdmit_read hd hfree heval hsome hok ht hfmt hmode hroom hopen hdata
      refine ⟨fun hread hpoison => ?_, fun hread hpoison => ⟨State.addMb _ ⟨_, _, _⟩, ?_, rfl, rfl⟩⟩
      · rw [hexec hread, hpoison]
        rfl
      · rw [hexec hread, hpoison]
        rfl
  · exact ⟨fun c => exec_mbDrop_noted hd hfree heval, exec_mbDrop_other hd hfree heval⟩
  · exact ⟨exec_stepRelease_starts hc hdue v, exec_stepRelease_held hc hdue v⟩
  · exact ⟨s.regs.release_step c hstep, s.regs.release_state c, s.regs.release_frozen c⟩
  · rw [State.loadPairs_sem]
    exact ⟨rfl, rfl, rfl, rfl⟩

end Sys2Proof.Machine
end

section
/-! SUPPORT. The end of a step (R402, R403, R428 to R432): what the writes of a commit, an abort and a record leave alone, the
state in which a step that has ended leaves the module, and the record's layout. -/

namespace Sys2Proof.Machine

/-! ### What the end of a step leaves alone -/

/-- STATE and what is committed. -/
def Reg.stepFields : List Field := [Reg.TRN_STEP_STATUS_STATE, Reg.TRN_STEP_STATUS_COMMITTED_VALID, Reg.TRN_COMMITTED_STEP]

theorem Reg.stepFields_outside : ∀ g ∈ Reg.stepFields, g.count = 1 ∧ g.outsideEventStatus := by
  unfold Field.outsideEventStatus Field.separate
  decide

/-- The counters that the end of a step writes by the way. -/
def Reg.endCounters : List Field :=
  [Reg.HIF_CPL_STATUS_MAX_QUEUED, Reg.HIF_CPL_STATUS_FULL_WAITS, Reg.CMP_CTAB_STATUS_REBUILDS]

theorem Reg.endCounters_miss : ∀ f ∈ Reg.endCounters, ∀ g ∈ Reg.stepFields, f.misses g = true := by decide

@[simp] theorem State.markGranules_step (s : State) (gs : List Nat) : (s.markGranules gs).step = s.step := by
  unfold State.markGranules
  split <;> rfl

/-- STATE and what is committed, the steps in progress and armed, and the reservations stand as they stood. -/
structure State.StepFrame (s t : State) : Prop where
  fields : ∀ g ∈ Reg.stepFields, t.regs.get g = s.regs.get g
  kv : t.kv = s.kv
  run : t.step.run = s.step.run
  armed : t.step.armed = s.step.armed

namespace State.StepFrame

variable {s t u : State}

theorem refl (s : State) : s.StepFrame s := ⟨fun _ _ => rfl, rfl, rfl, rfl⟩

theorem trans (h : s.StepFrame t) (h' : t.StepFrame u) : s.StepFrame u where
  fields g hg := (h'.fields g hg).trans (h.fields g hg)
  kv := h'.kv.trans h.kv
  run := h'.run.trans h.run
  armed := h'.armed.trans h.armed

/-- Work that writes no register, no reservation, and neither of the two steps. -/
theorem same (h : s.StepFrame t) (hregs : u.regs = t.regs) (hkv : u.kv = t.kv) (hrun : u.step.run = t.step.run)
    (harmed : u.step.armed = t.step.armed) : s.StepFrame u :=
  h.trans ⟨fun g _ => congrArg (RegFile.get · g) hregs, hkv, hrun, harmed⟩

theorem tiles (h : s.StepFrame t) (x : List (Nat × Tile)) : s.StepFrame { t with tiles := x } := h.same rfl rfl rfl rfl

/-- What meets the errors of memory and leaves the step state alone. -/
theorem access (h : s.StepFrame t) (haccess : t.AccessFrame u) (hstep : u.step = t.step) : s.StepFrame u := by
  refine h.trans ⟨fun g hg => ?_, haccess.kv, congrArg StepSt.run hstep, congrArg StepSt.armed hstep⟩
  obtain ⟨hcount, houtside⟩ := Reg.stepFields_outside g hg
  exact haccess.get houtside (by omega)

theorem each {α : Type} {f : State → α → State} (hf : ∀ (t : State) x, t.StepFrame (f t x)) (h : s.StepFrame t)
    (l : List α) : s.StepFrame (t.each l f) :=
  foldl_keeps (P := fun u => s.StepFrame u) (fun u x hu => hu.trans (hf u x)) l h

theorem setReg (h : s.StepFrame t) {f : Field} (hf : f ∈ Reg.endCounters) (v : Nat) : s.StepFrame (t.setReg f v) :=
  h.trans ⟨fun g hg => t.regs.get_set_misses v (Reg.endCounters_miss f hf g hg), rfl, rfl, rfl⟩

theorem event (h : s.StepFrame t) (source status loc detail : Nat) : s.StepFrame (t.event source status loc detail) :=
  h.access (State.post_accessFrame _ _) (State.post_step _ _)

theorem stackWrite (h : s.StepFrame t) (a : Nat) (bs : List PByte) : s.StepFrame (t.stackWrite a bs) :=
  h.access (t.stackWrite_accessFrame a bs) (State.each_step (fun _ _ => State.stackPut_step _ _ _ _) t _)

theorem poke (h : s.StepFrame t) (a : Nat) (bs : List Byte) : s.StepFrame (t.poke a bs) := h.stackWrite a (clean bs)

theorem stackRead (h : s.StepFrame t) (a n : Nat) : s.StepFrame (t.stackRead a n).2 := by
  have hmet : s.StepFrame ((accessesOf a n).foldl (fun s p => s.meetErrors 0 p.1) t) :=
    each (fun u _ => (refl u).access (u.meetErrors_accessFrame _ _) (u.meetErrors_step _ _)) h _
  exact hmet.access (State.markGranules_accessFrame _ _) (State.markGranules_step _ _)

theorem touchStack (h : s.StepFrame t) (l : List (Nat × Nat)) : s.StepFrame (t.touchStack l) :=
  each (fun u _ => (refl u).stackRead _ _) h l

theorem ite {c : Prop} [Decidable c] (ht : s.StepFrame t) (hu : s.StepFrame u) : s.StepFrame (if c then t else u) := by
  split
  · exact ht
  · exact hu

/-- A record that completes a descriptor. -/
theorem complete (h : s.StepFrame t) (ring j status flags result : Nat) : s.StepFrame (t.complete ring j status flags result) := by
  unfold State.complete
  split
  · exact h
  · next d _ =>
    have hdrop : s.StepFrame { t with host := t.host.dropDesc ring j } := h.same rfl rfl rfl rfl
    unfold State.pushCpl
    refine ite ?_ ?_
    · exact (hdrop.setReg (f := Reg.HIF_CPL_STATUS_MAX_QUEUED) (by decide) _).same rfl rfl rfl rfl
    · exact (hdrop.setReg (f := Reg.HIF_CPL_STATUS_FULL_WAITS) (by decide) _).same rfl rfl rfl rfl

theorem finish (h : s.StepFrame t) (r j status : Nat) : s.StepFrame (t.finish r j status) := h.complete r j status 0 0

/-- A write to a host window leaves the module. -/
theorem put_host (h : s.StepFrame t) {a : Nat} (ha : addrWindow a = 2) (bs : List PByte) : s.StepFrame (t.put a bs) := by
  rw [State.put, ha]
  exact ite h (h.same rfl rfl rfl rfl)

/-! ### Records and tables -/

theorem clearTable (h : s.StepFrame t) (k : Nat) : s.StepFrame (t.clearTable k) := (h.poke _ _).poke _ _

theorem records (h : s.StepFrame t) (f : Mem → Nat → Nat → Mem) : s.StepFrame (t.records f) :=
  (h.touchStack _).same rfl rfl rfl rfl

theorem dropRecords (h : s.StepFrame t) : s.StepFrame t.dropRecords :=
  each (fun u k => (refl u).clearTable k) (h.records _) _

theorem abortRecords (h : s.StepFrame t) : s.StepFrame t.abortRecords := h.dropRecords.tiles _

theorem commitTable (h : s.StepFrame t) (k : Nat) : s.StepFrame (t.commitTable k) := by
  have hread (a n : Nat) : s.StepFrame (t.touchStack [(a, n)]) := h.touchStack _
  refine clearTable (ite (ite ((hread _ _).poke _ _) (hread _ _)) (ite ?_ (hread _ _))) k
  exact ((((((hread _ _).poke _ _).poke _ _).poke _ _).poke _ _).setReg (f := Reg.CMP_CTAB_STATUS_REBUILDS) (by decide) _).same
    rfl rfl rfl rfl

theorem commitTables (h : s.StepFrame t) (l : List Nat) : s.StepFrame (t.each l State.commitTable) :=
  each (fun u k => (refl u).commitTable k) h l

theorem commitTiles (h : s.StepFrame t) (n : Nat) : s.StepFrame (t.commitTiles n) := h.tiles _

theorem writeTags (h : s.StepFrame t) (n : Nat) : s.StepFrame (t.writeTags n) :=
  each (fun u _ => (refl u).stackWrite _ _) h _

theorem expandMarks (h : s.StepFrame t) : s.StepFrame t.expandMarks := by
  unfold State.expandMarks
  exact ite h (h.same rfl rfl rfl rfl)

theorem startSnaps (h : s.StepFrame t) : s.StepFrame t.startSnaps := h.same rfl rfl rfl rfl

end State.StepFrame

/-! ### A step that has ended -/

/-- The module is IDLE with no step in progress; what is committed, the step armed and the reservations are as they were. -/
structure State.Ended (s t : State) : Prop where
  run : t.step.run = none
  idle : t.stepState = 0
  committed : t.regs.get Reg.TRN_COMMITTED_STEP = s.regs.get Reg.TRN_COMMITTED_STEP
  valid : t.regs.flag Reg.TRN_STEP_STATUS_COMMITTED_VALID = s.regs.flag Reg.TRN_STEP_STATUS_COMMITTED_VALID
  kv : t.kv = s.kv
  armed : t.step.armed = s.step.armed

namespace State.Ended

variable {s t u : State}

theorem after (h : t.Ended u) (h' : s.StepFrame t) : s.Ended u where
  run := h.run
  idle := h.idle
  committed := h.committed.trans (h'.fields _ (by simp [Reg.stepFields]))
  valid := h.valid.trans (congrArg (· == 1) (h'.fields _ (by simp [Reg.stepFields])))
  kv := h.kv.trans h'.kv
  armed := h.armed.trans h'.armed

theorem before (h : s.Ended t) (h' : t.StepFrame u) : s.Ended u where
  run := h'.run.trans h.run
  idle := (h'.fields _ (by simp [Reg.stepFields])).trans h.idle
  committed := (h'.fields _ (by simp [Reg.stepFields])).trans h.committed
  valid := (congrArg (· == 1) (h'.fields _ (by simp [Reg.stepFields]))).trans h.valid
  kv := h'.kv.trans h.kv
  armed := h'.armed.trans h.armed

end State.Ended

/-- The registers of a step that has ended. -/
def RegFile.idle (r : RegFile) : RegFile :=
  ((r.set Reg.TRN_STEP_STATUS_STATE 0).setFlag Reg.TRN_STEP_STATUS_EVAL false).setFlag Reg.TRN_STEP_STATUS_REPLAY false

section
variable (r : RegFile)

theorem RegFile.idle_state : r.idle.get Reg.TRN_STEP_STATUS_STATE = 0 := by
  simp (disch := decide) only [RegFile.idle, RegFile.get_setFlag_misses, RegFile.get_set_self]
  rfl

theorem RegFile.idle_committed : r.idle.get Reg.TRN_COMMITTED_STEP = r.get Reg.TRN_COMMITTED_STEP := by
  simp (disch := decide) only [RegFile.idle, RegFile.get_setFlag_misses, RegFile.get_set_misses]

theorem RegFile.idle_valid :
    r.idle.flag Reg.TRN_STEP_STATUS_COMMITTED_VALID = r.flag Reg.TRN_STEP_STATUS_COMMITTED_VALID := by
  simp (disch := decide) only [RegFile.idle, RegFile.flag, RegFile.get_setFlag_misses, RegFile.get_set_misses]

end

/-- The module once its step's record is written and its STEP_ARM complete. -/
def State.stepClosed (s : State) : State :=
  { s.clearUpdate with
    step := { s.step with run := none }
    gate := s.gate.release
    regs := s.regs.idle }

theorem State.stepClosed_ended (s : State) : s.Ended s.stepClosed :=
  ⟨rfl, s.regs.idle_state, s.regs.idle_committed, s.regs.idle_valid, rfl, rfl⟩

theorem State.closeStep_eq (s : State) (r : RunSt) (flags status reason : Nat) (digest : List Byte) (result : Nat) :
    s.closeStep r flags status reason digest result =
      ((s.put r.cfg.record (clean (s.record r flags status reason digest))).complete r.cfg.ring r.cfg.index status 0
        result).stepClosed.expandMarks := by
  unfold State.closeStep State.stepClosed RegFile.idle
  with_reducible rfl

/-- A step whose record goes to a host window ends. -/
theorem State.closeStep_ended (s : State) {r : RunSt} (hrecord : addrWindow r.cfg.record = 2) (flags status reason : Nat)
    (digest : List Byte) (result : Nat) : s.Ended (s.closeStep r flags status reason digest result) := by
  have hwritten := (StepFrame.refl s).put_host hrecord (clean (s.record r flags status reason digest))
  have hdone := hwritten.complete r.cfg.ring r.cfg.index status 0 result
  rw [State.closeStep_eq]
  exact ((State.stepClosed_ended _).after hdone).before (StepFrame.refl _).expandMarks

/-- So does one whose records are dropped first. -/
theorem State.closeStep_dropRecords_ended {s t : State} (h : s.StepFrame t) (r : RunSt) (flags status reason : Nat)
    (digest : List Byte) (result : Nat) (hrecord : addrWindow r.cfg.record = 2) :
    s.Ended (t.dropRecords.closeStep r flags status reason digest result) :=
  (t.dropRecords.closeStep_ended hrecord flags status reason digest result).after h.dropRecords

/-! ### The end of RUNNING -/

theorem State.endEval_ended (s : State) {r : RunSt} (hrecord : addrWindow r.cfg.record = 2) : s.Ended (s.endEval r) := by
  have hread : s.StepFrame (s.touchStack (s.listSpans (r.cfg.step % 2))) := (StepFrame.refl s).touchStack _
  refine State.closeStep_dropRecords_ended ?_ _ _ _ _ _ _ hrecord
  split
  · exact hread
  · exact hread.event _ _ _ _

section
variable {s : State} {x : RunSt} (hx : s.step.run = some x) (hrunning : s.stepState = 2) (hdone : s.runDone = true)
include hx hrunning hdone

/-- The end of RUNNING by the kind of the step. -/
theorem exec_stepRunningEnd : exec .stepRunningEnd s = .next (
    if x.cfg.replay then s.setReg Reg.TRN_STEP_STATUS_STATE 3
    else if s.spansOpen (s.pgroupSpan :: (s.listSpans 0 ++ s.listSpans 1)) = false then s
    else if x.cfg.eval then s.endEval x
    else (((s.touchStack [s.pgroupSpan]).setReg Reg.TRN_STEP_STATUS_STATE 3).startUpdate).drain) := by
  refine congrArg Host.Outcome.next ?_
  rw [hx]
  exact if_neg (by simp [hrunning, hdone])

theorem exec_stepRunningEnd_replay (hreplay : x.cfg.replay = true) :
    exec .stepRunningEnd s = .next (s.setReg Reg.TRN_STEP_STATUS_STATE 3) := by
  rw [exec_stepRunningEnd hx hrunning hdone, if_pos hreplay]

theorem exec_stepRunningEnd_training (htraining : x.cfg.training = true)
    (hopen : s.spansOpen (s.pgroupSpan :: (s.listSpans 0 ++ s.listSpans 1)) = true) : exec .stepRunningEnd s =
      .next (((s.touchStack [s.pgroupSpan]).setReg Reg.TRN_STEP_STATUS_STATE 3).startUpdate).drain := by
  obtain ⟨heval, hreplay⟩ : x.cfg.eval = false ∧ x.cfg.replay = false := by simpa [StepCfg.training] using htraining
  rw [exec_stepRunningEnd hx hrunning hdone, if_neg (by simp [hreplay]), if_neg (by simp [hopen]), if_neg (by simp [heval])]

theorem exec_stepRunningEnd_eval (heval : x.cfg.eval = true) (hreplay : x.cfg.replay = false)
    (hopen : s.spansOpen (s.pgroupSpan :: (s.listSpans 0 ++ s.listSpans 1)) = true) :
    exec .stepRunningEnd s = .next (s.endEval x) := by
  rw [exec_stepRunningEnd hx hrunning hdone, if_neg (by simp [hreplay]), if_neg (by simp [hopen]), if_pos heval]

end

theorem exec_stepRunningEnd_waits {s : State} (hdone : s.runDone = false) : exec .stepRunningEnd s = .next s := by
  refine congrArg Host.Outcome.next ?_
  split
  · rfl
  · exact if_pos (.inr hdone)

/-! ### The end of COMMITTING -/

/-- What the commit actions of step `n` make of the module before the step is committed (R428). -/
def State.commitWork (s : State) (n : Nat) : State :=
  let s1 := (s.touchStack (s.listSpans (n % 2))).records fun m a f => commitRecord m a n (s.regs.get Reg.CMP_CAL_CTL_MARGIN) f
  (s1.each s1.touchedTables State.commitTable).commitTiles n

theorem State.commitWork_frame (s : State) (n : Nat) : s.StepFrame (s.commitWork n) :=
  ((((StepFrame.refl s).touchStack _).records _).commitTables _).commitTiles n

/-- The tags are written and TRN_COMMITTED set. -/
def State.commitNumber (s : State) (n : Nat) : State :=
  ((s.writeTags n).setReg Reg.TRN_COMMITTED_STEP n).setFlag Reg.TRN_STEP_STATUS_COMMITTED_VALID true

theorem State.commitNumber_regs (s : State) (n : Nat) : (s.commitNumber n).regs = ((s.writeTags n).regs.set
    Reg.TRN_COMMITTED_STEP n).setFlag Reg.TRN_STEP_STATUS_COMMITTED_VALID true := rfl

theorem State.commitNumber_step (s : State) {n : Nat} (hn : n < 2 ^ 64) :
    (s.commitNumber n).regs.get Reg.TRN_COMMITTED_STEP = n := by
  have hmisses : Reg.TRN_STEP_STATUS_COMMITTED_VALID.misses Reg.TRN_COMMITTED_STEP = true := by decide
  rw [State.commitNumber_regs, RegFile.get_setFlag_misses _ _ hmisses, RegFile.get_set_self _ _ _ (by decide)]
  exact Nat.mod_eq_of_lt hn

theorem State.commitNumber_valid (s : State) (n : Nat) :
    (s.commitNumber n).regs.flag Reg.TRN_STEP_STATUS_COMMITTED_VALID = true := by
  rw [State.commitNumber_regs, RegFile.flag_setFlag_self _ _ _ (by decide)]

theorem exec_stepCommitEnd_early {s : State} (h : s.stepState ≠ 5) : exec .stepCommitEnd s = .next s := by
  refine congrArg Host.Outcome.next ?_
  split
  · rfl
  · exact if_pos h

section
variable {s : State} {x : RunSt} (hx : s.step.run = some x) (hcommitting : s.stepState = 5)
  (hopen : s.spansOpen (s.listSpans (x.cfg.step % 2)) = true)
include hx hcommitting hopen

theorem exec_stepCommitEnd_commits (hreplay : x.cfg.replay = false) (hfree : s.commitHeld = false) :
    exec .stepCommitEnd s = .next ((((s.commitWork x.cfg.step).commitNumber x.cfg.step).closeStep x 1 St.ok 0
      ((s.commitWork x.cfg.step).stateDigest (x.cfg.step % 2)) x.cfg.step).startSnaps) := by
  refine congrArg Host.Outcome.next ?_
  rw [hx]
  dsimp only
  rw [if_neg (by simp [hcommitting]), if_neg (by simp [hreplay]), if_neg (by simp [hfree, hopen])]
  rfl

theorem exec_stepCommitEnd_replay (hreplay : x.cfg.replay = true) : exec .stepCommitEnd s = .next (s.endReplay x) := by
  refine congrArg Host.Outcome.next ?_
  rw [hx]
  dsimp only
  rw [if_neg (by simp [hcommitting]), if_pos hreplay, if_pos hopen]

end

theorem State.endReplay_ended (s : State) {r : RunSt} (hrecord : addrWindow r.cfg.record = 2) : s.Ended (s.endReplay r) := by
  have hread : s.StepFrame (s.touchStack (s.listSpans (r.cfg.step % 2))) := (StepFrame.refl s).touchStack _
  exact State.closeStep_dropRecords_ended (StepFrame.ite (hread.event _ _ _ _) hread) _ _ _ _ _ _ hrecord

/-! ### The record (R432) -/

/-- The bytes of a record between STEP and STATUS. -/
def State.recordOpening (s : State) (r : RunSt) (digest : List Byte) : List Byte :=
  leBytes 8 r.cfg.schedule ++ leBytes 8 s.seed ++ leBytes 8 r.cfg.dataSeed ++ padTo 32 (inputDigest r.mbs) ++ padTo 32 digest ++
    leBytes 8 r.releasedAt ++ leBytes 8 s.now

/-- The FLAGS of a record, of which `flags` are COMMITTED and ABORTED. -/
def RunSt.recordFlags (r : RunSt) (flags : Nat) : Nat :=
  let bit := fun (b : Bool) (k : Nat) => if b then k else 0
  flags + bit r.cfg.eval 4 + bit r.cfg.replay 8 + bit r.cfg.late 16 + bit r.diverged 32

/-- The bytes of a record between STATUS and the drop mask. -/
def State.recordCounts (s : State) (r : RunSt) (flags reason : Nat) : List Byte :=
  leBytes 1 (r.recordFlags flags) ++ leBytes 1 reason ++ leBytes 4 r.cfg.mbTotal ++ leBytes 4 s.step.mask.length ++
    leBytes 4 s.step.log.length ++ ((List.range 9).flatMap fun k => leBytes 8 (s.idleRise r k)) ++ leBytes 8 r.waited ++
    List.replicate 816 0

theorem padTo_length (n : Nat) (b : List Byte) : (padTo n b).length = n := by simp [padTo]

theorem dropBytes_length (mask : List Nat) : (dropBytes mask).length = 8192 := leBytes_length _ _

section
variable (s : State) (r : RunSt) (flags status reason : Nat) (digest : List Byte)

theorem State.recordOpening_length : (s.recordOpening r digest).length = 104 := by simp [State.recordOpening, padTo_length]

theorem State.recordCounts_length : (s.recordCounts r flags reason).length = 910 := by
  simp only [State.recordCounts, List.length_append, leBytes_length, List.length_flatMap, List.map_const', List.length_range,
    List.sum_replicate, List.length_replicate]
  rfl

theorem State.record_eq : s.record r flags status reason digest =
    leBytes 8 r.cfg.step ++ (s.recordOpening r digest ++ (leBytes 2 status ++ (s.recordCounts r flags reason ++
      (dropBytes s.step.mask ++ padTo 65536 (s.step.log.flatMap LogRec.bytes))))) := by
  unfold State.record State.recordOpening State.recordCounts RunSt.recordFlags
  simp only [List.append_assoc]

theorem State.record_length : (s.record r flags status reason digest).length = 74752 := by
  rw [State.record_eq]
  simp only [List.length_append, leBytes_length, State.recordOpening_length, State.recordCounts_length, dropBytes_length,
    padTo_length]

theorem State.record_step : (s.record r flags status reason digest).take 8 = leBytes 8 r.cfg.step := by
  rw [State.record_eq]
  exact List.take_left' (leBytes_length 8 _)

theorem State.record_status : ((s.record r flags status reason digest).drop 112).take 2 = leBytes 2 status := by
  rw [State.record_eq, ← List.append_assoc, List.drop_left' (by
    rw [List.length_append, leBytes_length, State.recordOpening_length])]
  exact List.take_left' (leBytes_length 2 _)

theorem State.record_mask : ((s.record r flags status reason digest).drop 1024).take 8192 = dropBytes s.step.mask := by
  rw [State.record_eq, ← List.append_assoc, ← List.append_assoc, ← List.append_assoc, List.drop_left' (by
    simp only [List.length_append, leBytes_length, State.recordOpening_length, State.recordCounts_length])]
  exact List.take_left' (dropBytes_length _)

end

/-! ### STEP_ABORT -/

/-- The module with no step armed. -/
def State.unarmed (s : State) : State :=
  { s with step := { s.step with armed := none, admitted := [], drops := [], held := none } }

/-- The step that a STEP_ABORT of step `n` disarms: one armed behind the step in progress. -/
def State.stepBehind (s : State) (n : Nat) : Option StepCfg :=
  match s.step.armed with
  | some c => if s.stepState ≤ 1 ∨ c.step ≠ n then none else some c
  | none => none

theorem State.abortable_state {s : State} (h : s.abortable = true) : s.stepState ≠ 6 := by
  intro hsix
  rw [State.abortable, State.waiting, if_neg (by omega), hsix] at h
  exact absurd h (by decide)

section
variable {s : State} {r j : Nat} {d : Desc} (hd : s.ready r j 0x15 = some d) (hfree : s.host.stuck d.unit = false)
  (heval : d.eval = true → s.evalOn = true)
include hd hfree heval

theorem exec_stepAbort : exec (.stepAbort r j) s = .next (
    if s.stepState = 6 ∧ s.stepNumber = d.n 0 8 then s.take r j
    else if s.abortable ∧ s.stepNumber = d.n 0 8 then (s.take r j).abortStep 4
    else match s.stepBehind (d.n 0 8) with
      | some c => (s.unarmed.complete c.ring c.index St.stepAborted 0 0).complete r j St.ok 0 0
      | none => s.complete r j St.paramCode 0 0) :=
  congrArg Host.Outcome.next (State.onDesc_of_ready hd hfree heval)

theorem exec_stepAbort_open (hopen : s.abortable = true) (hnumber : s.stepNumber = d.n 0 8) :
    exec (.stepAbort r j) s = .next ((s.take r j).abortStep 4) := by
  rw [exec_stepAbort hd hfree heval, if_neg fun h => State.abortable_state hopen h.1, if_pos ⟨hopen, hnumber⟩]

theorem exec_stepAbort_aborting (hsix : s.stepState = 6) (hnumber : s.stepNumber = d.n 0 8) :
    exec (.stepAbort r j) s = .next (s.take r j) := by
  rw [exec_stepAbort hd hfree heval, if_pos ⟨hsix, hnumber⟩]

variable (hnumber : s.stepNumber ≠ d.n 0 8)
include hnumber

theorem exec_stepAbort_unknown (hother : ∀ c, s.step.armed = some c → c.step ≠ d.n 0 8) :
    exec (.stepAbort r j) s = .next (s.complete r j St.paramCode 0 0) := by
  have hbehind : s.stepBehind (d.n 0 8) = none := by
    unfold State.stepBehind
    split
    · next c hc => exact if_pos (.inr (hother c hc))
    · rfl
  rw [exec_stepAbort hd hfree heval, if_neg fun h => hnumber h.2, if_neg fun h => hnumber h.2, hbehind]

theorem exec_stepAbort_behind {c : StepCfg} (hc : s.step.armed = some c) (hbusy : 2 ≤ s.stepState) (hstep : c.step = d.n 0 8) :
    exec (.stepAbort r j) s = .next ((s.unarmed.complete c.ring c.index St.stepAborted 0 0).complete r j St.ok 0 0) := by
  have hbehind : s.stepBehind (d.n 0 8) = some c := by
    rw [State.stepBehind, hc]
    exact if_neg (by omega)
  rw [exec_stepAbort hd hfree heval, if_neg fun h => hnumber h.2, if_neg fun h => hnumber h.2, hbehind]

end

/-! ### The end of an abort -/

/-- The aborted record is written and the STEP_ABORT descriptors of the step complete. -/
def State.closeAbort (s : State) (r : RunSt) : State :=
  let s1 := (s.abortRecords.event 9 St.stepAborted 0 r.reason).closeStep r 2 St.stepAborted r.reason (List.replicate 32 0) 0
  s1.each (s1.host.descs.filter fun d => d.taken && d.opcode == 0x15 && d.n 0 8 == r.cfg.step) fun s d =>
    s.finish d.ring d.index St.ok

theorem State.closeAbort_ended (s : State) {r : RunSt} (hrecord : addrWindow r.cfg.record = 2) : s.Ended (s.closeAbort r) :=
  ((State.closeStep_ended _ hrecord _ _ _ _ _).after ((StepFrame.refl s).abortRecords.event _ _ _ _)).before
    (StepFrame.each (fun t _ => (StepFrame.refl t).finish _ _ _) (StepFrame.refl _) _)

theorem exec_abortEnd {s : State} {x : RunSt} (hx : s.step.run = some x) (haborting : s.stepState = 6)
    (hparked : ∀ t ∈ s.tiles, t.2.state = .parked ∨ t.2.state = .loading) :
    exec .abortEnd s = .next (s.closeAbort x).disarm := by
  have hstill : s.tiles.any (fun x => x.2.state != .parked && x.2.state != .loading) = false := by
    rw [List.any_eq_false]
    intro t ht
    rcases hparked t ht with h | h <;> simp [h]
  refine congrArg Host.Outcome.next ?_
  rw [hx]
  exact if_neg (by simp [haborting, hstill])

/-- A training step that is armed is disarmed. -/
theorem State.disarm_of_training {s : State} {c : StepCfg} (hc : s.step.armed = some c) (htraining : c.training = true) :
    s.disarm = s.unarmed.finish c.ring c.index St.stepAborted := by
  rw [State.disarm, hc]
  exact if_neg (by simp [htraining])

/-- Disarming leaves what has ended. -/
theorem State.disarm_same (s : State) : s.disarm.step.run = s.step.run ∧ s.disarm.kv = s.kv ∧
    ∀ g ∈ Reg.stepFields, s.disarm.regs.get g = s.regs.get g := by
  cases hc : s.step.armed with
  | none =>
    rw [State.disarm, hc]
    exact ⟨rfl, rfl, fun _ _ => rfl⟩
  | some c =>
    by_cases htraining : c.training = true
    · have hframe := (StepFrame.refl s.unarmed).finish c.ring c.index St.stepAborted
      rw [State.disarm_of_training hc htraining]
      exact ⟨hframe.run, hframe.kv, hframe.fields⟩
    · have hstays : s.disarm = s := by
        rw [State.disarm, hc]
        exact if_pos (by simpa using htraining)
      rw [hstays]
      exact ⟨rfl, rfl, fun _ _ => rfl⟩

/-- Settles O53: the work of a commit, an abort or an eval step's end leaves STATE, what is committed and the two steps alone, and
closing the step clears STATE and the step in progress. -/
theorem stepsEnd : Obligations.StepsEnd := by
  unfold Obligations.StepsEnd
  intro s
  refine ⟨fun x hx hrunning hdone => ?_, fun _ hdone => exec_stepRunningEnd_waits hdone,
    fun x hx hstate hreplay hfree hrecord hopen hn => ?_, fun x hx hstate hreplay hrecord hopen => ?_, exec_stepCommitEnd_early,
    fun x flags status reason digest => ?_, fun r j d hd hfree heval => ?_, fun x hx hstate hparked hrecord => ?_, fun t h => ?_⟩
  · refine ⟨exec_stepRunningEnd_training hx hrunning hdone, exec_stepRunningEnd_replay hx hrunning hdone,
      fun heval hreplay hrecord hopen => ⟨_, exec_stepRunningEnd_eval hx hrunning hdone heval hreplay hopen, ?_⟩⟩
    have hended := s.endEval_ended hrecord
    exact ⟨hended.run, hended.idle, hended.committed⟩
  · have hended := (((s.commitWork x.cfg.step).commitNumber x.cfg.step).closeStep_ended hrecord 1 St.ok 0
      ((s.commitWork x.cfg.step).stateDigest (x.cfg.step % 2)) x.cfg.step).before (State.StepFrame.refl _).startSnaps
    exact ⟨_, exec_stepCommitEnd_commits hx hstate hopen hreplay hfree, hended.committed.trans (State.commitNumber_step _ hn),
      hended.valid.trans (State.commitNumber_valid _ _), hended.idle, hended.run⟩
  · have hended := s.endReplay_ended hrecord
    exact ⟨_, exec_stepCommitEnd_replay hx hstate hopen hreplay, hended.committed, hended.idle, hended.run, hended.kv⟩
  · exact ⟨s.record_length .., s.record_status .., s.record_step .., s.record_mask ..⟩
  · exact ⟨exec_stepAbort_open hd hfree heval, exec_stepAbort_aborting hd hfree heval, exec_stepAbort_unknown hd hfree heval,
      fun c hc hbusy hnumber => exec_stepAbort_behind hd hfree heval hnumber hc hbusy⟩
  · have hended := s.closeAbort_ended hrecord
    obtain ⟨hrun, hkv, hfields⟩ := (s.closeAbort x).disarm_same
    refine ⟨_, exec_abortEnd hx hstate hparked, hrun.trans hended.run, (hfields _ (by simp [Reg.stepFields])).trans hended.idle,
      (hfields _ (by simp [Reg.stepFields])).trans hended.committed, fun c hc htraining => ?_, hkv.trans hended.kv⟩
    rw [State.disarm_of_training (hended.armed.trans hc) htraining, State.finish_step]
    exact ⟨rfl, rfl⟩
  · exact congrArg Host.Outcome.next (if_pos h)

end Sys2Proof.Machine
end

section
/-! SUPPORT. The drop mask and the gradient exchange (R404, R411 to R414, R423 to R426): a mask's bytes, the chunks of a gradient,
the step descriptors' queues, and a mask that freezes. -/

namespace Sys2Proof.Machine

/-! ### The mask's bytes -/

theorem leBytes_getElem? (n w : Nat) {k : Nat} (h : k < n) : (leBytes n w)[k]? = some (BitVec.ofNat 8 (w / 256 ^ k)) := by
  induction n generalizing w k with
  | zero => omega
  | succ n ih =>
    cases k with
    | zero => simp [leBytes]
    | succ k => rw [leBytes, List.getElem?_cons_succ, ih _ (by omega), Nat.div_div_eq_div_mul, ← Nat.pow_succ']

/-- A bit of one of a number's bytes is a bit of the number. -/
theorem testBit_byte (w k : Nat) {i : Nat} (h : i < 8) :
    (BitVec.ofNat 8 (w / 256 ^ k)).toNat.testBit i = w.testBit (8 * k + i) := by
  rw [BitVec.toNat_ofNat, Nat.testBit_mod_two_pow, decide_eq_true h, Bool.true_and, show 256 = 2 ^ 8 from rfl, ← Nat.pow_mul,
    Nat.testBit_div_two_pow, Nat.add_comm]

theorem mem_dropIds_leBytes (n w i : Nat) : i ∈ dropIds (leBytes n w) ↔ i < 8 * n ∧ w.testBit i = true := by
  simp only [dropIds, List.mem_flatMap, List.mem_zipIdx_iff_getElem?, List.mem_map, List.mem_filter, List.mem_range, Prod.exists]
  constructor
  · rintro ⟨b, k, hb, j, ⟨hj, hbit⟩, rfl⟩
    have hk : k < n := by
      have hlen := (List.getElem?_eq_some_iff.1 hb).1
      rwa [leBytes_length] at hlen
    rw [leBytes_getElem? n w hk] at hb
    obtain rfl := Option.some.inj hb
    exact ⟨by omega, (testBit_byte w k hj).symm.trans hbit⟩
  · rintro ⟨hi, hbit⟩
    refine ⟨_, i / 8, leBytes_getElem? n w (by omega), i % 8, ⟨Nat.mod_lt _ (by omega), ?_⟩, Nat.div_add_mod i 8⟩
    rwa [testBit_byte w _ (Nat.mod_lt _ (by omega)), Nat.div_add_mod]

theorem dropWord_eq_sum (ids : List Nat) : dropWord ids = (ids.map fun i => 2 ^ i).sum := by
  rw [dropWord, List.sum_eq_foldl, List.foldl_map]

/-- Ids that differ set one bit each. -/
theorem dropWord_testBit {ids : List Nat} (h : ids.Nodup) (i : Nat) : (dropWord ids).testBit i = true ↔ i ∈ ids := by
  rw [← Nat.mem_bitIndices, ← List.mem_toFinset, dropWord_eq_sum, ← List.sum_toFinset _ h,
    Finset.toFinset_bitIndices_sum_two_pow, List.mem_toFinset]

theorem mem_dropIds_dropBytes {ids : List Nat} (hlt : ∀ i ∈ ids, i < 65536) (hnodup : ids.Nodup) (i : Nat) :
    i ∈ dropIds (dropBytes ids) ↔ i ∈ ids := by
  rw [dropBytes, mem_dropIds_leBytes, dropWord_testBit hnodup]
  exact and_iff_right_of_imp (hlt i)

/-! ### Chunks -/

theorem gradChunk_mod (e p : Nat) : gradChunk e p % 4096 = 0 := Nat.mul_mod_right _ _

/-- `p` chunks hold the whole gradient. -/
theorem le_mul_gradChunk (e : Nat) {p : Nat} (hp : 0 < p) : e ≤ p * gradChunk e p := by
  have hup : e ≤ (4096 * p) * ((e + 4096 * p - 1) / (4096 * p)) := by
    have hdiv := Nat.div_add_mod (e + 4096 * p - 1) (4096 * p)
    have hmod := Nat.mod_lt (e + 4096 * p - 1) (show 0 < 4096 * p by omega)
    omega
  calc e ≤ (4096 * p) * ((e + 4096 * p - 1) / (4096 * p)) := hup
    _ = p * gradChunk e p := by rw [gradChunk]; ring

/-- The first `k` chunks hold the gradient up to their end. -/
theorem sum_gradLen (e p k : Nat) : ((List.range k).map (gradLen e p)).sum = min e (k * gradChunk e p) := by
  induction k with
  | zero => simp
  | succ k ih =>
    have hnext : (k + 1) * gradChunk e p = k * gradChunk e p + gradChunk e p := Nat.succ_mul _ _
    rw [List.range_succ, List.map_append, List.sum_append, ih, List.map_singleton, List.sum_singleton, gradLen]
    omega

theorem sum_gradLen_all (e : Nat) {p : Nat} (hp : 0 < p) : ((List.range p).map (gradLen e p)).sum = e :=
  (sum_gradLen e p p).trans (Nat.min_eq_left (le_mul_gradChunk e hp))

/-! ### The head of a queue -/

theorem exec_queueStart {s : State} {ch r j : Nat} {x : Xfer} {rest : List Xfer} {c : Coll} {d : Desc} {wait : Bool}
    (hidle : (s.chan ch).busy = none) (hqueue : (s.chan ch).queue = x :: rest) (hjob : x.job = .step wait)
    (hby : x.by_ = .ring r j) (hc : s.coll r j = some c) (hd : s.host.desc r j = some d) (hfree : s.channelFree ch = true)
    (hopen : s.collOpen c = true) (hrunning : s.stepState = 2) (heval : d.eval = s.evalStep)
    (hfull : wait = true → (s.chan ch).sem.ctr 0 ≠ 0) (v : HostView) :
    exec (.queueStart ch v) s = .next ((s.setChan ch { s.chan ch with
      queue := rest
      busy := some x
      sem := if wait then (s.chan ch).sem.sub 0 1 else (s.chan ch).sem }).startColl v c d) := by
  have hstarts : ¬(s.channelFree ch = false ∨ s.collOpen c = false ∨ s.stepState ≠ 2 ∨ d.eval ≠ s.evalStep ∨
      (wait = true ∧ (s.chan ch).sem.ctr 0 = 0)) := by
    simp only [hfree, hopen, hrunning, heval, ne_eq, not_true_eq_false, Bool.true_eq_false, false_or]
    exact fun h => hfull h.1 h.2
  refine congrArg Host.Outcome.next ?_
  dsimp only
  rw [hidle, hqueue]
  dsimp only
  rw [hjob, hby]
  dsimp only
  rw [hc, hd]
  exact if_neg hstarts

/-! ### DROP_SYNC -/

/-- A step descriptor of no eval step whose QUEUE names a channel. -/
theorem State.onStepDesc_of_ready {s : State} {r j op at_ ch : Nat} {d : Desc} (hd : s.ready r j op = some d)
    (hfree : s.host.stuck d.unit = false) (heval : d.eval = false) (hqueue : queueChan (d.n at_ 2) = some ch)
    (f : State → Desc → Nat → Nat → State) : s.onStepDesc r j op at_ f =
      if (s.chan ch).full then s else f (s.touchStack [s.groupSpan d.stepGroup]) d (d.n at_ 2) ch := by
  rw [State.onStepDesc, State.onDesc_of_ready hd hfree (by simp [heval])]
  dsimp only
  rw [hqueue]

section
variable {s : State} {r j : Nat} {d : Desc} {ch : Nat} (hd : s.ready r j 0x13 = some d) (hfree : s.host.stuck d.unit = false)
  (heval : d.eval = false) (hqueue : queueChan (d.n 6 2) = some ch)
include hd hfree heval hqueue

theorem exec_dropSync : exec (.dropSync r j) s = .next (
    if (s.chan ch).full then s
    else
      let s0 := s.touchStack [s.groupSpan (d.n 4 1)]
      match s0.groupRefusal (d.n 4 1) with
      | some e => s0.complete r j e 0 0
      | none => s0.queueColl d (d.n 6 2) ch (s0.newColl d .dropSync (some ch) (d.n 0 4) (d.n 4 1) 3 0 0 none none none)) := by
  have hgroup : d.stepGroup = d.n 4 1 := by rw [Desc.stepGroup, State.opcode_of_ready hd]; rfl
  refine congrArg Host.Outcome.next ((State.onStepDesc_of_ready hd hfree heval hqueue _).trans ?_)
  rw [hgroup, heval]
  rfl

theorem exec_dropSync_full (hfull : (s.chan ch).full = true) : exec (.dropSync r j) s = .next s := by
  rw [exec_dropSync hd hfree heval hqueue, if_pos hfull]

theorem exec_dropSync_queued (hgroup : (s.touchStack [s.groupSpan (d.n 4 1)]).groupRefusal (d.n 4 1) = none)
    (hroom : (s.chan ch).full = false) : exec (.dropSync r j) s = .next
      ((s.touchStack [s.groupSpan (d.n 4 1)]).queueColl d (d.n 6 2) ch ((s.touchStack [s.groupSpan (d.n 4 1)]).newColl d .dropSync
        (some ch) (d.n 0 4) (d.n 4 1) 3 0 0 none none none)) := by
  rw [exec_dropSync hd hfree heval hqueue, if_neg (by simp [hroom])]
  dsimp only
  rw [hgroup]

end

section
variable {s : State} {r j : Nat} {c : Coll} {d : Desc} (hc : s.coll r j = some c) (hd : s.working r j 0x13 = some d)
  (hgot : c.got ≠ [])
include hc hd hgot

theorem exec_dropSyncComplete : exec (.dropSyncComplete r j) s = .next (
    if bitOf (d.n 5 1) 0 ∧ (s.endColl c c.status 0).frozen = false then (s.endColl c c.status 0).freezeMask
    else s.endColl c c.status 0) := by
  refine congrArg Host.Outcome.next ?_
  rw [hc, hd]
  exact if_neg hgot

end

/-! ### Freezing -/

/-- The mask is closed and shows as frozen, and the log is sorted. -/
def State.maskClosed (s : State) : State :=
  { s.setFlag Reg.TRN_STEP_STATUS_FROZEN true with step := { s.step with
    closed := true
    log := sortLog s.step.log } }

theorem State.maskClosed_frozen (s : State) : s.maskClosed.frozen = true :=
  RegFile.flag_setFlag_self s.regs Reg.TRN_STEP_STATUS_FROZEN true (by decide)

section
variable {s : State} {x : RunSt} (hx : s.step.run = some x)
include hx

theorem State.freezeMask_eq : s.freezeMask =
    if s.regs.get Reg.TRN_LIMITS_DROP_SHARE * x.cfg.mbTotal < s.step.mask.length * 256 then s.maskClosed.abortStep 2
    else s.maskClosed := by
  rw [State.freezeMask, hx]
  rfl

theorem State.freezeMask_within (h : s.step.mask.length * 256 ≤ s.regs.get Reg.TRN_LIMITS_DROP_SHARE * x.cfg.mbTotal) :
    s.freezeMask = s.maskClosed := by
  rw [State.freezeMask_eq hx, if_neg (Nat.not_lt.2 h)]

theorem State.freezeMask_beyond (h : s.regs.get Reg.TRN_LIMITS_DROP_SHARE * x.cfg.mbTotal < s.step.mask.length * 256) :
    s.freezeMask = s.maskClosed.abortStep 2 := by
  rw [State.freezeMask_eq hx, if_pos h]

end

/-! ### GRAD_EXCHANGE -/

theorem exec_gradExchange_queued {s : State} {r j : Nat} {v : HostView} {d : Desc} {ch : Nat} (hd : s.ready r j 0x14 = some d)
    (hfree : s.host.stuck d.unit = false) (heval : d.eval = false) {t u : Tensor} {s1 s2 : State} {res : Option Tensor}
    (hqueue : queueChan (d.n 36 2) = some ch) (hroom : (s.chan ch).full = false)
    (hgroup : (s.touchStack [s.groupSpan (d.n 28 1)]).groupRefusal (d.n 28 1) = none) (henc : d.n 29 1 % 8 < 5)
    (htopk : encTopk (d.n 29 1 % 8) = true → 16 ≤ d.n 30 2 ∧ d.n 30 2 ≤ 256)
    (hcont : bitOf (d.n 29 1) 3 = true → (s.touchStack [s.groupSpan (d.n 28 1)]).chainOpen (d.n 28 1) = true)
    (htensors : (s.touchStack [s.groupSpan (d.n 28 1)]).twoTensors v (d.n 0 8) (d.n 16 8) = (.ok (t, u), s1))
    (hres : s1.residual v (d.n 8 8) = (.ok res, s2))
    (hfits : gradFits ((s.touchStack [s.groupSpan (d.n 28 1)]).groupSlot (d.n 28 1)).p
      ((s.touchStack [s.groupSpan (d.n 28 1)]).groupSlot (d.n 28 1)).self t res u = true) :
    exec (.gradExchange r j v) s = .next (s2.queueColl d (d.n 36 2) ch (s2.newColl d .gradExchange (some ch) (d.n 24 4)
      (d.n 28 1) 0 (4 * gradChunk t.elems ((s.touchStack [s.groupSpan (d.n 28 1)]).groupSlot (d.n 28 1)).p) (4 * t.elems)
      (some t) (some u) res)) := by
  have hstep : d.stepGroup = d.n 28 1 := by rw [Desc.stepGroup, State.opcode_of_ready hd]; rfl
  have hfields : ¬(5 ≤ d.n 29 1 % 8 ∨ (encTopk (d.n 29 1 % 8) = true ∧ (d.n 30 2 < 16 ∨ 256 < d.n 30 2)) ∨
      (bitOf (d.n 29 1) 3 = true ∧ (s.touchStack [s.groupSpan (d.n 28 1)]).chainOpen (d.n 28 1) = false)) := by
    rintro (h | ⟨h, hk⟩ | ⟨h, hclosed⟩)
    · omega
    · have := htopk h
      omega
    · simp [hcont h] at hclosed
  refine congrArg Host.Outcome.next ((State.onStepDesc_of_ready hd hfree heval hqueue _).trans ?_)
  rw [hstep, hroom, heval]
  dsimp only
  rw [if_neg (by decide), if_neg (by decide), hgroup]
  dsimp only
  rw [if_neg hfields, htensors]
  dsimp only
  rw [hres]
  exact if_neg (by simp [hfits])

theorem exec_gradEncodeStart {s : State} {r j : Nat} {c : Coll} {d : Desc} (hc : s.coll r j = some c)
    (hd : s.working r j 0x14 = some d) (hstarted : c.started = true) (hunsent : c.sent = false) (hfrozen : s.frozen = true)
    (hopen : s.collOpen c = true) (hsome : d.n 34 2 ≠ 0)
    (hkept : ∀ i, i < d.n 34 2 → NSet.has s.step.mask (d.n 32 2 + i) = false) :
    let x := c.present.foldl (fun (acc : State × Coll) pos => acc.1.contribute d false acc.2 pos) (s, { c with sent := true })
    exec (.gradEncodeStart r j) s = .next (State.foldAll x.1.step.colls.length (x.1.setColl x.2)) := by
  have hwaits : ¬(c.started = false ∨ c.sent = true ∨ s.frozen = false ∨ s.collOpen c = false) := by
    simp [hstarted, hunsent, hfrozen, hopen]
  have hfull : (d.n 34 2 == 0 || ((List.range (d.n 34 2)).map (d.n 32 2 + ·)).any (NSet.has s.step.mask)) = false := by
    rw [Bool.or_eq_false_iff, List.any_map, List.any_eq_false]
    exact ⟨by simpa using hsome, fun i hi => by simp [hkept i (List.mem_range.1 hi)]⟩
  refine congrArg Host.Outcome.next ?_
  rw [hc, hd]
  dsimp only
  rw [if_neg hwaits, hfull, if_neg (by decide), hc]

/-! ### Contributions -/

theorem exec_contributionReceive {s : State} {l : Nat} {a : Arrived} {c : Coll}
    (ha : s.arrived l (fun p => p.kind == PK.coll && p.dst == s.rank && (s.step.colls.find? fun c => c.started &&
      c.kind == .gradExchange && c.addr == p.addr).isSome) = some a) (hgood : a.pkt.good = true)
    (hc : (s.step.colls.find? fun c => c.started && c.kind == .gradExchange && c.addr == a.pkt.addr) = some c)
    (hopen : s.collOpen c = true) :
    exec (.contributionReceive l) s = .next (State.foldAll s.step.colls.length ((s.consume l a).setColl { c with
      heard := NSet.add c.heard (c.ranks.idxOf a.pkt.src)
      parts := c.parts ++ [⟨c.ranks.idxOf a.pkt.src, 4096 * a.pkt.tseq, a.pkt.pbytes⟩] })) := by
  refine congrArg Host.Outcome.next ?_
  dsimp only
  rw [ha]
  dsimp only
  rw [hc, State.checkCrc_good _ _ hgood]
  exact if_neg (by simp [hopen])

/-- Settles O55: a mask's word is the sum of one power of two for each id, chunk lengths telescope, and each command's conditions
are those that let its work go on. -/
theorem dropsAndGradients : Obligations.DropsAndGradients := by
  unfold Obligations.DropsAndGradients
  intro s r j v d
  refine ⟨fun ch x rest c wait hidle hqueue hjob hby hc hd hfree hopen hrunning heval hfull =>
      exec_queueStart hidle hqueue hjob hby hc hd hfree hopen hrunning heval hfull v,
    fun hd hfree heval ch hqueue => ⟨exec_dropSync_full hd hfree heval hqueue, exec_dropSync_queued hd hfree heval hqueue⟩,
    fun c hc hd hgot => ?_, fun x hx => ⟨fun h => ?_, fun h => ?_⟩,
    fun ids hlt hnodup => ⟨dropBytes_length ids, mem_dropIds_dropBytes hlt hnodup⟩,
    fun hd hfree heval ch t u s1 s2 res => exec_gradExchange_queued hd hfree heval,
    fun c => exec_gradEncodeStart, fun e p hp => ⟨sum_gradLen_all e hp, gradChunk_mod e p⟩,
    fun l a c => exec_contributionReceive⟩
  · rw [exec_dropSyncComplete hc hd hgot]
    exact ⟨fun hlast => congrArg _ (if_neg (by simp [hlast])), fun hlast hopen => congrArg _ (if_pos ⟨hlast, hopen⟩)⟩
  · rw [State.freezeMask_within hx h]
    exact ⟨s.maskClosed_frozen, rfl, rfl⟩
  · exact ⟨s.maskClosed, State.freezeMask_beyond hx h, s.maskClosed_frozen, rfl⟩

end Sys2Proof.Machine
end

section
/-! SUPPORT. Erased strings (R481, R483): multiplication in GF(2^8) is linear and associative, and what the survivors' coefficients
sum to. -/

namespace Sys2Proof.Machine

/-! ### GF(2^8) -/

theorem gfDouble_lt : ∀ a < 256, gfDouble a < 256 := by decide +kernel

/-- Doubling shifts, and takes the modulus away where bit 7 was set. -/
theorem gfDouble_eq (a : Nat) (h : a < 256) : gfDouble a = a <<< 1 ^^^ 0x11D * (a >>> 7) := by
  rw [Nat.shiftLeft_eq, Nat.shiftRight_eq_div_pow, gfDouble, Nat.mul_comm 2 a]
  split
  · next hlow => rw [Nat.div_eq_of_lt hlow, Nat.mul_zero, Nat.xor_zero]
  · next hhigh => rw [show a / 2 ^ 7 = 1 by omega]

theorem gfDouble_xor {a b : Nat} (ha : a < 256) (hb : b < 256) : gfDouble (a ^^^ b) = gfDouble a ^^^ gfDouble b := by
  have hmul : ∀ u < 2, ∀ v < 2, 0x11D * (u ^^^ v) = 0x11D * u ^^^ 0x11D * v := by decide
  have hbit (x : Nat) (hx : x < 256) : x >>> 7 < 2 := by rw [Nat.shiftRight_eq_div_pow]; omega
  rw [gfDouble_eq _ (Nat.xor_lt_two_pow (n := 8) ha hb), gfDouble_eq a ha, gfDouble_eq b hb, Nat.shiftLeft_xor_distrib,
    Nat.shiftRight_xor_distrib, hmul _ (hbit a ha) _ (hbit b hb)]
  ac_rfl

theorem gfMulBits_lt (n : Nat) {a : Nat} (b : Nat) (ha : a < 256) : gfMulBits n a b < 256 := by
  induction n generalizing a b with
  | zero => exact Nat.zero_lt_succ _
  | succ n ih =>
    refine Nat.xor_lt_two_pow (n := 8) ?_ (ih (b / 2) (gfDouble_lt a ha))
    split
    · exact ha
    · exact Nat.zero_lt_succ _

theorem gfMul_lt {a : Nat} (b : Nat) (ha : a < 256) : gfMul a b < 256 := gfMulBits_lt 8 b ha

/-- Linear in the factor that gives the bits. -/
theorem gfMulBits_xor_right (n a b c : Nat) : gfMulBits n a (b ^^^ c) = gfMulBits n a b ^^^ gfMulBits n a c := by
  induction n generalizing a b c with
  | zero => exact (Nat.xor_self 0).symm
  | succ n ih =>
    have hbit : (if (b ^^^ c) % 2 = 1 then a else 0) = (if b % 2 = 1 then a else 0) ^^^ if c % 2 = 1 then a else 0 := by
      rw [if_congr Nat.xor_mod_two_eq_one rfl rfl]
      by_cases hb : b % 2 = 1 <;> by_cases hc : c % 2 = 1 <;> simp [hb, hc]
    rw [gfMulBits, gfMulBits, gfMulBits, Nat.xor_div_two, ih, hbit]
    ac_rfl

/-- Linear in the factor that is doubled. -/
theorem gfMulBits_xor_left (n : Nat) {a b : Nat} (c : Nat) (ha : a < 256) (hb : b < 256) :
    gfMulBits n (a ^^^ b) c = gfMulBits n a c ^^^ gfMulBits n b c := by
  induction n generalizing a b c with
  | zero => exact (Nat.xor_self 0).symm
  | succ n ih =>
    have hbit : (if c % 2 = 1 then a ^^^ b else 0) = (if c % 2 = 1 then a else 0) ^^^ if c % 2 = 1 then b else 0 := by
      split <;> rfl
    rw [gfMulBits, gfMulBits, gfMulBits, gfDouble_xor ha hb, ih _ (gfDouble_lt a ha) (gfDouble_lt b hb), hbit]
    ac_rfl

theorem gfMul_xor_right (a b c : Nat) : gfMul a (b ^^^ c) = gfMul a b ^^^ gfMul a c := gfMulBits_xor_right 8 a b c

theorem gfMul_xor_left {a b : Nat} (c : Nat) (ha : a < 256) (hb : b < 256) :
    gfMul (a ^^^ b) c = gfMul a c ^^^ gfMul b c := gfMulBits_xor_left 8 c ha hb

theorem gfMul_zero (a : Nat) : gfMul a 0 = 0 := by
  have h := gfMul_xor_right a 0 0
  rwa [Nat.xor_self, Nat.xor_self] at h

theorem zero_gfMul (b : Nat) : gfMul 0 b = 0 := by
  have h := gfMul_xor_left b (a := 0) (b := 0) (by decide) (by decide)
  rwa [Nat.xor_self, Nat.xor_self] at h

theorem one_gfMul : ∀ b < 256, gfMul 1 b = b := by decide +kernel

theorem gfMul_one (a : Nat) : gfMul a 1 = a := by simp [gfMul, gfMulBits]

theorem gfDouble_gfMulBits (n : Nat) {a : Nat} (b : Nat) (ha : a < 256) :
    gfDouble (gfMulBits n a b) = gfMulBits n (gfDouble a) b := by
  induction n generalizing a b with
  | zero => rfl
  | succ n ih =>
    have hbit : gfDouble (if b % 2 = 1 then a else 0) = if b % 2 = 1 then gfDouble a else 0 := by split <;> rfl
    have hlt : (if b % 2 = 1 then a else 0) < 256 := by split <;> omega
    rw [gfMulBits, gfMulBits, gfDouble_xor hlt (gfMulBits_lt n _ (gfDouble_lt a ha)), ih _ (gfDouble_lt a ha), hbit]

/-- Bits beyond those of the factor add nothing. -/
theorem gfMulBits_of_lt (n a : Nat) {b : Nat} (hb : b < 2 ^ n) : gfMulBits (n + 1) a b = gfMulBits n a b := by
  induction n generalizing a b with
  | zero =>
    have hzero : b = 0 := Nat.lt_one_iff.1 hb
    rw [gfMulBits, hzero]
    exact Nat.xor_self 0
  | succ n ih => rw [gfMulBits, ih (gfDouble a) (by omega), gfMulBits]

/-- Doubling either factor doubles the product: below 128 it shifts the bits, and 128 is the one case left. -/
theorem gfMul_gfDouble {a b : Nat} (ha : a < 256) (hb : b < 256) : gfMul a (gfDouble b) = gfDouble (gfMul a b) := by
  have hlow (c : Nat) (hc : c < 128) : gfMul a (gfDouble c) = gfDouble (gfMul a c) := by
    rw [gfDouble, if_pos hc, gfMul, gfMul, gfDouble_gfMulBits 8 c ha, gfMulBits, if_neg (by omega), Nat.zero_xor,
      Nat.mul_div_cancel_left c (by decide), gfMulBits_of_lt 7 _ hc]
  have htop : ∀ a < 256, gfMul a (gfDouble 128) = gfDouble (gfMul a 128) := by decide +kernel
  rcases Nat.lt_or_ge b 128 with h | h
  · exact hlow b h
  · have hsplit : ∀ b < 256, 128 ≤ b → 128 ^^^ (b - 128) = b := by decide +kernel
    rw [← hsplit b hb h, gfDouble_xor (by decide) (by omega), gfMul_xor_right, gfMul_xor_right, htop a ha, hlow _ (by omega),
      gfDouble_xor (gfMul_lt _ ha) (gfMul_lt _ ha)]

theorem gfMul_assoc {a b : Nat} (c : Nat) (ha : a < 256) (hb : b < 256) : gfMul (gfMul a b) c = gfMul a (gfMul b c) := by
  have h (n : Nat) : gfMulBits n (gfMul a b) c = gfMul a (gfMulBits n b c) := by
    induction n generalizing b c with
    | zero => exact (gfMul_zero a).symm
    | succ n ih =>
      have hbit : (if c % 2 = 1 then gfMul a b else 0) = gfMul a (if c % 2 = 1 then b else 0) := by
        split
        · rfl
        · exact (gfMul_zero a).symm
      rw [gfMulBits, gfMulBits, ← gfMul_gfDouble ha hb, ih _ (gfDouble_lt b hb), hbit, gfMul_xor_right]
  exact h 8

theorem gfExp_lt {a : Nat} (n : Nat) (ha : a < 256) : gfExp a n < 256 := by
  cases n with
  | zero => exact Nat.one_lt_succ_succ _
  | succ n => exact gfMul_lt _ ha

theorem gfExp_add {a : Nat} (m n : Nat) (ha : a < 256) : gfExp a (m + n) = gfMul (gfExp a m) (gfExp a n) := by
  induction m with
  | zero => rw [Nat.zero_add, gfExp, one_gfMul _ (gfExp_lt n ha)]
  | succ m ih => rw [Nat.succ_add, gfExp, gfExp, ih, gfMul_assoc _ ha (gfExp_lt m ha)]

/-- a · a. -/
def gfSquare (a : Nat) : Nat := gfMul a a

theorem gfExp_double {a : Nat} (n : Nat) (ha : a < 256) : gfExp a (n + n) = gfSquare (gfExp a n) := gfExp_add n n ha

/-- The multiplicative group has 255 elements; a^255 is reached by squaring. -/
theorem gfExp_order {a : Nat} (ha : a < 256) (hne : a ≠ 0) : gfExp a 255 = 1 := by
  have hcube : gfExp a 3 = gfMul a (gfSquare a) := by rw [gfExp, gfExp, gfExp, gfExp, gfMul_one, gfSquare]
  have hfifteen : gfExp a 15 = gfMul (gfSquare (gfSquare (gfExp a 3))) (gfExp a 3) := by
    rw [gfExp_add 12 3 ha, gfExp_double 6 ha, gfExp_double 3 ha]
  have hall : gfExp a 255 = gfMul (gfSquare (gfSquare (gfSquare (gfSquare (gfExp a 15))))) (gfExp a 15) := by
    rw [gfExp_add 240 15 ha, gfExp_double 120 ha, gfExp_double 60 ha, gfExp_double 30 ha, gfExp_double 15 ha]
  have hcheck : ∀ a < 256, a ≠ 0 →
      let f := gfMul (gfSquare (gfSquare (gfMul a (gfSquare a)))) (gfMul a (gfSquare a))
      gfMul (gfSquare (gfSquare (gfSquare (gfSquare f)))) f = 1 := by decide +kernel
  rw [hall, hfifteen, hcube]
  exact hcheck a ha hne

theorem gfInv_lt {a : Nat} (ha : a < 256) : gfInv a < 256 := gfExp_lt 254 ha

theorem gfInv_gfMul {a : Nat} (ha : a < 256) (hne : a ≠ 0) : gfMul (gfInv a) a = 1 := by
  have hone : gfExp a 1 = a := by rw [gfExp, gfExp, gfMul_one]
  have h := gfExp_add 254 1 ha
  rw [gfExp_order ha hne, hone] at h
  exact h.symm

theorem gfPow_lt (n : Nat) : gfPow n < 256 := by
  induction n with
  | zero => decide
  | succ n ih => exact gfDouble_lt _ ih

/-- The powers of g that the data positions take are different, and none is 0. -/
theorem gfPow_data : ∀ x < 16, gfPow x ≠ 0 ∧ ∀ y < 16, gfPow x = gfPow y → x = y := by decide +kernel

/-! ### A byte times a coefficient -/

theorem scaleByte_eq (c : Nat) (b : Byte) : scaleByte c b = BitVec.ofNat 8 (gfMul c b.toNat) := by
  unfold scaleByte
  split
  · next h => rw [h, zero_gfMul]; rfl
  · split
    · next h => rw [h, one_gfMul _ b.isLt, BitVec.ofNat_toNat, BitVec.setWidth_eq]
    · rfl

theorem scaleByte_zero (c : Nat) : scaleByte c 0 = 0 := by
  rw [scaleByte_eq]
  exact congrArg (BitVec.ofNat 8) (gfMul_zero c)

theorem zero_scaleByte (b : Byte) : scaleByte 0 b = 0 := if_pos rfl

theorem one_scaleByte (b : Byte) : scaleByte 1 b = b := rfl

theorem scaleByte_xor (c : Nat) (x y : Byte) : scaleByte c (x ^^^ y) = scaleByte c x ^^^ scaleByte c y := by
  simp only [scaleByte_eq, BitVec.toNat_xor, gfMul_xor_right, BitVec.ofNat_xor]

theorem xor_scaleByte {c d : Nat} (hc : c < 256) (hd : d < 256) (b : Byte) :
    scaleByte (c ^^^ d) b = scaleByte c b ^^^ scaleByte d b := by
  simp only [scaleByte_eq, gfMul_xor_left _ hc hd, BitVec.ofNat_xor]

theorem gfMul_scaleByte {c d : Nat} (hc : c < 256) (hd : d < 256) (b : Byte) :
    scaleByte (gfMul c d) b = scaleByte c (scaleByte d b) := by
  rw [scaleByte_eq, scaleByte_eq, scaleByte_eq, gfMul_assoc _ hc hd, BitVec.toNat_ofNat,
    Nat.mod_eq_of_lt (gfMul_lt _ hd)]

/-! ### Sums of bytes -/

theorem xorByte_zero (b : Byte) : b ^^^ 0 = b := BitVec.xor_zero

theorem zero_xorByte (b : Byte) : 0 ^^^ b = b := BitVec.zero_xor

/-- The sum of what the positions of a list give. -/
def xorSum (l : List Nat) (f : Nat → Byte) : Byte := l.foldl (fun x i => x ^^^ f i) 0

theorem xorSum_cons (i : Nat) (l : List Nat) (f : Nat → Byte) : xorSum (i :: l) f = f i ^^^ xorSum l f := by
  have h (l : List Nat) (x : Byte) : l.foldl (fun x i => x ^^^ f i) x = x ^^^ xorSum l f := by
    induction l generalizing x with
    | nil => exact (BitVec.xor_zero).symm
    | cons j l ih => rw [xorSum, List.foldl_cons, List.foldl_cons, ih, ih (0 ^^^ f j), zero_xorByte, BitVec.xor_assoc]
  rw [xorSum, List.foldl_cons, h, zero_xorByte]

theorem xorSum_append (l m : List Nat) (f : Nat → Byte) : xorSum (l ++ m) f = xorSum l f ^^^ xorSum m f := by
  induction l with
  | nil => exact (BitVec.zero_xor).symm
  | cons i l ih => rw [List.cons_append, xorSum_cons, xorSum_cons, ih, BitVec.xor_assoc]

theorem xorSum_congr {l : List Nat} {f g : Nat → Byte} (h : ∀ i ∈ l, f i = g i) : xorSum l f = xorSum l g := by
  induction l with
  | nil => rfl
  | cons i l ih =>
    rw [xorSum_cons, xorSum_cons, h i (List.mem_cons_self ..), ih fun j hj => h j (List.mem_cons_of_mem _ hj)]

theorem xorSum_xor (l : List Nat) (f g : Nat → Byte) : xorSum l (fun i => f i ^^^ g i) = xorSum l f ^^^ xorSum l g := by
  induction l with
  | nil => exact (BitVec.xor_self).symm
  | cons i l ih =>
    rw [xorSum_cons, xorSum_cons, xorSum_cons, ih]
    ac_rfl

theorem xorSum_scaleByte (c : Nat) (l : List Nat) (f : Nat → Byte) :
    xorSum l (fun i => scaleByte c (f i)) = scaleByte c (xorSum l f) := by
  induction l with
  | nil => exact (scaleByte_zero c).symm
  | cons i l ih => rw [xorSum_cons, xorSum_cons, ih, scaleByte_xor]

/-- Positions that give nothing can be left out. -/
theorem xorSum_filter {p : Nat → Bool} {l : List Nat} {f : Nat → Byte} (h : ∀ i ∈ l, p i = false → f i = 0) :
    xorSum (l.filter p) f = xorSum l f := by
  induction l with
  | nil => rfl
  | cons i l ih =>
    have hrest := ih fun j hj => h j (List.mem_cons_of_mem _ hj)
    cases hp : p i with
    | true => rw [List.filter_cons_of_pos hp, xorSum_cons, xorSum_cons, hrest]
    | false =>
      rw [List.filter_cons_of_neg (by simp [hp]), xorSum_cons, h i (List.mem_cons_self ..) hp, zero_xorByte, hrest]

/-- One position alone gives a byte. -/
theorem xorSum_single {x : Nat} {l : List Nat} (hl : l.Nodup) (hx : x ∈ l) (v : Byte) :
    xorSum l (fun i => if i = x then v else 0) = v := by
  have hnone (m : List Nat) (hm : x ∉ m) : xorSum m (fun i => if i = x then v else 0) = 0 := by
    have hzero : xorSum m (fun i => if i = x then v else 0) = xorSum m fun _ => scaleByte 0 0 :=
      xorSum_congr fun i hi => if_neg (ne_of_mem_of_not_mem hi hm)
    rw [hzero, xorSum_scaleByte, zero_scaleByte]
  induction l with
  | nil => cases hx
  | cons i l ih =>
    obtain ⟨hi, hl⟩ := List.nodup_cons.1 hl
    rw [xorSum_cons]
    rcases List.mem_cons.1 hx with rfl | hx
    · rw [if_pos rfl, hnone l hi, xorByte_zero]
    · rw [if_neg (ne_of_mem_of_not_mem hx hi).symm, zero_xorByte, ih hl hx]

/-! ### What the survivors' strings sum to

Each position of the eighteen gives its string times its coefficient; a lost one gives nothing, since its coefficient is 0. Beside
a share that sums to 0 over all positions, the position being rebuilt is what the lost one fails to give. -/

/-- A group's strings: P is the sum of the data strings, Q the sum of each times its power of g (R481). -/
structure ParityStrings (b : Nat → Byte) : Prop where
  p : b 16 = xorSum (List.range 16) b
  q : b 17 = xorSum (List.range 16) fun i => scaleByte (gfPow i) (b i)

theorem xorSum_positions (f : Nat → Byte) : xorSum (List.range 18) f = xorSum (List.range 16) f ^^^ (f 16 ^^^ f 17) := by
  rw [List.range_succ, List.range_succ, List.append_assoc, xorSum_append, List.singleton_append, xorSum_cons, xorSum_cons]
  exact congrArg (xorSum (List.range 16) f ^^^ ·) (congrArg (f 16 ^^^ ·) (xorByte_zero _))

/-- The positions' shares sum to 0 but for the one of `x`, which is short of `v`. -/
theorem xorSum_short {f u : Nat → Byte} {x : Nat} {v : Byte} (hx : x < 18) (hzero : xorSum (List.range 18) u = 0)
    (h : ∀ i < 18, f i = u i ^^^ if i = x then v else 0) : xorSum (List.range 18) f = v := by
  rw [xorSum_congr fun i hi => h i (List.mem_range.1 hi), xorSum_xor, hzero, zero_xorByte,
    xorSum_single List.nodup_range (List.mem_range.2 hx)]

/-- What position `i` adds to the sum of the strings that P closes. -/
def pShare (b : Nat → Byte) (i : Nat) : Byte := if i = 17 then 0 else b i

/-- What position `i` adds to the sum that Q closes. -/
def qShare (b : Nat → Byte) (i : Nat) : Byte := if i = 16 then 0 else if i = 17 then b i else scaleByte (gfPow i) (b i)

theorem pShare_other {b : Nat → Byte} {i : Nat} (h : i ≠ 17) : pShare b i = b i := if_neg h

theorem pShare_q (b : Nat → Byte) : pShare b 17 = 0 := if_pos rfl

theorem qShare_data {b : Nat → Byte} {i : Nat} (h : i < 16) : qShare b i = scaleByte (gfPow i) (b i) := by
  rw [qShare, if_neg (by omega), if_neg (by omega)]

theorem qShare_p (b : Nat → Byte) : qShare b 16 = 0 := if_pos rfl

theorem qShare_q (b : Nat → Byte) : qShare b 17 = b 17 := rfl

theorem ParityStrings.sum_pShare {b : Nat → Byte} (hb : ParityStrings b) : xorSum (List.range 18) (pShare b) = 0 := by
  have hdata : xorSum (List.range 16) (pShare b) = xorSum (List.range 16) b :=
    xorSum_congr fun i hi => pShare_other (by have := List.mem_range.1 hi; omega)
  rw [xorSum_positions, hdata, pShare_q, pShare_other (by decide), xorByte_zero, hb.p]
  exact BitVec.xor_self

theorem ParityStrings.sum_qShare {b : Nat → Byte} (hb : ParityStrings b) : xorSum (List.range 18) (qShare b) = 0 := by
  have hdata : xorSum (List.range 16) (qShare b) = xorSum (List.range 16) fun i => scaleByte (gfPow i) (b i) :=
    xorSum_congr fun i hi => qShare_data (List.mem_range.1 hi)
  rw [xorSum_positions, hdata, qShare_p, qShare_q, zero_xorByte, hb.q]
  exact BitVec.xor_self

/-! ### Coefficients -/

/-- Two lost positions are all that are lost. -/
theorem mem_of_two_lost {lost : List Nat} (hlen : lost.length ≤ 2) {x y : Nat} (hx : x ∈ lost) (hy : y ∈ lost)
    (hne : x ≠ y) {i : Nat} (hi : i ∈ lost) : i = x ∨ i = y := by
  match lost with
  | [] => cases hi
  | [c] =>
    rw [List.mem_singleton] at hx hy
    exact absurd (hx.trans hy.symm) hne
  | [c, d] =>
    simp only [List.mem_cons, List.not_mem_nil, or_false] at hx hy hi
    omega
  | _ :: _ :: _ :: _ => simp at hlen

theorem dataCoeff_lost {lost : List Nat} {x i : Nat} (h : i ∈ lost) : dataCoeff lost x i = 0 := if_pos (List.contains_iff_mem.2 h)

theorem rebuildCoeff_lost {lost : List Nat} {want i : Nat} (h : i ∈ lost) : rebuildCoeff lost want i = 0 := by
  unfold rebuildCoeff
  split
  · exact dataCoeff_lost h
  · exact if_pos (List.contains_iff_mem.2 h)

section
variable {lost : List Nat} {x i : Nat} (hi : i ∉ lost)
include hi

/-- Beside another data string that is lost. -/
theorem dataCoeff_two {y : Nat} (hfind : lost.find? (fun y => decide (y < 16 ∧ y ≠ x)) = some y) : dataCoeff lost x i =
    if i < 16 then gfMul (gfInv (gfPow x ^^^ gfPow y)) (gfPow y ^^^ gfPow i)
    else if i = 16 then gfMul (gfInv (gfPow x ^^^ gfPow y)) (gfPow y) else gfInv (gfPow x ^^^ gfPow y) := by
  rw [dataCoeff, if_neg (by simpa using hi), hfind]

theorem dataCoeff_by_p (hfind : lost.find? (fun y => decide (y < 16 ∧ y ≠ x)) = none) (hp : 16 ∉ lost) :
    dataCoeff lost x i = if i = 17 then 0 else 1 := by
  rw [dataCoeff, if_neg (by simpa using hi), hfind]
  exact if_pos (by simpa using hp)

theorem dataCoeff_by_q (hfind : lost.find? (fun y => decide (y < 16 ∧ y ≠ x)) = none) (hp : 16 ∈ lost) :
    dataCoeff lost x i = gfMul (gfInv (gfPow x)) (if i = 17 then 1 else gfPow i) := by
  rw [dataCoeff, if_neg (by simpa using hi), hfind]
  dsimp only
  rw [if_neg (by simpa using hp), if_neg fun h : i = 16 => hi (h ▸ hp)]

end

section
variable {b : Nat → Byte} (hb : ParityStrings b) {lost : List Nat} (hlen : lost.length ≤ 2)
include hb hlen

/-- Two data strings are lost: Q and the power of `y` times P leave out the string of `y`. -/
theorem ParityStrings.data_two {x y : Nat} (hx : x < 16) (hxl : x ∈ lost)
    (hfind : lost.find? (fun y => decide (y < 16 ∧ y ≠ x)) = some y) :
    xorSum (List.range 18) (fun i => scaleByte (dataCoeff lost x i) (b i)) = b x := by
  obtain ⟨hy, hyx⟩ : y < 16 ∧ y ≠ x := by simpa using List.find?_some hfind
  have hyl := List.mem_of_find?_eq_some hfind
  have hne : gfPow x ^^^ gfPow y ≠ 0 := fun h => hyx ((gfPow_data x hx).2 y hy (Nat.xor_eq_zero_iff.1 h)).symm
  have hlt : gfPow x ^^^ gfPow y < 256 := Nat.xor_lt_two_pow (n := 8) (gfPow_lt x) (gfPow_lt y)
  set d := gfInv (gfPow x ^^^ gfPow y)
  have hd : d < 256 := gfInv_lt hlt
  refine xorSum_short (x := x) (u := fun i => scaleByte d (scaleByte (gfPow y) (pShare b i) ^^^ qShare b i)) (by omega) ?_ fun i hi => ?_
  · rw [xorSum_scaleByte, xorSum_xor, xorSum_scaleByte, hb.sum_pShare, hb.sum_qShare, scaleByte_zero, xorByte_zero, scaleByte_zero]
  have hshares (k : Nat) (hk : k < 16) : scaleByte d (scaleByte (gfPow y) (pShare b k) ^^^ qShare b k) =
      scaleByte (gfMul d (gfPow y ^^^ gfPow k)) (b k) := by
    rw [pShare_other (by omega), qShare_data hk, ← xor_scaleByte (gfPow_lt y) (gfPow_lt k),
      gfMul_scaleByte hd (Nat.xor_lt_two_pow (n := 8) (gfPow_lt y) (gfPow_lt k))]
  by_cases hil : i ∈ lost
  · rw [dataCoeff_lost hil, zero_scaleByte]
    rcases mem_of_two_lost hlen hxl hyl (Ne.symm hyx) hil with rfl | rfl
    · rw [hshares i hx, Nat.xor_comm, gfInv_gfMul hlt hne, one_scaleByte, if_pos rfl]
      exact (BitVec.xor_self).symm
    · rw [hshares i hy, Nat.xor_self, gfMul_zero, zero_scaleByte, if_neg hyx]
      rfl
  · have hix : i ≠ x := fun h => hil (h ▸ hxl)
    rw [if_neg hix, xorByte_zero, dataCoeff_two hil hfind]
    split
    · next h => exact (hshares i h).symm
    · split
      · next h => rw [h, pShare_other (by decide), qShare_p, xorByte_zero, gfMul_scaleByte hd (gfPow_lt y)]
      · next h16 h => rw [show i = 17 by omega, pShare_q, scaleByte_zero, zero_xorByte, qShare_q]

/-- One data string is lost: P gives it back, or Q where P is lost too. -/
theorem ParityStrings.data_one {x : Nat} (hx : x < 16) (hxl : x ∈ lost)
    (hfind : lost.find? (fun y => decide (y < 16 ∧ y ≠ x)) = none) (hall : ∀ i ∈ lost, i < 18) :
    xorSum (List.range 18) (fun i => scaleByte (dataCoeff lost x i) (b i)) = b x := by
  have honly (i : Nat) (hi : i ∈ lost) : i = x ∨ i = 16 ∨ i = 17 := by
    have := List.find?_eq_none.1 hfind i hi
    have := hall i hi
    simp only [decide_eq_true_eq] at *
    omega
  by_cases hp : 16 ∈ lost
  · obtain ⟨hne, -⟩ := gfPow_data x hx
    have hinv : gfInv (gfPow x) < 256 := gfInv_lt (gfPow_lt x)
    refine xorSum_short (x := x) (u := fun i => scaleByte (gfInv (gfPow x)) (qShare b i)) (by omega) ?_ fun i hi => ?_
    · rw [xorSum_scaleByte, hb.sum_qShare, scaleByte_zero]
    by_cases hil : i ∈ lost
    · rw [dataCoeff_lost hil, zero_scaleByte]
      rcases mem_of_two_lost hlen hxl hp (by omega) hil with rfl | rfl
      · rw [qShare_data hx, ← gfMul_scaleByte hinv (gfPow_lt i), gfInv_gfMul (gfPow_lt i) hne, one_scaleByte, if_pos rfl]
        exact (BitVec.xor_self).symm
      · rw [qShare_p, scaleByte_zero, if_neg (by omega)]
        rfl
    · have hix : i ≠ x := fun h => hil (h ▸ hxl)
      have hip : i ≠ 16 := fun h => hil (h ▸ hp)
      rw [if_neg hix, xorByte_zero, dataCoeff_by_q hil hfind hp]
      split
      · next h => rw [gfMul_one, h, qShare_q]
      · next h => rw [gfMul_scaleByte hinv (gfPow_lt i), qShare_data (by omega)]
  · refine xorSum_short (x := x) (u := pShare b) (by omega) hb.sum_pShare fun i hi => ?_
    by_cases hil : i ∈ lost
    · rw [dataCoeff_lost hil, zero_scaleByte]
      rcases honly i hil with rfl | rfl | rfl
      · rw [pShare_other (by omega), if_pos rfl]
        exact (BitVec.xor_self).symm
      · exact absurd hil hp
      · rw [pShare_q, if_neg (by omega)]
        rfl
    · have hix : i ≠ x := fun h => hil (h ▸ hxl)
      rw [if_neg hix, xorByte_zero, dataCoeff_by_p hil hfind hp, pShare]
      split
      · exact zero_scaleByte _
      · exact one_scaleByte _

theorem ParityStrings.data {x : Nat} (hx : x < 16) (hxl : x ∈ lost) (hall : ∀ i ∈ lost, i < 18) :
    xorSum (List.range 18) (fun i => scaleByte (dataCoeff lost x i) (b i)) = b x := by
  cases hfind : lost.find? (fun y => decide (y < 16 ∧ y ≠ x)) with
  | none => exact hb.data_one hlen hx hxl hfind hall
  | some y => exact hb.data_two hlen hx hxl hfind

end

/-! ### A parity string -/

/-- What a data string is multiplied by in a parity string. -/
def parityWeight (want k : Nat) : Nat := if want = 16 then 1 else gfPow k

/-- What a survivor's own string counts in it. -/
def ownWeight (want i : Nat) : Nat := if i < 16 then parityWeight want i else 0

theorem parityWeight_lt (want k : Nat) : parityWeight want k < 256 := by
  unfold parityWeight
  split
  · decide
  · exact gfPow_lt k

theorem ParityStrings.sum_own {b : Nat → Byte} (hb : ParityStrings b) {want : Nat} (hwant : want = 16 ∨ want = 17) :
    xorSum (List.range 18) (fun i => scaleByte (ownWeight want i) (b i)) = b want := by
  have hdata : xorSum (List.range 16) (fun i => scaleByte (ownWeight want i) (b i)) =
      xorSum (List.range 16) fun i => scaleByte (parityWeight want i) (b i) :=
    xorSum_congr fun i hi => by rw [ownWeight, if_pos (List.mem_range.1 hi)]
  rw [xorSum_positions, hdata, ownWeight, ownWeight, if_neg (by decide), if_neg (by decide), zero_scaleByte, zero_scaleByte]
  refine (xorByte_zero _).trans ?_
  rcases hwant with rfl | rfl
  · exact (hb.p).symm
  · exact (hb.q).symm

section
variable {lost : List Nat} {want i : Nat} (hwant : 16 ≤ want) (hi : i ∉ lost)
include hwant hi

theorem rebuildCoeff_own (hfind : lost.find? (fun y => decide (y < 16)) = none) :
    rebuildCoeff lost want i = ownWeight want i := by
  rw [rebuildCoeff, if_neg (by omega), if_neg (by simpa using hi), hfind]
  rfl

theorem rebuildCoeff_two {y : Nat} (hfind : lost.find? (fun y => decide (y < 16)) = some y) :
    rebuildCoeff lost want i = ownWeight want i ^^^ gfMul (parityWeight want y) (dataCoeff lost y i) := by
  rw [rebuildCoeff, if_neg (by omega), if_neg (by simpa using hi), hfind]
  rfl

end

theorem dataCoeff_lt (lost : List Nat) (x i : Nat) : dataCoeff lost x i < 256 := by
  have hinv {a : Nat} (ha : a < 256) (c : Nat) : gfMul (gfInv a) c < 256 := gfMul_lt c (gfInv_lt ha)
  have hx := gfPow_lt x
  have hxy (y : Nat) : gfPow x ^^^ gfPow y < 256 := Nat.xor_lt_two_pow (n := 8) hx (gfPow_lt y)
  unfold dataCoeff
  split
  · decide
  · split
    · dsimp only
      split
      · exact hinv (hxy _) _
      · split
        · exact hinv (hxy _) _
        · exact gfInv_lt (hxy _)
    · split
      · split <;> decide
      · split
        · decide
        · exact hinv hx _

theorem ownWeight_lt (want i : Nat) : ownWeight want i < 256 := by
  unfold ownWeight
  split
  · exact parityWeight_lt want i
  · decide

/-- A parity string is the survivors' share of it, and, where a data string is lost too, what gives that one back. -/
theorem ParityStrings.parity {b : Nat → Byte} (hb : ParityStrings b) {lost : List Nat} (hlen : lost.length ≤ 2) {want : Nat}
    (hwant : want = 16 ∨ want = 17) (hwl : want ∈ lost) (hall : ∀ i ∈ lost, i < 18) :
    xorSum (List.range 18) (fun i => scaleByte (rebuildCoeff lost want i) (b i)) = b want := by
  have hge : 16 ≤ want := by omega
  cases hfind : lost.find? (fun y => decide (y < 16)) with
  | none =>
    rw [← hb.sum_own hwant]
    refine xorSum_congr fun i _ => ?_
    by_cases hil : i ∈ lost
    · have := List.find?_eq_none.1 hfind i hil
      rw [rebuildCoeff_lost hil, ownWeight, if_neg (by simpa using this)]
    · rw [rebuildCoeff_own hge hil hfind]
  | some y =>
    have hy : y < 16 := by simpa using List.find?_some hfind
    have hyl := List.mem_of_find?_eq_some hfind
    have hshare : ∀ i < 18, scaleByte (ownWeight want i) (b i) = (scaleByte (rebuildCoeff lost want i) (b i) ^^^
        scaleByte (parityWeight want y) (scaleByte (dataCoeff lost y i) (b i))) ^^^
          if i = y then scaleByte (parityWeight want y) (b y) else 0 := fun i _ => by
      by_cases hil : i ∈ lost
      · rw [rebuildCoeff_lost hil, dataCoeff_lost hil, zero_scaleByte, scaleByte_zero]
        rcases mem_of_two_lost hlen hyl hwl (by omega) hil with rfl | rfl
        · rw [if_pos rfl, ownWeight, if_pos hy]
          exact (zero_xorByte _).symm
        · rw [if_neg (by omega), ownWeight, if_neg (by omega), zero_scaleByte]
          rfl
      · rw [if_neg (fun h : i = y => hil (h ▸ hyl)), xorByte_zero, rebuildCoeff_two hge hil hfind,
          xor_scaleByte (ownWeight_lt want i) (gfMul_lt _ (parityWeight_lt want y)),
          gfMul_scaleByte (parityWeight_lt want y) (dataCoeff_lt lost y i), BitVec.xor_assoc, BitVec.xor_self]
        exact (BitVec.xor_zero).symm
    have hsum := hb.sum_own hwant
    rw [xorSum_congr fun i hi => hshare i (List.mem_range.1 hi), xorSum_xor, xorSum_xor, xorSum_scaleByte,
      hb.data hlen hy hyl hall, xorSum_single List.nodup_range (List.mem_range.2 (by omega)), BitVec.xor_assoc,
      BitVec.xor_self] at hsum
    exact (xorByte_zero _).symm.trans hsum

/-- Settles O57: over all eighteen positions the shares sum to 0 but for the lost string, by the sums that P and Q close. -/
theorem erasedStringsAreRebuilt : Obligations.ErasedStringsAreRebuilt := by
  unfold Obligations.ErasedStringsAreRebuilt
  intro b lost want hp hq hlen _ hall hwant
  have hb : ParityStrings b := ⟨hp, hq⟩
  have hlost : ∀ i ∈ List.range 18, (!lost.contains i) = false → scaleByte (rebuildCoeff lost want i) (b i) = 0 := by
    intro i _ hi
    rw [rebuildCoeff_lost (List.contains_iff_mem.1 (by simpa using hi)), zero_scaleByte]
  refine (xorSum_filter hlost).trans ?_
  rcases Nat.lt_or_ge want 16 with hdata | hparity
  · refine (xorSum_congr fun i _ => ?_).trans (hb.data hlen hdata hwant hall)
    rw [rebuildCoeff, if_pos hdata]
  · exact hb.parity hlen (by have := hall want hwant; omega) hwant hall

end Sys2Proof.Machine
end

section
/-! SUPPORT. The input stage (R465, R466, R530 to R534, R543): limits that trip, the current limiter, and the telemetry. -/

namespace Sys2Proof.Machine

/-- Settles O1: a step is a match on the queue. -/
theorem stepRunsFrontCommand : Obligations.StepRunsFrontCommand := by
  unfold Obligations.StepRunsFrontCommand
  intro s c rest h
  rw [step, h]

/-! ### A limit trips -/

/-- The safe-state sequence has begun for a cause (R474). -/
def State.begun (s : State) (cause : Nat) (breaker : Bool) : State :=
  ((({ s with fab := { s.fab with trip := some (cause, breaker) } }).setReg Reg.SAF_SAFE_STATUS_CAUSE cause).setFlag
    Reg.SAF_SAFE_STATUS_ACTIVE true).emit (.alert true)

/-- The first limit begins the sequence, after its event. -/
theorem State.trip_of_none {s : State} (status cause : Nat) (breaker : Bool) (loc detail : Nat) (h : s.fab.trip = none) :
    ∃ source, s.trip status cause breaker loc detail = (s.event source status loc detail).begun cause breaker := by
  refine ⟨if status = St.memOvertemp then 2 else 6, ?_⟩
  simp only [State.trip, State.event, State.post_trip, h, State.begun]

/-- The registers in which a safe state, and the event that begins it, show. -/
def Reg.tripFields : List Field :=
  [Reg.SAF_SAFE_STATUS_CAUSE, Reg.SAF_SAFE_STATUS_ACTIVE, Reg.HIF_EVENT_STATUS_DROPPED, Reg.HIF_EVENT_STATUS_SEVERE]

section
variable (s : State) (cause : Nat) (breaker : Bool)

theorem State.begun_regs :
    (s.begun cause breaker).regs = (s.regs.set Reg.SAF_SAFE_STATUS_CAUSE cause).setFlag Reg.SAF_SAFE_STATUS_ACTIVE true := rfl

theorem State.begun_active : (s.begun cause breaker).regs.flag Reg.SAF_SAFE_STATUS_ACTIVE = true := by
  rw [State.begun_regs, RegFile.flag_setFlag_self _ _ _ (by decide)]

theorem State.begun_cause (h : cause < 8) : (s.begun cause breaker).regs.get Reg.SAF_SAFE_STATUS_CAUSE = cause := by
  rw [State.begun_regs, RegFile.get_setFlag_misses _ _ (by decide), RegFile.get_set_self _ _ _ (by decide)]
  exact Nat.mod_eq_of_lt h

end

/-- The registers that an event counts in. -/
def Reg.eventFields : List Field := [Reg.HIF_EVENT_STATUS_DROPPED, Reg.HIF_EVENT_STATUS_SEVERE]

/-- A field that no event shows in. -/
theorem State.event_get (s : State) (source status loc detail : Nat) {g : Field} (hg : ∀ f ∈ Reg.eventFields, f.misses g = true) :
    (s.event source status loc detail).regs.get g = s.regs.get g := by
  have hdropped : (s.regs.add Reg.HIF_EVENT_STATUS_DROPPED 1).get g = s.regs.get g :=
    RegFile.get_set_misses _ _ (hg _ (by simp [Reg.eventFields]))
  rw [State.event, State.post_regs]
  unfold eventStatus
  split
  · rfl
  · dsimp only
    split
    · exact (RegFile.get_set_misses _ _ (hg _ (by simp [Reg.eventFields]))).trans hdropped
    · exact hdropped

/-- A field that a trip does not show in. -/
theorem State.event_begun_get (s : State) (source status loc detail cause : Nat) (breaker : Bool) {g : Field}
    (hg : ∀ f ∈ Reg.tripFields, f.misses g = true) :
    ((s.event source status loc detail).begun cause breaker).regs.get g = s.regs.get g := by
  rw [State.begun_regs, RegFile.get_setFlag_misses _ _ (hg _ (by simp [Reg.tripFields])),
    RegFile.get_set_misses _ _ (hg _ (by simp [Reg.tripFields])),
    State.event_get _ _ _ _ _ fun f hf => hg f (List.mem_of_mem_drop (i := 2) hf)]

/-- What a trip shows. -/
theorem State.trip_shows {s : State} {status cause : Nat} {breaker : Bool} {loc detail : Nat} (hcause : cause < 8)
    (hnone : s.fab.trip = none) (hroom : s.host.events.length < 1024) :
    let s' := s.trip status cause breaker loc detail
    s'.fab.trip = some (cause, breaker) ∧ s'.regs.flag Reg.SAF_SAFE_STATUS_ACTIVE = true ∧
      s'.regs.get Reg.SAF_SAFE_STATUS_CAUSE = cause ∧ s'.out.head? = some (.alert true) ∧
      (∃ e, s'.host.events = s.host.events ++ [e] ∧ e.ev.status = status) ∧ s'.tiles = s.tiles ∧ s'.stack = s.stack := by
  obtain ⟨source, heq⟩ := State.trip_of_none status cause breaker loc detail hnone
  rw [heq]
  refine ⟨rfl, State.begun_active _ _ _, State.begun_cause _ _ _ hcause, rfl,
    ⟨⟨⟨status, 0, source, loc, detail⟩, s.regs.get Reg.TRN_STEP_NUM_STEP, s.now⟩, ?_, rfl⟩, s.post_tiles _, s.post_stack _⟩
  exact (congrArg HostSt.events (s.post_host _)).trans (HostSt.pushEv_events _ _ hroom)

/-! ### Overcurrent and rails -/

theorem State.openBreaker_closed {s : State} (h : s.fab.breakerOpen = false) :
    s.openBreaker = ({ s with fab := { s.fab with breakerOpen := true } }).emit (.breaker true) := by
  rw [State.openBreaker, if_neg (by simp [h])]

theorem exec_inputOvercurrent {s : State} {mA ns : Nat} (hpower : s.fab.powered = true) (hclosed : s.fab.breakerOpen = false)
    (hover : 150000 < mA ∨ (95000 < mA ∧ 5000 ≤ ns)) : exec (.inputOvercurrent mA ns) s =
      .next ((({ s with fab := { s.fab with breakerOpen := true } }).emit (.breaker true)).trip 0x60D2 1 true 0 mA) := by
  refine congrArg Host.Outcome.next ?_
  rw [if_pos ⟨hpower, hclosed, decide_eq_true hover⟩, State.overcurrent, State.openBreaker_closed hclosed]

theorem exec_railWindow {s : State} {rail : RailKind} {mV set ns : Nat} (hpower : s.fab.powered = true)
    (hlive : s.liveCause ≠ 2 ∨ railOpens rail mV = true) (hout : outOfWindow rail mV set = true) (hns : 10000 ≤ ns) :
    exec (.railWindow rail mV set ns) s = .next (s.trip 0x60D3 2 (railOpens rail mV) 0 mV) :=
  congrArg Host.Outcome.next (if_pos ⟨hpower, hlive, hout, hns⟩)

/-! ### Die temperatures -/

/-- The readings that a die's temperature is the mean of, the newest first. -/
def State.dieReadings (s : State) (k reading : Nat) : List Nat := (reading :: Tbl.get s.fab.dieTemps [] k).take 4

/-- The die's field and its last readings take the new one. -/
def State.showDie (s : State) (k reading : Nat) : State :=
  let s1 := { s with fab := { s.fab with dieTemps := Tbl.put s.fab.dieTemps k ((s.dieReadings k reading).take 3) } }
  match dieTempFields[k]? with
  | some f => s1.setReg f (min 255 (filtered (s.dieReadings k reading)))
  | none => s1

theorem State.dieTemp_eq (s : State) (k reading : Nat) : s.dieTemp k reading =
    if 115 ≤ filtered (s.dieReadings k reading) ∧ (s.showDie k reading).fab.trip.isNone = true ∧
      (s.showDie k reading).liveCause ≠ 3 then
      (s.showDie k reading).trip 0x60D4 3 false 0 (filtered (s.dieReadings k reading))
    else s.showDie k reading := rfl

theorem State.showDie_fab (s : State) (k reading : Nat) : (s.showDie k reading).fab =
    { s.fab with dieTemps := Tbl.put s.fab.dieTemps k ((s.dieReadings k reading).take 3) } := by
  unfold State.showDie
  split <;> rfl

theorem State.showDie_tiles (s : State) (k reading : Nat) : (s.showDie k reading).tiles = s.tiles := by
  unfold State.showDie
  split <;> rfl

theorem State.showDie_stack (s : State) (k reading : Nat) : (s.showDie k reading).stack = s.stack := by
  unfold State.showDie
  split <;> rfl

theorem State.showDie_regs {s : State} {k reading : Nat} {f : Field} (hf : dieTempFields[k]? = some f) :
    (s.showDie k reading).regs = s.regs.set f (min 255 (filtered (s.dieReadings k reading))) := by
  rw [State.showDie, hf]
  rfl

/-- A field that a die's reading does not show in. -/
theorem State.showDie_get {s : State} {k reading : Nat} {g : Field} (hg : ∀ f, dieTempFields[k]? = some f → f.misses g = true) :
    (s.showDie k reading).regs.get g = s.regs.get g := by
  cases hf : dieTempFields[k]? with
  | none => rw [State.showDie, hf]
  | some f => rw [State.showDie_regs hf, RegFile.get_set_misses _ _ (hg f hf)]

theorem dieTempFields_widths : ∀ f ∈ dieTempFields, f.width = 8 := by decide

theorem dieTempFields_safe : ∀ f ∈ dieTempFields, ∀ g ∈ Reg.safeFields, f.misses g = true := by decide

theorem dieTempFields_trip : ∀ g ∈ dieTempFields, ∀ f ∈ Reg.tripFields, f.misses g = true := by decide

theorem dieTempFields_apart {j k : Nat} {f g : Field} (hf : dieTempFields[j]? = some f) (hg : dieTempFields[k]? = some g)
    (hne : j ≠ k) : f.misses g = true := by
  have h : dieTempFields.Pairwise fun f g => f.misses g = true ∧ g.misses f = true := by decide
  obtain ⟨hj, rfl⟩ := List.getElem?_eq_some_iff.1 hf
  obtain ⟨hk, rfl⟩ := List.getElem?_eq_some_iff.1 hg
  rcases Nat.lt_or_gt_of_ne hne with hlt | hlt
  · exact (List.pairwise_iff_getElem.1 h j k hj hk hlt).1
  · exact (List.pairwise_iff_getElem.1 h k j hk hj hlt).2

theorem State.showDie_safety (s : State) (k reading : Nat) : (s.showDie k reading).safety = s.safety :=
  State.safety_congr (by rw [State.showDie_fab]) fun g hg =>
    State.showDie_get fun f hf => dieTempFields_safe f (List.mem_of_getElem? hf) g hg

/-- The live cause follows from what shows of a safe state. -/
theorem State.liveCause_eq (s : State) :
    s.liveCause = if s.safety.2.1 = true ∧ s.safety.1 = none then s.safety.2.2 else 0 := rfl

/-- What a reading leaves of the rest, whether or not it begins the safe state. -/
structure State.DieFrame (s t : State) (k reading : Nat) : Prop where
  tiles : t.tiles = s.tiles
  stack : t.stack = s.stack
  temps : t.fab.dieTemps = Tbl.put s.fab.dieTemps k ((s.dieReadings k reading).take 3)
  fields : ∀ g ∈ dieTempFields, t.regs.get g = (s.showDie k reading).regs.get g

theorem State.dieTemp_frame (s : State) (k reading : Nat) : s.DieFrame (s.dieTemp k reading) k reading := by
  have hshown : s.DieFrame (s.showDie k reading) k reading :=
    ⟨s.showDie_tiles _ _, s.showDie_stack _ _, by rw [State.showDie_fab], fun _ _ => rfl⟩
  rw [State.dieTemp_eq]
  split
  · next h =>
    obtain ⟨source, heq⟩ := State.trip_of_none 0x60D4 3 false 0 (filtered (s.dieReadings k reading)) (Option.isNone_iff_eq_none.1 h.2.1)
    rw [heq]
    refine ⟨(State.post_tiles _ _).trans hshown.tiles, (State.post_stack _ _).trans hshown.stack, ?_,
      fun g hg => State.event_begun_get _ _ _ _ _ _ _ (dieTempFields_trip g hg)⟩
    have hkept (t : State) (e : Ev) : (t.post e).fab.dieTemps = t.fab.dieTemps := by
      unfold State.post
      dsimp only
      split <;> rfl
    exact (hkept _ _).trans hshown.temps
  · exact hshown

section
variable (s : State) {k reading : Nat}

theorem State.dieTemp_cool (h : filtered (s.dieReadings k reading) < 115) : (s.dieTemp k reading).safety = s.safety := by
  rw [State.dieTemp_eq, if_neg fun h' => absurd h'.1 (by omega), State.showDie_safety]

theorem State.dieTemp_begun (h : s.fab.trip ≠ none) : (s.dieTemp k reading).safety = s.safety := by
  have hbegun : (s.showDie k reading).fab.trip ≠ none := by rwa [State.showDie_fab]
  rw [State.dieTemp_eq, if_neg fun h' => hbegun (Option.isNone_iff_eq_none.1 h'.2.1), State.showDie_safety]

theorem State.dieTemp_hot (h : 115 ≤ filtered (s.dieReadings k reading)) (hnone : s.fab.trip = none) (hlive : s.liveCause = 0) :
    (s.dieTemp k reading).fab.trip = some (3, false) := by
  have hshown : (s.showDie k reading).fab.trip = none := by rwa [State.showDie_fab]
  have hcause : (s.showDie k reading).liveCause = 0 := by rwa [State.liveCause_eq, State.showDie_safety, ← State.liveCause_eq]
  obtain ⟨source, heq⟩ := State.trip_of_none 0x60D4 3 false 0 (filtered (s.dieReadings k reading)) hshown
  rw [State.dieTemp_eq, if_pos ⟨h, by rw [hshown]; rfl, by omega⟩, heq]
  rfl

end

/-! ### A sample of the dies -/

/-- Readings of different dies. -/
def DistinctDies (l : List (Nat × Nat)) : Prop := (l.map Prod.fst).Nodup

/-- Several readings one after another. -/
def State.readDies (s : State) (l : List (Nat × Nat)) : State := l.foldl (fun s x => s.dieTemp x.1 x.2) s

theorem State.dieReadings_dieTemp_other (s : State) {j k : Nat} (reading other : Nat) (h : j ≠ k) :
    (s.dieTemp j other).dieReadings k reading = s.dieReadings k reading := by
  rw [State.dieReadings, (s.dieTemp_frame j other).temps, Tbl.get_put_other _ _ _ h, State.dieReadings]

section
variable {l : List (Nat × Nat)}

theorem State.readDies_same (s : State) : (s.readDies l).tiles = s.tiles ∧ (s.readDies l).stack = s.stack := by
  induction l generalizing s with
  | nil => exact ⟨rfl, rfl⟩
  | cons x l ih =>
    obtain ⟨htiles, hstack⟩ := ih (s.dieTemp x.1 x.2)
    have hframe := s.dieTemp_frame x.1 x.2
    exact ⟨htiles.trans hframe.tiles, hstack.trans hframe.stack⟩

theorem State.readDies_other (s : State) {k : Nat} (hne : ∀ y ∈ l, y.1 ≠ k) :
    Tbl.get (s.readDies l).fab.dieTemps [] k = Tbl.get s.fab.dieTemps [] k ∧
      ∀ f, dieTempFields[k]? = some f → (s.readDies l).regs.get f = s.regs.get f := by
  induction l generalizing s with
  | nil => exact ⟨rfl, fun _ _ => rfl⟩
  | cons x l ih =>
    obtain ⟨htemps, hfield⟩ := ih (s.dieTemp x.1 x.2) fun y hy => hne y (List.mem_cons_of_mem _ hy)
    have hframe := s.dieTemp_frame x.1 x.2
    have hx := hne x List.mem_cons_self
    refine ⟨htemps.trans (by rw [hframe.temps, Tbl.get_put_other _ _ _ hx]), fun f hf => (hfield f hf).trans ?_⟩
    rw [hframe.fields f (List.mem_of_getElem? hf)]
    exact State.showDie_get fun g hg => dieTempFields_apart hg hf hx

/-- Each reading of a sample shows in its own die as it would alone. -/
theorem State.readDies_self (s : State) (hl : DistinctDies l) {x : Nat × Nat} (hx : x ∈ l) :
    Tbl.get (s.readDies l).fab.dieTemps [] x.1 = (s.dieReadings x.1 x.2).take 3 ∧
      ∀ f, dieTempFields[x.1]? = some f → (s.readDies l).regs.get f = min 255 (filtered (s.dieReadings x.1 x.2)) := by
  induction l generalizing s with
  | nil => cases hx
  | cons y l ih =>
    obtain ⟨hy, hl'⟩ := List.nodup_cons.1 hl
    rcases List.mem_cons.1 hx with rfl | hx
    · have hrest := State.readDies_other (s.dieTemp x.1 x.2) (k := x.1) fun z hz he => hy (he ▸ List.mem_map_of_mem hz)
      have hframe := s.dieTemp_frame x.1 x.2
      refine ⟨hrest.1.trans (by rw [hframe.temps, Tbl.get_put_self]), fun f hf => (hrest.2 f hf).trans ?_⟩
      have hwidth := dieTempFields_widths f (List.mem_of_getElem? hf)
      rw [hframe.fields f (List.mem_of_getElem? hf), State.showDie_regs hf, RegFile.get_set_self _ _ _ (by omega), hwidth]
      exact Nat.mod_eq_of_lt (by omega)
    · have hne : y.1 ≠ x.1 := fun he => hy (he ▸ List.mem_map_of_mem hx)
      have hrest := ih (s.dieTemp y.1 y.2) hl' hx
      rwa [State.dieReadings_dieTemp_other _ _ _ hne] at hrest

theorem State.readDies_cool (s : State) (hl : DistinctDies l) (h : ∀ x ∈ l, filtered (s.dieReadings x.1 x.2) < 115) :
    (s.readDies l).safety = s.safety := by
  induction l generalizing s with
  | nil => rfl
  | cons y l ih =>
    obtain ⟨hy, hl⟩ := List.nodup_cons.1 hl
    refine (ih (s.dieTemp y.1 y.2) hl fun x hx => ?_).trans (s.dieTemp_cool (h y List.mem_cons_self))
    have hne : y.1 ≠ x.1 := fun he => hy (he ▸ List.mem_map_of_mem hx)
    rw [State.dieReadings_dieTemp_other _ _ _ hne]
    exact h x (List.mem_cons_of_mem _ hx)

theorem State.readDies_begun (s : State) (h : s.fab.trip ≠ none) : (s.readDies l).safety = s.safety := by
  induction l generalizing s with
  | nil => rfl
  | cons y l ih =>
    have hstep := s.dieTemp_begun (k := y.1) (reading := y.2) h
    have htrip : (s.dieTemp y.1 y.2).fab.trip = s.fab.trip := congrArg Prod.fst hstep
    exact (ih (s.dieTemp y.1 y.2) (by rwa [htrip])).trans hstep

/-- The first die of a sample that is too hot begins the safe state. -/
theorem State.readDies_hot (s : State) (hl : DistinctDies l) (hnone : s.fab.trip = none) (hlive : s.liveCause = 0)
    {x : Nat × Nat} (hx : x ∈ l) (hhot : 115 ≤ filtered (s.dieReadings x.1 x.2)) :
    (s.readDies l).fab.trip = some (3, false) := by
  induction l generalizing s with
  | nil => cases hx
  | cons y l ih =>
    obtain ⟨hy, hl'⟩ := List.nodup_cons.1 hl
    by_cases hfirst : 115 ≤ filtered (s.dieReadings y.1 y.2)
    · have hbegun := s.dieTemp_hot hfirst hnone hlive
      have hrest := State.readDies_begun (l := l) (s.dieTemp y.1 y.2) (by rw [hbegun]; nofun)
      exact (congrArg Prod.fst hrest).trans hbegun
    · have hstep := s.dieTemp_cool (k := y.1) (reading := y.2) (by omega)
      have hmem : x ∈ l := (List.mem_cons.1 hx).resolve_left fun he => hfirst (he ▸ hhot)
      have hne : y.1 ≠ x.1 := fun he => hy (he ▸ List.mem_map_of_mem hmem)
      exact ih (s.dieTemp y.1 y.2) hl' ((congrArg Prod.fst hstep).trans hnone)
        (by rwa [State.liveCause_eq, hstep, ← State.liveCause_eq]) hmem (by rwa [State.dieReadings_dieTemp_other _ _ _ hne])

end

/-- The six readings of a sample, each with its die. -/
def dieSample (temps : List Nat) : List (Nat × Nat) := (List.range 6).zip temps

section
variable {temps : List Nat} (hlen : temps.length = 6)
include hlen

theorem distinctDies_sample : DistinctDies (dieSample temps) := by
  rw [DistinctDies, dieSample, List.map_fst_zip (by simp [hlen])]
  exact List.nodup_range

theorem mem_dieSample {k : Nat} (hk : k < 6) : (k, (temps[k]?).getD 0) ∈ dieSample temps := by
  have hk' : k < temps.length := by omega
  refine List.mem_iff_getElem.2 ⟨k, by simp [dieSample, hlen, hk], ?_⟩
  simp [dieSample, hk']

theorem of_mem_dieSample {x : Nat × Nat} (hx : x ∈ dieSample temps) : x.1 < 6 ∧ x.2 = (temps[x.1]?).getD 0 := by
  obtain ⟨k, hk, rfl⟩ := List.mem_iff_getElem.1 hx
  have hk' : k < 6 := by simpa [dieSample, hlen] using hk
  simp [dieSample, hk', hlen]

/-- With no safe state in force a sample is its readings: none is live on die temperature that could end. -/
theorem exec_dieTempSample {s : State} (hlive : s.liveCause = 0) (hnone : s.fab.trip = none) :
    exec (.dieTempSample temps) s = .next (s.readDies (dieSample temps)) := by
  have hdistinct := distinctDies_sample hlen
  have hend : (s.readDies (dieSample temps)).liveCause = 0 := by
    by_cases hhot : ∃ x ∈ dieSample temps, 115 ≤ filtered (s.dieReadings x.1 x.2)
    · obtain ⟨x, hx, hx'⟩ := hhot
      have htrip := s.readDies_hot hdistinct hnone hlive hx hx'
      rw [State.liveCause, if_neg fun h => by rw [htrip] at h; exact nomatch h.2]
    · have hcool := s.readDies_cool hdistinct fun x hx => Nat.lt_of_not_le fun h => hhot ⟨x, hx, h⟩
      rwa [State.liveCause_eq, hcool, ← State.liveCause_eq]
  exact congrArg Host.Outcome.next (if_neg fun h => by
    have hlive : (s.readDies (dieSample temps)).liveCause = 3 := h.1
    omega)

end

/-! ### Coolant -/

theorem coolantLost_iff (before after : List Nat) (power lowest highest : Nat) :
    coolantLost before after power lowest highest = true ↔ (∀ d < 4, (before[d]?).getD 0 + 5 < (after[d]?).getD 0) ∧
      19 * power ≤ 20 * lowest ∧ 20 * highest ≤ 21 * power := by
  simp only [coolantLost, Bool.and_eq_true, List.all_eq_true, List.mem_range, decide_eq_true_eq]

theorem exec_coolantCheck {s : State} (hpower : s.fab.powered = true) (hlive : s.liveCause ≠ 5) (before after : List Nat)
    (power lowest highest : Nat) : exec (.coolantCheck before after power lowest highest) s =
      .next (if coolantLost before after power lowest highest = true then s.trip 0x60D5 5 false 0 0 else s) := by
  refine congrArg Host.Outcome.next ?_
  rw [if_neg (by simp [hpower])]
  refine if_congr Iff.rfl (if_neg hlive) (if_neg hlive)

/-- Settles O18: the first limit posts its event and begins the safe state, and each detection either is such a trip or changes
nothing; a sample of the dies is six readings that do not disturb each other. -/
theorem limitsTrip : Obligations.LimitsTrip := by
  unfold Obligations.LimitsTrip
  intro s hpower
  refine ⟨fun status cause loc detail b hcause hnone hroom => State.trip_shows hcause hnone hroom,
    fun mA ns hclosed hover => exec_inputOvercurrent hpower hclosed hover, fun rail mV set ns hlive hns hout => ?_,
    fun temps hlen hlive hnone => ?_, fun before after power lowest highest hlive hrise hlow hhigh => ?_,
    fun before after power lowest highest hlive hsteady => ?_⟩
  · cases rail with
    | regional => exact exec_railWindow hpower (.inr rfl) (decide_eq_true hout) hns
    | bus =>
      refine exec_railWindow hpower ?_ (decide_eq_true hout) hns
      by_cases h : s.liveCause = 2
      · exact .inr (decide_eq_true (hlive h rfl))
      · exact .inl h
    | other => exact exec_railWindow hpower (.inr rfl) (decide_eq_true hout) hns
  · have hdistinct := distinctDies_sample hlen
    obtain ⟨htiles, hstack⟩ := State.readDies_same (l := dieSample temps) s
    refine ⟨_, exec_dieTempSample hlen hlive hnone, fun k f hf => ?_,
      fun k hk => (s.readDies_self hdistinct (mem_dieSample hlen hk)).1, fun ⟨k, hk, hhot⟩ =>
        s.readDies_hot hdistinct hnone hlive (mem_dieSample hlen hk) hhot, fun hcool => ?_, htiles, hstack⟩
    · have hk : k < 6 := (List.getElem?_eq_some_iff.1 hf).1
      exact (s.readDies_self hdistinct (mem_dieSample hlen hk)).2 f hf
    · have hsame : (s.readDies (dieSample temps)).safety = s.safety := s.readDies_cool hdistinct fun x hx => by
        obtain ⟨hk, hx⟩ := of_mem_dieSample hlen hx
        rw [hx]
        exact hcool x.1 hk
      exact (congrArg Prod.fst hsame).trans hnone
  · rw [exec_coolantCheck hpower hlive, if_pos ((coolantLost_iff ..).2 ⟨hrise, hlow, hhigh⟩)]
  · rw [exec_coolantCheck hpower hlive, if_neg fun h => ?_]
    obtain ⟨hrise, hlow, hhigh⟩ := (coolantLost_iff ..).1 h
    rcases hsteady with ⟨d, hd, hcold⟩ | hlow' | hhigh'
    · have := hrise d hd
      omega
    · omega
    · omega

/-! ### The current limiter (R530) -/

/-- A limiter that has just begun counts the millisecond that it begins in. -/
theorem State.countLimit_started {t : State} (hsince : t.fab.limitSince = t.now) (h : t.fab.limitMs ≤ t.now / 10 ^ 6) :
    t.countLimit = ({ t with fab := { t.fab with limitMs := t.now / 10 ^ 6 + 1 } }).addReg Reg.SAF_INPUT_PEAK_LIMIT_MS 1 := by
  have hmax : max t.fab.limitMs (t.now / 10 ^ 6 + 1) = t.now / 10 ^ 6 + 1 := max_eq_right (by omega)
  unfold State.countLimit
  rw [hsince, if_neg (Nat.lt_irrefl _), max_eq_right h]
  dsimp only
  rw [hmax, Nat.add_sub_cancel_left]

/-- While the limiter acts, every millisecond up to the nanosecond before now is counted once. -/
theorem State.countLimit_since {s : State} (hsince : s.fab.limitSince < s.now) (hms : s.fab.limitMs ≤ s.fab.limitSince / 10 ^ 6) :
    s.countLimit.fab.limitMs = (s.now - 1) / 10 ^ 6 + 1 ∧ s.countLimit.regs =
      s.regs.add Reg.SAF_INPUT_PEAK_LIMIT_MS ((s.now - 1) / 10 ^ 6 + 1 - s.fab.limitSince / 10 ^ 6) := by
  have hle : s.fab.limitSince / 10 ^ 6 ≤ (s.now - 1) / 10 ^ 6 := Nat.div_le_div_right (by omega)
  unfold State.countLimit
  rw [if_pos hsince, max_eq_right hms]
  exact ⟨max_eq_right (by omega), rfl⟩

theorem exec_limiterSustained {s : State} (hacts : s.fab.limiter = true) (hlong : s.fab.limitSince + 10000000 ≤ s.now)
    (hclosed : s.fab.breakerOpen = false) : exec .limiterSustained s =
      .next ((({ s.countLimit with fab := { s.countLimit.fab with
        limiter := false
        breakerOpen := true } }).emit (.breaker true)).trip 0x60D2 1 true 0 94000) := by
  have hwaits : ¬(s.fab.limiter = false ∨ s.now < s.fab.limitSince + 10 ^ 7) := fun h =>
    h.elim (by simp [hacts]) (by omega)
  refine congrArg Host.Outcome.next ((if_neg hwaits).trans ?_)
  rw [State.overcurrent, State.openBreaker_closed (s := { s.countLimit with fab := { s.countLimit.fab with
    limiter := false } }) hclosed]

/-- Settles O19: the limiter's count takes in the milliseconds from its start, or from what is counted, up to now. -/
theorem currentLimiter : Obligations.CurrentLimiter := by
  unfold Obligations.CurrentLimiter
  intro s
  refine ⟨fun mA hpower hoff hover hms => ?_, fun hacts hlong hclosed => ⟨_, rfl, exec_limiterSustained hacts hlong hclosed⟩,
    fun mA hacts hlow => ?_, fun since now hlt hsince hnow hms => ?_⟩
  · refine congrArg Host.Outcome.next ((if_neg ?_).trans (State.countLimit_started (t := { s with fab := { s.fab with
      limiter := true
      limitSince := s.now } }) rfl hms))
    simp [hpower, hoff, hover]
  · exact congrArg Host.Outcome.next (if_neg (by simp [hacts, hlow]))
  · subst hsince hnow
    exact State.countLimit_since hlt hms

/-! ### Insertion, removal and telemetry (R476, R532 to R534, R543) -/

theorem State.cutWrite_fab (s : State) : s.cutWrite.fab = s.fab := by
  unfold State.cutWrite
  split <;> rfl

theorem State.cutWrite_tiles (s : State) : s.cutWrite.tiles = s.tiles := by
  unfold State.cutWrite
  split <;> rfl

/-- Without power stacked memory is empty, and the tiles and the module's seat are as they were. -/
theorem State.powerLost_shows (s : State) : s.powerLost.fab.powered = false ∧ s.powerLost.fab.present = s.fab.present ∧
    s.powerLost.fab.hotSwap = s.fab.hotSwap ∧ s.powerLost.fab.breakerOpen = s.fab.breakerOpen ∧ s.powerLost.stack = Mem.empty ∧
    s.powerLost.tiles = s.tiles := by
  have hfab : s.powerLost.fab = { s.cutWrite.fab with powered := false } := rfl
  rw [hfab, State.cutWrite_fab]
  exact ⟨rfl, rfl, rfl, rfl, rfl, s.cutWrite_tiles⟩

/-- The registers of a refresh of SAF_INPUT. -/
def RegFile.refreshed (r : RegFile) (vin iin pin : Nat) : RegFile :=
  let r1 := ((r.set Reg.SAF_INPUT_VIN vin).set Reg.SAF_INPUT_IIN iin).set Reg.SAF_INPUT_PIN pin
  (r1.set Reg.SAF_INPUT_PEAK_PIN_PEAK (max (r1.get Reg.SAF_INPUT_PEAK_PIN_PEAK) (r1.get Reg.SAF_INPUT_PIN))).set
    Reg.SAF_INPUT_PEAK_VIN_MIN (min (r1.get Reg.SAF_INPUT_PEAK_VIN_MIN) (r1.get Reg.SAF_INPUT_VIN))

section
variable (r : RegFile) (vin iin pin : Nat)

/-- A field that a refresh does not write. -/
theorem RegFile.refreshed_get {g : Field} (hg : ∀ f ∈ [Reg.SAF_INPUT_VIN, Reg.SAF_INPUT_IIN, Reg.SAF_INPUT_PIN,
    Reg.SAF_INPUT_PEAK_PIN_PEAK, Reg.SAF_INPUT_PEAK_VIN_MIN], f.misses g = true) :
    (r.refreshed vin iin pin).get g = r.get g := by
  simp only [List.forall_mem_cons] at hg
  obtain ⟨hvin, hiin, hpin, hpeak, hmin, -⟩ := hg
  rw [RegFile.refreshed, RegFile.get_set_misses _ _ hmin, RegFile.get_set_misses _ _ hpeak, RegFile.get_set_misses _ _ hpin,
    RegFile.get_set_misses _ _ hiin, RegFile.get_set_misses _ _ hvin]

/-- A 16-bit field reads back what fits it. -/
theorem RegFile.get_set_fits {f : Field} (hf : f.width = 16) {v : Nat} (hv : v < 2 ^ 16) : (r.set f v).get f = v := by
  rw [RegFile.get_set_self _ _ _ (by omega), hf, Nat.mod_eq_of_lt hv]

theorem RegFile.refreshed_vin (hvin : vin < 2 ^ 16) : (r.refreshed vin iin pin).get Reg.SAF_INPUT_VIN = vin := by
  rw [RegFile.refreshed, RegFile.get_set_misses _ _ (by decide), RegFile.get_set_misses _ _ (by decide),
    RegFile.get_set_misses _ _ (by decide), RegFile.get_set_misses _ _ (by decide), RegFile.get_set_fits _ rfl hvin]

theorem RegFile.refreshed_iin (hiin : iin < 2 ^ 16) : (r.refreshed vin iin pin).get Reg.SAF_INPUT_IIN = iin := by
  rw [RegFile.refreshed, RegFile.get_set_misses _ _ (by decide), RegFile.get_set_misses _ _ (by decide),
    RegFile.get_set_misses _ _ (by decide), RegFile.get_set_fits _ rfl hiin]

theorem RegFile.refreshed_pin (hpin : pin < 2 ^ 16) : (r.refreshed vin iin pin).get Reg.SAF_INPUT_PIN = pin := by
  rw [RegFile.refreshed, RegFile.get_set_misses _ _ (by decide), RegFile.get_set_misses _ _ (by decide),
    RegFile.get_set_fits _ rfl hpin]

/-- The greatest power so far takes the new power in. -/
theorem RegFile.refreshed_peak (hpin : pin < 2 ^ 16) : (r.refreshed vin iin pin).get Reg.SAF_INPUT_PEAK_PIN_PEAK =
    max (r.get Reg.SAF_INPUT_PEAK_PIN_PEAK) pin := by
  have hold : r.get Reg.SAF_INPUT_PEAK_PIN_PEAK < 2 ^ 16 := r.getAt_lt Reg.SAF_INPUT_PEAK_PIN_PEAK 0 (by decide)
  rw [RegFile.refreshed, RegFile.get_set_misses _ _ (by decide), RegFile.get_set_fits (f := Reg.SAF_INPUT_PIN) _ rfl hpin,
    RegFile.get_set_fits _ rfl]
  · rw [RegFile.get_set_misses _ _ (by decide), RegFile.get_set_misses _ _ (by decide), RegFile.get_set_misses _ _ (by decide)]
  · rw [RegFile.get_set_misses _ _ (by decide), RegFile.get_set_misses _ _ (by decide), RegFile.get_set_misses _ _ (by decide)]
    exact max_lt hold hpin

/-- The least voltage so far takes the new voltage in. -/
theorem RegFile.refreshed_least (hvin : vin < 2 ^ 16) : (r.refreshed vin iin pin).get Reg.SAF_INPUT_PEAK_VIN_MIN =
    min (r.get Reg.SAF_INPUT_PEAK_VIN_MIN) vin := by
  have hshown : (((r.set Reg.SAF_INPUT_VIN vin).set Reg.SAF_INPUT_IIN iin).set Reg.SAF_INPUT_PIN pin).get Reg.SAF_INPUT_VIN = vin := by
    rw [RegFile.get_set_misses _ _ (by decide), RegFile.get_set_misses _ _ (by decide), RegFile.get_set_fits _ rfl hvin]
  rw [RegFile.refreshed, RegFile.get_set_fits _ rfl (lt_of_le_of_lt (min_le_right _ _) (hshown.trans_lt hvin)), hshown,
    RegFile.get_set_misses _ _ (by decide), RegFile.get_set_misses _ _ (by decide), RegFile.get_set_misses _ _ (by decide)]

end

/-- A refresh writes nothing that tells of a safe state. -/
theorem Reg.refreshed_misses_safe : ∀ g ∈ Reg.safeFields, ∀ f ∈ [Reg.SAF_INPUT_VIN, Reg.SAF_INPUT_IIN, Reg.SAF_INPUT_PIN,
    Reg.SAF_INPUT_PEAK_PIN_PEAK, Reg.SAF_INPUT_PEAK_VIN_MIN], f.misses g = true := by decide

theorem State.setRegs_safety {s : State} {r : RegFile} (h : ∀ g ∈ Reg.safeFields, r.get g = s.regs.get g) :
    (s.setRegs r).safety = s.safety := State.safety_congr rfl h

theorem State.refreshed_safety (s : State) (vin iin pin : Nat) :
    (s.setRegs (s.regs.refreshed vin iin pin)).safety = s.safety :=
  State.setRegs_safety fun g hg => RegFile.refreshed_get _ _ _ _ (Reg.refreshed_misses_safe g hg)

theorem State.refreshed_liveCause (s : State) (vin iin pin : Nat) :
    (s.setRegs (s.regs.refreshed vin iin pin)).liveCause = s.liveCause := by
  rw [State.liveCause_eq, State.refreshed_safety, ← State.liveCause_eq]

theorem exec_safInputRefresh {s : State} {vin iin pin : Nat} (hpower : s.fab.powered = true) :
    exec (.safInputRefresh vin iin pin) s = .next (let t := s.setRegs (s.regs.refreshed vin iin pin)
      if t.liveCause = 2 ∧ t.fab.breakerOpen = false ∧ 4800 ≤ vin ∧ vin ≤ 6200 then t.causeEnds else t) :=
  congrArg Host.Outcome.next (if_neg (by simp [hpower]))

/-- Is the event of a ripple above the limit due: none was posted within the last minute (R532)? -/
def State.rippleDue (s : State) : Bool :=
  match s.fab.ripplePost with
  | some t => decide (t + 60 * 10 ^ 9 ≤ s.now)
  | none => true

theorem State.rippleDue_iff (s : State) : s.rippleDue = true ↔ ∀ t, s.fab.ripplePost = some t → t + 60000000000 ≤ s.now := by
  unfold State.rippleDue
  cases s.fab.ripplePost with
  | none => simp
  | some t => simp

theorem exec_rippleMeasure {s : State} (mV : Nat) (hpower : s.fab.powered = true) :
    let s1 := s.setReg Reg.SAF_INPUT_RIPPLE (min 65535 mV)
    exec (.rippleMeasure mV) s = .next (if 1000 < mV ∧ s.rippleDue = true then
      ({ s1 with fab := { s1.fab with ripplePost := some s.now } }).event 6 0x10F0 0 mV else s1) :=
  congrArg Host.Outcome.next (if_neg (by simp [hpower]))

/-- Settles O22: power that goes takes stacked memory with it and nothing of the tiles; a refresh and a measurement write the
registers of their values alone, and the ripple's event waits a minute after the last. -/
theorem inputStage : Obligations.InputStage := by
  unfold Obligations.InputStage
  intro s
  have hpulse (h : s.fab.alertPulse = true) : exec .mgmtAlertPulseEnd s = .next (if s.now < s.fab.alertSince + 10000000 then s
      else ({ s with fab := { s.fab with alertPulse := false } }).emit (.alert (s.regs.flag Reg.SAF_SAFE_STATUS_ACTIVE))) :=
    congrArg Host.Outcome.next (if_congr (by simp [h]) rfl rfl)
  refine ⟨rfl, ⟨_, rfl, ?_⟩, ⟨_, rfl, ?_⟩, fun vin iin pin hpower hvin hiin hpin hlive => ?_,
    fun mV hpower => ⟨fun h => ?_, fun h => ?_⟩,
    fun h hearly => (hpulse h).trans (congrArg _ (if_pos hearly)),
    fun h hlate => (hpulse h).trans (congrArg _ (if_neg (by omega)))⟩
  · obtain ⟨hpower, hpresent, hswap, -, hstack, htiles⟩ := State.powerLost_shows { s with fab := { s.fab with
      present := false
      hotSwap := false } }
    exact ⟨hpresent, hswap, hpower, hstack, htiles⟩
  · obtain ⟨hpower, hpresent, -, hopen, hstack, -⟩ := s.powerLost_shows
    split
    · exact ⟨hpower, rfl, hstack, hpresent⟩
    · next hclosed => exact ⟨hpower, hopen.trans (by simpa using hclosed), hstack, hpresent⟩
  · refine ⟨s.setRegs (s.regs.refreshed vin iin pin), (exec_safInputRefresh hpower).trans (congrArg _ (if_neg fun h => ?_)), rfl,
      s.regs.refreshed_vin _ _ _ hvin, s.regs.refreshed_iin _ _ _ hiin, s.regs.refreshed_pin _ _ _ hpin,
      s.regs.refreshed_peak _ _ _ hpin, s.regs.refreshed_least _ _ _ hvin, s.regs.refreshed_get _ _ _ (by decide),
      s.regs.refreshed_get _ _ _ (by decide)⟩
    exact hlive ((s.refreshed_liveCause vin iin pin).symm.trans h.1)
  · rw [exec_rippleMeasure mV hpower, if_pos ⟨h.1, s.rippleDue_iff.2 h.2⟩]
  · rw [exec_rippleMeasure mV hpower, if_neg fun hdue => ?_]
    rcases h with h | ⟨t, ht, hrecent⟩
    · omega
    · have := s.rippleDue_iff.1 hdue.2 t ht
      omega

end Sys2Proof.Machine
end

section
/-! SUPPORT. Park (R521, R522): a register file that holds a word twice. -/

namespace Sys2Proof.Machine

/-- A powered module that is asked to park, with link 0 live, whose register file holds the word of link 0's status twice: reads
give the first entry, and a reset, which copies the entries in their order, leaves the last. -/
def parkingTwiceWritten : State :=
  { State.reset with
    regs := [(Reg.HIF_DEV_CTL_PARK.offset, 2 ^ Reg.HIF_DEV_CTL_PARK.lo), (Reg.LNK_LINK_STATUS_STATE.offset, 2),
      (Reg.LNK_LINK_STATUS_STATE.offset, 0)]
    fab := { State.reset.fab with powered := true } }

/-- The link is live before the entry of park and reads 0 after it. -/
theorem parkingTwiceWritten_link : parkingTwiceWritten.linkLive 0 = true ∧
    ∀ s', exec .parkEntry parkingTwiceWritten = .next s' → s'.linkState 0 = 0 := by
  refine ⟨by decide +kernel, fun s' h => ?_⟩
  injection h with h
  rw [← h]
  decide +kernel

/-- Refutes O25: the entry of park resets the registers entry by entry, so where a register file holds the word of a link's status
twice, which the statement does not exclude, the second value replaces the parked state that the first has taken. -/
theorem not_parkAndD3 : ¬ Obligations.ParkAndD3 := by
  unfold Obligations.ParkAndD3
  intro h
  obtain ⟨-, -, hentry, -⟩ := h parkingTwiceWritten
  obtain ⟨s', hexec, -, -, -, -, -, -, -, hlinks⟩ :=
    hentry (by decide +kernel) (by decide +kernel) (by decide +kernel) (by decide +kernel) (by decide +kernel)
  obtain ⟨hlive, hzero⟩ := parkingTwiceWritten_link
  exact absurd ((hzero s' hexec).symm.trans (hlinks 0 (by decide) hlive)) (by decide)

end Sys2Proof.Machine
end

section
/-! SUPPORT. Attestation over DOE and the management port (R509, R513, R514, R534). -/

namespace Sys2Proof.Machine

section
variable {s : State} {q : List Byte} {code len stage : Nat} (hready : s.doeReady = true) (hversion : msgByte q 0 = 0x12)
  (hcode : msgByte q 1 = code) (hlen : len ≤ q.length) (f : State → State)
include hready hversion hcode hlen

/-- A request in its order is answered by its own function. -/
theorem State.onSpdm_of_due (hstage : stage ≤ s.boot.spdm) : s.onSpdm q code len stage f = f s := by
  rw [State.onSpdm, if_neg (by simp [hready]), if_neg (by simp [hcode, hlen]), if_neg (by simp [hversion]),
    if_neg (Nat.not_lt.2 hstage)]

/-- A request that comes before its order is answered with ERROR. -/
theorem State.onSpdm_of_early (hstage : s.boot.spdm < stage) :
    s.onSpdm q code len stage f = s.emit (.doe (spdmError 0x04)) := by
  rw [State.onSpdm, if_neg (by simp [hready]), if_neg (by simp [hcode, hlen]), if_neg (by simp [hversion]), if_pos hstage]

end

theorem exec_getVersion {s : State} {q : List Byte} (hready : s.doeReady = true) (hversion : msgByte q 0 = 0x10)
    (hcode : msgByte q 1 = 0x84) (hlen : 4 ≤ q.length) : exec (.getVersion q) s =
      .next (({ s with boot := { s.boot with
        spdm := 1
        vca := q ++ versionResponse
        certs := []
        measured := [] } }).emit (.doe versionResponse)) :=
  congrArg Host.Outcome.next ((if_neg (by simp [hready])).trans (if_neg (by simp [hversion, hcode, hlen])))

/-- A signed GET_MEASUREMENTS carries a nonce as well. -/
theorem measurementsLen_le {q : List Byte} (hlen : 37 ≤ q.length) :
    (if bitOf (msgByte q 2) 0 then 37 else 4) ≤ q.length := by
  split <;> omega

/-- CHALLENGE_AUTH draws a nonce and goes out; nothing else changes. -/
theorem State.challengeAuth_shows (s : State) (q : List Byte) : ∃ answer, s.challengeAuth q = { s with
    drawn := s.drawn + 1
    out := .doe answer :: s.out } ∧ answer.take 4 = spdmHead 0x12 0x03 0 1 := by
  refine ⟨_, rfl, ?_⟩
  simp only [List.append_assoc]
  exact List.take_left' (by simp [spdmHead])

/-- MEASUREMENTS draws a nonce, goes out, and is kept for a signature to come, or ends what was kept. -/
theorem State.measResponse_shows (s : State) (q : List Byte) : ∃ answer measured, s.measResponse q = { s with
    boot := { s.boot with measured := measured }
    drawn := s.drawn + 1
    out := .doe answer :: s.out } ∧
      answer.take 2 = leBytes 1 0x12 ++ leBytes 1 0x60 ∧ (bitOf (msgByte q 2) 0 = true → measured = []) := by
  have hhead (p1 p2 : Nat) (rest : List Byte) : (spdmHead 0x12 0x60 p1 p2 ++ rest).take 2 = leBytes 1 0x12 ++ leBytes 1 0x60 := by
    rw [spdmHead, List.append_assoc, List.append_assoc]
    exact List.take_left' (by simp)
  unfold State.measResponse
  dsimp only
  split
  · refine ⟨_, _, rfl, ?_, fun _ => rfl⟩
    simp only [List.append_assoc (spdmHead _ _ _ _), hhead]
  · next hplain =>
    refine ⟨_, _, rfl, ?_, fun h => absurd h hplain⟩
    simp only [List.append_assoc (spdmHead _ _ _ _), hhead]

/-- Settles O51: each request passes the responder's checks, or is out of order, and then its own function answers. -/
theorem attestation : Obligations.Attestation := by
  unfold Obligations.Attestation
  intro s q
  refine ⟨exec_getVersion, fun c hc hready hversion hcode hlen hstage => ?_, fun hready hversion hcode hlen hstage => ?_,
    fun hready hversion hcode hlen hstage => ?_, fun hready hversion hcode hlen hstage => ?_,
    fun hready hversion hcode hlen hstage => ?_, fun hready hversion hcode hlen hstage => ⟨fun hid => ?_, fun hid hslot htype => ?_⟩,
    fun hready hversion hcode hlen hstage hsigned hid => ?_, fun hready hversion hcode hlen hstage hid hop => ?_,
    fun toB image hpower hrecovery => ?_, fun hpower => ?_⟩
  · simp only [List.mem_cons, List.not_mem_nil, or_false] at hc
    rcases hc with rfl | rfl | rfl | rfl | rfl | rfl
    · exact congrArg Host.Outcome.next (State.onSpdm_of_early hready hversion hcode hlen _ hstage)
    · exact congrArg Host.Outcome.next (State.onSpdm_of_early hready hversion hcode hlen _ hstage)
    · exact congrArg Host.Outcome.next (State.onSpdm_of_early hready hversion hcode hlen _ hstage)
    · exact congrArg Host.Outcome.next (State.onSpdm_of_early hready hversion hcode hlen _ hstage)
    · exact congrArg Host.Outcome.next (State.onSpdm_of_early hready hversion hcode hlen _ hstage)
    · exact congrArg Host.Outcome.next (State.onSpdm_of_early hready hversion hcode (measurementsLen_le hlen) _ hstage)
  · exact congrArg Host.Outcome.next (State.onSpdm_of_due hready hversion hcode hlen _ hstage)
  · exact congrArg Host.Outcome.next (State.onSpdm_of_due hready hversion hcode hlen _ hstage)
  · exact congrArg Host.Outcome.next (State.onSpdm_of_due hready hversion hcode hlen _ hstage)
  · refine congrArg Host.Outcome.next ((State.onSpdm_of_due hready hversion hcode hlen _ hstage).trans ?_)
    split
    · next h => rw [if_neg (by omega)]
    · next h => rw [if_pos (by omega)]
  · exact congrArg Host.Outcome.next ((State.onSpdm_of_due hready hversion hcode hlen _ hstage).trans (if_pos hid))
  · obtain ⟨answer, heq, hhead⟩ := s.challengeAuth_shows q
    exact ⟨answer, congrArg Host.Outcome.next ((State.onSpdm_of_due hready hversion hcode hlen _ hstage).trans
      ((if_neg (by simp [State.identified, hid])).trans ((if_neg (by omega)).trans heq))), hhead⟩
  · exact congrArg Host.Outcome.next ((State.onSpdm_of_due hready hversion hcode (measurementsLen_le hlen) _ hstage).trans
      (if_pos ⟨hsigned, hid⟩))
  · obtain ⟨answer, measured, heq, hshows⟩ := s.measResponse_shows q
    exact ⟨answer, measured, congrArg Host.Outcome.next ((State.onSpdm_of_due hready hversion hcode (measurementsLen_le hlen) _
      hstage).trans ((if_neg (by simp [State.identified, hid])).trans ((if_neg (by tauto)).trans heq))), hshows⟩
  · exact congrArg Host.Outcome.next (if_neg (by simp [hpower, hrecovery]))
  · exact congrArg Host.Outcome.next (if_neg (by simp [hpower]))

end Sys2Proof.Machine
end

section
/-! SUPPORT. Signed updates and health records in the flash devices (R515 to R518). -/

namespace Sys2Proof.Machine

/-! ### FLASH_WRITE -/

section
variable {s s1 s3 : State} {r j : Nat} {v : HostView} {d : Desc} {header : List Byte}
  (hfree : s.boot.write = none) (hturn : s.firstFetched r j 0x0A 0x0A = true) (hd : s.ready r j 0x0A = some d)
  (hunit : s.host.stuck d.unit = false) (heval : d.eval = true → s.evalOn = true) (hjudge : s.judge .image (d.n 0 8) (d.n 8 4) = none)
  (hopen : s.localOpen (d.n 0 8) (d.n 8 4) = true) (hsome : d.n 8 4 ≠ 0) (hfits : d.n 8 4 ≤ 2 ^ 24)
  (hheader : s.readStruct v (d.n 0 8) (min (d.n 8 4) 64) = (.ok header, s1))
  (hnewer : s1.regs.getAt Reg.BOOT_SEQ_SEQ (s1.regs.get Reg.BOOT_STATUS_SLOT) < imgSeq header)
include hfree hturn hd hunit heval hjudge hopen hsome hfits hheader hnewer

omit hfree hturn hd hunit heval hjudge hopen hheader hnewer in
/-- The lengths and flags that are refused. -/
theorem Desc.flashForm (flags : Nat) (hflags : flags ≤ 1) : ¬ (d.n 8 4 = 0 ∨ 2 ^ 24 < d.n 8 4 ∨ 2 ≤ flags) := by
  rintro (h | h | h) <;> omega

/-- With VERIFY_ONLY the image is read and checked where it stands. -/
theorem exec_flashWrite_verify {rest : List Byte} (hflags : d.n 12 1 = 1)
    (hrest : s1.readStruct v (d.n 0 8 + 64) (d.n 8 4 - 64) = (.ok rest, s3)) : exec (.flashWrite r j v) s =
      .next (s3.complete r j (reasonStatus (imageReason false s3.counter (header ++ rest))) 0
        (imageReason false s3.counter (header ++ rest))) := by
  show execFlashWrite r j v s = _
  rw [execFlashWrite, if_neg (by simp [hfree, hturn]), State.onDesc_of_ready hd hunit heval]
  have hform := Desc.flashForm hsome hfits 1 (by decide)
  simp only [hjudge, hopen, hform, hheader, Nat.not_le.2 hnewer, hflags, hrest, reduceCtorEq, if_true, if_false]

/-- Otherwise the inactive area is erased, and the whole image programmed once it is read. -/
theorem exec_flashWrite_program {rest : List Byte} (hflags : d.n 12 1 = 0)
    (hrest : s1.eraseImage.readStruct v (d.n 0 8 + 64) (d.n 8 4 - 64) = (.ok rest, s3)) : exec (.flashWrite r j v) s =
      .next { s3.take r j with boot := { s3.boot with write := some ⟨r, j, header ++ rest⟩ } } := by
  show execFlashWrite r j v s = _
  rw [execFlashWrite, if_neg (by simp [hfree, hturn]), State.onDesc_of_ready hd hunit heval]
  have hform := Desc.flashForm hsome hfits 0 (by decide)
  simp only [hjudge, hopen, hform, hheader, Nat.not_le.2 hnewer, hflags, hrest, reduceCtorEq, Nat.zero_ne_one, if_false]
  rfl

theorem exec_flashWrite_unread {e : Nat × Nat} (hflags : d.n 12 1 = 0)
    (hrest : s1.eraseImage.readStruct v (d.n 0 8 + 64) (d.n 8 4 - 64) = (.error e, s3)) : exec (.flashWrite r j v) s =
      .next (s3.complete r j e.1 e.2 0) := by
  show execFlashWrite r j v s = _
  rw [execFlashWrite, if_neg (by simp [hfree, hturn]), State.onDesc_of_ready hd hunit heval]
  have hform := Desc.flashForm hsome hfits 0 (by decide)
  simp only [hjudge, hopen, hform, hheader, Nat.not_le.2 hnewer, hflags, hrest, reduceCtorEq, Nat.zero_ne_one, if_false]

end

theorem State.eraseImage_b {s : State} (h : s.regs.get Reg.BOOT_STATUS_SLOT = 0) :
    s.eraseImage = { s with boot := { s.boot with flashB := { s.boot.flashB with image := [] } } } := by
  rw [State.eraseImage, State.inactiveB, h]
  rfl

theorem State.eraseImage_a {s : State} (h : s.regs.get Reg.BOOT_STATUS_SLOT ≠ 0) :
    s.eraseImage = { s with boot := { s.boot with flashA := { s.boot.flashA with image := [] } } } := by
  rw [State.eraseImage, State.inactiveB, beq_false_of_ne h]
  rfl

/-- The inactive device takes an image that passes every check; the two devices are as they were when it does not. -/
theorem exec_flashWriteDone {s : State} {w : FlashJob} (hw : s.boot.write = some w) :
    let k := imageReason false s.counter w.image
    let toB := s.regs.get Reg.BOOT_STATUS_SLOT = 0
    exec (.flashWriteDone true) s = .next (({ s with boot := { s.boot with
      write := none
      flashA := if k = 0 ∧ ¬ toB then { s.boot.flashA with image := w.image } else s.boot.flashA
      flashB := if k = 0 ∧ toB then { s.boot.flashB with image := w.image } else s.boot.flashB } }).complete w.ring
        w.index (if k = 0 then 0x0000 else reasonStatus k) 0 k) := by
  intro k toB
  have hstatus : (if k = 0 then 0x0000 else reasonStatus k) = reasonStatus k := by
    split
    · next h => rw [h, reasonStatus, if_pos rfl]
    · rfl
  show execFlashWriteDone true s = _
  rw [execFlashWriteDone, hw, hstatus]
  refine congrArg (fun t : State => Host.Outcome.next (t.complete w.ring w.index (reasonStatus k) 0 k)) ?_
  by_cases hk : k = 0
  · refine (if_pos hk).trans ?_
    by_cases hb : toB
    · simp [State.inactiveB, BootSt.setImage, hk, hb, show s.regs.get Reg.BOOT_STATUS_SLOT = 0 from hb]
    · simp [State.inactiveB, BootSt.setImage, hk, hb, show s.regs.get Reg.BOOT_STATUS_SLOT ≠ 0 from hb]
  · refine (if_neg hk).trans ?_
    simp [hk]

/-! ### Health records -/

theorem length_flatMap_range (n m : Nat) (f : Nat → List Byte) (h : ∀ k, (f k).length = m) :
    ((List.range n).flatMap f).length = n * m := by
  simp [List.length_flatMap, h]

/-- What is before a record's checksum. -/
theorem State.healthRecord_eq (s : State) (seq : Nat) : ∃ body, body.length = 4088 ∧
    s.healthRecord seq = body ++ leBytes 8 (crc64 body) := by
  refine ⟨_, ?_, rfl⟩
  simp only [List.length_append, leBytes_length, List.length_replicate, length_flatMap_range _ 1 _ fun _ => leBytes_length _ _,
    length_flatMap_range _ 8 _ fun _ => leBytes_length _ _, length_flatMap_range _ 520 _ fun _ => leBytes_length _ _]

theorem State.healthRecord_ok (s : State) (seq : Nat) : healthOk (s.healthRecord seq) = true := by
  obtain ⟨body, hlen, heq⟩ := s.healthRecord_eq seq
  have hcrc : imgNat (body ++ leBytes 8 (crc64 body)) 4088 8 = crc64 body := by
    rw [imgNat, List.drop_left' hlen, List.take_of_length_le (by simp), leNat_leBytes_of_lt]
    exact crc64_lt body
  rw [healthOk, heq, List.take_left' hlen, hcrc]
  simp [hlen]

/-- Settles O36: a FLASH_WRITE that passes its checks goes one of three ways, and a health record's checksum is that of its body. -/
theorem flashUpdates : Obligations.FlashUpdates := by
  unfold Obligations.FlashUpdates
  intro s
  refine ⟨fun r j v d header s1 hfree hturn hd hunit heval hjudge hopen hsome hfits hheader hnewer => ⟨?_, ?_, ?_, ?_, ?_⟩,
    fun w hw => ⟨?_, exec_flashWriteDone hw⟩, fun hpower hdue hfree => ?_⟩
  · exact fun rest s3 hflags hrest =>
      exec_flashWrite_verify hfree hturn hd hunit heval hjudge hopen hsome hfits hheader hnewer hflags hrest
  · exact fun rest s3 hflags hrest =>
      exec_flashWrite_program hfree hturn hd hunit heval hjudge hopen hsome hfits hheader hnewer hflags hrest
  · exact fun e s3 hflags hrest =>
      exec_flashWrite_unread hfree hturn hd hunit heval hjudge hopen hsome hfits hheader hnewer hflags hrest
  · exact State.eraseImage_b
  · exact State.eraseImage_a
  · show execFlashWriteDone false s = _
    rw [execFlashWriteDone, hw]
    rfl
  · have hdue' : s.healthDue = true := by
      simpa [State.healthDue, hpower] using hdue
    have htarget : s.healthTarget = s.boot.healthToB := by simp [State.healthTarget, hfree]
    refine ⟨_, congrArg Host.Outcome.next (if_pos hdue'), rfl, rfl, congrArg (!·) htarget, RegFile.get_set_self _ _ _ (by decide),
      fun hA => ?_⟩
    have hA' : s.healthTarget = false := htarget.trans hA
    rw [State.writeHealth, if_neg (by decide), hA']
    exact ⟨rfl, rfl, _, _, rfl, s.healthRecord_ok _⟩

end Sys2Proof.Machine
end

section
/-! SUPPORT. The commit gate (R468 to R473): heartbeats, lost parties, votes and decisions. -/

namespace Sys2Proof.Machine

/-! ### Messages to several modules -/

/-- One message to each of a list of modules. -/
theorem State.eachCtrl_eq {α : Type} (s : State) (l : List α) (rank : α → Nat) (data : List Byte) :
    s.each l (fun s p => s.ctrl (rank p) data) =
      { s with net := { s.net with ctrl := s.net.ctrl ++ l.map fun p => (rank p, data) } } := by
  induction l generalizing s with
  | nil => simp [State.each]
  | cons p l ih =>
    refine (ih (s.ctrl (rank p) data)).trans ?_
    simp [State.ctrl]

/-- What a heartbeat says. -/
def State.beat (s : State) : List Byte := leBytes 1 CT.heartbeat ++ leBytes 3 0 ++ leBytes 4 s.rank

/-- Control messages that wait to be sent. -/
def State.addCtrl (s : State) (l : List (Nat × List Byte)) : State := { s with net := { s.net with ctrl := s.net.ctrl ++ l } }

theorem exec_heartbeatSend_parent {s : State} {p : Nat} (hon : s.enabled = true) (hp : s.gateParent = some p) :
    exec .heartbeatSend s = .next (s.addCtrl ((p, s.beat) :: s.gate.children.map fun c => (c.rank, s.beat))) := by
  show execHeartbeatSend s = _
  rw [execHeartbeatSend, if_neg (by simp [hon]), hp]
  refine congrArg Host.Outcome.next ((State.eachCtrl_eq (s.ctrl p s.beat) s.gate.children Party.rank s.beat).trans ?_)
  simp [State.ctrl, State.addCtrl]

theorem exec_heartbeatSend_root {s : State} (hon : s.enabled = true) (hp : s.gateParent = none) :
    exec .heartbeatSend s = .next (s.addCtrl (s.gate.children.map fun c => (c.rank, s.beat))) := by
  show execHeartbeatSend s = _
  rw [execHeartbeatSend, if_neg (by simp [hon]), hp]
  exact congrArg Host.Outcome.next (State.eachCtrl_eq s s.gate.children Party.rank s.beat)

/-! ### Losing a party -/

theorem exec_gatePartyLost_child {s : State} {r : Nat} {p : Party} (hon : s.enabled = true) (hparent : s.gateParent ≠ some r)
    (hp : s.child r = some p) : exec (.gatePartyLost r) s =
      .next (if p.heard + 8000000 ≤ s.now ∧ s.absentNow r = false then s.partyLost r else s) := by
  show execGatePartyLost r s = _
  rw [execGatePartyLost, if_neg (by simp [hon]), if_neg hparent, hp]

theorem exec_gatePartyLost_unheard {s : State} {r : Nat} (hon : s.enabled = true) (hparent : s.gateParent ≠ some r)
    (hr : s.child r = none) : exec (.gatePartyLost r) s =
      .next (if s.unheard = true ∧ s.gate.since + 8000000 ≤ s.now ∧ r ≠ s.rank ∧ r ≠ s.parentRank then s.missChild r
        else s) := by
  show execGatePartyLost r s = _
  rw [execGatePartyLost, if_neg (by simp [hon]), if_neg hparent, hr]

theorem State.partyLost_child {s : State} {r : Nat} {p : Party} (hparent : s.gateParent ≠ some r) (hp : s.child r = some p)
    (hlost : p.lost = false) : s.partyLost r = (s.setChild { p with lost := true }).blame 4 r := by
  rw [State.partyLost, if_neg hparent, hp]
  exact if_neg (by simp [hlost])

theorem State.missChild_present {s : State} {r : Nat} (hpresent : s.absentNow r = false) : s.missChild r =
    ({ s with gate := { s.gate with children := s.gate.children ++ [(⟨r, s.now, true, 0, 0, false⟩ : Party)] } }).blame 4 r := by
  rw [State.missChild, hpresent]
  rfl

/-- The gate of a module whose parent is lost. -/
def State.orphaned (s : State) : State := s.setGate { s.gate with
  parentLost := true
  parentHeard := s.now
  actRoot := s.gate.actRoot || s.regs.flag Reg.SAF_GATE_CTL_ALT_ROOT }

theorem exec_gatePartyLost_parent {s : State} {r : Nat} (hon : s.enabled = true) (hparent : s.gateParent = some r)
    (hsilent : s.gate.parentHeard + 8000000 ≤ s.now) (hlost : s.gate.parentLost = false) :
    exec (.gatePartyLost r) s = .next s.orphaned.revote := by
  show execGatePartyLost r s = _
  rw [execGatePartyLost, if_neg (by simp [hon]), if_pos hparent, if_pos hsilent, State.partyLost, if_pos hparent, if_pos hlost]
  rfl

/-! ### Not clean -/

/-- The registers that tell who this module is in the gate tree. -/
def Reg.gateFields : List Field := [Reg.SAF_GATE_CTL_ROOT, Reg.SAF_GATE_CTL_PARENT, Reg.SAF_GATE_CTL_ALT_ROOT, Reg.SAF_GATE_CTL_BACKUP]

section
variable {s t : State} (hgate : t.gate = s.gate) (hregs : ∀ f ∈ Reg.gateFields, t.regs.get f = s.regs.get f)
include hgate hregs

theorem State.isRoot_congr : t.isRoot = s.isRoot := by
  rw [State.isRoot, State.isRoot, RegFile.flag, hregs _ (by simp [Reg.gateFields]), hgate, RegFile.flag]

theorem State.gateParent_congr : t.gateParent = s.gateParent := by
  rw [State.gateParent, State.gateParent, State.isRoot_congr hgate hregs, RegFile.flag, RegFile.flag,
    hregs Reg.SAF_GATE_CTL_PARENT (by simp [Reg.gateFields]), hregs Reg.SAF_GATE_CTL_ALT_ROOT (by simp [Reg.gateFields]),
    hregs Reg.SAF_GATE_CTL_BACKUP (by simp [Reg.gateFields]), hgate]

end

/-- SAF_STATUS shows why a module is not clean, and the event is posted. -/
def State.unclean (s : State) (reason : Nat) : State :=
  ((s.setReg Reg.SAF_STATUS_VOTE 2).setReg Reg.SAF_STATUS_REASON reason).event 6 St.commitBlocked 0 reason

section
variable (s : State) (reason : Nat)

theorem State.unclean_get {g : Field} (hg : ∀ f ∈ [Reg.SAF_STATUS_VOTE, Reg.SAF_STATUS_REASON] ++ Reg.eventFields, f.misses g = true) :
    (s.unclean reason).regs.get g = s.regs.get g := by
  rw [State.unclean, State.event_get _ _ _ _ _ fun f hf => hg f (List.mem_append_right _ hf), s.setReg_eq, State.setRegs_setReg,
    State.setRegs_regs,
    RegFile.get_set_misses _ _ (hg _ (by simp)), RegFile.get_set_misses _ _ (hg _ (by simp))]

theorem State.unclean_vote : (s.unclean reason).regs.get Reg.SAF_STATUS_VOTE = 2 := by
  rw [State.unclean, State.event_get _ _ _ _ _ (by decide), s.setReg_eq, State.setRegs_setReg, State.setRegs_regs,
    RegFile.get_set_misses _ _ (by decide), RegFile.get_set_self _ _ _ (by decide)]
  decide

theorem State.unclean_reason (h : reason < 8) : (s.unclean reason).regs.get Reg.SAF_STATUS_REASON = reason := by
  rw [State.unclean, State.event_get _ _ _ _ _ (by decide)]
  exact (RegFile.get_set_self _ _ _ (by decide)).trans (Nat.mod_eq_of_lt h)

theorem State.unclean_gateFields : ∀ f ∈ Reg.gateFields, (s.unclean reason).regs.get f = s.regs.get f := by
  have hmiss : ∀ g ∈ Reg.gateFields, ∀ f ∈ [Reg.SAF_STATUS_VOTE, Reg.SAF_STATUS_REASON] ++ Reg.eventFields,
    f.misses g = true := by decide
  exact fun g hg => s.unclean_get reason (hmiss g hg)

theorem State.unclean_gate : (s.unclean reason).gate = s.gate := by
  rw [State.unclean, State.event, State.post_eq]
  rfl

theorem State.unclean_net : (s.unclean reason).net = s.net := State.post_net _ _

end

theorem State.blame_eq {s : State} {reason lost : Nat} (hgated : s.gated = true) (hclean : s.regs.get Reg.SAF_STATUS_VOTE ≠ 2) :
    s.blame reason lost = if (s.unclean reason).isRoot then (s.unclean reason).decision false
      else (s.unclean reason).sendVote (voteData 2 reason s.rank 0 (s.regs.get Reg.TRN_STEP_NUM_STEP) lost) := by
  rw [State.blame, if_neg (by simp [hgated, hclean])]
  rfl

/-- A module that is not the root sends its NOT_CLEAN vote to its parent. -/
theorem State.blame_child {s : State} {reason lost p : Nat} (hgated : s.gated = true) (hclean : s.regs.get Reg.SAF_STATUS_VOTE ≠ 2)
    (hroot : s.isRoot = false) (hp : s.gateParent = some p) : s.blame reason lost =
      (s.unclean reason).ctrl p (voteData 2 reason s.rank 0 (s.regs.get Reg.TRN_STEP_NUM_STEP) lost) := by
  have hgate := s.unclean_gate reason
  have hfields := s.unclean_gateFields reason
  rw [State.blame_eq hgated hclean, if_neg (by simp [State.isRoot_congr hgate hfields, hroot]), State.sendVote,
    State.gateParent_congr hgate hfields, hp]

/-! ### Hearing, votes and decisions -/

/-- A message heard changes when a party was heard, or who the children are. -/
theorem State.hear_eq (s : State) (r : Nat) : s.hear r = s.setGate { s.gate with
    parentHeard := (s.hear r).gate.parentHeard
    children := (s.hear r).gate.children } := by
  unfold State.hear
  split
  · rfl
  · split
    · rfl
    · split <;> rfl

theorem State.hear_decidable (s : State) (r n : Nat) : (s.hear r).decidable n = s.decidable n := by
  rw [State.hear_eq]
  rfl

theorem State.hear_decided (s : State) (r : Nat) : (s.hear r).gate.decided = s.gate.decided := by
  rw [State.hear_eq]
  rfl

theorem exec_voteReceive {s : State} {l : Nat} {a : Arrived} (ha : s.hasCtrl l CT.vote a) :
    exec (.voteReceive l) s = .next ((s.consume l a).takeVote a.pkt.src a.pkt.data) :=
  congrArg Host.Outcome.next (State.onCtrl_of ha _)

/-- Votes of another step, and those that come after the decision, are discarded. -/
theorem State.takeVote_stale {s : State} {r : Nat} {data : List Byte}
    (h : (s.hear r).decidable (Vote.parse data).step = false ∨ (s.hear r).gate.decided = true) : s.takeVote r data = s.hear r := by
  rw [State.hear_decidable, State.hear_decided] at h
  rw [State.takeVote, if_pos h]

section
variable {s : State} {r : Nat} {data : List Byte} {p : Party} (hdue : (s.hear r).decidable (Vote.parse data).step = true)
  (hopen : (s.hear r).gate.decided = false) (hp : (s.hear r).child r = some p)
include hdue hopen hp

/-- A vote of the step in progress from a child. -/
theorem State.takeVote_open : s.takeVote r data =
    let v := Vote.parse data
    let s0 := s.hear r
    if v.clean = false then (if s0.isRoot then s0.decision false else s0.sendVote data)
    else if s0.isRoot then
      (s0.setChild { p with
        vote := if v.sender = r then 1 else p.vote
        covered := p.covered + v.covered }).tryGate
    else if p.adopted ∨ v.sender ≠ r then s0.sendVote data
    else (s0.setChild { p with
        vote := 1
        covered := v.covered }).tryGate := by
  rw [State.hear_decidable] at hdue
  rw [State.hear_decided] at hopen
  rw [State.takeVote, if_neg (by simp [hdue, hopen]), hp]

theorem State.takeVote_unclean (hv : (Vote.parse data).clean = false) :
    s.takeVote r data = if (s.hear r).isRoot then (s.hear r).decision false else (s.hear r).sendVote data :=
  (State.takeVote_open hdue hopen hp).trans (if_pos hv)

theorem State.takeVote_clean (hv : (Vote.parse data).clean = true) (hroot : (s.hear r).isRoot = true)
    (hsender : (Vote.parse data).sender = r) : s.takeVote r data = ((s.hear r).setChild { p with
      vote := 1
      covered := p.covered + (Vote.parse data).covered }).tryGate := by
  rw [State.takeVote_open hdue hopen hp]
  dsimp only
  rw [if_neg (by simp [hv]), if_pos hroot, if_pos hsender]

end

theorem exec_decisionReceive {s : State} {l : Nat} {a : Arrived} (ha : s.hasCtrl l CT.decision a) :
    let s0 := (s.consume l a).hear a.pkt.src
    exec (.decisionReceive l) s = .next (if s0.decidable (leNat ((a.pkt.data.drop 8).take 8)) = false ∨ s0.gate.decided = true then s0
      else s0.decision (leNat ((a.pkt.data.drop 1).take 1) == 1)) :=
  congrArg Host.Outcome.next (State.onCtrl_of ha _)

/-- A decision, told to the children and recorded. -/
def State.told (s : State) (commit : Bool) : State :=
  let s1 := s.addCtrl (s.gate.children.map fun p => (p.rank, decisionData commit s.stepNumber))
  { s1 with gate := { s1.gate with
    decided := true
    refused := !commit } }

theorem State.decision_eq (s : State) (commit : Bool) : s.decision commit =
    if commit ∨ s.replaying = true then
      (if s.stepState = 4 then (s.told commit).setReg Reg.TRN_STEP_STATUS_STATE 5 else s.told commit)
    else if s.abortable then (s.told commit).beginAbort 1 else s.told commit := by
  rw [State.decision, State.eachCtrl_eq]
  rfl

/-- COMMIT, and any decision on a replay, takes GATE to COMMITTING. -/
theorem State.decision_at_gate {s : State} {commit : Bool} (hpass : commit = true ∨ s.replaying = true) (hgate : s.stepState = 4) :
    s.decision commit = (s.told commit).setReg Reg.TRN_STEP_STATUS_STATE 5 := by
  rw [State.decision_eq, if_pos hpass, if_pos hgate]

theorem State.stepState_setReg (s : State) {v : Nat} (h : v < 8) :
    (s.setReg Reg.TRN_STEP_STATUS_STATE v).stepState = v :=
  (RegFile.get_set_self _ _ _ (by decide)).trans (Nat.mod_eq_of_lt h)

theorem exec_isolationTimeout {s : State} {t : Nat} (ht : s.gate.isolatedSince = some t) : exec .isolationTimeout s =
    .next (if s.now < t + 10000000 ∨ s.gate.decided = true ∨ s.abortable = false then s else s.beginAbort 1) := by
  show execIsolationTimeout s = _
  rw [execIsolationTimeout, ht]

/-- Settles O56: every message and every loss takes one branch of the gate, and a decision only tells the children, records itself
and moves the step. -/
theorem commitGate : Obligations.CommitGate := by
  unfold Obligations.CommitGate
  intro s l
  refine ⟨fun p hon hp hnone => ?_, fun p hon hp => ⟨_, exec_heartbeatSend_parent hon hp, rfl, rfl, rfl, rfl⟩,
    fun hon hp => ⟨_, exec_heartbeatSend_root hon hp, rfl, rfl, rfl, rfl⟩,
    fun r p hon hparent hp hpresent => ⟨fun hsilent hlost => ?_, fun hheard => ?_⟩,
    fun r hon hparent hr hunheard hself hother => ⟨fun hsilent hpresent => ?_, fun hearly => ?_⟩,
    fun r hon hparent hsilent hlost => ⟨_, exec_gatePartyLost_parent hon hparent hsilent hlost, rfl, rfl, fun halt => ?_, rfl, rfl⟩,
    fun reason lost hgated hclean hreason hroot p hp => ⟨_, State.blame_child hgated hclean hroot hp, ?_, ?_, ?_⟩,
    fun a ha => ⟨fun hother => ?_, fun hdue hopen hchild hv => ?_, fun p hdue hopen hp hv hroot hsender => ?_⟩,
    fun a ha => ⟨fun hother => ?_, fun hdue hopen => ?_⟩, fun hgate => ?_, fun hearly => ?_, fun hreplay hgate => ?_,
    fun hgate hdecided hreplay => ?_, fun t ht hopen habort => ⟨fun hlate => ?_, fun hearly => ?_⟩⟩
  · rw [exec_heartbeatSend_parent hon hp, hnone]
    rfl
  · rw [exec_gatePartyLost_child hon hparent hp, if_pos ⟨hsilent, hpresent⟩, State.partyLost_child hparent hp hlost]
  · rw [exec_gatePartyLost_child hon hparent hp, if_neg (by omega)]
  · rw [exec_gatePartyLost_unheard hon hparent hr, if_pos ⟨hunheard, hsilent, hself, hother⟩, State.missChild_present hpresent]
  · rw [exec_gatePartyLost_unheard hon hparent hr, if_neg (by omega)]
  · simp [State.isRoot, State.orphaned, State.setGate, halt]
  · exact s.unclean_vote reason
  · exact s.unclean_reason reason hreason
  · exact congrArg (fun n : NetSt => n.ctrl ++ [(p, voteData 2 reason s.rank 0 (s.regs.get Reg.TRN_STEP_NUM_STEP) lost)])
      (s.unclean_net reason)
  · rw [exec_voteReceive ha, State.takeVote_stale (.inl hother)]
  · obtain ⟨p, hp⟩ := Option.isSome_iff_exists.1 hchild
    rw [exec_voteReceive ha, State.takeVote_unclean hdue hopen hp hv]
    exact ⟨fun hroot => by rw [if_pos hroot], fun hroot => by rw [if_neg (by simp [hroot])]⟩
  · rw [exec_voteReceive ha, State.takeVote_clean hdue hopen hp hv hroot hsender]
  · rw [exec_decisionReceive ha, if_pos (.inl hother)]
  · rw [exec_decisionReceive ha, if_neg (by simp [hdue, hopen])]
  · rw [State.decision_at_gate (.inl rfl) hgate]
    exact ⟨State.stepState_setReg _ (by decide), rfl, rfl⟩
  · rw [State.decision_eq, if_pos (.inl rfl), if_neg (by omega)]
    rfl
  · rw [State.decision_at_gate (.inr hreplay) hgate]
    exact ⟨State.stepState_setReg _ (by decide), rfl⟩
  · rw [State.tryGate, if_neg (by simp [hgate]), if_pos hdecided, if_pos hreplay]
  · rw [exec_isolationTimeout ht, if_neg (by simp [hopen, habort, hlate])]
  · rw [exec_isolationTimeout ht, if_pos (.inl hearly)]

end Sys2Proof.Machine
end

section
/-! SUPPORT. Spares, snapshots and parity (R477 to R497). -/

namespace Sys2Proof.Machine

/-! ### The health monitor -/

theorem riskOf_bounds (scores : List Nat) : riskOf scores ≤ 7 ∧ min 7 (scores.foldl max 0) ≤ riskOf scores := by
  unfold riskOf
  omega

/-- What an evaluation of the counts leaves before its event. -/
def State.evaluated (s : State) (samples : List (List Nat)) (lifetime : List Nat) (scores : List Nat) (shown : Nat) : State := { s with
  res := { s.res with
    samples := samples
    lastCounts := s.healthCounts
    sats := 0
    lifetime := lifetime }
  boot := { s.boot with powerSecs := s.boot.powerSecs + 1 }
  regs := (s.regs.set Reg.SAF_HEALTH_RISK (riskOf scores)).set Reg.SAF_HEALTH_SCORES shown }

theorem State.evaluated_risk (s : State) (samples : List (List Nat)) (lifetime scores : List Nat) (shown : Nat) :
    (s.evaluated samples lifetime scores shown).regs.get Reg.SAF_HEALTH_RISK = riskOf scores := by
  have hfits : riskOf scores < 8 := Nat.lt_succ_of_le (riskOf_bounds scores).1
  exact (RegFile.get_set_misses _ _ (by decide)).trans ((RegFile.get_set_self _ _ _ (by decide)).trans (Nat.mod_eq_of_lt hfits))

/-- The level of risk, with its event or without. -/
theorem exec_healthEvaluate (s : State) : ∃ s', exec .healthEvaluate s = .next s' ∧ s'.step = s.step ∧ s'.tiles = s.tiles ∧
    s'.stack = s.stack ∧ s'.regs.get Reg.SAF_HEALTH_RISK = riskOf ((List.range 8).map fun k =>
      riskScore (s.regs.getAt Reg.SAF_HEALTH_THRESH_T k)
        (inputOver ((s.healthSample s.healthCounts :: s.res.samples).take 3600) k)) := by
  refine ⟨_, rfl, ?_⟩
  dsimp only
  split
  · refine ⟨State.post_step _ _, State.post_tiles _ _, State.post_stack _ _, ?_⟩
    rw [State.event_get _ _ _ _ _ (by decide)]
    exact State.evaluated_risk s _ _ _ _
  · exact ⟨rfl, rfl, rfl, State.evaluated_risk s _ _ _ _⟩

/-! ### Absent ranks -/

section
variable {s : State} {r j : Nat} {d : Desc}

/-- The record of an ABSENT. -/
def Desc.absentRec (d : Desc) (r j : Nat) : AbsentRec :=
  ⟨r, j, bitsOf (d.n 0 4) 19 0, bitOf (d.n 0 4) 20, bitOf (d.n 0 4) 21, d.n 4 4 % 2 ^ 20, d.n 8 8, false, d.n 8 8⟩

/-- The ranks that other records hold absent. -/
def State.absentLive (s : State) (d : Desc) : List AbsentRec :=
  (s.res.absent.filter fun b => b.rank != bitsOf (d.n 0 4) 19 0).filter fun b => !b.clear

/-- An ABSENT that waits for its release. -/
def State.absentWaits (s : State) (r j : Nat) (d : Desc) : State :=
  ({ s with res := { s.res with absent := s.res.absent ++ [d.absentRec r j] } }).take r j

variable (hd : s.ready r j 0x2A = some d) (hunit : s.host.stuck d.unit = false) (heval : d.eval = true → s.evalOn = true)
include hd hunit heval

theorem exec_absent : exec (.absent r j) s = .next (
    let live := s.absentLive d
    let rank := bitsOf (d.n 0 4) 19 0
    let clear := bitOf (d.n 0 4) 20
    let spare := d.n 4 4 % 2 ^ 20
    if clear = false ∧ spare ≠ 0xFFFFF ∧ (live.any fun a => a.spare == spare || (a.rank == spare && spare != rank)) = true then
      s.finish r j St.spareNone
    else if clear = false ∧ 64 ≤ (live.map AbsentRec.rank).eraseDups.length then s.finish r j St.paramCode
    else if clear = true ∧ s.fillsItself rank = true then
      (if s.stepState = 0 ∧ s.step.armed.isNone then ((s.take r j).absentNowOn (d.absentRec r j)).renewFills else s)
    else s.absentWaits r j d) :=
  congrArg Host.Outcome.next (State.onDesc_of_ready hd hunit heval)

theorem exec_absent_clear (hclear : bitOf (d.n 0 4) 20 = true) : exec (.absent r j) s = .next (
    if s.fillsItself (bitsOf (d.n 0 4) 19 0) = true then
      (if s.stepState = 0 ∧ s.step.armed.isNone then ((s.take r j).absentNowOn (d.absentRec r j)).renewFills else s)
    else s.absentWaits r j d) := by
  rw [exec_absent hd hunit heval]
  simp [hclear]

theorem exec_absent_waits (hclear : bitOf (d.n 0 4) 20 = false)
    (hfew : ((s.absentLive d).map AbsentRec.rank).eraseDups.length < 64)
    (hspare : d.n 4 4 % 2 ^ 20 = 0xFFFFF ∨ ∀ b ∈ s.absentLive d, b.spare ≠ d.n 4 4 % 2 ^ 20 ∧
      (b.rank = d.n 4 4 % 2 ^ 20 → d.n 4 4 % 2 ^ 20 = bitsOf (d.n 0 4) 19 0)) :
    exec (.absent r j) s = .next (s.absentWaits r j d) := by
  rw [exec_absent hd hunit heval]
  refine congrArg Host.Outcome.next ((if_neg ?_).trans ((if_neg (by omega)).trans (if_neg (by simp [hclear]))))
  rintro ⟨-, hsome, hany⟩
  obtain ⟨b, hb, huses⟩ := List.any_eq_true.1 hany
  obtain ⟨hother, hrank⟩ := (hspare.resolve_left hsome) b hb
  simp only [Bool.or_eq_true, Bool.and_eq_true, beq_iff_eq, bne_iff_ne] at huses
  exact huses.elim hother fun h => h.2 (hrank h.1)

theorem exec_absent_used (hclear : bitOf (d.n 0 4) 20 = false) (hsome : d.n 4 4 % 2 ^ 20 ≠ 0xFFFFF)
    (hused : ∃ b ∈ s.absentLive d, b.spare = d.n 4 4 % 2 ^ 20 ∨
      (b.rank = d.n 4 4 % 2 ^ 20 ∧ d.n 4 4 % 2 ^ 20 ≠ bitsOf (d.n 0 4) 19 0)) :
    exec (.absent r j) s = .next (s.complete r j 0x50D0 0 0) := by
  rw [exec_absent hd hunit heval]
  refine congrArg Host.Outcome.next (if_pos ⟨hclear, hsome, ?_⟩)
  obtain ⟨b, hb, huses⟩ := hused
  refine List.any_eq_true.2 ⟨b, hb, ?_⟩
  simpa only [Bool.or_eq_true, Bool.and_eq_true, beq_iff_eq, bne_iff_ne] using huses

end

/-! ### Fills and marked pieces -/

/-- A fill that has ended: the shards' tags name the step that they hold, and the fill's ABSENT is done. -/
def State.fillEnds (s : State) (a : AbsentRec) : State :=
  let n := (a.first + 2 ^ 64 - 1) % 2 ^ 64
  let s1 := s.each s.shards fun s h => s.stackWrite (s.tagAddr h.id) (clean (tagBytes n (s.sideDigest h (n % 2))))
  State.noteFilling { s1 with res := { s1.res with
    fill := none
    absent := if a.hold = true ∧ a.rank = s.rank then s1.res.absent.erase a else s1.res.absent } }

theorem exec_spareFillDone {s : State} {rank : Nat} {a : AbsentRec} (hfill : s.res.fill = some rank)
    (ha : (s.res.absent.find? fun a => a.active && a.rank == rank && a.spare == s.rank) = some a)
    (hsome : s.res.chains.filter s.receives ≠ []) (hdone : ∀ c ∈ s.res.chains, s.receives c = true → s.chainDone c = true) :
    exec .spareFillDone s = .next ((s.fillEnds a).complete a.ring a.index 0x0000 0 0) := by
  have hclosed : ¬ (s.res.chains.filter s.receives = [] ∨
      (s.res.chains.filter s.receives).any (fun c => !s.chainDone c) = true) := by
    simpa [hsome] using hdone
  show execSpareFillDone s = _
  rw [execSpareFillDone, hfill]
  dsimp only
  rw [ha]
  exact congrArg Host.Outcome.next (if_neg hclosed)

section
variable {s : State} {i side : Nat} (hidle : s.stepState < 2 ∨ s.res.repairing = true) (hopen : s.stringsOpen = true)
  (hwhole : s.res.chanMarked = false) (hmarked : s.isMarked side i = true)
include hidle hopen hwhole hmarked

theorem exec_pieceRepair : exec (.pieceRepair i side) s = .next (
    let g := s.pgroup 0
    let s1 := (s.unmark side i).holdForRepair s.res.repairing
    if 2 < (s.lostFor g g.position).length then s1.event 6 St.parityExhausted 0 g.group
    else match s.repaired g side i with
      | some x =>
        ({ s1 with res := { s1.res with decoded := s1.res.decoded.erase x } } : State).putPiece side i x.2 |>.addReg
          Reg.SAF_FILL_STATUS_REPAIRS 1
      | none => if s.repairAsked g side i then s else s.askPiece .fill g g.position side i) := by
  have hturn : ¬ ((2 ≤ s.stepState ∧ s.res.repairing = false) ∨ s.stringsOpen = false) := by
    rcases hidle with h | h
    · simp [hopen, h]
    · simp [hopen, h]
  have hsame : s.expandMarks = s := if_pos hwhole
  show execPieceRepair i side s = _
  rw [execPieceRepair, if_neg hturn, hsame]
  exact congrArg Host.Outcome.next (if_neg (by simp [hmarked]))

end

/-- A decode on its way: the next member that contributes takes it, and the goal keeps what it asked for. -/
theorem State.takeDecode_of {s : State} {h : PartialHead} {bs : List PByte} {g : PGroup}
    (hg : ((List.range 3).map s.pgroup).find? (fun g => g.role != 0 && g.group == h.group) = some g) : s.takeDecode h bs =
    let goal := s.decodeGoal g h.want
    if g.position = goal ∧ NSet.has s.res.asked h.addr = false then s
    else
      let own := s.rolePiece g (h.kind - 8) h.piece
      let out := addScaled bs (rebuildCoeff (s.lostFor g h.want) h.want g.position) own.1
      if g.position ≠ goal then own.2.sendDecode .fill g h (g.position + 1) out
      else
        let s1 := { own.2 with res := { own.2.res with
          asked := NSet.del own.2.res.asked h.addr
          decoded := Tbl.put own.2.res.decoded h.addr out } }
        s1.each (s1.step.colls.filter fun c => !c.due.isEmpty) State.supplyDue := by
  rw [State.takeDecode, hg]

/-! ### Snapshots -/

section
variable {s : State} {r j : Nat} {v : HostView} {d : Desc}

section
variable (hd : s.ready r j 0x28 = some d) (hunit : s.host.stuck d.unit = false) (heval : d.eval = true → s.evalOn = true)
include hd hunit heval

theorem exec_snapshot_refused {e : Nat}
    (he : s.snapshotRefusal (d.n 0 8) (s.snapBytes s.snapSide (bitOf (d.n 12 1) 0)) (4096 * d.n 8 4) = some e) :
    exec (.snapshot r j v) s = .next (s.complete r j e 0 0) := by
  show execSnapshot r j v s = _
  rw [execSnapshot, State.onDesc_of_ready hd hunit heval]
  dsimp only
  rw [he]
  rfl

theorem exec_snapshot_taken
    (he : s.snapshotRefusal (d.n 0 8) (s.snapBytes s.snapSide (bitOf (d.n 12 1) 0)) (4096 * d.n 8 4) = none) :
    exec (.snapshot r j v) s = .next { s.take r j with res := { s.res with snap := s.res.snap ++ [⟨r, j, s.snapNow, false,
      addrWindow (d.n 0 8) == 2 &&
        viewRefuses v (s.hostAddr (addrOffset (d.n 0 8))) (s.snapBytes s.snapSide (bitOf (d.n 12 1) 0)), false⟩] } } := by
  show execSnapshot r j v s = _
  rw [execSnapshot, State.onDesc_of_ready hd hunit heval]
  dsimp only
  rw [he]
  rfl

end

/-- The status of an image whose writes are answered. -/
theorem State.endSnap_eq (s : State) (x : Snap) : s.endSnap x = (s.dropSnap x.ring x.index).complete x.ring x.index
    (if x.refused then 0x4081 else if x.poison then 0x3020 else 0x0000)
    (if x.refused = false ∧ x.poison = true then 16 else 0) 0 := by
  unfold State.endSnap
  cases x.refused
  · cases x.poison <;> rfl
  · rfl

theorem exec_snapshotDone_early {x : Snap} (hx : (s.res.snap.find? fun x => x.ring == r && x.index == j) = some x)
    (hready : x.ready = false) : exec (.snapshotDone r j) s = .next s := by
  show execSnapshotDone r j s = _
  rw [execSnapshotDone, hx]
  exact congrArg Host.Outcome.next (if_pos (.inl hready))

theorem exec_snapshotDone_sent {x : Snap} (hx : (s.res.snap.find? fun x => x.ring == r && x.index == j) = some x)
    (hready : x.ready = true) (hsent : x.sent = true) (hfree : (s.net.txns.any fun t => t.owner == .snapshot r j) = false) :
    exec (.snapshotDone r j) s = .next (s.endSnap x) := by
  show execSnapshotDone r j s = _
  rw [execSnapshotDone, hx]
  dsimp only
  rw [if_neg (by simp [hready, hsent]), if_pos hsent, hx, hfree]
  rfl

section
variable (hd : s.ready r j 0x29 = some d) (hunit : s.host.stuck d.unit = false) (heval : d.eval = true → s.evalOn = true)
  (hnone : s.res.load = none)
include hd hunit heval hnone

theorem exec_snapshotLoad_busy (hbusy : s.stepState ≠ 0 ∨ s.step.armed.isSome = true) :
    exec (.snapshotLoad r j v) s = .next (s.complete r j 0x2053 0 0) := by
  show execSnapshotLoad r j v s = _
  rw [execSnapshotLoad, if_neg (by simp [hnone]), State.onDesc_of_ready hd hunit heval]
  exact congrArg Host.Outcome.next (if_pos hbusy)

section
variable {head : List Byte} {s1 : State} (hidle : s.stepState = 0) (harmed : s.step.armed = none)
  (hlocal : s.localOpen (d.n 0 8) 4096 = true) (hspans : s.spansOpen (s.listSpans 0 ++ s.listSpans 1 ++ s.paritySpans) = true)
  (hjudge : s.judge .image (d.n 0 8) 4096 = none) (hlist0 : s.listRefusal 0 = none) (hlist1 : s.listRefusal 1 = none)
  (hhead : s.readStruct v (d.n 0 8) 4096 = (.ok head, s1))
include hidle harmed hlocal hspans hjudge hlist0 hlist1 hhead

omit hd hunit heval hnone hidle harmed hlocal hspans hhead in
theorem State.loadRefused_eq : (s.judge .image (d.n 0 8) 4096 <|> s.listRefusal 0 <|> s.listRefusal 1) = none := by
  rw [hjudge, hlist0, hlist1]
  rfl

theorem exec_snapshotLoad_other (hcount : leNat ((head.drop 8).take 4) ≠ s1.shardCount) :
    exec (.snapshotLoad r j v) s = .next (s1.complete r j 0x2091 0 0) := by
  show execSnapshotLoad r j v s = _
  have hrefused := State.loadRefused_eq hjudge hlist0 hlist1
  rw [execSnapshotLoad, if_neg (by simp [hnone]), State.onDesc_of_ready hd hunit heval]
  dsimp only
  rw [if_neg (by simp [hidle, harmed]), if_neg (by rw [hlocal, hspans]; decide), hrefused]
  dsimp only
  rw [hhead]
  exact congrArg Host.Outcome.next (if_pos hcount)

theorem exec_snapshotLoad_image {places : List Nat} {s2 : State} (hcount : leNat ((head.drop 8).take 4) = s1.shardCount)
    (hplaces : s1.loadHeads v s1.shards (d.n 0 8 + 4096) = (.ok places, s2)) : exec (.snapshotLoad r j v) s =
      .next (s2.loadImage v r j (d.n 0 8) head places (bitOf (d.n 8 1) 0)) := by
  show execSnapshotLoad r j v s = _
  have hrefused := State.loadRefused_eq hjudge hlist0 hlist1
  rw [execSnapshotLoad, if_neg (by simp [hnone]), State.onDesc_of_ready hd hunit heval]
  dsimp only
  rw [if_neg (by simp [hidle, harmed]), if_neg (by rw [hlocal, hspans]; decide), hrefused]
  dsimp only
  rw [hhead]
  dsimp only
  rw [if_neg (by simp [hcount]), hplaces]

end
end

/-- The image that has come, before its digest is compared. -/
def State.loadEnds (s : State) (n : Nat) : State :=
  let s0 := s.touchStack (s.listSpans (n % 2))
  { s0 with res := { s0.res with load := none } }

theorem exec_snapshotLoadDone {digest : List Byte} {n : Nat} (hload : s.res.load = some (r, j, digest, n)) :
    exec (.snapshotLoadDone r j) s = .next (
      let s1 := s.loadEnds n
      if padTo 32 (s1.stateDigest (n % 2)) = digest then
        ({ s1 with res := { s1.res with
          restored := true
          rebuilt := [] } }).complete r j 0x0000 0 0
      else ((s1.setReg Reg.TRN_COMMITTED_STEP 0).setFlag Reg.TRN_STEP_STATUS_COMMITTED_VALID false).complete r j 0x30B0 0 0) := by
  show execSnapshotLoadDone r j s = _
  rw [execSnapshotLoadDone, hload]
  exact congrArg Host.Outcome.next (if_neg (by simp))

end

/-! ### Parity -/

theorem State.working_of_ready {s : State} {r j op : Nat} {d : Desc} (hd : s.ready r j op = some d) : s.working r j op = none := by
  unfold State.ready at hd
  unfold State.working
  split at hd
  · next d' hdesc =>
    split at hd
    · next h => simp [h.2.1]
    · cases hd
  · cases hd

section
variable {s : State} {r j : Nat} {d : Desc} (hd : s.ready r j 0x2B = some d) (hunit : s.host.stuck d.unit = false)
  (heval : d.eval = true → s.evalOn = true) (hopen : s.stringsOpen = true)
include hd hunit heval hopen

theorem exec_parityInit_busy (hbusy : s.stepState ≠ 0) : exec (.parityInit r j) s = .next (s.complete r j 0x2053 0 0) := by
  show execParityInit r j s = _
  rw [execParityInit]
  dsimp only
  rw [State.working_of_ready hd]
  dsimp only
  rw [State.onDesc_of_ready hd hunit heval, if_neg (by simp [hopen]), if_pos hbusy]
  rfl

/-- A member that holds parity waits for the chain that the first data member starts. -/
theorem exec_parityInit_holder (hidle : s.stepState = 0) {x : Nat × PGroup}
    (hx : (((List.range 3).map fun k => (k, s.pgroup k)).find? fun x => x.2.role != 0 && x.2.group == d.n 0 4) = some x)
    (hrole : x.2.role ≠ 1) : exec (.parityInit r j) s = .next (s.take r j).drain := by
  show execParityInit r j s = _
  rw [execParityInit]
  dsimp only
  rw [State.working_of_ready hd]
  dsimp only
  rw [State.onDesc_of_ready hd hunit heval, if_neg (by simp [hopen]), if_neg (by simp [hidle]), hx]
  dsimp only
  rw [if_neg (by simp [hrole])]

end

theorem exec_parityPartialReceive {s : State} {l : Nat} {a : Arrived} (hopen : s.stringsOpen = true)
    (ha : s.hasPacket l PK.parity a) : exec (.parityPartialReceive l) s =
      .next ((((s.consume l a).sendWack a.pkt.src a.pkt.tid a.pkt.tseq false).notePartial a.pkt).drain) := by
  have hgood : (!a.pkt.good) = false := by simp [ha.2]
  show execParityPartialReceive l s = _
  rw [execParityPartialReceive, if_neg (by simp [hopen]), State.onPacket_of ha, hgood]

theorem exec_parityUpdateDone (s : State) : exec .parityUpdateDone s = .next (
    if s.stepState ≠ 3 ∨ (s.replaying = false ∧ s.updateDone = false) then s
    else (s.setReg Reg.TRN_STEP_STATUS_STATE 4).tryGate) := rfl

/-- Settles O58: each command takes the branch that its descriptor and the module's state choose. -/
theorem sparesSnapshotsAndParity : Obligations.SparesSnapshotsAndParity := by
  unfold Obligations.SparesSnapshotsAndParity
  intro s r j v d
  refine ⟨?_, fun hd hunit heval => ⟨fun hclear hself => ?_, fun hclear hself hidle harmed => ?_, fun hclear hfew hspare => ?_,
      fun hclear hsome hused => ?_⟩, fun rank a hfill ha hsome hdone => ⟨_, exec_spareFillDone hfill ha hsome hdone, rfl⟩,
    fun i side hidle hopen hwhole hmarked => ⟨fun hmany => ?_, fun hfew => ⟨fun x hx => ?_, fun hnone hask => ?_,
      fun hnone hask => ?_⟩⟩, fun h bs k g hg hk => ?_, fun hd hunit heval => ⟨fun e he => exec_snapshot_refused hd hunit heval he,
      fun he => ⟨_, _, exec_snapshot_taken hd hunit heval he, rfl, rfl, rfl⟩⟩,
    fun x hx => ⟨exec_snapshotDone_early hx, fun hready hsent hfree => ?_⟩,
    fun hd hunit heval hnone => ⟨exec_snapshotLoad_busy hd hunit heval hnone,
      fun head s1 places s2 hidle harmed hlocal hspans hjudge hlist0 hlist1 hhead => ⟨?_, ?_⟩⟩,
    fun digest n hload => ⟨fun hsame => ?_, fun hother => ?_⟩, exec_parityInit_busy, fun hd hunit heval hopen hidle x hx hrole =>
      exec_parityInit_holder hd hunit heval hopen hidle hx hrole, fun l a => exec_parityPartialReceive,
    fun hstate hdone => ?_, fun hstate hreplay => ?_, fun hstate hreplay hdone => ?_⟩
  · obtain ⟨s', hexec, hstep, htiles, hstack, hrisk⟩ := exec_healthEvaluate s
    exact ⟨s', hexec, hstep, htiles, hstack, riskOf_bounds, hrisk⟩
  · rw [exec_absent_clear hd hunit heval hclear, if_neg (by simp [hself])]
    rfl
  · rw [exec_absent_clear hd hunit heval hclear, if_pos hself, if_pos ⟨hidle, by rw [harmed]; rfl⟩]
    rfl
  · exact exec_absent_waits hd hunit heval hclear hfew hspare
  · exact exec_absent_used hd hunit heval hclear hsome hused
  · rw [exec_pieceRepair hidle hopen hwhole hmarked]
    exact congrArg Host.Outcome.next (if_pos hmany)
  · rw [exec_pieceRepair hidle hopen hwhole hmarked]
    dsimp only
    rw [if_neg (by omega), hx]
  · rw [exec_pieceRepair hidle hopen hwhole hmarked]
    dsimp only
    rw [if_neg (by omega), hnone]
    exact congrArg Host.Outcome.next (if_neg (by simp [hask]))
  · rw [exec_pieceRepair hidle hopen hwhole hmarked]
    dsimp only
    rw [if_neg (by omega), hnone]
    exact congrArg Host.Outcome.next (if_pos hask)
  · subst hk
    rw [State.takeDecode_of hg]
    refine ⟨fun hother => ?_, fun hgoal hask => ?_, fun hgoal hask hcolls => ?_⟩
    · exact (if_neg fun h => hother h.1).trans (if_pos hother)
    · exact if_pos ⟨hgoal, hask⟩
    · refine (if_neg (by simp [hask])).trans ((if_neg (by simp [hgoal])).trans ?_)
      dsimp only
      rw [hcolls]
      rfl
  · rw [exec_snapshotDone_sent hx hready hsent hfree, State.endSnap_eq]
  · exact fun hcount => exec_snapshotLoad_other hd hunit heval hnone hidle harmed hlocal hspans hjudge hlist0 hlist1 hhead hcount
  · exact fun hcount hplaces =>
      exec_snapshotLoad_image hd hunit heval hnone hidle harmed hlocal hspans hjudge hlist0 hlist1 hhead hcount hplaces
  · rw [exec_snapshotLoadDone hload]
    exact congrArg Host.Outcome.next (if_pos hsame)
  · rw [exec_snapshotLoadDone hload]
    exact congrArg Host.Outcome.next (if_neg hother)
  · rw [exec_parityUpdateDone, if_neg (by simp [hstate, hdone])]
  · rw [exec_parityUpdateDone, if_neg (by simp [hstate, hreplay])]
  · rw [exec_parityUpdateDone, if_pos (.inr ⟨hreplay, hdone⟩)]

end Sys2Proof.Machine
end

section
/-! SUPPORT. What a change of the source of time leaves alone. -/

namespace Sys2Proof.Machine

/-- The registers that a change of source, and its events, write. -/
def Reg.timeFields : List Field := Reg.sourceFields ++ Reg.eventFields

/-- A change of source: registers of the time block and the event counts, the event ring with its alert, and the time block's own
state except its clock and the count of PPS edges. -/
structure State.SourceFrame (s t : State) : Prop where
  rest : t = { s with
    regs := t.regs
    host := t.host
    time := t.time
    fab := t.fab
    out := t.out }
  clock : t.time.ns = s.time.ns ∧ t.time.frac = s.time.frac ∧ t.time.pps = s.time.pps
  fab : t.fab = { s.fab with
    alertPulse := t.fab.alertPulse
    alertSince := t.fab.alertSince }
  fields : ∀ g : Field, (∀ f ∈ Reg.timeFields, f.misses g = true) → t.regs.get g = s.regs.get g

theorem State.post_alert (s : State) (e : Ev) : (s.post e).fab = { s.fab with
    alertPulse := (s.post e).fab.alertPulse
    alertSince := (s.post e).fab.alertSince } := by
  unfold State.post
  dsimp only
  split <;> rfl

namespace State.SourceFrame

variable {s t u : State}

theorem refl (s : State) : s.SourceFrame s := ⟨rfl, ⟨rfl, rfl, rfl⟩, rfl, fun _ _ => rfl⟩

theorem trans (h : s.SourceFrame t) (h' : t.SourceFrame u) : s.SourceFrame u where
  rest := by
    rw [h'.rest, h.rest]
  clock := ⟨h'.clock.1.trans h.clock.1, h'.clock.2.1.trans h.clock.2.1, h'.clock.2.2.trans h.clock.2.2⟩
  fab := by
    rw [h'.fab, h.fab]
  fields g hg := (h'.fields g hg).trans (h.fields g hg)

/-- The time block's own state, where its clock does not step. -/
theorem time (h : s.SourceFrame t) (x : TimeSt)
    (hx : x.ns = t.time.ns ∧ x.frac = t.time.frac ∧ x.pps = t.time.pps := by exact ⟨rfl, rfl, rfl⟩) :
    s.SourceFrame { t with time := x } :=
  h.trans ⟨rfl, hx, rfl, fun _ _ => rfl⟩

theorem setReg (h : s.SourceFrame t) {f : Field} (hf : f ∈ Reg.sourceFields) (v : Nat) : s.SourceFrame (t.setReg f v) :=
  h.trans ⟨rfl, ⟨rfl, rfl, rfl⟩, rfl, fun _ hg => t.regs.get_set_misses v (hg f (List.mem_append_left _ hf))⟩

theorem setFlag (h : s.SourceFrame t) {f : Field} (hf : f ∈ Reg.sourceFields) (b : Bool) : s.SourceFrame (t.setFlag f b) :=
  h.setReg hf _

theorem addReg (h : s.SourceFrame t) {f : Field} (hf : f ∈ Reg.sourceFields) (n : Nat) : s.SourceFrame (t.addReg f n) :=
  h.setReg hf _

theorem event (h : s.SourceFrame t) (source status loc detail : Nat) : s.SourceFrame (t.event source status loc detail) := by
  refine h.trans ⟨?_, ?_, t.post_alert _, fun g hg => t.event_get _ _ _ _ fun f hf => hg f (List.mem_append_right _ hf)⟩
  · rw [State.event, State.post_eq]
  · rw [State.event, State.post_eq]
    exact ⟨rfl, rfl, rfl⟩

theorem ite {c : Prop} [Decidable c] (ht : s.SourceFrame t) (hu : s.SourceFrame u) : s.SourceFrame (if c then t else u) := by
  split
  · exact ht
  · exact hu

end State.SourceFrame

section
variable (s : State)

theorem State.setTimeState_sourceFrame (n : Nat) : s.SourceFrame (s.setTimeState n) := (SourceFrame.refl s).setReg (by decide) n

theorem State.setGm_sourceFrame (gm : Bool) (rank hops : Nat) : s.SourceFrame (s.setGm gm rank hops) := by
  have hshown : s.SourceFrame (((s.setFlag Reg.TIM_STATUS_GM gm).setReg Reg.TIM_STATUS_GM_RANK rank).setReg Reg.TIM_STATUS_HOPS hops) :=
    (((SourceFrame.refl s).setFlag (by decide) gm).setReg (by decide) rank).setReg (by decide) hops
  exact ((hshown.addReg (by decide) 1).event 5 _ 0 rank).ite hshown

theorem State.unlockTime_sourceFrame : s.SourceFrame s.unlockTime := by
  unfold State.unlockTime
  split
  · exact (SourceFrame.refl s).time _
  · exact SourceFrame.refl s

theorem State.keepErr_sourceFrame : s.SourceFrame s.keepErr := by
  unfold State.keepErr
  split
  · exact SourceFrame.refl s
  · exact (SourceFrame.refl s).time _

theorem State.lockTime_sourceFrame : s.SourceFrame s.lockTime :=
  (SourceFrame.refl s).ite ((((SourceFrame.refl s).time _).trans (State.setTimeState_sourceFrame _ 2)).setReg (by decide) _)

theorem State.holdover_sourceFrame : s.SourceFrame s.holdover :=
  SourceFrame.ite ((((s.unlockTime_sourceFrame.time _).trans (State.setTimeState_sourceFrame _ 3)).addReg (by decide) 1).event 5 _ 0 0)
    (SourceFrame.refl s)

theorem State.acquiring_sourceFrame {s t : State} (h : s.SourceFrame t) {c : Prop} [Decidable c] :
    s.SourceFrame (if c then t.setTimeState 1 else t) := (h.trans (t.setTimeState_sourceFrame 1)).ite h

theorem State.becomeGm_sourceFrame : s.SourceFrame s.becomeGm := by
  have hacquiring := State.acquiring_sourceFrame (s.keepErr_sourceFrame.trans (s.keepErr.setGm_sourceFrame true s.rank 0))
    (c := (s.keepErr.setGm true s.rank 0).timeState = 0)
  exact hacquiring.ite (hacquiring.trans (State.lockTime_sourceFrame _))

theorem State.follow_sourceFrame (l : Nat) (lost : Bool) : s.SourceFrame (s.follow l lost) := by
  have hacquiring := (s.unlockTime_sourceFrame.trans (State.setTimeState_sourceFrame _ 1)).ite (c := s.acquires l lost = true)
    (SourceFrame.refl s)
  exact ((hacquiring.time _).trans (State.setGm_sourceFrame _ false _ _)).setReg (by decide) _

theorem State.chooseSource_sourceFrame (lost : Bool) : s.SourceFrame (s.chooseSource lost) := by
  unfold State.chooseSource
  split
  · exact s.becomeGm_sourceFrame
  · split
    · exact s.follow_sourceFrame _ lost
    · exact (s.keepErr_sourceFrame.setFlag (by decide) false).trans (State.holdover_sourceFrame _)

theorem State.sourceLost_sourceFrame : s.SourceFrame s.sourceLost :=
  (s.keepErr_sourceFrame.trans (State.holdover_sourceFrame _)).ite (s.chooseSource_sourceFrame true)

theorem State.linkTimeDown_sourceFrame (l : Nat) : s.SourceFrame (s.linkTimeDown l) :=
  (((SourceFrame.refl s).time _).trans (State.sourceLost_sourceFrame _)).ite ((SourceFrame.refl s).time _)

end

end Sys2Proof.Machine
end

section
/-! SUPPORT. The time service (R442, R443, R454, R455, R459): setting the seconds, PTP, and a nanosecond of device time. -/

namespace Sys2Proof.Machine

/-! ### Seconds -/

/-- The seconds are set while the module is not enabled: it acquires, and leads if it may. -/
def State.secondsCome (s : State) : State :=
  let s1 := if s.timeState = 0 then s.setTimeState 1 else s
  if s1.leads then s1.becomeGm else s1

theorem State.secondsCome_sourceFrame (s : State) : s.SourceFrame s.secondsCome := by
  have hacquiring := State.acquiring_sourceFrame (State.SourceFrame.refl s) (c := s.timeState = 0)
  exact (hacquiring.trans (State.becomeGm_sourceFrame _)).ite hacquiring

/-- Where the module leads on nothing and is not FREE, the seconds change no source. -/
theorem State.secondsCome_of_not_leads {s : State} (hstate : s.timeState ≠ 0) (hleads : s.leads = false) : s.secondsCome = s := by
  simp only [State.secondsCome, if_neg hstate, hleads, Bool.false_eq_true, if_false]

theorem State.SourceFrame.flag {s t : State} (h : s.SourceFrame t) {g : Field} (hg : ∀ f ∈ Reg.timeFields, f.misses g = true) :
    t.regs.flag g = s.regs.flag g := by
  rw [RegFile.flag, h.fields g hg, RegFile.flag]

theorem State.SourceFrame.tiles {s t : State} (h : s.SourceFrame t) : t.tiles = s.tiles := by
  rw [h.rest]

/-- A step of device time before the seconds are set. -/
def State.stepped (s : State) (v : Nat) : State :=
  (({ s with time := { s.time with
    ns := v % 2 ^ 64
    frac := 0
    slew := 0 } }).setReg Reg.TIM_SET_TAI_NS v).setFlag Reg.TIM_STATUS_SECONDS_SET true

theorem exec_timSet {s : State} (v : Nat) (hlocked : s.locked = false) : exec (.timSet v) s = .next (s.stepped v).secondsCome :=
  congrArg Host.Outcome.next (if_neg (by simp [hlocked]))

theorem exec_timSet_locked {s : State} (v : Nat) (hlocked : s.locked = true) : exec (.timSet v) s = .next s :=
  congrArg Host.Outcome.next (if_pos hlocked)

theorem State.stepped_regs (s : State) (v : Nat) :
    (s.stepped v).regs = (s.regs.set Reg.TIM_SET_TAI_NS v).setFlag Reg.TIM_STATUS_SECONDS_SET true := rfl

theorem State.stepped_tiles (s : State) (v : Nat) : (s.stepped v).tiles = s.tiles := by
  rw [State.stepped, State.setFlag_tiles, State.setReg_tiles]

theorem State.stepped_time (s : State) (v : Nat) : (s.stepped v).time = { s.time with
    ns := v % 2 ^ 64
    frac := 0
    slew := 0 } := by
  rw [State.stepped, State.setFlag_time, State.setReg_time]

theorem State.stepped_secondsSet (s : State) (v : Nat) : (s.stepped v).regs.flag Reg.TIM_STATUS_SECONDS_SET = true := by
  rw [State.stepped_regs, RegFile.flag_setFlag_self _ _ _ (by decide)]

/-! ### PTP -/

theorem exec_ptpMessage_request {s : State} (seconds utc : Nat) (offset : Int) (hrole : s.regs.get Reg.TIM_SRC_CTL_PTP_ROLE = 1)
    (hstate : s.timeState = 2 ∨ s.timeState = 3) : exec (.ptpMessage seconds utc offset) s = .next (s.emit (.ptp s.ptpStamp)) := by
  show execPtpMessage seconds utc offset s = _
  rw [execPtpMessage, hrole]
  exact congrArg Host.Outcome.next (if_pos hstate)

/-- The network's seconds, taken while the module is not enabled. -/
def State.ptpStepped (s : State) (seconds utc : Nat) : State :=
  ({ s.setReg Reg.TIM_SRC_CTL_TAI_UTC utc with time := { s.time with
    ns := ((seconds + 378691200) * 1000000000 + s.time.ns % 1000000000) % 2 ^ 64 } }).setFlag Reg.TIM_STATUS_SECONDS_SET true

/-- The oscillator is steered by the network where no external reference does. -/
def State.disciplined (s : State) (offset : Int) : State :=
  if s.regs.flag Reg.TIM_SRC_CTL_EXT_EN then s else s.steer offset

theorem exec_ptpMessage_boundary {s : State} (seconds utc : Nat) (offset : Int)
    (hrole : s.regs.get Reg.TIM_SRC_CTL_PTP_ROLE = 2) : exec (.ptpMessage seconds utc offset) s = .next (State.disciplined
      (if s.locked then s.setReg Reg.TIM_SRC_CTL_TAI_UTC utc else (s.ptpStepped seconds utc).secondsCome) offset) := by
  show execPtpMessage seconds utc offset s = _
  rw [execPtpMessage, hrole]
  rfl

section
variable (s : State) (seconds utc : Nat)

theorem State.ptpStepped_regs : (s.ptpStepped seconds utc).regs =
    (s.regs.set Reg.TIM_SRC_CTL_TAI_UTC utc).setFlag Reg.TIM_STATUS_SECONDS_SET true := rfl

theorem State.ptpStepped_tiles : (s.ptpStepped seconds utc).tiles = s.tiles := by
  rw [State.ptpStepped, State.setFlag_tiles]
  exact s.setReg_tiles Reg.TIM_SRC_CTL_TAI_UTC utc

theorem State.ptpStepped_time : (s.ptpStepped seconds utc).time = { s.time with
    ns := ((seconds + 378691200) * 1000000000 + s.time.ns % 1000000000) % 2 ^ 64 } := by
  rw [State.ptpStepped, State.setFlag_time]

/-- Of the registers, the seconds of the network change TAI − UTC and SECONDS_SET. -/
theorem State.ptpStepped_get {g : Field} (hutc : Reg.TIM_SRC_CTL_TAI_UTC.misses g = true)
    (hset : Reg.TIM_STATUS_SECONDS_SET.misses g = true) : (s.ptpStepped seconds utc).regs.get g = s.regs.get g := by
  rw [State.ptpStepped_regs, RegFile.get_setFlag_misses _ _ hset, RegFile.get_set_misses _ _ hutc]

theorem State.ptpStepped_timeState : (s.ptpStepped seconds utc).timeState = s.timeState :=
  s.ptpStepped_get seconds utc (by decide) (by decide)

theorem State.ptpStepped_extEn : (s.ptpStepped seconds utc).secondsCome.regs.flag Reg.TIM_SRC_CTL_EXT_EN =
    s.regs.flag Reg.TIM_SRC_CTL_EXT_EN := by
  rw [(State.secondsCome_sourceFrame _).flag (by decide), RegFile.flag, s.ptpStepped_get _ _ (by decide) (by decide), RegFile.flag]

theorem State.ptpStepped_secondsSet : (s.ptpStepped seconds utc).secondsCome.regs.flag Reg.TIM_STATUS_SECONDS_SET = true := by
  rw [(State.secondsCome_sourceFrame _).flag (by decide), State.ptpStepped_regs, RegFile.flag_setFlag_self _ _ _ (by decide)]

end

theorem State.steer_rest (s : State) (offset : Int) : s.steer offset = { s with time := (s.steer offset).time } := by
  unfold State.steer
  split <;> rfl

theorem State.steer_regs (s : State) (offset : Int) : (s.steer offset).regs = s.regs := by
  rw [State.steer_rest]

theorem State.steer_tiles (s : State) (offset : Int) : (s.steer offset).tiles = s.tiles := by
  rw [State.steer_rest]

/-! ### The time page -/

theorem exec_timePageWrite {s : State} (hvalid : s.regs.flag Reg.TIM_PAGE_VALID = true) :
    let a := s.regs.get Reg.TIM_PAGE_BASE * 4096
    let q := s.time.pageSeq
    exec .timePageWrite s = .next { s with
      out := .hostWrite a (leBytes 4 (q + 2)) false :: .hostWrite (a + 4) s.pageBytes false ::
        .hostWrite a (leBytes 4 (q + 1)) false :: s.out
      time := { s.time with pageSeq := (q + 2) % 2 ^ 32 } } :=
  congrArg Host.Outcome.next (if_neg (by simp [hvalid]))

theorem State.pageBytes_length (s : State) : s.pageBytes.length = 60 := by
  simp [State.pageBytes]

/-! ### A nanosecond -/

/-- Device time and its fraction as one number of units of 2^-32 ns. -/
def TimeSt.units (t : TimeSt) : Nat := t.ns * 2 ^ 32 + t.frac

/-- The part of the slew that a nanosecond moves. -/
def TimeSt.slewNow (t : TimeSt) : Int := if t.slew > 0 then min t.slew slewStep else max t.slew (-(slewStep : Int))

theorem TimeSt.slewNow_natAbs (t : TimeSt) : t.slewNow.natAbs ≤ 42949 := by
  unfold TimeSt.slewNow slewStep
  split <;> omega

/-- Units split into nanoseconds of 64 bits and a fraction. -/
theorem units_split {n : Nat} (h : n < 2 ^ 96) : n / 2 ^ 32 % 2 ^ 64 * 2 ^ 32 + n % 2 ^ 32 = n := by
  rw [Nat.mod_eq_of_lt (Nat.div_lt_of_lt_mul (by simpa only [← Nat.pow_add] using h)), Nat.div_add_mod']

/-- A nanosecond moves device time by one, and the slew within its rate. -/
theorem TimeSt.advance_units {t : TimeSt} (h : t.units + 2 ^ 32 + 42949 < 2 ^ 96) :
    t.units + 2 ^ 32 ≤ t.advance.units + 42949 ∧ t.advance.units ≤ t.units + 2 ^ 32 + 42949 := by
  have hslew := t.slewNow_natAbs
  have heq : t.advance.units = (((t.units + 2 ^ 32 : Nat) : Int) + t.slewNow).toNat := by
    refine units_split ?_
    show (((t.units + 2 ^ 32 : Nat) : Int) + t.slewNow).toNat < 2 ^ 96
    omega
  rw [heq]
  omega

/-- What a nanosecond leaves of a tile: its memory, its registers and where it stands. -/
def Tile.sameWork (t u : Tile) : Prop := t.mem = u.mem ∧ t.g = u.g ∧ t.pc = u.pc

theorem Tile.buildSlot_sameWork (t : Tile) (waits : Nat → Bool) : (t.buildSlot waits).sameWork t := by
  unfold Tile.buildSlot
  split
  · exact ⟨rfl, rfl, rfl⟩
  · split
    · exact ⟨rfl, rfl, rfl⟩
    · split
      · exact ⟨rfl, rfl, rfl⟩
      · split <;> exact ⟨rfl, rfl, rfl⟩

theorem State.chargeIdle_sameWork (s : State) (k : Nat) : (s.chargeIdle.tile k).sameWork (s.tile k) := by
  unfold State.tile State.chargeIdle Tbl.get
  rw [Tbl.find_mapVals]
  cases Tbl.find s.tiles k with
  | none => exact ⟨rfl, rfl, rfl⟩
  | some t =>
    show Tile.sameWork (match s.idleCause k t with
      | some c => (t.charge c).buildSlot s.tableWaits
      | none => t.buildSlot s.tableWaits) t
    split
    · exact Tile.buildSlot_sameWork _ _
    · exact Tile.buildSlot_sameWork _ _

/-- The time outputs change levels and go out. -/
theorem State.timePins_rest (s : State) (before : Nat) : s.timePins before = { s with
    time := { s.time with
      ppsHigh := (s.timePins before).time.ppsHigh
      refHigh := (s.timePins before).time.refHigh }
    out := (s.timePins before).out } := by
  unfold State.timePins
  dsimp only
  split <;> split <;> rfl

/-- The state after a nanosecond, before the current limiter counts. -/
def State.ticked (s : State) : State := ({ s.chargeIdle with
  time := s.time.advance
  net := s.net.advanceMesh }).timePins s.now

theorem State.tick_ticked {s : State} (hpower : s.fab.powered = true) (hlimit : s.fab.limiter = false) : s.tick = s.ticked := by
  have hoff : s.ticked.fab.limiter = false := by
    rw [State.ticked, State.timePins_rest]
    exact hlimit
  exact (if_neg (by simp [hpower])).trans (if_neg (by rw [← State.ticked, hoff]; decide))

theorem State.ticked_units (s : State) : s.ticked.time.units = s.time.advance.units := by
  rw [State.ticked, State.timePins_rest]
  rfl

theorem State.ticked_keeps (s : State) : s.ticked.stack = s.stack ∧ s.ticked.host = s.host ∧ s.ticked.regs = s.regs ∧
    s.ticked.tiles = s.chargeIdle.tiles := by
  rw [State.ticked, State.timePins_rest]
  exact ⟨rfl, rfl, rfl, rfl⟩

/-- Settles O50: the seconds step device time and then choose the source, which keeps the clock; the page's bytes are counted; a
nanosecond moves device time by its own length and a bounded part of the slew. -/
theorem timeService : Obligations.TimeService := by
  unfold Obligations.TimeService
  intro s
  refine ⟨fun v hv hlocked => ?_, fun v hlocked => exec_timSet_locked v hlocked,
    fun hvalid => ⟨exec_timePageWrite hvalid, s.pageBytes_length⟩, fun ns hptm => congrArg Host.Outcome.next (if_pos hptm),
    fun seconds utc offset => ⟨exec_ptpMessage_request seconds utc offset, fun hrole hlocked => ⟨?_, fun hstate hleads hext => ?_⟩,
      fun hrole hlocked hext => ?_⟩, fun hqueue hpower => ?_, fun hqueue hpower hlimit hfrac hfits => ?_⟩
  · have hframe := (s.stepped v).secondsCome_sourceFrame
    obtain ⟨hns, hfrac, -⟩ := hframe.clock
    rw [State.stepped_time] at hns hfrac
    exact ⟨_, exec_timSet v hlocked, hns.trans (Nat.mod_eq_of_lt hv), hfrac,
      (hframe.flag (by decide)).trans (s.stepped_secondsSet v), hframe.tiles.trans (s.stepped_tiles v)⟩
  · have hframe := (s.ptpStepped seconds utc).secondsCome_sourceFrame
    obtain ⟨hns, -, -⟩ := hframe.clock
    have htiles := hframe.tiles.trans (s.ptpStepped_tiles seconds utc)
    have hset := s.ptpStepped_secondsSet seconds utc
    have hext := s.ptpStepped_extEn seconds utc
    rw [State.ptpStepped_time] at hns
    rw [exec_ptpMessage_boundary seconds utc offset hrole, if_neg (by simp [hlocked]), State.disciplined, hext]
    split
    · exact ⟨_, rfl, hset, htiles, fun _ => hns⟩
    · next hoff => exact ⟨_, rfl, by rw [State.steer_regs, hset], by rw [State.steer_tiles, htiles], fun hon => absurd hon hoff⟩
  · have hsame := State.secondsCome_of_not_leads ((s.ptpStepped_timeState seconds utc).trans_ne hstate) hleads
    rw [exec_ptpMessage_boundary seconds utc offset hrole, if_neg (by simp [hlocked]), State.disciplined,
      s.ptpStepped_extEn, hext, hsame, if_neg (by decide), State.ptpStepped]
  · have hkept : (s.setReg Reg.TIM_SRC_CTL_TAI_UTC utc).regs.flag Reg.TIM_SRC_CTL_EXT_EN = false := by
      rw [s.setReg_eq, State.setRegs_regs, RegFile.flag, RegFile.get_set_misses _ _ (by decide)]
      exact hext
    rw [exec_ptpMessage_boundary seconds utc offset hrole, if_pos hlocked, State.disciplined, hkept]
    rfl
  · rw [step, hqueue]
    exact congrArg Host.Outcome.next (if_pos hpower)
  · obtain ⟨hstack, hhost, hregs, htiles⟩ := s.ticked_keeps
    have hclock := TimeSt.advance_units hfits
    rw [← s.ticked_units] at hclock
    rw [step, hqueue]
    refine ⟨_, congrArg Host.Outcome.next (State.tick_ticked hpower hlimit), hstack, hhost, hregs, hclock.1, hclock.2, fun t => ?_⟩
    have hwork := s.chargeIdle_sameWork t
    rwa [State.tile, ← htiles] at hwork

end Sys2Proof.Machine
end

section
/-! SUPPORT. The sources of time (R444, R447 to R449, R452, R457): SYNCs and their stamps, steering, following, and the loss of a
source. -/

namespace Sys2Proof.Machine

/-! ### Instants and flits of a SYNC -/

/-- An instant reads back from its bytes, whatever follows them. -/
theorem instantOf_instantBytes {t : Nat} (h : t < 2 ^ 96) (rest : List Byte) : instantOf (instantBytes t ++ rest) = t := by
  have hns : leNat ((instantBytes t ++ rest).take 8) = t / 2 ^ 32 := by
    rw [instantBytes, List.append_assoc, List.take_left' (leBytes_length 8 _), leNat_leBytes_of_lt (by omega)]
  have hfrac : leNat (((instantBytes t ++ rest).drop 8).take 4) = t % 2 ^ 32 := by
    rw [instantBytes, List.append_assoc, List.drop_left' (leBytes_length 8 _), List.take_left' (leBytes_length 4 _),
      leNat_leBytes_of_lt (by omega)]
  rw [instantOf, hns, hfrac, Nat.div_add_mod']

theorem subStamp_lt (n : Nat) : subStamp n < 2 ^ 32 := by
  unfold subStamp
  omega

theorem Packet.sealed_good (p : Packet) : p.sealed.good = true := beq_self_eq_true _

/-- A flit knows its packet, its channel and its place. -/
theorem Packet.flits_getElem {p : Packet} {vc k : Nat} {f : TxFlit} (h : (p.flits vc)[k]? = some f) :
    f.pkt = p ∧ f.vc = vc ∧ f.idx = k := by
  simp only [Packet.flits, List.getElem?_mapIdx, Option.map_eq_some_iff] at h
  obtain ⟨x, -, rfl⟩ := h
  exact ⟨rfl, rfl, rfl⟩

/-- What goes out of a flit of a SYNC is the flit of the stamped packet. -/
theorem TxFlit.egress_stamped {p : Packet} {vc k t : Nat} {f g : TxFlit} (hkind : p.kind = PK.time) (hf : (p.flits vc)[k]? = some f)
    (hg : ((p.stamped t).flits vc)[k]? = some g) : f.egress t = g.payload := by
  obtain ⟨hpkt, hvc, hidx⟩ := Packet.flits_getElem hf
  rw [TxFlit.egress, hpkt, if_pos hkind, hvc, hidx, hg]
  rfl

/-- The stamp of a SYNC goes on top of the part of a nanosecond that was queued with it. -/
theorem Packet.stamped_instant {p : Packet} {t : Nat} (hlen : 8 ≤ p.data.length) (h : t + instantOf (p.data.drop 8) < 2 ^ 96) :
    instantOf ((p.stamped t).data.drop 8) = t + instantOf (p.data.drop 8) := by
  have hdata : (p.stamped t).data.drop 8 = instantBytes (t + instantOf (p.data.drop 8)) ++ p.data.drop 20 := by
    show (p.data.take 8 ++ instantBytes (t + instantOf (p.data.drop 8)) ++ p.data.drop 20).drop 8 = _
    rw [List.append_assoc, List.drop_left' (by simp [hlen])]
  rw [hdata, instantOf_instantBytes h]

/-! ### SYNC -/

/-- The key and the hops that a SYNC announces. -/
def State.syncKey (s : State) : List Byte :=
  leBytes 1 s.announced.1.prio ++ leBytes 1 s.announced.1.cls ++ leBytes 1 s.announced.2

/-- The bytes before a SYNC's stamps. -/
def State.syncHead (s : State) : List Byte := s.syncKey ++ leBytes 1 0 ++ leBytes 4 s.announced.1.rank

theorem State.syncKey_length (s : State) : s.syncKey.length = 3 := by simp [State.syncKey]

theorem State.syncHead_length (s : State) : s.syncHead.length = 8 := by simp [State.syncHead, State.syncKey_length]

/-- The data of a SYNC. -/
def State.syncData (s : State) (l stamp : Nat) : List Byte :=
  s.syncHead ++ instantBytes (subStamp stamp) ++ instantBytes (s.linkTime l).t1 ++ instantBytes (s.linkTime l).t2 ++
    List.replicate 20 0

def State.syncPacket (s : State) (l stamp : Nat) : Packet :=
  s.packet (s.peerRank l) PK.time 0 0 0 (clean (s.syncData l stamp)) false true

theorem exec_syncSend {s : State} {l : Nat} (stamp : Nat) (hlive : s.linkLive l = true) (hstate : s.timeState ≠ 4) :
    exec (.syncSend l stamp) s = .next (s.setLink l ((s.link l).enqueue VC.time ((s.syncPacket l stamp).flits VC.time))) :=
  congrArg Host.Outcome.next (if_neg (by simp [hlive, hstate]))

section
variable (s : State) (l stamp : Nat)

theorem State.syncPacket_data : (s.syncPacket l stamp).data = s.syncData l stamp := map_fst_clean _

theorem State.syncData_key : (s.syncData l stamp).take 3 = s.syncKey := by
  rw [State.syncData, State.syncHead]
  simp only [List.append_assoc]
  exact List.take_left' s.syncKey_length

theorem State.syncData_instant : instantOf ((s.syncData l stamp).drop 8) = subStamp stamp := by
  rw [State.syncData, List.append_assoc, List.append_assoc, List.append_assoc, List.drop_left' s.syncHead_length,
    instantOf_instantBytes ((subStamp_lt stamp).trans (by decide))]

theorem State.syncData_length : 8 ≤ (s.syncData l stamp).length := by
  simp [State.syncData, State.syncHead_length]

theorem State.syncPacket_stamped {t : Nat} (h : t + stamp % 256 * 2 ^ 24 < 2 ^ 96) :
    instantOf (((s.syncPacket l stamp).stamped t).data.drop 8) = t + stamp % 256 * 2 ^ 24 := by
  have hsub : instantOf ((s.syncPacket l stamp).data.drop 8) = stamp % 256 * 2 ^ 24 := by
    rw [State.syncPacket_data, State.syncData_instant, subStamp]
  rw [Packet.stamped_instant (by rw [State.syncPacket_data]; exact s.syncData_length l stamp) (by rwa [hsub]), hsub]

end

theorem State.ingress_of {s : State} {l : Nat} {a : Arrived} (ha : s.hasPacket l PK.time a) : s.ingress l = a.at_ := by
  rw [State.ingress, ha.1]
  rfl

/-- What a SYNC that has come says: the record of its link, and whether the other end has answered one. -/
structure SyncNews where
  record : LinkTime
  delay : Int
  known : Bool

/-- The stamps of a SYNC, taken in at `t4`, with the asymmetry of its link. -/
def syncNews (b : List Byte) (t4 : Nat) (asym : Int) : SyncNews :=
  let t3 := instantOf (b.drop 8)
  let t1 := instantOf (b.drop 20)
  let t2 := instantOf (b.drop 32)
  let delay : Int := (((t4 : Int) - t1) - ((t3 : Int) - t2)) / 2
  ⟨⟨true, leNat (b.take 1), leNat ((b.drop 1).take 1), leNat ((b.drop 2).take 1), leNat ((b.drop 4).take 4) % 2 ^ 20, t3, t4,
    (t3 : Int) + delay + asym / 2 - t4, 0⟩, delay, t1 != 0⟩

theorem exec_syncReceive {s : State} {l : Nat} {a : Arrived} (stamp : Nat) (ha : s.hasPacket l PK.time a) :
    exec (.syncReceive l stamp) s = .next (
      let news := syncNews a.pkt.data (a.at_ + subStamp stamp) (signedOf 16 (s.regs.getAt Reg.TIM_LINK_ASYM_ASYM_PS l) * 2 ^ 32 / 1000)
      let s1 := (s.consume l a).setLinkTime l news.record
      let s2 := if news.known then s1.setRegAt Reg.TIM_LINK_DELAY_DELAY_PS l (toPs news.delay).toNat else s1
      let s3 := s2.chooseSource false
      if s3.time.parent = some l ∧ news.known then s3.parentSync news.record.offset news.record.cls else s3) := by
  show execSyncReceive l stamp s = _
  rw [execSyncReceive, State.onPacket_of ha, if_neg (by simp [ha.2]), State.ingress_of ha]
  rfl

/-! ### Steering -/

theorem State.steer_locked {s : State} (offset : Int) (h : s.locked = true) :
    s.steer offset = { s with time := { s.time with slew := offset } } := if_pos h

theorem State.steer_units {s : State} {offset : Int} (h : s.locked = false) (hlow : 0 ≤ (s.time.units : Int) + offset)
    (hhigh : (s.time.units : Int) + offset < 2 ^ 96) : ((s.steer offset).time.units : Int) = s.time.units + offset := by
  have htime : (s.steer offset).time = { s.time with
      ns := ((s.time.units : Int) + offset).toNat / 2 ^ 32 % 2 ^ 64
      frac := ((s.time.units : Int) + offset).toNat % 2 ^ 32
      slew := 0 } := congrArg State.time (if_neg (by simp [h]))
  rw [htime, TimeSt.units, units_split (by omega)]
  omega

/-! ### The state of the time block -/

section
variable (s : State)

theorem State.timeState_setTimeState {n : Nat} (h : n < 8) : (s.setTimeState n).timeState = n := by
  rw [State.timeState, State.setTimeState, s.setReg_eq, State.setRegs_regs, RegFile.get_set_self _ _ _ (by decide)]
  exact Nat.mod_eq_of_lt h

theorem State.timeState_setReg {f : Field} (v : Nat) (hf : f.misses Reg.TIM_STATUS_STATE = true) :
    (s.setReg f v).timeState = s.timeState := by
  rw [State.timeState, s.setReg_eq, State.setRegs_regs, RegFile.get_set_misses _ _ hf, State.timeState]

theorem State.timeState_setFlag {f : Field} (b : Bool) (hf : f.misses Reg.TIM_STATUS_STATE = true) :
    (s.setFlag f b).timeState = s.timeState := s.timeState_setReg _ hf

theorem State.setFlag_shows {f : Field} (b : Bool) (hf : f.width ≠ 0) : (s.setFlag f b).regs.flag f = b :=
  s.regs.flag_setFlag_self f b hf

theorem State.timeState_event (source status loc detail : Nat) : (s.event source status loc detail).timeState = s.timeState :=
  s.event_get _ _ _ _ (by decide)

theorem State.time_event (source status loc detail : Nat) : (s.event source status loc detail).time = s.time := by
  rw [State.event, State.post_eq]

/-- A change of grandmaster leaves the time block's state and its own record. -/
theorem State.setGm_keeps (gm : Bool) (rank hops : Nat) :
    (s.setGm gm rank hops).timeState = s.timeState ∧ (s.setGm gm rank hops).time = s.time := by
  have hshown : (((s.setFlag Reg.TIM_STATUS_GM gm).setReg Reg.TIM_STATUS_GM_RANK rank).setReg Reg.TIM_STATUS_HOPS hops).timeState =
      s.timeState := by
    rw [State.timeState_setReg _ _ (by decide), State.timeState_setReg _ _ (by decide), State.timeState_setFlag _ _ (by decide)]
  unfold State.setGm
  dsimp only
  split
  · refine ⟨?_, State.time_event _ _ _ _ _⟩
    rw [State.timeState_event]
    exact (State.timeState_setReg _ _ (by decide)).trans hshown
  · exact ⟨hshown, rfl⟩

/-- A module in LOCKED that enters HOLDOVER. -/
theorem State.holdover_timeState (h : s.timeState = 2) : s.holdover.timeState = 3 := by
  rw [State.holdover, if_pos (.inl h), State.timeState_event]
  exact (State.timeState_setReg _ _ (by decide)).trans (State.timeState_setTimeState _ (by decide))

/-- A module that acquires becomes LOCKED once the oven is warm. -/
theorem State.lockTime_timeState (hwarm : s.boot.ovenWarm = true) (h : s.timeState = 1) : s.lockTime.timeState = 2 := by
  rw [State.lockTime, if_neg (by simp [hwarm, h]), State.timeState_setReg _ _ (by decide),
    State.timeState_setTimeState _ (by decide)]

end

/-! ### A SYNC from the parent -/

/-- A SYNC of a parent that has its seconds sets those of the module. -/
def State.takeSeconds (s : State) (cls : Nat) : State := if cls < 2 then s.setFlag Reg.TIM_STATUS_SECONDS_SET true else s

/-- SYNCs in a row within 20 ns, this one included. -/
def State.nearCount (s : State) (offset : Int) (cls : Nat) : Nat :=
  if within20 offset then (s.takeSeconds cls).time.lockCount + 1 else 0

/-- A SYNC of the parent, steered by. -/
def State.synced (s : State) (offset : Int) (cls : Nat) : State :=
  State.steer { s.takeSeconds cls with time := { (s.takeSeconds cls).time with lockCount := s.nearCount offset cls } } offset

theorem State.takeSeconds_keeps (s : State) (cls : Nat) : (s.takeSeconds cls).timeState = s.timeState ∧
    (s.takeSeconds cls).boot = s.boot ∧ (s.takeSeconds cls).time = s.time := by
  unfold State.takeSeconds
  split
  · exact ⟨s.timeState_setFlag _ (by decide), State.setFlag_boot _ _ _, State.setFlag_time _ _ _⟩
  · exact ⟨rfl, rfl, rfl⟩

theorem State.synced_keeps (s : State) (offset : Int) (cls : Nat) :
    (s.synced offset cls).timeState = s.timeState ∧ (s.synced offset cls).boot = s.boot := by
  obtain ⟨hstate, hboot, -⟩ := s.takeSeconds_keeps cls
  rw [State.synced, State.timeState, State.steer_rest]
  exact ⟨hstate, hboot⟩

theorem State.nearCount_eq {s : State} {offset : Int} (cls : Nat) (hnear : offset.natAbs ≤ 20 * 2 ^ 32) :
    s.nearCount offset cls = s.time.lockCount + 1 := by
  have hwithin : within20 offset = true := decide_eq_true hnear
  obtain ⟨-, -, htime⟩ := s.takeSeconds_keeps cls
  rw [State.nearCount, if_pos hwithin, htime]

/-- While a module acquires, 64 SYNCs in a row within 20 ns make it LOCKED. -/
theorem State.parentSync_acquiring {s : State} (offset : Int) (cls : Nat) (hstate : s.timeState = 1) :
    s.parentSync offset cls = if 64 ≤ s.nearCount offset cls then
      (s.synced offset cls).lockTime else (s.synced offset cls).setReg Reg.TIM_STATUS_ERR_PS
        (min (2 ^ 32 - 1) ((toPs offset).natAbs + hopErr ((s.synced offset cls).regs.get Reg.TIM_STATUS_HOPS))) := by
  have hsynced := (s.synced_keeps offset cls).1.trans hstate
  exact if_pos hsynced

theorem State.parentSync_timeState {s : State} {offset : Int} (cls : Nat) (hstate : s.timeState = 1) (hwarm : s.boot.ovenWarm = true)
    (hnear : offset.natAbs ≤ 20 * 2 ^ 32) :
    (s.parentSync offset cls).timeState = if 64 ≤ s.time.lockCount + 1 then 2 else 1 := by
  obtain ⟨hsame, hboot⟩ := s.synced_keeps offset cls
  rw [State.parentSync_acquiring offset cls hstate, State.nearCount_eq cls hnear]
  split
  · exact State.lockTime_timeState _ (by rw [hboot, hwarm]) (hsame.trans hstate)
  · rw [State.timeState_setReg _ _ (by decide), hsame, hstate]

/-! ### Following -/

section
variable (s : State) (k : Nat) (lost : Bool)

/-- A module that follows a link, before its grandmaster and its bound are shown. -/
def State.followed : State :=
  let s1 := if s.acquires k lost then (s.unlockTime).setTimeState 1 else s
  { s1 with time := { s1.time with
    parent := some k
    gmPrio := (s.linkTime k).prio
    gmCls := (s.linkTime k).cls
    lockCount := if s.time.parent = some k ∧ s.isGm = false then s.time.lockCount else 0 } }

theorem State.follow_eq : s.follow k lost = ((s.followed k lost).setGm false (s.linkTime k).gmRank
    ((s.linkTime k).hops + 1)).setReg Reg.TIM_STATUS_ERR_PS (s.followErr k) := rfl

theorem State.follow_time : (s.follow k lost).time = (s.followed k lost).time := by
  rw [State.follow_eq, State.setReg_time, (State.setGm_keeps _ _ _ _).2]

theorem State.follow_timeState : (s.follow k lost).timeState = if s.acquires k lost then 1 else s.timeState := by
  rw [State.follow_eq, State.timeState_setReg _ _ (by decide), (State.setGm_keeps _ _ _ _).1]
  show State.timeState (if s.acquires k lost then (s.unlockTime).setTimeState 1 else s) = _
  split
  · exact State.timeState_setTimeState _ (by decide)
  · rfl

theorem State.acquires_iff : s.acquires k lost = true ↔ s.timeState = 0 ∨ s.timeState = 3 ∨
    (s.timeState = 2 ∧ lost = false ∧ (s.isGm = true ∨ s.time.parent ≠ some k)) := by
  simp [State.acquires, or_assoc, and_assoc]

end

/-! ### The external reference and the oscillator -/

/-- The loss of the external reference. -/
theorem State.extLoss_shows (s : State) : s.extLoss.regs.flag Reg.TIM_STATUS_EXT_LOCKED = false ∧ s.extLoss.time.pps = 0 ∧
    s.extLoss.time.ns = s.time.ns ∧ (s.regs.flag Reg.TIM_STATUS_EXT_LOCKED = true → s.isGm = true → s.timeState = 2 →
      s.extLoss.timeState = 3) := by
  generalize ht : ({ s with time := { s.time with pps := 0 } } : State).setFlag Reg.TIM_STATUS_EXT_LOCKED false = t
  have hflag : t.regs.flag Reg.TIM_STATUS_EXT_LOCKED = false := by
    rw [← ht, State.setFlag_shows _ _ (by decide)]
  have htime : t.time = { s.time with pps := 0 } := by rw [← ht, State.setFlag_time]
  have hstate : t.timeState = s.timeState := by
    rw [← ht, State.timeState_setFlag _ _ (by decide)]
    rfl
  have heq : s.extLoss = if s.regs.flag Reg.TIM_STATUS_EXT_LOCKED = true ∧ s.isGm = true then t.holdover else t := by
    rw [← ht]
    rfl
  have hframe := t.holdover_sourceFrame
  rw [heq]
  split
  · obtain ⟨hns, -, hpps⟩ := hframe.clock
    rw [htime] at hns hpps
    exact ⟨(hframe.flag (by decide)).trans hflag, hpps, hns, fun _ _ h => t.holdover_timeState (hstate.trans h)⟩
  · next hnot => exact ⟨hflag, by rw [htime], by rw [htime], fun hlocked hgm => absurd ⟨hlocked, hgm⟩ hnot⟩

/-- A PPS edge in its place, the `n`th in a row: device time is steered to it. -/
def State.edge (s : State) (n : Nat) : State :=
  let sec := (s.time.ns + 500000000) / 1000000000 * 1000000000
  ({ s with time := { s.time with pps := n } }).steer (((sec : Int) - s.time.ns) * 2 ^ 32 - s.time.frac)

theorem State.steer_pps (s : State) (offset : Int) : (s.steer offset).time.pps = s.time.pps := by
  unfold State.steer
  split <;> rfl

theorem State.edge_keeps (s : State) (n : Nat) : (s.edge n).time.pps = n ∧ (s.edge n).regs = s.regs ∧ (s.edge n).tiles = s.tiles := by
  rw [State.edge]
  exact ⟨State.steer_pps _ _, State.steer_regs _ _, State.steer_tiles _ _⟩

theorem exec_ppsEdge_late {s : State} {error : Int} (hon : s.regs.flag Reg.TIM_SRC_CTL_EXT_EN = true) (hstate : s.timeState ≠ 4)
    (hlate : 1000000 < error) : exec (.ppsEdge error) s = .next s.extLoss :=
  congrArg Host.Outcome.next ((if_neg (by simp [hon, hstate])).trans (if_pos hlate))

/-- The reference has held for 16 edges: EXT_LOCKED shows, and a module that may lead does. -/
def State.referenced (s : State) : State :=
  let t := s.setFlag Reg.TIM_STATUS_EXT_LOCKED true
  if t.leads then t.becomeGm.lockTime else t

theorem exec_ppsEdge {s : State} {error : Int} (hon : s.regs.flag Reg.TIM_SRC_CTL_EXT_EN = true) (hstate : s.timeState ≠ 4)
    (hnear : error.natAbs ≤ 2000) : exec (.ppsEdge error) s =
      .next (if 16 ≤ s.time.pps + 1 then (s.edge (s.time.pps + 1)).referenced else s.edge (s.time.pps + 1)) := by
  show execPpsEdge error s = _
  rw [execPpsEdge, if_neg (by simp [hon, hstate]), if_neg (by omega), if_pos hnear]
  rfl

theorem State.referenced_shows (s : State) :
    s.referenced.regs.flag Reg.TIM_STATUS_EXT_LOCKED = true ∧ s.referenced.tiles = s.tiles := by
  generalize ht : s.setFlag Reg.TIM_STATUS_EXT_LOCKED true = t
  have hflag : t.regs.flag Reg.TIM_STATUS_EXT_LOCKED = true := by
    rw [← ht, State.setFlag_shows _ _ (by decide)]
  have htiles : t.tiles = s.tiles := by rw [← ht, State.setFlag_tiles]
  have hframe := (t.becomeGm_sourceFrame.trans t.becomeGm.lockTime_sourceFrame).ite (c := t.leads = true) (State.SourceFrame.refl t)
  have heq : s.referenced = if t.leads then t.becomeGm.lockTime else t := by
    rw [← ht]
    rfl
  rw [heq]
  exact ⟨(hframe.flag (by decide)).trans hflag, hframe.tiles.trans htiles⟩

theorem exec_oscillatorFail {s : State} (hstate : s.timeState ≠ 4) :
    let s1 : State := { s.unlockTime with time := { s.unlockTime.time with
      holdErr := s.errPs
      holdSince := s.now } }
    exec .oscillatorFail s = .next (((s1.setTimeState 4).setReg Reg.TIM_STATUS_ERR_PS
      (max s.errPs (100000 + (150 * s.regs.get Reg.TIM_STATUS_HOPS + 100)))).event 5 0x60C0 0 0) :=
  congrArg Host.Outcome.next (if_neg hstate)

/-- The oven is warm. -/
def State.warmed (s : State) : State := { s with boot := { s.boot with ovenWarm := true } }

theorem exec_ovenWarm (s : State) : exec .ovenWarm s =
    .next (if s.timeState ≤ 1 ∧ s.warmed.leads = true then s.warmed.becomeGm else s.warmed) := rfl

theorem exec_syncMissed {s : State} {l : Nat} (hvalid : (s.linkTime l).valid = true) : exec (.syncMissed l) s = .next (
    if (s.linkTime l).missed + 1 < 4 then s.setLinkTime l { s.linkTime l with missed := (s.linkTime l).missed + 1 }
    else
      let s1 := s.setLinkTime l { s.linkTime l with missed := 4, valid := false }
      if s.time.parent = some l then s1.sourceLost else s1) :=
  congrArg Host.Outcome.next (if_neg (by simp [hvalid]))

/-- Settles O49: SYNC by its bytes; each change of source by the state and the record that it writes and by what it leaves. -/
theorem timeSources : Obligations.TimeSources := by
  unfold Obligations.TimeSources
  intro s l
  refine ⟨fun stamp hlive hstate => ⟨s.syncPacket l stamp, exec_syncSend stamp hlive hstate, rfl, rfl, Packet.sealed_good _,
      fun hstamp => ?_, ?_, fun t ht => ⟨Packet.sealed_good _, s.syncPacket_stamped l stamp ht,
        fun k f g hf hg => TxFlit.egress_stamped rfl hf hg⟩⟩,
    fun a stamp ha => ?_, fun offset cls => ⟨fun hlocked => ?_, fun hopen _ hlow hhigh => ?_, fun hstate hwarm hnear => ?_⟩,
    fun k lost => ⟨?_, fun hother => ?_, fun hstate => ?_, fun hlocked hkept hother => ?_, fun hlocked hsame => ?_⟩,
    fun x hx hvalid => ⟨fun hfew => ?_, fun hmany hparent => ?_⟩,
    fun error hon hstate => ⟨exec_ppsEdge_late hon hstate, fun hnear hfew => ?_, fun hnear hmany => ?_⟩,
    fun hon => ⟨_, congrArg Host.Outcome.next (if_pos hon), s.extLoss_shows⟩, exec_oscillatorFail, ?_⟩
  · rw [State.syncPacket_data, State.syncData_instant, subStamp, Nat.mod_eq_of_lt hstamp]
  · rw [State.syncPacket_data, State.syncData_key, State.syncKey]
  · intro b t3 t1 t2 t4 d θ hanswered s1
    have hknown : (syncNews a.pkt.data (a.at_ + subStamp stamp)
        (signedOf 16 (s.regs.getAt Reg.TIM_LINK_ASYM_ASYM_PS l) * 2 ^ 32 / 1000)).known = true :=
      bne_iff_ne.2 fun h => hanswered (congrArg Nat.cast h)
    rw [exec_syncReceive stamp ha]
    simp only [hknown, if_true, and_true]
    rfl
  · rw [State.steer_locked offset hlocked]
    exact ⟨rfl, rfl⟩
  · exact State.steer_units hopen hlow hhigh
  · exact State.parentSync_timeState cls hstate hwarm hnear
  · rw [State.follow_time]
    rfl
  · rw [State.follow_time]
    refine if_neg fun h => ?_
    rcases hother with hgm | hparent
    · simp [h.2] at hgm
    · exact hparent h.1
  · rw [State.follow_timeState, if_pos ((s.acquires_iff k lost).2 (by tauto))]
  · rw [State.follow_timeState, if_pos ((s.acquires_iff k lost).2 (.inr (.inr ⟨hlocked, hkept, hother⟩)))]
  · rw [State.follow_timeState, if_neg fun h => ?_, hlocked]
    rcases (s.acquires_iff k lost).1 h with h0 | h3 | ⟨-, hfound, hother⟩
    · omega
    · omega
    · rcases hsame with hlost | ⟨hgm, hparent⟩
      · simp [hfound] at hlost
      · simp [hgm, hparent] at hother
  · subst hx
    rw [exec_syncMissed hvalid, if_pos (by omega)]
  · subst hx
    rw [exec_syncMissed hvalid, if_neg (by omega)]
    exact congrArg Host.Outcome.next (if_pos hparent)
  · obtain ⟨hpps, hregs, htiles⟩ := s.edge_keeps (s.time.pps + 1)
    exact ⟨_, (exec_ppsEdge hon hstate hnear).trans (congrArg _ (if_neg (by omega))), hpps, hregs, htiles⟩
  · obtain ⟨-, -, htiles⟩ := s.edge_keeps (s.time.pps + 1)
    obtain ⟨hlocked, hkept⟩ := (s.edge (s.time.pps + 1)).referenced_shows
    exact ⟨_, (exec_ppsEdge hon hstate hnear).trans (congrArg _ (if_pos hmany)), hlocked, hkept.trans htiles⟩
  · have hframe := s.warmed.becomeGm_sourceFrame.ite (c := s.timeState ≤ 1 ∧ s.warmed.leads = true) (.refl s.warmed)
    refine ⟨_, exec_ovenWarm s, ?_, hframe.clock.1, fun hrun => if_neg (by omega)⟩
    rw [hframe.rest]
    rfl

end Sys2Proof.Machine
end

section
/-! SUPPORT. Power on and PERST# (R507, R510, R511, R526): what the boot sequence makes of the module, and what it keeps. -/

namespace Sys2Proof.Machine

/-! ### What a boot shows -/

/-- The parts of the module that a boot begins anew, its images, its seat, and whether it has power and a limit. -/
structure BootView where
  tiles : List (Nat × Tile)
  kv : List KvRes
  chans : List (Nat × Chan)
  descs : List Desc
  perst : Bool
  step : StepSt
  flashA : Flash
  flashB : Flash
  image : List Byte
  puf : Nat
  slotId : Nat
  powered : Bool
  trip : Option (Nat × Bool)

def State.bootView (s : State) : BootView where
  tiles := s.tiles
  kv := s.kv
  chans := s.chans
  descs := s.host.descs
  perst := s.host.perst
  step := s.step
  flashA := s.boot.flashA
  flashB := s.boot.flashB
  image := s.boot.image
  puf := s.boot.puf
  slotId := s.fab.slotId
  powered := s.fab.powered
  trip := s.fab.trip

/-- Boot's own state, the module's seat and its power, which nothing before the images load changes. -/
def State.seat (s : State) : BootSt × Nat × Bool × Option (Nat × Bool) := (s.boot, s.fab.slotId, s.fab.powered, s.fab.trip)

section
variable (s : State)

/-! ### Before the images load -/

theorem State.setMemCh_seat (k : Nat) (c : MemCh) : (s.setMemCh k c).seat = s.seat := rfl

theorem State.setStack_seat (m : Mem) (lanes : List (Nat × Nat)) (n : Nat) :
    ({ s with stack := m, mem := { s.mem with lanes := lanes }, drawn := n } : State).seat = s.seat := rfl

theorem State.post_seat (e : Ev) : (s.post e).seat = s.seat := by
  rw [State.seat, s.post_alert, State.post_eq, State.seat]

theorem State.memUncorr_seat (flags a : Nat) (lane : Option Nat) : (s.memUncorr flags a lane).seat = s.seat := by
  obtain ⟨c, -, -, heq⟩ := s.memUncorr_eq flags a lane
  rw [heq, State.post_seat, State.setMemCh_seat]

theorem State.meetErrors_seat (flags a : Nat) : (s.meetErrors flags a).seat = s.seat := by
  unfold State.meetErrors
  dsimp only
  split
  · exact (State.memUncorr_seat _ _ _ _).trans (s.setStack_seat _ _ _)
  · split
    · exact (State.setMemCh_seat _ _ _).trans (s.setStack_seat _ _ s.drawn)
    · rfl

theorem State.stackPut_seat (a : Nat) (bs : List Byte) (p : Bool) : (s.stackPut a bs p).seat = s.seat := by
  unfold State.stackPut
  dsimp only
  split
  · exact s.setStack_seat _ _ s.drawn
  · exact s.meetErrors_seat 0 a

theorem State.clearObjects_seat : s.clearObjects.seat = s.seat :=
  foldl_keeps (P := fun t : State => t.seat = s.seat) (fun t _ ht => (t.stackPut_seat _ _ _).trans ht) _ rfl

theorem State.SourceFrame.seat {s t : State} (h : s.SourceFrame t) : t.seat = s.seat := by
  rw [State.seat, h.fab, h.rest, State.seat]

theorem State.dropSources_seat (k : Kind) : (s.dropSources k).seat = s.seat := by
  unfold State.dropSources
  split
  · exact foldl_keeps (P := fun t : State => t.seat = s.seat) (fun t l ht => (t.linkTimeDown_sourceFrame l).seat.trans ht) _ rfl
  · rfl

/-- What a reset kind finds: no image half written, the sources of links dropped, and the object table cleared. -/
def State.beforeReset (k : Kind) : State :=
  let t := (if k.forgets then s.cutWrite else s).dropSources k
  if k.job ∨ k = .DP then t.clearObjects else t

theorem State.beforeReset_seat (k : Kind) (hwrite : s.boot.write = none) : (s.beforeReset k).seat = s.seat := by
  have hcut : (if k.forgets then s.cutWrite else s) = s := by
    rw [State.cutWrite, hwrite, ite_self]
  unfold State.beforeReset
  dsimp only
  rw [hcut]
  split
  · exact (State.clearObjects_seat _).trans (s.dropSources_seat k)
  · exact s.dropSources_seat k

/-- What a reset kind writes. -/
def State.wiped (t : State) (k : Kind) (img : Field → Nat → Nat) : State := { t with
  regs := t.regs.resetBy k img
  tiles := if k.tiles then [] else t.tiles
  mem := t.mem.resetBy k
  kv := if k.job ∨ k = .DP then [] else t.kv
  host := t.host.resetBy k
  chans := keepChans k t.step.on t.chans
  tree := if k.tiles then [] else t.tree
  net := t.net.resetBy k (t.step.resetBy k).colls
  step := t.step.resetBy k
  gate := if k.job then GateSt.reset else if k = .B then t.gate.release else t.gate
  res := t.res.resetBy k
  fab := { t.fab with
    parked := if k.job then false else t.fab.parked
    scrubFrom := if k.tiles then t.now else t.fab.scrubFrom
    repairs := if k.tiles then t.fab.repairs.map fun x => { x with copying := false } else t.fab.repairs } }

theorem State.resetBy_eq (k : Kind) (img : Field → Nat → Nat) : s.resetBy k img = (s.beforeReset k).wiped k img := rfl

/-- A module with no work, whose boot state and seat are `x`. -/
def emptyView (x : BootSt × Nat × Bool × Option (Nat × Bool)) : BootView where
  tiles := []
  kv := []
  chans := []
  descs := []
  perst := false
  step := StepSt.reset
  flashA := x.1.flashA
  flashB := x.1.flashB
  image := x.1.image
  puf := x.1.puf
  slotId := x.2.1
  powered := x.2.2.1
  trip := x.2.2.2

theorem HostSt.resetBy_boots (h : HostSt) {k : Kind} (hk : k = .P ∨ k = .F) :
    (h.resetBy k).perst = false ∧ (h.resetBy k).descs = [] := by
  rcases hk with rfl | rfl
  · exact ⟨Bool.and_false _, rfl⟩
  · exact ⟨by simp [HostSt.resetBy, Kind.forgets, Kind.setup], rfl⟩

theorem State.wiped_bootView (img : Field → Nat → Nat) {k : Kind} (hk : k = .P ∨ k = .F) :
    (s.wiped k img).bootView = emptyView s.seat := by
  obtain ⟨hperst, hdescs⟩ := s.host.resetBy_boots hk
  have htiles : k.tiles = true := by rcases hk with rfl | rfl <;> rfl
  have hjob : k.job = true := by rcases hk with rfl | rfl <;> rfl
  have hchans : keepChans k s.step.on s.chans = [] := if_pos hjob
  have hstep : s.step.resetBy k = StepSt.reset := if_pos hjob
  simp only [State.bootView, State.wiped, htiles, hjob, hperst, hdescs, hchans, hstep, if_true, true_or, emptyView, State.seat]

/-- P and F leave a module with no work. -/
theorem State.resetBy_bootView (img : Field → Nat → Nat) {k : Kind} (hk : k = .P ∨ k = .F) (hwrite : s.boot.write = none) :
    (s.resetBy k img).bootView = emptyView s.seat := by
  rw [State.resetBy_eq, State.wiped_bootView _ _ hk, s.beforeReset_seat k hwrite]

/-! ### The images load -/

theorem State.setMemCh_bootView (k : Nat) (c : MemCh) : (s.setMemCh k c).bootView = s.bootView := rfl

theorem State.setMem_bootView (m : MemSt) : ({ s with mem := m } : State).bootView = s.bootView := rfl

/-- What a health record restores. -/
def State.restored (spare : List (Nat × Nat)) (bad : List Nat) (r : RegFile) (res : ResSt) (secs trips : Nat) : State := { s with
  fab := { s.fab with
    spareMap := spare
    bad := bad }
  regs := r
  res := res
  boot := { s.boot with
    powerSecs := secs
    trips := trips } }

theorem State.restored_bootView (spare : List (Nat × Nat)) (bad : List Nat) (r : RegFile) (res : ResSt) (secs trips : Nat) :
    (s.restored spare bad r res secs trips).bootView = s.bootView := rfl

theorem State.loadHealth_bootView : s.loadHealth.bootView = s.bootView := by
  have hmarked (t : State) (l : List (Nat × Nat)) :
      (t.each l fun s x => s.setMemCh x.1 { s.memCh x.1 with mark := some x.2 }).bootView = t.bootView :=
    foldl_keeps (P := fun u : State => u.bootView = t.bootView) (fun u _ hu => (u.setMemCh_bootView _ _).trans hu) l rfl
  unfold State.loadHealth
  dsimp only
  split
  · exact (State.restored_bootView _ _ _ _ _ _ _).trans ((hmarked _ _).trans (s.setMem_bootView _))
  · rfl

/-- The image of a selection. -/
def bootImage (slot : Option Nat) (a b : List Byte) : List Byte :=
  match slot with
  | some 0 => a
  | some _ => b
  | none => []

/-- Boot's own state and the seat once an image is selected. -/
def State.imaged (r : RegFile) (image : List Byte) (pciId : List Byte) (fallback : Bool) (slot : Nat) : State := { s with
  regs := r
  boot := { s.boot with
    image := image
    pciId := pciId
    fallbackPost := fallback
    healthAt := s.now
    healthDirty := false
    spdm := 0
    vca := []
    certs := []
    measured := [] }
  fab := { s.fab with slotId := slot % 8 } }

theorem State.imaged_bootView (r : RegFile) (image pciId : List Byte) (fallback : Bool) (slot : Nat) :
    (s.imaged r image pciId fallback slot).bootView = { s.bootView with
      image := image
      slotId := slot % 8 } := rfl

theorem State.bootLoad_bootView {k : Kind} (slot : Nat) (failA failB : Bool) (hk : k = .P ∨ k = .F) (hwrite : s.boot.write = none) :
    (s.bootLoad k slot failA failB).bootView = { emptyView s.seat with
      image := bootImage (s.selectImage failA failB).slot s.boot.flashA.image s.boot.flashB.image
      slotId := slot % 8 } := by
  unfold State.bootLoad
  rw [State.loadHealth_bootView]
  refine (State.imaged_bootView _ _ _ _ _ _).trans ?_
  rw [s.resetBy_bootView _ hk hwrite]
  rfl

/-! ### The rest of the sequence -/

theorem State.setReg_bootView (f : Field) (v : Nat) : (s.setReg f v).bootView = s.bootView := rfl

theorem State.setRegAt_bootView (f : Field) (j v : Nat) : (s.setRegAt f j v).bootView = s.bootView := rfl

theorem State.setFlag_bootView (f : Field) (b : Bool) : (s.setFlag f b).bootView = s.bootView := rfl

theorem State.addReg_bootView (f : Field) (n : Nat) : (s.addReg f n).bootView = s.bootView := rfl

theorem State.trainLinks_bootView : s.trainLinks.bootView = s.bootView :=
  foldl_keeps (P := fun t : State => t.bootView = s.bootView) (fun t _ ht => (t.setRegAt_bootView _ _ _).trans ht) _ rfl

theorem State.setStack_bootView (m : Mem) (x : MemSt) (n : Nat) :
    ({ s with stack := m, mem := x, drawn := n } : State).bootView = s.bootView := rfl

theorem State.poisonArea_bootView (channel : Nat) : (s.poisonArea channel).bootView = s.bootView := by
  unfold State.poisonArea State.draw
  exact s.setStack_bootView _ _ _

/-- Rails and pace come up. -/
def State.railsUp : State := { s with
  mem := { s.mem with
    selfRefresh := false
    off := false }
  fab := { s.fab with rails := [] } }

theorem State.railsUp_bootView : s.railsUp.bootView = s.bootView := rfl

theorem State.bootDies_bootView (lost : Bool) : (s.bootDies lost).bootView = s.bootView := by
  have hup : s.trainLinks.railsUp.bootView = s.bootView := (State.railsUp_bootView _).trans s.trainLinks_bootView
  unfold State.bootDies
  split
  · rfl
  · dsimp only
    split
    · exact (State.poisonArea_bootView _ _).trans hup
    · exact hup

theorem State.deriveKey_bootView (puf : Nat) : (s.deriveKey puf).bootView = { s.bootView with puf := puf } := rfl

theorem State.noteKind_bootView (code : Nat) : (s.noteKind code).bootView = s.bootView :=
  (State.addReg_bootView _ _ _).trans (s.setReg_bootView _ _)

theorem State.setLink_bootView (l : Nat) (x : LinkSt) : (s.setLink l x).bootView = s.bootView := rfl

theorem State.setPeers_bootView (n : NetSt) : ({ s with net := n } : State).bootView = s.bootView := rfl

theorem State.probe_bootView (bank : Nat) : (s.probe bank).bootView = s.bootView := by
  refine foldl_keeps (P := fun t : State => t.bootView = s.bootView) (fun t _ ht => (t.setLink_bootView _ _).trans ht) _ ?_
  split
  · exact s.setPeers_bootView _
  · exact s.setPeers_bootView _

theorem State.startCheck_bootView : s.startCheck.bootView = s.bootView := by
  unfold State.startCheck
  split
  · rfl
  · exact (State.probe_bootView _ _).trans ((State.setReg_bootView _ _ _).trans (s.setFlag_bootView _ _))

theorem State.atReady_bootView (early : Bool) : (s.atReady early).bootView = s.bootView := by
  unfold State.atReady
  split
  · exact s.startCheck_bootView
  · rfl

/-! ### Selection -/

theorem State.selectImage_slot (failA failB : Bool) : (s.selectImage failA failB).slot =
    selectSlot (s.regs.get Reg.BOOT_RESET_CTL_NEXT_SLOT) (imageReason failA s.counter s.boot.flashA.image)
      (imageReason failB s.counter s.boot.flashB.image) (imgSeq s.boot.flashA.image) (imgSeq s.boot.flashB.image) := rfl

/-- Power has come: nothing is kept but the flash devices and the registers that the reset has yet to clear. -/
def State.poweredUp : State :=
  let low := s.fab.alertPulse || s.regs.flag Reg.SAF_SAFE_STATUS_ACTIVE
  State.loseStack { (if low then s.emit (.alert false) else s) with
    mem := { MemSt.reset with chans := s.mem.chans }
    host := HostSt.reset
    time := TimeSt.reset
    boot := { BootSt.reset with
      flashA := s.boot.flashA
      flashB := s.boot.flashB
      write := s.boot.write }
    fab := { FabSt.reset with
      present := s.fab.present
      hotSwap := s.fab.hotSwap
      powered := true } }

theorem State.poweredUp_seat : s.poweredUp.seat = ({ BootSt.reset with
    flashA := s.boot.flashA
    flashB := s.boot.flashB
    write := s.boot.write }, 0, true, none) := rfl

theorem State.poweredUp_boot : s.poweredUp.boot = { BootSt.reset with
    flashA := s.boot.flashA
    flashB := s.boot.flashB
    write := s.boot.write } := congrArg Prod.fst s.poweredUp_seat

theorem State.poweredUp_regs : s.poweredUp.regs =
    (s.regs.set Reg.TRN_COMMITTED_STEP 0).setFlag Reg.TRN_STEP_STATUS_COMMITTED_VALID false := by
  unfold State.poweredUp
  dsimp only
  split <;> rfl

/-- The selection is made from the flash devices and NEXT_SLOT, which the loss of power leaves for the boot to read. -/
theorem State.poweredUp_slot (failA failB : Bool) :
    (s.poweredUp.selectImage failA failB).slot = (s.selectImage failA failB).slot := by
  have hnext : s.poweredUp.regs.get Reg.BOOT_RESET_CTL_NEXT_SLOT = s.regs.get Reg.BOOT_RESET_CTL_NEXT_SLOT := by
    rw [State.poweredUp_regs, RegFile.get_setFlag_misses _ _ (by decide), RegFile.get_set_misses _ _ (by decide)]
  rw [State.selectImage_slot, State.selectImage_slot, hnext, State.counter, s.poweredUp_boot, State.counter]

end

section
variable {s : State}

theorem exec_powerOn (puf slot : Nat) (failA failB early : Bool) (hswap : s.fab.hotSwap = true)
    (hclosed : s.fab.breakerOpen = false) : exec (.powerOn puf slot failA failB early) s =
      .next ((((s.poweredUp.bootLoad .P slot failA failB).bootDies true).deriveKey puf).atReady early) :=
  congrArg Host.Outcome.next (if_neg (by simp [hswap, hclosed]))

theorem exec_perstDeassert (slot : Nat) (failA failB early : Bool) (hperst : s.host.perst = true) :
    exec (.perstDeassert slot failA failB early) s =
      .next ((((s.bootLoad .F slot failA failB).bootDies false).noteKind 1).atReady early) :=
  congrArg Host.Outcome.next (if_neg (by simp [hperst]))

theorem exec_perstAssert (hpower : s.fab.powered = true) : exec .perstAssert s = .next { s with
    host := { s.host with perst := true }
    mem := { s.mem with selfRefresh := true } } :=
  congrArg Host.Outcome.next (if_neg (by simp [hpower]))

theorem State.powerOn_bootView (puf slot : Nat) (failA failB early : Bool) (hwrite : s.boot.write = none) :
    ((((s.poweredUp.bootLoad .P slot failA failB).bootDies true).deriveKey puf).atReady early).bootView =
      { emptyView s.poweredUp.seat with
        image := bootImage (s.selectImage failA failB).slot s.boot.flashA.image s.boot.flashB.image
        slotId := slot % 8
        puf := puf } := by
  have hnone : s.poweredUp.boot.write = none := by rw [State.poweredUp_boot, hwrite]
  rw [State.atReady_bootView, State.deriveKey_bootView, State.bootDies_bootView,
    State.bootLoad_bootView _ slot failA failB (.inl rfl) hnone, State.poweredUp_slot, State.poweredUp_boot]

theorem State.perstDeassert_bootView (slot : Nat) (failA failB early : Bool) (hwrite : s.boot.write = none) :
    ((((s.bootLoad .F slot failA failB).bootDies false).noteKind 1).atReady early).bootView =
      { emptyView s.seat with
        image := bootImage (s.selectImage failA failB).slot s.boot.flashA.image s.boot.flashB.image
        slotId := slot % 8 } := by
  rw [State.atReady_bootView, State.noteKind_bootView, State.bootDies_bootView, s.bootLoad_bootView slot failA failB (.inr rfl) hwrite]

end

/-- Settles O21: the reset kinds P and F leave no work, the image that is selected loads, and the rest of the sequence keeps both. -/
theorem powerOnAndPerst : Obligations.PowerOnAndPerst := by
  unfold Obligations.PowerOnAndPerst
  intro s slot failA failB early a b sel booted
  refine ⟨fun puf hswap hclosed hwrite => ?_, fun hperst hwrite => ?_, exec_perstAssert⟩
  · have hview := State.powerOn_bootView puf slot failA failB early hwrite
    rw [State.poweredUp_seat] at hview
    simp only [State.bootView, emptyView, BootView.mk.injEq] at hview
    obtain ⟨htiles, hkv, hchans, hdescs, hperst, hstep, hflashA, hflashB, himage, hpuf, hslot, hpowered, htrip⟩ := hview
    exact ⟨_, exec_powerOn puf slot failA failB early hswap hclosed,
      ⟨htiles, hkv, hchans, hdescs, hstep, hflashA, hflashB, hslot, himage⟩, hpowered, hperst, hpuf, htrip⟩
  · have hview := State.perstDeassert_bootView slot failA failB early hwrite
    simp only [State.bootView, emptyView, State.seat, BootView.mk.injEq] at hview
    obtain ⟨htiles, hkv, hchans, hdescs, hclear, hstep, hflashA, hflashB, himage, hpuf, hslot, hpowered, -⟩ := hview
    exact ⟨_, exec_perstDeassert slot failA failB early hperst,
      ⟨htiles, hkv, hchans, hdescs, hstep, hflashA, hflashB, hslot, himage⟩, hclear, hpuf, hpowered⟩

end Sys2Proof.Machine
end
